-- ==== Sys2Proof/Word.lean ====
section
/-!
DEFINITION. The word types of the Laroz and their plainest arithmetic (spec/00_scope.md R2, R3, R10).
-/

namespace Sys2Proof

/-- One byte of memory (R2). -/
abbrev Byte := BitVec 8

/-- The 64-bit value of a scalar register, of a control register, of a status word (R76, R164). -/
abbrev Word := BitVec 64

/-- One vector register, 512 bytes; element i of w bits lies at bits [(i+1)w - 1 : iw] (R3, R164). -/
abbrev VReg := BitVec 4096

/-- One mask register, 1024 bits (R164). -/
abbrev MReg := BitVec 1024

/-- The elements of one accumulator, 4 KiB (R130). -/
abbrev AccBits := BitVec 32768

/-- A 72-bit scalar register or generic address: space byte and value (R76, R171). -/
structure Ptr where
  sb : BitVec 8
  v : Word
  deriving DecidableEq, Repr

/-- The register that reads zero with a zero space byte (R164). -/
def Ptr.zero : Ptr := { sb := 0, v := 0 }

/-- An integer result: a zero space byte (R171). -/
def Ptr.int (v : Word) : Ptr := { sb := 0, v := v }

/-- Effective address: the sum never carries into the space byte (R76). -/
def Ptr.add (p : Ptr) (d : Word) : Ptr := { p with v := p.v + d }

end Sys2Proof
end

