-- ==== Sys2Proof/Machine/Numbers.lean ====
section
/-!
DEFINITION. The number formats of R44-R49 and the rounding of R54-R63: every operation forms its exact real result and
rounds it once. Special functions (R67) are evaluated in fixed point with 320 fraction bits, far beyond what the
narrow formats need to round correctly, and are marked inexact wherever the exact value is irrational.
-/

namespace Sys2Proof.Machine

/-! ### Formats -/

/-- What the top exponent value encodes (R45). -/
inductive Top where
  | ieee      -- infinities and NaNs
  | nanOnly   -- numbers, and NaN with every bit set (E4M3)
  | numbers   -- numbers only
  deriving DecidableEq, Repr

/-- A floating format: exponent bits, fraction bits, top exponent (R45). -/
structure Fmt where
  eb : Nat
  fb : Nat
  top : Top
  deriving DecidableEq, Repr

def f64 : Fmt := { eb := 11, fb := 52, top := .ieee }
def f32 : Fmt := { eb := 8, fb := 23, top := .ieee }
def bf16 : Fmt := { eb := 8, fb := 7, top := .ieee }
def f16 : Fmt := { eb := 5, fb := 10, top := .ieee }
def e4m3 : Fmt := { eb := 4, fb := 3, top := .nanOnly }
def e5m2 : Fmt := { eb := 5, fb := 2, top := .ieee }
def e3m2 : Fmt := { eb := 3, fb := 2, top := .numbers }
def e2m3 : Fmt := { eb := 2, fb := 3, top := .numbers }
def e2m1 : Fmt := { eb := 2, fb := 1, top := .numbers }

/-- Bits of an element. -/
def Fmt.width (f : Fmt) : Nat := 1 + f.eb + f.fb

def Fmt.bias (f : Fmt) : Nat := 2 ^ (f.eb - 1) - 1

/-- The exponent of the last place of subnormals: 1 - b - f (R45). -/
def Fmt.qmin (f : Fmt) : Int := 1 - (f.bias : Int) - (f.fb : Int)

/-- The code of the greatest finite magnitude. -/
def Fmt.maxCode (f : Fmt) : Nat :=
  match f.top with
  | .ieee => (2 ^ f.eb - 1) * 2 ^ f.fb - 1
  | .nanOnly => 2 ^ (f.eb + f.fb) - 2
  | .numbers => 2 ^ (f.eb + f.fb) - 1

/-- The code of an infinity's magnitude. -/
def Fmt.infCode (f : Fmt) : Nat := (2 ^ f.eb - 1) * 2 ^ f.fb

/-- The canonical quiet NaN (R46); formats without one are never asked. -/
def Fmt.nanCode (f : Fmt) : Nat :=
  match f.top with
  | .ieee => f.infCode + 2 ^ (f.fb - 1)
  | .nanOnly => 2 ^ (f.eb + f.fb) - 1
  | .numbers => 0

/-- A code with its sign bit. -/
def Fmt.signed (f : Fmt) (neg : Bool) (code : Nat) : Nat := if neg then code + 2 ^ (f.eb + f.fb) else code

/-- An element type, by ET code (R44). -/
inductive ElemType where
  | float (f : Fmt)
  | int (w : Nat)
  | cb2
  | u8
  deriving DecidableEq, Repr

/-- The element type of a code (R44). -/
def elemType (et : Fin 16) : ElemType :=
  match et.val with
  | 0 => .float f64 | 1 => .float f32 | 2 => .float bf16 | 3 => .float f16
  | 4 => .float e4m3 | 5 => .float e5m2 | 6 => .float e3m2 | 7 => .float e2m3 | 8 => .float e2m1
  | 9 => .int 64 | 10 => .int 32 | 11 => .int 16 | 12 => .int 8 | 13 => .int 4 | 14 => .cb2 | _ => .u8

/-- Bits that an element takes in memory (R44). -/
def ElemType.memBits : ElemType → Nat
  | .float f => f.width
  | .int w => w
  | .cb2 => 16
  | .u8 => 8

/-- Bits that an element takes in a register: an FP6 element takes a byte (R48). -/
def ElemType.regBits (t : ElemType) : Nat := if t.memBits = 6 then 8 else t.memBits

/-- Elements of a register (R44). -/
def ElemType.count (t : ElemType) : Nat := 4096 / t.regBits

/-! ### Values -/

/-- A value: a NaN, an infinity, or (-1)^neg x m x 2^e. -/
inductive Num where
  | nan (signalling : Bool)
  | inf (neg : Bool)
  | fin (neg : Bool) (m : Nat) (e : Int)
  deriving DecidableEq, Repr

/-- The value of an element's bits (R45). -/
def Fmt.value (f : Fmt) (x : Nat) : Num :=
  let neg := (x / 2 ^ (f.eb + f.fb)) % 2 == 1
  let e := x / 2 ^ f.fb % 2 ^ f.eb
  let m := x % 2 ^ f.fb
  let number := if e = 0 then Num.fin neg m f.qmin else Num.fin neg (2 ^ f.fb + m) (f.qmin + (e : Int) - 1)
  match f.top with
  | .ieee =>
    if e = 2 ^ f.eb - 1 then (if m = 0 then .inf neg else .nan (m < 2 ^ (f.fb - 1))) else number
  | .nanOnly => if e = 2 ^ f.eb - 1 ∧ m = 2 ^ f.fb - 1 then .nan false else number
  | .numbers => number

/-- Flags raised, as FPCTL[12:8] lays them out: NX 1, UF 2, OF 4, DZ 8, NV 16 (R58). -/
abbrev Flags := Nat

def flagNX : Flags := 1
def flagUF : Flags := 2
def flagOF : Flags := 4
def flagDZ : Flags := 8
def flagNV : Flags := 16

/-- Rounding modes by code (R54): 0 RNE, 1 RTZ, 2 RUP, 3 RDN, 4 RNA, 5 SR. -/
abbrev Mode := Nat

/-- Whether the magnitude n + (rem / 2^k), with `sticky` a nonzero rest below that, rounds up to n + 1. -/
def roundsUp (mode : Mode) (neg : Bool) (n rem k : Nat) (sticky : Bool) : Bool :=
  let half := 2 ^ k
  let above := decide (half < 2 * rem) || (decide (half = 2 * rem) && sticky)
  let tie := decide (half = 2 * rem) && !sticky
  let inexact := decide (rem ≠ 0) || sticky
  match mode with
  | 1 => false
  | 2 => inexact && !neg
  | 3 => inexact && neg
  | 4 => above || tie
  | _ => above || (tie && decide (n % 2 = 1))

/-- 1 for true. -/
def bool01 (b : Bool) : Nat := if b then 1 else 0

/-- A rounding of the magnitude m x 2^e (plus a rest where sticky) to a multiple of 2^q: the multiple, and whether the
result is inexact. `u` is the draw of R56, used by SR alone. -/
def roundAt (mode : Mode) (neg : Bool) (m : Nat) (e : Int) (sticky : Bool) (q : Int) (u : Nat) : Nat × Bool :=
  if q ≤ e then (m * 2 ^ (e - q).toNat, sticky)
  else if (Nat.log2 m : Int) + e + 2 < q ∧ mode ≠ 5 then
    let inexact := decide (m ≠ 0) || sticky
    (bool01 (roundsUp mode neg 0 (bool01 inexact) 2 false), inexact)
  else
    let k := min (q - e).toNat (Nat.log2 m + 40)
    let rem := m % 2 ^ k
    let n := if k = (q - e).toNat then m / 2 ^ k else 0
    let rem := if k = (q - e).toNat then rem else bool01 (decide (m ≠ 0))
    let inexact := decide (rem ≠ 0) || sticky
    if mode = 5 then (n + bool01 (decide (u < rem * 2 ^ 32 / 2 ^ k)), inexact)
    else (n + bool01 (roundsUp mode neg n rem k sticky), inexact)

/-- What a rounded result that exceeds the greatest finite magnitude delivers (R62). -/
def Fmt.overflowCode (f : Fmt) (mode : Mode) (neg sat : Bool) : Nat :=
  match f.top with
  | .ieee =>
    if sat then f.maxCode
    else if mode = 0 ∨ mode = 4 ∨ mode = 5 ∨ (mode = 2 ∧ !neg) ∨ (mode = 3 ∧ neg) then f.infCode
    else f.maxCode
  | .nanOnly => if sat then f.maxCode else f.nanCode
  | .numbers => f.maxCode

/-- Whether a magnitude exceeds the greatest finite value (R56). -/
def Fmt.exceedsMax (f : Fmt) (m : Nat) (e : Int) (sticky : Bool) : Bool :=
  match f.value f.maxCode with
  | .fin _ mm me =>
    if me ≤ e then decide (mm < m * 2 ^ (e - me).toNat) || (decide (mm = m * 2 ^ (e - me).toNat) && sticky)
    else if (Nat.log2 m : Int) + e < (Nat.log2 mm : Int) + me then false
    else decide (mm * 2 ^ (me - e).toNat < m) || (decide (mm * 2 ^ (me - e).toNat = m) && sticky)
  | _ => false

/-- RoundToFormat of a finite magnitude m x 2^e, with a rest below it where sticky (R55, R59, R62). -/
def Fmt.roundMag (f : Fmt) (mode : Mode) (sat neg : Bool) (m : Nat) (e : Int) (sticky : Bool) (u : Nat) :
    Nat × Flags :=
  if m = 0 ∧ !sticky then (f.signed neg 0, 0)
  else
    let qu : Int := (Nat.log2 m : Int) + e - (f.fb : Int)
    let q := max qu f.qmin
    let big := decide (mode = 5) && f.exceedsMax m e sticky
    let mode := if big then 0 else mode
    let r := roundAt mode neg m e sticky q u
    let code := (q - f.qmin).toNat * 2 ^ f.fb + r.1
    if f.maxCode < code then
      let c := f.overflowCode mode neg sat
      -- the canonical NaN carries sign 0 (R46)
      let out := if f.top = .nanOnly ∧ !sat then c else f.signed neg c
      (out, if sat then flagNX else flagOF + flagNX)
    else
      let tiny :=
        if f.qmin ≤ qu then false
        else
          let t := roundAt (if mode = 5 then 0 else mode) neg m e sticky qu 0
          decide ((Nat.log2 t.1 : Int) + qu < f.qmin + (f.fb : Int))
      let fl := if r.2 then (if tiny then flagNX + flagUF else flagNX) else 0
      (f.signed neg code, fl)

/-- The result of arithmetic on a value: canonical NaN, an infinity, or the rounded number (R46, R55). -/
def Fmt.round (f : Fmt) (mode : Mode) (x : Num) (u : Nat) : Nat × Flags :=
  match x with
  | .nan s => (f.nanCode, if s then flagNV else 0)
  | .inf neg => (f.signed neg f.infCode, 0)
  | .fin neg m e => f.roundMag mode false neg m e false u

/-- A conversion into a format: special inputs and the saturate choice of R62. -/
def Fmt.convert (f : Fmt) (mode : Mode) (sat : Bool) (x : Num) (u : Nat) : Nat × Flags :=
  match x with
  | .nan s =>
    match f.top with
    | .numbers => (0, flagNV)
    | _ => (f.nanCode, if s then flagNV else 0)
  | .inf neg =>
    match f.top with
    | .ieee => (f.signed neg f.infCode, 0)
    | .nanOnly => if sat then (f.signed neg f.maxCode, flagNX) else (f.nanCode, flagNV)
    | .numbers => (f.signed neg f.maxCode, flagNX)
  | .fin neg m e => f.roundMag mode sat neg m e false u

/-! ### Exact arithmetic -/

/-- Any NaN among operands makes the result a NaN, with NV where one is signalling (R61). -/
def Num.isNan : Num → Bool
  | .nan _ => true
  | _ => false

def Num.isSnan : Num → Bool
  | .nan s => s
  | _ => false

def Num.isZero : Num → Bool
  | .fin _ m _ => decide (m = 0)
  | _ => false

def Num.isNeg : Num → Bool
  | .nan _ => false
  | .inf n => n
  | .fin n _ _ => n

/-- The value with its sign inverted; a NaN stays. -/
def Num.neg : Num → Num
  | .nan s => .nan s
  | .inf n => .inf (!n)
  | .fin n m e => .fin (!n) m e

/-- The signed integer of a finite value over 2^e. -/
def scaled (neg : Bool) (m : Nat) (e base : Int) : Int :=
  let x : Int := ((m * 2 ^ (e - base).toNat : Nat) : Int)
  if neg then -x else x

/-- The exact sum; an exact zero from operands of unlike sign takes the sign `zneg` (R61). -/
def Num.add (zneg : Bool) (x y : Num) : Num × Flags :=
  match x, y with
  | .nan a, .nan b => (.nan (a || b), if a || b then flagNV else 0)
  | .nan a, _ => (.nan a, if a then flagNV else 0)
  | _, .nan b => (.nan b, if b then flagNV else 0)
  | .inf a, .inf b => if a = b then (.inf a, 0) else (.nan false, flagNV)
  | .inf a, _ => (.inf a, 0)
  | _, .inf b => (.inf b, 0)
  | .fin a m e, .fin b n g =>
    if m = 0 ∧ n = 0 then (.fin (if a = b then a else zneg) 0 0, 0)
    else if m = 0 then (.fin b n g, 0)
    else if n = 0 then (.fin a m e, 0)
    else
      let base := min e g
      let z := scaled a m e base + scaled b n g base
      if z = 0 then (.fin zneg 0 0, 0) else (.fin (decide (z < 0)) z.natAbs base, 0)

/-- The exact product (R61). -/
def Num.mul (x y : Num) : Num × Flags :=
  match x, y with
  | .nan a, .nan b => (.nan (a || b), if a || b then flagNV else 0)
  | .nan a, _ => (.nan a, if a then flagNV else 0)
  | _, .nan b => (.nan b, if b then flagNV else 0)
  | .inf a, .inf b => (.inf (a != b), 0)
  | .inf a, .fin b n _ => if n = 0 then (.nan false, flagNV) else (.inf (a != b), 0)
  | .fin a m _, .inf b => if m = 0 then (.nan false, flagNV) else (.inf (a != b), 0)
  | .fin a m e, .fin b n g => (.fin (a != b) (m * n) (e + g), 0)

/-- The exact a x b + c. A product 0 x infinity is invalid even where c is a quiet NaN (R179). -/
def Num.fma (zneg : Bool) (x y z : Num) : Num × Flags :=
  let p := Num.mul x y
  let s := Num.add zneg p.1 z
  (s.1, p.2 ||| s.2)

/-- A result whose fraction goes on beyond what is held. -/
structure Approx where
  neg : Bool
  m : Nat
  e : Int
  sticky : Bool
  deriving DecidableEq, Repr

/-- The quotient of finite values, the divisor not zero, to 160 bits and a sticky rest. -/
def quotient (a : Bool) (m : Nat) (e : Int) (b : Bool) (n : Nat) (g : Int) : Approx :=
  let k := Nat.log2 n + 160
  { neg := a != b, m := m * 2 ^ k / n, e := e - g - (k : Int), sticky := decide (m * 2 ^ k % n ≠ 0) }

/-- The integer square root by bits: the greatest r < 2^(i+1) added to `r` with square at most n. -/
def isqrtFrom (n : Nat) : Nat → Nat → Nat
  | 0, r => if (r + 1) * (r + 1) ≤ n then r + 1 else r
  | i + 1, r =>
    let c := r + 2 ^ (i + 1)
    isqrtFrom n i (if c * c ≤ n then c else r)

def isqrt (n : Nat) : Nat := isqrtFrom n (Nat.log2 n / 2 + 1) 0

/-- The square root of a positive finite value to 160 bits. -/
def rootOf (m : Nat) (e : Int) : Approx :=
  let k : Nat := 320 + (if (e % 2) = 0 then 0 else 1)
  let n := m * 2 ^ k
  let r := isqrt n
  { neg := false, m := r, e := (e - (k : Int)) / 2, sticky := decide (r * r ≠ n) }

/-- The reciprocal square root of a positive finite value. -/
def rrootOf (m : Nat) (e : Int) : Approx :=
  let odd : Nat := if (e % 2) = 0 then 0 else 1
  let k : Nat := 2 * (Nat.log2 m + 200)
  let n := 2 ^ k / (m * 2 ^ odd)
  let r := isqrt n
  { neg := false, m := r, e := ((odd : Int) - e - (k : Int)) / 2, sticky := decide (r * r * (m * 2 ^ odd) ≠ 2 ^ k) }

/-- The rounding of an approximate result. -/
def Fmt.roundApprox (f : Fmt) (mode : Mode) (a : Approx) (u : Nat) : Nat × Flags :=
  f.roundMag mode false a.neg a.m a.e a.sticky u

/-- RoundToFormat of a quotient of values (R61, R67). -/
def Fmt.div (f : Fmt) (mode : Mode) (x y : Num) : Nat × Flags :=
  match x, y with
  | .nan a, .nan b => (f.nanCode, if a || b then flagNV else 0)
  | .nan a, _ => (f.nanCode, if a then flagNV else 0)
  | _, .nan b => (f.nanCode, if b then flagNV else 0)
  | .inf _, .inf _ => (f.nanCode, flagNV)
  | .inf a, .fin b _ _ => (f.signed (a != b) f.infCode, 0)
  | .fin a _ _, .inf b => (f.signed (a != b) 0, 0)
  | .fin a m e, .fin b n g =>
    if n = 0 then (if m = 0 then (f.nanCode, flagNV) else (f.signed (a != b) f.infCode, flagDZ))
    else if m = 0 then (f.signed (a != b) 0, 0)
    else f.roundApprox mode (quotient a m e b n g) 0

/-- RoundToFormat of a square root (R61, R67). -/
def Fmt.sqrt (f : Fmt) (mode : Mode) (x : Num) : Nat × Flags :=
  match x with
  | .nan a => (f.nanCode, if a then flagNV else 0)
  | .inf neg => if neg then (f.nanCode, flagNV) else (f.infCode, 0)
  | .fin neg m e =>
    if m = 0 then (f.signed neg 0, 0)
    else if neg then (f.nanCode, flagNV)
    else f.roundApprox mode (rootOf m e) 0

/-! ### Comparisons, minimum and maximum -/

/-- Whether one number is below another; never of a NaN. -/
def Num.lt (x y : Num) : Bool :=
  match x, y with
  | .inf a, .inf b => a && !b
  | .inf a, .fin _ _ _ => a
  | .fin _ _ _, .inf b => !b
  | .fin a m e, .fin b n g =>
    let base := min e g
    decide (scaled a m e base < scaled b n g base)
  | _, _ => false

def Num.eq (x y : Num) : Bool :=
  match x, y with
  | .inf a, .inf b => a == b
  | .fin a m e, .fin b n g =>
    let base := min e g
    decide (scaled a m e base = scaled b n g base)
  | _, _ => false

/-- minimumNumber and maximumNumber of element bits, -0 below +0 (R68). -/
def Fmt.minmax (f : Fmt) (max : Bool) (a b : Nat) : Nat × Flags :=
  let x := f.value a
  let y := f.value b
  let fl := if x.isSnan || y.isSnan then flagNV else 0
  if x.isNan then (if y.isNan then (f.nanCode, fl) else (b, fl))
  else if y.isNan then (a, fl)
  else
    let less := Num.lt x y || (Num.eq x y && x.isNeg && !y.isNeg)
    (if less != max then a else b, fl)

/-- The class mask of R180. -/
def Fmt.classMask (f : Fmt) (a : Nat) : Nat :=
  let neg := (a / 2 ^ (f.eb + f.fb)) % 2 == 1
  let sub := decide (a / 2 ^ f.fb % 2 ^ f.eb = 0)
  let s := if neg then 2 ^ 11 else 0
  s + match f.value a with
    | .nan true => 2 ^ 9
    | .nan false => 2 ^ 8
    | .inf _ => if neg then 2 ^ 7 else 2 ^ 3
    | .fin _ m _ => 2 ^ 10 + (if neg then 16 else 1) * (if m = 0 then 1 else if sub then 2 else 4)

/-! ### Integers -/

/-- The rounding of a finite value to an integer, and whether it differs from the value (R63). -/
def roundToInt (mode : Mode) (neg : Bool) (m : Nat) (e : Int) (u : Nat) : Int × Bool :=
  let r := roundAt mode neg m e false 0 u
  (if neg then -(r.1 : Int) else (r.1 : Int), r.2)

/-- A conversion to an integer range, saturating (R63). -/
def toInteger (mode : Mode) (lo hi : Int) (x : Num) (u : Nat) : Int × Flags :=
  match x with
  | .nan _ => (0, flagNV)
  | .inf neg => (if neg then lo else hi, flagNV)
  | .fin neg m e =>
    if 2048 < (Nat.log2 m : Int) + e then (if neg then lo else hi, flagNV)
    else
      let r := roundToInt mode neg m e u
      if r.1 < lo then (lo, flagNV) else if hi < r.1 then (hi, flagNV) else (r.1, if r.2 then flagNX else 0)

/-- The value of an integer. -/
def Num.ofInt (x : Int) : Num := .fin (decide (x < 0)) x.natAbs 0

/-- The low w bits of an integer. -/
def intBits (w : Nat) (x : Int) : Nat := (x % (2 ^ w : Nat)).toNat

/-- The signed integer that w bits hold. -/
def sintOf (w : Nat) (x : Nat) : Int := if x % 2 ^ w < 2 ^ (w - 1) then ((x % 2 ^ w : Nat) : Int) else ((x % 2 ^ w : Nat) : Int) - (2 ^ w : Nat)

/-- The range of a signed integer type (R49). -/
def sintMin (w : Nat) : Int := -((2 ^ (w - 1) : Nat) : Int)

def sintMax (w : Nat) : Int := ((2 ^ (w - 1) : Nat) : Int) - 1

/-- Clamped to a range (R49). -/
def clamp (lo hi x : Int) : Int := if x < lo then lo else if hi < x then hi else x

/-! ### Special functions (R67) -/

/-- Fraction bits of the fixed-point evaluation. -/
def prec : Nat := 320

/-- The series z + z^3/3 + z^5/5 + ... of the inverse hyperbolic tangent, in fixed point: `n` terms from index k. -/
def atanhSeries (z2 : Nat) : Nat → Nat → Nat → Nat
  | 0, _, _ => 0
  | n + 1, k, p => p / (2 * k + 1) + atanhSeries z2 n (k + 1) (p * z2 / 2 ^ prec)

/-- atanh z for 0 <= z <= 1/3, in fixed point. -/
def atanhFix (z : Nat) : Nat := atanhSeries (z * z / 2 ^ prec) 110 0 z

/-- ln 2 = 2 atanh (1/3). -/
def ln2Fix : Nat := 2 * atanhFix (2 ^ prec / 3)

/-- arctan (1/d) by its alternating series, in fixed point: the sum of the terms of one parity. -/
def atanSeries (d2 : Nat) : Nat → Nat → Nat → Nat
  | 0, _, _ => 0
  | n + 1, k, p => p / (2 * k + 1) + atanSeries d2 n (k + 2) (p / (d2 * d2))

def atanFix (d n : Nat) : Nat := atanSeries (d * d) n 0 (2 ^ prec / d) - atanSeries (d * d) n 1 (2 ^ prec / (d * d * d))

/-- pi = 16 arctan (1/5) - 4 arctan (1/239). -/
def piFix : Nat := 16 * atanFix 5 40 - 4 * atanFix 239 14

/-- exp t for 0 <= t < 1 by its series. -/
def expSeries (t : Nat) : Nat → Nat → Nat → Nat
  | 0, _, _ => 0
  | n + 1, k, p => p + expSeries t n (k + 1) (p * t / 2 ^ prec / (k + 1))

def expFix (t : Nat) : Nat := expSeries t 90 0 (2 ^ prec)

/-- sin t for 0 <= t < 2 by its series, positive and negative terms apart. -/
def sinSeries (t2 : Nat) : Nat → Nat → Nat → Nat
  | 0, _, _ => 0
  | n + 1, k, p =>
    p + sinSeries t2 n (k + 2)
      (p * t2 / 2 ^ prec / ((2 * k + 2) * (2 * k + 3)) * t2 / 2 ^ prec / ((2 * k + 4) * (2 * k + 5)))

def sinFix (t : Nat) : Nat :=
  let t2 := t * t / 2 ^ prec
  sinSeries t2 30 0 t - sinSeries t2 30 1 (t * t2 / 2 ^ prec / 6)

/-- 2^x of a finite value: x = n + f with 0 <= f < 1. A rational result is exact: x an integer. -/
def exp2Of (neg : Bool) (m : Nat) (e : Int) : Approx :=
  if 0 ≤ e then
    -- an integer; magnitudes beyond 2^20 are cut there, far outside every format
    let n : Int := if 20 < (Nat.log2 m : Int) + e then 2 ^ 20 else ((m * 2 ^ e.toNat : Nat) : Int)
    { neg := false, m := 1, e := if neg then -n else n, sticky := false }
  else
    let k := (-e).toNat
    let n : Int := ((m / 2 ^ k : Nat) : Int)
    let r := m % 2 ^ k
    if r = 0 then { neg := false, m := 1, e := if neg then -n else n, sticky := false }
    else
      let r := if neg then 2 ^ k - r else r
      let n := if neg then -n - 1 else n
      let fr := if k ≤ prec then r * 2 ^ (prec - k) else r / 2 ^ (k - prec)
      { neg := false, m := expFix (fr * ln2Fix / 2 ^ prec), e := n - (prec : Int), sticky := true }

/-- log2 of a positive finite value. -/
def log2Of (m : Nat) (e : Int) : Approx :=
  let l := Nat.log2 m
  let n : Int := (l : Int) + e
  if m = 2 ^ l then { neg := decide (n < 0), m := n.natAbs, e := 0, sticky := false }
  else
    -- y = m / 2^l; z = (y - 1) / (y + 1)
    let z := (m - 2 ^ l) * 2 ^ prec / (m + 2 ^ l)
    let fr := 2 * atanhFix z * 2 ^ prec / ln2Fix
    let r : Int := n * ((2 ^ prec : Nat) : Int) + (fr : Int)
    if r < 0 then { neg := true, m := (-r).toNat - 1, e := -(prec : Int), sticky := true }
    else { neg := false, m := r.toNat, e := -(prec : Int), sticky := true }

/-- sin (pi x) of a finite value that is neither an integer nor a half-integer is irrational. -/
def sinpiOf (neg : Bool) (m : Nat) (e : Int) : Approx :=
  if 0 ≤ e then { neg := neg, m := 0, e := 0, sticky := false }
  else
    let k := (-e).toNat
    let one := 2 ^ k
    let r := m % (2 * one)
    let flip := decide (one ≤ r)
    let r := if one ≤ r then r - one else r
    if r = 0 then { neg := neg, m := 0, e := 0, sticky := false }
    else if 2 * r = one then { neg := neg != flip, m := 1, e := 0, sticky := false }
    else
      let r := if one < 2 * r then one - r else r
      let fr := if k ≤ prec then r * 2 ^ (prec - k) else r / 2 ^ (k - prec)
      { neg := neg != flip, m := sinFix (fr * piFix / 2 ^ prec), e := -(prec : Int), sticky := true }

/-- tanh of a finite value that is not zero: irrational. -/
def tanhOf (neg : Bool) (m : Nat) (e : Int) : Approx :=
  let l : Int := (Nat.log2 m : Int) + e
  if l < -40 then { neg := neg, m := m * 2 ^ 200 - 1, e := e - 200, sticky := true }
  else if 6 ≤ l then { neg := neg, m := 2 ^ prec - 1, e := -(prec : Int), sticky := true }
  else
    -- t = 2|x| / ln 2 = n + f, exp(2|x|) = 2^n 2^f
    let x2 := if 0 ≤ e + 1 + (prec : Int) then m * 2 ^ (e + 1 + (prec : Int)).toNat else m / 2 ^ (-(e + 1 + (prec : Int))).toNat
    let t := x2 * 2 ^ prec / ln2Fix
    let n := t / 2 ^ prec
    let ex := expFix (t % 2 ^ prec * ln2Fix / 2 ^ prec) * 2 ^ n
    { neg := neg, m := (ex - 2 ^ prec) * 2 ^ prec / (ex + 2 ^ prec), e := -(prec : Int), sticky := true }

/-- The functions of the vsfn group (R213). -/
inductive SpecialFn where
  | exp2 | log2 | rcp | rsqrt | sqrt | sinpi | tanh
  deriving DecidableEq, Repr

/-- A special function in a format (R67). -/
def Fmt.special (f : Fmt) (mode : Mode) (fn : SpecialFn) (x : Num) : Nat × Flags :=
  match x with
  | .nan s => (f.nanCode, if s then flagNV else 0)
  | .inf neg =>
    match fn with
    | .exp2 => (if neg then 0 else f.infCode, 0)
    | .log2 => if neg then (f.nanCode, flagNV) else (f.infCode, 0)
    | .rcp => (f.signed neg 0, 0)
    | .rsqrt => if neg then (f.nanCode, flagNV) else (0, 0)
    | .sqrt => if neg then (f.nanCode, flagNV) else (f.infCode, 0)
    | .sinpi => (f.nanCode, flagNV)
    | .tanh => f.roundMag mode false neg 1 0 false 0
  | .fin neg m e =>
    if m = 0 then
      match fn with
      | .exp2 => f.roundMag mode false false 1 0 false 0
      | .log2 => (f.signed true f.infCode, flagDZ)
      | .rcp => (f.signed neg f.infCode, flagDZ)
      | .rsqrt => (f.signed neg f.infCode, flagDZ)
      | .sqrt => (f.signed neg 0, 0)
      | .sinpi => (f.signed neg 0, 0)
      | .tanh => (f.signed neg 0, 0)
    else
      match fn with
      | .exp2 => f.roundApprox mode (exp2Of neg m e) 0
      | .log2 => if neg then (f.nanCode, flagNV) else f.roundApprox mode (log2Of m e) 0
      | .rcp => f.roundApprox mode (quotient false 1 0 neg m e) 0
      | .rsqrt => if neg then (f.nanCode, flagNV) else f.roundApprox mode (rrootOf m e) 0
      | .sqrt => if neg then (f.nanCode, flagNV) else f.roundApprox mode (rootOf m e) 0
      | .sinpi => f.roundApprox mode (sinpiOf neg m e) 0
      | .tanh => f.roundApprox mode (tanhOf neg m e) 0

end Sys2Proof.Machine
end

