-- ==== Sys2Proof/Config.lean ====
section
/-!
DEFINITION. What the manual leaves open: constants with no body, so that nothing can be proved of their values.
Each is named by an entry of notes/assumptions.
-/

namespace Sys2Proof.Config

/-- Core cycles that pass in a step beyond the first: the manual fixes no instruction's time (DESIGN CHOICE, log entry 2). -/
opaque stepCycles : Nat → Nat

/-- IFVER.MVER: the major version of the device monitor's firmware (R379; DESIGN CHOICE, log entry 61). -/
opaque firmware : Nat

/-- HECC: the code of a header's bits 511 to 176; the manual says what it corrects and detects, not its symbols (R141; DESIGN
CHOICE: a free value, log entry 19). -/
opaque headerCode : BitVec 336 → BitVec 16

end Sys2Proof.Config
end

