-- ==== Sys2Proof/Syntax.lean ====
section
/-!
DEFINITION. The instructions and events of spec/opcode_table.json as one inductive, and the operand
structures of the formats of R155. Every field a word has is kept, so that an instruction is its word.
The rows without a word (events, spec/95_what_each_step_holds.md) carry the operands that say where they happen.
-/

namespace Sys2Proof

/-- A register number of a file of 32 (R155). -/
abbrev Reg := Fin 32

/-- The trap causes of *Shared names*, in their order (R170). -/
inductive Cause where
  | illegal | priv | aperture | misalign | notPresent | prot | statWr | nonLocal | scale | rowRep | refresh
  | thermal | uncorr | chkFail | rpcFail | tokErr | fpx | trapI | brk | watchdog | missOvf | bandFlt | barTo
  deriving DecidableEq, Repr

/-- A family of band tiles (R138). -/
inductive Family where
  | cw | ccw
  deriving DecidableEq, Repr

/-- The kinds of access that permissions and TCAUSE.KIND tell apart (R296, R333). -/
inductive Access where
  | fetch | load | store | atomic | tileRead | tileWrite | rpc | engineRead | engineWrite | discard
  deriving DecidableEq, Repr

/-- The units of a vault agent (R280). -/
inductive AgentUnit where
  | mac | ag (g : Fin 4) | mover | compare
  deriving DecidableEq, Repr

/-- F-A: LK, b, a, d (R155). -/
structure FmtA where
  lk : Fin 16
  b : Reg
  a : Reg
  d : Reg
  deriving DecidableEq, Repr

/-- F-A of the fpu group: the format code stands in fn[6:5] (R179). -/
structure FmtF where
  lk : Fin 16
  fmt : Fin 4
  b : Reg
  a : Reg
  d : Reg
  deriving DecidableEq, Repr

/-- F-I: imm16, a, d (R155). -/
structure FmtI where
  imm : BitVec 16
  a : Reg
  d : Reg
  deriving DecidableEq, Repr

/-- F-U: imm21, d (R155). -/
structure FmtU where
  imm : BitVec 21
  d : Reg
  deriving DecidableEq, Repr

/-- F-SH: sh, a, d (R155). -/
structure FmtSh where
  sh : Fin 64
  a : Reg
  d : Reg
  deriving DecidableEq, Repr

/-- F-B: off16, b, a (R155). -/
structure FmtB where
  off : BitVec 16
  b : Reg
  a : Reg
  deriving DecidableEq, Repr

/-- F-J: off21, d (R155). -/
structure FmtJ where
  off : BitVec 21
  d : Reg
  deriving DecidableEq, Repr

/-- F-M: off12, sx, size, a, d (R155). -/
structure FmtM where
  off : BitVec 12
  sx : Bool
  size : Fin 8
  a : Reg
  d : Reg
  deriving DecidableEq, Repr

/-- F-AM: LK, ord, width, b, a, d (R155). -/
structure FmtAm where
  lk : Fin 16
  ord : Bool
  width : Fin 4
  b : Reg
  a : Reg
  d : Reg
  deriving DecidableEq, Repr

/-- The control-register words: the number in imm16[11:0], a, d (R187). -/
structure FmtC where
  num : BitVec 12
  a : Reg
  d : Reg
  deriving DecidableEq, Repr

/-- `trap` and `trap.brk`: LK and n in {b, a} (R189). -/
structure FmtTrap where
  lk : Fin 16
  n : BitVec 10
  deriving DecidableEq, Repr

/-- `park` and `park.mig`: LK, a, d (R189). -/
structure FmtPark where
  lk : Fin 16
  a : Reg
  d : Reg
  deriving DecidableEq, Repr

/-- F-V: md, mk, ET, vb, va, vd (R155). -/
structure FmtV where
  md : Fin 4
  msk : Fin 4
  et : Fin 16
  vb : Reg
  va : Reg
  vd : Reg
  deriving DecidableEq, Repr

/-- `vcvt`: md, mk, RM, ET, SAT, DET, va, vd (R207). -/
structure FmtVcvt where
  md : Fin 4
  msk : Fin 4
  rm : Fin 8
  et : Fin 16
  sat : Bool
  det : Fin 16
  va : Reg
  vd : Reg
  deriving DecidableEq, Repr

/-- F-VL and F-VM: LK, ET, vb (or b), va (or a), vd (R155). -/
structure FmtVl where
  lk : Fin 16
  et : Fin 16
  vb : Reg
  va : Reg
  vd : Reg
  deriving DecidableEq, Repr

/-- `netred` and `netbc`: LK, ET, OP, TREE, va, vd (R216). -/
structure FmtNet where
  lk : Fin 16
  et : Fin 16
  op : Fin 4
  tree : Fin 4
  va : Reg
  vd : Reg
  deriving DecidableEq, Repr

/-- F-X: LK, fl, z, y, x (R155). -/
structure FmtX where
  lk : Fin 16
  fl : Fin 16
  z : Reg
  y : Reg
  x : Reg
  deriving DecidableEq, Repr

/-- F-T: LK, cnt, t, a, q (R155). -/
structure FmtT where
  lk : Fin 16
  cnt : Fin 16
  t : Reg
  a : Reg
  q : Reg
  deriving DecidableEq, Repr

/-- `rcall` and `rcallp`: LK, a, t (R258). -/
structure FmtRpc where
  lk : Fin 16
  a : Reg
  t : Reg
  deriving DecidableEq, Repr

/-- F-E of the engine major: LK, engine, a, t (R155, R262). -/
structure FmtE where
  lk : Fin 16
  engine : Fin 128
  a : Reg
  t : Reg
  deriving DecidableEq, Repr

/-- F-S: scope, tag, a, d (R155). -/
structure FmtS where
  scope : Fin 8
  tag : Fin 8
  a : Reg
  d : Reg
  deriving DecidableEq, Repr

/-- F-P: imm10, port, reg (R155). -/
structure FmtP where
  imm : BitVec 10
  port : Fin 256
  reg : Reg
  deriving DecidableEq, Repr

/-- What the device monitor fixes when it creates a partition (R364): the operand of PARTITION_CREATION. -/
structure PartSpec where
  id : Nat                        -- 0-15
  bands : List Nat                -- package band numbers rank[9:4]
  sys : Nat                       -- rank of the system core
  pc : Ptr                        -- where the system core's supervisor code starts (R292, R390)
  engines : List Nat
  queues : List (Nat × Nat)       -- work queue and its overflow capacity (R310)
  overflow : List (Nat × Nat)     -- work queue and its overflow region's offset in the system core's vault (R310)
  redundant : List Nat            -- queues designated redundant (R359)
  counterBase : Nat               -- join counters (R317)
  counterCount : Nat
  pool : Nat                      -- termination records (R319)
  poolOff : Nat                   -- their place in the system core's vault (R319)
  faultOff : Nat                  -- fault queue in the system core's vault (R340)
  faultK : Nat
  tierFrames : Nat                -- second-tier share in 64 KiB frames (R378)
  hostFrames : Nat                -- host window in 64 KiB frames (R332)
  journalRows : Nat               -- journal capacity of each vault, in rows (R356)
  mailbox : Nat                   -- vault offset of the host mailbox (R374)
  deriving DecidableEq, Repr

/-- One row of the opcode table each (spec/opcode_table.json). -/
inductive Instr where
  | add (f : FmtA)
  | sub (f : FmtA)
  | and (f : FmtA)
  | or (f : FmtA)
  | xor (f : FmtA)
  | sll (f : FmtA)
  | srl (f : FmtA)
  | sra (f : FmtA)
  | slt (f : FmtA)
  | sltu (f : FmtA)
  | min (f : FmtA)
  | max (f : FmtA)
  | minu (f : FmtA)
  | maxu (f : FmtA)
  | mul (f : FmtA)
  | mulh (f : FmtA)
  | mulhu (f : FmtA)
  | div (f : FmtA)
  | divu (f : FmtA)
  | rem (f : FmtA)
  | remu (f : FmtA)
  | clz (f : FmtA)
  | ctz (f : FmtA)
  | popc (f : FmtA)
  | addi (f : FmtI)
  | andi (f : FmtI)
  | ori (f : FmtI)
  | xori (f : FmtI)
  | slti (f : FmtI)
  | sltiu (f : FmtI)
  | lui (f : FmtU)
  | lsi (f : FmtU)
  | slli (f : FmtSh)
  | srli (f : FmtSh)
  | srai (f : FmtSh)
  | pmk (f : FmtA)
  | padd (f : FmtA)
  | ptag (f : FmtA)
  | pclr (f : FmtA)
  | prank (f : FmtA)
  | pchk (f : FmtA)
  | paddi (f : FmtI)
  | fadd (f : FmtF)
  | fsub (f : FmtF)
  | fmul (f : FmtF)
  | fdiv (f : FmtF)
  | fsqrt (f : FmtF)
  | fmin (f : FmtF)
  | fmax (f : FmtF)
  | fmadd (f : FmtF)
  | fmsub (f : FmtF)
  | feq (f : FmtF)
  | flt (f : FmtF)
  | fle (f : FmtF)
  | fclass (f : FmtF)
  | fcvtf (f : FmtF)
  | fcvtfi (f : FmtF)
  | fcvtif (f : FmtF)
  | fsgnj (f : FmtF)
  | fsgnjn (f : FmtF)
  | ld (f : FmtM)
  | st (f : FmtM)
  | amoSwap (f : FmtAm)
  | amoAdd (f : FmtAm)
  | amoAnd (f : FmtAm)
  | amoOr (f : FmtAm)
  | amoXor (f : FmtAm)
  | amoSmin (f : FmtAm)
  | amoSmax (f : FmtAm)
  | amoUmin (f : FmtAm)
  | amoUmax (f : FmtAm)
  | amoCas (f : FmtAm)
  | amoFadd (f : FmtAm)
  | amoFmin (f : FmtAm)
  | amoFmax (f : FmtAm)
  | redAdd (f : FmtAm)
  | redFadd (f : FmtAm)
  | redSmin (f : FmtAm)
  | redSmax (f : FmtAm)
  | redFmin (f : FmtAm)
  | redFmax (f : FmtAm)
  | beq (f : FmtB)
  | bne (f : FmtB)
  | blt (f : FmtB)
  | bge (f : FmtB)
  | bltu (f : FmtB)
  | bgeu (f : FmtB)
  | jal (f : FmtJ)
  | jalr (f : FmtI)
  | crrd (f : FmtC)
  | crwr (f : FmtC)
  | crxch (f : FmtC)
  | trap (f : FmtTrap)
  | trapBrk (f : FmtTrap)
  | tret (f : FmtA)
  | fence (f : FmtA)
  | ifence (f : FmtA)
  | spawn (f : FmtA)
  | park (f : FmtPark)
  | parkMig (f : FmtPark)
  | tend (f : FmtA)
  | tyield (f : FmtA)
  | rdcyc (f : FmtA)
  | rank (f : FmtA)
  | wfi (f : FmtA)
  | vadd (f : FmtV)
  | vsub (f : FmtV)
  | vmul (f : FmtV)
  | vmin (f : FmtV)
  | vmax (f : FmtV)
  | vabs (f : FmtV)
  | vneg (f : FmtV)
  | vsgnj (f : FmtV)
  | vfma (f : FmtV)
  | vfms (f : FmtV)
  | vfnma (f : FmtV)
  | vwmul (f : FmtV)
  | vwfma (f : FmtV)
  | vqfma (f : FmtV)
  | vdot2 (f : FmtV)
  | vdot4 (f : FmtV)
  | vand (f : FmtV)
  | vor (f : FmtV)
  | vxor (f : FmtV)
  | vsll (f : FmtV)
  | vsrl (f : FmtV)
  | vsra (f : FmtV)
  | vadds (f : FmtV)
  | vsubs (f : FmtV)
  | veq (f : FmtV)
  | vne (f : FmtV)
  | vlt (f : FmtV)
  | vle (f : FmtV)
  | vunord (f : FmtV)
  | vclass (f : FmtV)
  | vsel (f : FmtV)
  | mand (f : FmtV)
  | mor (f : FmtV)
  | mxor (f : FmtV)
  | mnot (f : FmtV)
  | mpopc (f : FmtV)
  | mfirst (f : FmtV)
  | vcvt (f : FmtVcvt)
  | vqnt (f : FmtVl)
  | vdqnt (f : FmtVl)
  | vcbdec (f : FmtVl)
  | vexp2 (f : FmtVl)
  | vlog2 (f : FmtVl)
  | vrcp (f : FmtVl)
  | vrsqrt (f : FmtVl)
  | vsqrt (f : FmtVl)
  | vdiv (f : FmtVl)
  | vsinpi (f : FmtVl)
  | vtanh (f : FmtVl)
  | vperm (f : FmtV)
  | vslup (f : FmtV)
  | vsldn (f : FmtV)
  | vbcast (f : FmtV)
  | vcmprs (f : FmtV)
  | vexpnd (f : FmtV)
  | vzip (f : FmtV)
  | vunzip (f : FmtV)
  | vrsum (f : FmtVl)
  | vrmin (f : FmtVl)
  | vrmax (f : FmtVl)
  | vscan (f : FmtVl)
  | netred (f : FmtNet)
  | netbc (f : FmtNet)
  | vld (f : FmtVl)
  | vlds (f : FmtVl)
  | vldx (f : FmtVl)
  | vst (f : FmtVl)
  | vsts (f : FmtVl)
  | vstx (f : FmtVl)
  | vsplat (f : FmtV)
  | vgetel (f : FmtV)
  | vsetel (f : FmtV)
  | vid (f : FmtV)
  | m2v (f : FmtV)
  | v2m (f : FmtV)
  | tdef (f : FmtX)
  | tinv (f : FmtX)
  | tqry (f : FmtX)
  | mstat (f : FmtX)
  | munst (f : FmtX)
  | mwr (f : FmtX)
  | mrd (f : FmtX)
  | mmac (f : FmtX)
  | mmul (f : FmtX)
  | mmacSp (f : FmtX)
  | mgang (f : FmtX)
  | mbind (f : FmtX)
  | mzero (f : FmtX)
  | mdrain (f : FmtX)
  | mchk (f : FmtX)
  | mfix (f : FmtX)
  | qcfg (f : FmtX)
  | qhead (f : FmtX)
  | qtail (f : FmtX)
  | qpop (f : FmtX)
  | qpush (f : FmtX)
  | binj (f : FmtX)
  | bset (f : FmtX)
  | bclr (f : FmtX)
  | bmiss (f : FmtX)
  | bstat (f : FmtX)
  | pget (f : FmtX)
  | prel (f : FmtX)
  | tld (f : FmtT)
  | tst (f : FmtT)
  | ract (f : FmtT)
  | rpre (f : FmtT)
  | discard (f : FmtT)
  | rcall (f : FmtRpc)
  | rcallp (f : FmtRpc)
  | ecmd (f : FmtE)
  | eqry (f : FmtE)
  | ecan (f : FmtE)
  | barr (f : FmtS)
  | bwait (f : FmtS)
  | bmask (f : FmtS)
  | prst (f : FmtS)
  | pwait (f : FmtS)
  | sstep (f : FmtS)
  | monArm (f : FmtS)
  | monWait (f : FmtS)
  | monWaitne (f : FmtS)
  | mvp (f : FmtP)
  | mvr (f : FmtP)
  | mvi (f : FmtP)
  | trig (f : FmtP)
  | abank (f : FmtP)
  | areply (f : FmtP)
  | anext (f : FmtP)
  | cmdCopy (e : Nat)
  | cmdCopy2d (e : Nat)
  | cmdGather (e : Nat)
  | cmdScatter (e : Nat)
  | cmdFill (e : Nat)
  | cmdCollectiveReduce (e : Nat)
  | cmdPageMigrateMove (e : Nat)
  | cmdPageMigrateShoot (e : Nat)
  | cmdBankMacLaunch (e : Nat)
  | engineCommandActivate (e : Nat)
  | enginePage (e : Nat)
  | handlerRead (r : Nat)
  | handlerWrite (r : Nat)
  | handlerElementAtomic (r : Nat)
  | handlerTileRead (r : Nat)
  | handlerTileWrite (r : Nat)
  | handlerTileAdd (r : Nat)
  | handlerVectorAdd (r : Nat)
  | handlerHandOffPush (r : Nat)
  | handlerHandOffPop (r : Nat)
  | migrateOut (r : Nat)
  | migrateIn (r : Nat)
  | handlerRemoteMonitorArm (r : Nat)
  | handlerReductionRecall (r : Nat)
  | handlerBankMacLaunch (r : Nat)
  | loadedHandler (r : Nat)
  | mgo (r : Nat)
  | agCount (r : Nat) (g : Nat) (v : Word)
  | mvGo (r : Nat) (v : Word)
  | cmGo (r : Nat)
  | vDataRead (r : Nat) (d : Reg)
  | vDataWrite (r : Nat) (v : Word)
  | bankMacProgramRun (r : Nat)
  | bankMacComplete (r : Nat)
  | bankLockExpiry (r : Nat)
  | issueArbitration (r : Nat)
  | priorityAging (r : Nat) (id : Word)
  | slotPlacement (r : Nat) (n : Nat)
  | preEmption (r : Nat) (n : Nat)
  | gangReservation (g : Nat) (b : Nat)
  | gangReservationTimeout (r : Nat)
  | gangRelease (g : Nat)
  | gangBmaskLoadTimeout (r : Nat) (g : Nat)
  | trapEntry (r : Nat) (n : Nat) (c : Cause) (v : Word)
  | interruptEntry (r : Nat) (n : Nat)
  | wfiWake (r : Nat) (n : Nat)
  | taskWatchdogExpiry (r : Nat) (n : Nat)
  | taskFailureRemoval (r : Nat) (n : Nat)
  | tokenStatusWrite
  | statusUndeliverable
  | spawnTopupAck (r : Nat) (n : Nat)
  | topupMessage
  | weightReturn
  | joinSignal (j : Nat)
  | joinFailure (j : Nat) (c : Cause)
  | dispatch (p : Nat)
  | lrec (port : Nat) (q : Nat) (off : Nat) (size : Nat) (rec : BitVec 512)
  | qctlResume (port : Nat) (q : Nat)
  | qctlFlush (port : Nat) (q : Nat)
  | qctlClearDrops (port : Nat) (q : Nat)
  | joinCounterWrite (port : Nat) (j : Nat) (v : Word)
  | hostDoorbell (port : Nat) (p : Nat) (v : Word)
  | vaultWindowRead (port : Nat) (r : Nat) (off : Nat)
  | vaultWindowWrite (port : Nat) (r : Nat) (off : Nat) (v : Word)
  | ltolWrite (port : Nat) (p : Nat) (v : Word)
  | redundantCompare (l : Nat)
  | matrixOpStart (r : Nat) (m : Nat)
  | matrixOpComplete (r : Nat) (m : Nat)
  | tileTransferTile (r : Nat)
  | bankRefresh (r : Nat) (bank : Nat)
  | bankRefreshEnd (r : Nat) (bank : Nat)
  | testerBurst (r : Nat) (bank : Nat) (row : Nat) (weak : Bool)
  | testerBurstAbort (r : Nat)
  | rowRepair (r : Nat) (row : Nat)
  | vaultThrottleChange (r : Nat) (lvl : Nat)
  | coreThrottleRaise (die : Nat)
  | coreThrottleLower (die : Nat)
  | bandStep (b : Nat)
  | bandInjection (r : Nat) (fam : Family)
  | injectionClaim (r : Nat) (fam : Family)
  | retireNotice
  | ejectionMessage
  | ejectionWriteComplete
  | probeCircuit (r : Nat) (tag : Nat)
  | barrierPhaseComplete (r : Nat) (tag : Nat)
  | barrierWatchdogExpiry (r : Nat) (n : Nat)
  | rollback (dom : Word)
  | monitorWake (r : Nat) (n : Nat)
  | monitorTimeout (r : Nat) (n : Nat)
  | netredRoundComplete (tree : Nat)
  | reductionFlush (r : Nat)
  | reductionRecall (r : Nat) (granule : Nat)
  | pageWalk (r : Nat) (n : Nat) (ga : Ptr) (acc : Access)
  | setDirty (r : Nat) (off : Nat)
  | faultResolve (p : Nat) (k : Nat)
  | shootdownReceipt (r : Nat)
  | shootdownAck (e : Nat)
  | redirectNotice (r : Nat)
  | discardAtHome
  | srseedWrite (r : Nat) (n : Nat) (v : Word)
  | fpctlWrite (r : Nat) (n : Nat) (v : Word)
  | bmaskWrite (r : Nat) (tag : Nat) (v : Word)
  | ptbaseWrite (r : Nat) (v : Word)
  | errinjWrite (r : Nat) (n : Nat) (v : Word)
  | spkeyWrite (r : Nat) (v : Word)
  | hqgWrite (q : Nat) (v : Word)
  | slotDoorbell (r : Nat) (n : Nat) (v : Word)
  | registerWrite (r : Nat) (n : Nat) (num : Nat) (v : Word)
  | powerStateEntry (b : Nat) (lvl : Nat)
  | wakeEvent (b : Nat)
  | wakeComplete (b : Nat)
  | thermalHold (die : Nat)
  | thermalHoldRelease (die : Nat)
  | linkRateLower (l : Nat)
  | linkDown (l : Nat)
  | packageReset
  | hostPortReset (port : Nat)
  | monitorBoot
  | ucieTraining (absent : Nat)
  | vaultTest (repairs : List (Nat × Nat × Nat))
  | cufflinkNegotiation (dev : Nat) (gens : List Nat)
  | hostEnumeration
  | partitionCreation (spec : PartSpec)
  | partitionRemoval (p : Nat) (bands : List Nat)
  | outstandingInstructionComplete (r : Nat) (n : Nat)
  | illegalInstruction (w : BitVec 32)
  | heldRequestResend (r : Nat)
  | testerBurstEnd (r : Nat)
  | agentUnitComplete (r : Nat) (u : AgentUnit)
  | linkRetrain (l : Nat) (rate : Nat)
  | hostPortTraining (port : Nat) (ver : Nat)
  | secondTierPortDown (port : Nat)
  | secondTierPortUp (port : Nat) (ver : Nat)
  deriving DecidableEq, Repr

end Sys2Proof
end

