-- ==== Sys2Proof/WellFormed.lean ====
section
/-!
DEFINITION. Which instructions are well formed: the format checks of R156, and the ranges of the operands of events.
-/

namespace Sys2Proof

/-- The size field of F-M holds b, h, w, d or p (R155, R156). -/
def FmtM.wf (f : FmtM) : Bool := decide (f.size.val ≤ 4)

/-- The width field of F-AM holds 32 or 64 bits (R155, R156). -/
def FmtAm.wf (f : FmtAm) : Bool := decide (f.width.val ≤ 1)

/-- The q field of F-T names q0-q7 (R156). -/
def FmtT.wf (f : FmtT) : Bool := decide (f.q.val < 8)

/-- The engine field names an engine of the package, or 127 for any engine of the die (R155, R156). -/
def FmtE.wf (f : FmtE) : Bool := decide (f.engine.val < 96 ∨ f.engine.val = 127)

/-- A queue-naming field holds q0-q7 (R156). -/
def queueField (r : Reg) : Bool := decide (r.val < 8)

/-- A core rank has 16 bits (R80). -/
def rankWf (r : Nat) : Bool := decide (r < 65536)

/-- A thread slot of a core (R12). -/
def slotWf (r n : Nat) : Bool := rankWf r && decide (n < 4)

/-- A partition number (R364). -/
def partWf (p : Nat) : Bool := decide (p < 16)

/-- A vault bank (R85). -/
def bankWf (r b : Nat) : Bool := rankWf r && decide (b < 32)

/-- A package band number (R12, R323). -/
def bandWf (b : Nat) : Bool := decide (b < 64)

/-- A host port (R374). -/
def portWf (p : Nat) : Bool := decide (p < 2)

/-- An instruction meets the format checks of R156, an event the ranges of its operands. -/
def WellFormed : Instr → Bool
  | .add _ => true
  | .sub _ => true
  | .and _ => true
  | .or _ => true
  | .xor _ => true
  | .sll _ => true
  | .srl _ => true
  | .sra _ => true
  | .slt _ => true
  | .sltu _ => true
  | .min _ => true
  | .max _ => true
  | .minu _ => true
  | .maxu _ => true
  | .mul _ => true
  | .mulh _ => true
  | .mulhu _ => true
  | .div _ => true
  | .divu _ => true
  | .rem _ => true
  | .remu _ => true
  | .clz _ => true
  | .ctz _ => true
  | .popc _ => true
  | .addi _ => true
  | .andi _ => true
  | .ori _ => true
  | .xori _ => true
  | .slti _ => true
  | .sltiu _ => true
  | .lui _ => true
  | .lsi _ => true
  | .slli _ => true
  | .srli _ => true
  | .srai _ => true
  | .pmk _ => true
  | .padd _ => true
  | .ptag _ => true
  | .pclr _ => true
  | .prank _ => true
  | .pchk _ => true
  | .paddi _ => true
  | .fadd _ => true
  | .fsub _ => true
  | .fmul _ => true
  | .fdiv _ => true
  | .fsqrt _ => true
  | .fmin _ => true
  | .fmax _ => true
  | .fmadd _ => true
  | .fmsub _ => true
  | .feq _ => true
  | .flt _ => true
  | .fle _ => true
  | .fclass _ => true
  | .fcvtf _ => true
  | .fcvtfi _ => true
  | .fcvtif _ => true
  | .fsgnj _ => true
  | .fsgnjn _ => true
  | .ld f => f.wf
  | .st f => f.wf
  | .amoSwap f => f.wf
  | .amoAdd f => f.wf
  | .amoAnd f => f.wf
  | .amoOr f => f.wf
  | .amoXor f => f.wf
  | .amoSmin f => f.wf
  | .amoSmax f => f.wf
  | .amoUmin f => f.wf
  | .amoUmax f => f.wf
  | .amoCas f => f.wf
  | .amoFadd f => f.wf
  | .amoFmin f => f.wf
  | .amoFmax f => f.wf
  | .redAdd f => f.wf
  | .redFadd f => f.wf
  | .redSmin f => f.wf
  | .redSmax f => f.wf
  | .redFmin f => f.wf
  | .redFmax f => f.wf
  | .beq _ => true
  | .bne _ => true
  | .blt _ => true
  | .bge _ => true
  | .bltu _ => true
  | .bgeu _ => true
  | .jal _ => true
  | .jalr _ => true
  | .crrd _ => true
  | .crwr _ => true
  | .crxch _ => true
  | .trap _ => true
  | .trapBrk _ => true
  | .tret _ => true
  | .fence _ => true
  | .ifence _ => true
  | .spawn _ => true
  | .park _ => true
  | .parkMig _ => true
  | .tend _ => true
  | .tyield _ => true
  | .rdcyc _ => true
  | .rank _ => true
  | .wfi _ => true
  | .vadd _ => true
  | .vsub _ => true
  | .vmul _ => true
  | .vmin _ => true
  | .vmax _ => true
  | .vabs _ => true
  | .vneg _ => true
  | .vsgnj _ => true
  | .vfma _ => true
  | .vfms _ => true
  | .vfnma _ => true
  | .vwmul _ => true
  | .vwfma _ => true
  | .vqfma _ => true
  | .vdot2 _ => true
  | .vdot4 _ => true
  | .vand _ => true
  | .vor _ => true
  | .vxor _ => true
  | .vsll _ => true
  | .vsrl _ => true
  | .vsra _ => true
  | .vadds _ => true
  | .vsubs _ => true
  | .veq _ => true
  | .vne _ => true
  | .vlt _ => true
  | .vle _ => true
  | .vunord _ => true
  | .vclass _ => true
  | .vsel _ => true
  | .mand _ => true
  | .mor _ => true
  | .mxor _ => true
  | .mnot _ => true
  | .mpopc _ => true
  | .mfirst _ => true
  | .vcvt _ => true
  | .vqnt _ => true
  | .vdqnt _ => true
  | .vcbdec _ => true
  | .vexp2 _ => true
  | .vlog2 _ => true
  | .vrcp _ => true
  | .vrsqrt _ => true
  | .vsqrt _ => true
  | .vdiv _ => true
  | .vsinpi _ => true
  | .vtanh _ => true
  | .vperm _ => true
  | .vslup _ => true
  | .vsldn _ => true
  | .vbcast _ => true
  | .vcmprs _ => true
  | .vexpnd _ => true
  | .vzip _ => true
  | .vunzip _ => true
  | .vrsum _ => true
  | .vrmin _ => true
  | .vrmax _ => true
  | .vscan _ => true
  | .netred _ => true
  | .netbc _ => true
  | .vld _ => true
  | .vlds _ => true
  | .vldx _ => true
  | .vst _ => true
  | .vsts _ => true
  | .vstx _ => true
  | .vsplat _ => true
  | .vgetel _ => true
  | .vsetel _ => true
  | .vid _ => true
  | .m2v _ => true
  | .v2m _ => true
  | .tdef _ => true
  | .tinv _ => true
  | .tqry _ => true
  | .mstat _ => true
  | .munst _ => true
  | .mwr f => decide (f.fl.val % 2 = 1) || queueField f.z
  | .mrd f => decide (f.fl.val % 2 = 1) || queueField f.z
  | .mmac _ => true
  | .mmul _ => true
  | .mmacSp _ => true
  | .mgang _ => true
  | .mbind f => queueField f.y
  | .mzero _ => true
  | .mdrain f => decide (f.fl.val % 4 ≠ 0) || queueField f.z
  | .mchk _ => true
  | .mfix _ => true
  | .qcfg f => queueField f.x
  | .qhead f => queueField f.y
  | .qtail f => queueField f.y
  | .qpop f => queueField f.y
  | .qpush f => queueField f.x
  | .binj _ => true
  | .bset _ => true
  | .bclr _ => true
  | .bmiss _ => true
  | .bstat _ => true
  | .pget _ => true
  | .prel _ => true
  | .tld f => f.wf
  | .tst f => f.wf
  | .ract f => f.wf
  | .rpre f => f.wf
  | .discard f => f.wf
  | .rcall _ => true
  | .rcallp _ => true
  | .ecmd f => f.wf
  | .eqry f => f.wf
  | .ecan f => f.wf
  | .barr _ => true
  | .bwait _ => true
  | .bmask _ => true
  | .prst _ => true
  | .pwait _ => true
  | .sstep _ => true
  | .monArm _ => true
  | .monWait _ => true
  | .monWaitne _ => true
  | .mvp _ => true
  | .mvr _ => true
  | .mvi _ => true
  | .trig _ => true
  | .abank _ => true
  | .areply _ => true
  | .anext _ => true
  | .cmdCopy e => decide (e < 96)
  | .cmdCopy2d e => decide (e < 96)
  | .cmdGather e => decide (e < 96)
  | .cmdScatter e => decide (e < 96)
  | .cmdFill e => decide (e < 96)
  | .cmdCollectiveReduce e => decide (e < 96)
  | .cmdPageMigrateMove e => decide (e < 96)
  | .cmdPageMigrateShoot e => decide (e < 96)
  | .cmdBankMacLaunch e => decide (e < 96)
  | .engineCommandActivate e => decide (e < 96)
  | .enginePage e => decide (e < 96)
  | .handlerRead r => rankWf r
  | .handlerWrite r => rankWf r
  | .handlerElementAtomic r => rankWf r
  | .handlerTileRead r => rankWf r
  | .handlerTileWrite r => rankWf r
  | .handlerTileAdd r => rankWf r
  | .handlerVectorAdd r => rankWf r
  | .handlerHandOffPush r => rankWf r
  | .handlerHandOffPop r => rankWf r
  | .migrateOut r => rankWf r
  | .migrateIn r => rankWf r
  | .handlerRemoteMonitorArm r => rankWf r
  | .handlerReductionRecall r => rankWf r
  | .handlerBankMacLaunch r => rankWf r
  | .loadedHandler r => rankWf r
  | .mgo r => rankWf r
  | .agCount r _ _ => rankWf r
  | .mvGo r _ => rankWf r
  | .cmGo r => rankWf r
  | .vDataRead r _ => rankWf r
  | .vDataWrite r _ => rankWf r
  | .bankMacProgramRun r => rankWf r
  | .bankMacComplete r => rankWf r
  | .bankLockExpiry r => rankWf r
  | .issueArbitration r => rankWf r
  | .priorityAging r _ => rankWf r
  | .slotPlacement r n => slotWf r n
  | .preEmption r n => slotWf r n
  | .gangReservation _ b => bandWf b
  | .gangReservationTimeout r => rankWf r
  | .gangRelease _ => true
  | .gangBmaskLoadTimeout r _ => rankWf r
  | .trapEntry r n _ _ => slotWf r n
  | .interruptEntry r n => slotWf r n
  | .wfiWake r n => slotWf r n
  | .taskWatchdogExpiry r n => slotWf r n
  | .taskFailureRemoval r n => slotWf r n
  | .tokenStatusWrite => true
  | .statusUndeliverable => true
  | .spawnTopupAck r n => slotWf r n
  | .topupMessage => true
  | .weightReturn => true
  | .joinSignal j => decide (j < 16384)
  | .joinFailure j _ => decide (j < 16384)
  | .dispatch p => partWf p
  | .lrec port q _ _ _ => portWf port && decide (q < 4096)
  | .qctlResume port q => portWf port && decide (q < 4096)
  | .qctlFlush port q => portWf port && decide (q < 4096)
  | .qctlClearDrops port q => portWf port && decide (q < 4096)
  | .joinCounterWrite port j _ => portWf port && decide (j < 16384)
  | .hostDoorbell port p _ => portWf port && partWf p
  | .vaultWindowRead port r _ => rankWf r && portWf port
  | .vaultWindowWrite port r _ _ => rankWf r && portWf port
  | .ltolWrite port p _ => portWf port && partWf p
  | .redundantCompare _ => true
  | .matrixOpStart r m => rankWf r && decide (m < 32)
  | .matrixOpComplete r m => rankWf r && decide (m < 32)
  | .tileTransferTile r => rankWf r
  | .bankRefresh r bank => bankWf r bank
  | .bankRefreshEnd r bank => bankWf r bank
  | .testerBurst r bank row _ => bankWf r bank && decide (row < 524288)
  | .testerBurstAbort r => rankWf r
  | .rowRepair r row => rankWf r && decide (row < 524288)
  | .vaultThrottleChange r lvl => rankWf r && decide (lvl ≤ 2)
  | .coreThrottleRaise die => decide (die < 8)
  | .coreThrottleLower die => decide (die < 8)
  | .bandStep b => bandWf b
  | .bandInjection r _ => rankWf r
  | .injectionClaim r _ => rankWf r
  | .retireNotice => true
  | .ejectionMessage => true
  | .ejectionWriteComplete => true
  | .probeCircuit r tag => rankWf r && decide (tag < 8)
  | .barrierPhaseComplete r tag => rankWf r && decide (tag < 8)
  | .barrierWatchdogExpiry r n => slotWf r n
  | .rollback _ => true
  | .monitorWake r n => slotWf r n
  | .monitorTimeout r n => slotWf r n
  | .netredRoundComplete tree => decide (tree < 4)
  | .reductionFlush r => rankWf r
  | .reductionRecall r _ => rankWf r
  | .pageWalk r n _ _ => slotWf r n
  | .setDirty r _ => rankWf r
  | .faultResolve p _ => partWf p
  | .shootdownReceipt r => rankWf r
  | .shootdownAck e => decide (e < 96)
  | .redirectNotice r => rankWf r
  | .discardAtHome => true
  | .srseedWrite r n _ => slotWf r n
  | .fpctlWrite r n _ => slotWf r n
  | .bmaskWrite r tag _ => rankWf r && decide (tag < 8)
  | .ptbaseWrite r _ => rankWf r
  | .errinjWrite r n _ => slotWf r n
  | .spkeyWrite r _ => rankWf r
  | .hqgWrite q _ => decide (q < 256)
  | .slotDoorbell r n _ => slotWf r n
  | .registerWrite r n num _ => slotWf r n && decide (num < 4096)
  | .powerStateEntry b lvl => bandWf b && decide (lvl ≤ 4)
  | .wakeEvent b => bandWf b
  | .wakeComplete b => bandWf b
  | .thermalHold die => decide (die < 8)
  | .thermalHoldRelease die => decide (die < 8)
  | .linkRateLower l => decide (l < 12)
  | .linkDown l => decide (l < 12)
  | .packageReset => true
  | .hostPortReset port => portWf port
  | .monitorBoot => true
  | .ucieTraining _ => true
  | .vaultTest _ => true
  | .cufflinkNegotiation _ _ => true
  | .hostEnumeration => true
  | .partitionCreation spec => partWf spec.id && spec.bands.all bandWf && rankWf spec.sys
  | .partitionRemoval p _ => partWf p
  | .outstandingInstructionComplete r n => slotWf r n
  | .illegalInstruction _ => true
  | .heldRequestResend r => rankWf r
  | .testerBurstEnd r => rankWf r
  | .agentUnitComplete r _ => rankWf r
  | .linkRetrain l _ => decide (l < 12)
  | .hostPortTraining port _ => portWf port
  | .secondTierPortDown port => decide (port < 8)
  | .secondTierPortUp port _ => decide (port < 8)

end Sys2Proof
end

