-- ==== Sys2Proof/Decode.lean ====
section
/-!
DEFINITION. The decoder, total on every word and rejecting by name, and after it the encoder, both written from the
formats of R155 and the opcode map of R157. A word is a natural number below 2^32, bit 0 its least significant bit.
-/

namespace Sys2Proof

/-- Why a word is no instruction; every one raises ILLEGAL (R156, R158). -/
inductive Reject where
  | illegalMajor     -- MO 0x00 or 0x3F (R158)
  | reservedMajor    -- MO 0x2E, 0x2F, 0x37, 0x3E (R158)
  | reservedMinor    -- a minor value beyond its member list (R157, R158)
  | formatCheck      -- a format check of R156 fails
  | truncated        -- fewer than four bytes
  deriving DecidableEq, Repr

/-- The fields of format A of a word (R155). -/
def FmtA.ofNat (w : Nat) : FmtA :=
  { d := Fin.ofNat 32 (w / 0x40),
    a := Fin.ofNat 32 (w / 0x800),
    b := Fin.ofNat 32 (w / 0x10000),
    lk := Fin.ofNat 16 (w / 0x10000000) }

/-- The bits those fields have in a word. -/
def FmtA.bits (f : FmtA) : Nat :=
  0x40 * f.d.val + 0x800 * f.a.val + 0x10000 * f.b.val + 0x10000000 * f.lk.val

/-- The fields of format F of a word (R155). -/
def FmtF.ofNat (w : Nat) : FmtF :=
  { d := Fin.ofNat 32 (w / 0x40),
    a := Fin.ofNat 32 (w / 0x800),
    b := Fin.ofNat 32 (w / 0x10000),
    fmt := Fin.ofNat 4 (w / 0x4000000),
    lk := Fin.ofNat 16 (w / 0x10000000) }

/-- The bits those fields have in a word. -/
def FmtF.bits (f : FmtF) : Nat :=
  0x40 * f.d.val + 0x800 * f.a.val + 0x10000 * f.b.val + 0x4000000 * f.fmt.val + 0x10000000 * f.lk.val

/-- The fields of format I of a word (R155). -/
def FmtI.ofNat (w : Nat) : FmtI :=
  { d := Fin.ofNat 32 (w / 0x40),
    a := Fin.ofNat 32 (w / 0x800),
    imm := BitVec.ofNat 16 (w / 0x10000) }

/-- The bits those fields have in a word. -/
def FmtI.bits (f : FmtI) : Nat :=
  0x40 * f.d.val + 0x800 * f.a.val + 0x10000 * f.imm.toNat

/-- The fields of format U of a word (R155). -/
def FmtU.ofNat (w : Nat) : FmtU :=
  { d := Fin.ofNat 32 (w / 0x40),
    imm := BitVec.ofNat 21 (w / 0x800) }

/-- The bits those fields have in a word. -/
def FmtU.bits (f : FmtU) : Nat :=
  0x40 * f.d.val + 0x800 * f.imm.toNat

/-- The fields of format Sh of a word (R155). -/
def FmtSh.ofNat (w : Nat) : FmtSh :=
  { d := Fin.ofNat 32 (w / 0x40),
    a := Fin.ofNat 32 (w / 0x800),
    sh := Fin.ofNat 64 (w / 0x10000) }

/-- The bits those fields have in a word. -/
def FmtSh.bits (f : FmtSh) : Nat :=
  0x40 * f.d.val + 0x800 * f.a.val + 0x10000 * f.sh.val

/-- The fields of format B of a word (R155). -/
def FmtB.ofNat (w : Nat) : FmtB :=
  { a := Fin.ofNat 32 (w / 0x40),
    b := Fin.ofNat 32 (w / 0x800),
    off := BitVec.ofNat 16 (w / 0x10000) }

/-- The bits those fields have in a word. -/
def FmtB.bits (f : FmtB) : Nat :=
  0x40 * f.a.val + 0x800 * f.b.val + 0x10000 * f.off.toNat

/-- The fields of format J of a word (R155). -/
def FmtJ.ofNat (w : Nat) : FmtJ :=
  { d := Fin.ofNat 32 (w / 0x40),
    off := BitVec.ofNat 21 (w / 0x800) }

/-- The bits those fields have in a word. -/
def FmtJ.bits (f : FmtJ) : Nat :=
  0x40 * f.d.val + 0x800 * f.off.toNat

/-- The fields of format M of a word (R155). -/
def FmtM.ofNat (w : Nat) : FmtM :=
  { d := Fin.ofNat 32 (w / 0x40),
    a := Fin.ofNat 32 (w / 0x800),
    size := Fin.ofNat 8 (w / 0x10000),
    sx := decide (w / 0x80000 % 2 = 1),
    off := BitVec.ofNat 12 (w / 0x100000) }

/-- The bits those fields have in a word. -/
def FmtM.bits (f : FmtM) : Nat :=
  0x40 * f.d.val + 0x800 * f.a.val + 0x10000 * f.size.val + (if f.sx then 0x80000 else 0) + 0x100000 * f.off.toNat

/-- The fields of format Am of a word (R155). -/
def FmtAm.ofNat (w : Nat) : FmtAm :=
  { d := Fin.ofNat 32 (w / 0x40),
    a := Fin.ofNat 32 (w / 0x800),
    b := Fin.ofNat 32 (w / 0x10000),
    width := Fin.ofNat 4 (w / 0x2000000),
    ord := decide (w / 0x8000000 % 2 = 1),
    lk := Fin.ofNat 16 (w / 0x10000000) }

/-- The bits those fields have in a word. -/
def FmtAm.bits (f : FmtAm) : Nat :=
  0x40 * f.d.val + 0x800 * f.a.val + 0x10000 * f.b.val + 0x2000000 * f.width.val + (if f.ord then 0x8000000 else 0) + 0x10000000 * f.lk.val

/-- The fields of format C of a word (R155). -/
def FmtC.ofNat (w : Nat) : FmtC :=
  { d := Fin.ofNat 32 (w / 0x40),
    a := Fin.ofNat 32 (w / 0x800),
    num := BitVec.ofNat 12 (w / 0x10000) }

/-- The bits those fields have in a word. -/
def FmtC.bits (f : FmtC) : Nat :=
  0x40 * f.d.val + 0x800 * f.a.val + 0x10000 * f.num.toNat

/-- The fields of format Trap of a word (R155). -/
def FmtTrap.ofNat (w : Nat) : FmtTrap :=
  { n := BitVec.ofNat 10 (w / 0x800),
    lk := Fin.ofNat 16 (w / 0x10000000) }

/-- The bits those fields have in a word. -/
def FmtTrap.bits (f : FmtTrap) : Nat :=
  0x800 * f.n.toNat + 0x10000000 * f.lk.val

/-- The fields of format Park of a word (R155). -/
def FmtPark.ofNat (w : Nat) : FmtPark :=
  { d := Fin.ofNat 32 (w / 0x40),
    a := Fin.ofNat 32 (w / 0x800),
    lk := Fin.ofNat 16 (w / 0x10000000) }

/-- The bits those fields have in a word. -/
def FmtPark.bits (f : FmtPark) : Nat :=
  0x40 * f.d.val + 0x800 * f.a.val + 0x10000000 * f.lk.val

/-- The fields of format V of a word (R155). -/
def FmtV.ofNat (w : Nat) : FmtV :=
  { vd := Fin.ofNat 32 (w / 0x40),
    va := Fin.ofNat 32 (w / 0x800),
    vb := Fin.ofNat 32 (w / 0x10000),
    et := Fin.ofNat 16 (w / 0x200000),
    msk := Fin.ofNat 4 (w / 0x10000000),
    md := Fin.ofNat 4 (w / 0x40000000) }

/-- The bits those fields have in a word. -/
def FmtV.bits (f : FmtV) : Nat :=
  0x40 * f.vd.val + 0x800 * f.va.val + 0x10000 * f.vb.val + 0x200000 * f.et.val + 0x10000000 * f.msk.val + 0x40000000 * f.md.val

/-- The fields of format Vcvt of a word (R155). -/
def FmtVcvt.ofNat (w : Nat) : FmtVcvt :=
  { vd := Fin.ofNat 32 (w / 0x40),
    va := Fin.ofNat 32 (w / 0x800),
    det := Fin.ofNat 16 (w / 0x10000),
    sat := decide (w / 0x100000 % 2 = 1),
    et := Fin.ofNat 16 (w / 0x200000),
    rm := Fin.ofNat 8 (w / 0x2000000),
    msk := Fin.ofNat 4 (w / 0x10000000),
    md := Fin.ofNat 4 (w / 0x40000000) }

/-- The bits those fields have in a word. -/
def FmtVcvt.bits (f : FmtVcvt) : Nat :=
  0x40 * f.vd.val + 0x800 * f.va.val + 0x10000 * f.det.val + (if f.sat then 0x100000 else 0) + 0x200000 * f.et.val + 0x2000000 * f.rm.val + 0x10000000 * f.msk.val + 0x40000000 * f.md.val

/-- The fields of format Vl of a word (R155). -/
def FmtVl.ofNat (w : Nat) : FmtVl :=
  { vd := Fin.ofNat 32 (w / 0x40),
    va := Fin.ofNat 32 (w / 0x800),
    vb := Fin.ofNat 32 (w / 0x10000),
    et := Fin.ofNat 16 (w / 0x200000),
    lk := Fin.ofNat 16 (w / 0x10000000) }

/-- The bits those fields have in a word. -/
def FmtVl.bits (f : FmtVl) : Nat :=
  0x40 * f.vd.val + 0x800 * f.va.val + 0x10000 * f.vb.val + 0x200000 * f.et.val + 0x10000000 * f.lk.val

/-- The fields of format Net of a word (R155). -/
def FmtNet.ofNat (w : Nat) : FmtNet :=
  { vd := Fin.ofNat 32 (w / 0x40),
    va := Fin.ofNat 32 (w / 0x800),
    tree := Fin.ofNat 4 (w / 0x10000),
    op := Fin.ofNat 4 (w / 0x40000),
    et := Fin.ofNat 16 (w / 0x200000),
    lk := Fin.ofNat 16 (w / 0x10000000) }

/-- The bits those fields have in a word. -/
def FmtNet.bits (f : FmtNet) : Nat :=
  0x40 * f.vd.val + 0x800 * f.va.val + 0x10000 * f.tree.val + 0x40000 * f.op.val + 0x200000 * f.et.val + 0x10000000 * f.lk.val

/-- The fields of format X of a word (R155). -/
def FmtX.ofNat (w : Nat) : FmtX :=
  { x := Fin.ofNat 32 (w / 0x40),
    y := Fin.ofNat 32 (w / 0x800),
    z := Fin.ofNat 32 (w / 0x10000),
    fl := Fin.ofNat 16 (w / 0x1000000),
    lk := Fin.ofNat 16 (w / 0x10000000) }

/-- The bits those fields have in a word. -/
def FmtX.bits (f : FmtX) : Nat :=
  0x40 * f.x.val + 0x800 * f.y.val + 0x10000 * f.z.val + 0x1000000 * f.fl.val + 0x10000000 * f.lk.val

/-- The fields of format T of a word (R155). -/
def FmtT.ofNat (w : Nat) : FmtT :=
  { q := Fin.ofNat 32 (w / 0x40),
    a := Fin.ofNat 32 (w / 0x800),
    t := Fin.ofNat 32 (w / 0x10000),
    cnt := Fin.ofNat 16 (w / 0x1000000),
    lk := Fin.ofNat 16 (w / 0x10000000) }

/-- The bits those fields have in a word. -/
def FmtT.bits (f : FmtT) : Nat :=
  0x40 * f.q.val + 0x800 * f.a.val + 0x10000 * f.t.val + 0x1000000 * f.cnt.val + 0x10000000 * f.lk.val

/-- The fields of format Rpc of a word (R155). -/
def FmtRpc.ofNat (w : Nat) : FmtRpc :=
  { t := Fin.ofNat 32 (w / 0x40),
    a := Fin.ofNat 32 (w / 0x800),
    lk := Fin.ofNat 16 (w / 0x10000000) }

/-- The bits those fields have in a word. -/
def FmtRpc.bits (f : FmtRpc) : Nat :=
  0x40 * f.t.val + 0x800 * f.a.val + 0x10000000 * f.lk.val

/-- The fields of format E of a word (R155). -/
def FmtE.ofNat (w : Nat) : FmtE :=
  { t := Fin.ofNat 32 (w / 0x40),
    a := Fin.ofNat 32 (w / 0x800),
    engine := Fin.ofNat 128 (w / 0x10000),
    lk := Fin.ofNat 16 (w / 0x10000000) }

/-- The bits those fields have in a word. -/
def FmtE.bits (f : FmtE) : Nat :=
  0x40 * f.t.val + 0x800 * f.a.val + 0x10000 * f.engine.val + 0x10000000 * f.lk.val

/-- The fields of format S of a word (R155). -/
def FmtS.ofNat (w : Nat) : FmtS :=
  { d := Fin.ofNat 32 (w / 0x40),
    a := Fin.ofNat 32 (w / 0x800),
    tag := Fin.ofNat 8 (w / 0x10000),
    scope := Fin.ofNat 8 (w / 0x400000) }

/-- The bits those fields have in a word. -/
def FmtS.bits (f : FmtS) : Nat :=
  0x40 * f.d.val + 0x800 * f.a.val + 0x10000 * f.tag.val + 0x400000 * f.scope.val

/-- The fields of format P of a word (R155). -/
def FmtP.ofNat (w : Nat) : FmtP :=
  { reg := Fin.ofNat 32 (w / 0x40),
    port := Fin.ofNat 256 (w / 0x800),
    imm := BitVec.ofNat 10 (w / 0x400000) }

/-- The bits those fields have in a word. -/
def FmtP.bits (f : FmtP) : Nat :=
  0x40 * f.reg.val + 0x800 * f.port.val + 0x400000 * f.imm.toNat

/-- The members of major opcode 0x01 (R157). -/
def decodeAlu (w : Nat) : Except Reject Instr :=
  match w / 0x200000 % 128 with
  | 0 => .ok (.add (.ofNat w))
  | 1 => .ok (.sub (.ofNat w))
  | 2 => .ok (.and (.ofNat w))
  | 3 => .ok (.or (.ofNat w))
  | 4 => .ok (.xor (.ofNat w))
  | 5 => .ok (.sll (.ofNat w))
  | 6 => .ok (.srl (.ofNat w))
  | 7 => .ok (.sra (.ofNat w))
  | 8 => .ok (.slt (.ofNat w))
  | 9 => .ok (.sltu (.ofNat w))
  | 10 => .ok (.min (.ofNat w))
  | 11 => .ok (.max (.ofNat w))
  | 12 => .ok (.minu (.ofNat w))
  | 13 => .ok (.maxu (.ofNat w))
  | 14 => .ok (.mul (.ofNat w))
  | 15 => .ok (.mulh (.ofNat w))
  | 16 => .ok (.mulhu (.ofNat w))
  | 17 => .ok (.div (.ofNat w))
  | 18 => .ok (.divu (.ofNat w))
  | 19 => .ok (.rem (.ofNat w))
  | 20 => .ok (.remu (.ofNat w))
  | 21 => .ok (.clz (.ofNat w))
  | 22 => .ok (.ctz (.ofNat w))
  | 23 => .ok (.popc (.ofNat w))
  | _ => .error .reservedMinor

/-- The members of major opcode 0x0D (R157). -/
def decodePtr (w : Nat) : Except Reject Instr :=
  match w / 0x200000 % 128 with
  | 0 => .ok (.pmk (.ofNat w))
  | 1 => .ok (.padd (.ofNat w))
  | 2 => .ok (.ptag (.ofNat w))
  | 3 => .ok (.pclr (.ofNat w))
  | 4 => .ok (.prank (.ofNat w))
  | 5 => .ok (.pchk (.ofNat w))
  | _ => .error .reservedMinor

/-- The members of major opcode 0x0F (R157). -/
def decodeFpu (w : Nat) : Except Reject Instr :=
  match w / 0x200000 % 32 with
  | 0 => .ok (.fadd (.ofNat w))
  | 1 => .ok (.fsub (.ofNat w))
  | 2 => .ok (.fmul (.ofNat w))
  | 3 => .ok (.fdiv (.ofNat w))
  | 4 => .ok (.fsqrt (.ofNat w))
  | 5 => .ok (.fmin (.ofNat w))
  | 6 => .ok (.fmax (.ofNat w))
  | 7 => .ok (.fmadd (.ofNat w))
  | 8 => .ok (.fmsub (.ofNat w))
  | 9 => .ok (.feq (.ofNat w))
  | 10 => .ok (.flt (.ofNat w))
  | 11 => .ok (.fle (.ofNat w))
  | 12 => .ok (.fclass (.ofNat w))
  | 13 => .ok (.fcvtf (.ofNat w))
  | 14 => .ok (.fcvtfi (.ofNat w))
  | 15 => .ok (.fcvtif (.ofNat w))
  | 16 => .ok (.fsgnj (.ofNat w))
  | 17 => .ok (.fsgnjn (.ofNat w))
  | _ => .error .reservedMinor

/-- The members of major opcode 0x12 (R157). -/
def decodeAmo (w : Nat) : Except Reject Instr :=
  match w / 0x200000 % 16 with
  | 0 => .ok (.amoSwap (.ofNat w))
  | 1 => .ok (.amoAdd (.ofNat w))
  | 2 => .ok (.amoAnd (.ofNat w))
  | 3 => .ok (.amoOr (.ofNat w))
  | 4 => .ok (.amoXor (.ofNat w))
  | 5 => .ok (.amoSmin (.ofNat w))
  | 6 => .ok (.amoSmax (.ofNat w))
  | 7 => .ok (.amoUmin (.ofNat w))
  | 8 => .ok (.amoUmax (.ofNat w))
  | 9 => .ok (.amoCas (.ofNat w))
  | 10 => .ok (.amoFadd (.ofNat w))
  | 11 => .ok (.amoFmin (.ofNat w))
  | 12 => .ok (.amoFmax (.ofNat w))
  | _ => .error .reservedMinor

/-- The members of major opcode 0x13 (R157). -/
def decodeRed (w : Nat) : Except Reject Instr :=
  match w / 0x200000 % 16 with
  | 0 => .ok (.redAdd (.ofNat w))
  | 1 => .ok (.redFadd (.ofNat w))
  | 2 => .ok (.redSmin (.ofNat w))
  | 3 => .ok (.redSmax (.ofNat w))
  | 4 => .ok (.redFmin (.ofNat w))
  | 5 => .ok (.redFmax (.ofNat w))
  | _ => .error .reservedMinor

/-- The members of major opcode 0x1F (R157). -/
def decodeSys (w : Nat) : Except Reject Instr :=
  match w / 0x200000 % 128 with
  | 0 =>
    if w / 0x40 % 32 = 0 then .ok (.trap (.ofNat w))
    else if w / 0x40 % 32 = 1 then .ok (.trapBrk (.ofNat w))
    else .error .reservedMinor
  | 1 => .ok (.tret (.ofNat w))
  | 2 => .ok (.fence (.ofNat w))
  | 3 => .ok (.ifence (.ofNat w))
  | 4 => .ok (.spawn (.ofNat w))
  | 5 =>
    if w / 0x10000 % 32 = 0 then .ok (.park (.ofNat w))
    else if w / 0x10000 % 32 = 1 then .ok (.parkMig (.ofNat w))
    else .error .reservedMinor
  | 6 => .ok (.tend (.ofNat w))
  | 7 => .ok (.tyield (.ofNat w))
  | 8 => .ok (.rdcyc (.ofNat w))
  | 9 => .ok (.rank (.ofNat w))
  | 10 => .ok (.wfi (.ofNat w))
  | _ => .error .reservedMinor

/-- The members of major opcode 0x20 (R157). -/
def decodeVbasic (w : Nat) : Except Reject Instr :=
  match w / 0x2000000 % 8 with
  | 0 => .ok (.vadd (.ofNat w))
  | 1 => .ok (.vsub (.ofNat w))
  | 2 => .ok (.vmul (.ofNat w))
  | 3 => .ok (.vmin (.ofNat w))
  | 4 => .ok (.vmax (.ofNat w))
  | 5 => .ok (.vabs (.ofNat w))
  | 6 => .ok (.vneg (.ofNat w))
  | 7 => .ok (.vsgnj (.ofNat w))
  | _ => .error .reservedMinor

/-- The members of major opcode 0x21 (R157). -/
def decodeVmac (w : Nat) : Except Reject Instr :=
  match w / 0x2000000 % 8 with
  | 0 => .ok (.vfma (.ofNat w))
  | 1 => .ok (.vfms (.ofNat w))
  | 2 => .ok (.vfnma (.ofNat w))
  | 3 => .ok (.vwmul (.ofNat w))
  | 4 => .ok (.vwfma (.ofNat w))
  | 5 => .ok (.vqfma (.ofNat w))
  | 6 => .ok (.vdot2 (.ofNat w))
  | 7 => .ok (.vdot4 (.ofNat w))
  | _ => .error .reservedMinor

/-- The members of major opcode 0x22 (R157). -/
def decodeVbit (w : Nat) : Except Reject Instr :=
  match w / 0x2000000 % 8 with
  | 0 => .ok (.vand (.ofNat w))
  | 1 => .ok (.vor (.ofNat w))
  | 2 => .ok (.vxor (.ofNat w))
  | 3 => .ok (.vsll (.ofNat w))
  | 4 => .ok (.vsrl (.ofNat w))
  | 5 => .ok (.vsra (.ofNat w))
  | 6 => .ok (.vadds (.ofNat w))
  | 7 => .ok (.vsubs (.ofNat w))
  | _ => .error .reservedMinor

/-- The members of major opcode 0x23 (R157). -/
def decodeVcmp (w : Nat) : Except Reject Instr :=
  match w / 0x2000000 % 8 with
  | 0 => .ok (.veq (.ofNat w))
  | 1 => .ok (.vne (.ofNat w))
  | 2 => .ok (.vlt (.ofNat w))
  | 3 => .ok (.vle (.ofNat w))
  | 4 => .ok (.vunord (.ofNat w))
  | 5 => .ok (.vclass (.ofNat w))
  | _ => .error .reservedMinor

/-- The members of major opcode 0x24 (R157). -/
def decodeVmask (w : Nat) : Except Reject Instr :=
  match w / 0x2000000 % 8 with
  | 0 => .ok (.vsel (.ofNat w))
  | 1 => .ok (.mand (.ofNat w))
  | 2 => .ok (.mor (.ofNat w))
  | 3 => .ok (.mxor (.ofNat w))
  | 4 => .ok (.mnot (.ofNat w))
  | 5 => .ok (.mpopc (.ofNat w))
  | 6 => .ok (.mfirst (.ofNat w))
  | _ => .error .reservedMinor

/-- The members of major opcode 0x26 (R157). -/
def decodeVquant (w : Nat) : Except Reject Instr :=
  match w / 0x2000000 % 8 with
  | 0 => .ok (.vqnt (.ofNat w))
  | 1 => .ok (.vdqnt (.ofNat w))
  | 2 => .ok (.vcbdec (.ofNat w))
  | _ => .error .reservedMinor

/-- The members of major opcode 0x27 (R157). -/
def decodeVsfn (w : Nat) : Except Reject Instr :=
  match w / 0x2000000 % 8 with
  | 0 => .ok (.vexp2 (.ofNat w))
  | 1 => .ok (.vlog2 (.ofNat w))
  | 2 => .ok (.vrcp (.ofNat w))
  | 3 => .ok (.vrsqrt (.ofNat w))
  | 4 => .ok (.vsqrt (.ofNat w))
  | 5 => .ok (.vdiv (.ofNat w))
  | 6 => .ok (.vsinpi (.ofNat w))
  | 7 => .ok (.vtanh (.ofNat w))
  | _ => .error .reservedMinor

/-- The members of major opcode 0x28 (R157). -/
def decodeVperm (w : Nat) : Except Reject Instr :=
  match w / 0x2000000 % 8 with
  | 0 => .ok (.vperm (.ofNat w))
  | 1 => .ok (.vslup (.ofNat w))
  | 2 => .ok (.vsldn (.ofNat w))
  | 3 => .ok (.vbcast (.ofNat w))
  | 4 => .ok (.vcmprs (.ofNat w))
  | 5 => .ok (.vexpnd (.ofNat w))
  | 6 => .ok (.vzip (.ofNat w))
  | 7 => .ok (.vunzip (.ofNat w))
  | _ => .error .reservedMinor

/-- The members of major opcode 0x29 (R157). -/
def decodeVred (w : Nat) : Except Reject Instr :=
  match w / 0x2000000 % 8 with
  | 0 => .ok (.vrsum (.ofNat w))
  | 1 => .ok (.vrmin (.ofNat w))
  | 2 => .ok (.vrmax (.ofNat w))
  | 3 => .ok (.vscan (.ofNat w))
  | _ => .error .reservedMinor

/-- The members of major opcode 0x2A (R157). -/
def decodeVnet (w : Nat) : Except Reject Instr :=
  match w / 0x2000000 % 8 with
  | 0 => if w / 0x100000 % 2 = 0 then .ok (.netred (.ofNat w)) else .error .formatCheck
  | 1 => if w / 0x100000 % 2 = 0 then .ok (.netbc (.ofNat w)) else .error .formatCheck
  | _ => .error .reservedMinor

/-- The members of major opcode 0x2B (R157). -/
def decodeVld (w : Nat) : Except Reject Instr :=
  match w / 0x2000000 % 8 with
  | 0 => .ok (.vld (.ofNat w))
  | 1 => .ok (.vlds (.ofNat w))
  | 2 => .ok (.vldx (.ofNat w))
  | _ => .error .reservedMinor

/-- The members of major opcode 0x2C (R157). -/
def decodeVst (w : Nat) : Except Reject Instr :=
  match w / 0x2000000 % 8 with
  | 0 => .ok (.vst (.ofNat w))
  | 1 => .ok (.vsts (.ofNat w))
  | 2 => .ok (.vstx (.ofNat w))
  | _ => .error .reservedMinor

/-- The members of major opcode 0x2D (R157). -/
def decodeVmov (w : Nat) : Except Reject Instr :=
  match w / 0x2000000 % 8 with
  | 0 => .ok (.vsplat (.ofNat w))
  | 1 => .ok (.vgetel (.ofNat w))
  | 2 => .ok (.vsetel (.ofNat w))
  | 3 => .ok (.vid (.ofNat w))
  | 4 => .ok (.m2v (.ofNat w))
  | 5 => .ok (.v2m (.ofNat w))
  | _ => .error .reservedMinor

/-- The members of major opcode 0x30 (R157). -/
def decodeTensor (w : Nat) : Except Reject Instr :=
  match w / 0x200000 % 8 with
  | 0 => .ok (.tdef (.ofNat w))
  | 1 => .ok (.tinv (.ofNat w))
  | 2 => .ok (.tqry (.ofNat w))
  | _ => .error .reservedMinor

/-- The members of major opcode 0x31 (R157). -/
def decodeStationary (w : Nat) : Except Reject Instr :=
  match w / 0x200000 % 8 with
  | 0 => .ok (.mstat (.ofNat w))
  | 1 => .ok (.munst (.ofNat w))
  | 2 => if w / 0x1000000 % 2 = 1 ∨ w / 0x10000 % 32 < 8 then .ok (.mwr (.ofNat w)) else .error .formatCheck
  | 3 => if w / 0x1000000 % 2 = 1 ∨ w / 0x10000 % 32 < 8 then .ok (.mrd (.ofNat w)) else .error .formatCheck
  | _ => .error .reservedMinor

/-- The members of major opcode 0x32 (R157). -/
def decodeMatrix (w : Nat) : Except Reject Instr :=
  match w / 0x200000 % 8 with
  | 0 => .ok (.mmac (.ofNat w))
  | 1 => .ok (.mmul (.ofNat w))
  | 2 => .ok (.mmacSp (.ofNat w))
  | 3 => .ok (.mgang (.ofNat w))
  | _ => .error .reservedMinor

/-- The members of major opcode 0x33 (R157). -/
def decodeAccumulator (w : Nat) : Except Reject Instr :=
  match w / 0x200000 % 8 with
  | 0 => if w / 0x800 % 32 < 8 then .ok (.mbind (.ofNat w)) else .error .formatCheck
  | 1 => .ok (.mzero (.ofNat w))
  | 2 => if w / 0x1000000 % 4 ≠ 0 ∨ w / 0x10000 % 32 < 8 then .ok (.mdrain (.ofNat w)) else .error .formatCheck
  | 3 => .ok (.mchk (.ofNat w))
  | 4 => .ok (.mfix (.ofNat w))
  | _ => .error .reservedMinor

/-- The members of major opcode 0x34 (R157). -/
def decodeQueue (w : Nat) : Except Reject Instr :=
  match w / 0x200000 % 8 with
  | 0 => if w / 0x40 % 32 < 8 then .ok (.qcfg (.ofNat w)) else .error .formatCheck
  | 1 => if w / 0x800 % 32 < 8 then .ok (.qhead (.ofNat w)) else .error .formatCheck
  | 2 => if w / 0x800 % 32 < 8 then .ok (.qtail (.ofNat w)) else .error .formatCheck
  | 3 => if w / 0x800 % 32 < 8 then .ok (.qpop (.ofNat w)) else .error .formatCheck
  | 4 => if w / 0x40 % 32 < 8 then .ok (.qpush (.ofNat w)) else .error .formatCheck
  | _ => .error .reservedMinor

/-- The members of major opcode 0x35 (R157). -/
def decodeBand (w : Nat) : Except Reject Instr :=
  match w / 0x200000 % 8 with
  | 0 => .ok (.binj (.ofNat w))
  | 1 => .ok (.bset (.ofNat w))
  | 2 => .ok (.bclr (.ofNat w))
  | 3 => .ok (.bmiss (.ofNat w))
  | 4 => .ok (.bstat (.ofNat w))
  | _ => .error .reservedMinor

/-- The members of major opcode 0x36 (R157). -/
def decodePair (w : Nat) : Except Reject Instr :=
  match w / 0x200000 % 8 with
  | 0 => .ok (.pget (.ofNat w))
  | 1 => .ok (.prel (.ofNat w))
  | _ => .error .reservedMinor

/-- The members of major opcode 0x38 (R157). -/
def decodeTile (w : Nat) : Except Reject Instr :=
  match w / 0x200000 % 8 with
  | 0 => .ok (.tld (.ofNat w))
  | 1 => .ok (.tst (.ofNat w))
  | 2 => .ok (.ract (.ofNat w))
  | 3 => .ok (.rpre (.ofNat w))
  | 4 => .ok (.discard (.ofNat w))
  | _ => .error .reservedMinor

/-- The members of major opcode 0x39 (R157). -/
def decodeRpc (w : Nat) : Except Reject Instr :=
  match w / 0x800000 % 8 with
  | 0 => .ok (.rcall (.ofNat w))
  | 1 => .ok (.rcallp (.ofNat w))
  | _ => .error .reservedMinor

/-- The members of major opcode 0x3A (R157). -/
def decodeEngine (w : Nat) : Except Reject Instr :=
  match w / 0x800000 % 8 with
  | 0 => .ok (.ecmd (.ofNat w))
  | 1 => .ok (.eqry (.ofNat w))
  | 2 => .ok (.ecan (.ofNat w))
  | _ => .error .reservedMinor

/-- The members of major opcode 0x3B (R157). -/
def decodeSync (w : Nat) : Except Reject Instr :=
  match w / 0x80000 % 8 with
  | 0 => .ok (.barr (.ofNat w))
  | 1 => .ok (.bwait (.ofNat w))
  | 2 => .ok (.bmask (.ofNat w))
  | 3 => .ok (.prst (.ofNat w))
  | 4 => .ok (.pwait (.ofNat w))
  | 5 => .ok (.sstep (.ofNat w))
  | _ => .error .reservedMinor

/-- The members of major opcode 0x3C (R157). -/
def decodeMonitor (w : Nat) : Except Reject Instr :=
  match w / 0x80000 % 8 with
  | 0 => .ok (.monArm (.ofNat w))
  | 1 => .ok (.monWait (.ofNat w))
  | 2 => .ok (.monWaitne (.ofNat w))
  | _ => .error .reservedMinor

/-- The members of major opcode 0x3D (R157). -/
def decodeAgent (w : Nat) : Except Reject Instr :=
  match w / 0x80000 % 8 with
  | 0 => .ok (.mvp (.ofNat w))
  | 1 => .ok (.mvr (.ofNat w))
  | 2 => .ok (.mvi (.ofNat w))
  | 3 => .ok (.trig (.ofNat w))
  | 4 => .ok (.abank (.ofNat w))
  | 5 => .ok (.areply (.ofNat w))
  | 6 => .ok (.anext (.ofNat w))
  | _ => .error .reservedMinor

/-- The instruction of a word, by its major opcode; the format checks of R156 come first (R159). -/
def decodeNat (w : Nat) : Except Reject Instr :=
  match w % 64 with
  | 0 => .error .illegalMajor
  | 1 => decodeAlu w
  | 2 => .ok (.addi (.ofNat w))
  | 3 => .ok (.andi (.ofNat w))
  | 4 => .ok (.ori (.ofNat w))
  | 5 => .ok (.xori (.ofNat w))
  | 6 => .ok (.slti (.ofNat w))
  | 7 => .ok (.sltiu (.ofNat w))
  | 8 => .ok (.lui (.ofNat w))
  | 9 => .ok (.lsi (.ofNat w))
  | 10 => if w / 0x400000 = 0 then .ok (.slli (.ofNat w)) else .error .formatCheck
  | 11 => if w / 0x400000 = 0 then .ok (.srli (.ofNat w)) else .error .formatCheck
  | 12 => if w / 0x400000 = 0 then .ok (.srai (.ofNat w)) else .error .formatCheck
  | 13 => decodePtr w
  | 14 => .ok (.paddi (.ofNat w))
  | 15 => decodeFpu w
  | 16 => if w / 0x10000 % 8 ≤ 4 then .ok (.ld (.ofNat w)) else .error .formatCheck
  | 17 => if w / 0x10000 % 8 ≤ 4 then .ok (.st (.ofNat w)) else .error .formatCheck
  | 18 => if w / 0x2000000 % 4 ≤ 1 then decodeAmo w else .error .formatCheck
  | 19 => if w / 0x2000000 % 4 ≤ 1 then decodeRed w else .error .formatCheck
  | 20 => .ok (.beq (.ofNat w))
  | 21 => .ok (.bne (.ofNat w))
  | 22 => .ok (.blt (.ofNat w))
  | 23 => .ok (.bge (.ofNat w))
  | 24 => .ok (.bltu (.ofNat w))
  | 25 => .ok (.bgeu (.ofNat w))
  | 26 => .ok (.jal (.ofNat w))
  | 27 => .ok (.jalr (.ofNat w))
  | 28 => if w / 0x10000000 = 0 then .ok (.crrd (.ofNat w)) else .error .formatCheck
  | 29 => if w / 0x10000000 = 0 then .ok (.crwr (.ofNat w)) else .error .formatCheck
  | 30 => if w / 0x10000000 = 0 then .ok (.crxch (.ofNat w)) else .error .formatCheck
  | 31 => decodeSys w
  | 32 => decodeVbasic w
  | 33 => decodeVmac w
  | 34 => decodeVbit w
  | 35 => decodeVcmp w
  | 36 => decodeVmask w
  | 37 => .ok (.vcvt (.ofNat w))
  | 38 => decodeVquant w
  | 39 => decodeVsfn w
  | 40 => decodeVperm w
  | 41 => decodeVred w
  | 42 => decodeVnet w
  | 43 => decodeVld w
  | 44 => decodeVst w
  | 45 => decodeVmov w
  | 46 => .error .reservedMajor
  | 47 => .error .reservedMajor
  | 48 => decodeTensor w
  | 49 => decodeStationary w
  | 50 => decodeMatrix w
  | 51 => decodeAccumulator w
  | 52 => decodeQueue w
  | 53 => decodeBand w
  | 54 => decodePair w
  | 55 => .error .reservedMajor
  | 56 => if w / 0x40 % 32 < 8 then decodeTile w else .error .formatCheck
  | 57 => if w / 0x4000000 % 4 = 0 ∧ w / 0x10000 % 128 = 0 then decodeRpc w else .error .formatCheck
  | 58 => if w / 0x4000000 % 4 = 0 ∧ (w / 0x10000 % 128 < 96 ∨ w / 0x10000 % 128 = 127) then decodeEngine w else .error .formatCheck
  | 59 => if w / 0x2000000 = 0 then decodeSync w else .error .formatCheck
  | 60 => if w / 0x2000000 = 0 then decodeMonitor w else .error .formatCheck
  | 61 => decodeAgent w
  | 62 => .error .reservedMajor
  | 63 => .error .illegalMajor
  | _ => .error .illegalMajor

/-- The decoder on a fetched word. -/
def decode (w : BitVec 32) : Except Reject Instr := decodeNat w.toNat

/-- The decoder on bytes in memory order: a word is stored little-endian (R154). -/
def decodeBytes : List Byte → Except Reject (Instr × List Byte)
  | b0 :: b1 :: b2 :: b3 :: rest =>
    match decodeNat (b0.toNat + 0x100 * b1.toNat + 0x10000 * b2.toNat + 0x1000000 * b3.toNat) with
    | .ok i => .ok (i, rest)
    | .error e => .error e
  | _ => .error .truncated

/-- The bytes of a word in memory order (R154). -/
def wordBytes (w : Nat) : List Byte :=
  [BitVec.ofNat 8 w, BitVec.ofNat 8 (w / 0x100), BitVec.ofNat 8 (w / 0x10000), BitVec.ofNat 8 (w / 0x1000000)]

/-- What the decoder reads from an instruction whose bits are `w`, laid out as the hardware stores it. -/
def decodeTableWord (nbits w : Nat) : Option Instr :=
  match decodeBytes (wordBytes (w % 2 ^ nbits)) with
  | .ok (i, _) => some i
  | .error _ => none

/-- The word of an instruction, from the same formats; an event of the opcode table has none and gives 0. -/
def encodeNat : Instr → Nat
  | .add f => 0x1 + f.bits
  | .sub f => 0x200001 + f.bits
  | .and f => 0x400001 + f.bits
  | .or f => 0x600001 + f.bits
  | .xor f => 0x800001 + f.bits
  | .sll f => 0xA00001 + f.bits
  | .srl f => 0xC00001 + f.bits
  | .sra f => 0xE00001 + f.bits
  | .slt f => 0x1000001 + f.bits
  | .sltu f => 0x1200001 + f.bits
  | .min f => 0x1400001 + f.bits
  | .max f => 0x1600001 + f.bits
  | .minu f => 0x1800001 + f.bits
  | .maxu f => 0x1A00001 + f.bits
  | .mul f => 0x1C00001 + f.bits
  | .mulh f => 0x1E00001 + f.bits
  | .mulhu f => 0x2000001 + f.bits
  | .div f => 0x2200001 + f.bits
  | .divu f => 0x2400001 + f.bits
  | .rem f => 0x2600001 + f.bits
  | .remu f => 0x2800001 + f.bits
  | .clz f => 0x2A00001 + f.bits
  | .ctz f => 0x2C00001 + f.bits
  | .popc f => 0x2E00001 + f.bits
  | .addi f => 0x2 + f.bits
  | .andi f => 0x3 + f.bits
  | .ori f => 0x4 + f.bits
  | .xori f => 0x5 + f.bits
  | .slti f => 0x6 + f.bits
  | .sltiu f => 0x7 + f.bits
  | .lui f => 0x8 + f.bits
  | .lsi f => 0x9 + f.bits
  | .slli f => 0xA + f.bits
  | .srli f => 0xB + f.bits
  | .srai f => 0xC + f.bits
  | .pmk f => 0xD + f.bits
  | .padd f => 0x20000D + f.bits
  | .ptag f => 0x40000D + f.bits
  | .pclr f => 0x60000D + f.bits
  | .prank f => 0x80000D + f.bits
  | .pchk f => 0xA0000D + f.bits
  | .paddi f => 0xE + f.bits
  | .fadd f => 0xF + f.bits
  | .fsub f => 0x20000F + f.bits
  | .fmul f => 0x40000F + f.bits
  | .fdiv f => 0x60000F + f.bits
  | .fsqrt f => 0x80000F + f.bits
  | .fmin f => 0xA0000F + f.bits
  | .fmax f => 0xC0000F + f.bits
  | .fmadd f => 0xE0000F + f.bits
  | .fmsub f => 0x100000F + f.bits
  | .feq f => 0x120000F + f.bits
  | .flt f => 0x140000F + f.bits
  | .fle f => 0x160000F + f.bits
  | .fclass f => 0x180000F + f.bits
  | .fcvtf f => 0x1A0000F + f.bits
  | .fcvtfi f => 0x1C0000F + f.bits
  | .fcvtif f => 0x1E0000F + f.bits
  | .fsgnj f => 0x200000F + f.bits
  | .fsgnjn f => 0x220000F + f.bits
  | .ld f => 0x10 + f.bits
  | .st f => 0x11 + f.bits
  | .amoSwap f => 0x12 + f.bits
  | .amoAdd f => 0x200012 + f.bits
  | .amoAnd f => 0x400012 + f.bits
  | .amoOr f => 0x600012 + f.bits
  | .amoXor f => 0x800012 + f.bits
  | .amoSmin f => 0xA00012 + f.bits
  | .amoSmax f => 0xC00012 + f.bits
  | .amoUmin f => 0xE00012 + f.bits
  | .amoUmax f => 0x1000012 + f.bits
  | .amoCas f => 0x1200012 + f.bits
  | .amoFadd f => 0x1400012 + f.bits
  | .amoFmin f => 0x1600012 + f.bits
  | .amoFmax f => 0x1800012 + f.bits
  | .redAdd f => 0x13 + f.bits
  | .redFadd f => 0x200013 + f.bits
  | .redSmin f => 0x400013 + f.bits
  | .redSmax f => 0x600013 + f.bits
  | .redFmin f => 0x800013 + f.bits
  | .redFmax f => 0xA00013 + f.bits
  | .beq f => 0x14 + f.bits
  | .bne f => 0x15 + f.bits
  | .blt f => 0x16 + f.bits
  | .bge f => 0x17 + f.bits
  | .bltu f => 0x18 + f.bits
  | .bgeu f => 0x19 + f.bits
  | .jal f => 0x1A + f.bits
  | .jalr f => 0x1B + f.bits
  | .crrd f => 0x1C + f.bits
  | .crwr f => 0x1D + f.bits
  | .crxch f => 0x1E + f.bits
  | .trap f => 0x1F + f.bits
  | .trapBrk f => 0x5F + f.bits
  | .tret f => 0x20001F + f.bits
  | .fence f => 0x40001F + f.bits
  | .ifence f => 0x60001F + f.bits
  | .spawn f => 0x80001F + f.bits
  | .park f => 0xA0001F + f.bits
  | .parkMig f => 0xA1001F + f.bits
  | .tend f => 0xC0001F + f.bits
  | .tyield f => 0xE0001F + f.bits
  | .rdcyc f => 0x100001F + f.bits
  | .rank f => 0x120001F + f.bits
  | .wfi f => 0x140001F + f.bits
  | .vadd f => 0x20 + f.bits
  | .vsub f => 0x2000020 + f.bits
  | .vmul f => 0x4000020 + f.bits
  | .vmin f => 0x6000020 + f.bits
  | .vmax f => 0x8000020 + f.bits
  | .vabs f => 0xA000020 + f.bits
  | .vneg f => 0xC000020 + f.bits
  | .vsgnj f => 0xE000020 + f.bits
  | .vfma f => 0x21 + f.bits
  | .vfms f => 0x2000021 + f.bits
  | .vfnma f => 0x4000021 + f.bits
  | .vwmul f => 0x6000021 + f.bits
  | .vwfma f => 0x8000021 + f.bits
  | .vqfma f => 0xA000021 + f.bits
  | .vdot2 f => 0xC000021 + f.bits
  | .vdot4 f => 0xE000021 + f.bits
  | .vand f => 0x22 + f.bits
  | .vor f => 0x2000022 + f.bits
  | .vxor f => 0x4000022 + f.bits
  | .vsll f => 0x6000022 + f.bits
  | .vsrl f => 0x8000022 + f.bits
  | .vsra f => 0xA000022 + f.bits
  | .vadds f => 0xC000022 + f.bits
  | .vsubs f => 0xE000022 + f.bits
  | .veq f => 0x23 + f.bits
  | .vne f => 0x2000023 + f.bits
  | .vlt f => 0x4000023 + f.bits
  | .vle f => 0x6000023 + f.bits
  | .vunord f => 0x8000023 + f.bits
  | .vclass f => 0xA000023 + f.bits
  | .vsel f => 0x24 + f.bits
  | .mand f => 0x2000024 + f.bits
  | .mor f => 0x4000024 + f.bits
  | .mxor f => 0x6000024 + f.bits
  | .mnot f => 0x8000024 + f.bits
  | .mpopc f => 0xA000024 + f.bits
  | .mfirst f => 0xC000024 + f.bits
  | .vcvt f => 0x25 + f.bits
  | .vqnt f => 0x26 + f.bits
  | .vdqnt f => 0x2000026 + f.bits
  | .vcbdec f => 0x4000026 + f.bits
  | .vexp2 f => 0x27 + f.bits
  | .vlog2 f => 0x2000027 + f.bits
  | .vrcp f => 0x4000027 + f.bits
  | .vrsqrt f => 0x6000027 + f.bits
  | .vsqrt f => 0x8000027 + f.bits
  | .vdiv f => 0xA000027 + f.bits
  | .vsinpi f => 0xC000027 + f.bits
  | .vtanh f => 0xE000027 + f.bits
  | .vperm f => 0x28 + f.bits
  | .vslup f => 0x2000028 + f.bits
  | .vsldn f => 0x4000028 + f.bits
  | .vbcast f => 0x6000028 + f.bits
  | .vcmprs f => 0x8000028 + f.bits
  | .vexpnd f => 0xA000028 + f.bits
  | .vzip f => 0xC000028 + f.bits
  | .vunzip f => 0xE000028 + f.bits
  | .vrsum f => 0x29 + f.bits
  | .vrmin f => 0x2000029 + f.bits
  | .vrmax f => 0x4000029 + f.bits
  | .vscan f => 0x6000029 + f.bits
  | .netred f => 0x2A + f.bits
  | .netbc f => 0x200002A + f.bits
  | .vld f => 0x2B + f.bits
  | .vlds f => 0x200002B + f.bits
  | .vldx f => 0x400002B + f.bits
  | .vst f => 0x2C + f.bits
  | .vsts f => 0x200002C + f.bits
  | .vstx f => 0x400002C + f.bits
  | .vsplat f => 0x2D + f.bits
  | .vgetel f => 0x200002D + f.bits
  | .vsetel f => 0x400002D + f.bits
  | .vid f => 0x600002D + f.bits
  | .m2v f => 0x800002D + f.bits
  | .v2m f => 0xA00002D + f.bits
  | .tdef f => 0x30 + f.bits
  | .tinv f => 0x200030 + f.bits
  | .tqry f => 0x400030 + f.bits
  | .mstat f => 0x31 + f.bits
  | .munst f => 0x200031 + f.bits
  | .mwr f => 0x400031 + f.bits
  | .mrd f => 0x600031 + f.bits
  | .mmac f => 0x32 + f.bits
  | .mmul f => 0x200032 + f.bits
  | .mmacSp f => 0x400032 + f.bits
  | .mgang f => 0x600032 + f.bits
  | .mbind f => 0x33 + f.bits
  | .mzero f => 0x200033 + f.bits
  | .mdrain f => 0x400033 + f.bits
  | .mchk f => 0x600033 + f.bits
  | .mfix f => 0x800033 + f.bits
  | .qcfg f => 0x34 + f.bits
  | .qhead f => 0x200034 + f.bits
  | .qtail f => 0x400034 + f.bits
  | .qpop f => 0x600034 + f.bits
  | .qpush f => 0x800034 + f.bits
  | .binj f => 0x35 + f.bits
  | .bset f => 0x200035 + f.bits
  | .bclr f => 0x400035 + f.bits
  | .bmiss f => 0x600035 + f.bits
  | .bstat f => 0x800035 + f.bits
  | .pget f => 0x36 + f.bits
  | .prel f => 0x200036 + f.bits
  | .tld f => 0x38 + f.bits
  | .tst f => 0x200038 + f.bits
  | .ract f => 0x400038 + f.bits
  | .rpre f => 0x600038 + f.bits
  | .discard f => 0x800038 + f.bits
  | .rcall f => 0x39 + f.bits
  | .rcallp f => 0x800039 + f.bits
  | .ecmd f => 0x3A + f.bits
  | .eqry f => 0x80003A + f.bits
  | .ecan f => 0x100003A + f.bits
  | .barr f => 0x3B + f.bits
  | .bwait f => 0x8003B + f.bits
  | .bmask f => 0x10003B + f.bits
  | .prst f => 0x18003B + f.bits
  | .pwait f => 0x20003B + f.bits
  | .sstep f => 0x28003B + f.bits
  | .monArm f => 0x3C + f.bits
  | .monWait f => 0x8003C + f.bits
  | .monWaitne f => 0x10003C + f.bits
  | .mvp f => 0x3D + f.bits
  | .mvr f => 0x8003D + f.bits
  | .mvi f => 0x10003D + f.bits
  | .trig f => 0x18003D + f.bits
  | .abank f => 0x20003D + f.bits
  | .areply f => 0x28003D + f.bits
  | .anext f => 0x30003D + f.bits
  | .cmdCopy _ => 0
  | .cmdCopy2d _ => 0
  | .cmdGather _ => 0
  | .cmdScatter _ => 0
  | .cmdFill _ => 0
  | .cmdCollectiveReduce _ => 0
  | .cmdPageMigrateMove _ => 0
  | .cmdPageMigrateShoot _ => 0
  | .cmdBankMacLaunch _ => 0
  | .engineCommandActivate _ => 0
  | .enginePage _ => 0
  | .handlerRead _ => 0
  | .handlerWrite _ => 0
  | .handlerElementAtomic _ => 0
  | .handlerTileRead _ => 0
  | .handlerTileWrite _ => 0
  | .handlerTileAdd _ => 0
  | .handlerVectorAdd _ => 0
  | .handlerHandOffPush _ => 0
  | .handlerHandOffPop _ => 0
  | .migrateOut _ => 0
  | .migrateIn _ => 0
  | .handlerRemoteMonitorArm _ => 0
  | .handlerReductionRecall _ => 0
  | .handlerBankMacLaunch _ => 0
  | .loadedHandler _ => 0
  | .mgo _ => 0
  | .agCount _ _ _ => 0
  | .mvGo _ _ => 0
  | .cmGo _ => 0
  | .vDataRead _ _ => 0
  | .vDataWrite _ _ => 0
  | .bankMacProgramRun _ => 0
  | .bankMacComplete _ => 0
  | .bankLockExpiry _ => 0
  | .issueArbitration _ => 0
  | .priorityAging _ _ => 0
  | .slotPlacement _ _ => 0
  | .preEmption _ _ => 0
  | .gangReservation _ _ => 0
  | .gangReservationTimeout _ => 0
  | .gangRelease _ => 0
  | .gangBmaskLoadTimeout _ _ => 0
  | .trapEntry _ _ _ _ => 0
  | .interruptEntry _ _ => 0
  | .wfiWake _ _ => 0
  | .taskWatchdogExpiry _ _ => 0
  | .taskFailureRemoval _ _ => 0
  | .tokenStatusWrite => 0
  | .statusUndeliverable => 0
  | .spawnTopupAck _ _ => 0
  | .topupMessage => 0
  | .weightReturn => 0
  | .joinSignal _ => 0
  | .joinFailure _ _ => 0
  | .dispatch _ => 0
  | .lrec _ _ _ _ _ => 0
  | .qctlResume _ _ => 0
  | .qctlFlush _ _ => 0
  | .qctlClearDrops _ _ => 0
  | .joinCounterWrite _ _ _ => 0
  | .hostDoorbell _ _ _ => 0
  | .vaultWindowRead _ _ _ => 0
  | .vaultWindowWrite _ _ _ _ => 0
  | .ltolWrite _ _ _ => 0
  | .redundantCompare _ => 0
  | .matrixOpStart _ _ => 0
  | .matrixOpComplete _ _ => 0
  | .tileTransferTile _ => 0
  | .bankRefresh _ _ => 0
  | .bankRefreshEnd _ _ => 0
  | .testerBurst _ _ _ _ => 0
  | .testerBurstAbort _ => 0
  | .rowRepair _ _ => 0
  | .vaultThrottleChange _ _ => 0
  | .coreThrottleRaise _ => 0
  | .coreThrottleLower _ => 0
  | .bandStep _ => 0
  | .bandInjection _ _ => 0
  | .injectionClaim _ _ => 0
  | .retireNotice => 0
  | .ejectionMessage => 0
  | .ejectionWriteComplete => 0
  | .probeCircuit _ _ => 0
  | .barrierPhaseComplete _ _ => 0
  | .barrierWatchdogExpiry _ _ => 0
  | .rollback _ => 0
  | .monitorWake _ _ => 0
  | .monitorTimeout _ _ => 0
  | .netredRoundComplete _ => 0
  | .reductionFlush _ => 0
  | .reductionRecall _ _ => 0
  | .pageWalk _ _ _ _ => 0
  | .setDirty _ _ => 0
  | .faultResolve _ _ => 0
  | .shootdownReceipt _ => 0
  | .shootdownAck _ => 0
  | .redirectNotice _ => 0
  | .discardAtHome => 0
  | .srseedWrite _ _ _ => 0
  | .fpctlWrite _ _ _ => 0
  | .bmaskWrite _ _ _ => 0
  | .ptbaseWrite _ _ => 0
  | .errinjWrite _ _ _ => 0
  | .spkeyWrite _ _ => 0
  | .hqgWrite _ _ => 0
  | .slotDoorbell _ _ _ => 0
  | .registerWrite _ _ _ _ => 0
  | .powerStateEntry _ _ => 0
  | .wakeEvent _ => 0
  | .wakeComplete _ => 0
  | .thermalHold _ => 0
  | .thermalHoldRelease _ => 0
  | .linkRateLower _ => 0
  | .linkDown _ => 0
  | .packageReset => 0
  | .hostPortReset _ => 0
  | .monitorBoot => 0
  | .ucieTraining _ => 0
  | .vaultTest _ => 0
  | .cufflinkNegotiation _ _ => 0
  | .hostEnumeration => 0
  | .partitionCreation _ => 0
  | .partitionRemoval _ _ => 0
  | .outstandingInstructionComplete _ _ => 0
  | .illegalInstruction w => w.toNat
  | .heldRequestResend _ => 0
  | .testerBurstEnd _ => 0
  | .agentUnitComplete _ _ => 0
  | .linkRetrain _ _ => 0
  | .hostPortTraining _ _ => 0
  | .secondTierPortDown _ => 0
  | .secondTierPortUp _ _ => 0

/-- The instruction has a word: it is no event of the opcode table. -/
def hasWord : Instr → Bool
  | .add _ => true
  | .sub _ => true
  | .and _ => true
  | .or _ => true
  | .xor _ => true
  | .sll _ => true
  | .srl _ => true
  | .sra _ => true
  | .slt _ => true
  | .sltu _ => true
  | .min _ => true
  | .max _ => true
  | .minu _ => true
  | .maxu _ => true
  | .mul _ => true
  | .mulh _ => true
  | .mulhu _ => true
  | .div _ => true
  | .divu _ => true
  | .rem _ => true
  | .remu _ => true
  | .clz _ => true
  | .ctz _ => true
  | .popc _ => true
  | .addi _ => true
  | .andi _ => true
  | .ori _ => true
  | .xori _ => true
  | .slti _ => true
  | .sltiu _ => true
  | .lui _ => true
  | .lsi _ => true
  | .slli _ => true
  | .srli _ => true
  | .srai _ => true
  | .pmk _ => true
  | .padd _ => true
  | .ptag _ => true
  | .pclr _ => true
  | .prank _ => true
  | .pchk _ => true
  | .paddi _ => true
  | .fadd _ => true
  | .fsub _ => true
  | .fmul _ => true
  | .fdiv _ => true
  | .fsqrt _ => true
  | .fmin _ => true
  | .fmax _ => true
  | .fmadd _ => true
  | .fmsub _ => true
  | .feq _ => true
  | .flt _ => true
  | .fle _ => true
  | .fclass _ => true
  | .fcvtf _ => true
  | .fcvtfi _ => true
  | .fcvtif _ => true
  | .fsgnj _ => true
  | .fsgnjn _ => true
  | .ld _ => true
  | .st _ => true
  | .amoSwap _ => true
  | .amoAdd _ => true
  | .amoAnd _ => true
  | .amoOr _ => true
  | .amoXor _ => true
  | .amoSmin _ => true
  | .amoSmax _ => true
  | .amoUmin _ => true
  | .amoUmax _ => true
  | .amoCas _ => true
  | .amoFadd _ => true
  | .amoFmin _ => true
  | .amoFmax _ => true
  | .redAdd _ => true
  | .redFadd _ => true
  | .redSmin _ => true
  | .redSmax _ => true
  | .redFmin _ => true
  | .redFmax _ => true
  | .beq _ => true
  | .bne _ => true
  | .blt _ => true
  | .bge _ => true
  | .bltu _ => true
  | .bgeu _ => true
  | .jal _ => true
  | .jalr _ => true
  | .crrd _ => true
  | .crwr _ => true
  | .crxch _ => true
  | .trap _ => true
  | .trapBrk _ => true
  | .tret _ => true
  | .fence _ => true
  | .ifence _ => true
  | .spawn _ => true
  | .park _ => true
  | .parkMig _ => true
  | .tend _ => true
  | .tyield _ => true
  | .rdcyc _ => true
  | .rank _ => true
  | .wfi _ => true
  | .vadd _ => true
  | .vsub _ => true
  | .vmul _ => true
  | .vmin _ => true
  | .vmax _ => true
  | .vabs _ => true
  | .vneg _ => true
  | .vsgnj _ => true
  | .vfma _ => true
  | .vfms _ => true
  | .vfnma _ => true
  | .vwmul _ => true
  | .vwfma _ => true
  | .vqfma _ => true
  | .vdot2 _ => true
  | .vdot4 _ => true
  | .vand _ => true
  | .vor _ => true
  | .vxor _ => true
  | .vsll _ => true
  | .vsrl _ => true
  | .vsra _ => true
  | .vadds _ => true
  | .vsubs _ => true
  | .veq _ => true
  | .vne _ => true
  | .vlt _ => true
  | .vle _ => true
  | .vunord _ => true
  | .vclass _ => true
  | .vsel _ => true
  | .mand _ => true
  | .mor _ => true
  | .mxor _ => true
  | .mnot _ => true
  | .mpopc _ => true
  | .mfirst _ => true
  | .vcvt _ => true
  | .vqnt _ => true
  | .vdqnt _ => true
  | .vcbdec _ => true
  | .vexp2 _ => true
  | .vlog2 _ => true
  | .vrcp _ => true
  | .vrsqrt _ => true
  | .vsqrt _ => true
  | .vdiv _ => true
  | .vsinpi _ => true
  | .vtanh _ => true
  | .vperm _ => true
  | .vslup _ => true
  | .vsldn _ => true
  | .vbcast _ => true
  | .vcmprs _ => true
  | .vexpnd _ => true
  | .vzip _ => true
  | .vunzip _ => true
  | .vrsum _ => true
  | .vrmin _ => true
  | .vrmax _ => true
  | .vscan _ => true
  | .netred _ => true
  | .netbc _ => true
  | .vld _ => true
  | .vlds _ => true
  | .vldx _ => true
  | .vst _ => true
  | .vsts _ => true
  | .vstx _ => true
  | .vsplat _ => true
  | .vgetel _ => true
  | .vsetel _ => true
  | .vid _ => true
  | .m2v _ => true
  | .v2m _ => true
  | .tdef _ => true
  | .tinv _ => true
  | .tqry _ => true
  | .mstat _ => true
  | .munst _ => true
  | .mwr _ => true
  | .mrd _ => true
  | .mmac _ => true
  | .mmul _ => true
  | .mmacSp _ => true
  | .mgang _ => true
  | .mbind _ => true
  | .mzero _ => true
  | .mdrain _ => true
  | .mchk _ => true
  | .mfix _ => true
  | .qcfg _ => true
  | .qhead _ => true
  | .qtail _ => true
  | .qpop _ => true
  | .qpush _ => true
  | .binj _ => true
  | .bset _ => true
  | .bclr _ => true
  | .bmiss _ => true
  | .bstat _ => true
  | .pget _ => true
  | .prel _ => true
  | .tld _ => true
  | .tst _ => true
  | .ract _ => true
  | .rpre _ => true
  | .discard _ => true
  | .rcall _ => true
  | .rcallp _ => true
  | .ecmd _ => true
  | .eqry _ => true
  | .ecan _ => true
  | .barr _ => true
  | .bwait _ => true
  | .bmask _ => true
  | .prst _ => true
  | .pwait _ => true
  | .sstep _ => true
  | .monArm _ => true
  | .monWait _ => true
  | .monWaitne _ => true
  | .mvp _ => true
  | .mvr _ => true
  | .mvi _ => true
  | .trig _ => true
  | .abank _ => true
  | .areply _ => true
  | .anext _ => true
  | .cmdCopy _ => false
  | .cmdCopy2d _ => false
  | .cmdGather _ => false
  | .cmdScatter _ => false
  | .cmdFill _ => false
  | .cmdCollectiveReduce _ => false
  | .cmdPageMigrateMove _ => false
  | .cmdPageMigrateShoot _ => false
  | .cmdBankMacLaunch _ => false
  | .engineCommandActivate _ => false
  | .enginePage _ => false
  | .handlerRead _ => false
  | .handlerWrite _ => false
  | .handlerElementAtomic _ => false
  | .handlerTileRead _ => false
  | .handlerTileWrite _ => false
  | .handlerTileAdd _ => false
  | .handlerVectorAdd _ => false
  | .handlerHandOffPush _ => false
  | .handlerHandOffPop _ => false
  | .migrateOut _ => false
  | .migrateIn _ => false
  | .handlerRemoteMonitorArm _ => false
  | .handlerReductionRecall _ => false
  | .handlerBankMacLaunch _ => false
  | .loadedHandler _ => false
  | .mgo _ => false
  | .agCount _ _ _ => false
  | .mvGo _ _ => false
  | .cmGo _ => false
  | .vDataRead _ _ => false
  | .vDataWrite _ _ => false
  | .bankMacProgramRun _ => false
  | .bankMacComplete _ => false
  | .bankLockExpiry _ => false
  | .issueArbitration _ => false
  | .priorityAging _ _ => false
  | .slotPlacement _ _ => false
  | .preEmption _ _ => false
  | .gangReservation _ _ => false
  | .gangReservationTimeout _ => false
  | .gangRelease _ => false
  | .gangBmaskLoadTimeout _ _ => false
  | .trapEntry _ _ _ _ => false
  | .interruptEntry _ _ => false
  | .wfiWake _ _ => false
  | .taskWatchdogExpiry _ _ => false
  | .taskFailureRemoval _ _ => false
  | .tokenStatusWrite => false
  | .statusUndeliverable => false
  | .spawnTopupAck _ _ => false
  | .topupMessage => false
  | .weightReturn => false
  | .joinSignal _ => false
  | .joinFailure _ _ => false
  | .dispatch _ => false
  | .lrec _ _ _ _ _ => false
  | .qctlResume _ _ => false
  | .qctlFlush _ _ => false
  | .qctlClearDrops _ _ => false
  | .joinCounterWrite _ _ _ => false
  | .hostDoorbell _ _ _ => false
  | .vaultWindowRead _ _ _ => false
  | .vaultWindowWrite _ _ _ _ => false
  | .ltolWrite _ _ _ => false
  | .redundantCompare _ => false
  | .matrixOpStart _ _ => false
  | .matrixOpComplete _ _ => false
  | .tileTransferTile _ => false
  | .bankRefresh _ _ => false
  | .bankRefreshEnd _ _ => false
  | .testerBurst _ _ _ _ => false
  | .testerBurstAbort _ => false
  | .rowRepair _ _ => false
  | .vaultThrottleChange _ _ => false
  | .coreThrottleRaise _ => false
  | .coreThrottleLower _ => false
  | .bandStep _ => false
  | .bandInjection _ _ => false
  | .injectionClaim _ _ => false
  | .retireNotice => false
  | .ejectionMessage => false
  | .ejectionWriteComplete => false
  | .probeCircuit _ _ => false
  | .barrierPhaseComplete _ _ => false
  | .barrierWatchdogExpiry _ _ => false
  | .rollback _ => false
  | .monitorWake _ _ => false
  | .monitorTimeout _ _ => false
  | .netredRoundComplete _ => false
  | .reductionFlush _ => false
  | .reductionRecall _ _ => false
  | .pageWalk _ _ _ _ => false
  | .setDirty _ _ => false
  | .faultResolve _ _ => false
  | .shootdownReceipt _ => false
  | .shootdownAck _ => false
  | .redirectNotice _ => false
  | .discardAtHome => false
  | .srseedWrite _ _ _ => false
  | .fpctlWrite _ _ _ => false
  | .bmaskWrite _ _ _ => false
  | .ptbaseWrite _ _ => false
  | .errinjWrite _ _ _ => false
  | .spkeyWrite _ _ => false
  | .hqgWrite _ _ => false
  | .slotDoorbell _ _ _ => false
  | .registerWrite _ _ _ _ => false
  | .powerStateEntry _ _ => false
  | .wakeEvent _ => false
  | .wakeComplete _ => false
  | .thermalHold _ => false
  | .thermalHoldRelease _ => false
  | .linkRateLower _ => false
  | .linkDown _ => false
  | .packageReset => false
  | .hostPortReset _ => false
  | .monitorBoot => false
  | .ucieTraining _ => false
  | .vaultTest _ => false
  | .cufflinkNegotiation _ _ => false
  | .hostEnumeration => false
  | .partitionCreation _ => false
  | .partitionRemoval _ _ => false
  | .outstandingInstructionComplete _ _ => false
  | .illegalInstruction _ => false
  | .heldRequestResend _ => false
  | .testerBurstEnd _ => false
  | .agentUnitComplete _ _ => false
  | .linkRetrain _ _ => false
  | .hostPortTraining _ _ => false
  | .secondTierPortDown _ => false
  | .secondTierPortUp _ _ => false

/-- The encoder: the word of a well-formed instruction. -/
def encode (i : Instr) : Option (BitVec 32) := if hasWord i then some (BitVec.ofNat 32 (encodeNat i)) else none

end Sys2Proof
end

