-- ==== Sys2Proof/Machine/State.lean ====
section
/-!
DEFINITION. The state of one Laroz package as plain data: threads, cores, bands, package tables, memory, and the
messages in flight between them. INVENTORY.md lists each piece with its rule. `State.reset` is the machine at the
release of package reset (R389).
-/

namespace Sys2Proof.Machine

/-- Why a step stops the machine. -/
inductive Fault where
  /-- A term that `WellFormed` refuses and that no word decodes to. Raised by a meaning given such a term: safe. -/
  | illFormed
  deriving DecidableEq, Repr

/-- Why a step has no meaning. -/
inductive Refusal where
  /-- An instruction the model has not reached. Raised by no arm of `exec` in this model: safe. -/
  | notModelled (mnemonic : String)
  deriving DecidableEq, Repr

/-- A trap to be taken: cause, TVAL, TCAUSE.KIND, whether an outstanding instruction raised it (R296, R301), and the flags
that taking an FPX sets (R59). -/
structure Trap where
  cause : Cause
  tval : Word
  kind : BitVec 4
  out : Bool
  flags : Nat := 0
  deriving DecidableEq, Repr

/-- Which thread: slots 0-3 of a core, or 4 for its vault agent. -/
structure Turn where
  rank : Nat
  slot : Fin 5
  deriving DecidableEq, Repr

/-- The kinds of place an access is performed at (R77, R94). -/
inductive Region where
  | scratch | vault | agentData | agentCode | control | tier2 (part : Nat) | host (part : Nat)
  deriving DecidableEq, Repr

/-- A place: its home core, the kind of store, the offset there (R94). -/
structure Loc where
  region : Region
  home : Nat
  off : Nat
  deriving DecidableEq, Repr

/-- A register, register group, accumulator or queue that an instruction reads or writes, or the bytes of memory from a key
(R25, R218). -/
inductive Res where
  | s (r : Reg) | v (r : Reg) | m (r : Fin 8) | acc (n : Fin 8) | q (n : Nat) | mem (key n : Nat)
  deriving DecidableEq, Repr

/-- What an outstanding instruction still waits for. -/
inductive OutWait where
  | ready | op (id : Nat) | tiles (id : Nat) | net (id : Nat) | inj (id : Nat)
  | stopped (done : Nat)    -- a leave has stopped its transfer after that many tiles (R255)
  deriving DecidableEq, Repr

/-- An outstanding long-latency instruction (R23, R26). -/
structure Outst where
  pc : Ptr
  lk : Nat
  issued : Nat              -- instructions issued after it
  done : BitVec 15          -- which of them took full effect
  dest : List Res
  trap : Option Trap
  wait : OutWait
  deriving DecidableEq, Repr

/-- The window that `tret` replays (R26, R303): the position of the next instruction and what to skip. -/
structure Replay where
  pos : Nat                 -- 0 is the trapped instruction
  skip : BitVec 16          -- bit 0: SKIPX; bit n: LKDONE[n-1]
  deriving DecidableEq, Repr

/-- One accumulator with its binding and checksum vectors, 32 elements of 64 bits each (R130, R135). -/
structure Acc where
  elems : AccBits
  bind : Word
  cr : BitVec 2048
  cc : BitVec 2048
  sr : BitVec 2048
  sc : BitVec 2048
  deriving DecidableEq, Repr

/-- Where a task came from (R29). -/
inductive Source where
  | launch | spawn | matched | gang | resume
  deriving DecidableEq, Repr

/-- What a task outside a slot waits for. -/
inductive ParkWait where
  | none                    -- ready
  | token (r : Reg)         -- parked on a token (R31)
  | fault (p k : Nat)       -- parked on fault-queue entry k of partition p (R324)
  | gang (g : Nat)          -- until its gang is placed (R36)
  | failed                  -- failed, until its asynchronous operations have ended (R325)
  deriving DecidableEq, Repr

/-- A monitor: the address it was armed with and its granule (R274). -/
structure Mon where
  ga : Ptr
  loc : Loc
  deriving DecidableEq, Repr

/-- A wait of `mon.wait` or `mon.waitne` (R275, R276). -/
structure MonWait where
  d : Reg
  ends : Nat                -- cycle of the timeout
  ne : Bool
  seen : Option Word        -- the first value that a write has made differ from d (R276)
  deriving DecidableEq, Repr

/-- A task: the continuation record of R27 and what the hardware keeps beside it. -/
structure Task where
  id : Word                 -- TASKID
  pc : Ptr
  prio : Nat
  aged : Nat                -- promotions since it became ready (R34)
  mig : Bool
  gang : Bool
  matched : Bool
  frame : Bool
  parked : Bool
  live : BitVec 32
  arg : Word
  weight : Nat
  join : BitVec 16
  domain : BitVec 16
  origin : Nat
  parkTok : Reg
  launch : Nat              -- number of the launch; its low 32 bits index the termination record (R319)
  regs : List Ptr           -- the saved registers, ascending
  src : Source
  s5 : Word
  s6 : Word
  s7 : Word
  evctl : Word
  srseed : Word
  tidbase : Word
  tidlim : Word
  wdog : Nat                -- units of 2^16 cc, 0 none (R326)
  ran : Nat                 -- core cycles in a slot so far
  since : Nat               -- cycle at which it became ready, was placed, or left
  mitten : Option Nat       -- mitten slot held (R147)
  gangOf : Option (Nat × Nat)  -- gang and member index (R36)
  copy : Option (Nat × Nat)    -- redundant launch and copy number (R359)
  wait : ParkWait
  mon : Option Mon          -- the armed monitor, kept in the record (R274)
  bound : Option (Fin 8 × Word)  -- accumulator and binding of a matched task (R147)
  tiles : Nat               -- tiles done of an outstanding transfer (R255)
  stopped : Bool            -- the leave stopped such a transfer (R307 VALID)
  replay : Option Replay    -- the window of a transfer that the leave stopped (R309)
  pend : BitVec 32          -- tokens pending at the leave (R307)
  tokErr : BitVec 32
  tokUnc : BitVec 32
  kidWdog : Nat             -- WDOG that the children of a matched task inherit: that of its launch (R326)
  probe : Word              -- domain in whose probe a task of weight 0 counts, from its creation (R147, R192, R271)
  deriving DecidableEq, Repr

/-- The state of a slot (R20). -/
inductive Occ where
  | empty | occupied | draining
  deriving DecidableEq, Repr

/-- A thread slot, or the thread of a vault agent. -/
structure Thread where
  occ : Occ
  pc : Ptr
  regs : Vector Ptr 32
  pend : BitVec 32
  tokErr : BitVec 32
  tokUnc : BitVec 32        -- tokens whose status carries an UNCORR that a rollback can restore (R355)
  vregs : Vector VReg 32
  masks : Vector MReg 8
  accs : Vector Acc 8
  fpctl : Word
  warn : Word
  srseed : Word
  evctl : Word
  domid : Word
  errinj : Word
  tidbase : Word
  tidlim : Word
  thstat : Word
  tcause : Word
  tval : Word
  tepc : Word
  tscratch : Word
  ien : Word
  ipend : Word
  dirty : Word
  stackRows : BitVec 2048
  missTval : Word           -- detail of the first MISSOVF since the bit was cleared (R297)
  outst : List Outst
  replay : Option Replay
  resumeTiles : Nat
  xferStop : Bool           -- a leave stopped a `tld` or `tst` that it executes again (R255, R307)
  thermals : List Nat       -- throttle levels whose THERMAL is pending at the slot, oldest first (R91, R305)
  mon : Option Mon
  monHit : Bool
  waitSince : Option (Nat × Nat)  -- cycle since which it is stalled at a barrier, and the tag (R270)
  monWait : Option MonWait
  stalled : Bool            -- it met a stall since its core last arbitrated (R20, R21)
  wfi : Bool
  waitTok : Option Reg      -- a token that a slot without a task waits for (R193, DESIGN CHOICE, log entry 13)
  preempt : Bool            -- a pre-emption has been asked for (R35)
  faultWait : Option (Nat × Nat)  -- stalled on a fault-queue entry: partition and entry (R306)
  topup : Bool              -- a spawn waits for its top-up's acknowledgement (R30, R192)
  task : Option Task
  failing : Option (BitVec 8)  -- the cause with which its task fails (R325)
  badRegs : List Res        -- registers and masks with an uncorrectable error (R352): an input
  deriving DecidableEq, Repr

/-- A tensor descriptor as captured at issue (R224): its 64 bytes. -/
abbrev Desc := BitVec 512

/-- The kinds of operation that a macro runs: products (R234, R235), and the replacement of a tile (R231). -/
inductive MatKind where
  | mac | mul | sparse | gangMac | gangMul | write
  deriving DecidableEq, Repr

/-- What a matrix operation reads: tile bytes, scale records and bitmaps, as little-endian numbers (R226). -/
structure MatArgs where
  a : Nat
  w : Nat
  aScale : Nat
  wScale : Nat
  aMap : Nat
  wMap : Nat
  wsum : List Word          -- the stored weight sums of the W tile (R135)
  aBook : Nat
  wBook : Nat               -- codebook table (R52)
  deriving DecidableEq, Repr

/-- A matrix operation in a macro's queue (R128, R234). -/
structure MatOp where
  id : Nat
  slot : Fin 5
  acc : Fin 8
  kind : MatKind
  aDesc : Desc
  wDesc : Desc
  wTid : Nat
  mit : Option Nat          -- mitten slot, for a binding with MIT = 1
  pos : Nat                 -- position of the W tile
  quarter : Nat             -- CB2 quarter
  index : Nat               -- tile index x, or Y.IDX
  queue : Nat
  seq : Nat                 -- absolute index of the A tile in its queue
  pop : Bool
  qd : BitVec 2
  record : Option Nat       -- mgang's completion record, space-0xF0 offset
  sent : Bool               -- mgang: position 0 has injected its broadcast tile
  bar : Option Nat          -- mgang: the value of AC it waits for
  dead : Option (BitVec 8)  -- mgang: the cause of its trap; only its arrivals remain
  executing : Bool
  read : Bool               -- its A tile has been read into `args` (R129)
  args : Option MatArgs     -- what it reads: all but the A tile from its issue on (R129)
  deriving DecidableEq, Repr

/-- An operand queue (R129). `head` counts every tile retired since `qcfg`, so that H is `head mod cap`. -/
structure OpQueue where
  cfg : Bool
  base : Nat
  cap : Nat
  tid : Nat
  head : Nat
  count : Nat
  resv : List Bool          -- reserved tail slots in order: written or not
  pops : List (Nat × Bool)  -- popping operations not yet retired: id, read done
  dom : Word                -- DOMID of the thread that set it up (R357)
  deriving DecidableEq, Repr

/-- A `tld` or `tst` in progress (R254). -/
structure TileXfer where
  id : Nat
  slot : Fin 5
  task : Word
  store : Bool
  queue : Nat
  seq : Nat                 -- absolute index of the first tile
  ga : Ptr
  offs : List Nat           -- vault offsets of the tiles, translated at issue
  n : Nat
  done : Nat
  tok : Reg
  held : Bool               -- outstanding until the last tile (R92)
  evctl : Word
  dom : Word
  deriving DecidableEq, Repr

/-- A stationary range (R122, R229). -/
structure StatRange where
  tid : Nat
  p0 : Nat
  count : Nat
  dom : Word                -- DOMID of the thread that filled it (R357)
  deriving DecidableEq, Repr

/-- A mitten slot held by a matched task (R147). -/
structure Mitten where
  task : Word
  set : Nat
  i : Nat
  j : Nat
  wsum : List Word
  deriving DecidableEq, Repr

/-- An entry of the reduction buffer (R111). -/
structure RedEntry where
  ga : Ptr
  loc : Loc
  op : Nat
  width : Nat
  val : Nat
  last : Fin 5              -- the thread that last issued into it (R184)
  nv : List (Fin 5)         -- threads whose NV the flush sets for what was combined (R74, R184)
  deriving DecidableEq, Repr

/-- A TLB entry (R334), with the place of its leaf, to which set-D goes (R333). -/
structure TlbEntry where
  vpn : Nat
  sz : Nat
  asid : Nat
  leaf : Word
  home : Nat
  off : Nat
  deriving DecidableEq, Repr

/-- A walk-cache entry: a pointer read at a level of a walk (R334). -/
structure WalkEntry where
  lvl : Nat
  index : Nat
  asid : Nat
  home : Nat
  node : Nat
  deriving DecidableEq, Repr

/-- An error-log entry (R351). -/
structure LogEntry where
  seq : Word
  addr : Word
  cyc : Word
  kind : BitVec 8
  fl : BitVec 8
  rank : BitVec 16
  detail : BitVec 32
  deriving DecidableEq, Repr

/-- The header counters of an error log (R351). -/
structure ErrLog where
  rrep : Nat
  cabft : Nat
  chdr : Nat
  csram : Nat
  csym : Nat
  nextSeq : Word
  entries : List LogEntry   -- newest first, at most 126
  deriving DecidableEq, Repr

/-- A tester burst on a vault (R93, R393). -/
structure Burst where
  bank : Nat
  row : Nat
  weak : Bool
  deriving DecidableEq, Repr

/-- A row copied to the journal (R356). -/
structure JournalRow where
  dom : Word
  row : Nat
  old : Nat
  cv : Bool
  deriving DecidableEq, Repr

/-- What a vault keeps beside its bytes. -/
structure Vault where
  openRows : List Nat
  refreshing : List Nat     -- banks busy with a refresh (R89)
  burst : Option Burst
  marked : List Nat         -- rows under repair (R90)
  waiting : List Nat        -- rows that a waiting access has been accepted for (R393)
  repairs : List (Nat × Nat)  -- row address and spare index; 64 for a row left without a spare (R362)
  zero : List (Nat × Nat × Nat)  -- zero map: frame, and its leaf's home and offset (R342)
  noCv : List Nat           -- rows whose CV is clear (R347)
  badCheck : List Nat       -- rows whose stored check value does not fit their bytes (R347): an input
  level : Nat               -- throttle level (R91)
  badGranules : List Nat    -- granules with an uncorrectable error (R349)
  weakGranules : List Nat   -- granules with a correctable error (R349)
  correctedReads : List (Nat × Nat)  -- corrected reads: row and cycle (R349)
  locks : List Nat          -- banks locked (R95)
  journal : List JournalRow -- newest first (R356)
  unprotected : List Word   -- domains whose journal overflowed (R356)
  inflight : List (Nat × Nat)  -- frame and its in-flight count (R343)
  deriving DecidableEq, Repr

/-- A remote procedure call at an agent (R259), or an implicit one. -/
structure Rpc where
  h : Nat
  cfl : Nat                 -- byte 1 of the call block
  pad : Nat                 -- bytes 6 and 7, which the message carries
  alen : Nat
  rlen : Nat
  tgt : Ptr
  loc : Loc
  op0 : Word
  op1 : Word
  rbuf : Nat
  rank : Nat
  slot : Fin 5
  reg : Reg
  task : Word
  seq : Nat
  args : Nat
  row : Nat                 -- the 2048 source bytes of handlers 4 and 5
  priv : Bool
  part : Nat
  domain : Word
  engine : Option Nat
  asid : Nat                -- of its translation
  glob : Bool               -- its translation was a leaf with G (R335)
  stale : Bool              -- its translation was marked by a shootdown (R338)
  inj : Option Nat          -- a bank-MAC operand error injected in a bank (R363)
  deriving DecidableEq, Repr

/-- A latched bank-MAC program (R282-R284). -/
structure MacProgram where
  block : Nat               -- header and entries, little-endian
  ga : Ptr
  reply : Option Rpc        -- the handler-13 request it answers; none for one started by MGO
  flag : Option (Ptr × Loc)
  record : Option (Ptr × Loc)
  locked : Bool
  ends : Nat                -- cycle at which its declared length expires
  rows : List Nat           -- rows done of each operation
  hit : List Nat            -- operations that have met an error
  expired : Bool
  poison : List (Nat × Nat)  -- poisoned outputs: row, and first element
  banks : Nat               -- mask of the banks poisoned
  inj : Option Nat
  deriving DecidableEq, Repr

/-- A migration in progress at a page's home (R344). -/
structure Moving where
  rq : Rpc
  frame : Nat
  frames : Nat              -- 1 or 32
  leafHome : Nat
  leafOff : Nat
  place : Word              -- TIER, HOME and FRAME of the new place, as R331 lays them out
  rows : Nat                -- rows written at the new home
  moved : Nat               -- of them, those streamed
  deriving DecidableEq, Repr

/-- A redirect entry: where a page went, and the page (R344). -/
structure Redirect where
  place : Word              -- TIER, HOME and FRAME, as R331 lays them out
  frames : Nat
  vpn : Nat
  asid : Nat
  deriving DecidableEq, Repr

/-- The units and the current request of a vault agent (R278-R283). -/
structure Agent where
  requests : List Rpc       -- accepted, in arrival order
  parkedReqs : List (Nat × Rpc)  -- by fault-queue entry
  lastBand : Nat            -- for the round-robin of R43
  callers : List (Turn × Ptr)  -- implicit RPCs that wait for their turn, and the waiting instruction (R95, R96)
  current : Option Rpc
  replied : Bool
  mprog : Word
  mac : Option MacProgram
  mstat : Word
  agBase : Vector Word 4
  agStep : Vector Word 4
  agLeft : Vector Nat 4
  agNext : Vector Word 4
  agBusy : Vector Bool 4
  mvSrc : Word
  mvDst : Word
  mvRows : Nat              -- rows still to copy
  mvStat : Word
  mvBusy : Bool
  cmRow : Word
  cmVal : Word
  cmRes : Word
  cmStat : Word
  cmBusy : Bool
  vOff : Word
  locks : List Nat          -- banks locked for the handler (R281)
  lockEnd : Nat
  watches : List (Nat × Turn)  -- remote watches: granule and watcher, newest first (R275)
  redirects : List (Nat × Redirect)  -- by frame (R343)
  held : List Rpc           -- requests held by a migration (R344)
  resend : List (Nat × Rpc) -- requests returned from a full hold queue, with the cycle of their return
  moving : Option Moving
  tlb : List TlbEntry
  deriving DecidableEq, Repr

/-- An sstep participant (R41, R273). -/
structure Participant where
  slot : Fin 5
  task : Word
  tag : Nat
  dom : Word
  target : Nat              -- the value of AC this participant counts as
  terminated : Bool         -- the domain's circuit came back white and zero
  done : Bool               -- it has crossed the barrier
  deriving DecidableEq, Repr

/-- The state a core restores at a rollback (R357). -/
structure CkptImage where
  dom : Word
  cells : List Host.Cell    -- the scratchpad's cells, by offset
  stackCells : List (List Host.Cell)  -- of slots 0-3, by offset
  frames : List (Word × List Host.Cell)  -- bound frames of its tasks
  threads : Vector Thread 5
  ready : List Task
  parked : List Task
  queues : Vector OpQueue 8
  ranges : List StatRange
  wsum : List (Nat × List Word)
  mitten : Vector (Option Mitten) 4
  sstepn : Word
  count : Nat               -- rollbacks to it (R358)
  deriving DecidableEq, Repr

/-- One core (R12, R80). -/
structure Core where
  threads : Vector Thread 5
  rrp : Nat
  passed : Vector Nat 4
  tvec : Word
  ctxbase : Word
  ptbase : Word
  asid : Word
  spkey : Word
  partid : Word
  bmask : Vector Word 8
  ac : Vector (BitVec 32) 8
  pc : Vector (BitVec 32) 8
  sstepn : List (Word × Word)  -- domain and COUNT (R40)
  sstep : List Participant
  probeRun : Option (Nat × Word)  -- the circuit that the core started: tag, domain (R272)
  probeRes : Word
  msgD : List (Word × Int)  -- D, by domain (R271)
  msgB : List Word          -- domains whose B is set
  ready : List Task
  parked : List Task
  frames : List (Nat × Word)   -- bound frames: number and TASKID (R306)
  ranges : List StatRange
  wsum : List (Nat × List Word)  -- by position x 4 + quarter
  mitten : Vector (Option Mitten) 4
  mops : List MatOp
  queues : Vector OpQueue 8
  xfers : List TileXfer
  redbuf : List RedEntry    -- oldest first
  missLog : List Word       -- oldest first
  missOvf : Nat
  inj : Vector (BitVec 32) 8
  ret : Vector (BitVec 32) 8
  ej : Vector (BitVec 32) 8
  meqHead : Vector Nat 8    -- missed-encounter queue: next entry to take
  meqCount : Vector Nat 8
  utlb : List TlbEntry      -- the first-level TLB (R334)
  tlb : List TlbEntry
  wcache : List WalkEntry
  badScratch : List Nat     -- 8-byte units of the scratchpad with an uncorrectable error (R350): an input
  weakScratch : List Nat    -- and with a correctable one
  trees : Vector Word 4
  rounds : Vector Nat 4     -- rounds joined on each tree (R217)
  credits : Nat             -- RPC credits in use (R259)
  rpcSeq : Nat
  taskSeq : Nat             -- sequence number of the next TASKID (R27)
  nextId : Nat              -- identifies matrix operations and transfers of the core
  log : ErrLog
  vault : Vault
  agent : Agent
  ckpt : List CkptImage
  deriving DecidableEq, Repr

/-- A band tile: payload and header (R140). -/
structure Tile where
  payload : Nat
  pmask : BitVec 256
  chk : BitVec 32
  tid : Nat
  idx : Nat
  orig : Nat
  lapLim : Nat
  lapCnt : Nat
  set : Nat
  fam : Family
  bcast : Bool
  hecc : BitVec 16          -- HECC
  copy1 : BitVec 9          -- RCOPY[159:151]: a copy of {ORIG, SET, FAM, KIND}
  copy2 : BitVec 9          -- RCOPY2[147:139]: another
  weak : Bool               -- one bit of its header is wrong: the next port corrects it (R141): an input
  bad : Bool                -- its header is uncorrectable at the next port (R141)
  inj : Bool                -- the error was injected (R363)
  held : Bool               -- MISSOVF has been reported for it (R149)
  dom : Word
  deriving DecidableEq, Repr

/-- A pending injection (R142). -/
structure Injection where
  id : Nat
  pos : Nat
  tile : Tile
  slot : Fin 5
  since : Nat
  claim : Bool
  deriving DecidableEq, Repr

/-- An installed pairing set: descriptor of R144 and what `bset` latches. -/
structure PairSet where
  pc : Ptr
  prio : Nat
  cwTid : Nat
  ccwTid : Nat
  accRule : BitVec 8
  domain : BitVec 16
  argBase : Word
  ejBase : Word
  regions : List (Nat × Nat × Nat)  -- latched translations: position, home, vault offset of each page
  evctl : Word
  srseed : Word
  tidbase : Word
  tidlim : Word
  launch : Nat
  wdog : Nat                -- WDOG of that launch
  faulted : Bool
  deriving DecidableEq, Repr

/-- A tile on its way to its origin's missed-encounter queue (R149). -/
structure Ejection where
  tile : Tile
  cause : Nat
  place : Nat
  waiting : Bool
  deriving DecidableEq, Repr

/-- One band (R138). -/
structure Band where
  cw : Vector (Option Tile) 16
  ccw : Vector (Option Tile) 16
  pend : List Injection
  glove : Vector (Option PairSet) 8
  cycle : Nat               -- band cycles since package reset, a multiple of 2
  hold : Nat                -- core cycles spent in thermal hold (R388)
  retire : List (Nat × Nat × Word)  -- retire notices in flight: origin, set, domain (R150)
  eject : List Ejection     -- ejection messages in flight (R149)
  writing : List Ejection   -- entries of missed-encounter queues not yet performed (R149)
  free : List Nat           -- slots of the family that has just moved which no tile has taken (R142)
  matched : Nat             -- matched tasks and their descendants alive (R147, R192)
  power : Nat               -- state of R383
  waking : Bool
  resv : Option Nat         -- the gang that reserves the band (R37)
  resvAt : Nat
  deriving DecidableEq, Repr

/-- One compute die. -/
structure Die where
  level : Nat               -- core throttle level (R387)
  held : Option Nat         -- thermal hold since a cycle (R388)
  absent : Bool             -- UCIe training failed (R390)
  deriving DecidableEq, Repr

/-- A work queue (R310, R312). -/
structure WorkQueue where
  bound : Option Nat
  ovcap : Nat
  redundant : Bool
  recs : List (BitVec 512)
  frozen : Bool
  fcause : BitVec 8
  drops : Nat
  credit : Nat
  since : Option Nat        -- cycle at which the head became eligible (R320)
  ended : Nat               -- launches of the queue that have ended (R319)
  deriving DecidableEq, Repr

/-- A termination record (R319). -/
structure Term where
  outw : Nat
  signal : BitVec 16
  queue : Nat
  part : Nat
  failed : Bool
  cause : BitVec 8
  copy : Option (Nat × Nat)
  deriving DecidableEq, Repr

/-- A gang that has been dispatched and is not yet placed, or is placed (R36, R37). -/
structure Gang where
  record : BitVec 512
  launch : Nat
  part : Nat
  bands : List Nat
  reserved : List Nat
  placed : Bool
  loadAt : Option Nat       -- since when its BMASK load waits (R269)
  deriving DecidableEq, Repr

/-- A command of a copy engine (R161, R263). -/
structure Cmd where
  word : BitVec 256
  rank : Nat
  slot : Fin 5
  task : Word
  tok : Reg
  domain : Word
  priv : Bool
  ptbase : Word
  asid : Word
  cursor : Nat              -- destination pages completed
  idx : List Nat            -- the latched index list of gather and scatter
  parkedOn : Option (Nat × Nat)  -- fault-queue entry (R265)
  cancel : Bool
  bad : Option Cause        -- the index list cannot be read
  shot : Bool               -- its shootdown has been sent (R338)
  pending : List (Nat × Bool)  -- cores that have not acknowledged it, and whether they have dropped their entries
  held : List (Nat × Nat)   -- pages that a collective holds before it joins: home and frame (R343)
  deriving DecidableEq, Repr

/-- A copy engine (R263). -/
structure Engine where
  part : Option Nat
  queue : List Cmd
  shadow : Option Cmd
  active : Option Cmd
  parked : List Cmd
  deriving DecidableEq, Repr

/-- A status on its way to a token register (R114). -/
structure Status where
  rank : Nat
  slot : Fin 5
  task : Word
  reg : Reg
  value : Word
  lost : Bool               -- the message arrives uncorrectable (R301)
  credit : Bool             -- it returns an RPC credit (R259)
  recov : Bool              -- it carries UNCORR for data that a rollback restores (R355)
  dom : Word
  deriving DecidableEq, Repr

/-- A message in flight between hardware units. -/
inductive Msg where
  | weight (launch w : Nat)              -- a tend's weight (R319)
  | topup (launch : Nat) (who : Turn)     -- a top-up (R30)
  | topupAck (who : Turn)                 -- its acknowledgement
  | signal (j : Nat)                     -- a signal to a join counter (R318)
  | failure (j : Nat) (cause : BitVec 8) -- a failure reaching a join counter
  | discard (done : Nat) (pages : List (Loc × Nat × Nat)) (st : Status)  -- pages left: place, home and offset of the leaf (R342)
  | redirect (rank vpn sz asid : Nat) (leaf : Word)                -- a redirect notice (R344)
  deriving DecidableEq, Repr

/-- A contribution to a round of a reduction tree (R217). -/
structure Contribution where
  id : Nat
  tree : Nat
  round : Nat
  rank : Nat
  slot : Fin 5
  bcast : Bool
  et : Nat
  op : Nat
  val : VReg
  vd : Reg
  since : Nat
  cfg : List (Nat × Word)   -- members and their configuration words when the round began (R277)
  sent : Bool               -- its node has forwarded it
  dom : Word
  deriving DecidableEq, Repr

/-- A collective command that has reached its tree (R264). -/
structure CollMember where
  tree : Nat
  engine : Nat
  rank : Nat
  since : Nat
  cfg : List (Nat × Word)
  pages : List Loc          -- pages that it holds (R343)
  deriving DecidableEq, Repr

/-- A partition (R364). -/
structure Partition where
  spec : PartSpec
  faultTail : Nat
  ptr : Vector Nat 8        -- dispatcher pointers, by priority (R321)
  next : Nat                -- cycle from which the dispatcher may dispatch again (R320)
  deriving DecidableEq, Repr

/-- A redundant launch (R359, R360). -/
structure Redundant where
  record : BitVec 512
  queue : Nat
  part : Nat
  block : BitVec 512
  blockLoc : Loc
  terms : List Nat          -- termination records of the copies
  failedCopies : List Nat
  cores : List Nat
  deriving DecidableEq, Repr

/-- A Cufflink link (R361, R380). -/
structure Link where
  gen : Nat                 -- 0 down, 2, 3
  rate : Nat                -- Gb/s per lane
  up : Bool
  deriving DecidableEq, Repr

/-- What a host port shows (R374, R379). -/
structure Port where
  ver : Nat                 -- IFVER.HOST
  enumerated : Bool
  read : Word               -- the value of its last completed read
  readErr : Bool            -- its last access was an unsupported request or a completer abort
  deriving DecidableEq, Repr

/-- The registers of monitor mode, 0x200-0x204 (R299). -/
structure MonRegs where
  mstat : Word
  mtvec : Word
  mcause : Word
  mtval : Word
  mepc : Word
  deriving DecidableEq, Repr

/-- An access of a thread that a migration holds (R344): the home that holds it, the page's new place, the thread, and the
instruction at which it waits. -/
structure HeldAccess where
  home : Nat
  page : Nat
  who : Turn
  pc : Ptr
  deriving DecidableEq, Repr

/-- The whole machine. -/
structure State where
  mem : List Host.Cell
  cores : List (Nat × Core)
  bands : List (Nat × Band)
  dies : Vector Die 8
  cycle : Word
  tick : Nat
  turn : Turn
  granted : Option (Nat × Vector Nat 4)  -- R21 has chosen `turn`, which has not issued yet; Rrp and Passed before the choice
  unitTurn : Bool           -- the hardware units move next
  cursor : Nat              -- the unit whose turn is next (DESIGN CHOICE, log entry 15)
  dev : Nat                 -- RANK.DEV of the package's cores (R80)
  monitor : MonRegs
  agenda : List Instr
  bringUp : Nat
  parts : List (Nat × Partition)
  pgrant : Vector Word 16
  hqg : List (Nat × Word)
  queues : List (Nat × WorkQueue)
  joins : List (Nat × Word)
  terms : List (Nat × Term)
  nextTerm : Nat            -- number of the next launch
  gangs : List (Nat × Gang)
  engines : List (Nat × Engine)
  statuses : List Status
  msgs : List Msg
  nets : List Contribution
  colls : List CollMember
  redundants : List (Nat × Redundant)
  rollbackDue : List Word   -- domains whose rollback has been signalled (R358)
  links : Vector Link 12
  peers : List (Nat × Nat)  -- bands of the fabric's other packages, by rank[15:4], and their FGRP (R78, R382): an input
  tierChecks : List (Nat × BitVec 32)  -- check values of second-tier blocks of 256 bytes, by key / 256 (R347)
  heldOrder : List HeldAccess  -- accesses that a migration holds, oldest first (R344)
  resolves : List (Nat × Nat)  -- fault-queue entries whose RES has been stored, oldest first: partition and entry (R341)
  tiers : Vector Nat 8      -- second-tier ports: CXL major version; 0 not populated, 1 gone down (R377)
  ports : Vector Port 2
  ltol : Vector Word 16
  fabric : Bool             -- Cufflink is up (R78)
  standby : Bool            -- package standby (R383)
  deriving DecidableEq, Repr

/-! ### Reset -/

/-- An accumulator after reset (R130; the elements: DESIGN CHOICE, log entry 5). -/
def Acc.zero : Acc := { elems := 0, bind := 0, cr := 0, cc := 0, sr := 0, sc := 0 }

/-- The generator's reset value (R57). -/
def seedReset : Word := 0x5A17C0DE00000001

/-- A thread after reset; THSTAT.SLOT holds the slot number (R294). -/
def Thread.reset (n : Nat) : Thread :=
  { occ := .empty, pc := .zero, regs := .replicate 32 .zero, pend := 0, tokErr := 0, tokUnc := 0,
    vregs := .replicate 32 0, masks := .replicate 8 0, accs := .replicate 8 .zero,
    fpctl := 0, warn := 0, srseed := seedReset, evctl := 0, domid := 0, errinj := 0, tidbase := 0, tidlim := 0,
    thstat := BitVec.ofNat 64 (4 * n), tcause := 0, tval := 0, tepc := 0, tscratch := 0, ien := 0, ipend := 0,
    dirty := 0, stackRows := 0, missTval := 0, outst := [], replay := none, resumeTiles := 0, xferStop := false, thermals := [],
    mon := none, monHit := false, waitSince := none, monWait := none, stalled := false, wfi := false, waitTok := none, preempt := false, faultWait := none, topup := false,
    task := none, failing := none, badRegs := [] }

def OpQueue.reset : OpQueue :=
  { cfg := false, base := 0, cap := 0, tid := 0, head := 0, count := 0, resv := [], pops := [], dom := 0 }

def Vault.reset : Vault :=
  { openRows := [], refreshing := [], burst := none, marked := [], waiting := [], repairs := [], zero := [],
    noCv := [], badCheck := [], level := 0, badGranules := [], weakGranules := [], correctedReads := [], locks := [],
    journal := [], unprotected := [], inflight := [] }

def Agent.reset : Agent :=
  { requests := [], parkedReqs := [], lastBand := 0, callers := [], current := none, replied := false, mprog := 0, mac := none, mstat := 0,
    agBase := .replicate 4 0, agStep := .replicate 4 0, agLeft := .replicate 4 0,
    agNext := .replicate 4 0, agBusy := .replicate 4 false, mvSrc := 0, mvDst := 0, mvRows := 0, mvStat := 0, mvBusy := false,
    cmRow := 0, cmVal := 0, cmRes := 0, cmStat := 0, cmBusy := false, vOff := 0, locks := [], lockEnd := 0,
    watches := [], redirects := [], held := [], resend := [], moving := none, tlb := [] }

def ErrLog.reset : ErrLog :=
  { rrep := 0, cabft := 0, chdr := 0, csram := 0, csym := 0, nextSeq := 0, entries := [] }

/-- A core after band reset (R389): BMASK.WD is 0xC, SPKEY 0x1CF0, every other register zero. -/
def Core.reset : Core :=
  { threads := #v[.reset 0, .reset 1, .reset 2, .reset 3, .reset 4], rrp := 0, passed := .replicate 4 0,
    tvec := 0, ctxbase := 0, ptbase := 0, asid := 0, spkey := 0x1CF0, partid := 0,
    bmask := .replicate 8 0xC000000000, ac := .replicate 8 0, pc := .replicate 8 0, sstepn := [], sstep := [],
    probeRun := none, probeRes := 0, msgD := [], msgB := [], ready := [], parked := [], frames := [],
    ranges := [], wsum := [], mitten := .replicate 4 none, mops := [], queues := .replicate 8 .reset, xfers := [],
    redbuf := [], missLog := [], missOvf := 0, inj := .replicate 8 0, ret := .replicate 8 0, ej := .replicate 8 0,
    meqHead := .replicate 8 0, meqCount := .replicate 8 0, utlb := [], tlb := [], wcache := [], badScratch := [], weakScratch := [], trees := .replicate 4 0,
    rounds := .replicate 4 0, credits := 0, rpcSeq := 0, taskSeq := 1, nextId := 0, log := .reset, vault := .reset,
    agent := .reset, ckpt := [] }

/-- A band after package reset: power-gated until it joins a partition (R364, R390). -/
def Band.reset : Band :=
  { cw := .replicate 16 none, ccw := .replicate 16 none, pend := [], glove := .replicate 8 none, cycle := 0,
    hold := 0, retire := [], eject := [], writing := [], free := [], matched := 0, power := 2, waking := false,
    resv := none, resvAt := 0 }

def Die.reset : Die := { level := 0, held := none, absent := false }

/-- A queue bound to no partition (R310). -/
def WorkQueue.reset : WorkQueue :=
  { bound := none, ovcap := 0, redundant := false, recs := [], frozen := false, fcause := 0, drops := 0, credit := 0,
    since := none, ended := 0 }

def Engine.reset : Engine := { part := none, queue := [], shadow := none, active := none, parked := [] }

/-- The machine at the release of package reset (R389): no partition exists, every band is power-gated, and the
steps of bring-up (R390) are still to run. -/
def State.reset : State :=
  { mem := [], cores := [], bands := [], dies := .replicate 8 .reset, cycle := 0, tick := 0,
    turn := { rank := 0, slot := 0 }, granted := none, unitTurn := false, cursor := 0, dev := 0,
    monitor := { mstat := 0x200, mtvec := 0, mcause := 0, mtval := 0, mepc := 0 }, agenda := [], bringUp := 0, parts := [], pgrant := .replicate 16 0, hqg := [],
    queues := [], joins := [], terms := [], nextTerm := 0, gangs := [], engines := [], statuses := [], msgs := [],
    nets := [], colls := [], redundants := [], rollbackDue := [],
    links := .replicate 12 { gen := 0, rate := 0, up := false }, tiers := .replicate 8 0,
    ports := .replicate 2 { ver := 0, enumerated := false, read := 0, readErr := false },
    ltol := .replicate 16 0, peers := [], tierChecks := [], heldOrder := [], resolves := [], fabric := false, standby := false }

end Sys2Proof.Machine
end

