-- ==== Sys2Proof/Machine/Memory.lean ====
section
/-!
DEFINITION. Memory as one list of cells in canonical form: keys strictly rising, and no cell equal to what an
unlisted key reads as. Where each store of the package lies in it, and the sparse maps of the state.
-/

namespace Sys2Proof.Machine

/-! ### Sparse maps -/

/-- The value at a key. -/
def lookup {α : Type} : List (Nat × α) → Nat → Option α
  | [], _ => none
  | (k, v) :: t, a => if a = k then some v else lookup t a

/-- The map with a value at a key; keys stay rising. -/
def insert {α : Type} : List (Nat × α) → Nat → α → List (Nat × α)
  | [], a, v => [(a, v)]
  | (k, w) :: t, a, v =>
    if a < k then (a, v) :: (k, w) :: t else if a = k then (a, v) :: t else (k, w) :: insert t a v

/-- The map without a key. -/
def erase {α : Type} (l : List (Nat × α)) (a : Nat) : List (Nat × α) := l.filter (fun p => p.1 ≠ a)

/-! ### Bytes -/

/-- What an unlisted key reads as: vault rows are zero after the vault test (R390); the rest is a DESIGN CHOICE (log entry 4).
-/
def Memory.unlisted : Byte := 0

/-- The byte at a key. -/
def Memory.read : List Host.Cell → Nat → Byte
  | [], _ => Memory.unlisted
  | (k, b) :: t, a => if a = k then b else Memory.read t a

/-- Memory with a byte at a key, in canonical form. -/
def Memory.write : List Host.Cell → Nat → Byte → List Host.Cell
  | [], a, v => if v = Memory.unlisted then [] else [(a, v)]
  | (k, b) :: t, a, v =>
    if a < k then (if v = Memory.unlisted then (k, b) :: t else (a, v) :: (k, b) :: t)
    else if a = k then (if v = Memory.unlisted then t else (a, v) :: t)
    else (k, b) :: Memory.write t a v

/-- Every key of the list is above `a`. -/
def Memory.above (a : Nat) : List Host.Cell → Bool
  | [] => true
  | (k, _) :: t => decide (a < k) && Memory.above a t

/-- The canonical form. -/
def Memory.wf : List Host.Cell → Bool
  | [] => true
  | (k, b) :: t => decide (b ≠ Memory.unlisted) && Memory.above k t && Memory.wf t

/-- The little-endian number held by `n` bytes from a key (R2). -/
def Memory.readN (m : List Host.Cell) (a : Nat) : Nat → Nat
  | 0 => 0
  | n + 1 => (Memory.read m a).toNat + 256 * Memory.readN m (a + 1) n

/-- Memory with the `n` low bytes of a number stored from a key, lowest first (R2). -/
def Memory.writeN (m : List Host.Cell) (a : Nat) : Nat → Nat → List Host.Cell
  | 0, _ => m
  | n + 1, v => Memory.writeN (Memory.write m a (BitVec.ofNat 8 v)) (a + 1) n (v / 256)

/-- Memory with `n` bytes from a key set to the unlisted value: the cells in the range go. -/
def Memory.clear (m : List Host.Cell) (a n : Nat) : List Host.Cell :=
  m.filter (fun c => decide (c.1 < a) || decide (a + n ≤ c.1))

/-! ### Where each store lies -/

/-- Where a store begins: vaults (R85), scratchpads (R81), agent stores (R300), the second tier and host memory
(R332). Stores are disjoint for offsets within their size. -/
def Region.base (g : Region) (home : Nat) : Nat :=
  match g with
  | .vault => home * 0x40000000
  | .scratch => 0x800000000000 + home * 0x400000
  | .agentCode => 0x900000000000 + home * 0x10000
  | .agentData => 0xA00000000000 + home * 0x10000
  | .control => 0xB00000000000 + home * 0x40000
  | .tier2 p => 0x10000000000000 + p * 0x100000000000
  | .host p => 0x100000000000000 + p * 0x1000000000000

/-- The key of a place. -/
def Loc.key (l : Loc) : Nat := l.region.base l.home + l.off

/-- The place `n` bytes further on. -/
def Loc.plus (l : Loc) (n : Nat) : Loc := { l with off := l.off + n }

/-- Vault offset `off` of a core (R85). -/
def vaultLoc (home off : Nat) : Loc := { region := .vault, home := home, off := off }

/-- Scratchpad offset `off` of a core (R81). -/
def scratchLoc (home off : Nat) : Loc := { region := .scratch, home := home, off := off }

/-- The byte stored at a place. -/
def State.byteAt (s : State) (l : Loc) : Byte := Memory.read s.mem l.key

/-- The number held by `n` bytes at a place. -/
def State.peek (s : State) (l : Loc) (n : Nat) : Nat := Memory.readN s.mem l.key n

/-- The state with `n` bytes stored at a place, and nothing else done. -/
def State.poke (s : State) (l : Loc) (n v : Nat) : State := { s with mem := Memory.writeN s.mem l.key n v }

/-- The state with `n` bytes at a place zeroed. -/
def State.wipe (s : State) (l : Loc) (n : Nat) : State := { s with mem := Memory.clear s.mem l.key n }

/-! ### Check values (R346) -/

/-- One bit of CRC-32C: Castagnoli, reflected. -/
def crcBit (c : Nat) : Nat := if c % 2 = 1 then (c / 2) ^^^ 0x82F63B78 else c / 2

/-- One byte. -/
def crcByte (c b : Nat) : Nat := (List.range 8).foldl (fun c _ => crcBit c) (c ^^^ b)

/-- The bytes of a number, lowest first. -/
def crcBytes : Nat → Nat → Nat → Nat
  | 0, _, c => c
  | n + 1, v, c => crcBytes n (v / 256) (crcByte c (v % 256))

/-- The CRC-32C of `n` bytes. -/
def crc32c (n v : Nat) : Nat := crcBytes n v 0xFFFFFFFF ^^^ 0xFFFFFFFF

/-! ### The bank hash (R82)

A plain line lies in the cell that the hash under SPKEY.K selects. The hash is one to one within a group of lines of
one tile position (R121), so memory is kept by offset, and a write that changes K moves the bytes of the plain and
staging offsets (R84). -/

/-- RotL4 of R82. -/
def rotL4 (x n : Nat) : Nat := (x * 2 ^ n + x / 2 ^ (4 - n)) % 16

/-- StagingBank of R82. -/
def stagingBank (k l : Nat) : Nat :=
  ((l % 16) ^^^ ((l / 16 % 16) &&& (k / 16 % 16))) ^^^ (rotL4 (l / 256 % 16) (k / 256 % 4) ^^^ (k % 16))

/-- MacroSub of R82. -/
def macroSub (k l : Nat) : Nat := ((l % 8) ^^^ ((l / 8 % 8) &&& (k / 1024 % 8))) ^^^ (k / 8192 % 8)

/-- The line of staging that cell {bank, index} holds under a key: the inverse of StagingBank and StagingIndex. -/
def stagingLine (k bank index : Nat) : Nat :=
  index * 16 + ((bank ^^^ ((index % 16) &&& (k / 16 % 16))) ^^^ (rotL4 (index / 16 % 16) (k / 256 % 4) ^^^ (k % 16)))

/-- The line of a macro that cell {sub-array, index} holds under a key. -/
def macroLine (k sub index : Nat) : Nat :=
  index * 8 + ((sub ^^^ ((index % 8) &&& (k / 1024 % 8))) ^^^ (k / 8192 % 8))

/-- The offset at which the byte that plain offset `off` held under key `k` is found under key `k'` (R84). -/
def rehash (k k' off : Nat) : Nat :=
  if off < 0x300000 then
    let m := off / 0x18000
    let o := off % 0x18000
    m * 0x18000 + macroLine k' (macroSub k (o / 64)) (o / 512) * 64 + o % 64
  else
    let o := off - 0x300000
    0x300000 + stagingLine k' (stagingBank k (o / 64)) (o / 1024) * 64 + o % 64

/-- Which tile positions are stationary, or in the mitten state while pairing is enabled (R120). -/
def Core.fixedOffset (c : Core) (pairing : Bool) (off : Nat) : Bool :=
  (decide (off < 0x300000) && c.ranges.any (fun g => decide (g.p0 ≤ off / 0x800) && decide (off / 0x800 < g.p0 + g.count)))
    || (pairing && (decide (0x2FE000 ≤ off) && decide (off < 0x300000)))

/-- The cells of memory after a write of K on a core whose scratchpad starts at `base` (R84). -/
def rekey (fixed : Nat → Bool) (base k k' : Nat) (m : List Host.Cell) : List Host.Cell :=
  let here := fun (a : Nat) => decide (base ≤ a) && decide (a < base + 0x340000) && !fixed (a - base)
  let stay := m.filter (fun c => !here c.1)
  (m.filter (fun c => here c.1)).foldl (fun acc c => Memory.write acc (base + rehash k k' (c.1 - base)) c.2) stay

end Sys2Proof.Machine
end

