-- ==== Sys2Proof/Machine/Ops.lean ====
section
/-!
DEFINITION. The named operations over registers and shared units: bit fields, threads and cores, warnings, messages,
the error log, interrupts, taking an exception (R302) and the return from one (R303), and how a meaning ends.
-/

namespace Sys2Proof

/-- The code of a trap cause (*Shared names*). -/
def Cause.code : Cause → Nat
  | .illegal => 0x01 | .priv => 0x02 | .aperture => 0x03 | .misalign => 0x04 | .notPresent => 0x05
  | .prot => 0x06 | .statWr => 0x07 | .nonLocal => 0x08 | .scale => 0x09 | .rowRep => 0x0A | .refresh => 0x0B
  | .thermal => 0x0C | .uncorr => 0x0D | .chkFail => 0x0E | .rpcFail => 0x0F | .tokErr => 0x10 | .fpx => 0x11
  | .trapI => 0x12 | .brk => 0x13 | .watchdog => 0x14 | .missOvf => 0x15 | .bandFlt => 0x16 | .barTo => 0x17

/-- The 16 bytes of a pointer in memory (R79). -/
def Ptr.bytes (p : Ptr) : Nat := p.v.toNat + p.sb.toNat * 2 ^ 64

/-- A pointer from its 16 bytes (R79). -/
def Ptr.ofBytes (n : Nat) : Ptr := { sb := BitVec.ofNat 8 (n / 2 ^ 64), v := BitVec.ofNat 64 n }

end Sys2Proof

namespace Sys2Proof.Machine

/-- The outcome of a step of this machine. -/
abbrev Result := Host.Outcome State Fault Refusal

/-! ### Bit fields -/

/-- The `n`-bit field of a word from bit `lo`. -/
def field {w : Nat} (x : BitVec w) (lo n : Nat) : Nat := x.toNat / 2 ^ lo % 2 ^ n

/-- The word with its `n`-bit field from bit `lo` replaced. -/
def withField {w : Nat} (x : BitVec w) (lo n v : Nat) : BitVec w :=
  BitVec.ofNat w (x.toNat % 2 ^ lo + (v % 2 ^ n) * 2 ^ lo + x.toNat / 2 ^ (lo + n) * 2 ^ (lo + n))

/-- Bit `i` of a word. -/
def bit {w : Nat} (x : BitVec w) (i : Nat) : Bool := x.getLsbD i

/-- Bit `i` of a natural number. -/
def nbit (x i : Nat) : Bool := x.testBit i

/-- The word with bit `i` set. -/
def setBit {w : Nat} (x : BitVec w) (i : Nat) : BitVec w := x ||| BitVec.ofNat w (2 ^ i)

/-- The word with bit `i` clear. -/
def clearBit {w : Nat} (x : BitVec w) (i : Nat) : BitVec w := x &&& ~~~(BitVec.ofNat w (2 ^ i))

/-- A 64-bit word from a natural number. -/
def word (n : Nat) : Word := BitVec.ofNat 64 n

/-- 1 for true, 0 for false. -/
def ofBool (b : Bool) : Nat := if b then 1 else 0

/-- A signed field extended to 64 bits. -/
def sext {w : Nat} (x : BitVec w) : Word := x.signExtend 64

/-! ### Threads and cores -/

/-- The core of a rank. -/
def State.core (s : State) (r : Nat) : Core := (lookup s.cores r).getD .reset

def State.setCore (s : State) (r : Nat) (c : Core) : State := { s with cores := insert s.cores r c }

/-- The state with a core changed. -/
def State.modCore (s : State) (r : Nat) (f : Core → Core) : State := s.setCore r (f (s.core r))

/-- The state of a thread. -/
def State.thAt (s : State) (t : Turn) : Thread := (s.core t.rank).threads[t.slot]

def State.setThAt (s : State) (t : Turn) (th : Thread) : State :=
  s.modCore t.rank (fun c => { c with threads := c.threads.set t.slot th })

def State.modThAt (s : State) (t : Turn) (f : Thread → Thread) : State := s.setThAt t (f (s.thAt t))

/-- The thread that issues. -/
def State.th (s : State) : Thread := s.thAt s.turn

def State.setTh (s : State) (th : Thread) : State := s.setThAt s.turn th

def State.modTh (s : State) (f : Thread → Thread) : State := s.setTh (f s.th)

/-- The core of the thread that issues. -/
def State.me (s : State) : Core := s.core s.turn.rank

def State.modMe (s : State) (f : Core → Core) : State := s.modCore s.turn.rank f

/-- The band of the core of the thread that issues, and any other: key rank[15:4]. -/
def State.band (s : State) (b : Nat) : Band := (lookup s.bands b).getD .reset

def State.setBand (s : State) (b : Nat) (x : Band) : State := { s with bands := insert s.bands b x }

def State.modBand (s : State) (b : Nat) (f : Band → Band) : State := s.setBand b (f (s.band b))

/-- A work queue (R310). -/
def State.queue (s : State) (q : Nat) : WorkQueue := (lookup s.queues q).getD .reset

def State.setQueue (s : State) (q : Nat) (x : WorkQueue) : State := { s with queues := insert s.queues q x }

/-- A copy engine (R263). -/
def State.engine (s : State) (e : Nat) : Engine := (lookup s.engines e).getD .reset

def State.setEngine (s : State) (e : Nat) (x : Engine) : State := { s with engines := insert s.engines e x }

/-! ### Registers of a thread -/

/-- A scalar register; s0 reads zero with a zero space byte (R164). -/
def Thread.get (t : Thread) (r : Reg) : Ptr := if r = 0 then .zero else t.regs[r]

/-- The value of a scalar register. -/
def Thread.val (t : Thread) (r : Reg) : Word := (t.get r).v

/-- A write of a scalar register; a write of s0 is discarded (R171). It marks DIRTY.S (R308) and takes away a token
error that nothing has read (R301). -/
def Thread.put (t : Thread) (r : Reg) (p : Ptr) : Thread :=
  if r = 0 then t
  else { t with regs := t.regs.set r p, dirty := setBit t.dirty 17, tokErr := clearBit t.tokErr r.val, tokUnc := clearBit t.tokUnc r.val }

/-- The write of an integer result (R171). -/
def Thread.putInt (t : Thread) (r : Reg) (v : Word) : Thread := t.put r (.int v)

/-- A vector register; its write marks DIRTY.V (R308). -/
def Thread.vget (t : Thread) (r : Reg) : VReg := t.vregs[r]

def Thread.vput (t : Thread) (r : Reg) (x : VReg) : Thread :=
  { t with vregs := t.vregs.set r x, dirty := setBit t.dirty (r.val / 4) }

/-- A mask register; m0 reads all ones (R164). -/
def Thread.mget (t : Thread) (m : Fin 8) : MReg := if m = 0 then BitVec.allOnes 1024 else t.masks[m]

/-- A task register has changed: DIRTY.C (R308). -/
def Thread.touchC (t : Thread) : Thread := { t with dirty := setBit t.dirty 18 }

/-- The bits of WARN (R163). -/
inductive Warn where
  | lkv | lkig | fmt | align | ovlp | mask | etc
  deriving DecidableEq, Repr

def Warn.bit : Warn → Nat
  | .lkv => 0 | .lkig => 1 | .fmt => 2 | .align => 3 | .ovlp => 4 | .mask => 5 | .etc => 6

/-- Sets a bit of WARN (R163); it is a task register (R308). -/
def Thread.warnBit (t : Thread) (w : Warn) : Thread :=
  Thread.touchC { t with warn := setBit t.warn w.bit }

/-- Sets WARN.LKIG where a non-zero LK stands on an instruction that is not long-latency (R25, R162). -/
def Thread.lkIgnored (t : Thread) (lk : Fin 16) : Thread := if lk = 0 then t else t.warnBit .lkig

/-- A write of a mask register; a write of m0 is discarded with WARN.FMT (R162). It marks DIRTY.M. -/
def Thread.mput (t : Thread) (m : Fin 8) (x : MReg) : Thread :=
  if m = 0 then t.warnBit .fmt else { t with masks := t.masks.set m x, dirty := setBit t.dirty 16 }

/-- A write of an accumulator, its binding or its checksums; it marks DIRTY.A (R308). -/
def Thread.aput (t : Thread) (n : Fin 8) (x : Acc) : Thread :=
  { t with accs := t.accs.set n x, dirty := setBit t.dirty (8 + n.val) }

/-- The thread at its next instruction (R154). -/
def Thread.next (t : Thread) : Thread := { t with pc := t.pc.add 4 }

/-- THSTAT.MODE (R294). -/
def Thread.mode (t : Thread) : Nat := field t.thstat 8 2

/-- Whether the thread is in supervisor or monitor mode; an agent is (DEDUCED, log entry 12). -/
def State.supervisor (s : State) : Bool := decide (s.turn.slot = 4) || decide (s.th.mode ≠ 0)

/-! ### Partitions -/

/-- The partition of a core's band (R364). -/
def State.partOf (s : State) (rank : Nat) : Option Nat :=
  match s.parts.find? (fun p => decide (rank / 1024 = s.dev) && p.2.spec.bands.contains (rank / 16 % 64)) with
  | some (p, _) => some p
  | none => none

def State.part (s : State) (p : Nat) : Option Partition := lookup s.parts p

/-- The grant word of a partition (R367). -/
def State.grant (s : State) (p : Nat) : Word := s.pgrant.getD p 0

/-- The fabric group of a core: PGRANT.FGRP of its partition, or what its package's monitor has set; 0 none (R382). -/
def State.fabricGroup (s : State) (rank : Nat) : Nat :=
  if rank / 1024 = s.dev then
    match s.partOf rank with
    | some p => field (s.grant p) 8 8
    | none => 0
  else (lookup s.peers (rank / 16)).getD 0

/-- Whether two cores are of one partition (R366). -/
def State.samePart (s : State) (a b : Nat) : Bool := decide (b / 1024 = s.dev) && decide (s.partOf a = s.partOf b)

/-- Whether a core may reach another under R366: of one partition, or of one fabric group, which spans packages while the
fabric is up (R381, R382). -/
def State.reaches (s : State) (a b : Nat) : Bool :=
  s.samePart a b
    || ((decide (b / 1024 = s.dev) && decide (a / 1024 = s.dev) || s.fabric) && decide (s.fabricGroup a ≠ 0)
        && decide (s.fabricGroup a = s.fabricGroup b))

/-- Whether a rank is a core of the package, or of the fabric when Cufflink is up (R78). -/
def State.isCore (s : State) (rank : Nat) : Bool :=
  decide (rank < 65536)
    && if rank / 1024 = s.dev then !(s.dies.getD (rank / 128 % 8) .reset).absent
       else s.fabric && (lookup s.peers (rank / 16)).isSome

/-! ### Interrupts and the error log -/

/-- Wakes a band that sleeps (R386). -/
def State.wakeBand (s : State) (b : Nat) : State := if (s.band b).power ≠ 0 then s.modBand b (fun x => { x with waking := true }) else s

/-- Sets an IPEND bit at slot 0 of the system core of a partition (R297); its band wakes (R386). -/
def State.raiseIrq (s : State) (p bitNo : Nat) : State :=
  match s.part p with
  | some x => (s.wakeBand (x.spec.sys / 16)).modThAt { rank := x.spec.sys, slot := 0 } (fun t => { t with ipend := setBit t.ipend bitNo })
  | none => s

/-- The same for the partition of a core. -/
def State.raiseIrqAt (s : State) (rank bitNo : Nat) : State :=
  match s.partOf rank with
  | some p => s.raiseIrq p bitNo
  | none => s

/-- Writes an entry in a core's error log and sets ERRLOG (R351). -/
def State.logError (s : State) (rank kind fl : Nat) (addr : Word) (detail : Nat) : State :=
  let s := s.modCore rank (fun c =>
    { c with log := { c.log with
        nextSeq := c.log.nextSeq + 1,
        entries := ({ seq := c.log.nextSeq, addr := addr, cyc := s.cycle, kind := BitVec.ofNat 8 kind,
                      fl := BitVec.ofNat 8 fl, rank := BitVec.ofNat 16 rank, detail := BitVec.ofNat 32 detail }
                    :: c.log.entries).take 126 } })
  s.raiseIrqAt rank 3

/-- A counter of the log header, saturating (R351). -/
def saturate32 (n : Nat) : Nat := min n 0xFFFFFFFF

/-- The system core of the partition of a core, or the core itself. -/
def State.sysCore (s : State) (rank : Nat) : Nat :=
  match s.partOf rank with
  | some p => match s.part p with
    | some x => x.spec.sys
    | none => rank
  | none => rank

/-! ### Granules and fixed positions -/

/-- The 64-byte granule of a place (R95). -/
def Loc.granule (l : Loc) : Nat := l.key / 64

/-- Whether band pairing is enabled on a core: a set is installed on its band (R120). -/
def State.pairing (s : State) (rank : Nat) : Bool := (s.band (rank / 16)).glove.toList.any Option.isSome

/-- Whether a scratchpad range touches a stationary or mitten position, or the pair buffer (R121). -/
def State.fixedAt (s : State) (rank off : Nat) : Bool :=
  (s.core rank).fixedOffset (s.pairing rank) off || (decide (0x33E000 ≤ off) && s.pairing rank)

/-! ### Messages, tokens and their statuses -/

/-- The change of D for a domain (R271). -/
def adjust (l : List (Word × Int)) (dom : Word) (d : Int) : List (Word × Int) :=
  match l with
  | [] => [(dom, d)]
  | (k, x) :: t => if k = dom then (k, x + d) :: t else (k, x) :: adjust t dom d

/-- A core sends a counted message of a domain (R271). -/
def State.sent (s : State) (rank : Nat) (dom : Word) : State :=
  s.modCore rank (fun c => { c with msgD := adjust c.msgD dom 1 })

/-- A core receives a counted message of a domain: D falls and B is set (R271). -/
def State.received (s : State) (rank : Nat) (dom : Word) : State :=
  s.modCore rank (fun c => { c with msgD := adjust c.msgD dom (-1), msgB := if c.msgB.contains dom then c.msgB else dom :: c.msgB })

/-- Writes the pending marker into a token register; s0 holds none (R24). -/
def Thread.pending (t : Thread) (r : Reg) : Thread :=
  if r = 0 then t else { t with pend := setBit t.pend r.val, tokErr := clearBit t.tokErr r.val, tokUnc := clearBit t.tokUnc r.val }

/-- The identity of the task in a slot; 0 where none is. -/
def Thread.taskId (t : Thread) : Word :=
  match t.task with
  | some k => k.id
  | none => 0

/-- The status word of an RPC (R260). -/
def rpcStatus (cause hcode rbytes hval : Nat) : Word :=
  word (cause % 256 + hcode % 256 * 0x100 + rbytes % 0x10000 * 0x10000 + hval % 0x100000000 * 0x100000000)

/-- The status word of an engine command (R265). -/
def engineStatus (eng pages can cause : Nat) : Word :=
  word (cause % 256 + can % 2 * 0x100 + pages % 0x100000000 * 0x10000 + eng % 0x10000 * 0x1000000000000)

/-- A status for a token register of a task. -/
def statusFor (w : Turn) (task : Word) (reg : Reg) (dom value : Word) : Status :=
  { rank := w.rank, slot := w.slot, task := task, reg := reg, value := value, lost := false, credit := false, recov := false,
    dom := dom }

/-- Adds to the in-flight count of a frame (R343). -/
def State.hold (s : State) (home frame : Nat) : State :=
  s.modCore home (fun c => { c with vault := { c.vault with inflight := insert c.vault.inflight frame ((lookup c.vault.inflight frame).getD 0 + 1) } })

/-- One count fewer. -/
def Vault.unhold (v : Vault) (frame : Nat) : Vault :=
  match lookup v.inflight frame with
  | some (n + 2) => { v with inflight := insert v.inflight frame (n + 1) }
  | _ => { v with inflight := erase v.inflight frame }

/-- Takes from it. -/
def State.unhold (s : State) (home frame : Nat) : State := s.modCore home (fun c => { c with vault := c.vault.unhold frame })

/-- Ends a command that an engine ran with a status (R114, R263); the pages that it holds are free (R343). -/
def State.endCommand (s : State) (c : Cmd) (w : Word) : State :=
  let s := c.held.foldl (fun s h => s.unhold h.1 h.2) (s.received c.rank (word (field c.domain 0 3 + field c.domain 4 12 * 16)))
  { s with statuses := s.statuses ++ [statusFor { rank := c.rank, slot := c.slot } c.task c.tok c.domain w] }

/-- The active command of an engine ends, and the shadow set swaps in (R263). -/
def State.retireActive (s : State) (e : Nat) (w : Word) : State :=
  let x := s.engine e
  match x.active with
  | some c => (s.endCommand c w).setEngine e { x with active := none }
  | none => s

/-- TAG and ID of a domain, as a message carries it (R271). -/
def domKey (d : Word) : Word := word (field d 0 3 + field d 4 12 * 16)

/-- Whether a result buffer of `n` bytes touches a position that a handler may not write (R121). -/
def State.fixedBuffer (s : State) (rank off n : Nat) : Bool :=
  decide (n ≠ 0) && (s.fixedAt rank off || s.fixedAt rank (off + n - 1))

/-- The status of an agent's reply leaves for its token register (R260). A request that an engine sent ends the engine's
command with it (R264). `recov` is set for an UNCORR that a rollback can restore (R355). -/
def State.replyStatus (s : State) (rq : Rpc) (w : Word) (recov : Bool) : State :=
  match rq.engine with
  | some e => s.retireActive e w
  | none =>
    let s := s.sent rq.loc.home (domKey rq.domain)
    { s with statuses := s.statuses ++
        [{ statusFor { rank := rq.rank, slot := rq.slot } rq.task rq.reg rq.domain w with credit := true, recov := recov }] }

/-! ### Taking an exception (R302) and returning from one (R303) -/

/-- Sets sticky flags in FPCTL[12:8] (R58, R59); FPCTL is a task register (R308). -/
def Thread.raised (t : Thread) (fl : Nat) : Thread :=
  if fl = 0 then t else Thread.touchC { t with fpctl := t.fpctl ||| word (fl % 32 * 256) }

/-- The code of a cause as a byte (R170). -/
def Cause.byte (c : Cause) : BitVec 8 := BitVec.ofNat 8 c.code

/-- The task of a slot fails with a cause; TASK_FAILURE_REMOVAL takes it out (R325). -/
def Thread.failWith (t : Thread) (c : BitVec 8) : Thread := { t with failing := some c }

/-- TCAUSE of an entry (R296). -/
def tcauseWord (isInt out : Bool) (kind : BitVec 4) (code : Nat) : Word :=
  word (code % 256 + kind.toNat * 0x100 + ofBool out * 0x1000 + ofBool isInt * 0x8000000000000000)

/-- THSTAT after an entry: EPCSB and LKDONE saved, PMODE and PIE hold MODE and IE, then IE 0, MODE 1, INTRAP 1. -/
def thstatEntered (w : Word) (sb : BitVec 8) (lkdone : BitVec 15) : Word :=
  let w := withField w 56 8 sb.toNat
  let w := withField w 41 15 lkdone.toNat
  let w := withField w 10 2 (field w 8 2)
  let w := withField w 7 1 (field w 6 1)
  let w := withField w 6 1 0
  let w := withField w 8 2 1
  withField w 5 1 1

/-- The handler's address (R295). -/
def handlerPc (tvec : Word) : Ptr := { sb := BitVec.ofNat 8 (field tvec 56 8), v := word (field tvec 2 54 * 4) }

/-- Enter of R302 in a slot: saved registers, mode and status, and the handler's address. `epc` is the trapped
instruction, or the next one for an interrupt. -/
def Thread.enter (t : Thread) (tvec : Word) (isInt out : Bool) (kind : BitVec 4) (code : Nat) (tval : Word) (epc : Ptr)
    (lkdone : BitVec 15) : Thread :=
  { t with tepc := epc.v, tcause := tcauseWord isInt out kind code, tval := tval,
           thstat := thstatEntered t.thstat epc.sb lkdone, pc := handlerPc tvec, replay := none, waitSince := none, monWait := none,
           occ := .occupied }

/-- A trap with handler delivery in a slot of a compute core: the entry, or the end of the task for a double trap. In
monitor mode the registers of R299 take it. -/
def State.enterAt (s : State) (w : Turn) (c : Cause) (tval : Word) (kind : BitVec 4) (out : Bool) (epc : Ptr)
    (lkdone : BitVec 15) : State :=
  let t := s.thAt w
  if t.mode = 2 then
    let m := s.monitor
    { s with monitor := { m with mepc := epc.v, mcause := tcauseWord false out kind c.code, mtval := tval,
                                 mstat := withField (thstatEntered m.mstat epc.sb lkdone) 8 2 2 } }.setThAt w
      { t with pc := handlerPc m.mtvec, replay := none, waitSince := none, monWait := none }
  else if bit t.thstat 5 then s.setThAt w (t.failWith (Cause.byte c))
  else s.setThAt w (t.enter (s.core w.rank).tvec false out kind c.code tval epc lkdone)

/-- A request or the end of a unit's work wakes an agent that waits (R194). -/
def State.wakeAgent (s : State) (rank : Nat) : State := s.modThAt { rank := rank, slot := 4 } (fun t => { t with wfi := false })

/-- Ends the handler that an agent runs: locks released, and the agent waits for the next request (R281, R285). -/
def State.endHandler (s : State) (rank : Nat) : State :=
  (s.modCore rank (fun c => { c with agent := { c.agent with current := none, replied := false, locks := [], lockEnd := 0 } })).modThAt
    { rank := rank, slot := 4 } (fun t => { t with occ := .empty, outst := [], replay := none, wfi := false })

/-- A trap on an agent (R285). -/
def State.agentTrap (s : State) (rank : Nat) (c : Cause) : State :=
  let a := (s.core rank).agent
  match a.current with
  | some rq =>
    let s := s.logError rank 10 0 rq.tgt.v (rq.h * 0x100 + c.code)
    let s := if a.replied then s else s.replyStatus rq (rpcStatus Cause.rpcFail.code c.code 0 0) false
    s.endHandler rank
  | none => s.endHandler rank

/-- A trap of the thread at its instruction (R301, R302): its flags are set (R59); then on an agent R285, else the entry.
Instructions of a replay that are still to be skipped go into LKDONE again (DEDUCED, log entry 21). -/
def State.takeTrap (s : State) (t : Trap) : State :=
  let s := s.modTh (·.raised t.flags)
  if s.turn.slot = 4 then s.agentTrap s.turn.rank t.cause
  else match s.th.replay with
    | some r =>
      let rest := r.skip.toNat / 2 ^ (r.pos + 1)
      s.enterAt s.turn t.cause t.tval t.kind (t.out || decide (rest ≠ 0)) s.th.pc (BitVec.ofNat 15 rest)
    | none => s.enterAt s.turn t.cause t.tval t.kind t.out s.th.pc 0

/-- An interrupt in a slot: CODE is its IPEND bit (R297, R302). -/
def State.enterInterrupt (s : State) (w : Turn) (bitNo : Nat) (tval : Word) : State :=
  let t := s.thAt w
  s.setThAt w (t.enter (s.core w.rank).tvec true false 0 bitNo tval t.pc 0)

/-- THSTAT after `tret` (R303). -/
def thstatReturned (w : Word) : Word :=
  let w := withField w 8 2 (field w 10 2)
  let w := withField w 6 1 (field w 7 1)
  let w := withField w 5 1 0
  let w := withField w 41 15 0
  withField w 13 1 0

/-- The window to replay, where something of it is to be skipped (R26). -/
def mkReplay (skip : BitVec 16) : Option Replay := if skip = 0 then none else some { pos := 0, skip := skip }

/-- A replay past its next instruction; it ends once nothing is left to skip. -/
def Thread.stepReplay (t : Thread) : Thread :=
  { t with replay := match t.replay with
      | some r => if r.skip.toNat / 2 ^ (r.pos + 1) = 0 then none else some { r with pos := r.pos + 1 }
      | none => none }

/-- The return of R303: mode, IE and pc restored, and the window replayed where TCAUSE.OUT is set. -/
def Thread.return (t : Thread) : Thread :=
  { t with thstat := thstatReturned t.thstat,
           pc := { sb := BitVec.ofNat 8 (field t.thstat 56 8), v := t.tepc },
           resumeTiles := if field t.tcause 8 4 = 4 ∧ (field t.tcause 0 8 = Cause.refresh.code ∨ field t.tcause 0 8 = Cause.rowRep.code)
             then field t.tval 0 5 else 0,
           replay := if bit t.tcause 12 then
               mkReplay (BitVec.ofNat 16 (field t.thstat 13 1 + field t.thstat 41 15 * 2))
             else none }

/-! ### How a meaning ends -/

/-- Why a meaning does not complete its instruction. -/
inductive Stop where
  | trap (t : Trap)         -- it traps at issue, with no effect
  | stall                   -- it waits: the instruction stays the next one
  | done                    -- the state is as the meaning left it, pc included
  | page (ga : Ptr) (c : Cause) (kind reason : Nat)  -- a translation fault (R340)
  | fault (f : Fault)
  deriving DecidableEq, Repr

/-- A meaning over the state: an answer or a stop, each with the state it leaves. -/
abbrev M (α : Type) := EStateM Stop State α

/-- Stops with a trap at issue. -/
def raise {α : Type} (c : Cause) (tval : Word) (kind : BitVec 4) : M α :=
  throw (.trap { cause := c, tval := tval, kind := kind, out := false })

/-- The instruction waits. -/
def stall {α : Type} : M α := throw .stall

/-- The instruction has done all it does, the pc included. -/
def finish {α : Type} : M α := throw .done

/-- Changes the state. -/
def upd (f : State → State) : M Unit := modify f

/-- Changes the thread that issues. -/
def updTh (f : Thread → Thread) : M Unit := modify (fun s => s.modTh f)

/-- The thread that issues. -/
def thread : M Thread := do return (← get).th

/-- The core of the thread that issues. -/
def myCore : M Core := do return (← get).me

/-- Stops where a condition does not hold. -/
def require (b : Bool) (k : M Unit) : M Unit := if b then pure () else k

/-- TVAL of a trap that reports the word itself (R156, R301). -/
def wordVal (i : Instr) : Word := word (encodeNat i)

/-- The word raises ILLEGAL (R158). -/
def illegal {α : Type} (i : Instr) : M α := raise .illegal (wordVal i) 0

/-- A slot that stalls is not ready until its core has arbitrated again (R20, R21). -/
def Thread.stall (t : Thread) : Thread := { t with stalled := true }

/-- A meaning that cannot trap: the next state of the thread that issues, its pc advanced. -/
def simple (f : Thread → Thread) (s : State) : Result := .next (s.setTh (f s.th).next)

end Sys2Proof.Machine
end

