-- ==== Sys2Proof/Machine/Flags.lean ====
section
/-!
DEFINITION. FPCTL: flags, their trap enables, the effective rounding mode, and the stochastic generator (R54-R59).
-/

namespace Sys2Proof.Machine

/-- Whether a raised flag has its enable bit set (R59). -/
def Thread.fpTraps (t : Thread) (fl : Flags) : Bool :=
  decide (field t.fpctl 16 5 ≠ 0) && decide (fl &&& field t.fpctl 16 5 ≠ 0)

/-- FPCTL.RM (R58). -/
def Thread.rm (t : Thread) : Mode := field t.fpctl 0 3

/-- The effective mode of a rounding code, and whether it sets WARN.FMT: code 6 uses FPCTL.RM, 7 is DYN, and SR on
anything but a conversion rounds in RNE (R54, R55). -/
def Thread.effMode (t : Thread) (code : Nat) (conv : Bool) : Mode × Bool :=
  let m := if code < 6 then code else t.rm
  if m = 5 ∧ !conv then (0, true) else (m, decide (code = 6))

/-- The thread with WARN.FMT set where a fallback was taken (R162). -/
def Thread.warnIf (t : Thread) (w : Warn) (b : Bool) : Thread := if b then t.warnBit w else t

/-- The next state of the generator (R56). -/
def srNext (s : Word) : Word :=
  let s := s ^^^ (s <<< 13)
  let s := s ^^^ (s >>> 7)
  s ^^^ (s <<< 17)

/-- A draw: the thread with its generator advanced, and bits [63:32] of the new state (R56). -/
def Thread.draw (t : Thread) : Thread × Nat :=
  let s := srNext t.srseed
  (Thread.touchC { t with srseed := s }, s.toNat / 2 ^ 32)

/-- The thread with its generator moved on by the draws of a conversion that delivers its result (R56). -/
def Thread.seeded (t : Thread) (sr : Bool) (seed : Word) : Thread := if sr then Thread.touchC { t with srseed := seed } else t

/-- A seed as a write stores it: zero stores the reset value (R57). -/
def storedSeed (v : Word) : Word := if v = 0 then seedReset else v

/-- An instruction without a lookahead whose result rounds: the flags are set and the destination is written, unless an
enabled flag was raised, which raises FPX with the raised flags in TVAL (R59, R301). -/
def fpWrite (fl : Flags) (write : Thread → Thread) : M Unit := do
  if ((← thread).raised fl).fpTraps fl then
    throw (.trap { cause := .fpx, tval := word fl, kind := 0, out := false, flags := fl })
  else updTh (fun t => write (t.raised fl))

end Sys2Proof.Machine
end

