-- ==== Sys2Proof/Machine/Outstanding.lean ====
section
/-!
DEFINITION. Outstanding long-latency instructions (R22-R26). A tokenless one takes its effect when it issues; its entry
keeps what touches its destination from issuing until OUTSTANDING_INSTRUCTION_COMPLETE takes it away, and holds the
trap that it raises meanwhile.
-/

namespace Sys2Proof.Machine

/-- A long-latency instruction issues and is outstanding (R23). -/
def Thread.issueWaiting (t : Thread) (lk : Fin 16) (dest : List Res) (wait : OutWait) : Thread :=
  { t with outst := t.outst ++ [{ pc := t.pc, lk := lk.val, issued := 0, done := 0, dest := dest, trap := none,
                                  wait := wait }] }

/-- The same for one that has nothing left to wait for. -/
def Thread.issueOut (t : Thread) (lk : Fin 16) (dest : List Res) : Thread := t.issueWaiting lk dest .ready

/-- A long-latency instruction issues and raises a trap while outstanding (R26): it writes no destination. -/
def Thread.issueTrap (t : Thread) (lk : Fin 16) (dest : List Res) (c : Cause) (tval : Word) (kind : BitVec 4) : Thread :=
  { t with outst := t.outst ++ [{ pc := t.pc, lk := lk.val, issued := 0, done := 0, dest := dest, wait := .ready,
                                  trap := some { cause := c, tval := tval, kind := kind, out := true } }] }

/-- The same for FPX: the flags are set when it is taken, and not where an older trap drops it (R26, R59). -/
def Thread.issueFpx (t : Thread) (lk : Fin 16) (dest : List Res) (fl : Flags) : Thread :=
  { t with outst := t.outst ++ [{ pc := t.pc, lk := lk.val, issued := 0, done := 0, dest := dest, wait := .ready,
                                  trap := some { cause := .fpx, tval := word fl, kind := 0, out := true, flags := fl } }] }

/-- A long-latency instruction whose result rounds: flags set and the destination written, unless an enabled flag was
raised, which is an outstanding FPX (R59). -/
def Thread.fpIssue (t : Thread) (lk : Fin 16) (dest : List Res) (fl : Flags) (write : Thread → Thread) : Thread :=
  if (t.raised fl).fpTraps fl then t.issueFpx lk dest fl else (write (t.raised fl)).issueOut lk dest

/-- Whether what an outstanding instruction waits for is over. -/
def State.waitOver (s : State) (w : Turn) (o : Outst) : Bool :=
  match o.wait with
  | .ready => true
  | .op id => !(s.core w.rank).mops.any (fun m => decide (m.id = id))
  | .tiles id => !(s.core w.rank).xfers.any (fun x => decide (x.id = id))
  | .stopped _ => false
  | .inj id => !(s.band (w.rank / 16)).pend.any (fun x => decide (x.pos = w.rank % 16) && decide (x.id = id))
  | .net id => !s.nets.any (fun n => decide (n.rank = w.rank) && decide (n.id = id) && !n.sent)

/-- The first entry that a test accepts, and the others. -/
def takeFirst {α : Type} (p : α → Bool) : List α → Option (α × List α)
  | [] => none
  | x :: t => if p x then some (x, t) else match takeFirst p t with
    | some (y, r) => some (y, x :: r)
    | none => none

/-- LKDONE of the oldest trap: the bits of younger instructions that trapped too are clear (R26), and instructions of a
replay that are still to be skipped keep theirs (DEDUCED, log entry 21). -/
def lkDone (o : Outst) (younger : List Outst) (r : Option Replay) : BitVec 15 :=
  let d := younger.foldl (fun d y => clearBit d (o.issued - y.issued - 1)) o.done
  match r with
  | some r => d ||| BitVec.ofNat 15 (r.skip.toNat / 2 ^ r.pos * 2 ^ o.issued)
  | none => d

/-- A slot that drained for a translation fault alone goes on to it once nothing is outstanding (R20, R324). -/
def Thread.drained (t : Thread) : Thread :=
  if t.outst = [] ∧ t.occ = .draining ∧ t.preempt = false ∧ t.failing = none then
    match t.task with
    | some k => if k.wait = .none then { t with occ := .occupied } else t
    | none => { t with occ := .occupied }
  else t

/-- OUTSTANDING_INSTRUCTION_COMPLETE: the oldest entry that is over and holds no trap goes. Once every entry left is
over and holds a trap, the oldest trap is taken (R24, R26). -/
def State.completeOut (s : State) (w : Turn) : State :=
  let t := s.thAt w
  match takeFirst (fun o => s.waitOver w o && o.trap.isNone) t.outst with
  | some (_, rest) => s.setThAt w (Thread.drained { t with outst := rest })
  | none =>
    if t.outst.all (fun o => s.waitOver w o) then
      match t.outst with
      | [] => s
      | o :: younger =>
        match o.trap with
        | some x =>
          let s := s.setThAt w (Thread.raised { t with outst := [] } x.flags)
          if w.slot = 4 then s.agentTrap w.rank x.cause
          else s.enterAt w x.cause x.tval x.kind true o.pc (lkDone o younger t.replay)
        | none => s
    else s

/-- Counts an instruction that has issued in the windows of the entries before it, with its LKDONE bit: an entry that traps
later loses it again (R26). -/
def noteIssued (l : List Outst) : List Outst :=
  l.map (fun o => { o with issued := o.issued + 1, done := if o.issued < 15 then setBit o.done o.issued else o.done })

end Sys2Proof.Machine
end

