-- ==== Sys2Proof/Machine/Alu.lean ====
section
/-!
DEFINITION. Integer arithmetic, immediates, constants and shifts (R171-R177).
-/

namespace Sys2Proof.Machine

/-! ### The integer functions of R173 -/

/-- Shifts by the whole of b, read as unsigned (R173). -/
def shiftLeft (a b : Word) : Word := a <<< (min b.toNat 64)

def shiftRight (a b : Word) : Word := a >>> (min b.toNat 64)

def shiftArith (a b : Word) : Word := a.sshiftRight (min b.toNat 63)

/-- 1 where a condition holds (R173). -/
def flagWord (b : Bool) : Word := if b then 1 else 0

def lessSigned (a b : Word) : Word := flagWord (a.slt b)

def lessUnsigned (a b : Word) : Word := flagWord (a.ult b)

def minSigned (a b : Word) : Word := if a.slt b then a else b

def maxSigned (a b : Word) : Word := if a.slt b then b else a

def minUnsigned (a b : Word) : Word := if a.ult b then a else b

def maxUnsigned (a b : Word) : Word := if a.ult b then b else a

/-- Bits [127:64] of the exact signed product. -/
def mulHighSigned (a b : Word) : Word := BitVec.ofInt 64 (a.toInt * b.toInt / 2 ^ 64)

/-- Bits [127:64] of the exact unsigned product. -/
def mulHighUnsigned (a b : Word) : Word := word (a.toNat * b.toNat / 2 ^ 64)

/-- The signed quotient: truncated toward zero, saturating, and the limit of the quotient for a zero divisor (R174). -/
def divSigned (a b : Word) : Word :=
  if b = 0 then (if a = 0 then 0 else if a.slt 0 then 0x8000000000000000 else 0x7FFFFFFFFFFFFFFF)
  else if a = 0x8000000000000000 ∧ b = 0xFFFFFFFFFFFFFFFF then 0x7FFFFFFFFFFFFFFF
  else BitVec.ofInt 64 (a.toInt.tdiv b.toInt)

/-- The unsigned quotient (R174). -/
def divUnsigned (a b : Word) : Word :=
  if b = 0 then (if a = 0 then 0 else 0xFFFFFFFFFFFFFFFF) else word (a.toNat / b.toNat)

/-- The signed remainder: zero or with the sign of a; a for a zero divisor (R174). -/
def remSigned (a b : Word) : Word :=
  if b = 0 then a
  else if a = 0x8000000000000000 ∧ b = 0xFFFFFFFFFFFFFFFF then 0
  else BitVec.ofInt 64 (a.toInt.tmod b.toInt)

/-- The unsigned remainder (R174). -/
def remUnsigned (a b : Word) : Word := if b = 0 then a else word (a.toNat % b.toNat)

/-- One bits among the low n bits of a number. -/
def countOnes : Nat → Nat → Nat
  | 0, _ => 0
  | n + 1, x => x % 2 + countOnes n (x / 2)

/-- Zero bits below the lowest one bit, at most n. -/
def trailingZeros : Nat → Nat → Nat
  | 0, _ => 0
  | n + 1, x => if x % 2 = 1 then 0 else 1 + trailingZeros n (x / 2)

/-- Leading zero bits of a word. -/
def leadingZeros (a : Word) : Word := word (if a = 0 then 64 else 63 - Nat.log2 a.toNat)

/-! ### The forms -/

/-- d := f(a, b), an instruction that completes in the issue pipeline (R173). -/
def aluOp (g : Word → Word → Word) (f : FmtA) : State → Result :=
  simple (fun t => (t.lkIgnored f.lk).putInt f.d (g (t.val f.a) (t.val f.b)))

/-- d := f(a, b), long-latency: outstanding until d is written (R22, R174). -/
def divideOp (g : Word → Word → Word) (f : FmtA) : State → Result :=
  simple (fun t => (t.putInt f.d (g (t.val f.a) (t.val f.b))).issueOut f.lk [.s f.d])

/-- d := f(a, sext imm16) (R175). -/
def immOp (g : Word → Word → Word) (f : FmtI) : State → Result :=
  simple (fun t => t.putInt f.d (g (t.val f.a) (sext f.imm)))

/-- d := f(a, sh) (R177). -/
def shiftOp (g : Word → Word → Word) (f : FmtSh) : State → Result :=
  simple (fun t => t.putInt f.d (g (t.val f.a) (word f.sh.val)))

/-! ### The members -/

def execAdd : FmtA → State → Result := aluOp (· + ·)
def execSub : FmtA → State → Result := aluOp (· - ·)
def execAnd : FmtA → State → Result := aluOp (· &&& ·)
def execOr : FmtA → State → Result := aluOp (· ||| ·)
def execXor : FmtA → State → Result := aluOp (· ^^^ ·)
def execSll : FmtA → State → Result := aluOp shiftLeft
def execSrl : FmtA → State → Result := aluOp shiftRight
def execSra : FmtA → State → Result := aluOp shiftArith
def execSlt : FmtA → State → Result := aluOp lessSigned
def execSltu : FmtA → State → Result := aluOp lessUnsigned
def execMin : FmtA → State → Result := aluOp minSigned
def execMax : FmtA → State → Result := aluOp maxSigned
def execMinu : FmtA → State → Result := aluOp minUnsigned
def execMaxu : FmtA → State → Result := aluOp maxUnsigned
def execMul : FmtA → State → Result := aluOp (· * ·)
def execMulh : FmtA → State → Result := aluOp mulHighSigned
def execMulhu : FmtA → State → Result := aluOp mulHighUnsigned
def execDiv : FmtA → State → Result := divideOp divSigned
def execDivu : FmtA → State → Result := divideOp divUnsigned
def execRem : FmtA → State → Result := divideOp remSigned
def execRemu : FmtA → State → Result := divideOp remUnsigned
def execClz : FmtA → State → Result := aluOp (fun a _ => leadingZeros a)
def execCtz : FmtA → State → Result := aluOp (fun a _ => word (trailingZeros 64 a.toNat))
def execPopc : FmtA → State → Result := aluOp (fun a _ => word (countOnes 64 a.toNat))

def execAddi : FmtI → State → Result := immOp (· + ·)
def execAndi : FmtI → State → Result := immOp (· &&& ·)
def execOri : FmtI → State → Result := immOp (· ||| ·)
def execXori : FmtI → State → Result := immOp (· ^^^ ·)
def execSlti : FmtI → State → Result := immOp lessSigned
def execSltiu : FmtI → State → Result := immOp lessUnsigned

/-- `lui d, v`: d := sext(v) << 11 (R176). -/
def execLui (f : FmtU) : State → Result := simple (fun t => t.putInt f.d (sext f.imm <<< 11))

/-- `lsi d, c`: d := (d << 21) | c (R176). -/
def execLsi (f : FmtU) : State → Result :=
  simple (fun t => t.putInt f.d ((t.val f.d <<< 21) ||| f.imm.setWidth 64))

def execSlli : FmtSh → State → Result := shiftOp shiftLeft
def execSrli : FmtSh → State → Result := shiftOp shiftRight
def execSrai : FmtSh → State → Result := shiftOp shiftArith

end Sys2Proof.Machine
end

