-- ==== Sys2Proof/Machine/Vault.lean ====
section
/-!
DEFINITION. What a home does with an access: rows and banks of a vault (R85), what a write does beside changing its
bytes (zero map R342, check values R347, journal R356, monitors R275), and the recall of deferred reductions (R111).
-/

namespace Sys2Proof.Machine

/-! ### Rows, banks, granules -/

/-- The 19-bit row address of a vault offset (R85). -/
def rowOf (off : Nat) : Nat := off / 0x800

/-- The bank of a row address: {layer, bank} (R85). -/
def bankOf (row : Nat) : Nat := row / 0x4000

/-- Adds a number to a list that holds it at most once. -/
def addOnce {α : Type} [DecidableEq α] (l : List α) (x : α) : List α := if x ∈ l then l else x :: l

/-! ### Pages and their places (R331, R332, R344) -/

/-- The home rank and the frame field of an entry (R331). -/
def leafHome (e : Word) : Nat := field e 27 16

def leafFrame (e : Word) : Nat := field e 0 27

def leafTier (e : Word) : Nat := field e 61 2

/-- The frame that a page of a leaf lies in (R332). -/
def frameFor (e : Word) (sz vpn : Nat) : Nat :=
  match sz with
  | 1 => leafFrame e / 32 * 32 + vpn % 32
  | 2 => leafFrame e + vpn % 0x4000
  | _ => leafFrame e

/-- The place of a byte of a page (R94). -/
def placeOf (part : Nat) (e : Word) (sz vpn off : Nat) : Loc :=
  let o := frameFor e sz vpn * 0x10000 + off % 0x10000
  match leafTier e with
  | 0 => vaultLoc (leafHome e) o
  | 1 => { region := .tier2 part, home := leafHome e, off := o }
  | _ => { region := .host part, home := leafHome e, off := o }

/-- The frame of a place in the counts and redirect entries of its home (R343): tiers are apart. -/
def pageKey (l : Loc) : Nat :=
  l.off / 0x10000 + match l.region with
    | .vault => 0
    | .tier2 _ => 2 ^ 40
    | .host _ => 2 ^ 41
    | _ => 2 ^ 42

/-- Where the redirect entries of old homes send an access (R343, R344), with the page's new place. -/
def State.redirectedFrom (s : State) (part : Nat) : Nat → Loc → Option (Loc × Word)
  | 0, _ => none
  | n + 1, l =>
    let k := pageKey l
    match (s.core l.home).agent.redirects.find? (fun p => decide (p.1 ≤ k) && decide (k < p.1 + p.2.frames)) with
    | some (f, e) =>
      let l' := placeOf part (withField e.place 0 27 (leafFrame e.place + (k - f))) 0 0 (l.off % 0x10000)
      match s.redirectedFrom part n l' with
      | some x => some x
      | none => some (l', e.place)
    | none => none

/-- The same, over any number of moves that a package can hold. -/
def State.redirected (s : State) (part : Nat) (l : Loc) : Option (Loc × Word) := s.redirectedFrom part 32 l

/-- Whether a place lies in a page that its home is moving (R344). -/
def State.migrating (s : State) (l : Loc) : Bool :=
  match (s.core l.home).agent.moving with
  | some m => decide (m.frame ≤ pageKey l) && decide (pageKey l < m.frame + m.frames)
  | none => false

/-- Where a row of a page that moves or has moved lies now (R344). -/
def State.livePlace (s : State) (part : Nat) (l : Loc) : Loc :=
  match (s.core l.home).agent.moving with
  | some m =>
    let k := pageKey l
    if m.frame ≤ k ∧ k < m.frame + m.frames ∧ (k - m.frame) * 32 + l.off % 0x10000 / 0x800 < m.rows then
      placeOf part (withField m.place 0 27 (leafFrame m.place + (k - m.frame))) 0 0 (l.off % 0x10000)
    else l
  | none => match s.redirected part l with
    | some (l', _) => l'
    | none => l

/-! ### Domains on a tag (R38, R269) -/

/-- The span region of a core: cores with the same number lie in one region (R269). -/
def regionOf (span rank : Nat) : Nat :=
  match span with
  | 1 => rank
  | 2 => rank / 16
  | 3 => rank / 128
  | 4 => rank / 1024
  | _ => 0

/-- BMASK of a tag on a core (R269). -/
def Core.bmaskOf (c : Core) (tag : Nat) : Word := c.bmask.getD tag 0

/-- SPAN and GROUP of a core on a tag. -/
def Core.span (c : Core) (tag : Nat) : Nat := field (c.bmaskOf tag) 16 3

def Core.group (c : Core) (tag : Nat) : Nat := field (c.bmaskOf tag) 0 16

/-- The group of a core on a tag, in ascending rank (R269). -/
def State.groupOf (s : State) (rank tag : Nat) : List Nat :=
  let c := s.core rank
  (s.cores.filter (fun p => decide (p.2.span tag = c.span tag) && decide (p.2.group tag = c.group tag)
    && decide (regionOf (c.span tag) p.1 = regionOf (c.span tag) rank) && decide (p.1 < 65536) && s.reaches rank p.1)).map (·.1)

/-- DOMID.CKPT (R39). -/
def ckptDom (d : Word) : Bool := bit d 3

/-- Whether a core is a member of a domain: it lies in the group of the core of the domain's work on the domain's
tag. -/
def State.domainHolds (s : State) (rank : Nat) (home : Nat) (dom : Word) : Bool :=
  (s.groupOf rank (field dom 0 3)).contains home

/-! ### Writes -/

/-- On whose behalf a write is made: the core of the work, and its domain where it runs in checkpoint mode (R356). -/
structure Behalf where
  rank : Nat
  dom : Option Word
  deriving DecidableEq, Repr

/-- Rows of journal that a vault of a core has (R364). -/
def State.journalCap (s : State) (rank : Nat) : Nat :=
  match s.partOf rank with
  | some p => match s.part p with
    | some x => x.spec.journalRows
    | none => 0
  | none => 0

/-- The first write of a superstep to a row, made on behalf of a checkpoint domain, copies it to the journal; a full
journal leaves the domain unprotected (R356). -/
def State.journal (s : State) (b : Behalf) (home row : Nat) : State :=
  match b.dom with
  | none => s
  | some d =>
    let v := (s.core home).vault
    if !s.domainHolds b.rank home d || v.unprotected.contains d || v.journal.any (fun j => decide (j.dom = d) && decide (j.row = row)) then s
    else if v.journal.length < s.journalCap home then
      let e : JournalRow := { dom := d, row := row, old := s.peek (vaultLoc home (row * 0x800)) 0x800, cv := !v.noCv.contains row }
      s.modCore home (fun c => { c with vault := { c.vault with journal := e :: c.vault.journal } })
    else s.modCore home (fun c => { c with vault := { c.vault with unprotected := d :: c.vault.unprotected } })

/-- The offset kept in place of a leaf's, past the vault, where a discarded page has no leaf left to mark. -/
def noLeaf : Nat := 0x40000000

/-- The first write to a zero-mapped frame: its bytes are zero already; the bit and the leaf's ZR are cleared (R342). -/
def State.unzero (s : State) (home frame : Nat) : State :=
  match (s.core home).vault.zero.find? (fun z => decide (z.1 = frame)) with
  | none => s
  | some (_, leafHome, leafOff) =>
    let l := vaultLoc leafHome leafOff
    let s := if leafOff < noLeaf then s.poke l 8 (clearBit (word (s.peek l 8)) 59).toNat else s
    -- whole rows of zeros are written, each with its check value (R347)
    s.modCore home (fun c => { c with vault := { c.vault with
      zero := c.vault.zero.filter (fun z => decide (z.1 ≠ frame)), noCv := c.vault.noCv.filter (fun r => decide (r / 32 ≠ frame)),
      badCheck := c.vault.badCheck.filter (fun r => decide (r / 32 ≠ frame)) } })

/-- What a write to a vault row does beside its bytes: whole rows set CV, others clear it, and a whole row or granule
takes away what was uncorrectable there (R347, R352). -/
def Vault.noteWrite (v : Vault) (off n : Nat) : Vault :=
  let row := rowOf off
  let whole := decide (off % 0x800 = 0) && decide (n = 0x800)
  { v with noCv := if whole then v.noCv.filter (fun r => decide (r ≠ row)) else addOnce v.noCv row,
           badCheck := if whole then v.badCheck.filter (fun r => decide (r ≠ row)) else v.badCheck,
           badGranules := v.badGranules.filter (fun g => decide (g * 64 < off) || decide (off + n < g * 64 + 64)),
           weakGranules := v.weakGranules.filter (fun g => decide (g * 64 < off) || decide (off + n < g * 64 + 64)) }

/-- The place of an entry of a partition's fault queue (R340). -/
def Partition.faultEntry (x : Partition) (k : Nat) : Loc := vaultLoc x.spec.sys (x.spec.faultOff + 32 * k)

/-- The entries of a fault queue whose RES byte a store of `n` bytes makes non-zero (R341). -/
def Partition.resolved (x : Partition) (off n v : Nat) : List Nat :=
  ((List.range (n / 32 + 2)).map (fun i => (off - x.spec.faultOff) / 32 + i)).filter (fun k =>
    let o := x.spec.faultOff + 32 * k + 0x1F
    decide (k < 2 ^ x.spec.faultK) && decide (off ≤ o) && decide (o < off + n) && decide (v / 256 ^ (o - off) % 256 ≠ 0))

/-- The order of the RES stores that a system core's vault performs (R341). -/
def State.noteResolve (s : State) (home off n v : Nat) : State :=
  match s.parts.find? (fun p => decide (p.2.spec.sys = home)) with
  | none => s
  | some (p, x) =>
    match x.resolved off n v with
    | [] => s
    | ks => { s with resolves := ks.foldl (fun l k => if (p, k) ∈ l then l else l ++ [(p, k)]) s.resolves }

/-! ### Second-tier check values (R347) -/

/-- The blocks of 256 bytes that a range meets. -/
def blocksOf (key n : Nat) : List Nat := (List.range ((key + n - 1) / 256 - key / 256 + 1)).map (· + key / 256)

/-- The check value of a block. -/
def State.tierCheck (s : State) (b : Nat) : BitVec 32 := BitVec.ofNat 32 (crc32c 256 (Memory.readN s.mem (b * 256) 256))

/-- The check values of the blocks of a range, made with a write. -/
def State.sealTier (s : State) (key n : Nat) : State :=
  { s with tierChecks := (blocksOf key n).foldl (fun m b => insert m b (s.tierCheck b)) s.tierChecks }

/-- Whether a block of a range does not fit its check value; a block that nothing has written has none. -/
def State.tierFails (s : State) (key n : Nat) : Bool :=
  (blocksOf key n).any (fun b => match lookup s.tierChecks b with
    | some c => decide (c ≠ s.tierCheck b)
    | none => false)

/-- A frame filled with zeros (R342). -/
def State.zeroFill (s : State) (l : Loc) (n : Nat) : State :=
  let s := s.wipe l n
  { s with tierChecks := s.tierChecks.filter (fun p => decide (p.1 * 256 < l.key) || decide (l.key + n ≤ p.1 * 256)) }

/-! ### Reads -/

/-- Whether an offset lies in an entry of the pair buffer that holds no matched pair: it reads as zero (R120). -/
def State.freePairEntry (s : State) (rank off : Nat) : Bool :=
  decide (0x33E000 ≤ off) && s.pairing rank && ((s.core rank).mitten.getD ((off - 0x33E000) / 0x800) none).isNone

/-- The bytes of a scratchpad that reach into the pair buffer, each as it reads (R120). -/
def State.pairBytes (s : State) (rank off : Nat) : Nat → Nat
  | 0 => 0
  | n + 1 =>
    (if s.freePairEntry rank off then 0 else (s.byteAt (scratchLoc rank off)).toNat) + 256 * s.pairBytes rank (off + 1) n

/-- What a read of a place delivers. -/
def State.look (s : State) (l : Loc) (n : Nat) : Nat :=
  if l.region = .scratch ∧ 0x33E000 < l.off + n ∧ s.pairing l.home = true then s.pairBytes l.home l.off n else s.peek l n

/-- Whether a place lies in a stationary or mitten position, or the pair buffer (R121). -/
def State.fixedLoc (s : State) (l : Loc) : Bool := decide (l.region = .scratch) && s.fixedAt l.home l.off

/-- Whether a place lies in a frame whose zero-map bit is set (R342). -/
def State.zeroMapped (s : State) (l : Loc) : Bool :=
  decide (l.region = .vault) && (s.core l.home).vault.zero.any (fun z => decide (z.1 = l.off / 0x10000))

/-- Whether a read of a range meets an uncorrectable error (R349, R350); a zero-mapped frame is read without the DRAM
(R342). -/
def State.unreadable (s : State) (l : Loc) (n : Nat) : Bool :=
  match l.region with
  | .vault =>
    !s.zeroMapped l && (s.core l.home).vault.badGranules.any (fun g => decide (g ≤ (l.off + n - 1) / 64) && decide (l.off / 64 ≤ g))
  | .scratch =>
    (s.core l.home).badScratch.any (fun u => decide (u ≤ (l.off + n - 1) / 8) && decide (l.off / 8 ≤ u)) && !s.fixedAt l.home l.off
  -- every frame spreads over all populated ports (R377); 1 is a port that has gone down
  | .tier2 _ =>
    s.tiers.toList.all (fun v => decide (v = 0)) || s.tiers.toList.any (fun v => decide (v = 1)) || s.tierFails l.key n
  | _ => false

/-- The log entry of an uncorrectable read, by the core that met it, and the row queued for repair (R351, R352); a check
value that fails is an entry of kind 2 (R348). -/
def State.logUnreadable (s : State) (rank : Nat) (l : Loc) (n inj : Nat) : State :=
  match l.region with
  | .scratch => s.logError rank 7 (1 + inj) (word l.off) (l.off / 8)
  | .vault =>
    let s := s.modCore l.home (fun c => { c with vault := { c.vault with correctedReads := .replicate 4 (rowOf l.off, s.cycle.toNat) ++ c.vault.correctedReads } })
    s.logError rank 1 (1 + inj) (word l.off) (rowOf l.off)
  | _ => s.logError rank (if s.tierFails l.key n then 2 else 1) (1 + inj) (word l.off) 0

/-- A read corrects what is correctable, writes it back, and counts it (R349); stationary and mitten positions carry no code
(R350). -/
def State.corrected (s : State) (l : Loc) (n : Nat) : State :=
  match l.region with
  | .vault =>
    let hit := (s.core l.home).vault.weakGranules.filter (fun g => decide (g ≤ (l.off + n - 1) / 64) && decide (l.off / 64 ≤ g))
    if hit = [] ∨ s.zeroMapped l then s
    else s.modCore l.home (fun c =>
      { c with log := { c.log with csym := saturate32 (c.log.csym + hit.length) },
               vault := { c.vault with weakGranules := c.vault.weakGranules.filter (fun g => !hit.contains g),
                                       correctedReads := hit.map (fun g => (g / 32, s.cycle.toNat)) ++ c.vault.correctedReads } })
  | .scratch =>
    let hit := (s.core l.home).weakScratch.filter (fun u => decide (u ≤ (l.off + n - 1) / 8) && decide (l.off / 8 ≤ u))
    if hit = [] ∨ s.fixedAt l.home l.off then s
    else s.modCore l.home (fun c =>
      { c with log := { c.log with csram := saturate32 (c.log.csram + hit.length) },
               weakScratch := c.weakScratch.filter (fun u => !hit.contains u) })
  | _ => s

/-! ### Control space (R300) -/

/-- The 8 bytes of an error log at an offset (R351). -/
def ErrLog.word (g : ErrLog) (o : Nat) : Word :=
  match o / 8 with
  | 0 => g.nextSeq
  | 1 => Machine.word (g.csym + g.csram * 2 ^ 32)
  | 2 => Machine.word (g.chdr + g.cabft * 2 ^ 32)
  | 3 => Machine.word g.rrep
  | n =>
    if n < 8 then 0
    else match g.entries.find? (fun e => decide (e.seq.toNat % 126 = (n - 8) / 4)) with
      | none => 0
      | some e =>
        match n % 4 with
        | 0 => e.seq
        | 1 => e.addr
        | 2 => e.cyc
        | _ => Machine.word (e.kind.toNat + e.fl.toNat * 2 ^ 8 + e.rank.toNat * 2 ^ 16 + e.detail.toNat * 2 ^ 32)

/-- The place that an offset of a control block names: the agent's stores lie in it (R300). -/
def Loc.real (l : Loc) : Loc :=
  if l.region = .control then
    if l.off < 0x8000 then { l with region := .agentCode }
    else if 0x10000 ≤ l.off ∧ l.off < 0x20000 then { region := .agentData, home := l.home, off := l.off - 0x10000 }
    else l
  else l

/-- A read of the control block of a core, past the agent's stores. -/
def State.controlRead (s : State) (rank o : Nat) : Word :=
  let c := s.core rank
  if o < 0x20020 then c.trees.getD ((o - 0x20000) / 8) 0
  else if o < 0x21000 then 0
  else c.log.word (o - 0x21000)

/-- The 8 bytes at a place, as a monitor compares them. -/
def State.wordAt (s : State) (l : Loc) : Word :=
  match l.region with
  | .control => s.controlRead l.home l.off
  | _ => word (s.look l 8)

/-! ### Monitors (R275, R276) -/

/-- Whether the monitor of a thread is armed on one of a range of granules. -/
def Thread.met (lo hi : Nat) (t : Thread) : Bool :=
  match t.mon with
  | some m => decide (lo ≤ m.loc.granule) && decide (m.loc.granule ≤ hi)
  | none => false

/-- A wait repeats its comparison: the first value that differs stays (R276). -/
def MonWait.compare (w : MonWait) (d v : Word) : MonWait :=
  if w.ne && w.seen.isNone && decide (v ≠ d) then { w with seen := some v } else w

/-- The thread, its monitor met where it is armed on one of a range of granules. -/
def Thread.meet (lo hi : Nat) (f : Loc → Word) (t : Thread) : Thread :=
  match t.mon with
  | some m =>
    if t.met lo hi then { t with monHit := true, monWait := t.monWait.map (fun w => w.compare (t.val w.d) (f m.loc)) } else t
  | none => t

/-- The same for every thread of a core. -/
def Core.meet (lo hi : Nat) (f : Loc → Word) (c : Core) : Core := { c with threads := c.threads.map (Thread.meet lo hi f) }

/-- Wakes the monitors of a range of granules that has been written (R275, R276). -/
def State.wake (s : State) (l : Loc) (n : Nat) : State :=
  let lo := l.key / 64
  let hi := (l.key + n - 1) / 64
  if s.cores.any (fun p => p.2.threads.toList.any (Thread.met lo hi)) then
    { s with cores := s.cores.map (fun p => (p.1, Core.meet lo hi s.wordAt p.2)) }
  else s

/-! ### Writes at the home -/

/-- A write of at most one row is performed at its home (R100). -/
def State.store (s : State) (b : Behalf) (l : Loc) (n v : Nat) : State :=
  match l.region with
  | .vault =>
    let s := s.journal b l.home (rowOf l.off)
    let s := s.unzero l.home (l.off / 0x10000)
    let s := s.modCore l.home (fun c => { c with vault := c.vault.noteWrite l.off n })
    ((s.poke l n v).noteResolve l.home l.off n v).wake l n
  | .scratch =>
    let s := s.modCore l.home (fun c => { c with badScratch := c.badScratch.filter (fun u => decide (u * 8 < l.off) || decide (l.off + n < u * 8 + 8)) })
    (s.poke l n v).wake l n
  | .tier2 _ => ((s.poke l n v).sealTier l.key n).wake l n
  | _ => (s.poke l n v).wake l n

/-- A write made by no thread, engine or RPC of a domain. -/
def noBehalf : Behalf := { rank := 0, dom := none }

/-- On behalf of the thread that issues. -/
def State.behalf (s : State) : Behalf :=
  { rank := s.turn.rank, dom := if ckptDom s.th.domid then some s.th.domid else none }

/-- A write of the doorbell of a slot: bit 0 sets IPEND.SWI (R300), and the band wakes (R386). -/
def State.doorbell (s : State) (rank : Nat) (n : Fin 5) (v : Word) : State :=
  if bit v 0 then (s.wakeBand (rank / 16)).modThAt { rank := rank, slot := n } (fun t => { t with ipend := setBit t.ipend 0 }) else s

/-- The members of a tree within reach of a core, ascending, with their configuration words (R277, R382; DEDUCED, log
entry 41). -/
def State.treeMembers (s : State) (rank tree : Nat) : List (Nat × Word) :=
  s.cores.filterMap (fun p =>
    let w := p.2.trees.getD tree 0
    if bit w 16 && decide (p.1 < 65536) && s.reaches rank p.1 then some (p.1, w) else none)

/-- A write of a tree configuration word: a core that becomes a member joins with the next round (R217, R277). -/
def State.setTree (s : State) (rank tree : Nat) (v : Word) : State :=
  let next := ((s.treeMembers rank tree).map (fun p => (s.core p.1).rounds.getD tree 0)).foldl max 0
  s.modCore rank (fun c => { c with
    trees := c.trees.setIfInBounds tree v
    rounds := if bit v 16 && !bit (c.trees.getD tree 0) 16 then c.rounds.setIfInBounds tree next else c.rounds })

/-- A write of the control block of a core, past the agent's stores; the error log ignores it. -/
def State.controlWrite (s : State) (rank o : Nat) (v : Word) : State :=
  (if o < 0x20020 then s.setTree rank ((o - 0x20000) / 8) (v &&& 0x3FFFF)
   else if o < 0x21000 then s.doorbell rank (Fin.ofNat 5 ((o - 0x20100) / 0x40)) v
   else s).wake { region := .control, home := rank, off := o } 8

/-- Entries 0-31 of the handler table ignore every write (R300). -/
def Loc.builtIn (l : Loc) : Bool := decide (l.region = .agentData) && decide (0xF800 ≤ l.off) && decide (l.off < 0xF900)

/-- A write of an access at its home, whatever stands there. -/
def State.write (s : State) (b : Behalf) (l : Loc) (n v : Nat) : State :=
  if l.region = .control then s.controlWrite l.home l.off (word v)
  else if l.builtIn then s
  else s.store b l n v

/-- A read of an access at its home, whatever stands there. -/
def State.readPlace (s : State) (l : Loc) (n : Nat) : Nat :=
  if l.region = .control then (s.controlRead l.home l.off).toNat else s.look l n

/-! ### Deferred reductions (R111, R112, R184) -/

/-- NV raised at a thread when a reply arrives: sticky, and never FPX (R59, R68). -/
def State.raiseNv (s : State) (w : Turn) (nv : Bool) : State := if nv then s.modThAt w (·.raised flagNV) else s

/-- A floating addition at a home, rounded in RNE (R68, R74): the sum and whether NV is set. -/
def homeFadd (f : Fmt) (a b : Nat) : Nat × Bool :=
  let x := Num.add false (f.value a) (f.value b)
  let r := f.round 0 x.1 0
  (r.1, decide ((x.2 ||| r.2) &&& flagNV ≠ 0))

/-- The format of a home operation of a width in bytes. -/
def homeFmt (width : Nat) : Fmt := if width = 8 then f64 else f32

/-- A deferred reduction op on an old value: 0 add, 1 fadd, 2 smin, 3 smax, 4 fmin, 5 fmax (R184). -/
def redValue (op width old new : Nat) : Nat × Bool :=
  let w := width * 8
  match op with
  | 0 => ((old + new) % 2 ^ w, false)
  | 1 => homeFadd (homeFmt width) old new
  | 2 => (if sintOf w new < sintOf w old then new else old, false)
  | 3 => (if sintOf w old < sintOf w new then new else old, false)
  | 4 => let r := (homeFmt width).minmax false old new; (r.1, decide (r.2 ≠ 0))
  | _ => let r := (homeFmt width).minmax true old new; (r.1, decide (r.2 ≠ 0))

/-- Applies an entry of a core's reduction buffer at its home: NV goes to the threads whose combined values asked for it,
and to the last issuer for the addition at the home. A stationary or mitten home writes nothing and sets NV (R184). -/
def State.applyRed (s : State) (rank : Nat) (e : RedEntry) : State :=
  let e := { e with loc := s.livePlace ((s.partOf rank).getD 0) e.loc }
  let who := fun (n : Fin 5) => ({ rank := rank, slot := n } : Turn)
  let s := e.nv.foldl (fun s n => s.raiseNv (who n) true) s
  if s.fixedLoc e.loc then s.raiseNv (who e.last) true
  else
    let r := redValue e.op e.width (s.readPlace e.loc e.width) e.val
    let dom := (s.thAt (who e.last)).domid
    (s.write { rank := rank, dom := if ckptDom dom then some dom else none } e.loc e.width r.1).raiseNv (who e.last) r.2

/-- Flushes the entries of a core's buffer that a test accepts, in arrival order. -/
def State.flushRed (s : State) (rank : Nat) (p : RedEntry → Bool) : State :=
  let hit := (s.core rank).redbuf.filter p
  let s := s.modCore rank (fun c => { c with redbuf := c.redbuf.filter (fun e => !p e) })
  hit.foldl (fun s e => s.applyRed rank e) s

/-- Recalls every holder's entries for the granules of a range, before an access other than a `red` (R111). The holders
answer in ascending rank, each with its oldest entry first (DESIGN CHOICE, log entry 20). -/
def State.recall (s : State) (l : Loc) (n : Nat) : State :=
  let hit := fun (e : RedEntry) => decide (l.key / 64 ≤ e.loc.granule) && decide (e.loc.granule ≤ (l.key + n - 1) / 64)
  (s.cores.filter (fun p => p.2.redbuf.any hit)).foldl (fun s p => s.flushRed p.1 hit) s

/-! ### Scopes (R106) -/

/-- The smallest scope holding two cores. -/
def scopeOf (a b : Nat) : Nat :=
  if a = b then 1 else if a / 16 = b / 16 then 2 else if a / 128 = b / 128 then 3 else if a / 1024 = b / 1024 then 4 else 5

/-- The home scope of an access from a core (R106). -/
def homeScope (rank : Nat) (ga : Ptr) (l : Loc) : Nat :=
  if ga.sb = 0xF1 then 0
  else match l.region with
    | .host _ => 6
    | _ => scopeOf rank l.home

/-! ### What an access meets at a vault (R89-R95) -/

/-- Whether the die of a core of the package is in thermal hold: messages for it wait (R388). -/
def State.dieHeld (s : State) (rank : Nat) : Bool := decide (rank / 1024 = s.dev) && (s.dies.getD (rank / 128 % 8) .reset).held.isSome

/-- What keeps an access from being performed now. -/
inductive Meets where
  | nothing | refresh | repair | waits
  deriving DecidableEq, Repr

/-- What an access to a place meets: a bank under refresh, a row under repair, a locked bank or a tester burst, which takes
the vault's bus (R93) and so holds back every access to the vault (DESIGN CHOICE, log entry 53), or a band that sleeps or is
held (R386, R388). `agent` is set for the accesses of the agent's handler, which its locks do not stop, and `read` for a read,
which does not touch the DRAM of a zero-mapped frame (R342). -/
def State.meets (s : State) (agent : Bool) (l : Loc) (read : Bool := false) : Meets :=
  if (s.band (l.home / 16)).power ≠ 0 ∨ s.dieHeld l.home then .waits
  else if read && s.zeroMapped l then .nothing
  else match l.region with
    | .vault =>
      let c := s.core l.home
      let row := rowOf l.off
      let bank := bankOf row
      if c.vault.marked.contains row then .repair
      else if c.vault.refreshing.contains bank then .refresh
      else if c.vault.locks.contains bank || (c.agent.locks.contains bank && !agent) then .waits
      else if c.vault.burst.isSome then .waits
      else .nothing
    | _ => .nothing

/-- An access that waits is accepted: a tester burst in its vault sees it (R93), and a sleeping band wakes (R386). -/
def State.noteWaiting (s : State) (l : Loc) : State :=
  let s := if (s.band (l.home / 16)).power ≠ 0 then s.modBand (l.home / 16) (fun b => { b with waking := true }) else s
  match l.region with
  | .vault =>
    if (s.core l.home).vault.burst.isSome then
      s.modCore l.home (fun c => { c with vault := { c.vault with waiting := addOnce c.vault.waiting (rowOf l.off) } })
    else s
  | _ => s

/-! ### Replies -/

/-- The reply of an agent to a request: the `n` bytes of its result into RBUF, then the status word (R260). The command of
an engine has no RBUF. -/
def State.replyWith (s : State) (rq : Rpc) (w : Word) (n data : Nat) (recov : Bool) : State :=
  let l := scratchLoc rq.rank rq.rbuf
  let s := if n = 0 ∨ rq.engine.isSome ∨ s.fixedBuffer rq.rank rq.rbuf n then s else (s.recall l n).store noBehalf l n data
  s.replyStatus rq (if rq.engine.isNone && s.fixedBuffer rq.rank rq.rbuf n then rpcStatus Cause.statWr.code 0 0 0 else w) recov

/-- The same by the fields of the status word. -/
def State.reply (s : State) (rq : Rpc) (cause hcode rbytes hval data : Nat) (recov : Bool) : State :=
  s.replyWith rq (rpcStatus cause hcode rbytes hval) rbytes data recov

/-! ### The flush of a fence -/

/-- The flush of a fence: a core's entries of the reduction buffer whose home scope lies within a scope (R107, R111). -/
def State.fenceFlush (s : State) (rank scope : Nat) : State :=
  s.flushRed rank (fun e => decide (homeScope rank e.ga e.loc ≤ scope))

/-! ### The turn of an implicit RPC at its home (R43, R95, R96) -/

/-- Whether a thread still waits at an instruction. -/
def State.waitsAt (s : State) (w : Turn) (pc : Ptr) : Bool :=
  let t := s.thAt w
  decide (t.occ = .occupied) && decide (t.pc = pc) && decide ((s.band (w.rank / 16)).power = 0) && !s.dieHeld w.rank

/-- Whether a core holds the traffic of a domain back: its participant has arrived (R41). -/
def State.trafficHeld (s : State) (rank : Nat) (dom : Word) : Bool :=
  (s.core rank).sstep.any (fun p => decide (word (field p.dom 0 3 + field p.dom 4 12 * 16) = dom) && !p.done)

/-- How far a source band lies behind the last one served. -/
def bandDistance (last b : Nat) : Nat := (b + 4096 - last % 4096 - 1) % 4096

/-- The implicit RPC whose turn comes first among those that wait at a home: its band's distance and its caller. -/
def State.firstCaller (s : State) (home : Nat) : Option (Nat × Turn) :=
  let a := (s.core home).agent
  a.callers.foldl (fun m x =>
    let d := bandDistance a.lastBand (x.1.rank / 16)
    if !s.waitsAt x.1 x.2 || s.trafficHeld x.1.rank (domKey (s.thAt x.1).domid) then m
    else match m with
      | none => some (d, x.1)
      | some (e, _) => if d < e then some (d, x.1) else m) none

/-- Whether an implicit RPC of a thread must wait at its home: a handler runs, or a request or another implicit RPC of a
band whose turn comes first is there. Within a band, the requests go first (DESIGN CHOICE, log entry 22). -/
def State.callerWaits (s : State) (w : Turn) (home : Nat) : Bool :=
  let a := (s.core home).agent
  let mine := bandDistance a.lastBand (w.rank / 16)
  a.current.isSome || a.moving.isSome
    || a.requests.any (fun rq => decide (bandDistance a.lastBand (rq.rank / 16) ≤ mine))
    || match s.firstCaller home with
      | some (d, x) => decide (d ≤ mine) && decide (x ≠ w)
      | none => false

/-- An implicit RPC waits for its turn, after those that came before it. -/
def State.noteCaller (s : State) (w : Turn) (pc : Ptr) (home : Nat) : State :=
  s.modCore home (fun c => { c with agent := { c.agent with
    callers := if (w, pc) ∈ c.agent.callers then c.agent.callers else c.agent.callers.filter (fun x => s.waitsAt x.1 x.2) ++ [(w, pc)] } })

/-- An implicit RPC is served. -/
def State.served (s : State) (w : Turn) (home : Nat) : State :=
  s.modCore home (fun c => { c with agent := { c.agent with lastBand := w.rank / 16, callers := c.agent.callers.filter (fun x => decide (x.1 ≠ w)) } })

/-! ### Accesses that a migration holds (R344) -/

/-- A page of the memory map, as the order of held accesses names it. -/
def Loc.page (l : Loc) : Nat := l.key / 0x10000

/-- The new place of a page that its home moves. -/
def State.movingTarget (s : State) (l : Loc) : Loc :=
  match (s.core l.home).agent.moving with
  | some m => placeOf m.rq.part (withField m.place 0 27 (leafFrame m.place + (pageKey l - m.frame))) 0 0 (l.off % 0x10000)
  | none => l

/-- An access is held: at most 64 at a home, explicit requests included; the others try again (R344). -/
def State.noteHeld (s : State) (w : Turn) (pc : Ptr) (l : Loc) : State :=
  let e : HeldAccess := { home := l.home, page := (s.movingTarget l).page, who := w, pc := pc }
  if e ∈ s.heldOrder then s
  else
    let live := s.heldOrder.filter (fun x => s.waitsAt x.who x.pc)
    if (live.filter (fun x => decide (x.home = l.home))).length + (s.core l.home).agent.held.length < 64 then { s with heldOrder := live ++ [e] } else s

/-- Whether an access must let another that was held before it go first. -/
def State.heldBefore (s : State) (w : Turn) (l : Loc) : Bool :=
  match s.heldOrder.find? (fun x => decide (x.page = l.page) && s.waitsAt x.who x.pc) with
  | some x => decide (x.who ≠ w)
  | none => false

/-- A held access has been performed. -/
def State.unheld (s : State) (w : Turn) : State := { s with heldOrder := s.heldOrder.filter (fun x => decide (x.who ≠ w)) }

end Sys2Proof.Machine
end

