-- ==== Sys2Proof/Machine/Context.lean ====
section
/-!
DEFINITION. Tasks: ready queues (R34), placement in a slot (R29), the context frame (R306-R308), leaving a slot, and the
fault queue (R340).
-/

namespace Sys2Proof.Machine

/-! ### Ready queues -/

/-- A task's current priority, promotions included (R34). -/
def Task.eff (k : Task) : Nat := min 7 (k.prio + k.aged)

/-- Whether a task stands before another: higher priority, then the earlier ready time (R34). -/
def Task.before (a b : Task) : Bool := decide (b.eff < a.eff) || (decide (a.eff = b.eff) && decide (a.since ≤ b.since))

/-- The queue with a task at its place: behind those of its level that became ready no later. -/
def insertReady (l : List Task) (k : Task) : List Task :=
  match l with
  | [] => [k]
  | x :: t => if x.before k then x :: insertReady t k else k :: x :: t

/-- The queue with a pre-empted task at the head of its level (R35). -/
def insertHead (l : List Task) (k : Task) : List Task :=
  match l with
  | [] => [k]
  | x :: t => if k.eff < x.eff then x :: insertHead t k else k :: x :: t

/-- Slot 0 of a partition's system core, in which no task is placed (R292). -/
def State.runtimeSlot (s : State) (rank n : Nat) : Bool :=
  decide (n = 0) && match s.partOf rank with
    | some p => match s.part p with
      | some x => decide (x.spec.sys = rank)
      | none => false
    | none => false

/-- The slots of a core that take tasks. -/
def State.taskSlots (s : State) (rank : Nat) : List (Fin 5) :=
  ([0, 1, 2, 3] : List (Fin 5)).filter (fun n => !s.runtimeSlot rank n.val)

/-- The better choice of R35 among running tasks of one priority: the one placed most recently. -/
def latest (l : List (Fin 5 × Task)) : Option (Fin 5 × Task) :=
  l.foldl (fun m x => match m with
    | none => some x
    | some y => if y.2.since < x.2.since then some x else m) none

/-- A task has become ready at a priority while every slot is occupied: the core pre-empts a running task of the
lowest priority, if that is lower, and never a gang member (R35). -/
def State.askPreempt (s : State) (rank prio : Nat) : State :=
  let slots := s.taskSlots rank
  let running := slots.filterMap (fun n =>
    let t := s.thAt { rank := rank, slot := n }
    if t.occ = .empty then none else t.task.map (fun k => (n, k)))
  if running.length < slots.length then s
  else
    let free := running.filter (fun x => !(s.thAt { rank := rank, slot := x.1 }).preempt)
    match (free.map (fun x => x.2.eff)).min? with
    | none => s
    | some q =>
      if q < prio then
        match latest (free.filter (fun x => decide (x.2.eff = q) && !x.2.gang)) with
        | some x => s.modThAt { rank := rank, slot := x.1 } (fun t => { t with preempt := true })
        | none => s
      else s

/-- FLAGS of a record (R27). -/
def Task.flags (k : Task) : Nat :=
  ofBool k.mig + ofBool k.gang * 2 + ofBool k.matched * 4 + ofBool k.frame * 8 + ofBool k.parked * 16

/-- The continuation record of a task, as offset, bytes and value: 256 bytes in all (R27). -/
def Task.recordWrites (k : Task) : List (Nat × Nat × Nat) :=
  [(0, 8, k.pc.v.toNat), (8, 1, k.pc.sb.toNat), (9, 1, k.prio % 8), (0xA, 2, k.flags), (0xC, 4, (clearBit k.live 0).toNat),
   (0x10, 8, k.arg.toNat), (0x18, 8, k.weight), (0x20, 2, k.join.toNat), (0x22, 2, k.domain.toNat), (0x24, 2, k.origin),
   (0x26, 1, k.parkTok.val), (0x27, 1, 0), (0x28, 8, k.id.toNat), (0x30, 4, k.launch), (0x34, 12, 0)]
  ++ (List.range 16).map (fun n => (0x40 + 12 * n, 12, (k.regs.getD n .zero).bytes))

/-- Writes of a core into its own vault. -/
def State.storeAll (s : State) (rank base : Nat) (l : List (Nat × Nat × Nat)) : State :=
  l.foldl (fun s w => s.store noBehalf (vaultLoc rank (base + w.1)) w.2.1 w.2.2) s

/-- Records written one after another from a vault offset. -/
def State.storeRecords (s : State) (rank base : Nat) : List Task → State
  | [] => s
  | k :: t => (s.storeAll rank base k.recordWrites).storeRecords rank (base + 256) t

/-- The vault offset of a core's spill region, after its frames (R298). -/
def Core.spillBase (c : Core) : Nat := field c.ctxbase 16 14 * 0x10000 + field c.ctxbase 0 16 * 0x410000

/-- The entries past the 64 of hardware lie in the spill region, in the queue's order from its start (R34, R298; the order
is a DESIGN CHOICE, log entry 23). -/
def State.spill (s : State) (rank : Nat) : State :=
  let c := s.core rank
  s.storeRecords rank c.spillBase ((c.ready.drop 64).take (field c.ctxbase 48 16 * 256))

/-- A new ready queue of a core, with its spilled part in the vault. -/
def State.setReady (s : State) (rank : Nat) (l : List Task) : State := (s.modCore rank (fun c => { c with ready := l })).spill rank

/-- A task becomes ready on a core: its ready time is now (R34), and a running task may have to leave (R35). -/
def State.makeReady (s : State) (rank : Nat) (k : Task) : State :=
  (s.setReady rank (insertReady (s.core rank).ready { k with since := s.cycle.toNat, aged := 0, wait := .none })).askPreempt
    rank (min 7 k.prio)

/-- Whether a core's ready queue and its spill region are full: 64 entries, then RQLEN x 256 (R34, R298). -/
def Core.readyFull (c : Core) : Bool := decide (64 + field c.ctxbase 48 16 * 256 ≤ c.ready.length)

/-- The identity of the next task that a core creates (R27). -/
def Core.nextTaskId (c : Core) (rank : Nat) : Word := word (rank % 0x10000 * 0x1000000000000 + c.taskSeq % 0x1000000000000)

/-! ### The context frame -/

/-- The vault offset of a frame (R307). -/
def Core.frameBase (c : Core) (f : Nat) : Nat := field c.ctxbase 16 14 * 0x10000 + f * 0x410000

/-- The frame bound to a task (R306). -/
def Core.frameOf (c : Core) (id : Word) : Option Nat := (c.frames.find? (fun p => decide (p.2 = id))).map (·.1)

/-- The lowest frame of the core that is not bound. -/
def Core.freeFrame (c : Core) : Option Nat :=
  (List.range (min (field c.ctxbase 0 16) (c.frames.length + 1))).find? (fun f => !(c.frames.any (fun p => decide (p.1 = f))))

/-- The registers of a thread as the frame holds them: offset, bytes, value; for the groups of a mask (R307, R308). -/
def Thread.imageWrites (t : Thread) (g : Nat) : List (Nat × Nat × Nat) :=
  (if nbit g 17 then (List.range 32).map (fun n => (0x200 + 16 * n, 16, (t.regs.getD n .zero).bytes)) else [])
  ++ (if nbit g 18 then
        [(0x400, 8, t.fpctl.toNat), (0x408, 8, t.warn.toNat), (0x410, 8, t.srseed.toNat), (0x418, 8, t.evctl.toNat),
         (0x420, 8, t.errinj.toNat), (0x428, 8, t.tidbase.toNat), (0x430, 8, t.tidlim.toNat)] else [])
  ++ (if nbit g 16 then (List.range 7).map (fun n => (0x500 + 128 * n, 128, (t.masks.getD (n + 1) 0).toNat)) else [])
  ++ ((List.range 32).filter (fun n => nbit g (n / 4))).map (fun n => (0x4000 + 512 * n, 512, (t.vregs.getD n 0).toNat))
  ++ (((List.range 8).filter (fun k => nbit g (8 + k))).map (fun k =>
        let a := t.accs.getD k .zero
        [(0x480 + 8 * k, 8, a.bind.toNat), (0x1000 + 0x400 * k, 256, a.cr.toNat), (0x1100 + 0x400 * k, 256, a.cc.toNat),
         (0x1200 + 0x400 * k, 256, a.sr.toNat), (0x1300 + 0x400 * k, 256, a.sc.toNat),
         (0x8000 + 0x1000 * k, 0x800, a.elems.toNat % 2 ^ 0x4000), (0x8800 + 0x1000 * k, 0x800, a.elems.toNat / 2 ^ 0x4000)])).flatten

/-- The vault offset of the stack of a slot (R85). -/
def stackBase (slot : Nat) : Nat := 0x3F000000 + slot * 0x400000

/-- Copies the stack rows of a bitmap from a slot's stack into a frame, or back (R308). -/
def State.copyRows (s : State) (rank src dst : Nat) (rows : List Nat) : State :=
  rows.foldl (fun s r =>
    let s := s.recall (vaultLoc rank (src + r * 0x800)) 0x800
    s.store noBehalf (vaultLoc rank (dst + r * 0x800)) 0x800 (s.peek (vaultLoc rank (src + r * 0x800)) 0x800)) s

/-- The rows that a bitmap marks. -/
def rowsOf (bm : BitVec 2048) : List Nat := (List.range 2048).filter (fun r => bm.getLsbD r)

/-- The bytes of a frame that R307 does not list, as offset, bytes and the value 0. -/
def frameGaps : List (Nat × Nat × Nat) :=
  [(9, 3, 0), (0x14, 4, 0), (0x20, 0x20, 0), (0x51, 0xAF, 0), (0x438, 0x48, 0), (0x4C0, 0x40, 0), (0x880, 0x780, 0),
   (0x3000, 0x800, 0), (0x3800, 0x800, 0)]

/-- Binds a frame to a task: the one it holds, or a free one, whose header it writes (R306). -/
def State.bindFrame (s : State) (rank : Nat) (id : Word) : Option (Nat × State) :=
  let c := s.core rank
  match c.frameOf id with
  | some f => some (f, s)
  | none =>
    match c.freeFrame with
    | none => none
    | some f =>
      let base := c.frameBase f
      let s := s.modCore rank (fun c => { c with frames := insert c.frames f id })
      some (f, s.storeAll rank base ([(0, 8, id.toNat), (8, 1, 1), (0xC, 4, 0), (0x10, 4, 0), (0x18, 8, 0), (0x40, 16, 0), (0x50, 1, 0), (0x100, 256, 0)]
        ++ frameGaps))

/-- Frees the frame of a task: VALID is cleared (R306). -/
def State.unbindFrame (s : State) (rank : Nat) (id : Word) : State :=
  match (s.core rank).frameOf id with
  | some f =>
    (s.modCore rank (fun c => { c with frames := erase c.frames f })).storeAll rank ((s.core rank).frameBase f) [(8, 1, 0)]
  | none => s

/-- The mitten slot of a task is free: its position and pair-buffer entry read as zero again (R120, R251). The bytes that the
entry last held stay under it and are what staging shows once pairing ends: R120 gives "unchanged contents" and no rule says of
which time (DESIGN CHOICE, log entry 52). -/
def State.freeMitten (s : State) (rank : Nat) (id : Word) : State :=
  let mine := fun (m : Option Mitten) => match m with
    | some x => decide (x.task = id)
    | none => false
  let held := (List.range 4).filter (fun k => mine ((s.core rank).mitten.getD k none))
  let s := s.modCore rank (fun c => { c with mitten := c.mitten.map (fun m => if mine m then none else m) })
  held.foldl (fun s k => s.wipe (scratchLoc rank (0x2FE000 + k * 0x800)) 0x800) s

/-- The groups of DIRTY that the frame of a task holds (R307). -/
def State.present (s : State) (rank : Nat) (id : Word) : Nat :=
  match (s.core rank).frameOf id with
  | some f => s.peek (vaultLoc rank ((s.core rank).frameBase f + 0xC)) 4
  | none => 0

/-- An accumulator that is bound or not zero (R31, R130). -/
def Acc.used (a : Acc) : Bool := bit a.bind 23 || decide (a.elems ≠ 0) || decide (a.cr ≠ 0) || decide (a.cc ≠ 0)
  || decide (a.sr ≠ 0) || decide (a.sc ≠ 0)

/-- Whether a task holds vector, mask or accumulator state (R31, R306). -/
def State.holdsState (s : State) (w : Turn) : Bool :=
  let t := s.thAt w
  decide (field t.dirty 0 17 ≠ 0) || t.accs.toList.any Acc.used || decide (s.present w.rank t.taskId % 0x20000 ≠ 0)

/-! ### Leaving a slot -/

/-- What a task takes along whichever way it leaves: pc, the registers of R29's last rows, its run time (R326). EVCTL.TCHG
is in the frame's image alone, since a record starts with it clear (R29, R88; DEDUCED, log entry 24). -/
def State.taskOut (s : State) (t : Thread) (k : Task) : Task :=
  { k with pc := t.pc, domain := BitVec.ofNat 16 t.domid.toNat, evctl := t.evctl &&& 7, srseed := t.srseed,
           tidbase := t.tidbase, tidlim := t.tidlim, ran := k.ran + (s.cycle.toNat - k.since), since := s.cycle.toNat,
           mon := t.mon, pend := t.pend, tokErr := t.tokErr, tokUnc := t.tokUnc, replay := t.replay, bound := none, src := .resume,
           tiles := 0, stopped := false }

/-- An empty slot: what belonged to the task is gone, what belongs to the slot stays (R293). -/
def Thread.emptied (t : Thread) : Thread :=
  { t with occ := .empty, task := none, outst := [], replay := none, resumeTiles := 0, xferStop := false, mon := none, monHit := false,
           waitSince := none, monWait := none, stalled := false, wfi := false, waitTok := none, preempt := false, topup := false, failing := none, pend := 0,
           tokErr := 0, tokUnc := 0, faultWait := none, dirty := 0, stackRows := 0 }

/-- The monitor of a thread as its frame holds it: the granule as a pointer, and whether it is armed (R307). -/
def Thread.monWrites (t : Thread) : List (Nat × Nat × Nat) :=
  match t.mon with
  | some m => [(0x40, 16, (Ptr.bytes { m.ga with v := m.ga.v &&& 0xFFFFFFFFFFFFFFC0 })), (0x50, 1, 1)]
  | none => [(0x40, 16, 0), (0x50, 1, 0)]

/-- A leave with full context (R306, R308): the image is written and the slot empties. None where every frame is
bound, or the slot holds no task. The task's record is returned beside the state. -/
def State.leaveFull (s : State) (w : Turn) : Option (Task × State) :=
  let t := s.thAt w
  match t.task with
  | none => none
  | some k =>
    match s.bindFrame w.rank k.id with
    | none => none
    | some (f, s) =>
      let base := (s.core w.rank).frameBase f
      let g := field t.dirty 0 20
      let present := s.peek (vaultLoc w.rank (base + 0xC)) 4 % 0x100000
      let bm := s.peek (vaultLoc w.rank (base + 0x100)) 256
      let s := s.storeAll w.rank base (t.imageWrites g)
      let s := if nbit g 19 then s.copyRows w.rank (stackBase w.slot.val) (base + 0x10000) (rowsOf t.stackRows) else s
      let stop := t.xferStop || decide (t.resumeTiles ≠ 0)
      let s := s.storeAll w.rank base
        ([(0xC, 4, present ||| g), (0x10, 4, t.pend.toNat),
          (0x18, 8, if stop then t.resumeTiles + 0x100 else 0), (0x100, 256, bm ||| t.stackRows.toNat)] ++ t.monWrites)
      let k := { s.taskOut t k with frame := true, live := 0, regs := [], tiles := t.resumeTiles, stopped := stop }
      some (k, s.setThAt w t.emptied)

/-- The registers of a live mask, ascending (R27). -/
def Thread.savedRegs (t : Thread) (live : BitVec 32) : List Ptr :=
  ((List.range 32).filter (fun n => n ≠ 0 && live.getLsbD n)).map (fun n => t.regs.getD n .zero)

/-- The live mask of R28 cut to 16 registers, the token register first, and whether it was trimmed. -/
def trimLive (live : BitVec 32) (tok : Option Reg) : BitVec 32 × Bool :=
  let want := (List.range 32).filter (fun n => n ≠ 0 && (live.getLsbD n || decide (tok.map (·.val) = some n)))
  let first := match tok with
    | some r => if r = 0 then [] else [r.val]
    | none => []
  let rest := want.filter (fun n => !first.contains n)
  let kept := first ++ rest.take (16 - first.length)
  (kept.foldl (fun x n => setBit x n) 0, decide (16 < want.length))

/-- A leave by `park` (R31): the record holds the registers of the live mask; a frame is written where the task holds
vector, mask or accumulator state, and its scalar and stack groups no longer stand for the task. None where a frame is
needed and every one is bound. -/
def State.leavePark (s : State) (w : Turn) (tok : Reg) (live : BitVec 32) (mig : Bool) : Option (Task × State) :=
  let t := s.thAt w
  match t.task with
  | none => none
  | some k =>
    let k1 := { s.taskOut t k with live := live, regs := t.savedRegs live, parked := true, parkTok := tok, wait := .token tok }
    if s.holdsState w then
      match s.bindFrame w.rank k.id with
      | none => none
      | some (f, s) =>
        let base := (s.core w.rank).frameBase f
        let g := field t.dirty 0 17
        let present := s.peek (vaultLoc w.rank (base + 0xC)) 4 % 0x20000
        let s := s.storeAll w.rank base (t.imageWrites g)
        let s := s.storeAll w.rank base ([(0xC, 4, present ||| g), (0x10, 4, t.pend.toNat), (0x18, 8, 0), (0x100, 256, 0)] ++ t.monWrites)
        some ({ k1 with frame := true, mig := false }, s.setThAt w t.emptied)
    else some ({ k1 with frame := false, mig := mig }, s.setThAt w t.emptied)

/-! ### Placement (R29) -/

/-- The top of a slot's stack region (R29). -/
def stackTop : Ptr := { sb := 0xF1, v := 0x400000 }

/-- The scalar registers of R29's first table. -/
def Task.initialRegs (k : Task) : Vector Ptr 32 :=
  let z := (Vector.replicate 32 Ptr.zero).set 2 stackTop
  match k.src with
  | .resume => z
  | _ => (((z.set 4 (.int k.arg)).set 5 (.int k.s5)).set 6 (.int k.s6)).set 7 (.int k.s7)

/-- The saved registers over them, in ascending number (R27, R29). -/
def restoreRegs (r : Vector Ptr 32) (live : BitVec 32) (l : List Ptr) : Vector Ptr 32 :=
  ((((List.range 32).filter (fun n => n ≠ 0 && live.getLsbD n)).zip l).foldl (fun r p => r.setIfInBounds p.1 p.2) r)

/-- Bits of THSTAT that a placement clears: SKIPX, FAIL, MODE and INTRAP; a task starts in user mode (R291). -/
def thstatPlaced (w : Word) : Word :=
  withField (withField (withField (withField w 13 1 0) 12 1 0) 8 2 0) 5 1 0

/-- The accumulator that a binding names: the even one of a pair for FP64 (R233). -/
def boundIndex (n : Fin 8) (w : Word) : Fin 8 := if field w 0 2 = 2 then Fin.ofNat 8 (n.val - n.val % 2) else n

/-- The accumulators of a task that starts: zero, with a matched task's binding (R29, R147). -/
def Task.boundAccs (k : Task) : Vector Acc 8 :=
  match k.bound with
  | some (n, w) => (Vector.replicate 8 Acc.zero).set (boundIndex n w) { Acc.zero with bind := w }
  | none => .replicate 8 .zero

/-- WARN of a task that starts: ALIGN where an odd index was rounded down (R147). -/
def Task.boundWarn (k : Task) : Word :=
  match k.bound with
  | some (n, w) => if boundIndex n w = n then 0 else setBit 0 Warn.align.bit
  | none => 0

/-- DIRTY of a task that starts: its scalar and control groups, and a bound accumulator (R308). -/
def Task.boundDirty (k : Task) : Word :=
  match k.bound with
  | some (n, w) => setBit 0x60000 (8 + (boundIndex n w).val)
  | none => 0x60000

/-- The state of a slot in which a task is placed, its frame aside (R29, R308). -/
def Thread.placed (t : Thread) (k : Task) (now : Nat) : Thread :=
  { t with occ := .occupied, pc := k.pc, regs := restoreRegs k.initialRegs k.live k.regs, pend := k.pend,
           tokErr := k.tokErr, tokUnc := k.tokUnc, vregs := .replicate 32 0, masks := .replicate 8 0, accs := k.boundAccs,
           fpctl := 0, warn := k.boundWarn, errinj := 0, srseed := storedSeed k.srseed, evctl := k.evctl &&& 7,
           domid := k.domain.setWidth 64, tidbase := k.tidbase, tidlim := k.tidlim, thstat := thstatPlaced t.thstat,
           dirty := k.boundDirty, stackRows := 0, outst := [], replay := k.replay, resumeTiles := k.tiles, xferStop := k.stopped, mon := k.mon,
           monHit := k.mon.isSome, waitSince := none, monWait := none, stalled := false, wfi := false, waitTok := none, preempt := false, topup := false, failing := none,
           faultWait := none, badRegs := [], task := some { k with since := now, parked := false, wait := .none } }

/-- FPCTL as it is stored: RM codes 6 and 7 store 0 (R58). -/
def fpctlStored (v : Word) : Word :=
  let x := v &&& 0x1F1F07
  if field x 0 3 < 6 then x else withField x 0 3 0

/-- TIDLIM as it is stored: no more than 256 (R298). -/
def tidlimStored (v : Word) : Word := word (min (field v 0 9) 256)

/-- The groups of a frame's image restored into a slot: every field as a write of its register stores it (R7, R8, R57, R58,
R88, R163, R298, R363). Groups that R29 writes from the record are not in the frame of a task that parked, so they start
dirty (R308; DEDUCED, log entry 25). -/
def State.restoreFrame (s : State) (w : Turn) (base : Nat) : State :=
  let rd := fun (o n : Nat) => s.peek (vaultLoc w.rank (base + o)) n
  let g := rd 0xC 4
  let t := s.thAt w
  let t := if nbit g 17 then
      { t with regs := Vector.ofFn (fun (n : Fin 32) => if n = 0 then .zero else Ptr.ofBytes (rd (0x200 + 16 * n.val) 9)) } else t
  let t := if nbit g 18 then
      { t with fpctl := fpctlStored (word (rd 0x400 8)), warn := word (rd 0x408 8) &&& 0x7F,
               srseed := storedSeed (word (rd 0x410 8)), evctl := word (rd 0x418 8) &&& 0x207,
               errinj := word (rd 0x420 8) &&& 0xFFFFFFFFFF87FFFF, tidbase := word (rd 0x428 8) &&& 0xFFFFFFFFFFFFFFC0,
               tidlim := tidlimStored (word (rd 0x430 8)) } else t
  let t := if nbit g 16 then
      { t with masks := Vector.ofFn (fun (n : Fin 8) => if n = 0 then 0 else BitVec.ofNat 1024 (rd (0x500 + 128 * (n.val - 1)) 128)) } else t
  let t := { t with
    vregs := Vector.ofFn (fun (n : Fin 32) => if nbit g (n.val / 4) then BitVec.ofNat 4096 (rd (0x4000 + 512 * n.val) 512) else t.vregs[n]),
    accs := Vector.ofFn (fun (k : Fin 8) =>
      if nbit g (8 + k.val) then
        { elems := BitVec.ofNat 32768 (rd (0x8000 + 0x1000 * k.val) 0x1000), bind := word (rd (0x480 + 8 * k.val) 8),
          cr := BitVec.ofNat 2048 (rd (0x1000 + 0x400 * k.val) 256), cc := BitVec.ofNat 2048 (rd (0x1100 + 0x400 * k.val) 256),
          sr := BitVec.ofNat 2048 (rd (0x1200 + 0x400 * k.val) 256), sc := BitVec.ofNat 2048 (rd (0x1300 + 0x400 * k.val) 256) }
      else t.accs[k]),
    -- groups of the record that the frame does not hold are dirty (R308)
    dirty := word (field (0x60000 : Word) 0 20 - (g &&& 0x60000)) }
  let s := s.setThAt w t
  s.copyRows w.rank (base + 0x10000) (stackBase w.slot.val) (rowsOf (BitVec.ofNat 2048 (rd 0x100 256)))

/-- Places a task in a slot (R29): from its record alone, or with the image of its frame. -/
def State.placeTask (s : State) (w : Turn) (k : Task) : State :=
  let s := s.setThAt w ((s.thAt w).placed k s.cycle.toNat)
  if k.frame then
    match (s.core w.rank).frameOf k.id with
    | some f =>
      let s := s.restoreFrame w ((s.core w.rank).frameBase f)
      -- saved registers of the record stand over the image (R29)
      s.modThAt w (fun t => { t with regs := restoreRegs t.regs k.live k.regs })
    | none => s
  else s

/-! ### The fault queue (R340) -/

/-- The SRC byte of a fault-queue entry: the slot of a thread, bit 5 an agent request, bit 6 an engine command. -/
structure FaultFrom where
  src : Nat
  rank : Nat
  asid : Nat
  task : Word
  eng : Nat
  deriving DecidableEq, Repr

/-- Appends an entry at the tail of a partition's fault queue and sets FAULTQ; none where the tail entry is live. -/
def State.appendFault (s : State) (p : Nat) (ga : Ptr) (c : Cause) (kind reason : Nat) (by_ : FaultFrom) : Option (Nat × State) :=
  match s.part p with
  | none => none
  | some x =>
    let k := x.faultTail
    let off := x.spec.faultOff + 32 * k
    if s.peek (vaultLoc x.spec.sys (off + 0x1E)) 1 ≠ 0 then none
    else
      let s := s.storeAll x.spec.sys off
        [(0, 8, ga.v.toNat), (8, 1, ga.sb.toNat), (9, 1, c.code), (0xA, 1, kind + 16 * reason), (0xB, 1, by_.src),
         (0xC, 2, by_.rank), (0xE, 2, by_.asid), (0x10, 8, by_.task.toNat), (0x18, 2, by_.eng), (0x1A, 4, 0),
         (0x1F, 1, 0), (0x1E, 1, 1)]
      let s := { s with parts := insert s.parts p { x with faultTail := (k + 1) % 2 ^ x.spec.faultK } }
      some (k, s.raiseIrq p 1)

/-- A translation fault of a thread (R324, R340): the entry is written and the task parks with a context frame; with
every frame bound, or no task in the slot, it stays there until the fault is resolved (R306). A core of no partition
has no fault queue, and its thread waits. -/
def State.parkFault (s : State) (ga : Ptr) (c : Cause) (kind reason : Nat) : State :=
  let w := s.turn
  match s.partOf w.rank with
  | none => s.modTh Thread.stall
  | some p =>
    if w.slot = 4 then
      -- an agent parks the request and serves others (R339)
      match s.me.agent.current, s.appendFault p ga c kind reason
          { src := 0x20, rank := w.rank, asid := field s.me.asid 0 16, task := 0, eng := 0xFFFF } with
      | some rq, some (k, s) =>
        (s.modMe (fun c => { c with agent := { c.agent with parkedReqs := c.agent.parkedReqs ++ [(k, rq)] } })).endHandler w.rank
      | _, _ => s.modTh Thread.stall
    else
    match s.appendFault p ga c kind reason
        { src := w.slot.val, rank := w.rank, asid := field s.me.asid 0 16, task := s.th.taskId, eng := 0xFFFF } with
    | none => s.modTh Thread.stall
    | some (k, s) =>
      match s.leaveFull w with
      | some (x, s) => s.modCore w.rank (fun c => { c with parked := c.parked ++ [{ x with wait := .fault p k }] })
      | none => s.modThAt w (fun t => { t with faultWait := some (p, k) })

/-! ### Running a meaning -/

/-- A slot that leaves by a translation fault drains until its outstanding instructions have finished (R20, R324); it then
meets the fault again. -/
def Thread.drain (t : Thread) : Thread := { t with occ := .draining, stalled := true }

/-- The outcome of a stop, from the state before and the one that the meaning left: a trap or fault waits until every
instruction of the thread's window has finished (R26, R302). -/
def stopResult (s t : State) : Stop → Result
  | .trap x => if s.th.outst = [] then .next (t.takeTrap x) else .next (s.modTh Thread.stall)
  | .stall => .next (t.modTh Thread.stall)
  | .done => .next t
  | .page ga c kind reason => if s.th.outst = [] then .next (t.parkFault ga c kind reason) else .next (s.modTh Thread.drain)
  | .fault f => .fault f

/-- A meaning with its stops: the pc advances where it completes. -/
def run (m : M Unit) (s : State) : Result :=
  match m s with
  | .ok _ t => .next (t.modTh Thread.next)
  | .error e t => stopResult s t e

end Sys2Proof.Machine
end

