-- ==== Sys2Proof/Machine/Access.lean ====
section
/-!
DEFINITION. Addresses: the checks of R78, translation (R330-R335), and the performance of a thread's accesses at their
homes (R94-R96), control space included (R300).
-/

namespace Sys2Proof.Machine

/-! ### The checks before translation (R78, R300, R366) -/

/-- Whether `n` bytes from an offset lie within one register or store of the control block (R300). -/
def controlOffset (o n : Nat) : Bool :=
  decide (o + n ≤ 0x8000) || (decide (0x10000 ≤ o) && decide (o + n ≤ 0x20000))
    || (decide (0x20000 ≤ o) && decide (o + n ≤ 0x20020))
    || (List.range 4).any (fun k => decide (0x20100 + 0x40 * k ≤ o) && decide (o + n ≤ 0x20108 + 0x40 * k))
    || (decide (0x21000 ≤ o) && decide (o + n ≤ 0x22000))

/-- On whose behalf an address is checked: its core and slot (4 the agent), and its privilege. -/
structure Viewer where
  rank : Nat
  slot : Nat
  priv : Bool
  monitor : Bool
  deriving DecidableEq, Repr

/-- The thread that issues. -/
def State.viewer (s : State) : Viewer :=
  { rank := s.turn.rank, slot := s.turn.slot.val, priv := s.supervisor, monitor := decide (s.th.mode = 2) }

/-- Checks 1 to 3 of R78 on a GA, the partition check included. An agent's own spaces are those of R278. -/
def State.gaCheck (s : State) (v : Viewer) (ga : Ptr) (n : Nat) : Option Cause :=
  let off := ga.v.toNat
  let low := off % 2 ^ 48
  let rank := off / 2 ^ 48
  let agent := decide (v.slot = 4)
  match ga.sb.toNat with
  | 0xF0 => if off + n ≤ (if agent then 0x10000 else 0x340000) then none else some .aperture
  | 0xF1 => if !agent && decide (off + n ≤ 0x400000) then none else some .aperture
  | 0xF2 =>
    if agent || !s.isCore rank || decide (0x340000 < low + n) then some .aperture
    else if s.reaches v.rank rank then none else some .prot
  | 0xF3 => if !v.priv then some .priv else if off + n ≤ 0x40000000 then none else some .aperture
  | 0xF4 =>
    if !v.priv then some .priv
    else if agent || !s.isCore rank || !controlOffset low n then some .aperture
    else if v.monitor || s.reaches v.rank rank then none else some .prot
  | sb => if 0xF5 ≤ sb then some .aperture else none

/-- The same for the thread that issues. -/
def State.spaceCheck (s : State) (ga : Ptr) (n : Nat) : Option Cause := s.gaCheck s.viewer ga n

/-- TCAUSE.KIND of an access (R296). -/
def accessKind : Access → Nat
  | .fetch => 0 | .load => 1 | .store => 2 | .atomic => 3 | .tileRead => 4 | .tileWrite => 4 | .rpc => 5
  | .engineRead => 6 | .engineWrite => 6 | .discard => 4

/-! ### The page table (R330-R333) -/

/-- A leaf found by a walk: its word, its place, the first page of its range, its SZ. -/
structure Leaf where
  e : Word
  home : Nat
  off : Nat
  vpn0 : Nat
  sz : Nat
  deriving DecidableEq, Repr

/-- Whether the frames of a leaf lie within a share of `n` frames. -/
def withinShare (e : Word) (sz n : Nat) : Bool :=
  decide (leafFrame e + (match sz with | 1 => 32 | 2 => 0x4000 | _ => 1) ≤ n)

/-- Whether a leaf of a hand-off frame is well formed for a core of a partition (R370). -/
def State.handOffLeaf (s : State) (rank : Nat) (e : Word) (sz : Nat) : Bool :=
  match lookup s.hqg (leafFrame e - 0x3E00), s.partOf rank with
  | some h, some p =>
    decide (sz = 0) && bit h 0 && decide (field h 48 16 = leafHome e) && bit e 52 && !bit e 53
      && (nbit (field h 32 16) p || nbit (field h 16 16) p)
  | _, _ => false

/-- Whether a leaf is malformed for a walking core (R332, R366). -/
def State.malformed (s : State) (rank : Nat) (e : Word) (sz : Nat) : Bool :=
  let fr := leafFrame e
  let share := match s.partOf rank with
    | some p => match s.part p with
      | some x => (x.spec.tierFrames, x.spec.hostFrames)
      | none => (0, 0)
    | none => (0, 0)
  let handOff := decide (leafTier e = 0) && decide (0x3E00 ≤ fr) && decide (fr < 0x3F00)
  if handOff then !s.handOffLeaf rank e sz
  else
    !s.reaches rank (leafHome e)
    || (sz = 1 && decide (fr % 32 ≠ 0)) || (sz = 2 && decide (fr % 0x4000 ≠ 0))
    || match leafTier e with
      | 0 => decide (0x3F00 ≤ fr) || sz = 2
      | 1 => !withinShare e sz share.1
      | 2 => !withinShare e sz share.2
      | _ => true

/-- Why a walk ends without a leaf: a fault with its reason (R340), or a read that waits at its vault (R337). -/
inductive WalkStop where
  | fault (reason : Nat)
  | waits (l : Loc)
  deriving DecidableEq, Repr

/-- The walk of R330 from a node, by levels: the leaf, or why there is none. A read of the walk port waits as any access
waits (R337). -/
def State.walkFrom (s : State) (rank vpn : Nat) : Nat → Nat → Nat → Except WalkStop Leaf
  | lvl, home, node =>
    let off := node + 8 * (vpn / 2 ^ (14 * lvl) % 0x4000)
    let e := word (s.peek (vaultLoc home off) 8)
    let sz := field e 50 2
    if s.meets false (vaultLoc home off) true ≠ .nothing then .error (.waits (vaultLoc home off))
    else if !bit e 63 then .error (.fault 0)
    else match lvl with
      | 0 =>
        if sz ≤ 1 ∧ !s.malformed rank e sz then
          .ok { e := e, home := home, off := off, vpn0 := if sz = 1 then vpn / 32 * 32 else vpn, sz := sz }
        else .error (.fault 2)
      | l + 1 =>
        if sz = 3 then s.walkFrom rank vpn l (leafHome e) (field e 0 13 * 0x20000)
        else if l = 0 ∧ sz = 2 ∧ !s.malformed rank e sz then
          .ok { e := e, home := home, off := off, vpn0 := vpn / 0x4000 * 0x4000, sz := sz }
        else .error (.fault 2)

/-- The page number of a GA: bits [71:16] (R330). -/
def vpnOf (p : Ptr) : Nat := p.sb.toNat * 2 ^ 48 + p.v.toNat / 0x10000

/-- A walk with a root pointer: reason 4 where PTBASE.EN is clear (R340). -/
def State.walk (s : State) (rank : Nat) (ptbase : Word) (vpn : Nat) : Except WalkStop Leaf :=
  if bit ptbase 0 then s.walkFrom rank vpn 3 (field ptbase 48 16) (field ptbase 17 13 * 0x20000) else .error (.fault 4)

/-- A walk of a core on a miss: from the deepest pointer that its walk cache holds, else from the root (R334, R335). -/
def State.walkCached (s : State) (rank asid : Nat) (ptbase : Word) (vpn : Nat) : Except WalkStop Leaf :=
  let at_ := fun (lvl : Nat) => (s.core rank).wcache.find? (fun w =>
    decide (w.lvl = lvl) && decide (w.index = vpn / 2 ^ (14 * (lvl + 1))) && decide (w.asid = asid))
  match at_ 0, at_ 1 with
  | some w, _ => s.walkFrom rank vpn 0 w.home w.node
  | none, some w => s.walkFrom rank vpn 1 w.home w.node
  | none, none => s.walk rank ptbase vpn

/-- Whether the permissions of a leaf allow an access (R333). -/
def permits (e : Word) (acc : Access) (supervisor : Bool) : Bool :=
  let r := bit e 52
  let w := bit e 53
  (supervisor || bit e 55) && match acc with
    | .fetch => r && bit e 54
    | .load => r | .tileRead => r | .rpc => r | .engineRead => r
    | .store => w | .tileWrite => w | .discard => w | .engineWrite => w
    | .atomic => r && w

/-- Whether an access sets D when it is the first through a clean entry (R333). -/
def dirties : Access → Bool
  | .store => true | .atomic => true | .tileWrite => true | .engineWrite => true
  | .fetch => false | .load => false | .tileRead => false | .rpc => false | .engineRead => false | .discard => false

/-- An atomic OR into an entry on the translation class (R333); it is a write of less than a row (R347). -/
def State.orLeaf (s : State) (home off : Nat) (b : Nat) : State :=
  let l := vaultLoc home off
  (s.modCore home (fun c => { c with vault := c.vault.noteWrite off 8 })).poke l 8 (setBit (word (s.peek l 8)) b).toNat

/-! ### TLBs (R334, R335) -/

/-- Whether an entry translates a page for an ASID. -/
def TlbEntry.covers (t : TlbEntry) (vpn asid : Nat) : Bool :=
  (bit t.leaf 56 || decide (t.asid = asid)) && match t.sz with
    | 1 => decide (vpn / 32 * 32 = t.vpn)
    | 2 => decide (vpn / 0x4000 * 0x4000 = t.vpn)
    | _ => decide (vpn = t.vpn)

/-- A new entry, newest first; the oldest goes where all are in use (DESIGN CHOICE, log entry 10). -/
def fillTlb (cap : Nat) (l : List TlbEntry) (t : TlbEntry) : List TlbEntry :=
  (t :: l.filter (fun x => decide (x ≠ t))).take cap

/-- The translation of a page that a core holds in its first or second level, or its agent in the agent's TLB (R334, R335,
R339). -/
def State.heldEntry (s : State) (rank : Nat) (agent : Bool) (vpn asid : Nat) : Option TlbEntry :=
  let c := s.core rank
  let hit := fun (t : TlbEntry) => t.covers vpn asid
  if agent then c.agent.tlb.find? hit
  else match c.utlb.find? hit with
    | some t => some t
    | none => c.tlb.find? hit

/-- A change of every entry that a core or its agent holds. -/
def State.mapTlb (s : State) (rank : Nat) (agent : Bool) (f : List TlbEntry → List TlbEntry) : State :=
  s.modCore rank (fun c =>
    if agent then { c with agent := { c.agent with tlb := f c.agent.tlb } } else { c with utlb := f c.utlb, tlb := f c.tlb })

/-- An entry comes to stand in both levels of a core, or in its agent's TLB (R334, R339). -/
def State.install (s : State) (rank : Nat) (agent : Bool) (t : TlbEntry) : State :=
  s.modCore rank (fun c =>
    if agent then { c with agent := { c.agent with tlb := fillTlb 64 c.agent.tlb t } }
    else { c with utlb := fillTlb 64 c.utlb t, tlb := fillTlb 2048 c.tlb t })

/-- A translation that the second level delivers comes to stand in the first (R334). -/
def State.promote (s : State) (rank : Nat) (agent : Bool) (t : TlbEntry) : State :=
  if agent || (s.core rank).utlb.contains t then s else s.modCore rank (fun c => { c with utlb := fillTlb 64 c.utlb t })

/-- The pointer entries that a walk read, as the walk cache holds them (R334). -/
def walkEntries (vpn asid : Nat) (x : Leaf) : List WalkEntry :=
  [{ lvl := if x.sz = 2 then 1 else 0, index := vpn / (if x.sz = 2 then 2 ^ 28 else 2 ^ 14), asid := asid,
     home := x.home, node := x.off / 0x20000 * 0x20000 }]

/-- The TLB entry that a walk's leaf makes; the walk sets A (R333, R334). -/
def Leaf.entry (x : Leaf) (asid : Nat) : TlbEntry :=
  { vpn := x.vpn0, sz := x.sz, asid := asid, leaf := setBit x.e 57, home := x.home, off := x.off }

/-- A completed walk fills the TLB and the walk cache, and sets A where it is clear (R333, R334). -/
def State.fill (s : State) (rank : Nat) (agent : Bool) (vpn asid : Nat) (x : Leaf) : State :=
  let s := if bit x.e 57 then s else s.orLeaf x.home x.off 57
  (s.install rank agent (x.entry asid)).modCore rank (fun c => { c with wcache := (walkEntries vpn asid x ++ c.wcache).take 32 })

/-- The translation of a page: the one held, or that of a walk (R334, R335). -/
def State.entryFor (s : State) (rank : Nat) (agent : Bool) (asid : Nat) (ptbase : Word) (vpn : Nat) :
    Except WalkStop (TlbEntry × Option Leaf) :=
  match s.heldEntry rank agent vpn asid with
  | some t => .ok (t, none)
  | none => match s.walkCached rank asid ptbase vpn with
    | .ok x => .ok (x.entry asid, some x)
    | .error e => .error e

/-- The page as its TLB entry has it after a first store: set-D has been performed at its leaf (R333). -/
def State.setDirty (s : State) (rank : Nat) (agent : Bool) (t : TlbEntry) : State :=
  (s.orLeaf t.home t.off 58).mapTlb rank agent (·.map (fun y => if y = t then { y with leaf := setBit y.leaf 58 } else y))

/-- Translates a global GA for the thread that issues (R77, R78 step 5, R330-R335). -/
def translate (ga : Ptr) (acc : Access) : M Loc := do
  let s ← get
  let rank := s.turn.rank
  let agent := decide (s.turn.slot = 4)
  let asid := field s.me.asid 0 16
  let vpn := vpnOf ga
  let kind := accessKind acc
  if !bit s.me.ptbase 0 then throw (.page ga .notPresent kind 4)
  let t ← match s.entryFor rank agent asid s.me.ptbase vpn with
    | .error (.fault r) => throw (.page ga .notPresent kind r)
    | .error (.waits l) => do upd (·.noteWaiting l); stall
    | .ok (t, x) =>
      -- a walk that ends in PROT installs nothing (R392)
      if !permits t.leaf acc s.supervisor then throw (.page ga .prot kind 1)
      match x with
      | some x => upd (fun s => s.fill rank agent vpn asid x)
      | none => upd (fun s => s.promote rank agent t)
      pure t
  if dirties acc && !bit t.leaf 58 then
    -- set-D goes to the leaf's home before the access is performed
    if s.meets false (vaultLoc t.home t.off) ≠ .nothing then do upd (·.noteWaiting (vaultLoc t.home t.off)); stall
    upd (fun s => s.setDirty rank agent t)
  let part := (s.partOf rank).getD 0
  let l := placeOf part t.leaf t.sz vpn ga.v.toNat
  match (← get).redirected part l with
  | none => pure l
  | some (l', e) =>
    -- the old home forwards the access, and its reply carries a redirect notice
    upd (fun s => { s with msgs := s.msgs ++ [.redirect rank vpn t.sz asid e] })
    pure l'

/-- The place of a local GA (R94, R278). -/
def placeLocal (v : Viewer) (ga : Ptr) : Loc :=
  let off := ga.v.toNat
  match ga.sb.toNat with
  | 0xF0 => if v.slot = 4 then { region := .agentData, home := v.rank, off := off } else scratchLoc v.rank off
  | 0xF1 => vaultLoc v.rank (stackBase v.slot + off)
  | 0xF2 => scratchLoc (off / 2 ^ 48) (off % 2 ^ 48)
  | 0xF3 => vaultLoc v.rank off
  | _ => Loc.real { region := .control, home := off / 2 ^ 48, off := off % 2 ^ 48 }

/-- The same for the thread that issues. -/
def State.localPlace (s : State) (ga : Ptr) : Loc := placeLocal s.viewer ga

/-- The checks on an access of `n` bytes aligned to `align` before translation, in the order of R78. -/
def precheck (ga : Ptr) (n align : Nat) (kind : BitVec 4) : M Unit := do
  match (← get).spaceCheck ga n with
  | some c =>
    -- in space 0xF4 a size other than 8 raises APERTURE before the partition check (R300)
    raise (if ga.sb = 0xF4 ∧ c = .prot ∧ n ≠ 8 then .aperture else c) ga.v kind
  | none =>
    if ga.sb = 0xF4 ∧ n ≠ 8 then raise .aperture ga.v kind
    else if ga.v.toNat % align ≠ 0 then raise .misalign ga.v kind

/-- The checks of R78 on an access, and its place. -/
def resolve (ga : Ptr) (n align : Nat) (acc : Access) : M Loc := do
  precheck ga n align (BitVec.ofNat 4 (accessKind acc))
  if ga.sb.toNat < 0xF0 then translate ga acc
  else return (← get).localPlace ga

/-! ### Performance at the home -/

/-- The domain of the thread that issues, as messages carry it (R271). -/
def State.domain (s : State) : Word := word (field s.th.domid 0 3 + field s.th.domid 4 12 * 16)

/-- The request and the reply of an implicit RPC (R96): each is sent and received, and sets B (R271). -/
def State.roundTrip (s : State) (home : Nat) : State :=
  let d := s.domain
  let r := s.turn.rank
  (((s.sent r d).received home d).sent home d).received r d

/-- Whether a place is reached as R366 has it: hand-off frames are reached from other partitions too (R370). -/
def State.homeReached (s : State) (rank : Nat) (l : Loc) : Bool :=
  match l.region with
  | .vault => s.reaches rank l.home || (decide (0x3E000000 ≤ l.off) && decide (l.off < 0x3F000000))
  | .tier2 _ => s.reaches rank l.home
  | .host _ => s.reaches rank l.home
  | _ => true

/-- What stands in the way of an access at its home: a home that is out of reach ends it with RPCFAIL (R96, R361), and it
waits for a migration (R344), a superstep (R41), its turn at a remote agent (R95), or traps or waits as the vault has it
(R89, R90). -/
def admitPiece (ga : Ptr) (l : Loc) (kind : BitVec 4) (read : Bool) : M Unit := do
  let s ← get
  let w := s.turn
  let agent := decide (w.slot = 4)
  let remote := decide (l.home ≠ w.rank)
  if remote && !s.homeReached w.rank l then raise .rpcFail ga.v kind
  if s.migrating l then do upd (fun s => s.noteHeld w s.th.pc l); stall
  if s.heldBefore w l then stall
  if remote && s.trafficHeld w.rank s.domain then stall
  if remote && s.callerWaits w l.home then do upd (fun s => s.noteCaller w s.th.pc l.home); stall
  match s.meets (agent && !remote) l read with
  | .nothing => pure ()
  | .waits => do upd (·.noteWaiting l); stall
  | .refresh => if !agent && !remote && bit s.th.evctl 0 then raise .refresh ga.v kind else stall
  | .repair => if !agent && bit s.th.evctl 1 then raise .rowRep ga.v kind else stall

/-- An admitted access arrives at its home: its turn there is over, and reductions to its granules are recalled (R111). -/
def State.arrived (s : State) (l : Loc) (n : Nat) : State :=
  let w := s.turn
  let s := if l.home ≠ w.rank then (s.roundTrip l.home).served w l.home else s
  (if s.heldOrder = [] then s else s.unheld w).recall l n

/-- An access is admitted and arrives. -/
def arrive (ga : Ptr) (l : Loc) (n : Nat) (kind : BitVec 4) (read : Bool) : M Unit := do
  admitPiece ga l kind read
  upd (·.arrived l n)

/-- Whether the data at a place can be restored by a rollback of a domain (R355). -/
def State.recoverable (s : State) (dom : Word) (l : Loc) : Bool :=
  match l.region with
  | .vault => (s.core l.home).vault.journal.any (fun j => decide (j.dom = dom) && decide (j.row = rowOf l.off))
  | .scratch => true
  | _ => false

/-- Whether a domain is unprotected: the journal of a member is full (R356). -/
def State.isUnprotected (s : State) (rank : Nat) (dom : Word) : Bool :=
  (s.groupOf rank (field dom 0 3)).any (fun r => (s.core r).vault.unprotected.contains dom)

/-- An error that a checkpoint domain consumes (R355): the thread waits, and the domain's rollback is due.
False where the error is delivered instead. -/
def State.consumed (s : State) (recov : Bool) : Bool :=
  ckptDom s.th.domid && decide (s.turn.slot ≠ 4) && recov && !s.isUnprotected s.turn.rank s.th.domid

/-- UNCORR at a read of the thread: a rollback in a checkpoint domain, else the trap (R352, R355). -/
def uncorrectable {α : Type} (tval : Word) (kind : BitVec 4) (recov : Bool) : M α := do
  let s ← get
  if s.consumed recov then
    upd (fun s => { s with rollbackDue := addOnce s.rollbackDue s.th.domid })
    stall
  else
    if ckptDom s.th.domid && s.isUnprotected s.turn.rank s.th.domid then
      upd (fun s => s.logError s.turn.rank 13 0 0 (field s.th.domid 0 16))
    raise .uncorr tval kind

/-- An armed injection of a target: SKIP events pass, then it fires and disarms (R363). -/
def Thread.injects (t : Thread) (tgt : Nat) : Bool × Thread :=
  if bit t.errinj 31 && decide (field t.errinj 28 3 = tgt) then
    let skip := field t.errinj 32 32
    if skip = 0 then (true, Thread.touchC { t with errinj := clearBit t.errinj 31 })
    else (false, Thread.touchC { t with errinj := withField t.errinj 32 32 (skip - 1) })
  else (false, t)

/-- An injection at the thread that issues. -/
def injected (tgt : Nat) : M Bool := do
  let r := (← thread).injects tgt
  updTh (fun _ => r.2)
  return r.1

/-- An admitted read of at most one row is performed (R100, R349-R352). -/
def readNow (ga : Ptr) (l : Loc) (n : Nat) (kind : BitVec 4) : M Nat := do
  upd (·.arrived l n)
  let own := decide (l.region = .vault) && decide (l.home = (← get).turn.rank)
  let inj2 ← if own then injected 2 else pure false
  let inj3 ← if own then injected 3 else pure false
  if inj2 || (← get).unreadable l n then
    let s ← get
    upd (fun s => s.logUnreadable s.turn.rank l n (ofBool inj2 * 2))
    uncorrectable ga.v kind (s.recoverable s.th.domid l)
  if inj3 then upd (fun s => s.modMe (fun c => { c with log := { c.log with csym := saturate32 (c.log.csym + 1) } }))
  upd (·.corrected l n)
  return (← get).look l n

/-- A read of at most one row at its home, for a thread: it is performed when its instruction issues, after every access
before it in program order, also where R103 and R108 leave the two unordered (DESIGN CHOICE, log entry 51). -/
def readAt (ga : Ptr) (l : Loc) (n : Nat) (kind : BitVec 4) : M Nat := do
  admitPiece ga l kind true
  readNow ga l n kind

/-- A write to the thread's stack marks its row (R308). -/
def Thread.markStack (t : Thread) (ga : Ptr) : Thread :=
  if ga.sb = 0xF1 then
    { t with dirty := setBit t.dirty 19, stackRows := setBit t.stackRows (ga.v.toNat / 0x800) }
  else t

/-- Whether an operation of the thread that has issued is still to read bytes of its queue slot that a store touches: the
read comes first in program order (R103, R129). -/
def State.readFirst (s : State) (l : Loc) (n : Nat) : Bool :=
  decide (l.region = .scratch) && decide (l.home = s.turn.rank) && s.me.mops.any (fun m =>
    let q := s.me.queues.getD m.queue .reset
    let o := q.base + m.seq % q.cap * 0x800
    decide (m.slot = s.turn.slot) && !m.read && m.mit.isNone && decide (l.off < o + 0x800) && decide (o < l.off + n))

/-- A write of at most one row, before it is performed: admitted, and refused on a stationary or mitten position (R121). -/
def admitWrite (ga : Ptr) (l : Loc) (n : Nat) (kind : BitVec 4) : M Unit := do
  if (← get).readFirst l n then stall
  admitPiece ga l kind false
  if (← get).fixedLoc l then raise .statWr ga.v kind

/-- An admitted write of at most one row is performed at its home (R100). -/
def writeNow (ga : Ptr) (l : Loc) (n v : Nat) : M Unit := do
  upd (·.arrived l n)
  upd (fun s => s.write s.behalf l n v)
  updTh (·.markStack ga)

/-- A write of at most one row at its home, for a thread: it is performed when its instruction issues, in program order, also
where R103 and R108 order it against nothing (DESIGN CHOICE, log entry 51). -/
def writeAt (ga : Ptr) (l : Loc) (n v : Nat) (kind : BitVec 4) : M Unit := do
  admitWrite ga l n kind
  writeNow ga l n v

/-- A thread's load of at most one row: checks, home, data. -/
def loadData (ga : Ptr) (n align : Nat) (acc : Access) : M Nat := do
  let kind := BitVec.ofNat 4 (accessKind acc)
  let l ← resolve ga n align acc
  match l.region with
  | .control => do
    arrive ga l n kind true
    return ((← get).controlRead l.home l.off).toNat
  | _ => readAt ga l n kind

/-- A thread's store of at most one row. -/
def storeData (ga : Ptr) (n align v : Nat) (acc : Access) : M Unit := do
  let kind := BitVec.ofNat 4 (accessKind acc)
  let l ← resolve ga n align acc
  writeAt ga l n v kind

end Sys2Proof.Machine
end

