-- ==== Sys2Proof/Machine/Branch.lean ====
section
/-!
DEFINITION. Branches and jumps (R185, R186).
-/

namespace Sys2Proof.Machine

/-- A conditional branch: PC + sext(off16) x 4 where the condition holds, else the next instruction (R185). -/
def branch (cond : Word → Word → Bool) (f : FmtB) (s : State) : Result :=
  let t := s.th
  if cond (t.val f.a) (t.val f.b) then .next (s.setTh { t with pc := t.pc.add (sext f.off <<< 2) })
  else .next (s.setTh t.next)

def execBeq : FmtB → State → Result := branch (fun a b => a == b)
def execBne : FmtB → State → Result := branch (fun a b => a != b)
def execBlt : FmtB → State → Result := branch (fun a b => a.slt b)
def execBge : FmtB → State → Result := branch (fun a b => !a.slt b)
def execBltu : FmtB → State → Result := branch (fun a b => a.ult b)
def execBgeu : FmtB → State → Result := branch (fun a b => !a.ult b)

/-- `jal d, label`: the link keeps the space byte (R186). -/
def execJal (f : FmtJ) (s : State) : Result :=
  let t := s.th
  .next (s.setTh { t.put f.d (t.pc.add 4) with pc := t.pc.add (sext f.off <<< 2) })

/-- `jalr d, a, i`: the target is formed before d is written (R186). -/
def execJalr (f : FmtI) (s : State) : Result :=
  let t := s.th
  .next (s.setTh { t.put f.d (t.pc.add 4) with pc := (t.get f.a).add (sext f.imm) })

end Sys2Proof.Machine
end

