-- ==== Sys2Proof/Machine/Pointer.lean ====
section
/-!
DEFINITION. The pointer members and `paddi` (R178): they build, keep and inspect a space byte.
-/

namespace Sys2Proof.Machine

/-- d := a pointer made from a and b; LK is ignored with WARN.LKIG (R178, R25). -/
def ptrOp (g : Ptr → Ptr → Ptr) (f : FmtA) : State → Result :=
  simple (fun t => (t.lkIgnored f.lk).put f.d (g (t.get f.a) (t.get f.b)))

/-- `pmk`: {b[7:0], a}. -/
def execPmk : FmtA → State → Result := ptrOp (fun a b => { sb := b.v.setWidth 8, v := a.v })

/-- `padd`: {a.sb, a + b}. -/
def execPadd : FmtA → State → Result := ptrOp (fun a b => a.add b.v)

/-- `ptag`: {0, zext a.sb}. -/
def execPtag : FmtA → State → Result := ptrOp (fun a _ => .int (a.sb.setWidth 64))

/-- `pclr`: {0, a}. -/
def execPclr : FmtA → State → Result := ptrOp (fun a _ => .int a.v)

/-- `prank`: {0xF2, b[15:0], a[47:0]}. -/
def execPrank : FmtA → State → Result :=
  ptrOp (fun a b => { sb := 0xF2, v := b.v.setWidth 16 ++ a.v.setWidth 48 })

/-- The cause code of the first of checks 1-3 of R78 that a one-byte access at a GA fails, or 0. -/
def State.checkCode (s : State) (ga : Ptr) : Nat :=
  match s.spaceCheck ga 1 with
  | some c => c.code
  | none => 0

/-- `pchk`: {0, C}. -/
def execPchk (f : FmtA) (s : State) : Result :=
  ptrOp (fun a _ => .int (word (s.checkCode a))) f s

/-- `paddi`: {a.sb, a + sext imm16}. -/
def execPaddi (f : FmtI) : State → Result := simple (fun t => t.put f.d ((t.get f.a).add (sext f.imm)))

end Sys2Proof.Machine
end

