-- ==== Sys2Proof/Machine/LoadStore.lean ====
section
/-!
DEFINITION. Scalar loads and stores, atomics and deferred reductions (R182-R184).
-/

namespace Sys2Proof.Machine

/-- The effective GA of F-M (R182). -/
def memGa (f : FmtM) (t : Thread) : Ptr := (t.get f.a).add (sext f.off)

/-- Bytes of a size code (R155). -/
def sizeBytes (c : Nat) : Nat := 2 ^ c

/-- What a load writes to d: zero- or sign-extended, or a pointer (R182). -/
def loadResult (f : FmtM) (m : Nat) : Ptr :=
  if f.size.val = 4 then Ptr.ofBytes m
  else if f.sx ∧ f.size.val < 3 then .int (word (intBits 64 (sintOf (8 * sizeBytes f.size.val) m)))
  else .int (word m)

/-- `ld` (R182). -/
def execLd (f : FmtM) : State → Result :=
  run do
    if 5 ≤ f.size.val then throw (.fault .illFormed)
    let t ← thread
    let n := sizeBytes f.size.val
    let m ← loadData (memGa f t) n n .load
    updTh (fun t => (t.put f.d (loadResult f m)).warnIf .fmt (f.sx && decide (3 ≤ f.size.val)))

/-- What a store writes: the low bytes of d, or the pointer (R182). -/
def storeValue (f : FmtM) (t : Thread) : Nat :=
  if f.size.val = 4 then (t.get f.d).bytes else (t.val f.d).toNat % 2 ^ (8 * sizeBytes f.size.val)

/-- `st` (R182). -/
def execSt (f : FmtM) : State → Result :=
  run do
    if 5 ≤ f.size.val then throw (.fault .illFormed)
    let t ← thread
    let n := sizeBytes f.size.val
    storeData (memGa f t) n n (storeValue f t) .store
    updTh (fun t => t.warnIf .fmt f.sx)

/-! ### Atomics (R183) -/

/-- The operations of `amo`, by code. -/
inductive AmoOp where
  | swap | add | and | or | xor | smin | smax | umin | umax | cas | fadd | fmin | fmax
  deriving DecidableEq, Repr

/-- The new value of an element of n bytes, and whether NV is set; none where nothing is written. -/
def AmoOp.value (op : AmoOp) (n old e cmp : Nat) : Option Nat × Bool :=
  let w := 8 * n
  match op with
  | .swap => (some e, false)
  | .add => (some ((old + e) % 2 ^ w), false)
  | .and => (some (old &&& e), false)
  | .or => (some (old ||| e), false)
  | .xor => (some (old ^^^ e), false)
  | .smin => (some (if sintOf w e < sintOf w old then e else old), false)
  | .smax => (some (if sintOf w old < sintOf w e then e else old), false)
  | .umin => (some (min old e), false)
  | .umax => (some (max old e), false)
  | .cas => (if old = cmp then some e else none, false)
  | .fadd => let r := homeFadd (homeFmt n) old e; (some r.1, r.2)
  | .fmin => let r := (homeFmt n).minmax false old e; (some r.1, decide (r.2 ≠ 0))
  | .fmax => let r := (homeFmt n).minmax true old e; (some r.1, decide (r.2 ≠ 0))

/-- Whether an operation's old value is a floating value, zero-extended (R47, R183). -/
def AmoOp.isFloat : AmoOp → Bool
  | .fadd => true | .fmin => true | .fmax => true
  | .swap => false | .add => false | .and => false | .or => false | .xor => false | .smin => false | .smax => false
  | .umin => false | .umax => false | .cas => false

/-- What an atomic writes to d (R183). -/
def AmoOp.result (op : AmoOp) (n old : Nat) : Word :=
  if op.isFloat then word old else word (intBits 64 (sintOf (8 * n) old))

/-- An atomic: one read-modify-write of a naturally aligned element at its home, then d := the old value (R183). -/
def amo (op : AmoOp) (f : FmtAm) : State → Result :=
  run do
    if 2 ≤ f.width.val then throw (.fault .illFormed)
    let t ← thread
    let n := if f.width.val = 0 then 4 else 8
    let e := (t.val f.b).toNat % 2 ^ (8 * n)
    let cmp := (t.val f.d).toNat % 2 ^ (8 * n)
    let ga := t.get f.a
    let l ← resolve ga n n .atomic
    admitWrite ga l n 3
    -- an ordered atomic comes after every access of its home scope, reductions included (R109)
    if f.ord then upd (fun s => s.fenceFlush s.turn.rank (homeScope s.turn.rank ga l))
    let old ← if l.region = .control then do
        upd (·.arrived l n)
        pure ((← get).controlRead l.home l.off).toNat
      else readNow ga l n 3
    let r := op.value n old e cmp
    match r.1 with
    | some v => do
      upd (fun s => s.write s.behalf l n v)
      updTh (·.markStack ga)
    | none => pure ()
    updTh (fun t => ((if r.2 then t.raised flagNV else t).putInt f.d (op.result n old)).issueOut f.lk [.s f.d])

def execAmoSwap : FmtAm → State → Result := amo .swap
def execAmoAdd : FmtAm → State → Result := amo .add
def execAmoAnd : FmtAm → State → Result := amo .and
def execAmoOr : FmtAm → State → Result := amo .or
def execAmoXor : FmtAm → State → Result := amo .xor
def execAmoSmin : FmtAm → State → Result := amo .smin
def execAmoSmax : FmtAm → State → Result := amo .smax
def execAmoUmin : FmtAm → State → Result := amo .umin
def execAmoUmax : FmtAm → State → Result := amo .umax
def execAmoCas : FmtAm → State → Result := amo .cas
def execAmoFadd : FmtAm → State → Result := amo .fadd
def execAmoFmin : FmtAm → State → Result := amo .fmin
def execAmoFmax : FmtAm → State → Result := amo .fmax

/-! ### Deferred reductions (R111, R184) -/

/-- Allocates an entry of the reduction buffer; a full buffer flushes its oldest first (R111). -/
def State.allocRed (s : State) (rank : Nat) (e : RedEntry) : State :=
  let s := if (s.core rank).redbuf.length < 64 then s
    else match (s.core rank).redbuf with
      | [] => s
      | x :: _ => s.flushRed rank (fun y => decide (y = x))
  s.modCore rank (fun c => { c with redbuf := c.redbuf ++ [e] })

/-- Whether two entries name one element with one op. -/
def RedEntry.same (x e : RedEntry) : Bool := decide (x.loc = e.loc) && decide (x.op = e.op) && decide (x.width = e.width)

/-- Whether the elements of two entries share a byte. -/
def RedEntry.overlaps (x e : RedEntry) : Bool :=
  decide (x.loc.key < e.loc.key + e.width) && decide (e.loc.key < x.loc.key + x.width)

/-- Whether the value of an entry is a signalling NaN. -/
def RedEntry.snan (x : RedEntry) : Bool :=
  [1, 4, 5].contains x.op && ((homeFmt x.width).value x.val).isSnan

/-- An entry with another combined into it (R74): NV waits for the flush, for the thread that issued the signalling NaN, or
the last one for an invalid addition (R184). -/
def RedEntry.combine (x e : RedEntry) : RedEntry :=
  let r := redValue e.op e.width x.val e.val
  { x with val := r.1, last := e.last,
           nv := x.nv ++ (if x.snan then [x.last] else []) ++ (if r.2 && (e.snan || !x.snan) then [e.last] else []) }

/-- Places a reduction in the buffer: what overlaps its element with another op or width is flushed first, then it is combined
into the entry of its element (R111, R74). -/
def State.bufferRed (s : State) (rank : Nat) (e : RedEntry) : State :=
  let s := s.flushRed rank (fun x => x.overlaps e && !x.same e)
  if (s.core rank).redbuf.any (·.same e) then
    s.modCore rank (fun c => { c with redbuf := c.redbuf.map (fun x => if x.same e then x.combine e else x) })
  else s.allocRed rank e

/-- A deferred reduction; `red` on an agent raises ILLEGAL (R160, R184). -/
def red (op : Nat) (i : Instr) (f : FmtAm) : State → Result :=
  run do
    if 2 ≤ f.width.val then throw (.fault .illFormed)
    let s ← get
    if s.turn.slot = 4 then illegal i
    let n := if f.width.val = 0 then 4 else 8
    let ga := s.th.get f.a
    let l ← resolve ga n n .atomic
    let v := (s.th.val f.b).toNat % 2 ^ (8 * n)
    let e : RedEntry := { ga := ga, loc := l, op := op, width := n, val := v, last := s.turn.slot, nv := [] }
    -- a home outside the package is sent its update at once (R111)
    if l.home / 1024 ≠ s.dev then upd (fun s => s.applyRed s.turn.rank e)
    else upd (fun s => s.bufferRed s.turn.rank e)
    updTh (fun t => ((t.markStack ga).warnIf .fmt f.ord).issueOut f.lk [])

def execRedAdd (f : FmtAm) : State → Result := red 0 (.redAdd f) f
def execRedFadd (f : FmtAm) : State → Result := red 1 (.redFadd f) f
def execRedSmin (f : FmtAm) : State → Result := red 2 (.redSmin f) f
def execRedSmax (f : FmtAm) : State → Result := red 3 (.redSmax f) f
def execRedFmin (f : FmtAm) : State → Result := red 4 (.redFmin f) f
def execRedFmax (f : FmtAm) : State → Result := red 5 (.redFmax f) f

end Sys2Proof.Machine
end

