-- ==== Sys2Proof/Machine/ScalarFp.lean ====
section
/-!
DEFINITION. Scalar floating point in four formats (R179-R181).
-/

namespace Sys2Proof.Machine

/-- The format of fn[6:5] (R179). -/
def scalarFmt (c : Nat) : Fmt :=
  match c with
  | 0 => f64 | 1 => f32 | 2 => bf16 | _ => f16

/-- The operand that a scalar register holds in a format: its low bits (R47). -/
def lowBits (f : Fmt) (w : Word) : Nat := w.toNat % 2 ^ f.width

/-- A member that rounds in FPCTL.RM; SR rounds in RNE with WARN.FMT (R55, R179). -/
def fpArith (f : FmtF) (g : Fmt → Mode → Nat → Nat → Nat → Nat × Flags) : State → Result :=
  run do
    let t ← thread
    let F := scalarFmt f.fmt.val
    let m := t.effMode 7 false
    let r := g F m.1 (lowBits F (t.val f.a)) (lowBits F (t.val f.b)) (lowBits F (t.val f.d))
    fpWrite r.2 (fun t => t.putInt f.d (word r.1))
    updTh (fun t => (t.warnIf .fmt m.2).lkIgnored f.lk)

/-- A member that does not round: it raises the flags it gives, and SR in FPCTL.RM sets WARN.FMT (R179). -/
def fpPlain (f : FmtF) (g : Fmt → Nat → Nat → Nat × Flags) : State → Result :=
  run do
    let t ← thread
    let F := scalarFmt f.fmt.val
    let r := g F (lowBits F (t.val f.a)) (lowBits F (t.val f.b))
    fpWrite r.2 (fun t => t.putInt f.d (word r.1))
    updTh (fun t => (t.warnIf .fmt (t.effMode 7 false).2).lkIgnored f.lk)

/-- Round(a + b) of element bits. -/
def fpAdd (F : Fmt) (m : Mode) (a b : Nat) : Nat × Flags :=
  let x := Num.add (m == 3) (F.value a) (F.value b)
  let r := F.round m x.1 0
  (r.1, x.2 ||| r.2)

/-- Round(a - b). -/
def fpSub (F : Fmt) (m : Mode) (a b : Nat) : Nat × Flags :=
  let x := Num.add (m == 3) (F.value a) (F.value b).neg
  let r := F.round m x.1 0
  (r.1, x.2 ||| r.2)

/-- Round(a x b). -/
def fpMul (F : Fmt) (m : Mode) (a b : Nat) : Nat × Flags :=
  let x := Num.mul (F.value a) (F.value b)
  let r := F.round m x.1 0
  (r.1, x.2 ||| r.2)

/-- Round(+-(a x b) +- c), fused: the product is negated where `np`, the addend where `nc`. -/
def fpFma (F : Fmt) (np nc : Bool) (m : Mode) (a b c : Nat) : Nat × Flags :=
  let av := F.value a
  let cv := F.value c
  let x := Num.fma (m == 3) (if np then av.neg else av) (F.value b) (if nc then cv.neg else cv)
  let r := F.round m x.1 0
  (r.1, x.2 ||| r.2)

def execFadd (f : FmtF) : State → Result := fpArith f (fun F m a b _ => fpAdd F m a b)
def execFsub (f : FmtF) : State → Result := fpArith f (fun F m a b _ => fpSub F m a b)
def execFmul (f : FmtF) : State → Result := fpArith f (fun F m a b _ => fpMul F m a b)
/-- `fmadd` reads d as its third source. -/
def execFmadd (f : FmtF) : State → Result := fpArith f (fun F m a b d => fpFma F false false m a b d)
def execFmsub (f : FmtF) : State → Result := fpArith f (fun F m a b d => fpFma F false true m a b d)

/-- A quotient or root: bf16 and f16 round to FP32 first, then to the format in the same mode (R162). -/
def viaFp32 (F : Fmt) (m : Mode) (g : Fmt → Nat × Flags) : Nat × Flags :=
  if F = f64 ∨ F = f32 then g F
  else
    let r := g f32
    let q := F.round m (f32.value r.1) 0
    (q.1, r.2 ||| q.2)

/-- `fdiv` and `fsqrt` are long-latency; their flags and FPX are those of an outstanding instruction (R22, R59). -/
def fpDivide (f : FmtF) (g : Fmt → Mode → Num → Num → Nat × Flags) : State → Result :=
  simple fun t =>
    let F := scalarFmt f.fmt.val
    let m := t.effMode 7 false
    let x := F.value (lowBits F (t.val f.a))
    let y := F.value (lowBits F (t.val f.b))
    let r := viaFp32 F m.1 (fun G => g G m.1 x y)
    t.fpIssue f.lk [.s f.d] r.2 (fun t => (t.putInt f.d (word r.1)).warnIf .fmt (m.2 || decide (2 ≤ f.fmt.val)))

def execFdiv (f : FmtF) : State → Result := fpDivide f (fun G m x y => G.div m x y)
def execFsqrt (f : FmtF) : State → Result := fpDivide f (fun G m x _ => G.sqrt m x)

def execFmin (f : FmtF) : State → Result := fpPlain f (fun F a b => F.minmax false a b)
def execFmax (f : FmtF) : State → Result := fpPlain f (fun F a b => F.minmax true a b)

/-- Equality raises NV only for a signalling NaN (R179). -/
def fpEq (F : Fmt) (a b : Nat) : Nat × Flags :=
  let x := F.value a
  let y := F.value b
  (ofBool (Num.eq x y), if x.isSnan || y.isSnan then flagNV else 0)

/-- An order comparison raises NV for any NaN. -/
def fpOrder (le : Bool) (F : Fmt) (a b : Nat) : Nat × Flags :=
  let x := F.value a
  let y := F.value b
  (ofBool (Num.lt x y || (le && Num.eq x y)), if x.isNan || y.isNan then flagNV else 0)

def execFeq (f : FmtF) : State → Result := fpPlain f fpEq
def execFlt (f : FmtF) : State → Result := fpPlain f (fpOrder false)
def execFle (f : FmtF) : State → Result := fpPlain f (fpOrder true)
def execFclass (f : FmtF) : State → Result := fpPlain f (fun F a _ => (F.classMask a, 0))

/-- a with the sign bit of b, inverted where `inv`; no flag, NaNs copied (R179). -/
def signInject (inv : Bool) (F : Fmt) (a b : Nat) : Nat :=
  let s := b / 2 ^ (F.eb + F.fb) % 2
  a % 2 ^ (F.eb + F.fb) + (if inv then 1 - s else s) * 2 ^ (F.eb + F.fb)

def execFsgnj (f : FmtF) : State → Result := fpPlain f (fun F a b => (signInject false F a b, 0))
def execFsgnjn (f : FmtF) : State → Result := fpPlain f (fun F a b => (signInject true F a b, 0))

/-- A scalar conversion in the effective mode, with the draw that SR takes where its result is delivered (R55, R56). -/
def fpConvert (f : FmtF) (g : Mode → Nat → Nat × Flags) : M Unit := do
  let t ← thread
  let m := t.effMode 7 true
  let sr := decide (m.1 = 5)
  let seed := srNext t.srseed
  let r := g m.1 (if sr then seed.toNat / 2 ^ 32 else 0)
  fpWrite r.2 (fun t => (t.putInt f.d (word r.1)).seeded sr seed)
  updTh (fun t => (t.warnIf .fmt m.2).lkIgnored f.lk)

/-- `fcvtf`: b holds the source format; codes 4-31 raise ILLEGAL (R181). -/
def execFcvtf (f : FmtF) : State → Result :=
  run do
    if 4 ≤ f.b.val then illegal (.fcvtf f)
    let F := scalarFmt f.fmt.val
    let G := scalarFmt f.b.val
    let a := lowBits G ((← thread).val f.a)
    fpConvert f (fun m u => F.convert m false (G.value a) u)

/-- Width and signedness of an integer kind (R181). -/
def intKind (b : Nat) : Nat × Bool :=
  match b with
  | 0 => (64, true) | 1 => (64, false) | 2 => (32, true) | _ => (32, false)

/-- `fcvtfi`: rounded to the integer kind of b, saturating (R63, R181). SR is not honoured. -/
def execFcvtfi (f : FmtF) : State → Result :=
  run do
    if 4 ≤ f.b.val then illegal (.fcvtfi f)
    let F := scalarFmt f.fmt.val
    let k := intKind f.b.val
    let t ← thread
    let m := t.effMode 7 false
    let lo := if k.2 then sintMin k.1 else 0
    let hi := if k.2 then sintMax k.1 else ((2 ^ k.1 : Nat) : Int) - 1
    let r := toInteger m.1 lo hi (F.value (lowBits F (t.val f.a))) 0
    fpWrite r.2 (fun t => t.putInt f.d (word (intBits 64 r.1)))
    updTh (fun t => (t.warnIf .fmt m.2).lkIgnored f.lk)

/-- `fcvtif`: the integer of the kind of b, rounded once (R181). -/
def execFcvtif (f : FmtF) : State → Result :=
  run do
    if 4 ≤ f.b.val then illegal (.fcvtif f)
    let F := scalarFmt f.fmt.val
    let k := intKind f.b.val
    let a := ((← thread).val f.a).toNat % 2 ^ k.1
    let x : Int := if k.2 then sintOf k.1 a else (a : Int)
    fpConvert f (fun m u => F.convert m false (Num.ofInt x) u)

end Sys2Proof.Machine
end

