-- ==== Sys2Proof/Machine/Operands.lean ====
section
/-!
DEFINITION. Vector operands: elements of registers, masks, groups (R195-R198), the rounding and saturation choices of
the md field (R200), and the checks and accesses of vector loads and stores (R218, R219).
-/

namespace Sys2Proof.Machine

/-! ### Elements -/

/-- The `n` fields of `w` bits of a number, lowest first. -/
def unpack (w : Nat) : Nat → Nat → List Nat
  | 0, _ => []
  | n + 1, x => x % 2 ^ w :: unpack w n (x / 2 ^ w)

/-- The number whose `w`-bit fields are given, lowest first. -/
def pack (w : Nat) : List Nat → Nat
  | [] => 0
  | e :: r => e % 2 ^ w + 2 ^ w * pack w r

/-- The elements of a register; bits [7:6] of an FP6 element are ignored (R48, R195). -/
def ElemType.elems (t : ElemType) (x : VReg) : List Nat := (unpack t.regBits t.count x.toNat).map (· % 2 ^ t.memBits)

/-- One element of a register. -/
def ElemType.elem (t : ElemType) (x : VReg) (i : Nat) : Nat := x.toNat / 2 ^ (t.regBits * i) % 2 ^ t.memBits

/-- A register of elements; those a list does not reach are zero bits (R195). -/
def ElemType.reg (t : ElemType) (l : List Nat) : VReg := BitVec.ofNat 4096 (pack t.regBits l)

/-- The ET groups of R201. -/
def ElemType.isF (t : ElemType) : Bool :=
  match t with
  | .float f => decide (f = f64 ∨ f = f32 ∨ f = bf16 ∨ f = f16)
  | .int _ => false | .cb2 => false | .u8 => false

def ElemType.isFloat (t : ElemType) : Bool :=
  match t with
  | .float _ => true
  | .int _ => false | .cb2 => false | .u8 => false

def ElemType.isI (t : ElemType) : Bool :=
  match t with
  | .float _ => false
  | .int _ => true | .cb2 => false | .u8 => true

/-- The integer that an element's bits stand for: ui8 unsigned, others signed (R44). -/
def ElemType.toInt (t : ElemType) (x : Nat) : Int :=
  match t with
  | .int w => sintOf w x
  | _ => (x : Int)

/-- The range of an integer type (R49). -/
def ElemType.least (t : ElemType) : Int :=
  match t with
  | .int w => sintMin w
  | _ => 0

def ElemType.greatest (t : ElemType) : Int :=
  match t with
  | .int w => sintMax w
  | _ => 255

/-- An exact integer narrowed to a type: wrapped, or clamped without a flag (R49, R202). -/
def ElemType.narrow (t : ElemType) (sat : Bool) (x : Int) : Nat :=
  intBits t.memBits (if sat then clamp t.least t.greatest x else x)

/-! ### Masks -/

/-- The first `n` bits of a mask register (R196). -/
def maskBits (m : MReg) (n : Nat) : List Bool := (unpack 1 n m.toNat).map (fun b => decide (b = 1))

/-- A mask register of bits; the rest are 0. -/
def maskOf (l : List Bool) : MReg := BitVec.ofNat 1024 (pack 1 (l.map ofBool))

/-- The mask that governs an F-V word: mk = j names mj (R196). -/
def Thread.governing (t : Thread) (msk : Fin 4) : MReg := t.mget ⟨msk.val, by omega⟩

/-- Merge masking: active elements take their result, inactive ones keep the old value and raise nothing (R196). -/
def merged : List Bool → List Nat → List (Nat × Flags) → List Nat × Flags
  | a :: as, o :: os, r :: rs =>
    let x := merged as os rs
    if a then (r.1 :: x.1, r.2 ||| x.2) else (o :: x.1, x.2)
  | _, _, _ => ([], 0)

/-! ### Groups (R197, R198) -/

/-- The first register of a destination group of k. -/
def groupBase (vd : Reg) (k : Nat) : Nat := vd.val - vd.val % k

/-- The registers of a group. -/
def Thread.group (t : Thread) (base k : Nat) : List VReg := (List.range k).map (fun r => t.vregs.getD (base + r) 0)

/-- The elements of a widened group in source order: element i lies in register i mod k, slot i / k. -/
def groupElems (ty : ElemType) (k n : Nat) (l : List VReg) : List Nat :=
  (List.range n).map (fun i => ty.elem (l.getD (i % k) 0) (i / k))

/-- Every k-th element from a start. -/
def everyNth (k : Nat) : Nat → List Nat → List Nat
  | _, [] => []
  | 0, x :: t => x :: everyNth k (k - 1) t
  | n + 1, _ :: t => everyNth k n t

/-- The registers of a group that holds elements in source order. -/
def groupRegs (ty : ElemType) (k : Nat) (l : List Nat) : List VReg :=
  (List.range k).map (fun r => ty.reg (everyNth k r l))

/-- A write of a group. -/
def Thread.putGroup (t : Thread) (base : Nat) (l : List VReg) : Thread :=
  (l.zipIdx).foldl (fun t p => t.vput (Fin.ofNat 32 (base + p.2)) p.1) t

/-- Whether a register lies in a group of several: a partial overlap (R198). -/
def inGroup (base k : Nat) (r : Reg) : Bool := decide (1 < k) && decide (base ≤ r.val) && decide (r.val < base + k)

/-! ### The md field (R200) -/

/-- The rounding mode that md names for a floating type, and whether SR fell back (R54, R55). -/
def mdMode (t : Thread) (md : Fin 4) : Mode × Bool :=
  match md.val with
  | 0 => t.effMode 7 false
  | 1 => (0, false) | 2 => (1, false) | _ => (4, false)

/-- How a word's md field is used: rounding for floating types, saturation for integers. -/
structure MdClass where
  rounds : Bool
  saturates : Bool
  deriving DecidableEq, Repr

def mdRS : MdClass := { rounds := true, saturates := true }
def mdS : MdClass := { rounds := false, saturates := true }
def mdNone : MdClass := { rounds := false, saturates := false }

/-- Mode, saturation and WARN.FMT of a word (R162, R200). -/
def MdClass.choose (c : MdClass) (t : Thread) (ty : ElemType) (md : Fin 4) : Mode × Bool × Bool :=
  if ty.isFloat then
    if c.rounds then ((mdMode t md).1, false, (mdMode t md).2) else (0, false, decide (md ≠ 0))
  else if c.saturates then (0, decide (md.val % 2 = 1), decide (2 ≤ md.val))
  else (0, false, decide (md ≠ 0))

/-! ### Element-wise members -/

/-- The result of an element-wise member from va, vb and the old vd. -/
abbrev VOp := ElemType → Mode → Bool → Nat → Nat → Nat → Nat × Flags

/-- The results of a three-operand function on lists of elements. -/
def zip3 {β : Type} (g : Nat → Nat → Nat → β) : List Nat → List Nat → List Nat → List β
  | a :: as, b :: bs, c :: cs => g a b c :: zip3 g as bs cs
  | _, _, _ => []

/-- An element-wise member on single registers, in a type it accepts; flags and FPX as R200 gives. -/
def elementwise (f : FmtV) (c : MdClass) (g : VOp) : M Unit := do
  let t ← thread
  let ty := elemType f.et
  let m := c.choose t ty f.md
  let old := ty.elems (t.vget f.vd)
  let r := merged (maskBits (t.governing f.msk) ty.count) old
    (zip3 (g ty m.1 m.2.1) (ty.elems (t.vget f.va)) (ty.elems (t.vget f.vb)) old)
  fpWrite r.2 (fun t => t.vput f.vd (ty.reg r.1))
  updTh (·.warnIf .fmt m.2.2)

/-- The element-wise member with its ET check (R201). -/
def vop (i : Instr) (f : FmtV) (ok : ElemType → Bool) (c : MdClass) (g : VOp) : State → Result :=
  run do
    if !ok (elemType f.et) then illegal i
    elementwise f c g

/-! ### Block scales and codebooks (R50-R53) -/

/-- The value of an E8M0 scale (R50). -/
def e8m0 (c : Nat) : Num := if c = 0xFF then .nan false else .fin false 1 ((c : Int) - 127)

/-- An FP32 block scale: none where it is not positive and finite (R51). -/
def fp32Scale (c : Nat) : Option Num :=
  match f32.value c with
  | .fin neg m e => if neg || decide (m = 0) then none else some (.fin neg m e)
  | _ => none

/-- The words of a shell: eight digits whose squares sum to a norm, ascending. -/
def shell : Nat → Nat → List Nat
  | 0, r => if r = 0 then [0] else []
  | n + 1, r => (([0, 1, 2] : List Nat).filter (fun d => decide (d * d ≤ r))).flatMap (fun d =>
      (shell n (r - d * d)).map (fun x => d * 16 ^ n + x))

/-- The reset codebook (R53): 256 entries of 32 bits. -/
def resetCodebook : List Nat := ((List.range 6).flatMap (fun r => shell 8 r)).take 256

/-- Weight e of a code under a table of 256 entries (R52): its exact value before the scale. -/
def codeWeight (table : Nat) (code e : Nat) : Num :=
  .fin (nbit code e) (table / 2 ^ (32 * (code / 2 ^ 8 % 2 ^ 8) + 4 * e) % 16) (-2)

/-! ### Pieces of a vector access (R218, R219) -/

/-- A run of elements that lie in one granule: its address, bytes, and first bit in the memory image. -/
structure Piece where
  ga : Ptr
  n : Nat
  bit : Nat
  deriving DecidableEq, Repr

/-- The pieces of a contiguous access of `len` bytes: cut at granules, or at elements of `w` bytes in control space,
whose registers are apart (R300). -/
def contiguous (base : Ptr) (w : Nat) : Nat → Nat → Nat → List Piece
  | 0, _, _ => []
  | fuel + 1, off, len =>
    if len ≤ off then []
    else
      let ga := base.add (word off)
      let room := if base.sb = 0xF4 then w else 64 - ga.v.toNat % 64
      let n := min room (len - off)
      { ga := ga, n := n, bit := 8 * off } :: contiguous base w fuel (off + n) len

/-- Checks a piece: its first element's address, for elements of `w` bytes (R219). -/
def checkPiece (w : Nat) (acc : Access) (p : Piece) : M Loc := do
  -- a run in control space is one element; elsewhere the run lies in one granule and shares its first element's fate
  resolve p.ga (if p.ga.sb = 0xF4 then p.n else w) w acc

/-- Checks every piece in ascending order, before any is performed. -/
def checkPieces (w : Nat) (acc : Access) : List Piece → M (List (Piece × Loc))
  | [] => return []
  | p :: r => do
    let l ← checkPiece w acc p
    let rest ← checkPieces w acc r
    return (p, l) :: rest

/-- Every piece of a read is admitted before any is performed, so that one that waits or traps leaves nothing half done. -/
def admitReads : List (Piece × Loc) → M Unit
  | [] => return ()
  | (p, l) :: r => do
    admitPiece p.ga l 1 true
    admitReads r

/-- The admitted pieces read into the memory image, in ascending order (DESIGN CHOICE, log entry 18: R102 orders the units of
an access in no way). -/
def readNows : List (Piece × Loc) → M Nat
  | [] => return 0
  | (p, l) :: r => do
    let x ← if l.region = .control then do
        upd (·.arrived l p.n)
        pure ((← get).controlRead l.home l.off).toNat
      else readNow p.ga l p.n 1
    let rest ← readNows r
    return x * 2 ^ p.bit + rest

/-- Reads the pieces into the memory image. -/
def readPieces (l : List (Piece × Loc)) : M Nat := do
  admitReads l
  readNows l

/-- Every piece of a write is admitted before any is performed. -/
def admitWrites : List (Piece × Loc) → M Unit
  | [] => return ()
  | (p, l) :: r => do
    admitWrite p.ga l p.n 2
    admitWrites r

/-- The admitted pieces of a memory image stored in ascending order (DESIGN CHOICE, log entry 18). -/
def writeNows (img : Nat) : List (Piece × Loc) → M Unit
  | [] => return ()
  | (p, l) :: r => do
    writeNow p.ga l p.n (img / 2 ^ p.bit % 2 ^ (8 * p.n))
    writeNows img r

/-- Stores the pieces of a memory image; a stationary or mitten location is refused before any is written (R121). -/
def writePieces (img : Nat) (l : List (Piece × Loc)) : M Unit := do
  admitWrites l
  writeNows img l

/-- The bytes that pieces name, as a destination of R25 (R218). -/
def piecesRes (l : List (Piece × Loc)) : List Res := l.map (fun p => .mem p.2.key p.1.n)

/-- The pieces without those whose address a later one names again: of two elements of one scatter at an address, only the
higher is written (R219). -/
def lastAt : List (Piece × Loc) → List (Piece × Loc)
  | [] => []
  | x :: r => if r.any (fun y => decide (y.1.ga = x.1.ga)) then lastAt r else x :: lastAt r

end Sys2Proof.Machine
end

