-- ==== Sys2Proof/Machine/Tensor.lean ====
section
/-!
DEFINITION. Tensor descriptors (R223-R228), tile positions and stationary ranges (R120-R123, R229-R232), and operand
queues (R129, R241-R244).
-/

namespace Sys2Proof.Machine

/-! ### F-X fields (R222) -/

/-- An accumulator field: bits [4:3] must be zero. -/
def accField (r : Reg) : Option (Fin 8) := if r.val < 8 then some (Fin.ofNat 8 r.val) else none

/-- The accumulator a field names, or ILLEGAL. -/
def needAcc (i : Instr) (r : Reg) : M (Fin 8) :=
  match accField r with
  | some n => return n
  | none => illegal i

/-- The offset of a scratchpad GA: another space raises APERTURE before the alignment check (R222). -/
def scratchGa (ga : Ptr) (align n : Nat) (kind : BitVec 4) : M Nat := do
  if ga.sb ≠ 0xF0 then raise .aperture ga.v kind
  if 0x340000 < ga.v.toNat + n then raise .aperture ga.v kind
  if ga.v.toNat % align ≠ 0 then raise .misalign ga.v kind
  return ga.v.toNat

/-! ### Descriptors (R224, R225) -/

def descV (d : Desc) : Bool := bit d 0
/-- ET. -/
def descEt (d : Desc) : Nat := field d 8 4
/-- SCL.KIND. -/
def descKind (d : Desc) : Nat := field d 16 3
/-- The block size of SCL.BLK. -/
def descBlk (d : Desc) : Nat := 32 * 2 ^ field d 19 2
def descCbk (d : Desc) : Bool := bit d 24
def descKblk (d : Desc) : Nat := field d 32 16
def descNblk (d : Desc) : Nat := field d 48 16
def descScaddr (d : Desc) : Nat := field d 64 64
def descBmaddr (d : Desc) : Nat := field d 128 64
def descCbaddr (d : Desc) : Nat := field d 192 64

/-- BMADDR of no bitmap. -/
def noBitmap (d : Desc) : Bool := decide (descBmaddr d = 0xFFFFFFFFFFFFFFFF)

/-- A multiple of 64 within the scratchpad (R225). -/
def areaOk (a : Nat) : Bool := decide (a % 64 = 0) && decide (a ≤ 0x33FFFF)

/-- The reason number of the first check that a descriptor fails; 0 where it is valid (R225). -/
def descReason (d : Desc) : Nat :=
  let et := descEt d
  let k := descKind d
  if 3 < k then 1
  else if k = 1 ∧ !(decide (4 ≤ et) && decide (et ≤ 8)) then 2
  else if k = 2 ∧ !((decide (4 ≤ et) && decide (et ≤ 8)) || (decide (0xC ≤ et) && decide (et ≤ 0xE))) then 3
  else if descKblk d = 0 ∨ descNblk d = 0 then 4
  else if (k ≠ 0 ∧ !areaOk (descScaddr d)) ∨ (!noBitmap d && !areaOk (descBmaddr d))
      ∨ (et = 0xE ∧ descCbk d ∧ !areaOk (descCbaddr d)) then 5
  else 0

/-! ### The tensor table (R223) -/

/-- The GA of an entry of a table. -/
def tableGa (tidbase : Word) (tid : Nat) : Ptr :=
  { sb := BitVec.ofNat 8 (field tidbase 56 8), v := word (field tidbase 6 50 * 64 + 64 * tid) }

/-- The tid check: 0 or not below TIDLIM raises APERTURE. -/
def checkTid (tid : Nat) : M Unit := do
  let t ← thread
  if tid = 0 ∨ t.tidlim.toNat ≤ tid then raise .aperture (word tid) 0

/-- The snapshot of a tensor: the tid check, then the entry read as a load of the thread. -/
def snapshot (tid : Nat) : M Desc := do
  checkTid tid
  let x ← loadData (tableGa (← thread).tidbase tid) 64 64 .load
  return BitVec.ofNat 512 x

/-- A snapshot that must be valid. -/
def validSnapshot (tid : Nat) : M Desc := do
  let d ← snapshot tid
  if !descV d then raise .illegal (word tid) 0
  return d

/-- The stationary range of a tid on a core. -/
def Core.rangeOf (c : Core) (tid : Nat) : Option StatRange := c.ranges.find? (fun g => decide (g.tid = tid))

/-- A tid operand: bits [7:0] of a register (R222). -/
def tidOf (w : Word) : Nat := field w 0 8

/-- tdef and tinv raise STATWR for a tid with a stationary range (R227). -/
def checkNoRange (tid : Nat) : M Unit := do
  if ((← myCore).rangeOf tid).isSome then raise .statWr (word tid) 0

/-- The fields of a descriptor: its reserved bits are ignored and stored as zero (R8, R224). -/
def descMask : Desc := 0xFFFFFFFFFFFFFFFFFFFFFFFFFFFFFFFFFFFFFFFFFFFFFFFFFFFFFFFF011F0F01

/-- `tdef` (R227); like every instruction that names a tid it reads the entry first (R223). -/
def execTdef (f : FmtX) : State → Result :=
  run do
    let t ← thread
    let tid := tidOf (t.val f.x)
    let _ ← snapshot tid
    checkNoRange tid
    let d := BitVec.ofNat 512 (← loadData (t.get f.y) 64 64 .load)
    let r := descReason d
    if r ≠ 0 then raise .illegal (word (tid + r * 0x100)) 0
    storeData (tableGa t.tidbase tid) 64 64 (setBit (d &&& descMask) 0).toNat .store
    updTh (·.issueOut f.lk [])

/-- `tinv` (R227): V is cleared, the rest of the entry stays. -/
def execTinv (f : FmtX) : State → Result :=
  run do
    let t ← thread
    let tid := tidOf (t.val f.x)
    let d ← snapshot tid
    checkNoRange tid
    storeData (tableGa t.tidbase tid) 1 1 (field (clearBit d 0) 0 8) .store
    updTh (·.issueOut f.lk [])

/-- `tqry` (R228). -/
def execTqry (f : FmtX) : State → Result :=
  run do
    if 8 < f.z.val then illegal (.tqry f)
    let tid := tidOf ((← thread).val f.y)
    let d ← snapshot tid
    let c ← myCore
    let w := if f.z.val < 8 then field d (64 * f.z.val) 64
      else match c.rangeOf tid with
        | some g => g.p0 + g.count * 0x10000
        | none => 0
    updTh (fun t => (t.putInt f.x (word w)).issueOut f.lk [.s f.x])

/-! ### Shapes and elements (R124, R226) -/

/-- The rows, K-slice and columns of a pair of types. -/
structure Shape where
  m : Nat
  k : Nat
  n : Nat
  deriving DecidableEq, Repr

/-- The K-slice of a W type, and its columns; none for a type that is no W type. -/
def wShape (et : Nat) : Option (Nat × Nat) :=
  match et with
  | 0 => some (16, 16) | 1 => some (16, 32) | 2 => some (32, 32) | 3 => some (32, 32) | 4 => some (64, 32)
  | 5 => some (64, 32) | 6 => some (64, 32) | 7 => some (64, 32) | 8 => some (128, 32) | 0xC => some (64, 32)
  | 0xD => some (128, 32) | 0xE => some (64, 32) | _ => none

/-- Whether an A type goes with a W type (R124, R125). -/
def pairOk (a w : Nat) : Bool :=
  let fp8 := decide (a = 4) || decide (a = 5)
  match w with
  | 4 => fp8 | 5 => fp8 | 0xE => fp8
  | 6 => decide (a = 6) || decide (a = 7)
  | 7 => decide (a = 6) || decide (a = 7)
  | w => decide (a = w) && (wShape w).isSome

/-- The shape of an operation by its W type. -/
def shapeOf (w : Nat) : Shape :=
  match wShape w with
  | some (k, n) => { m := n, k := k, n := n }
  | none => { m := 0, k := 0, n := 0 }

/-- Bytes of a tile of a W type: a CB2 tile is read by quarters of 512 bytes. -/
def etType (et : Nat) : ElemType := elemType (Fin.ofNat 16 et)

/-- Scales of one row or column of a K-slice (R226). -/
def scalesPerRow (d : Desc) (k : Nat) : Nat :=
  k / min (if descKind d = 1 then 32 else descBlk d) k

/-- Bytes of a scale record, for `r` rows or columns; 0 without scales along K. -/
def recordBytes (d : Desc) (r k : Nat) : Nat :=
  match descKind d with
  | 1 => r * scalesPerRow d k
  | 2 => 4 * r * scalesPerRow d k
  | _ => 0

/-- The scale of element (r, k) in a record: none where an FP32 scale fails R51. -/
def scaleOf (d : Desc) (kk rec r k : Nat) : Option Num :=
  match descKind d with
  | 1 => let i := r * scalesPerRow d kk + k / (kk / scalesPerRow d kk); some (e8m0 (rec / 2 ^ (8 * i) % 2 ^ 8))
  | 2 => let i := r * scalesPerRow d kk + k / (kk / scalesPerRow d kk); fp32Scale (rec / 2 ^ (32 * i) % 2 ^ 32)
  | _ => some (.fin false 1 0)

/-- The index of the first failing FP32 scale of a record (R132). -/
def badScale (d : Desc) (rec n : Nat) : Option Nat :=
  if descKind d = 2 then
    (List.range n).find? (fun i =>
      (fp32Scale (rec / 2 ^ (32 * i) % 2 ^ 32)).isNone)
  else none

/-- TVAL of a failing block scale: bit 63 for W, the block index below (R132). -/
def scaleTval (w : Bool) (i : Nat) : Word := word (i + ofBool w * 2 ^ 63)

/-- Element i of a tile (R124): a CB2 quarter decodes its codes. -/
def tileElem (et tile quarter book i : Nat) : Num :=
  if et = 0xE then codeWeight book (tile / 2 ^ (4096 * quarter + 16 * (i / 8)) % 2 ^ 16) (i % 8)
  else
    let ty := etType et
    let x := tile / 2 ^ (ty.memBits * i) % 2 ^ ty.memBits
    match ty with
    | .float F => F.value x
    | _ => Num.ofInt (ty.toInt x)

/-- The element (r, k) of an operand with its scale; masked elements are +0, so that their products are those of `mmac`
with that zero (R132, R133; DEDUCED, log entry 26). A scale that R51 refuses leaves the element as it is: no operation that
reads it goes on. -/
def operand (d : Desc) (kk tile quarter book rec : Nat) (map : Option Nat) (r k : Nat) : Num :=
  let i := r * kk + k
  let here := match map with
    | some b => nbit b i
    | none => true
  if !here then .fin false 0 0
  else
    let x := tileElem (descEt d) tile quarter book i
    match scaleOf d kk rec r k with
    | some s => if descKind d = 1 ∨ descKind d = 2 then (Num.mul x s).1 else x
    | none => x

/-- The codebook of a descriptor: the reset codebook, or the table at CBADDR (R53, R225). -/
def State.book (s : State) (rank : Nat) (d : Desc) : Nat :=
  if descCbk d then s.look (scratchLoc rank (descCbaddr d)) 1024 else pack 32 resetCodebook

/-! ### Exact sums (R69) -/

/-- The exact sum of a list: a NaN or infinities of both signs give a NaN; a zero sum is +0. -/
def exactSum (l : List Num) : Num :=
  match l.foldl (fun a x => (Num.add false a x).1) (.fin false 0 0) with
  | .fin n m e => if m = 0 then .fin false 0 0 else .fin n m e
  | x => x

/-- |x|. -/
def Num.absolute : Num → Num
  | .nan s => .nan s
  | .inf _ => .inf false
  | .fin _ m e => .fin false m e

/-- Whether a W tensor's checksums are exact integers: INT8 or INT4 without scales along K (R135). -/
def exactInts (d : Desc) : Bool := (decide (descEt d = 0xC) || decide (descEt d = 0xD)) && decide (descKind d ≠ 2)

/-- A weight sum as it is stored: exact for unscaled integers, else rounded in RNE to FP32, or FP64 for FP64. -/
def storeWsum (d : Desc) (x : Num) : Word :=
  if exactInts d then
    match x with
    | .fin n m e => word (intBits 64 (scaled n m e 0))
    | _ => 0
  else word ((if descEt d = 0 then f64 else f32).round 0 x 0).1

/-- The value of a stored weight sum. -/
def loadWsum (d : Desc) (w : Word) : Num :=
  if exactInts d then Num.ofInt (sintOf 64 w.toNat) else (if descEt d = 0 then f64 else f32).value w.toNat

/-- The weight sums of a W tile or quarter: for each k, the sum over n (R135). -/
def wsumOf (d : Desc) (tile quarter book rec : Nat) (map : Option Nat) : List Word :=
  match wShape (descEt d) with
  | none => []
  | some (kk, n) => (List.range kk).map (fun k =>
      storeWsum d (exactSum ((List.range n).map (fun c => operand d kk tile quarter book rec map c k))))

/-- The scale record of tile or slot index x (R226). -/
def State.record (s : State) (rank : Nat) (d : Desc) (r k x : Nat) : Nat :=
  let sb := recordBytes d r k
  if sb = 0 then 0 else s.look (scratchLoc rank (descScaddr d + x * sb)) sb

/-- The bitmap of tile or slot index x. -/
def State.bitmap (s : State) (rank : Nat) (d : Desc) (elems x : Nat) : Nat :=
  if noBitmap d then 0 else s.look (scratchLoc rank (descBmaddr d + x * (elems / 8))) (elems / 8)

/-- Reductions buffered for what is about to be read or written are applied first (R111, R112). -/
def State.recallAll (s : State) (l : List (Loc × Nat)) : State :=
  l.foldl (fun s x => if x.2 = 0 then s else s.recall x.1 x.2) s

/-- The scale record, bitmap and codebook table of tile or slot index x (R225, R226). -/
def operandAreas (rank : Nat) (d : Desc) (r k x : Nat) : List (Loc × Nat) :=
  let sb := recordBytes d r k
  let bm := if noBitmap d then 0 else r * k / 8
  [(scratchLoc rank (descScaddr d + x * sb), sb), (scratchLoc rank (descBmaddr d + x * bm), bm),
   (scratchLoc rank (descCbaddr d), if descCbk d then 1024 else 0)]

/-- Quarters of a stationary tile: four for CB2, else one. -/
def quarters (d : Desc) : Nat := if descEt d = 0xE then 4 else 1

/-- The areas that the weight sums of the tile at a position read. -/
def tileAreas (rank : Nat) (d : Desc) (p0 p : Nat) : List (Loc × Nat) :=
  let sh := shapeOf (descEt d)
  ((List.range (quarters d)).map (fun q => operandAreas rank d sh.n sh.k ((p - p0) * quarters d + q))).flatten

/-- The first FP32 scale that R51 refuses among those of the tile at a position: its block index. -/
def State.badTileScale (s : State) (rank : Nat) (d : Desc) (p0 p : Nat) : Option Nat :=
  let sh := shapeOf (descEt d)
  (List.range (quarters d)).findSome? (fun q =>
    badScale d (s.record rank d sh.n sh.k ((p - p0) * quarters d + q)) (recordBytes d sh.n sh.k / 4))

/-- The weight sums of the tile at a position, by position x 4 + quarter. -/
def State.tileWsums (s : State) (rank : Nat) (d : Desc) (p0 p : Nat) : List (Nat × List Word) :=
  let tile := s.peek (scratchLoc rank (p * 0x800)) 0x800
  (List.range (quarters d)).map (fun q =>
    let x := (p - p0) * quarters d + q
    let sh := shapeOf (descEt d)
    (p * 4 + q, wsumOf d tile q (s.book rank d) (s.record rank d sh.n sh.k x) none))

/-- Stores weight sums over those of the same positions. -/
def putWsums (l new : List (Nat × List Word)) : List (Nat × List Word) := new.foldl (fun l p => insert l p.1 p.2) l

/-! ### Stationary ranges (R229, R230) -/

/-- Whether a matrix operation that has not completed reads a macro of a range. -/
def Core.rangeBusy (c : Core) (g : StatRange) : Bool :=
  c.mops.any (fun m => decide (g.p0 / 48 ≤ m.pos / 48) && decide (m.pos / 48 ≤ (g.p0 + g.count - 1) / 48))

/-- The GA of a tile position. -/
def positionGa (p : Nat) : Word := word (p * 0x800)

/-- `mstat` (R229). -/
def execMstat (f : FmtX) : State → Result :=
  run do
    let t ← thread
    let tid := tidOf (t.val f.x)
    let d ← validSnapshot tid
    let ga := t.get f.y
    let n := (t.val f.z).toNat
    if ga.sb ≠ 0xF0 then raise .aperture ga.v 0
    if ga.v.toNat % 0x800 ≠ 0 then raise .misalign ga.v 0
    let p0 := ga.v.toNat / 0x800
    if n = 0 ∨ 1536 ≤ p0 then raise .aperture ga.v 0
    if 1536 < p0 + n then raise .aperture (positionGa 1536) 0
    let s ← get
    match (List.range n).find? (fun k => s.me.fixedOffset (s.pairing s.turn.rank) ((p0 + k) * 0x800)) with
    | some k => raise .statWr (positionGa (p0 + k)) 0
    | none => pure ()
    if (s.me.rangeOf tid).isSome then raise .statWr ga.v 0
    upd (fun s => s.recallAll ((scratchLoc s.turn.rank ga.v.toNat, n * 0x800)
      :: ((List.range n).map (fun k => tileAreas s.turn.rank d p0 (p0 + k))).flatten))
    -- a scale that R51 refuses is reached when the sums are formed (DEDUCED, log entry 27)
    let s ← get
    match (List.range n).findSome? (fun k => s.badTileScale s.turn.rank d p0 (p0 + k)) with
    | some i => raise .scale (scaleTval true i) 0
    | none => pure ()
    upd (fun s =>
      let sums := ((List.range n).map (fun k => s.tileWsums s.turn.rank d p0 (p0 + k))).flatten
      s.modMe (fun c => { c with ranges := c.ranges ++ [{ tid := tid, p0 := p0, count := n, dom := t.domid }], wsum := putWsums c.wsum sums }))
    updTh (·.issueOut f.lk [])

/-- `munst` (R230). -/
def execMunst (f : FmtX) : State → Result :=
  run do
    let tid := tidOf ((← thread).val f.x)
    let _ ← snapshot tid
    let c ← myCore
    match c.rangeOf tid with
    | none => raise .aperture (word tid) 0
    | some g =>
      if c.rangeBusy g then stall
      upd (fun s => s.modMe (fun c =>
        { c with ranges := c.ranges.filter (fun h => decide (h.tid ≠ tid)),
                 wsum := c.wsum.filter (fun p => decide (p.1 / 4 < g.p0) || decide (g.p0 + g.count ≤ p.1 / 4)) }))
      updTh (·.issueOut f.lk [])

/-- The tile that sPos names: its tile index, position and quarter (R126); none outside the tid's range. -/
def Core.tileAt (c : Core) (d : Desc) (tid : Nat) (sp : Word) : Option (Nat × Nat × Nat) :=
  match c.rangeOf tid with
  | none => none
  | some g =>
    let x := field sp 16 16 * descNblk d + field sp 0 16
    if x / quarters d < g.count then some (x, g.p0 + x / quarters d, x % quarters d) else none

/-- Reserved bits of sPos set (R126). -/
def sposWarn (sp : Word) : Bool := decide (sp.toNat / 2 ^ 34 ≠ 0)

/-! ### Operand queues (R129) -/

/-- A queue of a core. -/
def Core.queue (c : Core) (q : Nat) : OpQueue := c.queues.getD q .reset

def Core.setQueue (c : Core) (q : Nat) (x : OpQueue) : Core := { c with queues := c.queues.setIfInBounds q x }

/-- Free tail slots. -/
def OpQueue.free (q : OpQueue) : Nat := q.cap - q.count - q.resv.length

/-- The scratchpad offset of the tile with an absolute index. -/
def OpQueue.tileOff (q : OpQueue) (seq : Nat) : Nat := q.base + seq % q.cap * 0x800

/-- The absolute index of the next tail slot. -/
def OpQueue.tail (q : OpQueue) : Nat := q.head + q.count + q.resv.length

/-- Tiles become readable in the order of their reservation. -/
def OpQueue.settle (q : OpQueue) : OpQueue :=
  let n := (q.resv.takeWhile id).length
  { q with count := q.count + n, resv := q.resv.drop n }

/-- Whether the tile with an absolute index is readable. -/
def OpQueue.readable (q : OpQueue) (seq : Nat) : Bool := decide (seq < q.head + q.count)

/-- The index of the tile assigned to the next reader: H + p. -/
def OpQueue.assigned (q : OpQueue) : Nat := q.head + q.pops.length

/-- The entry of a tile that an operation was assigned and has given back, while a later one holds its own (R254). -/
def givenBack : Nat × Bool := (2 ^ 64, false)

/-- Tiles given back before the first one that an operation holds. -/
def OpQueue.backs (q : OpQueue) : Nat := (q.pops.takeWhile (fun p => decide (p = givenBack))).length

/-- Tiles given back behind which no operation holds one are assigned anew. -/
def OpQueue.trim (q : OpQueue) : OpQueue :=
  { q with pops := (q.pops.reverse.dropWhile (fun p => decide (p = givenBack))).reverse }

/-- The first tile that an operation holds retires, if its read has ended: those given back before it move up (DEDUCED, log
entry 33). -/
def State.retireOne (s : State) (rank q : Nat) : State :=
  let x := (s.core rank).queue q
  match x.pops.drop x.backs with
  | (_, true) :: rest =>
    let s := ((List.range x.backs).reverse).foldl (fun s k =>
      s.poke (scratchLoc rank (x.tileOff (x.head + k + 1))) 0x800 (s.peek (scratchLoc rank (x.tileOff (x.head + k))) 0x800)) s
    s.modCore rank (fun c => c.setQueue q { x with head := x.head + 1, count := x.count - 1, pops := x.pops.take x.backs ++ rest })
  | _ => s

/-- The assignments of a queue change, and tiles retire in assignment order: those whose reads have ended (R129). -/
def State.retire (s : State) (rank q : Nat) (f : List (Nat × Bool) → List (Nat × Bool)) : State :=
  let s := s.modCore rank (fun c => c.setQueue q { c.queue q with pops := f (c.queue q).pops })
  let s := ((s.core rank).queue q).pops.foldl (fun s _ => s.retireOne rank q) s
  s.modCore rank (fun c => c.setQueue q (c.queue q).trim)

/-- An operation's assignments that have not been read are given back. -/
def giveBack (id : Nat) (l : List (Nat × Bool)) : List (Nat × Bool) := l.map (fun p => if p = (id, false) then givenBack else p)

/-- A queue that has not been configured raises APERTURE (R129). -/
def needQueue (q : Nat) : M OpQueue := do
  let x := (← myCore).queue q
  if !x.cfg then raise .aperture (word q) 0
  return x

/-- Whether an instruction that names a queue and issued earlier on the core has not completed. -/
def Core.queueBusy (c : Core) (q : Nat) : Bool :=
  c.xfers.any (fun x => decide (x.queue = q)) || c.mops.any (fun m => decide (m.queue = q) && m.mit.isNone)

/-- The areas of scales, bitmaps and codebooks that an operation reads. -/
def MatOp.areas (m : MatOp) (rank aIndex : Nat) : List (Loc × Nat) :=
  let sh := shapeOf (descEt m.wDesc)
  operandAreas rank m.aDesc sh.m sh.k aIndex ++ operandAreas rank m.wDesc sh.n sh.k m.index

/-- What an operation reads when it issues: the scales and bitmaps of its tiles and the codebook, and of a matched binding
the tiles too (R103, R129, R225, R226). -/
def State.matArgs (s : State) (rank : Nat) (m : MatOp) (aTile aIndex wTile : Nat) (wsum : List Word) : MatArgs :=
  let sh := shapeOf (descEt m.wDesc)
  { a := aTile, w := wTile,
    aScale := s.record rank m.aDesc sh.m sh.k aIndex, wScale := s.record rank m.wDesc sh.n sh.k m.index,
    aMap := s.bitmap rank m.aDesc (sh.m * sh.k) aIndex, wMap := s.bitmap rank m.wDesc (sh.n * sh.k) m.index,
    wsum := wsum, aBook := 0, wBook := s.book rank m.wDesc }

/-- Reads the A tile of one operation, where it is readable. -/
def State.captureTile (s : State) (rank : Nat) (m : MatOp) : State :=
  let q := (s.core rank).queue m.queue
  match m.args with
  | some g =>
    if !m.read && q.readable m.seq then
      let l := scratchLoc rank (q.tileOff m.seq)
      let s := s.recall l 0x800
      s.modCore rank (fun c => { c with mops := c.mops.map (fun x =>
        if x.id = m.id then { x with read := true, args := some { g with a := s.look l 0x800 } } else x) })
    else s
  | none => s

/-- Reads the A tile of every waiting operation whose tile is readable, in issue order (R129). -/
def State.captureReady (s : State) (rank : Nat) : State :=
  (s.core rank).mops.foldl (fun s m => s.captureTile rank m) s

/-- Writes a tile into a reserved slot, which with those before it becomes readable. -/
def State.fillSlot (s : State) (b : Behalf) (rank q seq tile : Nat) : State :=
  let x := (s.core rank).queue q
  let l := scratchLoc rank (x.tileOff seq)
  let s := (s.recall l 0x800).store b l 0x800 tile
  (s.modCore rank (fun c => c.setQueue q (OpQueue.settle { x with resv := x.resv.set (seq - x.head - x.count) true }))).captureReady rank

/-- Reserves `n` tail slots of a queue. -/
def State.reserve (s : State) (rank q n : Nat) : State :=
  s.modCore rank (fun c => let x := c.queue q; c.setQueue q { x with resv := x.resv ++ List.replicate n false })

/-- Appends tiles to a queue that has room: reserved and written at once. -/
def State.appendTiles (s : State) (b : Behalf) (rank q : Nat) : List Nat → State
  | [] => s
  | t :: r =>
    let seq := ((s.core rank).queue q).tail
    (((s.reserve rank q 1).fillSlot b rank q seq t)).appendTiles b rank q r

/-- `qcfg` (R241). -/
def execQcfg (f : FmtX) : State → Result :=
  run do
    if 8 ≤ f.x.val then throw (.fault .illFormed)
    let t ← thread
    let q := f.x.val
    let ga := t.get f.y
    if ga.sb ≠ 0xF0 then raise .aperture ga.v 0
    if ga.v.toNat % 0x800 ≠ 0 then raise .misalign ga.v 0
    let cap := field (t.val f.z) 0 7
    let base := ga.v.toNat
    if cap = 0 ∨ 64 < cap ∨ base < 0x300000 ∨ 0x340000 < base + cap * 0x800 then raise .aperture ga.v 0
    let s ← get
    if s.pairing s.turn.rank && decide (0x33E000 < base + cap * 0x800) then raise .statWr ga.v 0
    if s.me.queueBusy q then stall
    upd (fun s => s.modMe (fun c => c.setQueue q
      { cfg := true, base := base, cap := cap, tid := field (t.val f.z) 8 8, head := 0, count := 0, resv := [], pops := [], dom := t.domid }))
    updTh (·.issueOut f.lk [.q q])

/-- A pointer to a slot of a queue in space 0xF0. -/
def slotPtr (q : OpQueue) (seq : Nat) : Ptr := { sb := 0xF0, v := word (q.tileOff seq) }

/-- `qhead` and `qtail` (R242). -/
def queuePtr (f : FmtX) (g : OpQueue → Nat) : State → Result :=
  run do
    if 8 ≤ f.y.val then throw (.fault .illFormed)
    let q ← needQueue f.y.val
    if (← myCore).queueBusy f.y.val then stall
    updTh (fun t => (t.put f.x (slotPtr q (g q))).issueOut f.lk [.s f.x])

def execQhead (f : FmtX) : State → Result := queuePtr f (·.head)
def execQtail (f : FmtX) : State → Result := queuePtr f (·.tail)

/-- `qpop` (R243). -/
def execQpop (f : FmtX) : State → Result :=
  run do
    if 8 ≤ f.y.val then throw (.fault .illFormed)
    let q ← needQueue f.y.val
    let k := field ((← thread).val f.z) 0 7
    if q.cap < k then raise .aperture (word k) 0
    if (← myCore).queueBusy f.y.val || decide (q.count < k) then stall
    upd (fun s => s.modMe (fun c => c.setQueue f.y.val { q with head := q.head + k, count := q.count - k }))
    updTh (fun t => (t.putInt f.x (word (q.count - k))).issueOut f.lk [.s f.x, .q f.y.val])

/-- `qpush` (R244). -/
def execQpush (f : FmtX) : State → Result :=
  run do
    if 8 ≤ f.x.val then throw (.fault .illFormed)
    let q ← needQueue f.x.val
    let ga := (← thread).get f.y
    let off ← scratchGa ga 0x800 0x800 1
    if q.free = 0 then stall
    let s ← get
    let tile ← readAt ga (scratchLoc s.turn.rank off) 0x800 1
    upd (fun s => s.appendTiles s.behalf s.turn.rank f.x.val [tile])
    updTh (·.issueOut f.lk [.q f.x.val])

/-! ### Replacing and reading stationary tiles (R231, R232) -/

/-- Whether a tid is that of a mitten binding of the thread (R123, R231; DEDUCED, log entry 28). -/
def Thread.mittenTid (t : Thread) (tid : Nat) : Bool :=
  t.accs.toList.any (fun a => bit a.bind 23 && bit a.bind 19 && decide (field a.bind 8 8 = tid))

/-- The tile that a `mwr` or `mrd` names. -/
def namedTile (tid : Nat) (d : Desc) (sp : Word) : M (Nat × Nat × Nat) := do
  match (← myCore).tileAt d tid sp with
  | some x => return x
  | none => raise .aperture sp 0

/-- Puts an operation on its macro's queue; a popping one counts on its operand queue. -/
def State.enqueueOp (s : State) (m : MatOp) : State :=
  (s.modMe (fun c =>
    let q := c.queue m.queue
    let c := { c with nextId := c.nextId + 1, mops := c.mops ++ [m] }
    if m.pop then c.setQueue m.queue { q with pops := q.pops ++ [(m.id, false)] } else c)).captureReady s.turn.rank

/-- The arguments of an operation that has read nothing yet. -/
def noArgs : MatArgs := { a := 0, w := 0, aScale := 0, wScale := 0, aMap := 0, wMap := 0, wsum := [], aBook := 0, wBook := 0 }

/-- `mwr` (R231): the source is read or assigned at issue, and the write waits its turn on the tile's macro. Its TVAL for a
mitten tile is the tid (DESIGN CHOICE, log entry 29). -/
def execMwr (f : FmtX) : State → Result :=
  run do
    let t ← thread
    let src := nbit f.fl.val 0
    if !src && decide (8 ≤ f.z.val) then throw (.fault .illFormed)
    if !src then do let _ ← needQueue f.z.val
    let tid := tidOf (t.val f.x)
    let d ← validSnapshot tid
    if t.mittenTid tid then raise .statWr (word tid) 0
    let x ← namedTile tid d (t.val f.y)
    let s ← get
    if s.pairing s.turn.rank && decide (1532 ≤ x.2.1) then raise .statWr (word tid) 0
    let tile ← if src then do
        let off ← scratchGa (t.get f.z) 0x800 0x800 1
        readAt (t.get f.z) (scratchLoc s.turn.rank off) 0x800 1
      else pure 0
    let q := s.me.queue f.z.val
    let m : MatOp :=
      { id := s.me.nextId, slot := s.turn.slot, acc := 0, kind := .write, aDesc := 0, wDesc := d, wTid := tid, mit := none,
        pos := x.2.1, quarter := 0, index := 0, queue := if src then 8 else f.z.val, seq := q.assigned,
        pop := !src && nbit f.fl.val 1, qd := 0, record := none, sent := false, bar := none, dead := none,
        executing := false, read := src, args := some { noArgs with a := tile } }
    upd (fun s => s.enqueueOp m)
    updTh (fun t => (t.warnIf .fmt (sposWarn (t.val f.y))).issueWaiting f.lk
      [.mem (scratchLoc s.turn.rank (x.2.1 * 0x800)).key 0x800] (.op m.id))

/-- `mrd` (R232). -/
def execMrd (f : FmtX) : State → Result :=
  run do
    let t ← thread
    let dst := nbit f.fl.val 0
    if !dst && decide (8 ≤ f.z.val) then throw (.fault .illFormed)
    if !dst then do let _ ← needQueue f.z.val
    let tid := tidOf (t.val f.x)
    let d ← validSnapshot tid
    let x ← namedTile tid d (t.val f.y)
    if (← myCore).mops.any (fun m => decide (m.kind = .write) && decide (m.pos / 48 = x.2.1 / 48)) then stall
    let s ← get
    let tile := s.look (scratchLoc s.turn.rank (x.2.1 * 0x800)) 0x800
    if dst then
      let off ← scratchGa (t.get f.z) 0x800 0x800 2
      writeAt (t.get f.z) (scratchLoc s.turn.rank off) 0x800 tile 2
    else
      if (s.me.queue f.z.val).free = 0 then stall
      upd (fun s => s.appendTiles s.behalf s.turn.rank f.z.val [tile])
    updTh (fun t => (t.warnIf .fmt (sposWarn (t.val f.y))).issueOut f.lk (if dst then [] else [.q f.z.val]))

end Sys2Proof.Machine
end

