-- ==== Sys2Proof/Machine/Tiles.lean ====
section
/-!
DEFINITION. Band tiles and the slots that carry them: the header with its code and copies, the rings of a band, and the band
cycle (R138-R141).
-/

namespace Sys2Proof.Machine

/-- The `n` bytes at an offset of a little-endian image. -/
def bytesAt (x o n : Nat) : Nat := x / 256 ^ o % 256 ^ n

/-! ### Headers (R140, R141) -/

/-- A header as software sees it: HECC and the copies read zero (R140). -/
def Tile.header (x : Tile) : Nat :=
  x.pmask.toNat * 2 ^ 256 + x.chk.toNat * 2 ^ 224 + x.tid * 2 ^ 216 + x.idx * 2 ^ 208 + x.orig * 2 ^ 204
    + x.lapLim * 2 ^ 201 + x.lapCnt * 2 ^ 198 + x.set * 2 ^ 195 + ofBool (decide (x.fam = .ccw)) * 2 ^ 194
    + ofBool x.bcast * 2 ^ 193

/-- {ORIG, SET, FAM, KIND} of the header fields, one of the three copies of that value. -/
def Tile.ident (x : Tile) : BitVec 9 :=
  BitVec.ofNat 9 (x.orig * 2 ^ 5 + x.set * 2 ^ 2 + ofBool (decide (x.fam = .ccw)) * 2 + ofBool x.bcast)

/-- HECC of a header: a code over its bits 511 to 176, whose symbols the manual does not give (DESIGN CHOICE, log entry 19). -/
def Tile.code (x : Tile) : BitVec 16 := Config.headerCode (BitVec.ofNat 336 (x.header / 2 ^ 176))

/-- A tile whose header has just been built: its code and both copies fit its fields. -/
def Tile.sealed (x : Tile) : Tile := { x with hecc := x.code, copy1 := x.ident, copy2 := x.ident }

/-- A tile after the band port has written PMASK or LAPCNT: the code follows, the copies stand. -/
def Tile.recoded (x : Tile) : Tile := { x with hecc := x.code }

/-- The value on which two of the three copies agree (R141). -/
def Tile.vote (x : Tile) : Option (BitVec 9) :=
  if x.ident = x.copy1 ∨ x.ident = x.copy2 then some x.ident
  else if x.copy1 = x.copy2 then some x.copy1
  else none

/-- A tile with the fields that a vote names. -/
def Tile.named (x : Tile) (v : BitVec 9) : Tile :=
  { x with orig := v.toNat / 32, set := v.toNat / 4 % 8, fam := if v.getLsbD 1 then .ccw else .cw, bcast := v.getLsbD 0 }

/-- Whether a payload fits its CHK. -/
def Tile.intact (x : Tile) : Bool := decide (crc32c 2048 x.payload = x.chk.toNat)

/-! ### Slots and cycles (R138) -/

/-- Whether a family moves at a band cycle. -/
def movesAt (fam : Family) (t : Nat) : Bool :=
  match fam with
  | .cw => decide (t % 4 = 0)
  | .ccw => decide (t % 4 = 2)

/-- The dwell slots of a family. -/
def Band.ring (b : Band) (fam : Family) : Vector (Option Tile) 16 :=
  match fam with
  | .cw => b.cw
  | .ccw => b.ccw

def Band.setRing (b : Band) (fam : Family) (r : Vector (Option Tile) 16) : Band :=
  match fam with
  | .cw => { b with cw := r }
  | .ccw => { b with ccw := r }

/-- Whether nothing moves on a band and nothing waits to enter it. -/
def Band.idle (b : Band) : Bool :=
  b.cw.toList.all (·.isNone) && b.ccw.toList.all (·.isNone) && decide (b.pend = [])

/-- The band cycle of a band: CYCLE.COUNT less its time in thermal hold (R138). -/
def State.bandNow (s : State) (b : Nat) : Nat := s.cycle.toNat - (s.band b).hold

/-- The band cycle that an idle band has reached: it moves nothing, so its steps are taken at once. -/
def State.syncBand (s : State) (b : Nat) : State :=
  let z := s.band b
  if z.idle then s.modBand b (fun z => { z with cycle := max z.cycle (s.bandNow b / 2 * 2), free := [] }) else s

end Sys2Proof.Machine
end

