-- ==== Sys2Proof/Machine/VectorArith.lean ====
section
/-!
DEFINITION. Vector arithmetic: vbasic, vmac and vbit (R202-R204).
-/

namespace Sys2Proof.Machine

/-- F and I (R201). -/
def etFI (t : ElemType) : Bool := t.isF || t.isI

/-- F and I except ui8. -/
def etFma (t : ElemType) : Bool := t.isF || (t.isI && decide (t ≠ .u8))

/-- F, N and I: every type but cb2. -/
def etAllButCb2 (t : ElemType) : Bool := decide (t ≠ .cb2)

/-- Floating by one function, integer by another, exact before narrowing. -/
def numeric (gf : Fmt → Mode → Nat → Nat → Nat → Nat × Flags) (gi : Int → Int → Int → Int) : VOp :=
  fun ty m sat a b c =>
    match ty with
    | .float F => gf F m a b c
    | _ => (ty.narrow sat (gi (ty.toInt a) (ty.toInt b) (ty.toInt c)), 0)

def execVadd (f : FmtV) : State → Result :=
  vop (.vadd f) f etFI mdRS (numeric (fun F m a b _ => fpAdd F m a b) (fun a b _ => a + b))
def execVsub (f : FmtV) : State → Result :=
  vop (.vsub f) f etFI mdRS (numeric (fun F m a b _ => fpSub F m a b) (fun a b _ => a - b))
def execVmul (f : FmtV) : State → Result :=
  vop (.vmul f) f etFI mdRS (numeric (fun F m a b _ => fpMul F m a b) (fun a b _ => a * b))
def execVmin (f : FmtV) : State → Result :=
  vop (.vmin f) f etFI mdNone (numeric (fun F _ a b _ => F.minmax false a b) (fun a b _ => min a b))
def execVmax (f : FmtV) : State → Result :=
  vop (.vmax f) f etFI mdNone (numeric (fun F _ a b _ => F.minmax true a b) (fun a b _ => max a b))

/-- An arithmetic change of sign: a NaN delivers the canonical NaN, a signalling one raises NV (R202). -/
def signOp (g : Nat → Nat) (F : Fmt) (a : Nat) : Nat × Flags :=
  match F.value a with
  | .nan s => (F.nanCode, if s then flagNV else 0)
  | _ => (a % 2 ^ (F.eb + F.fb) + g (a / 2 ^ (F.eb + F.fb) % 2) * 2 ^ (F.eb + F.fb), 0)

def execVabs (f : FmtV) : State → Result :=
  vop (.vabs f) f etFI mdS (numeric (fun F _ a _ _ => signOp (fun _ => 0) F a) (fun a _ _ => (a.natAbs : Int)))
def execVneg (f : FmtV) : State → Result :=
  vop (.vneg f) f etFI mdS (numeric (fun F _ a _ _ => signOp (fun s => 1 - s) F a) (fun a _ _ => 0 - a))
def execVsgnj (f : FmtV) : State → Result :=
  vop (.vsgnj f) f ElemType.isF mdNone (numeric (fun F _ a b _ => (signInject false F a b, 0)) (fun a _ _ => a))

/-! ### Multiply-add, widening and dot products (R203) -/

/-- The fused forms: +-(a x b) +- c. -/
def fused (np nc : Bool) : VOp :=
  numeric (fun F m a b c => fpFma F np nc m a b c)
    (fun a b c => (if np then -(a * b) else a * b) + (if nc then -c else c))

def execVfma (f : FmtV) : State → Result := vop (.vfma f) f etFma mdRS (fused false false)
def execVfms (f : FmtV) : State → Result := vop (.vfms f) f etFma mdRS (fused false true)
def execVfnma (f : FmtV) : State → Result := vop (.vfnma f) f etFma mdRS (fused true false)

/-- The destination type of a pair (R203). -/
def pairType (t : ElemType) : Option ElemType :=
  match t with
  | .float f => if f = bf16 ∨ f = f16 then some (.float f32) else if f = f32 then some (.float f64) else none
  | .int w => if w = 8 ∨ w = 16 ∨ w = 32 then some (.int (2 * w)) else none
  | .cb2 => none | .u8 => none

/-- The destination type of a quad (R203). -/
def quadType (t : ElemType) : Option ElemType :=
  match t with
  | .float f => if f = e4m3 ∨ f = e5m2 then some (.float f32) else none
  | .int w => if w = 8 then some (.int 32) else none
  | .cb2 => none | .u8 => none

/-- a x b + c across types: products and sums exact, one rounding or narrowing in the destination type (R72). -/
def wideFma (src dst : ElemType) (m : Mode) (sat : Bool) (a b c : Nat) : Nat × Flags :=
  match src, dst with
  | .float F, .float G =>
    let x := Num.fma (m == 3) (F.value a) (F.value b) (G.value c)
    let r := G.round m x.1 0
    (r.1, x.2 ||| r.2)
  | _, _ => (dst.narrow sat (src.toInt a * src.toInt b + dst.toInt c), 0)

/-- a x b across types. -/
def wideMul (src dst : ElemType) (m : Mode) (sat : Bool) (a b _c : Nat) : Nat × Flags :=
  match src, dst with
  | .float F, .float G =>
    let x := Num.mul (F.value a) (F.value b)
    let r := G.round m x.1 0
    (r.1, x.2 ||| r.2)
  | _, _ => (dst.narrow sat (src.toInt a * src.toInt b), 0)

/-- A widening member: a destination group of k registers, or the non-widening form in a 64-bit type with WARN.ETC
(R162, R197, R203). -/
def widening (i : Instr) (f : FmtV) (k : Nat) (dst : ElemType → Option ElemType) (plain : VOp)
    (g : ElemType → ElemType → Mode → Bool → Nat → Nat → Nat → Nat × Flags) : State → Result :=
  run do
    let src := elemType f.et
    if src = .float f64 ∨ src = .int 64 then
      elementwise f mdRS plain
      updTh (·.warnBit .etc)
    else match dst src with
      | none => illegal i
      | some d => do
        let t ← thread
        let m := mdRS.choose t src f.md
        let base := groupBase f.vd k
        let old := groupElems d k src.count (t.group base k)
        let r := merged (maskBits (t.governing f.msk) src.count) old
          (zip3 (g src d m.1 m.2.1) (src.elems (t.vget f.va)) (src.elems (t.vget f.vb)) old)
        fpWrite r.2 (fun t => t.putGroup base (groupRegs d k r.1))
        updTh (fun t => (((t.warnIf .fmt m.2.2).warnIf .align (decide (base ≠ f.vd.val))).warnIf .ovlp
          (inGroup base k f.va || inGroup base k f.vb)))

def execVwmul (f : FmtV) : State → Result :=
  widening (.vwmul f) f 2 pairType (numeric (fun F m a b _ => fpMul F m a b) (fun a b _ => a * b)) wideMul
def execVwfma (f : FmtV) : State → Result := widening (.vwfma f) f 2 pairType (fused false false) wideFma
def execVqfma (f : FmtV) : State → Result := widening (.vqfma f) f 4 quadType (fused false false) wideFma

/-- The exact sum of products q of two lists and an addend, as a value with its flags. -/
def dotSum (zneg : Bool) (F : Fmt) : List Nat → List Nat → Num × Flags → Num × Flags
  | a :: as, b :: bs, acc =>
    let p := Num.mul (F.value a) (F.value b)
    let x := Num.add zneg acc.1 p.1
    dotSum zneg F as bs (x.1, acc.2 ||| p.2 ||| x.2)
  | _, _, acc => acc

/-- Consecutive runs of q. -/
def runsOf (q : Nat) : Nat → List Nat → List (List Nat)
  | 0, _ => []
  | n + 1, l => l.take q :: runsOf q n (l.drop q)

/-- A dot of q elements added to one element of the destination type (R72, R203). -/
def dotElem (src dst : ElemType) (m : Mode) (sat : Bool) (as bs : List Nat) (c : Nat) : Nat × Flags :=
  match src, dst with
  | .float F, .float G =>
    let x := dotSum (m == 3) F as bs (G.value c, if (G.value c).isSnan then flagNV else 0)
    let r := G.round m x.1 0
    (r.1, x.2 ||| r.2)
  | _, _ => (dst.narrow sat (((as.zip bs).map (fun p => src.toInt p.1 * src.toInt p.2)).sum + dst.toInt c), 0)

/-- The results of a dot product over runs. -/
def dots (g : List Nat → List Nat → Nat → Nat × Flags) : List (List Nat) → List (List Nat) → List Nat → List (Nat × Flags)
  | a :: as, b :: bs, c :: cs => g a b c :: dots g as bs cs
  | _, _, _ => []

/-- The types of vdot2: bf16, f16, i16. -/
def dot2Type (t : ElemType) : Option ElemType :=
  match t with
  | .float f => if f = bf16 ∨ f = f16 then some (.float f32) else none
  | .int w => if w = 16 then some (.int 32) else none
  | .cb2 => none | .u8 => none

/-- vdot2 and vdot4 (R203): 128 destination elements, each governed by its own mask bit. -/
def dot (i : Instr) (f : FmtV) (q : Nat) (dst : ElemType → Option ElemType) : State → Result :=
  run do
    let src := elemType f.et
    match dst src with
    | none => illegal i
    | some d => do
      let t ← thread
      let m := mdRS.choose t src f.md
      let old := d.elems (t.vget f.vd)
      let r := merged (maskBits (t.governing f.msk) d.count) old
        (dots (dotElem src d m.1 m.2.1) (runsOf q d.count (src.elems (t.vget f.va)))
          (runsOf q d.count (src.elems (t.vget f.vb))) old)
      fpWrite r.2 (fun t => t.vput f.vd (d.reg r.1))
      updTh (·.warnIf .fmt m.2.2)

def execVdot2 (f : FmtV) : State → Result := dot (.vdot2 f) f 2 dot2Type
def execVdot4 (f : FmtV) : State → Result := dot (.vdot4 f) f 4 quadType

/-! ### Bitwise, shifts, saturating arithmetic (R204) -/

/-- A member on the element's bits. -/
def bitsOp (g : ElemType → Nat → Nat → Nat) : VOp := fun ty _ _ a b _ => (g ty a b, 0)

def execVand (f : FmtV) : State → Result := vop (.vand f) f etAllButCb2 mdNone (bitsOp (fun _ a b => a &&& b))
def execVor (f : FmtV) : State → Result := vop (.vor f) f etAllButCb2 mdNone (bitsOp (fun _ a b => a ||| b))
def execVxor (f : FmtV) : State → Result := vop (.vxor f) f etAllButCb2 mdNone (bitsOp (fun _ a b => a ^^^ b))

/-- The shift amount: the low log2(w) bits of vb's element. -/
def shiftAmount (ty : ElemType) (b : Nat) : Nat := b % ty.memBits

def execVsll (f : FmtV) : State → Result :=
  vop (.vsll f) f ElemType.isI mdNone (bitsOp (fun ty a b => a * 2 ^ shiftAmount ty b % 2 ^ ty.memBits))
def execVsrl (f : FmtV) : State → Result :=
  vop (.vsrl f) f ElemType.isI mdNone (bitsOp (fun ty a b => a / 2 ^ shiftAmount ty b))
def execVsra (f : FmtV) : State → Result :=
  vop (.vsra f) f ElemType.isI mdNone (bitsOp (fun ty a b => intBits ty.memBits (ty.toInt a / (2 ^ shiftAmount ty b : Nat))))
def execVadds (f : FmtV) : State → Result :=
  vop (.vadds f) f ElemType.isI mdNone (bitsOp (fun ty a b => ty.narrow true (ty.toInt a + ty.toInt b)))
def execVsubs (f : FmtV) : State → Result :=
  vop (.vsubs f) f ElemType.isI mdNone (bitsOp (fun ty a b => ty.narrow true (ty.toInt a - ty.toInt b)))

end Sys2Proof.Machine
end

