-- ==== Sys2Proof/Machine/VectorConvert.lean ====
section
/-!
DEFINITION. Conversion, block quantisation, codebook decoding and special functions (R207-R213, R50-R53, R64-R67).
-/

namespace Sys2Proof.Machine

/-! ### vcvt (R207, R208) -/

/-- One element of a conversion; u is the draw of SR. -/
def convertElem (src dst : ElemType) (m : Mode) (sat : Bool) (u a : Nat) : Nat × Flags :=
  match src, dst with
  | .float F, .float G => G.convert m sat (F.value a) u
  | .float F, _ =>
    let r := toInteger m dst.least dst.greatest (F.value a) u
    (intBits dst.memBits r.1, r.2)
  | _, .float G => G.convert m sat (Num.ofInt (src.toInt a)) u
  | _, _ => (dst.narrow sat (src.toInt a), 0)

/-- The conversions of a list, with one draw for each active element under SR (R56): results, the generator after. -/
def convertAll (g : Nat → Nat → Nat × Flags) (sr : Bool) : List Bool → List Nat → Word → List (Nat × Flags) × Word
  | act :: as, x :: xs, seed =>
    let seed' := if sr && act then srNext seed else seed
    let r := convertAll g sr as xs seed'
    ((if act then g (if sr then seed'.toNat / 2 ^ 32 else 0) x else (0, 0)) :: r.1, r.2)
  | _, _, seed => ([], seed)

/-- `vcvt` (R207). -/
def execVcvt (f : FmtVcvt) : State → Result :=
  run do
    let src := elemType f.et
    let dst := elemType f.det
    if src = .cb2 ∨ dst = .cb2 then illegal (.vcvt f)
    let ns := src.count
    let nd := dst.count
    if 4 * nd < ns then illegal (.vcvt f)
    let t ← thread
    let act := maskBits (t.governing f.msk) ns
    let fmtWarn := decide (f.md ≠ 0) || decide (f.rm.val = 6)
    if src = dst then
      updTh (fun t => ((t.vput f.vd (src.reg (merged act (src.elems (t.vget f.vd))
        ((src.elems (t.vget f.va)).map (fun x => (x, 0)))).1)).warnBit .etc).warnIf .fmt fmtWarn)
    else
      let m := t.effMode f.rm.val true
      let c := convertAll (convertElem src dst m.1 f.sat) (decide (m.1 = 5)) act (src.elems (t.vget f.va)) t.srseed
      if ns ≤ nd then
        let r := merged act ((dst.elems (t.vget f.vd)).take ns) c.1
        fpWrite r.2 (fun t => (t.vput f.vd (dst.reg r.1)).seeded (decide (m.1 = 5)) c.2)
        updTh (·.warnIf .fmt fmtWarn)
      else
        let k := ns / nd
        let base := groupBase f.vd k
        let r := merged act (groupElems dst k ns (t.group base k)) c.1
        fpWrite r.2 (fun t => (t.putGroup base (groupRegs dst k r.1)).seeded (decide (m.1 = 5)) c.2)
        updTh (fun t => ((t.warnIf .fmt fmtWarn).warnIf .align (decide (base ≠ f.vd.val))).warnIf .ovlp (inGroup base k f.va))

/-! ### Quantised registers (R209) -/

/-- The wide type of the vb code; 3 is reserved. -/
def wideType (c : Nat) : Option Fmt :=
  match c with
  | 0 => some f32 | 1 => some bf16 | 2 => some f16 | _ => none

/-- The block size of a block form, and whether its scale is E8M0; 5-7 are reserved. -/
def blockForm (c : Nat) : Option (Nat × Bool) :=
  match c with
  | 0 => some (32, true) | 1 => some (32, false) | 2 => some (64, false) | 3 => some (128, false) | 4 => some (256, false)
  | _ => none

/-- The narrow types of vqnt and vdqnt. -/
def narrowOk (t : ElemType) : Bool :=
  match t with
  | .float f => decide (f = e4m3 ∨ f = e5m2 ∨ f = e3m2 ∨ f = e2m3 ∨ f = e2m1)
  | .int w => decide (w = 8 ∨ w = 4)
  | .cb2 => false | .u8 => false

/-- The checks of a vqnt or vdqnt word: wide type, block size, E8M0. -/
def quantForm (f : FmtVl) : Option (Fmt × Nat × Bool) :=
  match wideType (f.vb.val / 8), blockForm (f.vb.val % 8) with
  | some w, some (b, mx) =>
    let ty := elemType f.et
    if narrowOk ty && decide (b ≤ (ElemType.float w).count) && !(mx && ty.isI) then some (w, b, mx) else none
  | _, _ => none

/-- The scale bytes of a register from byte 480. -/
def scaleCode (x : VReg) (mx : Bool) (b : Nat) : Nat :=
  if mx then x.toNat / 2 ^ (8 * (480 + b)) % 2 ^ 8 else x.toNat / 2 ^ (8 * (480 + 4 * b)) % 2 ^ 32

/-- EmaxElem of a target (R64). -/
def emaxElem (f : Fmt) : Int := if f = e4m3 then 8 else if f = e5m2 then 15 else if f = e3m2 then 4 else 2

/-- The greatest magnitude of a list of finite values. -/
def amax : List Num → Num
  | [] => .fin false 0 0
  | x :: t =>
    let y := amax t
    let a := match x with
      | .fin _ m e => Num.fin false m e
      | v => v
    if Num.lt y a then a else y

/-- x x 2^-k. -/
def scaleDown (k : Int) (x : Num) : Num :=
  match x with
  | .fin n m e => .fin n m (e - k)
  | v => v

/-- One element under an E8M0 scale of exponent k: rounded, saturating (R64). -/
def quantMx (F : Fmt) (m : Mode) (k : Int) (u : Nat) (x : Num) : Nat × Flags := F.convert m true (scaleDown k x) u

/-- Qmax of a target (R64). -/
def qmaxOf (ty : ElemType) : Num :=
  match ty with
  | .float F => F.value F.maxCode
  | _ => Num.ofInt ty.greatest

/-- One element under an FP32 scale: one rounding of the exact quotient (R64). -/
def quantFp32 (ty : ElemType) (m : Mode) (s : Num) (u : Nat) (x : Num) : Nat × Flags :=
  match x, s with
  | .fin n a e, .fin _ b g =>
    match ty with
    | .float F =>
      if a = 0 then (F.signed n 0, 0)
      else
        let q := quotient n a e false b g
        F.roundMag m true q.neg q.m q.e q.sticky u
    | _ =>
      if a = 0 then (0, 0)
      else
        let q := quotient n a e false b g
        let r := roundAt m q.neg q.m q.e q.sticky 0 u
        (intBits ty.memBits (if q.neg then -(r.1 : Int) else (r.1 : Int)), if r.2 then flagNX else 0)
  | _, _ => (0, 0)

/-- A block: its elements with flags, its scale code (R64, R65). `g` is the element function under a scale. -/
def quantBlock (ty : ElemType) (mx : Bool) (m : Mode) (us : List Nat) (xs : List Num) : List (Nat × Flags) × Nat :=
  if xs.any (fun x => match x with | .fin _ _ _ => false | _ => true) then
    (xs.map (fun _ => (0, flagNV)), if mx then 0xFF else 0x7FC00000)
  else
    match amax xs with
    | .fin _ 0 _ => (xs.map (fun _ => (0, 0)), if mx then 0x7F else 0x3F800000)
    | .fin _ a e =>
      if mx then
        match ty with
        | .float F =>
          let k := max ((Nat.log2 a : Int) + e - emaxElem F) (-127)
          ((us.zip xs).map (fun p => quantMx F m k p.1 p.2), (k + 127).toNat)
        | _ => ([], 0)
      else
        match qmaxOf ty with
        | .fin _ b g =>
          let s := f32.roundApprox 2 (quotient false a e false b g) 0
          ((us.zip xs).map (fun p => quantFp32 ty m (f32.value s.1) p.1 p.2), s.1)
        | _ => ([], 0)
    | _ => ([], 0)

/-- The draws of n elements: their values, the generator after (R56). -/
def draws : Nat → Word → List Nat × Word
  | 0, s => ([], s)
  | n + 1, s =>
    let s' := srNext s
    let r := draws n s'
    (s'.toNat / 2 ^ 32 :: r.1, r.2)

/-- The blocks of a list, quantised in order. -/
def quantBlocks (ty : ElemType) (mx : Bool) (m : Mode) : List (List Nat) → List (List Num) → List (Nat × Flags) × List Nat
  | u :: us, x :: xs =>
    let b := quantBlock ty mx m u x
    let r := quantBlocks ty mx m us xs
    (b.1 ++ r.1, b.2 :: r.2)
  | _, _ => ([], [])

/-- Consecutive runs of q of any list. -/
def chunks {α : Type} (q : Nat) : Nat → List α → List (List α)
  | 0, _ => []
  | n + 1, l => l.take q :: chunks q n (l.drop q)

/-- `vqnt` (R210). -/
def execVqnt (f : FmtVl) : State → Result :=
  run do
    match quantForm f with
    | none => illegal (.vqnt f)
    | some (w, b, mx) =>
      let t ← thread
      let ty := elemType f.et
      let wt := ElemType.float w
      let m := t.effMode 7 true
      let sr := decide (m.1 = 5)
      let d := if sr then draws wt.count t.srseed else (List.replicate wt.count 0, t.srseed)
      let r := quantBlocks ty mx m.1 (chunks b (wt.count / b) d.1)
        (chunks b (wt.count / b) ((wt.elems (t.vget f.va)).map w.value))
      let fl := r.1.foldl (fun x p => x ||| p.2) 0
      let img := pack ty.regBits (r.1.map (·.1)) + pack (if mx then 8 else 32) r.2 * 2 ^ 3840
      updTh (fun t => t.fpIssue f.lk [.v f.vd] fl (fun t => (t.vput f.vd (BitVec.ofNat 4096 img)).seeded sr d.2))

/-- The FP32 scales of a register, or the index of the first that fails. -/
def scales (x : VReg) (mx : Bool) : Nat → Nat → Except Nat (List Num)
  | _, 0 => .ok []
  | b, n + 1 =>
    match if mx then some (e8m0 (scaleCode x mx b)) else fp32Scale (scaleCode x mx b) with
    | none => .error b
    | some v =>
      match scales x mx (b + 1) n with
      | .ok r => .ok (v :: r)
      | .error e => .error e

/-- An element's value times its scale, rounded once (R66). -/
def dequant (w : Fmt) (m : Mode) (x s : Num) : Nat × Flags :=
  let p := Num.mul x s
  let r := w.round m p.1 0
  (r.1, p.2 ||| r.2)

/-- The value of a narrow element. -/
def ElemType.value (ty : ElemType) (x : Nat) : Num :=
  match ty with
  | .float F => F.value x
  | _ => Num.ofInt (ty.toInt x)

/-- `vdqnt` (R211). -/
def execVdqnt (f : FmtVl) : State → Result :=
  run do
    match quantForm f with
    | none => illegal (.vdqnt f)
    | some (w, b, mx) =>
      let t ← thread
      let ty := elemType f.et
      let wt := ElemType.float w
      let m := t.effMode 7 false
      let src := t.vget f.va
      match scales src mx 0 (wt.count / b) with
      | .error k => updTh (·.issueTrap f.lk [.v f.vd] .scale (word k) 0)
      | .ok ss =>
        let xs := chunks b (wt.count / b) ((ty.elems src).take wt.count)
        let r := ((xs.zip ss).map (fun p => p.1.map (fun x => dequant w m.1 (ty.value x) p.2))).flatten
        updTh (fun t => t.fpIssue f.lk [.v f.vd] (r.foldl (fun x p => x ||| p.2) 0)
          (fun t => (t.vput f.vd (wt.reg (r.map (·.1)))).warnIf .fmt m.2))

/-! ### Codebooks (R52, R53, R212) -/

/-- The block size of vcbdec's block code; 0 is scale 1.0. -/
def cbBlock (c : Nat) : Option Nat :=
  match c with
  | 0 => none | 1 => some 32 | 2 => some 64 | _ => some 128

/-- `vcbdec` (R212). -/
def execVcbdec (f : FmtVl) : State → Result :=
  run do
    match wideType (f.vb.val / 8) with
    | none => illegal (.vcbdec f)
    | some w =>
      if elemType f.et ≠ .cb2 then illegal (.vcbdec f)
      let t ← thread
      let wt := ElemType.float w
      let m := t.effMode 7 false
      let src := t.vget f.va
      let tbl := nbit f.vb.val 2
      let table := if tbl then (t.vget 30).toNat + (t.vget 31).toNat * 2 ^ 4096 else pack 32 resetCodebook
      let ss := match cbBlock (f.vb.val % 4) with
        | none => Except.ok []
        | some b => scales src false 0 (wt.count / b)
      match ss with
      | .error k => updTh (·.issueTrap f.lk [.v f.vd] .scale (word k) 0)
      | .ok l =>
        let one := Num.fin false 1 0
        let r := (List.range wt.count).map (fun i =>
          let s := match cbBlock (f.vb.val % 4) with
            | none => one
            | some b => l.getD (i / b) one
          dequant w m.1 (codeWeight table (ElemType.cb2.elem src (i / 8)) (i % 8)) s)
        updTh (fun t => t.fpIssue f.lk [.v f.vd] (r.foldl (fun x p => x ||| p.2) 0)
          (fun t => ((t.vput f.vd (wt.reg (r.map (·.1)))).warnIf .fmt m.2).warnIf .ovlp (tbl && decide (30 ≤ f.vd.val))))

/-! ### Special functions (R213) -/

/-- The functions without an FP64 form take the fallback of R162: rounded to FP32 in RNE, computed there, widened. -/
def viaSingle (g : Fmt → Num → Nat × Flags) (a : Nat) : Nat × Flags :=
  let n := f32.convert 0 false (f64.value a) 0
  let r := g f32 (f32.value n.1)
  ((f64.convert 0 false (f32.value r.1) 0).1, n.2 ||| r.2)

/-- A member of vsfn on every element. -/
def special (i : Instr) (f : FmtVl) (double : Bool) (g : Fmt → Mode → Num → Num → Nat × Flags) : State → Result :=
  run do
    match elemType f.et with
    | .float F =>
      if !(ElemType.float F).isF then illegal i
      let t ← thread
      let ty := ElemType.float F
      let m := t.effMode 7 false
      let etc := decide (F = f64) && !double
      let r := ((ty.elems (t.vget f.va)).zip (ty.elems (t.vget f.vb))).map (fun p =>
        if etc then viaSingle (fun G x => g G m.1 x x) p.1 else g F m.1 (F.value p.1) (F.value p.2))
      updTh (fun t => t.fpIssue f.lk [.v f.vd] (r.foldl (fun x p => x ||| p.2) 0)
        (fun t => ((t.vput f.vd (ty.reg (r.map (·.1)))).warnIf .fmt m.2).warnIf .etc etc))
    | _ => illegal i

def execVexp2 (f : FmtVl) : State → Result := special (.vexp2 f) f false (fun G m x _ => G.special m .exp2 x)
def execVlog2 (f : FmtVl) : State → Result := special (.vlog2 f) f false (fun G m x _ => G.special m .log2 x)
def execVrcp (f : FmtVl) : State → Result := special (.vrcp f) f true (fun G m x _ => G.special m .rcp x)
def execVrsqrt (f : FmtVl) : State → Result := special (.vrsqrt f) f true (fun G m x _ => G.special m .rsqrt x)
def execVsqrt (f : FmtVl) : State → Result := special (.vsqrt f) f true (fun G m x _ => G.special m .sqrt x)
def execVdiv (f : FmtVl) : State → Result := special (.vdiv f) f true (fun G m x y => G.div m x y)
def execVsinpi (f : FmtVl) : State → Result := special (.vsinpi f) f false (fun G m x _ => G.special m .sinpi x)
def execVtanh (f : FmtVl) : State → Result := special (.vtanh f) f false (fun G m x _ => G.special m .tanh x)

end Sys2Proof.Machine
end

