-- ==== Sys2Proof/Machine/VectorMem.lean ====
section
/-!
DEFINITION. In-register reductions and scans (R215) and vector loads and stores (R218, R219).
-/

namespace Sys2Proof.Machine

/-! ### Reductions (R215) -/

/-- The addition of a type: floating in a mode, integers wrap. -/
def addIn (ty : ElemType) (m : Mode) (a b : Nat) : Nat × Flags :=
  match ty with
  | .float F => fpAdd F m a b
  | _ => (ty.narrow false (ty.toInt a + ty.toInt b), 0)

/-- One halving step: element i plus element i + h. -/
def halve (ty : ElemType) (m : Mode) : List Nat → List Nat → List Nat × Flags
  | a :: as, b :: bs =>
    let r := addIn ty m a b
    let x := halve ty m as bs
    (r.1 :: x.1, r.2 ||| x.2)
  | _, _ => ([], 0)

/-- The sum by halving (R72). -/
def halving (ty : ElemType) (m : Mode) : Nat → List Nat → Nat × Flags
  | 0, l => (l.headD 0, 0)
  | k + 1, l =>
    let h := l.length / 2
    let s := halve ty m (l.take h) (l.drop h)
    let r := halving ty m k s.1
    (r.1, s.2 ||| r.2)

/-- Inactive elements as +0. -/
def zeroed : List Bool → List Nat → List Nat
  | b :: bs, x :: xs => (if b then x else 0) :: zeroed bs xs
  | _, _ => []

/-- A member of vred whose result is a list of elements with flags. -/
def vred (i : Instr) (f : FmtVl) (g : ElemType → Mode → List Bool → List Nat → List Nat × Flags) : State → Result :=
  run do
    let ty := elemType f.et
    if !etFI ty then illegal i
    let t ← thread
    let m := t.effMode 7 false
    let r := g ty m.1 (maskBits (t.mget (maskIndex f.vb)) ty.count) (ty.elems (t.vget f.va))
    updTh (fun t => t.fpIssue f.lk [.v f.vd] r.2 (fun t => (t.vput f.vd (ty.reg r.1)).warnIf .fmt (m.2 && ty.isFloat)))
where
  /-- vb[18:16] names the governing mask. -/
  maskIndex (r : Reg) : Fin 8 := Fin.ofNat 8 r.val

def execVrsum (f : FmtVl) : State → Result :=
  vred (.vrsum f) f (fun ty m act xs =>
    let r := halving ty m (Nat.log2 ty.count) (zeroed act xs)
    ([r.1], r.2))

/-- The result with no active element: an infinity, or the limit of R49. -/
def emptyExtreme (ty : ElemType) (max : Bool) : Nat :=
  match ty with
  | .float F => F.signed max F.infCode
  | _ => intBits ty.memBits (if max then ty.least else ty.greatest)

/-- The lesser or greater of two elements (R68, R215). -/
def extreme (ty : ElemType) (max : Bool) (a b : Nat) : Nat × Flags :=
  match ty with
  | .float F => F.minmax max a b
  | _ => (if decide (ty.toInt a < ty.toInt b) != max then a else b, 0)

/-- The least or greatest of the active elements; a result that is a NaN is canonical (R46). -/
def extremes (max : Bool) (ty : ElemType) (_m : Mode) (act : List Bool) (xs : List Nat) : List Nat × Flags :=
  match ((act.zip xs).filter (·.1)).map (·.2) with
  | [] => ([emptyExtreme ty max], 0)
  | x :: l =>
    -- a value combined with itself is that value, made canonical where it is a NaN
    let r := l.foldl (fun (p : Nat × Flags) y => let q := extreme ty max p.1 y; (q.1, p.2 ||| q.2)) (extreme ty max x x)
    ([r.1], r.2)

def execVrmin (f : FmtVl) : State → Result := vred (.vrmin f) f (extremes false)
def execVrmax (f : FmtVl) : State → Result := vred (.vrmax f) f (extremes true)

/-- The prefix sums after the first (R72). -/
def prefixes (ty : ElemType) (m : Mode) : Nat → List Nat → List Nat × Flags
  | _, [] => ([], 0)
  | p, x :: t =>
    let r := addIn ty m p x
    let s := prefixes ty m r.1 t
    (r.1 :: s.1, r.2 ||| s.2)

/-- `vscan`: p_0 is x_0, a NaN made canonical. -/
def scan (ty : ElemType) (m : Mode) (act : List Bool) (xs : List Nat) : List Nat × Flags :=
  match zeroed act xs with
  | [] => ([], 0)
  | x :: t =>
    let p : Nat × Flags := match ty with
      | .float F => (match F.value x with
        | .nan s => (F.nanCode, if s then flagNV else 0)
        | _ => (x, 0))
      | _ => (x, 0)
    let r := prefixes ty m p.1 t
    (p.1 :: r.1, p.2 ||| r.2)

def execVscan (f : FmtVl) : State → Result := vred (.vscan f) f scan

/-! ### Loads and stores (R218, R219) -/

/-- Bytes of an element's natural alignment; narrower types count as one byte. -/
def ElemType.bytes (t : ElemType) : Nat := if t.memBits < 8 then 1 else t.memBits / 8

/-- Bytes of a contiguous access: 512, or 384 for FP6 (R48). -/
def ElemType.span (t : ElemType) : Nat := t.count * t.memBits / 8

/-- The pieces of op 0. -/
def unitPieces (f : FmtVl) (t : Thread) : List Piece :=
  let ty := elemType f.et
  contiguous (t.get f.va) ty.bytes ty.count 0 ty.span

/-- The pieces of elements at given offsets. -/
def elementPieces (ty : ElemType) (base : Ptr) (off : Nat → Word) : List Piece :=
  (List.range ty.count).map (fun i => { ga := base.add (off i), n := ty.bytes, bit := ty.memBits * i })

/-- The pieces of op 1: i x sext(b.v). -/
def stridedPieces (f : FmtVl) (t : Thread) : List Piece :=
  elementPieces (elemType f.et) (t.get f.va) (fun i => word i * t.val f.vb)

/-- The pieces of op 2: zext of vb's 32-bit element i. -/
def indexedPieces (f : FmtVl) (t : Thread) : List Piece :=
  elementPieces (elemType f.et) (t.get f.va) (fun i => word ((t.vget f.vb).toNat / 2 ^ (32 * i) % 2 ^ 32))

/-- The types of op 1: 0x0-0x5, I except i4, and cb2. -/
def stridedOk (t : ElemType) : Bool :=
  match t with
  | .float f => decide (f = f64 ∨ f = f32 ∨ f = bf16 ∨ f = f16 ∨ f = e4m3 ∨ f = e5m2)
  | .int w => decide (w ≠ 4)
  | .cb2 => true | .u8 => true

/-- The types of op 2: f64, f32, i64, i32. -/
def indexedOk (t : ElemType) : Bool :=
  match t with
  | .float f => decide (f = f64 ∨ f = f32)
  | .int w => decide (w = 64 ∨ w = 32)
  | .cb2 => false | .u8 => false

/-- A vector load: every address checked, every element read, then vd written. -/
def vload (i : Instr) (f : FmtVl) (ok : ElemType → Bool) (pieces : FmtVl → Thread → List Piece) : State → Result :=
  run do
    let ty := elemType f.et
    if !ok ty then illegal i
    let l ← checkPieces ty.bytes .load (pieces f (← thread))
    let img ← readPieces l
    updTh (fun t => (t.vput f.vd (ty.reg (unpack ty.memBits ty.count img))).issueOut f.lk [.v f.vd])

/-- A vector store: every address checked, stationary and mitten locations refused, every element written in order. -/
def vstore (i : Instr) (f : FmtVl) (ok : ElemType → Bool) (pieces : FmtVl → Thread → List Piece) : State → Result :=
  run do
    let ty := elemType f.et
    if !ok ty then illegal i
    let t ← thread
    let l := lastAt (← checkPieces ty.bytes .store (pieces f t))
    let s ← get
    match l.find? (fun p => s.fixedLoc p.2) with
    | some p => raise .statWr p.1.ga.v 2
    | none => pure ()
    writePieces (pack ty.memBits (ty.elems (t.vget f.vd))) l
    updTh (·.issueOut f.lk (piecesRes l))

def execVld (f : FmtVl) : State → Result := vload (.vld f) f (fun _ => true) unitPieces
def execVlds (f : FmtVl) : State → Result := vload (.vlds f) f stridedOk stridedPieces
def execVldx (f : FmtVl) : State → Result := vload (.vldx f) f indexedOk indexedPieces
def execVst (f : FmtVl) : State → Result := vstore (.vst f) f (fun _ => true) unitPieces
def execVsts (f : FmtVl) : State → Result := vstore (.vsts f) f stridedOk stridedPieces
def execVstx (f : FmtVl) : State → Result := vstore (.vstx f) f indexedOk indexedPieces

end Sys2Proof.Machine
end

