-- ==== Sys2Proof/Machine/Matrix.lean ====
section
/-!
DEFINITION. Accumulators, bindings and matrix operations: issue, start and completion (R124-R137, R233-R240), with the
checksums and their check (R135, R136).
-/

namespace Sys2Proof.Machine

/-! ### Bindings (R130) -/

def Acc.valid (a : Acc) : Bool := bit a.bind 23
def Acc.chk (a : Acc) : Bool := bit a.bind 22
def Acc.ctrap (a : Acc) : Bool := bit a.bind 21
def Acc.sat (a : Acc) : Bool := bit a.bind 20
def Acc.isMit (a : Acc) : Bool := bit a.bind 19
def Acc.q (a : Acc) : Nat := field a.bind 16 3
def Acc.tid (a : Acc) : Nat := field a.bind 8 8
def Acc.cls (a : Acc) : Nat := field a.bind 0 2
def Acc.corr (a : Acc) : Nat := field a.bind 32 16

def Thread.acc (t : Thread) (n : Fin 8) : Acc := t.accs[n]

/-- The even member of an accumulator's pair. -/
def evenOf (n : Fin 8) : Fin 8 := Fin.ofNat 8 (n.val - n.val % 2)

/-- The odd member. -/
def oddOf (n : Fin 8) : Fin 8 := Fin.ofNat 8 (n.val - n.val % 2 + 1)

/-- Whether an accumulator belongs to a bound FP64 pair. -/
def Thread.inPair (t : Thread) (n : Fin 8) : Bool := (t.acc (evenOf n)).valid && decide ((t.acc (evenOf n)).cls = 2)

/-- The accumulators that an operation on one touches: both of a bound pair. -/
def Thread.accGroup (t : Thread) (n : Fin 8) : List (Fin 8) := if t.inPair n then [evenOf n, oddOf n] else [n]

/-- Whether a matrix operation issued earlier to an accumulator, or to its pair, has not completed. -/
def State.accBusy (s : State) (n : Fin 8) : Bool :=
  s.me.mops.any (fun m => decide (m.slot = s.turn.slot) && decide (m.kind ≠ .write) && decide (evenOf m.acc = evenOf n)
    && (decide (m.acc = n) || s.th.inPair n || s.th.inPair m.acc))

/-- The elements of an accumulator as one number: 1024 of 32 bits, or of 64 over a pair (DEDUCED, log entry 30). -/
def Thread.image (t : Thread) (n : Fin 8) (cls : Nat) : Nat :=
  if cls = 2 then (t.acc (evenOf n)).elems.toNat + (t.acc (oddOf n)).elems.toNat * 2 ^ 32768 else (t.acc n).elems.toNat

/-- Bits of an element of a class. -/
def clsBits (cls : Nat) : Nat := if cls = 2 then 64 else 32

/-- The floating format of a class; class 1 is INT32. -/
def clsFmt (cls : Nat) : Fmt := if cls = 2 then f64 else f32

/-- The elements of an accumulator. -/
def Thread.accElems (t : Thread) (n : Fin 8) (cls : Nat) : List Nat := unpack (clsBits cls) 1024 (t.image n cls)

/-- The value of an element. -/
def clsValue (cls x : Nat) : Num := if cls = 1 then Num.ofInt (sintOf 32 x) else (clsFmt cls).value x

/-- A write of an accumulator's elements. -/
def Thread.putElems (t : Thread) (n : Fin 8) (cls : Nat) (l : List Nat) : Thread :=
  let x := pack (clsBits cls) l
  if cls = 2 then
    (t.aput (evenOf n) { t.acc (evenOf n) with elems := BitVec.ofNat 32768 x }).aput (oddOf n)
      { t.acc (oddOf n) with elems := BitVec.ofNat 32768 (x / 2 ^ 32768) }
  else t.aput n { t.acc n with elems := BitVec.ofNat 32768 x }

/-! ### Checksum vectors (R135, R239) -/

/-- The elements of a checksum vector. -/
def ckList (v : BitVec 2048) : List Nat := unpack 64 32 v.toNat

def ckVec (l : List Nat) : BitVec 2048 := BitVec.ofNat 2048 (pack 64 l)

/-- The value of a checksum element. -/
def ckValue (cls x : Nat) : Num := if cls = 1 then Num.ofInt (sintOf 64 x) else (clsFmt cls).value x

/-- The integer of an exact finite value. -/
def Num.toInt (x : Num) : Int :=
  match x with
  | .fin n m e => scaled n m e 0 / ((2 ^ (0 - e).toNat : Nat) : Int)
  | _ => 0

/-- Whether a checksum element of an INT32 accumulator has left the signed 64-bit range: it holds a limit, and a frame holds
nothing but the element (R239, R307; DEDUCED, log entry 35). -/
def ckLeft (x : Nat) : Bool := decide (sintOf 64 x = sintMin 64) || decide (sintOf 64 x = sintMax 64)

/-- A checksum element after an addition: one RNE rounding, or exact within the signed 64-bit range. -/
def ckAdd (cls old : Nat) (x : Num) : Nat :=
  if cls = 1 then
    if ckLeft old then old else intBits 64 (clamp (sintMin 64) (sintMax 64) (sintOf 64 old + x.toInt))
  else ((clsFmt cls).round 0 (Num.add false (ckValue cls old) x).1 0).1

/-- A vector after the additions of a list from an element on. -/
def ckUpdate (cls base : Nat) (v : BitVec 2048) (l : List Num) : BitVec 2048 :=
  ckVec ((ckList v).mapIdx (fun i x => if base ≤ i ∧ i < base + l.length then ckAdd cls x (l.getD (i - base) (.fin false 0 0)) else x))

/-! ### Products (R69, R124, R133) -/

/-- The A rows of an operation. -/
def aRows (m : MatOp) (g : MatArgs) (sp : Bool) : List (List Num) :=
  let sh := shapeOf (descEt m.wDesc)
  (List.range sh.m).map (fun r => (List.range sh.k).map (fun k =>
    operand m.aDesc sh.k g.a 0 0 g.aScale (if sp then some g.aMap else none) r k))

/-- The W columns. -/
def wCols (m : MatOp) (g : MatArgs) (sp : Bool) : List (List Num) :=
  let sh := shapeOf (descEt m.wDesc)
  (List.range sh.n).map (fun c => (List.range sh.k).map (fun k =>
    operand m.wDesc sh.k g.w m.quarter g.wBook g.wScale (if sp then some g.wMap else none) c k))

/-- The exact products of a row and a column. -/
def products (a w : List Num) : List Num := (a.zip w).map (fun p => (Num.mul p.1 p.2).1)

/-- The exact sum by column of a list of rows. -/
def columnSums (rows : List (List Num)) (k : Nat) : List Num :=
  (List.range k).map (fun i => exactSum (rows.map (fun r => r.getD i (.fin false 0 0))))

/-- An element of an accumulator plus a slice sum: one RNE rounding, or saturating INT32 with its SAT (R69, R71). -/
def addSlice (cls old : Nat) (s : Num) : Nat × Bool :=
  if cls = 1 then
    let x := sintOf 32 old + s.toInt
    let y := clamp (sintMin 32) (sintMax 32) x
    (intBits 32 y, decide (x ≠ y))
  else (((clsFmt cls).round 0 (Num.add false (clsValue cls old) s).1 0).1, false)

/-- Whether an operation clears its accumulator first. -/
def MatKind.clears : MatKind → Bool
  | .mul => true | .gangMul => true
  | .mac => false | .sparse => false | .gangMac => false | .write => false

def MatKind.isGang : MatKind → Bool
  | .gangMac => true | .gangMul => true
  | .mac => false | .mul => false | .sparse => false | .write => false

/-- An accumulator with its checksums at +0 and SAT and CORR clear (R130, R236). -/
def Acc.cleared (a : Acc) : Acc :=
  { elems := 0, bind := withField (clearBit a.bind 20) 32 16 0, cr := 0, cc := 0, sr := 0, sc := 0 }

/-- The thread after a matrix operation has added its product and updated the checksums (R234, R135). -/
def Thread.product (t : Thread) (m : MatOp) (g : MatArgs) : Thread :=
  let cls := (t.acc m.acc).cls
  let t := if m.kind.clears then (t.accGroup m.acc).foldl (fun t k => t.aput k (t.acc k).cleared) t else t
  let sh := shapeOf (descEt m.wDesc)
  let sp := decide (m.kind = .sparse)
  let a := aRows m g sp
  let w := wCols m g sp
  let grid := a.map (fun r => w.map (fun c => products r c))
  let r0 := if cls = 2 then 16 * (m.qd.toNat / 2) else 0
  let c0 := if cls = 2 then 16 * (m.qd.toNat % 2) else 0
  let out := (t.accElems m.acc cls).mapIdx (fun i x =>
    let r := i / 32
    let c := i % 32
    if r0 ≤ r ∧ r < r0 + sh.m ∧ c0 ≤ c ∧ c < c0 + sh.n then
      addSlice cls x (exactSum ((grid.getD (r - r0) []).getD (c - c0) []))
    else (x, false))
  let t := t.putElems m.acc cls (out.map (·.1))
  let x := t.acc m.acc
  let x := if out.any (·.2) then { x with bind := setBit x.bind 20 } else x
  let x := if x.chk then
      let aSum := columnSums a sh.k
      let ws := if sp then columnSums w sh.k |>.map (fun v => loadWsum m.wDesc (storeWsum m.wDesc v))
        else g.wsum.map (loadWsum m.wDesc)
      let magnitude := grid.map (fun r => r.map (fun p => exactSum (p.map Num.absolute)))
      { x with cr := ckUpdate cls c0 x.cr (w.map (fun c => exactSum (products aSum c))),
               cc := ckUpdate cls r0 x.cc (a.map (fun r => exactSum (products r ws))),
               sr := ckUpdate cls c0 x.sr (columnSums magnitude sh.n),
               sc := ckUpdate cls r0 x.sc (magnitude.map exactSum) }
    else x
  t.aput m.acc x

/-- An armed accumulator fault of the thread inverts its bit after the addition (R289). -/
def Thread.accFault (t : Thread) (n : Fin 8) : Thread :=
  let e := t.errinj
  if bit e 31 && decide (field e 28 3 = 1) && (t.accGroup n).any (fun k => decide (k.val = field e 16 3)) then
    let cls := (t.acc n).cls
    let t := Thread.touchC { t with errinj := clearBit e 31 }
    if field e 0 6 < clsBits cls then
      t.putElems n cls ((t.accElems n cls).modify (field e 6 10) (fun x => x ^^^ 2 ^ field e 0 6))
    else t
  else t

/-! ### Issue (R234) -/

/-- The pairing set of the mitten slot that the running task holds. -/
def State.heldMitten (s : State) : Option (Nat × Mitten) :=
  match s.th.task with
  | none => none
  | some k => match k.mitten with
    | none => none
    | some n => match s.me.mitten.getD n none with
      | some x => some (n, x)
      | none => none

/-- The installed set of a number on a core's band. -/
def State.setOf (s : State) (rank n : Nat) : Option PairSet := (s.band (rank / 16)).glove.getD n none

/-- The checks of an operation at issue, in the order of R234, and the operation; a gang operation of a member other
than position 0 is assigned its queue's next tail slot (R235). -/
def matrixIssue (i : Instr) (n : Fin 8) (kind : MatKind) (pop : Bool) (sp : Word) (record : Option Nat) : M MatOp := do
  let s ← get
  let b := s.th.acc n
  if !b.valid || (s.th.inPair n && decide (n ≠ evenOf n)) then illegal i
  if kind.isGang && b.isMit then illegal i
  let held := s.heldMitten
  if b.isMit && held.isNone then illegal i
  if !b.isMit then do let _ ← needQueue b.q
  let w ← validSnapshot b.tid
  let a ← validSnapshot (if b.isMit then match held with
      | some h => match s.setOf s.turn.rank h.2.set with
        | some x => x.cwTid
        | none => 0
      | none => 0
    else (s.me.queue b.q).tid)
  if !pairOk (descEt a) (descEt w) then raise .illegal (word (descEt w + 16 * descEt a)) 0
  if decide (descKind a = 3) || (decide (kind = .sparse) && (noBitmap a || noBitmap w)) then illegal i
  if b.cls = 1 ∧ (descKind a ≠ 0 ∨ descKind w ≠ 0) then illegal i
  let q := s.me.queue b.q
  let base : MatOp :=
    { id := s.me.nextId, slot := s.turn.slot, acc := n, kind := kind, aDesc := a, wDesc := w, wTid := b.tid, mit := none,
      pos := 0, quarter := 0, index := 0, queue := b.q, seq := q.assigned, pop := pop && !b.isMit,
      qd := BitVec.ofNat 2 (field sp 32 2), record := record, sent := false, bar := none, dead := none,
      executing := false, read := false, args := none }
  let rank := s.turn.rank
  match held, b.isMit with
  | some h, true => do
    updTh (·.warnIf .fmt (decide (sp ≠ 0)))
    let m := { base with mit := some h.1, pos := 1532 + h.1, index := h.2.j, qd := 0 }
    upd (fun s => s.recallAll (m.areas rank h.2.i))
    let s ← get
    return { m with read := true, args := some (s.matArgs rank m (s.look (scratchLoc rank (0x33E000 + h.1 * 0x800)) 0x800)
      h.2.i (s.look (scratchLoc rank (0x2FE000 + h.1 * 0x800)) 0x800) h.2.wsum) }
  | _, _ => do
    let x ← namedTile b.tid w sp
    updTh (·.warnIf .fmt (sposWarn sp))
    let m := { base with pos := x.2.1, quarter := x.2.2, index := x.1,
                         seq := if kind.isGang && decide (rank % 16 ≠ 0) then q.tail else q.assigned }
    upd (fun s => s.recallAll (m.areas rank (m.seq % q.cap)))
    return { m with args := some ((← get).matArgs rank m 0 (m.seq % q.cap) 0 []) }

/-- The macro's queue holds four pending operations beside the one it executes (R128). -/
def Core.macroFull (c : Core) (mac : Nat) : Bool :=
  let l := c.mops.filter (fun m => decide (m.pos / 48 = mac) && decide (m.kind ≠ .write))
  decide (4 + ofBool (l.any (·.executing)) ≤ l.length)

/-- `mmac`, `mmul` and `mmac.sp` (R234): queued on the macro, and outstanding until the product is added. -/
def product (i : Instr) (kind : MatKind) (f : FmtX) : State → Result :=
  run do
    let n ← needAcc i f.x
    let m ← matrixIssue i n kind (nbit f.fl.val 0) ((← thread).val f.y) none
    if (← myCore).macroFull (m.pos / 48) then stall
    upd (fun s => s.enqueueOp m)
    updTh (fun t => t.issueWaiting f.lk ((t.accGroup n).map .acc) (.op m.id))

def execMmac (f : FmtX) : State → Result := product (.mmac f) .mac f
def execMmul (f : FmtX) : State → Result := product (.mmul f) .mul f
def execMmacSp (f : FmtX) : State → Result := product (.mmacSp f) .sparse f

/-- A completion record of `mgang` (R235). -/
def State.gangRecord (s : State) (w : Turn) (off : Nat) (cause : Nat) (added : Bool) (mac : Nat) (a : Acc) : State :=
  let v := cause + (ofBool a.sat + 2 * ofBool added) * 2 ^ 8 + w.rank % 0x10000 * 2 ^ 16 + mac * 2 ^ 32
    + a.corr * 2 ^ 48 + s.cycle.toNat * 2 ^ 64
  s.store noBehalf (scratchLoc w.rank off) 16 v

/-- The completion record's place, where the GA in sR names one (R235). -/
def State.recordAt (s : State) (ga : Ptr) : Option Nat :=
  if ga.sb = 0xF0 ∧ ga.v.toNat + 16 ≤ 0x340000 ∧ ga.v.toNat % 16 = 0 ∧ s.fixedAt s.turn.rank ga.v.toNat = false then some ga.v.toNat
  else none

/-- The issue of an `mgang`: its checks, in the order of R234 with those of R235 before them, and its operation. -/
def gangIssue (i : Instr) (f : FmtX) : M MatOp := do
  let s ← get
  let n ← needAcc i f.x
  let off ← scratchGa (s.th.get f.z) 16 16 2
  if s.fixedAt s.turn.rank off then raise .statWr (s.th.get f.z).v 2
  matrixIssue i n (if nbit f.fl.val 1 then .gangMul else .gangMac) (nbit f.fl.val 0) (s.th.val f.y) (some off)

/-- `mgang` (R134, R235): a member whose checks fail writes its record, where sR names a place for it, makes its arrivals and
then takes the trap. -/
def execMgang (f : FmtX) : State → Result :=
  run do
    let i := Instr.mgang f
    let s ← get
    match s.th.task with
    | some k => if !k.gang then illegal i
    | none => illegal i
    let r ← tryCatch (do let m ← gangIssue i f; return Except.ok m)
      (fun e => match e with
        | .trap x => return Except.error x
        | e => throw e)
    let n := (accField f.x).getD 0
    match r with
    | .ok m =>
      if s.me.macroFull (m.pos / 48) then stall
      if s.turn.rank % 16 ≠ 0 then
        if (s.me.queue m.queue).free = 0 then stall
        upd (fun s => s.reserve s.turn.rank m.queue 1)
      upd (fun s => s.enqueueOp m)
      updTh (fun t => t.issueWaiting f.lk ((t.accGroup n).map .acc) (.op m.id))
    | .error x =>
      let off := s.recordAt (s.th.get f.z)
      let m : MatOp :=
        { id := s.me.nextId, slot := s.turn.slot, acc := n, kind := if nbit f.fl.val 1 then .gangMul else .gangMac, aDesc := 0,
          wDesc := 0, wTid := 0, mit := none, pos := 0, quarter := 0, index := 0, queue := 8, seq := 0, pop := false, qd := 0,
          record := off, sent := true, bar := none, dead := some (BitVec.ofNat 8 x.cause.code), executing := false, read := true,
          args := none }
      upd (fun s => (match off with
        | some o => s.gangRecord s.turn o x.cause.code false 0xFF (s.th.acc n)
        | none => s).modMe (fun c => { c with nextId := c.nextId + 1, mops := c.mops ++ [m] }))
      updTh (fun t => { t with outst := t.outst ++ [{ pc := t.pc, lk := f.lk.val, issued := 0, done := 0, dest := [.acc n],
                                                      wait := .op m.id, trap := some { x with out := true } }] })

/-! ### Start and completion (R128) -/

/-- The oldest operation of a macro that has not completed. -/
def Core.macroHead (c : Core) (mac : Nat) : Option MatOp := c.mops.find? (fun m => decide (m.pos / 48 = mac))

/-- Changes an operation of a core. -/
def State.modOp (s : State) (rank id : Nat) (f : MatOp → MatOp) : State :=
  s.modCore rank (fun c => { c with mops := c.mops.map (fun m => if m.id = id then f m else m) })

/-- An operation is over and leaves the core. -/
def State.dropOp (s : State) (rank id : Nat) : State :=
  s.modCore rank (fun c => { c with mops := c.mops.filter (fun m => decide (m.id ≠ id)) })

/-- A popping operation's read has ended: its tile retires, or is given back (R129). -/
def State.popRead (s : State) (rank : Nat) (m : MatOp) (retires : Bool) : State :=
  if m.pop then
    s.retire rank m.queue (if retires then fun l => l.map (fun p => if p.1 = m.id then (p.1, true) else p) else giveBack m.id)
  else s

/-- The trap of an outstanding matrix operation (R26, R132): the accumulator and queue are unchanged. A gang member
still writes its record and arrives. -/
def State.opTrap (s : State) (rank : Nat) (m : MatOp) (c : Cause) (tval : Word) : State :=
  let w : Turn := { rank := rank, slot := m.slot }
  let s := s.popRead rank m false
  let s := s.modThAt w (fun t => { t with outst := t.outst.map (fun o =>
    if o.wait = .op m.id then { o with trap := some { cause := c, tval := tval, kind := 0, out := true } } else o) })
  match m.record with
  | some off => (s.gangRecord w off c.code false (m.pos / 48) ((s.thAt w).acc m.acc)).modOp rank m.id
      (fun m => { m with dead := some (BitVec.ofNat 8 c.code), executing := true })
  | none => s.dropOp rank m.id

/-- The core of a thread makes an arrival on a tag (R270). -/
def Core.arrive (c : Core) (tag : Nat) : Core := { c with ac := c.ac.setIfInBounds tag (c.ac.getD tag 0 + 1) }

/-- Whether a core has an arrival outstanding on a tag. -/
def Core.arrived (c : Core) (tag : Nat) : Bool := decide (c.pc.getD tag 0 < c.ac.getD tag 0)

/-- The broadcast tile of a gang's position 0 (R134, R143). -/
def broadcastTile (m : MatOp) (payload : Nat) (dom : Word) : Tile :=
  Tile.sealed { payload := payload, pmask := 0, chk := 0, tid := m.wTid, idx := 0, orig := 0, lapLim := 7, lapCnt := 0, set := 0,
                fam := .cw, bcast := true, hecc := 0, copy1 := 1, copy2 := 1, weak := false, bad := false, inj := false, held := false,
                dom := dom }

/-- The gang protocol before the product: position 0 injects its tile once every core of the band has a gang operation to
receive it (DESIGN CHOICE, log entry 31) and its task may originate a tile (R41); each member arrives once its tile is
readable, position 0 after it has injected (R134 steps 1-3). -/
def State.gangStage (s : State) (rank : Nat) (m : MatOp) : State :=
  let w : Turn := { rank := rank, slot := m.slot }
  let tag := field (s.thAt w).domid 0 3
  let c := s.core rank
  if c.mops.any (fun x => x.kind.isGang && decide (x.id < m.id)) then s
  else
    let ready := (List.range 16).all (fun q => (s.core (rank / 16 * 16 + q)).mops.any (·.kind.isGang))
    let dom := (s.thAt w).domid
    let s := match m.args, m.sent || !m.read || !ready || decide (rank % 16 ≠ 0) || s.trafficHeld rank (domKey dom) with
      | some g, false =>
        let tile := broadcastTile m g.a dom
        ((s.syncBand (rank / 16)).modBand (rank / 16) (fun b =>
          { b with pend := b.pend ++ [{ id := m.id, pos := 0, tile := tile, slot := m.slot, since := s.bandNow (rank / 16), claim := false }] })).modOp
          rank m.id (fun m => { m with sent := true })
      | _, _ => s
    if m.read && (m.sent || decide (rank % 16 ≠ 0)) && !c.arrived tag then
      (s.modCore rank (fun c => c.arrive tag)).modOp rank m.id (fun m => { m with bar := some ((c.ac.getD tag 0).toNat + 1) })
    else s

/-- Whether a gang operation has crossed its first barrier. -/
def Core.crossed (c : Core) (tag : Nat) (m : MatOp) : Bool :=
  match m.bar with
  | some k => decide (k ≤ (c.pc.getD tag 0).toNat)
  | none => false

/-- The FP32 macro of a pair waits for its partner, and for the partner's operations that issued before (R16). -/
def Core.partnerBusy (c : Core) (m : MatOp) : Bool :=
  decide (descEt m.wDesc = 1) && c.mops.any (fun x => (x.executing || decide (x.id < m.id)) && decide (x.kind ≠ .write) && decide (x.pos / 96 = m.pos / 96)
    && decide (x.pos / 48 ≠ m.pos / 48) && decide (descEt x.wDesc = 1))

/-- Macros of a core that may execute at once at its die's throttle level (R13, R18, R387). -/
def throttledMacros (level : Nat) : Nat :=
  match level with
  | 0 => 32
  | 1 => 16
  | _ => 8

/-- Whether the core's throttle level holds another operation back in its macro's queue (R387). -/
def State.macrosFull (s : State) (rank : Nat) : Bool :=
  decide (throttledMacros (s.dies.getD (rank / 128 % 8) .reset).level
    ≤ ((s.core rank).mops.filter (fun m => m.executing && m.dead.isNone)).length)

/-- An uncorrectable staging line under an operation's A tile (R352). -/
def State.badOperand (s : State) (rank : Nat) (m : MatOp) : Option Nat :=
  let off := ((s.core rank).queue m.queue).tileOff m.seq
  if m.mit.isNone && decide (m.queue < 8) && s.unreadable (scratchLoc rank off) 0x800 then some off else none

/-- What an operation reads of its W tile when it starts: the bytes and weight sums that every `mwr` before it has left
(R231). -/
def State.wTile (s : State) (rank : Nat) (m : MatOp) (g : MatArgs) : MatArgs :=
  if m.mit.isSome then g
  else { g with w := s.look (scratchLoc rank (m.pos * 0x800)) 0x800,
                wsum := (lookup (s.core rank).wsum (m.pos * 4 + m.quarter)).getD [] }

/-- The operands are read: scales are checked, those of A first and the lowest block of each (DESIGN CHOICE, log entry 36), the
popped tile retires, and the product starts (R132, R234). -/
def State.startOp (s : State) (rank : Nat) (m : MatOp) (g : MatArgs) : State :=
  let sh := shapeOf (descEt m.wDesc)
  match s.badOperand rank m with
  | some off => (s.logError rank 7 1 (word off) (off / 8)).opTrap rank m .uncorr (word off)
  | none =>
    match badScale m.aDesc g.aScale (recordBytes m.aDesc sh.m sh.k / 4), badScale m.wDesc g.wScale (recordBytes m.wDesc sh.n sh.k / 4) with
    | some i, _ => s.opTrap rank m .scale (scaleTval false i)
    | none, some i => s.opTrap rank m .scale (scaleTval true i)
    | none, none => (s.popRead rank m true).modOp rank m.id (fun m => { m with executing := true, args := some (s.wTile rank m g) })

/-- The write of a `mwr` whose turn has come: the tile and its weight sums together (R135, R231). -/
def State.replaceTile (s : State) (rank : Nat) (m : MatOp) (g : MatArgs) : State :=
  let w : Turn := { rank := rank, slot := m.slot }
  let p0 := match (s.core rank).rangeOf m.wTid with
    | some g => g.p0
    | none => 0
  let s := s.recallAll (tileAreas rank m.wDesc p0 m.pos)
  match s.badOperand rank m, s.badTileScale rank m.wDesc p0 m.pos with
  | some off, _ => (s.logError rank 7 1 (word off) (off / 8)).opTrap rank m .uncorr (word off)
  | none, some i => s.opTrap rank m .scale (scaleTval true i)
  | none, none =>
    let dom := (s.thAt w).domid
    let s := (s.popRead rank m true).store { rank := rank, dom := if ckptDom dom then some dom else none }
      (scratchLoc rank (m.pos * 0x800)) 0x800 g.a
    (s.modCore rank (fun c => { c with wsum := putWsums c.wsum (s.tileWsums rank m.wDesc p0 m.pos) })).dropOp rank m.id

/-- MATRIX_OP_START on macro m of core r (R128, R134, R231). -/
def execMatrixOpStart (r m : Nat) (s : State) : Result :=
  match (s.core r).macroHead m with
  | none => .next s
  | some x =>
    let tag := field (s.thAt { rank := r, slot := x.slot }).domid 0 3
    if x.executing then .next s
    else if x.kind.isGang && x.bar.isNone then .next (s.gangStage r x)
    else if x.kind.isGang && !(s.core r).crossed tag x then .next s
    else match x.dead, x.args with
      | some _, _ => .next (s.modOp r x.id (fun x => { x with executing := true }))
      | none, some g =>
        if !x.read then .next s
        else if x.kind = .write then .next (s.replaceTile r x g)
        else if (s.core r).partnerBusy x || s.macrosFull r then .next s
        else .next (s.startOp r x g)
      | none, none => .next s

/-- MATRIX_OP_COMPLETE on macro m of core r: the product is added in issue order, the checksums updated, and a gang
member writes its record and arrives (R128, R134, R234, R289). -/
def execMatrixOpComplete (r m : Nat) (s : State) : Result :=
  match (s.core r).macroHead m with
  | none => .next s
  | some x =>
    let w : Turn := { rank := r, slot := x.slot }
    let tag := field (s.thAt w).domid 0 3
    if !x.executing then .next s
    else if x.kind.isGang && (s.core r).arrived tag then .next s
    else if (s.core r).mops.any (fun y => decide (y.id < x.id) && decide (y.slot = x.slot) && decide (y.kind ≠ .write)
        && (decide (y.acc = x.acc) || (decide (evenOf y.acc = evenOf x.acc) && (s.thAt w).inPair x.acc))) then .next s
    else
      let s := match x.dead, x.args with
        | none, some g =>
          let s := s.modThAt w (fun t => (t.product x g).accFault x.acc)
          match x.record with
          | some off => s.gangRecord w off 0 true m ((s.thAt w).acc x.acc)
          | none => s
        | _, _ => s
      let s := if x.kind.isGang then s.modCore r (fun c => c.arrive tag) else s
      .next (s.dropOp r x.id)

/-! ### mbind and mzero (R233, R236) -/

/-- The class of a binding (R233). -/
def bindClass (w : Desc) (aKind : Nat) : Nat :=
  match descEt w with
  | 0 => 2
  | 0xC => if descKind w = 2 ∨ aKind = 2 then 0 else 1
  | 0xD => if descKind w = 2 ∨ aKind = 2 then 0 else 1
  | _ => 0

/-- Whether an ET may not be bound as W. -/
def badWeight (et : Nat) : Bool := decide (et = 9) || decide (et = 0xA) || decide (et = 0xB) || decide (et = 0xF)

/-- A binding word: CORR and SAT are kept (R233). -/
def bindWord (old : Word) (q tid cls : Nat) (chk ctrap mit : Bool) : Word :=
  let w := withField (withField (withField old 16 3 q) 8 8 tid) 0 2 cls
  withField (withField (withField (withField w 23 1 1) 22 1 (ofBool chk)) 21 1 (ofBool ctrap)) 19 1 (ofBool mit)

/-- Writes a binding, on the even member for FP64. -/
def Thread.bindAcc (t : Thread) (n : Fin 8) (q tid cls : Nat) (chk ctrap mit : Bool) : Thread :=
  let k := if cls = 2 then evenOf n else n
  (t.aput k { t.acc k with bind := bindWord (t.acc k).bind q tid cls chk ctrap mit }).warnIf .align (decide (k ≠ n))

/-- `mbind` (R233). -/
def execMbind (f : FmtX) : State → Result :=
  run do
    let i := Instr.mbind f
    if 8 ≤ f.y.val then throw (.fault .illFormed)
    let n ← needAcc i f.x
    let s ← get
    let mit := nbit f.fl.val 2
    let held := match s.heldMitten with
      | some h => s.setOf s.turn.rank h.2.set
      | none => none
    if mit && held.isNone then illegal i
    let tid := match mit, held with
      | true, some g => g.ccwTid
      | _, _ => tidOf (s.th.val f.z)
    if s.accBusy n then stall
    let w ← snapshot tid
    if badWeight (descEt w) || !descV w then raise .illegal (word tid) 0
    let aTid := match mit, held with
      | true, some g => g.cwTid
      | _, _ => (s.me.queue f.y.val).tid
    let ints := decide (descEt w = 0xC) || decide (descEt w = 0xD)
    let aKind ← if ints && (mit || (s.me.queue f.y.val).cfg) then do pure (descKind (← snapshot aTid)) else pure 0
    let cls := bindClass w aKind
    if descKind w = 3 ∧ cls = 1 then raise .illegal (word tid) 0
    if cls = 2 ∧ (s.accBusy (evenOf n) ∨ s.accBusy (oddOf n)) then stall
    updTh (fun t => ((t.bindAcc n (if mit then field (t.acc n).bind 16 3 else f.y.val) tid cls (nbit f.fl.val 0) (nbit f.fl.val 1) mit)).issueOut
      f.lk (if cls = 2 then [.acc (evenOf n), .acc (oddOf n)] else [.acc n]))

/-- `mzero` (R236). -/
def execMzero (f : FmtX) : State → Result :=
  run do
    let n ← needAcc (.mzero f) f.x
    if (← get).accBusy n then stall
    updTh (fun t => ((t.accGroup n).foldl (fun t k => t.aput k (t.acc k).cleared) t).issueOut f.lk ((t.accGroup n).map .acc))

/-! ### The check (R136) -/

/-- What one check found: the accumulator after it, failing rows and columns, unchecked, corrected, uncorrectable. -/
structure CheckResult where
  elems : List Nat
  corr : Nat
  rows : Nat
  cols : Nat
  unchk : Bool
  fixed : Bool
  failed : Bool
  deriving DecidableEq, Repr

/-- The outcome of a row or column: none where it is unchecked, else whether it fails. -/
def lineFails (cls : Nat) (terms : List Num) (ck mag : Nat) : Option Bool :=
  let fin := fun (x : Num) => match x with
    | .fin _ _ _ => true
    | _ => false
  if cls = 1 ∧ (ckLeft ck ∨ ckLeft mag) then none
  else if !(terms.all fin && fin (ckValue cls ck) && fin (ckValue cls mag)) then none
  else
    let rho := (Num.add false (exactSum terms) (ckValue cls ck).neg).1.absolute
    let tau := if cls = 1 then .fin false 0 0 else match ckValue cls mag with
      | .fin n m e => Num.fin n m (e - (if cls = 2 then 43 else 14))
      | x => x
    some (Num.lt tau rho)

/-- The values of row m, or column n, of the elements. -/
def rowTerms (cls : Nat) (l : List Nat) (m : Nat) : List Num := ((l.drop (32 * m)).take 32).map (clsValue cls)

def colTerms (cls : Nat) (l : List Nat) (n : Nat) : List Num := (everyNth 32 n l).map (clsValue cls)

/-- The outcomes of every row and column of an accumulator. -/
def rowOutcomes (a : Acc) (cls : Nat) (l : List Nat) : List (Option Bool) :=
  (List.range 32).map (fun m => if cls = 1 ∧ a.sat then none
    else lineFails cls (rowTerms cls l m) ((ckList a.cc).getD m 0) ((ckList a.sc).getD m 0))

def colOutcomes (a : Acc) (cls : Nat) (l : List Nat) : List (Option Bool) :=
  (List.range 32).map (fun n => if cls = 1 ∧ a.sat then none
    else lineFails cls (colTerms cls l n) ((ckList a.cr).getD n 0) ((ckList a.sr).getD n 0))

/-- The indexes that fail. -/
def failing (l : List (Option Bool)) : List Nat :=
  (List.range l.length).filter (fun i => decide (l.getD i none = some true))

/-- The element that makes row m sum to its checksum: RNE(CC[m] - the rest of the row). -/
def corrected (a : Acc) (cls : Nat) (l : List Nat) (m n : Nat) : Nat :=
  let rest := exactSum ((rowTerms cls l m).eraseIdx n)
  let x := (Num.add false (ckValue cls ((ckList a.cc).getD m 0)) rest.neg).1
  if cls = 1 then intBits 32 x.toInt else ((clsFmt cls).round 0 x 0).1

/-- The check of an accumulator with CHK = 1 (R136). -/
def checkAcc (a : Acc) (cls : Nat) (l : List Nat) : CheckResult :=
  let ro := rowOutcomes a cls l
  let co := colOutcomes a cls l
  let fr := failing ro
  let fc := failing co
  let unchk := (ro ++ co).any (fun x => decide (x = none))
  let base : CheckResult := { elems := l, corr := a.corr, rows := fr.length, cols := fc.length, unchk := unchk, fixed := false, failed := false }
  match fr, fc with
  | [], [] => base
  | [m], [n] =>
    let l' := l.set (32 * m + n) (corrected a cls l m n)
    let ok := decide (lineFails cls (rowTerms cls l' m) ((ckList a.cc).getD m 0) ((ckList a.sc).getD m 0) ≠ some true)
      && decide (lineFails cls (colTerms cls l' n) ((ckList a.cr).getD n 0) ((ckList a.sr).getD n 0) ≠ some true)
    if ok then { base with elems := l', corr := min (a.corr + 1) 0xFFFF, fixed := true } else { base with failed := true }
  | _, _ => { base with failed := true }

/-- The drain status word (R237). -/
def drainStatus (a : Acc) (c : CheckResult) : Word :=
  word ((if c.failed then Cause.chkFail.code else 0) + ofBool c.fixed * 2 ^ 8 + ofBool a.sat * 2 ^ 9 + ofBool c.unchk * 2 ^ 10
    + min c.rows 31 * 2 ^ 16 + min c.cols 31 * 2 ^ 21 + c.corr * 2 ^ 32)

/-- The check of an accumulator, or its pass where CHK is 0. -/
def Thread.check (t : Thread) (n : Fin 8) : CheckResult :=
  let a := t.acc n
  let l := t.accElems n a.cls
  if a.chk then checkAcc a a.cls l
  else { elems := l, corr := a.corr, rows := 0, cols := 0, unchk := false, fixed := false, failed := false }

/-- The accumulator after a check that corrected an element. -/
def Thread.applyCheck (t : Thread) (n : Fin 8) (c : CheckResult) : Thread :=
  if c.fixed then
    let t := t.putElems n (t.acc n).cls c.elems
    t.aput n { t.acc n with bind := withField (t.acc n).bind 32 16 c.corr }
  else t

/-- The log and counters of a check that corrected or failed (R351, R354). -/
def State.logCheck (s : State) (c : CheckResult) : State :=
  if c.fixed then s.modMe (fun x => { x with log := { x.log with cabft := saturate32 (x.log.cabft + 1) } })
  else if c.failed && !s.rollbackDue.contains s.th.domid then s.logError s.turn.rank 4 1 0 (min c.rows 31 * 2 ^ 5 + min c.cols 31) else s

/-- CHKFAIL of a check with CTRAP = 1: an outstanding trap, or the rollback of a checkpoint domain, whose image
restores the accumulator (R136, R354, R355). -/
def checkFails (lk : Fin 16) (dest : List Res) (n : Fin 8) : M Unit := do
  let s ← get
  if s.consumed true then
    upd (fun s => { s with rollbackDue := addOnce s.rollbackDue s.th.domid })
    stall
  else updTh (·.issueTrap lk dest .chkFail (word n.val) 0)

/-- `mchk` (R239). -/
def execMchk (f : FmtX) : State → Result :=
  run do
    let n ← needAcc (.mchk f) f.y
    let s ← get
    if s.accBusy n then stall
    let a := s.th.acc n
    if a.chk then
      let c := s.th.check n
      upd (fun s => s.logCheck c)
      if c.failed && a.ctrap then checkFails f.lk [.s f.x, .acc n] n
      else updTh (fun t => ((t.applyCheck n c).putInt f.x (drainStatus a c)).issueOut f.lk [.s f.x, .acc n])
    else updTh (fun t => (t.putInt f.x 0).issueOut f.lk [.s f.x])

/-! ### Drain (R238) -/

/-- The destination types of a drain (R237). -/
def drainType (c : Nat) : Option ElemType :=
  match c with
  | 0 => some (.float f64) | 1 => some (.float f32) | 2 => some (.float bf16) | 3 => some (.float f16)
  | 4 => some (.float e4m3) | 5 => some (.float e5m2) | 0xA => some (.int 32) | 0xB => some (.int 16) | 0xC => some (.int 8)
  | _ => none

/-- One element of a drain: scaled exactly, then rounded once; an INT32 element narrows as R208 gives. -/
def drainElem (cls : Nat) (ty : ElemType) (m : Mode) (sat : Bool) (scale : Num) (u x : Nat) : Nat × Flags :=
  if cls = 1 then convertElem (.int 32) ty m sat u x
  else
    let v := Num.mul (clsValue cls x) scale
    let r := match ty with
      | .float F => F.convert m sat v.1 u
      | _ => let r := toInteger m ty.least ty.greatest v.1 u; (intBits ty.memBits r.1, r.2)
    (r.1, v.2 ||| r.2)

/-- The column scales of N-block nb: the values, or the first failing column (R51, R226). -/
def State.columnScales (s : State) (d : Desc) (nb : Nat) : Except Nat (List Num) :=
  let l := (List.range 32).map (fun n => fp32Scale (s.look (scratchLoc s.turn.rank (descScaddr d + nb * 128 + 4 * n)) 4))
  match (List.range 32).find? (fun n => decide (l.getD n none = none)) with
  | some n => .error n
  | none => .ok (l.map (fun x => x.getD (.fin false 1 0)))

/-- Writes the image of a drain where KIND says. -/
def drainWrite (f : FmtX) (img bytes : Nat) (where_ : List (Piece × Loc)) : M Unit := do
  match f.fl.val % 4 with
  | 0 => upd (fun s => s.appendTiles s.behalf s.turn.rank f.z.val (unpack 16384 ((bytes + 2047) / 2048) img))
  | 1 => writePieces img where_
  | _ => updTh (fun t => t.putGroup f.z.val ((unpack 4096 (bytes / 512) img).map (BitVec.ofNat 4096)))

/-- Checks the destination of a drain; a queue has to have room. -/
def drainDest (i : Instr) (f : FmtX) (bytes : Nat) : M (List (Piece × Loc)) := do
  match f.fl.val % 4 with
  | 0 => do
    let q ← needQueue f.z.val
    if q.free < (bytes + 2047) / 2048 then stall
    return []
  | 1 => do
    let ga := (← thread).get f.z
    precheck ga 1 64 2
    let l ← checkPieces 1 .store (contiguous ga 64 256 0 bytes)
    let s ← get
    match l.find? (fun p => s.fixedLoc p.2) with
    | some p => raise .statWr p.1.ga.v 2
    | none => return l
  | _ => do
    if 32 < f.z.val + bytes / 512 then illegal i
    return []

/-- The destinations of a drain for R25. -/
def drainRes (f : FmtX) (bytes : Nat) : List Res :=
  .s f.x :: match f.fl.val % 4 with
    | 0 => [.q f.z.val]
    | 1 => []
    | _ => (List.range (bytes / 512)).map (fun k => .v (Fin.ofNat 32 (f.z.val + k)))

/-- `mdrain` (R238). The column scales are those of the entry of the binding's tid, whether or not the entry or the binding is
still valid; an accumulator that no `mbind` has named, tid 0, and an INT32 one have none (DEDUCED, log entry 37). -/
def execMdrain (f : FmtX) : State → Result :=
  run do
    let i := Instr.mdrain f
    let n ← needAcc i f.y
    if f.fl.val % 4 = 3 then illegal i
    if f.fl.val % 4 = 0 ∧ 8 ≤ f.z.val then throw (.fault .illFormed)
    if f.fl.val % 4 = 0 then do let _ ← needQueue f.z.val
    let s ← get
    let ctl := s.th.val f.x
    match drainType (field ctl 0 4) with
    | none => raise .illegal ctl 0
    | some ty =>
      if s.accBusy n then stall
      let a := s.th.acc n
      let bytes := 128 * ty.memBits
      if f.fl.val % 4 = 2 ∧ 32 < f.z.val + bytes / 512 then illegal i
      let w ← if a.tid ≠ 0 ∧ a.cls ≠ 1 then do pure (some (← snapshot a.tid)) else pure none
      let c := s.th.check n
      if c.failed && a.ctrap then do
        upd (fun s => s.logCheck c)
        checkFails f.lk (drainRes f bytes) n
      else if c.failed then do
        upd (fun s => s.logCheck c)
        updTh (fun t => (t.putInt f.x (drainStatus a c)).issueOut f.lk (drainRes f bytes))
      else
        let one := Num.fin false 1 0
        match w with
        | some d => if descKind d = 3 then upd (fun s => s.recall (scratchLoc s.turn.rank (descScaddr d + field ctl 16 16 * 128)) 128)
        | none => pure ()
        let s ← get
        match (match w with
          | some d => if descKind d = 3 then s.columnScales d (field ctl 16 16) else Except.ok (List.replicate 32 one)
          | none => Except.ok (List.replicate 32 one)) with
        | .error k => updTh (·.issueTrap f.lk (drainRes f bytes) .scale (word k) 0)
        | .ok ss =>
          let dest ← drainDest i f bytes
          let m := s.th.effMode (field ctl 4 3) true
          let sr := decide (m.1 = 5)
          let d := if sr then draws 1024 s.th.srseed else (List.replicate 1024 0, s.th.srseed)
          let r := (d.1.zip c.elems).mapIdx (fun k p => drainElem a.cls ty m.1 (bit ctl 7) (ss.getD (k % 32) one) p.1 p.2)
          let fl := r.foldl (fun x p => x ||| p.2) (if a.sat then flagNX else 0)
          if (s.th.raised fl).fpTraps fl then
            updTh (fun t => t.issueFpx f.lk (drainRes f bytes) fl)
          else
            drainWrite f (pack ty.memBits (r.map (·.1))) bytes dest
            upd (fun s => s.logCheck c)
            updTh (fun t => (((((t.applyCheck n c).seeded sr d.2).raised fl).warnIf .fmt m.2).putInt f.x (drainStatus a c)).issueOut f.lk
              (drainRes f bytes ++ piecesRes dest))

/-! ### mfix (R240) -/

/-- An accumulator sealed from its contents. -/
def Thread.seal (t : Thread) (n : Fin 8) : Thread :=
  let cls := (t.acc n).cls
  let l := t.accElems n cls
  let rows := (List.range 32).map (rowTerms cls l)
  let cols := (List.range 32).map (colTerms cls l)
  let mag := fun (x : List Num) => exactSum (x.map Num.absolute)
  let x := t.acc n
  t.aput n { x with cc := ckVec (rows.map (fun r => ckAdd cls 0 (exactSum r))), cr := ckVec (cols.map (fun r => ckAdd cls 0 (exactSum r))),
                    sc := ckVec (rows.map (fun r => ckAdd cls 0 (mag r))), sr := ckVec (cols.map (fun r => ckAdd cls 0 (mag r))),
                    bind := withField (clearBit x.bind 20) 32 16 0 }

/-- `mfix` and `mfix.ld` (R240). -/
def execMfix (f : FmtX) : State → Result :=
  run do
    let i := Instr.mfix f
    let n ← needAcc i f.x
    let s ← get
    let a := s.th.acc n
    if !a.valid then illegal i
    if s.accBusy n then stall
    if nbit f.fl.val 0 then
      let ga := s.th.get f.y
      precheck ga 1 64 1
      let l ← checkPieces 1 .load (contiguous ga 64 256 0 (128 * clsBits a.cls))
      let img ← readPieces l
      updTh (fun t => t.putElems n a.cls (unpack (clsBits a.cls) 1024 img))
    updTh (fun t => (t.seal n).issueOut f.lk ((t.accGroup n).map .acc))

end Sys2Proof.Machine
end

