-- ==== Sys2Proof/Machine/Sys.lean ====
section
/-!
DEFINITION. The sys group: traps, fences, tasks that begin, park, end and yield (R189-R194, R30-R33, R302, R303).
-/

namespace Sys2Proof.Machine

/-- `trap n` (R190). -/
def execTrap (f : FmtTrap) : State → Result := run (raise .trapI (f.n.setWidth 64) 0)

/-- `trap.brk n` (R190). -/
def execTrapBrk (f : FmtTrap) : State → Result := run (raise .brk (f.n.setWidth 64) 0)

/-- The return from a trap taken in monitor mode, by the registers of R299. -/
def State.returnMonitor (s : State) : State :=
  let m := s.monitor
  { s with monitor := { m with mstat := thstatReturned m.mstat } }.setTh
    { s.th with pc := { sb := BitVec.ofNat 8 (field m.mstat 56 8), v := m.mepc },
                replay := if bit m.mcause 12 then
                    mkReplay (BitVec.ofNat 16 (field m.mstat 13 1 + field m.mstat 41 15 * 2))
                  else none }

/-- `tret` (R303). -/
def execTret (f : FmtA) : State → Result :=
  run do
    if !(← get).supervisor then raise .priv (wordVal (.tret f)) 0
    updTh (·.lkIgnored f.lk)
    if (← thread).mode = 2 then upd (·.returnMonitor) else updTh (·.return)
    finish

/-- The scope of `fence`: 7 is system with WARN.FMT (R162, R189). -/
def fenceScope (f : FmtA) : Nat := min 6 (f.b.val % 8)

/-- `fence` (R107, R191). Every earlier access has been performed when a later instruction issues, so that each kind
orders what it names. -/
def execFence (f : FmtA) (s : State) : Result :=
  let s := s.fenceFlush s.turn.rank (fenceScope f)
  .next (s.modTh (fun t =>
    ((t.warnIf .fmt (decide (f.b.val / 8 = 3) || decide (f.b.val % 8 = 7))).lkIgnored f.lk).next))

/-- `ifence` (R110): earlier stores have been performed, and every later instruction is fetched anew. -/
def execIfence (f : FmtA) : State → Result := simple (fun t => t.lkIgnored f.lk)

/-! ### Tasks -/

/-- The constant of R29 for a child's generator. -/
def spawnSeed : Word := 0x2545F4914F6CDD1D

/-- The child of `spawn` (R27, R29, R192): its registers are the parent's at issue, its generator follows the parent's
draw. `k` is the parent; a slot without a task spawns as a DESIGN CHOICE, log entry 13, says. -/
def childTask (s : State) (k : Option Task) (target : Ptr) (arg : Word) (live : BitVec 32) (w : Nat) : Task :=
  let t := s.th
  { id := s.me.nextTaskId s.turn.rank, pc := target, prio := match k with | some k => k.prio | none => 7, aged := 0,
    mig := false, gang := false, matched := false, frame := false, parked := false, live := live, arg := arg,
    weight := w, join := match k with | some k => k.join | none => 0, domain := BitVec.ofNat 16 t.domid.toNat,
    origin := s.turn.rank % 0x10000, parkTok := 0, launch := match k with | some k => k.launch | none => 0xFFFFFFFF,
    regs := t.savedRegs live, src := .spawn, s5 := 0, s6 := 0, s7 := 0, evctl := t.evctl &&& 7,
    srseed := t.srseed ^^^ spawnSeed, tidbase := t.tidbase, tidlim := t.tidlim,
    wdog := match k with | some k => if k.matched then k.kidWdog else k.wdog | none => 0, ran := 0, since := 0, mitten := none, gangOf := none,
    copy := match k with | some k => k.copy | none => none, wait := .none, mon := none, bound := none, tiles := 0, replay := none, pend := 0,
    tokErr := 0, tokUnc := 0, stopped := false, kidWdog := 0, probe := domKey t.domid }

/-- A task of weight 0 counts as a message of its domain, and in its band's probe, from its creation to its end (R147, R192,
R271). -/
def State.countWeightless (s : State) (rank : Nat) (k : Task) (up : Bool) : State :=
  (s.modBand (rank / 16) (fun b => { b with matched := if up then b.matched + 1 else b.matched - 1 })).modCore rank
    (fun c => { c with msgD := adjust c.msgD k.probe (if up then 1 else -1) })

/-- `spawn` (R30, R192). -/
def execSpawn (f : FmtA) : State → Result :=
  run do
    let s ← get
    let t := s.th
    let target := t.get f.a
    if target.v.toNat % 4 ≠ 0 then raise .misalign target.v 0
    if s.me.readyFull then stall
    let w := match t.task with | some k => k.weight | none => 0
    if w = 1 then
      if !t.topup then do
        updTh (fun t => { t with topup := true })
        upd (fun s => { s with msgs := s.msgs ++ [.topup ((s.th.task.map (·.launch)).getD 0) s.turn] })
      stall
    let live := trimLive (BitVec.ofNat 32 (t.val f.d).toNat) none
    updTh (fun t => (t.draw.1.warnIf .mask live.2).lkIgnored f.lk)
    upd (fun s =>
      let k := childTask s t.task target (t.val f.b) live.1 (w / 2)
      let s := s.modMe (fun c => { c with taskSeq := c.taskSeq + 1 })
      let s := s.modTh (fun t => { t with task := t.task.map (fun k => { k with weight := w - w / 2 }) })
      let s := if w = 0 then s.countWeightless s.turn.rank k true else s
      s.makeReady s.turn.rank k)

/-- `park` and `park.mig` (R31, R32, R193): nothing where the token is not pending; else the task leaves its slot. A
slot that holds no task waits for the token (DESIGN CHOICE, log entry 13). -/
def park (mig : Bool) (f : FmtPark) : State → Result :=
  run do
    let t ← thread
    if bit t.pend f.a.val then
      match t.task with
      | none => stall
      | some k =>
        let live := trimLive (BitVec.ofNat 32 (t.val f.d).toNat) (some f.a)
        let s := (← get).modTh (fun t => ((t.warnIf .mask live.2).lkIgnored f.lk).next)
        match s.leavePark s.turn f.a live.1 (mig && k.mitten.isNone) with
        | none => stall
        | some (x, s') =>
          set (s'.modCore s'.turn.rank (fun c => { c with parked := c.parked ++ [x] }))
          finish
    else updTh (·.lkIgnored f.lk)

def execPark : FmtPark → State → Result := park false
def execParkMig : FmtPark → State → Result := park true

/-- The end of a task in a slot: its weight returns, its frame, mitten slot and slot are free (R30, R33, R325). -/
def State.endTask (s : State) (w : Turn) : State :=
  match (s.thAt w).task with
  | none => s.modThAt w (·.emptied)
  | some k =>
    let s := if k.weight = 0 then s.countWeightless w.rank k false
      else { s with msgs := s.msgs ++ [.weight k.launch k.weight] }
    ((s.unbindFrame w.rank k.id).freeMitten w.rank k.id).modThAt w (·.emptied)

/-- The cause of a code; TRAPI where there is none. -/
def causeOf (code : Nat) : Cause :=
  match [Cause.illegal, .priv, .aperture, .misalign, .notPresent, .prot, .statWr, .nonLocal, .scale, .rowRep, .refresh,
         .thermal, .uncorr, .chkFail, .rpcFail, .tokErr, .fpx, .trapI, .brk, .watchdog, .missOvf, .bandFlt, .barTo].find?
    (fun c => decide (c.code = code)) with
  | some c => c
  | none => .trapI

/-- The cause of a task that its handler ends: TCAUSE.CODE, or TRAPI if that is 0 (R325). -/
def failCode (tcause : Word) : BitVec 8 := if field tcause 0 8 = 0 then Cause.byte .trapI else BitVec.ofNat 8 (field tcause 0 8)

/-- `tend` (R33): waits for the task's tokens, releases at package scope, and ends the task; with THSTAT.FAIL set the
task fails (R302). -/
def execTend (f : FmtA) : State → Result :=
  run do
    let t ← thread
    if bit t.thstat 12 && t.task.isSome then
      updTh (·.failWith (failCode t.tcause))
      finish
    if t.pend ≠ 0 then stall
    updTh (·.lkIgnored f.lk)
    upd (fun s => (s.fenceFlush s.turn.rank 4).endTask s.turn)
    finish

/-- `tyield` (R194): the task gives its slot to a ready task of at least its priority; with every frame bound it goes
on (R306). -/
def execTyield (f : FmtA) : State → Result :=
  run do
    let s ← get
    updTh (·.lkIgnored f.lk)
    match s.th.task, s.me.ready with
    | some k, x :: _ =>
      if k.eff ≤ x.eff then
        let s := (← get).modTh Thread.next
        match s.leaveFull s.turn with
        | none => pure ()
        | some (y, s') =>
          set (s'.makeReady s'.turn.rank y)
          finish
      else pure ()
    | _, _ => pure ()

/-- `rdcyc d` (R194). -/
def execRdcyc (f : FmtA) (s : State) : Result :=
  .next (s.modTh (fun t => ((t.putInt f.d s.cycle).lkIgnored f.lk).next))

/-- `rank d` (R194). -/
def execRank (f : FmtA) (s : State) : Result :=
  .next (s.modTh (fun t => ((t.putInt f.d (word (s.turn.rank % 0x10000))).lkIgnored f.lk).next))

/-- `wfi` (R303): issue stops until IPEND and IEN share a bit; on an agent, until the next request or trigger
completion (R194). -/
def execWfi (f : FmtA) : State → Result :=
  run do
    let s ← get
    if !s.supervisor then raise .priv (wordVal (.wfi f)) 0
    updTh (fun t => { t.lkIgnored f.lk with wfi := if s.turn.slot = 4 then decide (s.me.agent.requests = []) else decide (t.ipend &&& t.ien = 0) })

end Sys2Proof.Machine
end

