-- ==== Sys2Proof/Machine/Band.lean ====
section
/-!
DEFINITION. Bands and pairing: tiles and their movement, injection, encounters, ejection and retirement (R138-R153), and
the band instructions (R245-R251).
-/

namespace Sys2Proof.Machine

/-- An installed set. -/
def Band.set (b : Band) (n : Nat) : Option PairSet := b.glove.getD n none

/-! ### Tiles that leave (R141, R149, R150) -/

/-- MISSOVF for a tile: IPEND.MISS at the system core, whose TVAL is that of the first event (R149, R297, R301). -/
def State.missOverflow (s : State) (b : Nat) (x : Tile) : State :=
  match s.partOf (b * 16) with
  | none => s
  | some p =>
    match s.part p with
    | none => s
    | some q =>
      let w : Turn := { rank := q.spec.sys, slot := 0 }
      let s := s.modThAt w (fun t => if bit t.ipend 2 then t else { t with missTval := word (b * 16 * 2 ^ 16 + x.set * 2 ^ 8 + x.orig) })
      s.raiseIrq p 2

/-- Entries of a missed-encounter queue that are in use or on their way. -/
def State.queueFill (s : State) (b orig set : Nat) : Nat :=
  (s.core (b * 16 + orig)).meqCount.getD set 0
    + ((s.band b).writing.filter (fun e => decide (e.tile.orig = orig) && decide (e.tile.set = set))).length

/-- An ejection reaches its queue: written there, or waiting where the queue is full (R149). -/
def State.reachQueue (s : State) (b : Nat) (e : Ejection) : State :=
  if s.queueFill b e.tile.orig e.tile.set < 32 then
    s.modBand b (fun x => { x with writing := x.writing ++ [{ e with waiting := false }] })
  else
    (s.modBand b (fun x => { x with eject := { e with waiting := true } :: x.eject })).missOverflow b e.tile

/-- A tile leaves the band at a position (R271). -/
def State.tileLeaves (s : State) (b p : Nat) (x : Tile) : State := s.received (b * 16 + p) (domKey x.dom)

/-- A tile is removed with BANDFLT at a position: written at its origin, or sent there as a message (R149). -/
def State.ejectFault (s : State) (b p : Nat) (x : Tile) : State :=
  let e : Ejection := { tile := { x with bad := false }, cause := Cause.bandFlt.code, place := p, waiting := false }
  let s := s.tileLeaves b p x
  if p = x.orig then s.reachQueue b e
  else (s.sent (b * 16 + p) (domKey x.dom)).modBand b (fun y => { y with eject := y.eject ++ [e] })

/-- A failed check value of a payload (R348). -/
def State.logPayload (s : State) (rank : Nat) : State := s.logError rank 2 1 0 0

/-- A header that its port cannot correct (R141): the tile goes to the queue of the origin that two copies agree on, or, where
none agree, is discarded and every installed set is faulted. -/
def State.headerFault (s : State) (b p : Nat) (x : Tile) : State :=
  let s := s.logError (b * 16 + p) 6 (1 + ofBool x.inj * 2) 0 (x.set * 2 ^ 8 + x.orig)
  match x.vote with
  | some v => s.ejectFault b p (x.named v).sealed
  | none =>
    (s.tileLeaves b p x).modBand b (fun y => { y with glove := y.glove.map (fun g => g.map (fun g => { g with faulted := true })) })

/-- A header that its port corrects (R141): counted, and it moves on unchanged. -/
def State.correctHeader (s : State) (b p : Nat) (x : Tile) : State :=
  if x.weak then s.modCore (b * 16 + p) (fun c => { c with log := { c.log with chdr := saturate32 (c.log.chdr + 1) } }) else s

/-- The end of a dwell (R149): a tile that has run its laps is ejected at its origin, or held on the band while the queue
is full. The tile that moves on, if any. -/
def State.endDwell (s : State) (b p : Nat) (x : Tile) : State × Option Tile :=
  if !x.bcast && decide (p = x.orig) && decide (x.pmask ≠ 0) && decide (x.lapCnt = x.lapLim) then
    if s.queueFill b x.orig x.set < 32 then
      let good := x.intact
      let s := if good then s else s.logPayload (b * 16 + p)
      let e : Ejection := { tile := { x with held := false }, cause := if good then 0 else Cause.bandFlt.code, place := p, waiting := false }
      ((s.tileLeaves b p x).reachQueue b e, none)
    else (if x.held then s else s.missOverflow b x, some { x with held := true })
  else (s, some x)

/-- The tile of a gang's position 0 passes a core: it fills the slot reserved by the oldest gang operation there that
waits (R134, R235). -/
def State.copyBroadcast (s : State) (rank : Nat) (x : Tile) : State :=
  match (s.core rank).mops.find? (fun m => m.kind.isGang && m.dead.isNone) with
  | some m => if !m.read then s.fillSlot noBehalf rank m.queue m.seq x.payload else s
  | none => s

/-- A tile arrives at a position (R141, R143, R149, R150): what stays in the dwell slot. -/
def State.arriveTile (s : State) (b q : Nat) (x : Tile) : State × Option Tile :=
  if x.bad then (s.headerFault b q x, none)
  else
    let s := s.correctHeader b q x
    let x := { x with weak := false }
    if x.bcast then
      if q = 0 then (s.tileLeaves b q x, none) else (s.copyBroadcast (b * 16 + q) x, some x)
    else if x.pmask = 0 then
      (((s.tileLeaves b q x).sent (b * 16 + q) (domKey x.dom)).modBand b (fun y =>
        { y with retire := y.retire ++ [(x.orig, x.set, domKey x.dom)] }), none)
    else (s, some (if q = x.orig ∧ x.lapCnt < x.lapLim then Tile.recoded { x with lapCnt := x.lapCnt + 1 } else x))

/-! ### Encounters (R145-R148) -/

/-- Where a table entry lies, seen from a core that runs no thread for it: its place, if it has one. A global one is found by
the translation that the core holds, or a walk (R335). -/
def State.tablePlace (s : State) (rank : Nat) (ga : Ptr) : Option Loc :=
  let off := ga.v.toNat
  match ga.sb.toNat with
  | 0xF0 => some (scratchLoc rank off)
  | 0xF1 => none
  | 0xF2 => some (scratchLoc (off / 2 ^ 48) (off % 2 ^ 48))
  | 0xF3 => some (vaultLoc rank off)
  | sb =>
    let c := s.core rank
    if 0xF0 ≤ sb || !bit c.ptbase 0 then none
    else match s.entryFor rank false (field c.asid 0 16) c.ptbase (vpnOf ga) with
      | .ok t => some (placeOf ((s.partOf rank).getD 0) t.1.leaf t.1.sz (vpnOf ga) off)
      | .error _ => none

/-- The entry of a tid in a set's table at an acceptance (R147, R293), valid or not; none where the table does not hold the
tid. -/
def State.setDesc (s : State) (rank : Nat) (g : PairSet) (tid : Nat) : Option Desc :=
  if tid = 0 ∨ g.tidlim.toNat ≤ tid then none
  else (s.tablePlace rank (tableGa g.tidbase tid)).map (fun l => BitVec.ofNat 512 (s.look l 64))

/-- The binding of a matched task (R147): none where ACCRULE asks for none, or `mbind` would refuse it. -/
def matchBinding (g : PairSet) (w a : Option Desc) : Option (Fin 8 × Word) :=
  match w with
  | some d =>
    -- the A entry is read for its KIND alone, and for an integer W type alone (R233)
    let ints := decide (descEt d = 0xC) || decide (descEt d = 0xD)
    let cls := bindClass d ((a.map descKind).getD 0)
    if !bit g.accRule 0 || badWeight (descEt d) || !descV d || (ints && a.isNone) || (decide (descKind d = 3) && decide (cls = 1)) then none
    else some (Fin.ofNat 8 (field g.accRule 1 3), bindWord 0 0 g.ccwTid cls (bit g.accRule 4) (bit g.accRule 5) true)
  | none => none

/-- The matched task of a set and a pair (R29, R147). -/
def State.matchedTask (s : State) (rank set : Nat) (g : PairSet) (x y : Tile) (k : Nat) (b : Option (Fin 8 × Word)) : Task :=
  { id := (s.core rank).nextTaskId rank, pc := g.pc, prio := g.prio, aged := 0, mig := false, gang := false, matched := true,
    frame := false, parked := false, live := 0, arg := word set, weight := 0, join := 0, domain := g.domain,
    origin := rank % 0x10000, parkTok := 0, launch := g.launch, regs := [], src := .matched, s5 := word x.idx, s6 := word y.idx,
    s7 := g.argBase, evctl := g.evctl &&& 7,
    srseed := g.srseed ^^^ word (set * 2 ^ 16 + x.idx * 2 ^ 8 + y.idx), tidbase := g.tidbase, tidlim := g.tidlim, wdog := 0,
    ran := 0, since := 0, mitten := some k, gangOf := none, copy := none, wait := .none, mon := none, bound := b, tiles := 0,
    replay := none, pend := 0, tokErr := 0, tokUnc := 0, stopped := false, kidWdog := g.wdog,
    probe := domKey (g.domain.setWidth 64) }

/-- An accepted encounter (R146 steps 1-4, R147). -/
def State.acceptPair (s : State) (b p set k : Nat) (g : PairSet) (x y : Tile) : State :=
  let rank := b * 16 + p
  let s := s.store noBehalf (scratchLoc rank (0x2FE000 + k * 0x800)) 0x800 y.payload
  let s := s.store noBehalf (scratchLoc rank (0x33E000 + k * 0x800)) 0x800 x.payload
  let w := s.setDesc rank g g.ccwTid
  let a := s.setDesc rank g g.cwTid
  let sums := match w with
    | some d => let sh := shapeOf (descEt d); wsumOf d y.payload 0 (s.book rank d) (s.record rank d sh.n sh.k y.idx) none
    | none => []
  let t := s.matchedTask rank set g x y k (matchBinding g w a)
  let s := s.modCore rank (fun c => { c with
    taskSeq := c.taskSeq + 1
    mitten := c.mitten.setIfInBounds k (some { task := t.id, set := set, i := x.idx, j := y.idx, wsum := sums }) })
  let s := s.modBand b (fun z => { z with
    cw := z.cw.setIfInBounds p (some (Tile.recoded { x with pmask := clearBit x.pmask y.idx }))
    ccw := z.ccw.setIfInBounds p (some (Tile.recoded { y with pmask := clearBit y.pmask x.idx })) })
  (s.countWeightless rank t true).makeReady rank t

/-- A missed encounter is logged (R148): `t` is the cycle of its window. -/
def State.logMiss (s : State) (rank t set why : Nat) (x y : Tile) : State :=
  let e := word (t % 2 ^ 40 * 2 ^ 24 + x.lapCnt * 2 ^ 21 + why * 2 ^ 19 + y.idx * 2 ^ 11 + x.idx * 2 ^ 3 + set)
  s.modCore rank (fun c =>
    if c.missLog.length < 32 then { c with missLog := c.missLog ++ [e] }
    else { c with missLog := c.missLog.drop 1 ++ [e], missOvf := min (c.missOvf + 1) 0xFFFF })

/-- Tiles whose payload fails at an encounter are ejected with BANDFLT (R146). -/
def State.failPair (s : State) (b p : Nat) (fam : Family) (x : Tile) : State :=
  if x.intact then s
  else ((s.logPayload (b * 16 + p)).modBand b (fun z => z.setRing fam ((z.ring fam).setIfInBounds p none))).ejectFault b p x

/-- The encounter window of a core (R145, R146). -/
def State.window (s : State) (b p : Nat) : State :=
  let z := s.band b
  match z.cw.getD p none, z.ccw.getD p none with
  | some x, some y =>
    if x.bcast || y.bcast || decide (x.set ≠ y.set) || !(x.pmask.getLsbD y.idx && y.pmask.getLsbD x.idx) then s
    else match z.set x.set with
      | none => s
      | some g =>
        if g.faulted then s
        else if !x.intact || !y.intact then (s.failPair b p .cw x).failPair b p .ccw y
        else
          let c := s.core (b * 16 + p)
          let full := decide (64 ≤ c.ready.length)
          match (List.range 4).find? (fun k => (c.mitten.getD k none).isNone) with
          | some k => if full then s.logMiss (b * 16 + p) (z.cycle + z.hold) x.set 1 x y else s.acceptPair b p x.set k g x y
          | none => s.logMiss (b * 16 + p) (z.cycle + z.hold) x.set (if full then 2 else 0) x y
  | _, _ => s

/-! ### The events of a band -/

/-- The move of one tile to its next position. -/
def State.moveTile (s : State) (b : Nat) (fam : Family) (old : Vector (Option Tile) 16) (p : Nat) : State :=
  match old.getD p none with
  | none => s
  | some x =>
    let q := match fam with
      | .cw => (p + 1) % 16
      | .ccw => (p + 15) % 16
    let r := s.endDwell b p x
    match r.2 with
    | none => r.1
    | some x =>
      let r := r.1.arriveTile b q x
      r.1.modBand b (fun z => z.setRing fam ((z.ring fam).setIfInBounds q r.2))

/-- BAND_STEP (R138, R152): two band cycles pass, one family moves, and every core's window is decided. -/
def execBandStep (b : Nat) (s : State) : Result :=
  let t := (s.band b).cycle + 2
  let fam := if t % 4 = 0 then Family.cw else .ccw
  let old := (s.band b).ring fam
  let s := s.modBand b (fun z => { z.setRing fam (.replicate 16 none) with cycle := t })
  let s := (List.range 16).foldl (fun s p => s.moveTile b fam old p) s
  let s := s.modBand b (fun z => { z with free := (List.range 16).filter (fun p => ((z.ring fam).getD p none).isNone) })
  .next ((List.range 16).foldl (fun s p => s.window b p) s)

/-- The injection of a family that may go first at a core (R142): the first claim of the family, or any where none
stands; oldest first, ties to the lowest position. -/
def Band.mayInject (z : Band) (fam : Family) (p : Nat) : Option Injection :=
  let l := z.pend.filter (fun x => decide (x.tile.fam = fam) && decide (x.since ≤ z.cycle))
  let first := fun (l : List Injection) => l.foldl (fun (m : Option Injection) x => match m with
    | none => some x
    | some y => if x.since < y.since ∨ (x.since = y.since ∧ x.pos < y.pos) then some x else m) none
  match first (l.filter (·.claim)) with
  | some x => if x.pos = p then some x else none
  | none => first (l.filter (fun x => decide (x.pos = p)))

/-- Whether BAND_INJECTION can happen at a core: its family has moved and left the slot free. -/
def Band.injectable (z : Band) (fam : Family) (p : Nat) : Bool :=
  movesAt fam z.cycle && z.free.contains p && ((z.ring fam).getD p none).isNone && (z.mayInject fam p).isSome

/-- BAND_INJECTION (R142): the tile enters the slot, INJ rises, and it may meet a partner in its first dwell. -/
def execBandInjection (r : Nat) (fam : Family) (s : State) : Result :=
  let b := r / 16
  let p := r % 16
  let z := s.band b
  if !z.injectable fam p then .next s
  else match z.mayInject fam p with
    | none => .next s
    | some x =>
      let s := s.modBand b (fun z => { z.setRing fam ((z.ring fam).setIfInBounds p (some x.tile)) with
        free := z.free.filter (fun q => decide (q ≠ p)), pend := z.pend.filter (fun y => decide (y ≠ x)) })
      let s := s.sent r (domKey x.tile.dom)
      let s := if x.tile.bcast then s
        else s.modCore r (fun c => { c with inj := c.inj.setIfInBounds x.tile.set (c.inj.getD x.tile.set 0 + 1) })
      .next (s.window b p)

/-- INJECTION_CLAIM (R142): after 64 band cycles the oldest injection of a core raises its claim. -/
def execInjectionClaim (r : Nat) (fam : Family) (s : State) : Result :=
  let z := s.band (r / 16)
  let due := fun (x : Injection) => decide (x.pos = r % 16) && decide (x.tile.fam = fam) && !x.claim && decide (x.since + 64 ≤ z.cycle)
  match z.pend.find? due with
  | none => .next s
  | some x => .next (s.modBand (r / 16) (fun z => { z with pend := z.pend.map (fun y => if y = x then { y with claim := true } else y) }))

/-- The first band that a test accepts. -/
def State.findBand (s : State) (f : Band → Bool) : Option Nat := (s.bands.find? (fun p => f p.2)).map (·.1)

/-- RETIRE_NOTICE (R150): RET rises at the origin. -/
def execRetireNotice (s : State) : Result :=
  match s.findBand (fun z => decide (z.retire ≠ [])) with
  | none => .next s
  | some b =>
    match (s.band b).retire with
    | [] => .next s
    | (o, n, d) :: rest =>
      let s := s.modBand b (fun z => { z with retire := rest })
      .next ((s.received (b * 16 + o) d).modCore (b * 16 + o) (fun c => { c with ret := c.ret.setIfInBounds n (c.ret.getD n 0 + 1) }))

/-- Whether an ejection can go on: it travels, or waits for a queue that has room. -/
def State.ejectReady (s : State) (b : Nat) (e : Ejection) : Bool :=
  !e.waiting || decide (s.queueFill b e.tile.orig e.tile.set < 32)

/-- EJECTION_MESSAGE (R149): a removal arrives at its origin, or one that waits there finds room. -/
def execEjectionMessage (s : State) : Result :=
  match s.bands.find? (fun p => p.2.eject.any (s.ejectReady p.1)) with
  | none => .next s
  | some (b, z) =>
    match takeFirst (s.ejectReady b) z.eject with
    | none => .next s
    | some (e, rest) =>
      let s := s.modBand b (fun z => { z with eject := rest })
      let s := if e.waiting then s else s.received (b * 16 + e.tile.orig) (domKey e.tile.dom)
      .next (s.reachQueue b e)

/-- The place of entry e of an origin's queue: the translations latched at the `bset` (R144). -/
def PairSet.entry (g : PairSet) (p e : Nat) : Option Loc :=
  match (g.regions.filter (fun r => decide (r.1 = p)))[e / 16]? with
  | some (_, home, off) => some (vaultLoc home (off + e % 16 * 0x1000))
  | none => none

/-- The 4 KiB of an entry (R149). -/
def Ejection.image (e : Ejection) : Nat :=
  e.tile.payload + e.tile.header * 256 ^ 0x800 + (e.cause + e.tile.lapCnt * 2 ^ 8 + e.place * 2 ^ 16) * 256 ^ 0x840

/-- The entry that an ejection of a band writes next, where nothing keeps it away. -/
def State.ejectPlace (s : State) (b : Nat) (e : Ejection) : Option Loc :=
  match (s.band b).set e.tile.set with
  | none => none
  | some g =>
    let c := s.core (b * 16 + e.tile.orig)
    match g.entry e.tile.orig ((c.meqHead.getD e.tile.set 0 + c.meqCount.getD e.tile.set 0) % 32) with
    | some l => if s.meets false l = .nothing then some l else none
    | none => none

/-- EJECTION_WRITE_COMPLETE (R149): the entry is performed at its home, and EJ rises. -/
def execEjectionWriteComplete (s : State) : Result :=
  match s.bands.find? (fun p => p.2.writing.any (fun e => (s.ejectPlace p.1 e).isSome)) with
  | none => .next s
  | some (b, z) =>
    match takeFirst (fun e => (s.ejectPlace b e).isSome) z.writing with
    | none => .next s
    | some (e, rest) =>
      match s.ejectPlace b e with
      | none => .next s
      | some l =>
        let n := e.tile.set
        let s := s.modBand b (fun z => { z with writing := rest })
        let s := (s.recall l 0x1000).store noBehalf l 0x800 e.tile.payload
        let s := s.store noBehalf (l.plus 0x800) 0x800 (bytesAt e.image 0x800 0x800)
        .next (s.modCore (b * 16 + e.tile.orig) (fun c => { c with
          ej := c.ej.setIfInBounds n (c.ej.getD n 0 + 1), meqCount := c.meqCount.setIfInBounds n (c.meqCount.getD n 0 + 1) }))

/-! ### The band's probe (R151, R271) -/

/-- Whether a circuit over the band returns a zero sum: no injection waits, no pair tile is on the band, no notice or
ejection travels, and no matched task or descendant runs. -/
def Band.quiet (z : Band) : Bool :=
  z.pend.all (·.tile.bcast) && z.cw.toList.all (fun x => (x.map (·.bcast)).getD true) && z.ccw.toList.all (fun x => (x.map (·.bcast)).getD true)
    && decide (z.retire = []) && decide (z.eject = []) && decide (z.matched = 0)

/-- A run of the probe of a set (R151, R271): whether the set is complete, and the state after it. The circuit takes one step,
so that no `binj` falls into it; it is black where a message of the set's domain has come in since the last one, and leaves B
clear (DEDUCED, log entry 32). -/
def State.runSetProbe (s : State) (b n : Nat) : Bool × State :=
  match (s.band b).set n with
  | none => (false, s)
  | some g =>
    let d := domKey (g.domain.setWidth 64)
    let l := (List.range 16).map (fun p => b * 16 + p)
    let white := l.all (fun r => !(s.core r).msgB.contains d)
    let even := l.all (fun r =>
      let c := s.core r
      decide (c.inj.getD n 0 = c.ret.getD n 0 + c.ej.getD n 0))
    (!g.faulted && (s.band b).quiet && white && even,
     l.foldl (fun s r => if (s.core r).msgB.contains d then s.modCore r (fun c => { c with msgB := c.msgB.filter (fun x => decide (x ≠ d)) }) else s) s)

/-! ### binj (R245) -/

/-- `binj` (R245). -/
def execBinj (f : FmtX) : State → Result :=
  run do
    let s ← get
    if s.me.sstep.any (fun p => !p.done) then stall
    let r := s.turn.rank
    let pga := s.th.get f.x
    let dga := s.th.get f.y
    let poff ← scratchGa pga 0x800 0x800 7
    let doff ← scratchGa dga 64 64 7
    let img ← readAt pga (scratchLoc r poff) 0x800 7
    let d ← readAt dga (scratchLoc r doff) 64 7
    let mode := bytesAt d 0x21 1
    let n := mode % 8
    let lim := mode / 16 % 8
    match (s.band (r / 16)).set n with
    | none => raise .illegal dga.v 7
    | some g =>
      if lim = 0 then raise .illegal dga.v 7
      if g.faulted then raise .bandFlt dga.v 7
      let bad ← injected 5
      upd (fun s =>
        let fam := if nbit mode 3 then Family.ccw else .cw
        let tile : Tile := Tile.sealed
          { payload := img, pmask := BitVec.ofNat 256 d, chk := BitVec.ofNat 32 (crc32c 2048 img),
            tid := if fam = .ccw then g.ccwTid else g.cwTid, idx := bytesAt d 0x20 1, orig := r % 16, lapLim := lim,
            lapCnt := 0, set := n, fam := fam, bcast := false, hecc := 0, copy1 := 0, copy2 := 0, weak := false, bad := bad,
            inj := bad, held := false, dom := s.th.domid }
        let id := s.me.nextId
        let s := s.syncBand (r / 16)
        let s := s.modMe (fun c => { c with nextId := c.nextId + 1 })
        let s := s.modBand (r / 16) (fun z =>
          { z with pend := z.pend ++ [{ id := id, pos := r % 16, tile := tile, slot := s.turn.slot, since := s.bandNow (r / 16), claim := false }] })
        s.modTh (fun t => t.issueWaiting f.lk [] (.inj id)))

/-! ### bset and bclr (R246, R247) -/

/-- The status of `bset` and `bclr`. -/
def setStatus (why rank : Nat) : Word :=
  word ((if why = 0 then 0 else if why = 2 ∨ why = 3 then Cause.statWr.code else Cause.illegal.code) + why * 2 ^ 8 + rank % 2 ^ 16 * 2 ^ 16)

/-- The translation of a page of a missed-encounter region by the thread that issues (R144, R335). -/
def State.regionEntry (s : State) (ga : Ptr) : Except WalkStop (TlbEntry × Option Leaf) :=
  s.entryFor s.turn.rank false (field s.me.asid 0 16) s.me.ptbase (vpnOf ga)

/-- A translated page: its GA, its offset in its home's vault, its entry, and the leaf of a walk. -/
structure RegionPage where
  ga : Ptr
  home : Nat
  off : Nat
  entry : TlbEntry
  leaf : Option Leaf
  deriving DecidableEq, Repr

/-- A page of a missed-encounter region (R144); none where it is not mapped with write permission, or its home is another
core. -/
def State.regionPage (s : State) (home : Nat) (ga : Ptr) : Option RegionPage :=
  match s.regionEntry ga with
  | .error _ => none
  | .ok (t, x) =>
    let p := s.livePlace ((s.partOf s.turn.rank).getD 0) (placeOf 0 t.leaf t.sz (vpnOf ga) ga.v.toNat)
    if permits t.leaf .store s.supervisor && decide (p.region = .vault) && decide (p.home = home) then
      some { ga := ga, home := home, off := p.off, entry := t, leaf := x }
    else none

/-- Page h of the region of position p. -/
def regionGa (ej : Word) (p h : Nat) : Ptr := { sb := 0, v := ej + word (p * 0x20000 + h * 0x10000) }

/-- The pages of the sixteen regions, each with the core that it must have as its home. -/
def regionGas (rank : Nat) (ej : Word) : List (Nat × Ptr) :=
  (List.range 32).map (fun k => (rank / 16 * 16 + k / 2, regionGa ej (k / 2) (k % 2)))

/-- The pages of the sixteen regions, or the lowest-ranked core whose page fails. -/
def State.regionPages (s : State) (rank : Nat) (ej : Word) : Except Nat (List RegionPage) :=
  let pages := (regionGas rank ej).map (fun g => (g.1, s.regionPage g.1 g.2))
  match pages.find? (fun p => p.2.isNone) with
  | some p => .error p.1
  | none => .ok (pages.filterMap (·.2))

/-- The vault row for which a translation of these pages waits: one of its walk (R337), or of its set-D (R333). -/
def State.regionWaits (s : State) (rank : Nat) (ej : Word) : Option Loc :=
  (regionGas rank ej).findSome? (fun g => match s.regionEntry g.2 with
    | .error (.waits l) => some l
    | .error (.fault _) => none
    | .ok (t, _) =>
      let l := vaultLoc t.home t.off
      if !bit t.leaf 58 && permits t.leaf .store s.supervisor && decide (s.meets false l ≠ .nothing) then some l else none)

/-- The cores of a band, ascending. -/
def bandRanks (b : Nat) : List Nat := (List.range 16).map (fun p => b * 16 + p)

/-- A stationary position among 44-47 of macro 31 (R123). -/
def Core.stationaryTop (c : Core) : Bool := c.ranges.any (fun g => decide (1532 < g.p0 + g.count))

/-- A queue over the pair buffer (R123). -/
def Core.queueOverPair (c : Core) : Bool := c.queues.toList.any (fun q => q.cfg && decide (0x33E000 < q.base + q.cap * 0x800))

/-- The page of a region as one that is written: its walk fills the TLB, and D is set in its leaf (R333). -/
def State.markWritten (s : State) (p : RegionPage) : State :=
  let rank := s.turn.rank
  let s := match p.leaf with
    | some x => s.fill rank false (vpnOf p.ga) (field s.me.asid 0 16) x
    | none => s.promote rank false p.entry
  if bit p.entry.leaf 58 then s else s.setDirty rank false p.entry

/-- The first reason for which a `bset` refuses, in the order of R246, with the core it names; else the pages. -/
def State.bsetCheck (s : State) (n pc ej : Nat) : Except (Nat × Nat) (List RegionPage) :=
  let b := s.turn.rank / 16
  let first := (s.band b).glove.toList.all (·.isNone)
  if pc % 4 ≠ 0 ∨ ej % 0x20000 ≠ 0 then .error (4, 0)
  else if ((s.band b).set n).isSome then .error (1, 0)
  else match s.regionPages s.turn.rank (word ej) with
    | .error r => .error (7, r)
    | .ok l =>
      match first, (bandRanks b).find? (fun r => (s.core r).stationaryTop), (bandRanks b).find? (fun r => (s.core r).queueOverPair) with
      | true, some r, _ => .error (2, r)
      | true, none, some r => .error (3, r)
      | _, _, _ => .ok l

/-- Pairing begins on a band: the mitten slots hold nothing and read as zero (R120). -/
def State.wipeMittens (s : State) (b : Nat) : State :=
  (bandRanks b).foldl (fun s r => s.wipe (scratchLoc r 0x2FE000) 0x2000) s

/-- Installs a set on a band (R144, R246). -/
def State.installSet (s : State) (n d : Nat) (l : List RegionPage) : State :=
  let b := s.turn.rank / 16
  let t := s.th
  let g : PairSet :=
    { pc := { sb := BitVec.ofNat 8 (bytesAt d 8 1), v := word (bytesAt d 0 8) }, prio := bytesAt d 9 1 % 8, cwTid := bytesAt d 0xA 1, ccwTid := bytesAt d 0xB 1,
      accRule := BitVec.ofNat 8 (bytesAt d 0xC 1), domain := BitVec.ofNat 16 (bytesAt d 0xE 2), argBase := word (bytesAt d 0x10 8),
      ejBase := word (bytesAt d 0x18 8), regions := l.map (fun x => (x.home % 16, x.home, x.off)), evctl := t.evctl &&& 7, srseed := t.srseed,
      tidbase := t.tidbase, tidlim := t.tidlim,
      launch := match t.task with
        | some k => k.launch
        | none => 0xFFFFFFFF,
      wdog := match t.task with
        | some k => if k.matched then k.kidWdog else k.wdog
        | none => 0,
      faulted := false }
  let s := if (s.band b).glove.toList.all (·.isNone) then s.wipeMittens b else s
  let s := l.foldl (fun s x => (s.markWritten x).hold x.home (x.off / 0x10000)) s
  s.modBand b (fun z => { z with glove := z.glove.setIfInBounds n (some g) })

/-- `bset` (R246). -/
def execBset (f : FmtX) : State → Result :=
  run do
    let t ← thread
    let ga := t.get f.z
    let off ← scratchGa ga 32 32 7
    let d ← readAt ga (scratchLoc (← get).turn.rank off) 32 7
    let n := (t.val f.y).toNat % 8
    let pc := bytesAt d 0 8
    let ej := bytesAt d 0x18 8
    let s ← get
    if pc % 4 = 0 ∧ ej % 0x20000 = 0 ∧ ((s.band (s.turn.rank / 16)).set n).isNone then
      match s.regionWaits s.turn.rank (word ej) with
      | some l => do upd (·.noteWaiting l); stall
      | none => pure ()
    match s.bsetCheck n pc ej with
    | .error e => updTh (fun t => (t.putInt f.x (setStatus e.1 e.2)).issueOut f.lk [.s f.x])
    | .ok l =>
      upd (fun s => s.installSet n d l)
      updTh (fun t => (t.putInt f.x 0).issueOut f.lk [.s f.x])

/-- Removes a set: its counts and queue pointers are reset, its pages freed; with the last set pairing ends (R247). -/
def State.uninstall (s : State) (b n : Nat) (g : PairSet) : State :=
  let s := (bandRanks b).foldl (fun s r => s.modCore r (fun c => { c with
    inj := c.inj.setIfInBounds n 0, ret := c.ret.setIfInBounds n 0, ej := c.ej.setIfInBounds n 0,
    meqHead := c.meqHead.setIfInBounds n 0, meqCount := c.meqCount.setIfInBounds n 0 })) s
  let s := g.regions.foldl (fun s r => s.unhold r.2.1 (r.2.2 / 0x10000)) s
  let s := s.modBand b (fun z => { z with glove := z.glove.setIfInBounds n none })
  if (s.band b).glove.toList.all (·.isNone) then s.wipeMittens b else s

/-- `bclr` (R247). -/
def execBclr (f : FmtX) (s : State) : Result :=
  let b := s.turn.rank / 16
  let n := (s.th.val f.y).toNat % 8
  let r := match (s.band b).set n with
    | none => (setStatus 6 0, s)
    | some g => match s.runSetProbe b n with
      | (true, s) => (0, s.uninstall b n g)
      | (false, s) => (setStatus 5 0, s)
  .next (r.2.modTh (fun t => ((t.putInt f.x r.1).issueOut f.lk [.s f.x]).next))

/-! ### bmiss, bstat, pget, prel (R248-R251) -/

/-- `bmiss` and `bmiss.ovf` (R248). -/
def execBmiss (f : FmtX) (s : State) : Result :=
  let c := s.me
  let r := if nbit f.fl.val 0 then (word c.missOvf, { c with missLog := [], missOvf := 0 })
    else match c.missLog with
      | [] => (BitVec.allOnes 64, c)
      | e :: rest => (e, { c with missLog := rest })
  .next ((s.modMe (fun _ => r.2)).modTh (fun t => ((t.putInt f.x r.1).issueOut f.lk [.s f.x]).next))

/-- Whether a tile of a set waits for a full queue (R249). -/
def Band.waitsFull (z : Band) (n : Nat) : Bool :=
  let held := fun (x : Option Tile) => match x with
    | some t => t.held && decide (t.set = n)
    | none => false
  z.cw.toList.any held || z.ccw.toList.any held || z.eject.any (fun e => e.waiting && decide (e.tile.set = n))

/-- Code 0 of `bstat`, with the state after its probe. -/
def State.setState (s : State) (b n : Nat) : Word × State :=
  match (s.band b).set n with
  | none => (0x200, s)
  | some g =>
    let r := s.runSetProbe b n
    (word ((if g.faulted then Cause.bandFlt.code else if (s.band b).waitsFull n then Cause.missOvf.code else 0)
      + ofBool (!r.1) * 2 ^ 8), r.2)

/-- `bstat` (R249). -/
def execBstat (f : FmtX) : State → Result :=
  run do
    let s ← get
    let r := s.turn.rank
    let n := (s.th.val f.y).toNat % 8
    let count := fun (x : BitVec 32) => x.setWidth 64
    let done := fun (v : Word) => updTh (fun t => (t.putInt f.x v).issueOut f.lk [.s f.x])
    match f.z.val with
    | 0 => do
      upd (fun s => (s.setState (r / 16) n).2)
      done (s.setState (r / 16) n).1
    | 1 => done (count (s.me.inj.getD n 0))
    | 2 => done (count (s.me.ret.getD n 0))
    | 3 => done (count (s.me.ej.getD n 0))
    | 4 => done (word (s.me.meqCount.getD n 0))
    | k =>
      if 6 < k then illegal (.bstat f)
      let ga := s.th.get f.y
      let off ← scratchGa ga 64 64 7
      match ((s.band (r / 16)).ring (if k = 5 then .cw else .ccw)).getD (r % 16) none with
      | none => done 0
      | some x =>
        if x.bcast then done 0
        else do
          writeAt ga (scratchLoc r off) 64 x.header 7
          done 1

/-- The free entry lets a waiting BANDFLT tile in; `pget` frees it (R250). -/
def Core.takeEntry (c : Core) (n : Nat) : Core :=
  { c with meqHead := c.meqHead.setIfInBounds n ((c.meqHead.getD n 0 + 1) % 32), meqCount := c.meqCount.setIfInBounds n (c.meqCount.getD n 0 - 1) }

/-- `pget` (R250). -/
def execPget (f : FmtX) : State → Result :=
  run do
    let s ← get
    let r := s.turn.rank
    let n := (s.th.val f.y).toNat % 8
    let entry := match (s.band (r / 16)).set n with
      | some g => if s.me.meqCount.getD n 0 = 0 then none else g.entry (r % 16) (s.me.meqHead.getD n 0)
      | none => none
    match entry with
    | none => updTh (fun t => (t.putInt f.x (BitVec.allOnes 64)).issueOut f.lk [.s f.x])
    | some l =>
      let ga := s.th.get f.z
      precheck ga 1 64 2
      let dest ← checkPieces 1 .store (contiguous ga 64 256 0 0x1000)
      let s ← get
      match dest.find? (fun p => s.fixedLoc p.2) with
      | some p => raise .statWr p.1.ga.v 2
      | none => pure ()
      let lo ← readAt ga l 0x800 7
      let hi ← readAt ga (l.plus 0x800) 0x800 7
      let status := bytesAt hi 0x40 8
      -- the payload is verified against its header (R347); one that failed before carries BANDFLT
      if status % 2 ^ 8 = 0 ∧ crc32c 2048 lo ≠ bytesAt hi 28 4 then
        upd (fun s => s.logError r 2 1 ga.v 0)
        uncorrectable ga.v 7 true
      writePieces (lo + hi * 256 ^ 0x800) dest
      upd (fun s => s.modMe (fun c => c.takeEntry n))
      updTh (fun t => (t.putInt f.x (word status)).issueOut f.lk (.s f.x :: piecesRes dest))

/-- Every binding that stands for the mitten slot loses V; its elements are kept (R251). -/
def Thread.releaseBindings (t : Thread) : Thread :=
  (List.finRange 8).foldl (fun t n => if (t.acc n).isMit then t.aput n { t.acc n with bind := clearBit (t.acc n).bind 23 } else t) t

/-- `prel` (R251). -/
def execPrel (f : FmtX) : State → Result :=
  run do
    let s ← get
    match s.th.task, s.heldMitten with
    | some k, some h =>
      if s.me.mops.any (fun m => decide (m.mit = some h.1)) then stall
      upd (fun s => s.freeMitten s.turn.rank k.id)
      updTh (fun t => { t.releaseBindings with task := t.task.map (fun k => { k with mitten := none }) })
    | _, _ => pure ()
    updTh (·.issueOut f.lk [])

end Sys2Proof.Machine
end

