-- ==== Sys2Proof/Machine/Transfer.lean ====
section
/-!
DEFINITION. Tile transfers, row activation and discards (R92, R97, R253-R257, R342).
-/

namespace Sys2Proof.Machine

/-! ### Checks -/

/-- A GA that must lie in the own vault (R97), of `n` bytes aligned to `align`. -/
def ownVault (ga : Ptr) (n align : Nat) (acc : Access) : M Loc := do
  let l ← resolve ga n align acc
  if l.region ≠ .vault ∨ l.home ≠ (← get).turn.rank then raise .nonLocal ga.v (BitVec.ofNat 4 (accessKind acc))
  return l

/-- The tiles of a transfer from tile `k` on, checked in ascending order (R254). -/
def checkTiles (ga : Ptr) (acc : Access) : Nat → Nat → M (List Nat)
  | 0, _ => return []
  | m + 1, k => do
    let l ← ownVault (ga.add (word (k * 0x800))) 0x800 0x800 acc
    let rest ← checkTiles ga acc m (k + 1)
    return l.off :: rest

/-- One count more, or fewer, on the page of a place. -/
def State.holdPage (s : State) (l : Loc) : State := s.hold l.home (pageKey l)

def State.unholdPage (s : State) (l : Loc) : State := s.unhold l.home (pageKey l)

/-- The frames that a transfer uses, each once. -/
def framesOf (offs : List Nat) : List Nat := (offs.map (· / 0x10000)).eraseDups

/-! ### tld and tst (R254) -/

/-- The status word of a transfer (R92), and of a discard (R257). -/
def tileStatus (cause done : Nat) : Word := word (cause + done * 2 ^ 8)

/-- `tld` and `tst` at issue: checks, reservation, marker (R254). Tiles that an earlier execution moved are skipped
(R92). -/
def tileTransfer (store : Bool) (f : FmtT) : State → Result :=
  run do
    if 8 ≤ f.q.val then throw (.fault .illFormed)
    let q ← needQueue f.q.val
    let n := f.cnt.val + 1
    if q.cap < n then raise .aperture (word n) 4
    let t ← thread
    let skip := min n t.resumeTiles
    let ga := t.get f.a
    let offs ← checkTiles ga (if store then .tileWrite else .tileRead) (n - skip) skip
    if !store && decide (q.free < n - skip) then stall
    let s ← get
    let id := s.me.nextId
    let held := bit t.evctl 0 || bit t.evctl 1
    let x : TileXfer :=
      { id := id, slot := s.turn.slot, task := t.taskId, store := store, queue := f.q.val,
        seq := if store then q.assigned else q.tail, ga := ga.add (word (skip * 0x800)), offs := offs, n := n, done := skip,
        tok := f.t, held := held, evctl := t.evctl, dom := t.domid }
    upd (fun s =>
      let s := if store then
          s.modMe (fun c => c.setQueue f.q.val { c.queue f.q.val with pops := (c.queue f.q.val).pops ++ List.replicate (n - skip) (id, false) })
        else s.reserve s.turn.rank f.q.val (n - skip)
      let s := s.modMe (fun c => { c with nextId := c.nextId + 1, xfers := c.xfers ++ [x] })
      (framesOf offs).foldl (fun s k => s.hold s.turn.rank k) s)
    updTh (fun t => ({ t.pending f.t with resumeTiles := 0 }).issueWaiting f.lk [.q f.q.val] (if held then .tiles id else .ready))

def execTld (f : FmtT) : State → Result := tileTransfer false f
def execTst (f : FmtT) : State → Result := tileTransfer true f

/-- Moves tiles that later operations have written down by `m` slots, after a release before them. -/
def State.moveTilesDown (s : State) (rank : Nat) (q : OpQueue) (m : Nat) (from_ n : Nat) : State :=
  (List.range n).foldl (fun s k =>
    s.poke (scratchLoc rank (q.tileOff (from_ + k - m))) 0x800 (s.peek (scratchLoc rank (q.tileOff (from_ + k))) 0x800)) s

/-- Releases `m` reserved slots from an absolute index on: slots reserved after them move down (DEDUCED, log entry 33). -/
def State.releaseSlots (s : State) (rank q seq m : Nat) : State :=
  let x := (s.core rank).queue q
  let i := seq - x.head - x.count
  let after := x.resv.length - (i + m)
  let s := s.moveTilesDown rank x m (seq + m) after
  (s.modCore rank (fun c =>
    let c := c.setQueue q (OpQueue.settle { x with resv := x.resv.take i ++ x.resv.drop (i + m) })
    { c with
      xfers := c.xfers.map (fun y => if y.queue = q ∧ !y.store ∧ seq < y.seq then { y with seq := y.seq - m } else y)
      mops := c.mops.map (fun y => if y.queue = q ∧ y.kind.isGang ∧ rank % 16 ≠ 0 ∧ seq < y.seq then { y with seq := y.seq - m } else y) })).captureReady rank

/-- A transfer leaves the core: its pages are free, and what it did not use of its queue is given back (R254). -/
def State.dropXfer (s : State) (rank : Nat) (x : TileXfer) (moved : Nat) : State :=
  let s := s.modCore rank (fun c => { c with xfers := c.xfers.filter (fun y => decide (y.id ≠ x.id)) })
  let s := (framesOf x.offs).foldl (fun s k => s.unhold rank k) s
  if x.store then s.retire rank x.queue (giveBack x.id)
  else if moved < x.offs.length then s.releaseSlots rank x.queue (x.seq + moved) (x.offs.length - moved)
  else s

/-- A transfer ends with a status (R92, R254). -/
def State.endXfer (s : State) (rank : Nat) (x : TileXfer) (moved cause : Nat) (recov : Bool) : State :=
  let s := s.dropXfer rank x moved
  let st := statusFor { rank := rank, slot := x.slot } x.task x.tok x.dom (tileStatus cause x.done)
  { s with statuses := s.statuses ++ [{ st with recov := recov }] }

/-- A transfer that is still outstanding traps with the count of tiles done (R92): its status is written by the
re-executed instruction, and its token is no longer pending meanwhile (DEDUCED, log entry 34). -/
def State.trapXfer (s : State) (rank : Nat) (x : TileXfer) (moved : Nat) (c : Cause) : State :=
  let s := s.dropXfer rank x moved
  s.modThAt { rank := rank, slot := x.slot } (fun t => { t with
    pend := clearBit t.pend x.tok.val
    outst := t.outst.map (fun o => if o.wait = .tiles x.id then
      { o with trap := some { cause := c, tval := word x.done, kind := 4, out := true } } else o) })

/-- What the next tile of a transfer meets. -/
inductive TileMeets where
  | goes | waits | ends (c : Cause) | traps (c : Cause)
  deriving DecidableEq, Repr

/-- Where a row of the own vault lies: a page that its home has moved away is reached there (R344). -/
def State.rowPlace (s : State) (rank off : Nat) : Loc := s.livePlace ((s.partOf rank).getD 0) (vaultLoc rank off)

/-- Refresh and repair under EVCTL (R89, R90, R92), and a migration (R344); a queue slot to read must be readable (R129). -/
def State.tileMeets (s : State) (rank off : Nat) (x : TileXfer) (seq : Nat) : TileMeets :=
  if x.store ∧ !((s.core rank).queue x.queue).readable seq then .waits
  else if s.migrating (vaultLoc rank off) then .waits
  else match s.meets false (s.rowPlace rank off) (!x.store) with
    | .nothing => .goes
    | .waits => .waits
    | .refresh => if bit x.evctl 0 then .traps .refresh else .waits
    | .repair => if bit x.evctl 1 then .traps .rowRep else if x.held then .waits else .ends .rowRep

/-- Whether a row fails its check value on the way into a queue (R347). -/
def Vault.rowFails (v : Vault) (row : Nat) : Bool := !v.noCv.contains row && v.badCheck.contains row

/-- The same for the row at a place. -/
def State.rowFails (s : State) (l : Loc) : Bool :=
  decide (l.region = .vault) && !s.zeroMapped l && (s.core l.home).vault.rowFails (rowOf l.off)

/-- A row is opened in its bank (R87). -/
def Vault.activate (v : Vault) (row : Nat) : Vault :=
  { v with openRows := row :: v.openRows.filter (fun r => decide (bankOf r ≠ bankOf row)) }

/-- The error that a tile meets at its source: the state after its log. -/
def State.tileError (s : State) (rank off : Nat) (x : TileXfer) (seq moved : Nat) : Option State :=
  let w : Turn := { rank := rank, slot := x.slot }
  if x.store then
    let l := scratchLoc rank (((s.core rank).queue x.queue).tileOff seq)
    if s.unreadable l 0x800 then some (s.logUnreadable rank l 0x800 0) else none
  else
    let r := if (s.thAt w).taskId = x.task then (s.thAt w).injects 4 else (false, s.thAt w)
    let s := s.setThAt w r.2
    let l := s.rowPlace rank off
    if s.unreadable l 0x800 then some (s.logUnreadable rank l 0x800 0)
    else if r.1 || s.rowFails l then
      some (s.logError rank 2 (1 + ofBool r.1 * 2) (x.ga.v + word (moved * 0x800)) moved)
    else none

/-- The first read of an operation that has not ended has ended. -/
def readOne (id : Nat) : List (Nat × Bool) → List (Nat × Bool)
  | [] => []
  | (k, d) :: t => if k = id ∧ !d then (k, true) :: t else (k, d) :: readOne id t

/-- One tile moves, and the transfer ends with its last one (R254). -/
def State.moveRow (s : State) (rank off : Nat) (x : TileXfer) (moved : Nat) : State :=
  let seq := x.seq + moved
  let b : Behalf := { rank := rank, dom := if ckptDom x.dom then some x.dom else none }
  let l := s.rowPlace rank off
  let s := s.recall l 0x800
  let s := if l.region = .vault then s.modCore l.home (fun c => { c with vault := c.vault.activate (rowOf l.off) }) else s
  let s := if x.store then
      let slot := scratchLoc rank (((s.core rank).queue x.queue).tileOff seq)
      let s := s.recall slot 0x800
      (s.store b l 0x800 (s.look slot 0x800)).retire rank x.queue (readOne x.id)
    else (s.corrected l 0x800).fillSlot b rank x.queue seq (s.look l 0x800)
  let y := { x with done := x.done + 1 }
  if y.done = x.n then s.endXfer rank y (moved + 1) 0 false
  else s.modCore rank (fun c => { c with xfers := c.xfers.map (fun z => if z.id = x.id then y else z) })

/-- The next tile of a transfer: the offset of its row and how many tiles this execution has moved. -/
def TileXfer.nextRow (x : TileXfer) : Option (Nat × Nat) :=
  let moved := x.offs.length + x.done - x.n
  match x.offs[moved]? with
  | some off => some (off, moved)
  | none => none

/-- Whether TILE_TRANSFER_TILE can do something for a transfer: it is over, or its tile does not wait. -/
def State.xferReady (s : State) (rank : Nat) (x : TileXfer) : Bool :=
  match x.nextRow with
  | none => true
  | some (off, moved) => decide (s.tileMeets rank off x (x.seq + moved) ≠ .waits)

/-- A transfer that waits for a vault is seen there (R93, R386). -/
def State.noteXfers (s : State) (rank : Nat) : State :=
  (s.core rank).xfers.foldl (fun s x => match x.nextRow with
    | some (off, _) => s.noteWaiting (s.rowPlace rank off)
    | none => s) s

/-- TILE_TRANSFER_TILE (R254): the oldest transfer of the core whose tile does not wait moves it, ends or traps. -/
def execTileTransferTile (r : Nat) (s : State) : Result :=
  match (s.core r).xfers.find? (s.xferReady r) with
  | none => .next (s.noteXfers r)
  | some x =>
    match x.nextRow with
    | none => .next (s.endXfer r x x.offs.length 0 false)
    | some (off, moved) =>
      match s.tileMeets r off x (x.seq + moved) with
      | .waits => .next s
      | .ends c => .next (s.endXfer r x moved c.code false)
      | .traps c => .next (s.trapXfer r x moved c)
      | .goes =>
        let l := s.rowPlace r off
        match s.tileError r off x (x.seq + moved) moved with
        | some t => .next (t.endXfer r x moved Cause.uncorr.code
            (x.store || s.rowFails l || s.recoverable x.dom l || !s.unreadable l 0x800))
        | none =>
          let w : Turn := { rank := r, slot := x.slot }
          let s := if !x.store && decide ((s.thAt w).taskId = x.task) then s.setThAt w ((s.thAt w).injects 4).2 else s
          .next (s.moveRow r off x moved)

/-! ### ract and rpre (R256) -/

/-- `ract` (R256): the row that holds the GA is opened; it waits for a refresh, a repair, a lock or a burst. -/
def execRact (f : FmtT) : State → Result :=
  run do
    if 8 ≤ f.q.val then throw (.fault .illFormed)
    let l ← ownVault ((← thread).get f.a) 1 1 .tileRead
    if (← get).migrating l then stall
    if (← get).meets false l ≠ .nothing then do upd (·.noteWaiting l); stall
    upd (fun s => s.modMe (fun c => { c with vault := c.vault.activate (rowOf l.off) }))
    updTh (·.issueOut f.lk [])

/-- `rpre` (R256): the row is closed if it is open. -/
def execRpre (f : FmtT) : State → Result :=
  run do
    if 8 ≤ f.q.val then throw (.fault .illFormed)
    let l ← ownVault ((← thread).get f.a) 1 1 .tileRead
    upd (fun s => s.modMe (fun c => { c with vault := { c.vault with openRows := c.vault.openRows.filter (fun r => decide (r ≠ rowOf l.off)) } }))
    updTh (·.issueOut f.lk [])

/-! ### discard (R257, R342) -/

/-- The pages of a discard: place, and home and offset of the leaf, checked in ascending order. -/
def discardPages (ga : Ptr) : Nat → Nat → M (List (Loc × Nat × Nat))
  | 0, _ => return []
  | m + 1, k => do
    let p := ga.add (word (k * 0x10000))
    let l ← resolve p 0x10000 0x10000 .discard
    let s ← get
    let leaf := match s.heldEntry s.turn.rank false (vpnOf p) (field s.me.asid 0 16) with
      | some t => (t.home, t.off)
      | none => (l.home, noLeaf)
    let rest ← discardPages ga m (k + 1)
    return (l, leaf.1, leaf.2) :: rest

/-- `discard` (R257). -/
def execDiscard (f : FmtT) : State → Result :=
  run do
    if 8 ≤ f.q.val then throw (.fault .illFormed)
    let t ← thread
    let ga := t.get f.a
    if 0xF0 ≤ ga.sb.toNat then raise .aperture ga.v 4
    let pages ← discardPages ga (f.cnt.val + 1) 0
    upd (fun s =>
      let s := pages.foldl (fun s p => s.holdPage p.1) s
      { s with msgs := s.msgs ++ [.discard 0 pages (statusFor s.turn t.taskId f.t t.domid 0)] })
    updTh (fun t => (t.pending f.t).issueOut f.lk [])

/-- Whether the bands of a place and of a leaf run, and the leaf's row meets nothing. -/
def State.discardRuns (s : State) (l : Loc) (leafHome leafOff : Nat) : Bool :=
  decide ((s.band (l.home / 16)).power = 0) && !s.dieHeld l.home
    && (decide (noLeaf ≤ leafOff) || decide (s.meets false (vaultLoc leafHome leafOff) = .nothing))

/-- Whether a page may be discarded at its home: it does not move (R344), and nothing but the discard holds it. -/
def State.pageFree (s : State) (l : Loc) : Bool :=
  !s.migrating l && decide ((lookup (s.core l.home).vault.inflight (pageKey l)).getD 0 ≤ 1)

/-- A page reads as zero from now on (R342): a vault frame by its zero map, another by zeros written. The leaf's ZR is
set and its D cleared. -/
def State.discardPage (s : State) (b : Behalf) (l : Loc) (leafHome leafOff : Nat) : State :=
  let base : Loc := { l with off := l.off / 0x10000 * 0x10000 }
  let s := s.recall base 0x10000
  let s := if l.region = .vault then
      -- a journal keeps the rows that the domain's discard takes away (R356)
      let s := match b.dom with
        | none => s
        | some _ => (List.range 32).foldl (fun s k => s.journal b l.home (rowOf (base.off + k * 0x800))) s
      s.modCore l.home (fun c => { c with vault := { c.vault with
        zero := (l.off / 0x10000, leafHome, leafOff) :: c.vault.zero.filter (fun z => decide (z.1 ≠ l.off / 0x10000))
        badGranules := c.vault.badGranules.filter (fun g => decide (g * 64 / 0x10000 ≠ l.off / 0x10000))
        weakGranules := c.vault.weakGranules.filter (fun g => decide (g * 64 / 0x10000 ≠ l.off / 0x10000)) } })
    else s
  let s := (s.zeroFill base 0x10000).wake base 0x10000
  let e := vaultLoc leafHome leafOff
  if leafOff < noLeaf then
    (s.modCore leafHome (fun c => { c with vault := c.vault.noteWrite leafOff 8 })).poke e 8 (clearBit (setBit (word (s.peek e 8)) 59) 58).toNat
  else s

/-- DISCARD_AT_HOME (R342): the next page of the first discard whose page is free. -/
def execDiscardAtHome (s : State) : Result :=
  let ready := fun (m : Msg) => match m with
    | .discard _ ((l, h, o) :: _) st => s.pageFree l && s.discardRuns (s.livePlace ((s.partOf st.rank).getD 0) l) h o
    | .discard _ [] _ => true
    | _ => false
  match takeFirst ready s.msgs with
  | some (.discard n ((l, h, o) :: rest) st, others) =>
    let b : Behalf := { rank := st.rank, dom := if ckptDom st.dom then some st.dom else none }
    let s := (s.discardPage b (s.livePlace ((s.partOf st.rank).getD 0) l) h o).unholdPage l
    if rest = [] then
      .next { s with msgs := others, statuses := s.statuses ++ [{ st with value := tileStatus 0 (n + 1) }] }
    else .next { s with msgs := .discard (n + 1) rest st :: others }
  | some (.discard n [] st, others) => .next { s with msgs := others, statuses := s.statuses ++ [{ st with value := tileStatus 0 n }] }
  | _ => .next s

end Sys2Proof.Machine
end

