-- ==== Sys2Proof/Machine/Rpc.lean ====
section
/-!
DEFINITION. Remote procedure calls: `rcall` and `rcallp` (R258, R259), the order in which an agent serves requests (R43,
R95), and the built-in data handlers 0-8, 11 and 12 (R260, R261, R371, R372).
-/

namespace Sys2Proof.Machine

/-! ### Sending a request -/

/-- The new place of a request whose page has moved. -/
def State.redirectRpc (s : State) (rq : Rpc) : Option (Rpc × Word) :=
  match s.redirected rq.part rq.loc with
  | some (l, e) => some ({ rq with loc := l }, e)
  | none => none

/-- A request arrives at its home: queued, held by a migration, returned from a full hold queue, or forwarded (R344). -/
def State.deliver (s : State) (rq : Rpc) : State :=
  let h := rq.loc.home
  if s.migrating rq.loc then
    s.modCore h (fun c =>
      let plain := s.heldOrder.filter (fun x => decide (x.home = h) && s.waitsAt x.who x.pc)
      if plain.length + c.agent.held.length < 64 then { c with agent := { c.agent with held := c.agent.held ++ [rq] } }
      else { c with agent := { c.agent with resend := c.agent.resend ++ [(s.cycle.toNat, rq)] } })
  else match s.redirectRpc rq with
    | some (rq', _) => (s.modCore rq'.loc.home (fun c => { c with agent := { c.agent with requests := c.agent.requests ++ [rq'] } })).wakeAgent rq'.loc.home
    | none => (s.modCore h (fun c => { c with agent := { c.agent with requests := c.agent.requests ++ [rq] } })).wakeAgent h

/-- HELD_REQUEST_RESEND (R344): a request returned from a full hold queue is sent again 256 cc later. -/
def execHeldRequestResend (r : Nat) (s : State) : Result :=
  match (s.core r).agent.resend with
  | [] => .next s
  | (t, rq) :: rest =>
    if s.cycle.toNat < t + 256 then .next s
    else .next ((s.modCore r (fun c => { c with agent := { c.agent with resend := rest } })).deliver rq)

/-! ### rcall and rcallp (R258, R259) -/

/-- Bytes of the result region of a handler (R259). -/
def rbufBytes (h rlen : Nat) : Nat := if h = 3 ∨ h = 4 ∨ h = 5 then 2048 else rlen

/-- The call block at the GA in a: its bytes and its offset; a GA in another space raises ILLEGAL (R259). -/
def callBlock (ga : Ptr) : M (Nat × Nat) := do
  if ga.sb ≠ 0xF0 then raise .illegal ga.v 5
  if 0x340000 < ga.v.toNat + 64 then raise .aperture ga.v 5
  if ga.v.toNat % 64 ≠ 0 then raise .misalign ga.v 5
  let off := ga.v.toNat
  return (← readAt ga (scratchLoc (← get).turn.rank off) 64 5, off)

/-- Whether a translation that a core holds for a page is that of a leaf with G (R335). -/
def State.globalPage (s : State) (rank asid : Nat) (p : Ptr) : Bool :=
  decide (p.sb.toNat < 0xF0) && match s.heldEntry rank false (vpnOf p) asid with
    | some t => bit t.leaf 56
    | none => false

/-- The request of a call block, checked in the order of R259, before anything is sent. -/
def callRequest (f : FmtRpc) : M (Rpc × Nat) := do
  let t ← thread
  let ga := t.get f.a
  let b ← callBlock ga
  let d := b.1
  let h := bytesAt d 0 1
  let alen := bytesAt d 2 2
  let rlen := bytesAt d 4 2
  let rbuf := bytesAt d 0x18 8
  if 256 < alen ∨ alen % 8 ≠ 0 ∨ 256 < rlen ∨ rbuf % 64 ≠ 0 ∨ 0x340000 < rbuf + rbufBytes h rlen then raise .illegal ga.v 5
  let rank := (← get).turn.rank
  if 0x340000 < b.2 + 64 + alen then raise .aperture ga.v 5
  let args ← if alen = 0 then pure 0 else readAt (ga.add 64) (scratchLoc rank (b.2 + 64)) alen 5
  let row ← if h = 4 ∨ h = 5 then readAt { sb := 0xF0, v := word rbuf } (scratchLoc rank rbuf) 2048 5 else pure 0
  let tgt := Ptr.ofBytes (bytesAt d 8 16)
  let l ← resolve tgt 1 1 .rpc
  let s ← get
  return ({ h := h, cfl := bytesAt d 1 1, pad := bytesAt d 6 2, alen := alen, rlen := rlen, tgt := tgt, loc := l, op0 := word (bytesAt d 0x20 8), op1 := word (bytesAt d 0x28 8),
            rbuf := rbuf, rank := rank, slot := s.turn.slot, reg := f.t, task := s.th.taskId, seq := s.me.rpcSeq, args := args,
            row := row, priv := s.supervisor, part := (s.partOf rank).getD 0, domain := s.th.domid, engine := none,
            asid := field s.me.asid 0 16, glob := s.globalPage rank (field s.me.asid 0 16) tgt, stale := false,
            inj := none }, bytesAt d 0x38 4 + bytesAt d 1 1 % 2 * 2 ^ 32)

/-- What keeps a checked call from being sent: no credit (R259), or a superstep's arrival (R41). -/
def State.callWaits (s : State) : Bool := decide (64 ≤ s.me.credits) || s.trafficHeld s.turn.rank s.domain

/-- Sends a checked call: the marker is written and the message leaves. An ordered handler 2 releases at the home scope
of its target (R261). -/
def sendCall (rq : Rpc) : M Unit := do
  if rq.h = 2 ∧ bit rq.op0 5 then upd (fun s => s.fenceFlush s.turn.rank (homeScope s.turn.rank rq.tgt rq.loc))
  let e := (← thread).errinj
  let bad ← if rq.h = 13 then injected 6 else pure false
  updTh (·.pending rq.reg)
  upd (fun s =>
    let s := s.modMe (fun c => { c with credits := c.credits + 1, rpcSeq := (c.rpcSeq + 1) % 2 ^ 32 })
    (s.sent s.turn.rank s.domain).deliver { rq with inj := if bad then some (field e 23 5) else none })

/-- `rcall` (R258, R259). -/
def execRcall (f : FmtRpc) : State → Result :=
  run do
    let rq ← callRequest f
    if (← get).callWaits then stall
    sendCall rq.1
    updTh (·.issueOut f.lk [])

/-- `rcallp` (R259): the call, then `park` on its token with LIVE as the live mask. A leave that needs a frame while every
frame is bound keeps the call from being sent; a slot that holds no task waits for the token (DESIGN CHOICE, log entry 13). -/
def execRcallp (f : FmtRpc) : State → Result :=
  run do
    let rq ← callRequest f
    let s ← get
    if s.callWaits then stall
    let mask := trimLive (BitVec.ofNat 32 (rq.2 % 2 ^ 32)) (some f.t)
    let mig := decide (2 ^ 32 ≤ rq.2)
    if f.t = 0 then do
      sendCall rq.1
      updTh (·.issueOut f.lk [])
    else if s.th.task.isNone then do
      sendCall rq.1
      updTh (fun t => { t with waitTok := some f.t })
    else do
      if !(s.th.outst = []) then stall
      if (s.leavePark s.turn f.t mask.1 false).isNone then stall
      sendCall rq.1
      let s := (← get).modTh (fun t => (t.warnIf .mask mask.2).next)
      let mig := mig && (s.th.task.map (fun k => k.mitten.isNone)).getD false
      match s.leavePark s.turn f.t mask.1 mig with
      | none => stall
      | some (x, s') =>
        set (s'.modCore s'.turn.rank (fun c => { c with parked := c.parked ++ [x] }))
        finish

/-! ### Serving requests (R43, R95) -/

/-- The request that an agent serves next: of the next source band in turn, the oldest. -/
def Agent.nextRequest (a : Agent) : Option Rpc :=
  a.requests.foldl (fun m rq => match m with
    | none => some rq
    | some x => if bandDistance a.lastBand (rq.rank / 16) < bandDistance a.lastBand (x.rank / 16) then some rq else some x) none

/-- Takes a request off the queue of an agent; its receipt counts in its domain (R271). -/
def State.takeRequest (s : State) (r : Nat) (rq : Rpc) : State :=
  let s := s.modCore r (fun c => { c with agent := { c.agent with requests := c.agent.requests.erase rq, lastBand := rq.rank / 16 } })
  if rq.engine.isNone then s.received r (domKey rq.domain) else s

/-- What an agent's translation of a GA comes to. -/
inductive AgentPlace where
  | place (l : Loc) (s : State)
  | waits (l : Loc)
  | fault (c : Cause) (reason : Nat)

/-- An agent's translation through its own TLB, which its core's MMU fills (R339): its place with the state after it, the
vault row that it waits for, or the fault. -/
def State.agentPlace (s : State) (r : Nat) (supervisor : Bool) (acc : Access) (p : Ptr) : AgentPlace :=
  let c := s.core r
  let asid := field c.asid 0 16
  let vpn := vpnOf p
  if !bit c.ptbase 0 then .fault .notPresent 4
  else match s.entryFor r true asid c.ptbase vpn with
    | .error (.waits l) => .waits l
    | .error (.fault k) => .fault .notPresent k
    | .ok (t, x) =>
      let dirty := dirties acc && !bit t.leaf 58
      let leaf := vaultLoc t.home t.off
      if !permits t.leaf acc supervisor then .fault .prot 1
      else if dirty && decide (s.meets false leaf ≠ .nothing) then .waits leaf
      else
        let s := match x with
          | some x => s.fill r true vpn asid x
          | none => s
        let s := if dirty then s.setDirty r true t else s
        let part := (s.partOf r).getD 0
        let l := placeOf part t.leaf t.sz vpn p.v.toNat
        .place (match s.redirected part l with
          | some (l', _) => l'
          | none => l) s

/-- A request of an agent parks with an entry of its partition's fault queue (R340); where the tail is in use it waits. -/
def State.parkRequest (s : State) (r : Nat) (rq : Rpc) (ga : Ptr) (c : Cause) (reason : Nat) : Option State :=
  match s.partOf r with
  | none => none
  | some p =>
    (s.appendFault p ga c 5 reason { src := 0x20, rank := r, asid := field (s.core r).asid 0 16, task := 0, eng := 0xFFFF }).map
      (fun x => x.2.modCore r (fun k => { k with agent := { k.agent with
        requests := k.agent.requests.erase rq, parkedReqs := k.agent.parkedReqs ++ [(x.1, rq)] } }))

/-- A request whose translation was marked by a shootdown is translated again before it is served (R338, R339): at its new
place, or parked with a fault-queue entry. -/
def State.refresh (s : State) (r : Nat) (rq : Rpc) : State :=
  match s.agentPlace r rq.priv .rpc rq.tgt with
  | .place l s =>
    (s.modCore r (fun c => { c with agent := { c.agent with requests := c.agent.requests.erase rq } })).deliver { rq with loc := l, stale := false }
  | .waits l => s.noteWaiting l
  | .fault c k => (s.parkRequest r rq rq.tgt c k).getD s

/-- A request whose page has moved is forwarded, with a notice for its caller (R344). -/
def State.forward (s : State) (r : Nat) (rq : Rpc) : State :=
  let s := s.modCore r (fun c => { c with agent := { c.agent with requests := c.agent.requests.erase rq } })
  let s := match s.redirectRpc rq with
    | some (_, e) => { s with msgs := s.msgs ++ [Msg.redirect rq.rank (vpnOf rq.tgt) 0 rq.asid e] }
    | none => s
  s.deliver rq

/-- The hand-off queue whose enabled frame begins at a target (R372). -/
def State.handOff (s : State) (r : Nat) (l : Loc) : Option (Nat × Word) :=
  let n := l.off / 0x10000 - 0x3E00
  match lookup s.hqg n with
  | some h =>
    if l.region = .vault ∧ 0x3E000000 ≤ l.off ∧ l.off < 0x3F000000 ∧ l.off % 0x10000 = 0 ∧ bit h 0 ∧ field h 48 16 = r then some (n, h)
    else none
  | none => none

/-- A request of another partition, but for pushes and pops of hand-off queues (R366). -/
def State.foreign (s : State) (r : Nat) (rq : Rpc) : Bool :=
  !s.reaches rq.rank r && !((decide (rq.h = 7) || decide (rq.h = 8)) && (s.handOff r rq.loc).isSome)

/-- A reply that reports an error. -/
def State.refuse (s : State) (rq : Rpc) (c : Cause) : State := s.reply rq c.code 0 0 0 0 false

/-- The same with the byte of a cause. -/
def State.refuseByte (s : State) (rq : Rpc) (c : BitVec 8) : State := s.reply rq c.toNat 0 0 0 0 false

/-- Whether an implicit RPC of a band whose turn comes before a request's waits at the agent (R43, R95). -/
def State.callerFirst (s : State) (r : Nat) (rq : Rpc) : Bool :=
  match s.firstCaller r with
  | some (d, _) => decide (d < bandDistance (s.core r).agent.lastBand (rq.rank / 16))
  | none => false

/-- Whether the reply of `n` bytes to a request has a stationary or mitten position in its way: STATWR, before anything changes
at the home (R121, R260). -/
def State.badBuffer (s : State) (rq : Rpc) (n : Nat) : Bool := decide (n ≠ 0) && rq.engine.isNone && s.fixedBuffer rq.rank rq.rbuf n

/-- Runs a built-in handler on the next request of an agent, if that is its number: nothing happens while another request
is served or the target waits, and a row under repair answers ROWREP (R89, R90, R95). -/
def serve (h r : Nat) (f : State → Rpc → State) (s : State) : Result :=
  let a := (s.core r).agent
  match a.nextRequest with
  | none => .next s
  | some rq =>
    if a.current.isSome || a.moving.isSome || decide (rq.h ≠ h) || s.callerFirst r rq then .next s
    else if rq.stale then .next (s.refresh r rq)
    else if (s.redirectRpc rq).isSome then .next (s.forward r rq)
    else if s.foreign r rq then .next ((s.takeRequest r rq).refuse rq .prot)
    else match s.meets false rq.loc (decide (h = 0) || decide (h = 3)) with
      | .nothing => .next (f (s.takeRequest r rq) rq)
      | .repair => .next ((s.takeRequest r rq).reply rq Cause.rowRep.code 0 0 0 0 false)
      | _ => .next (s.noteWaiting rq.loc)

/-- Whether `n` bytes at a place cross a 2 KiB row, and so perhaps a page. -/
def crossesRow (l : Loc) (n : Nat) : Bool := decide (0x800 < l.off % 0x800 + n)

/-- A size of handlers 0 and 1 (R261). -/
def sizeOk (s : Nat) : Bool := [1, 2, 4].contains s || (decide (0 < s) && decide (s % 8 = 0) && decide (s ≤ 256))

/-- On whose behalf a request writes (R356). -/
def Rpc.behalf (rq : Rpc) : Behalf := { rank := rq.rank, dom := if ckptDom rq.domain then some rq.domain else none }

/-- The checks on the range of a built-in handler: inputs, then alignment (R260). -/
def rangeCause (rq : Rpc) (ok : Bool) (n align : Nat) : Option Cause :=
  if !ok || crossesRow rq.loc n then some .illegal
  else if rq.loc.off % align ≠ 0 then some .misalign
  else none

/-- A read at the home for a handler: UNCORR with its log, or the bytes (R352). -/
def State.homeRead (s : State) (r : Nat) (rq : Rpc) (n : Nat) (k : State → Nat → State) : State :=
  let s := s.recall rq.loc n
  if s.unreadable rq.loc n then
    (s.logUnreadable r rq.loc n 0).reply rq Cause.uncorr.code 0 0 0 0 (s.recoverable rq.domain rq.loc)
  else
    let s := s.corrected rq.loc n
    k s (match rq.loc.region with
      | .control => (s.controlRead rq.loc.home rq.loc.off).toNat
      | _ => s.look rq.loc n)

/-- HANDLER_READ (R261): handler 0. -/
def execHandlerRead (r : Nat) : State → Result :=
  serve 0 r fun s rq =>
    match rangeCause rq (sizeOk rq.rlen) rq.rlen (min rq.rlen 8) with
    | some c => s.refuse rq c
    | none => s.homeRead r rq rq.rlen (fun s v => s.reply rq 0 0 rq.rlen 0 v false)

/-- HANDLER_WRITE (R261): handler 1. -/
def execHandlerWrite (r : Nat) : State → Result :=
  serve 1 r fun s rq =>
    match rangeCause rq (sizeOk rq.alen) rq.alen (min rq.alen 8) with
    | some c => s.refuse rq c
    | none =>
      if s.fixedLoc rq.loc then s.refuse rq .statWr
      else ((s.recall rq.loc rq.alen).store rq.behalf rq.loc rq.alen rq.args).reply rq 0 0 0 0 0 false

/-- The operation of a code of R183. -/
def amoOf (n : Nat) : Option AmoOp :=
  ([.swap, .add, .and, .or, .xor, .smin, .smax, .umin, .umax, .cas, .fadd, .fmin, .fmax] : List AmoOp)[n]?

/-- HANDLER_ELEMENT_ATOMIC (R261): handler 2. -/
def execHandlerElementAtomic (r : Nat) : State → Result :=
  serve 2 r fun s rq =>
    let n := if bit rq.op0 4 then 8 else 4
    match amoOf (field rq.op0 0 4) with
    | none => s.refuse rq .illegal
    | some op =>
      match rangeCause rq (decide (8 ≤ rq.rlen) && !(decide (op = .cas) && decide (n = 8) && decide (rq.alen ≠ 8))) n n with
      | some c => s.refuse rq c
      | none =>
        if s.fixedLoc rq.loc || s.badBuffer rq 8 then s.refuse rq .statWr
        else s.homeRead r rq n (fun s old =>
          let cmp := if n = 8 then rq.args % 2 ^ 64 else field rq.op0 32 32
          let x := op.value n old (rq.op1.toNat % 2 ^ (8 * n)) cmp
          let s := match x.1 with
            | some v => s.store rq.behalf rq.loc n v
            | none => s
          s.reply rq 0 (ofBool x.2) 8 0 (op.result n old).toNat false)

/-- HANDLER_TILE_READ (R261): handler 3; the row's check value is verified (R347). -/
def execHandlerTileRead (r : Nat) : State → Result :=
  serve 3 r fun s rq =>
    match rangeCause rq true 1 0x800 with
    | some c => s.refuse rq c
    | none =>
      if s.rowFails rq.loc then
        (s.logError r 2 1 rq.tgt.v 0).reply rq Cause.uncorr.code 0 0 0 0 true
      else s.homeRead r rq 0x800 (fun s v => s.reply rq 0 0 0x800 0 v false)

/-- HANDLER_TILE_WRITE (R261): handler 4. -/
def execHandlerTileWrite (r : Nat) : State → Result :=
  serve 4 r fun s rq =>
    match rangeCause rq true 1 0x800 with
    | some c => s.refuse rq c
    | none =>
      if s.fixedLoc rq.loc then s.refuse rq .statWr
      else ((s.recall rq.loc 0x800).store rq.behalf rq.loc 0x800 rq.row).reply rq 0 0 0 0 0 false

/-- Elementwise sums in RNE: the new elements and whether NV is set (R74). -/
def addElems (f : Fmt) (a b : List Nat) : List Nat × Bool :=
  let l := (a.zip b).map (fun p => homeFadd f p.1 p.2)
  (l.map (·.1), l.any (·.2))

/-- HANDLER_TILE_ADD (R261): handler 5. -/
def execHandlerTileAdd (r : Nat) : State → Result :=
  serve 5 r fun s rq =>
    match rangeCause rq true 1 0x800 with
    | some c => s.refuse rq c
    | none =>
      if s.fixedLoc rq.loc then s.refuse rq .statWr
      else s.homeRead r rq 0x800 (fun s old =>
        let f := if bit rq.op0 0 then bf16 else f32
        let w := if bit rq.op0 0 then 16 else 32
        let x := addElems f (unpack w (16384 / w) old) (unpack w (16384 / w) rq.row)
        (s.store rq.behalf rq.loc 0x800 (pack w x.1)).reply rq 0 (ofBool x.2) 0 0 0 false)

/-- HANDLER_VECTOR_ADD (R261): handler 6. -/
def execHandlerVectorAdd (r : Nat) : State → Result :=
  serve 6 r fun s rq =>
    let n := rq.alen
    match rangeCause rq (decide (0 < n) && decide (n ≤ rq.rlen)) n 4 with
    | some c => s.refuse rq c
    | none =>
      if s.fixedLoc rq.loc || s.badBuffer rq n then s.refuse rq .statWr
      else s.homeRead r rq n (fun s old =>
        let x := addElems f32 (unpack 32 (n / 4) old) (unpack 32 (n / 4) rq.args)
        (s.store rq.behalf rq.loc n (pack 32 x.1)).reply rq 0 (ofBool x.2) n 0 old false)

/-! ### Hand-off queues (R371, R372) -/

/-- Whether a partition holds a grant in a field of HQGn. -/
def grants (h : Word) (lo p : Nat) : Bool := nbit (field h lo 16) p

/-- A field of a hand-off frame. -/
def State.frameField (s : State) (l : Loc) (o n : Nat) : Nat := s.peek (l.plus o) n

/-- Writes fields of a hand-off frame. -/
def State.frameWrites (s : State) (l : Loc) (w : List (Nat × Nat × Nat)) : State :=
  w.foldl (fun s x => s.store noBehalf (l.plus x.1) x.2.1 x.2.2) s

/-- HANDLER_HAND_OFF_PUSH (R372): handler 7. -/
def execHandlerHandOffPush (r : Nat) : State → Result :=
  serve 7 r fun s rq =>
    match s.handOff r rq.loc with
    | none => s.reply rq Cause.rpcFail.code 3 0 0 0 false
    | some (_, h) =>
      let l := rq.loc
      let count := s.frameField l 2 1
      let tail := s.frameField l 1 1
      if rq.alen = 0 then s.refuse rq .illegal
      else if !grants h 32 rq.part then s.reply rq Cause.rpcFail.code 2 0 0 0 false
      else if 240 ≤ count then s.reply rq 0 1 0 0 0 false
      else (s.frameWrites l [(0x1000 + 256 * tail, rq.alen, rq.args), (0x100 + tail, 1, rq.alen / 8), (1, 1, (tail + 1) % 240),
              (2, 1, count + 1), (8, 8, s.frameField l 8 8 + 1)]).reply rq 0 0 0 0 0 false

/-- HANDLER_HAND_OFF_POP (R372): handler 8. -/
def execHandlerHandOffPop (r : Nat) : State → Result :=
  serve 8 r fun s rq =>
    match s.handOff r rq.loc with
    | none => s.reply rq Cause.rpcFail.code 3 0 0 0 false
    | some (_, h) =>
      let l := rq.loc
      let count := s.frameField l 2 1
      let head := s.frameField l 0 1
      if !grants h 16 rq.part then s.reply rq Cause.rpcFail.code 2 0 0 0 false
      else if count = 0 then s.reply rq 0 1 0 0 0 false
      else
        let n := min (8 * s.frameField l (0x100 + head) 1) rq.rlen
        let msg := s.frameField l (0x1000 + 256 * head) n
        if s.badBuffer rq n then s.refuse rq .statWr
        else (s.frameWrites l [(0, 1, (head + 1) % 240), (2, 1, count - 1), (0x10, 8, s.frameField l 0x10 8 + 1)]).reply rq 0 0 n 0 msg false

/-! ### Watches and recalls -/

/-- Records a remote watch (R275): where 256 are held, the oldest is woken and goes. -/
def State.addWatch (s : State) (home granule : Nat) (w : Turn) : State :=
  let l := (granule, w) :: (s.core home).agent.watches.filter (fun x => decide (x ≠ (granule, w)))
  let s := s.modCore home (fun c => { c with agent := { c.agent with watches := l.take 256 } })
  (l.drop 256).foldl (fun s x => s.modThAt x.2 (fun t => match t.mon with
    | some m => if m.loc.granule = x.1 then { t with monHit := true } else t
    | none => t)) s

/-- HANDLER_REMOTE_MONITOR_ARM (R275): handler 11. -/
def execHandlerRemoteMonitorArm (r : Nat) : State → Result :=
  serve 11 r fun s rq => (s.addWatch r rq.loc.granule { rank := rq.rank, slot := rq.slot }).reply rq 0 0 0 0 0 false

/-- HANDLER_REDUCTION_RECALL (R261): handler 12. -/
def execHandlerReductionRecall (r : Nat) : State → Result :=
  serve 12 r fun s rq => (s.recall rq.loc 1).reply rq 0 0 0 0 0 false

end Sys2Proof.Machine
end

