-- ==== Sys2Proof/Machine/Agent.lean ====
section
/-!
DEFINITION. Vault agents: the agent major (R279), ports and units (R280), bank locks (R281), bank-MAC programs (R282-R284),
and handlers loaded by software (R278, R285, R287).
-/

namespace Sys2Proof.Machine

/-- Changes an agent. -/
def State.modAgent (s : State) (r : Nat) (f : Agent → Agent) : State := s.modCore r (fun c => { c with agent := f c.agent })

def State.agent (s : State) (r : Nat) : Agent := (s.core r).agent

/-- Core cycles of a number of vault cycles: 1.25 GHz against 10 GHz. -/
def vaultCycles (n : Nat) : Nat := 8 * n

/-! ### Bank-MAC programs (R282-R284) -/

/-- An operation entry. -/
structure MacOp where
  opc : Nat
  rows : Nat
  d : Nat
  a : Nat
  b : Nat
  deriving DecidableEq, Repr

def macNops (x : Nat) : Nat := bytesAt x 0 2
def macEt (x : Nat) : Nat := bytesAt x 2 1
def macBfl (x : Nat) : Nat := bytesAt x 3 1
def macBanks (x : Nat) : Nat := bytesAt x 4 4
def macLen (x : Nat) : Nat := bytesAt x 8 2
def macFlagGa (x : Nat) : Ptr := Ptr.ofBytes (bytesAt x 0x10 16)
def macFlagVal (x : Nat) : Nat := bytesAt x 0x20 8
def macRecGa (x : Nat) : Ptr := Ptr.ofBytes (bytesAt x 0x28 16)

/-- Operation i of a block. -/
def macOp (x i : Nat) : MacOp :=
  let o := 64 + 16 * i
  { opc := bytesAt x o 1 % 16, rows := bytesAt x (o + 1) 1, d := bytesAt x (o + 4) 4, a := bytesAt x (o + 8) 4, b := bytesAt x (o + 12) 4 }

/-- The operands that an operation uses: copy reads A alone. -/
def MacOp.operands (o : MacOp) : List Nat := if o.opc = 3 then [o.d, o.a] else [o.d, o.a, o.b]

/-- Whether the rows of an operand lie in the vault, in one bank, and that bank is locked (R282). -/
def operandOk (banks n row : Nat) : Bool :=
  decide (row + n ≤ 2 ^ 19) && decide (bankOf row = bankOf (row + n - 1)) && nbit banks (bankOf row)

/-- A GA that a flag or record of `n` bytes may have: global, or in the vault, and naturally aligned (DEDUCED, log entry 38).
-/
def reportGaOk (p : Ptr) (n : Nat) : Bool :=
  (decide (p.sb.toNat < 0xF0) || (decide (p.sb = 0xF3) && decide (p.v.toNat + n ≤ 2 ^ 30))) && decide (p.v.toNat % n = 0)

/-- Whether a block is accepted (R282). -/
def macOk (x : Nat) : Bool :=
  decide (1 ≤ macNops x) && decide (macNops x ≤ 64) && (decide (macEt x = 1) || decide (macEt x = 2))
    && decide (1 ≤ macLen x) && decide (macLen x ≤ 4096)
    && (!nbit (macBfl x) 0 || reportGaOk (macFlagGa x) 8) && (!nbit (macBfl x) 1 || reportGaOk (macRecGa x) 16)
    && (List.range (macNops x)).all (fun i =>
      let o := macOp x i
      decide (o.opc ≤ 3) && decide (1 ≤ o.rows) && decide (o.rows ≤ 16) && o.operands.all (operandOk (macBanks x) o.rows))

/-- Where a flag or record lies: in the vault, or translated through the agent's TLB (R282, R339). -/
def State.reportPlace (s : State) (r : Nat) (p : Ptr) : AgentPlace :=
  if p.sb = 0xF3 then .place (vaultLoc r p.v.toNat) s else s.agentPlace r true .store p

/-- The outcome of a block's acceptance. -/
inductive MacStart where
  | refused
  | waits (l : Loc)
  | faults (ga : Ptr) (c : Cause) (reason : Nat)
  | ok (p : MacProgram) (s : State)

/-- The places of a block's flag and record, in that order, where it uses them. -/
def State.macReport (s : State) (r : Nat) (used : Bool) (ga : Ptr) (k : State → Option (Ptr × Loc) → MacStart) : MacStart :=
  if used then
    match s.reportPlace r ga with
    | .place l s => k s (some (ga, l))
    | .waits l => .waits l
    | .fault c n => .faults ga c n
  else k s none

/-- Accepts or refuses a block (R282). -/
def State.macStart (s : State) (r x : Nat) (ga : Ptr) (rq : Option Rpc) : MacStart :=
  if !macOk x then .refused
  else s.macReport r (nbit (macBfl x) 0) (macFlagGa x) (fun s fl =>
    s.macReport r (nbit (macBfl x) 1) (macRecGa x) (fun s rec => .ok
      { block := x, ga := ga, reply := rq, flag := fl, record := rec, locked := false, ends := 0, rows := .replicate (macNops x) 0, hit := [],
        expired := false, poison := [], banks := 0, inj := rq.bind (·.inj) } s))

/-- A request that an agent has taken goes back to wait: it counts as a message again. -/
def State.returnRequest (s : State) (r : Nat) (rq : Rpc) : State :=
  let s := s.modAgent r (fun a => { a with requests := rq :: a.requests })
  if rq.engine.isNone then s.sent r (domKey rq.domain) else s

/-- HANDLER_BANK_MAC_LAUNCH (R261, R282): handler 13. Its reply is sent when the program ends. -/
def execHandlerBankMacLaunch (r : Nat) (s : State) : Result :=
  if (s.agent r).mac.isSome then .next s
  else serve 13 r (fun s rq =>
    if rq.loc.off % 64 ≠ 0 then s.refuse rq .misalign
    else if rq.loc.region ≠ .vault then s.reply rq Cause.rpcFail.code 1 0 0 0 false
    else
      let s := s.recall rq.loc 64
      let n := 64 + 16 * min 64 (s.look rq.loc 2)
      let s := s.recall rq.loc n
      if s.unreadable rq.loc n then (s.logUnreadable r rq.loc n 0).reply rq Cause.uncorr.code 0 0 0 0 (s.recoverable rq.domain rq.loc)
      else
        match s.macStart r (s.look rq.loc n) rq.tgt (some rq) with
        | .refused => s.reply rq Cause.rpcFail.code 1 0 0 0 false
        | .ok p s => s.modAgent r (fun a => { a with mac := some p, current := some rq })
        | .waits l => (s.returnRequest r rq).noteWaiting l
        | .faults ga c k => ((s.returnRequest r rq).parkRequest r rq ga c k).getD (s.returnRequest r rq)) s

/-- The poison NaN (R284). -/
def poisonNan (et : Nat) : Nat := if et = 1 then 0x7FC0DEAD else 0x7FDE

/-- The first element from which an operand row is lost: a granule that cannot be read, an injected error, or poison. -/
def State.lostFrom (s : State) (r : Nat) (p : MacProgram) (bytes row : Nat) : Option Nat :=
  let bad := (List.range 32).find? (fun g => (s.core r).vault.badGranules.contains (row * 32 + g))
  let l := (p.poison.filter (fun x => decide (x.1 = row))).map (·.2) ++ (match bad with
    | some g => [g * 64 / bytes]
    | none => []) ++ (if p.inj = some (bankOf row) then [0] else [])
  l.min?

/-- One element of an operation, rounded in RNE (R283). -/
def macElem (f : Fmt) (opc a b d : Nat) : Nat :=
  match opc with
  | 0 => (f.round 0 (Num.add false (f.value a) (f.value b)).1 0).1
  | 1 => (f.round 0 (Num.mul (f.value a) (f.value b)).1 0).1
  | 2 => (f.round 0 (Num.add false (Num.mul (f.value a) (f.value b)).1 (f.value d)).1 0).1
  | _ => a

/-- One row of an operation: operands, the element from which its output is poisoned, and the write. `from_` is the element
from which an earlier row of the operation has poisoned it: 0 for all of it. -/
def State.macRow (s : State) (r : Nat) (p : MacProgram) (o : MacOp) (k : Nat) (all : Bool) : State × MacProgram × Bool :=
  let et := macEt p.block
  let f := if et = 1 then f32 else bf16
  let w := if et = 1 then 32 else 16
  let n := 16384 / w
  let at_ := fun (row : Nat) => vaultLoc r ((row + k) * 0x800)
  let s := o.operands.foldl (fun s row => s.recall (at_ row) 0x800) s
  let read := fun (row : Nat) => unpack w n (s.look (at_ row) 0x800)
  let reads := match o.opc with
    | 2 => [o.a, o.b, o.d]
    | 3 => [o.a]
    | _ => [o.a, o.b]
  let lost := (reads.filterMap (fun row => s.lostFrom r p (w / 8) (row + k))).min?
  let start := if all then some 0 else lost
  let out := ((read o.a).zip ((read o.b).zip (read o.d))).mapIdx (fun e x => match start with
    | some j => if j ≤ e then poisonNan et else macElem f o.opc x.1 x.2.1 x.2.2
    | none => macElem f o.opc x.1 x.2.1 x.2.2)
  let b := match p.reply with
    | some rq => rq.behalf
    | none => noBehalf
  let s := s.store b (at_ o.d) 0x800 (pack w out)
  let p := match start with
    | some j => { p with poison := (o.d + k, j) :: p.poison.filter (fun x => decide (x.1 ≠ o.d + k)),
                         banks := if nbit p.banks (bankOf o.d) then p.banks else p.banks + 2 ^ bankOf o.d,
                         inj := none }
    | none => { p with poison := p.poison.filter (fun x => decide (x.1 ≠ o.d + k)) }
  (s, p, start.isSome)

/-- The core cycles that one row takes in its bank's unit (R283). -/
def macRowTime (x : Nat) : Nat := vaultCycles (if macEt x = 1 then 32 else 64)

/-- Whether two runs of `n` and `m` rows overlap. -/
def rowsMeet (a n b m : Nat) : Bool := decide (a < b + m) && decide (b < a + n)

/-- Whether an operation waits for an earlier one: both use the unit of one bank, or one writes a row that the other reads
or writes (R283). -/
def MacOp.after (o e : MacOp) : Bool :=
  decide (bankOf o.d = bankOf e.d) || o.operands.any (fun r => rowsMeet r o.rows e.d e.rows)
    || e.operands.any (fun r => rowsMeet r e.rows o.d o.rows)

/-- When the first `n` operations start, in cycles after the locks are taken (R283). -/
def macStarts (x : Nat) : Nat → List Nat
  | 0 => []
  | n + 1 =>
    let l := macStarts x n
    let o := macOp x n
    l ++ [((l.mapIdx (fun i t => if o.after (macOp x i) then t + (macOp x i).rows * macRowTime x else 0)).max?).getD 0]

/-- The row that ends next, where one is left: when it ends, and its operation. -/
def MacProgram.nextRow (p : MacProgram) : Option (Nat × Nat) :=
  let l := (macStarts p.block (macNops p.block)).mapIdx (fun i t => (t + (p.rows.getD i 0 + 1) * macRowTime p.block, i))
  (l.filter (fun x => decide (p.rows.getD x.2 0 < (macOp p.block x.2).rows))).foldl (fun (m : Option (Nat × Nat)) x => match m with
    | some y => if x.1 < y.1 then some x else m
    | none => some x) none

/-- Whether a program has rows to do that its declared length leaves time for, at a cycle. -/
def MacProgram.rowDue (p : MacProgram) (cycle : Nat) : Bool :=
  match p.nextRow with
  | some x => decide (x.1 ≤ vaultCycles (macLen p.block)) && decide (p.ends + x.1 ≤ cycle + vaultCycles (macLen p.block))
  | none => false

/-- The banks of a mask. -/
def banksOf (m : Nat) : List Nat := (List.range 32).filter (nbit m)

/-- Whether a bank is free for a program: no refresh, handler lock or tester burst (R95, R280). -/
def Vault.bankFree (v : Vault) (a : Agent) (bank : Nat) : Bool :=
  !v.refreshing.contains bank && !a.locks.contains bank && (match v.burst with
    | some b => decide (b.bank ≠ bank)
    | none => true)

/-- Whether BANK_MAC_PROGRAM_RUN can go on: its banks can be locked, or its next row is over and no bank of it refreshes. -/
def State.macReady (s : State) (r : Nat) (p : MacProgram) : Bool :=
  let v := (s.core r).vault
  if !p.locked then (banksOf (macBanks p.block)).all (v.bankFree (s.agent r))
  else !p.expired && p.rowDue s.cycle.toNat && (match p.nextRow with
    | some x => (macOp p.block x.2).operands.all (fun row => v.bankFree (s.agent r) (bankOf row))
    | none => false)

/-- Whether a program is over its declared length with rows left, and the next one did not end before. -/
def State.macLate (s : State) (r : Nat) (p : MacProgram) : Bool :=
  p.locked && !p.expired && decide (p.ends ≤ s.cycle.toNat) && p.nextRow.isSome && !s.macReady r p

/-- One row of a program. -/
def State.macStep (s : State) (r : Nat) (p : MacProgram) : State × MacProgram :=
  match p.nextRow with
  | none => (s, p)
  | some x =>
    let i := x.2
    let k := p.rows.getD i 0
    let y := s.macRow r p (macOp p.block i) k (p.hit.contains i)
    (y.1, { y.2.1 with rows := p.rows.set i (k + 1), hit := if y.2.2 then i :: p.hit else p.hit })

/-- BANK_MAC_PROGRAM_RUN (R283): the program locks its banks, and then its rows end one by one, each bank's unit taking its
operations in list order and an operation waiting for those it depends on. -/
def execBankMacProgramRun (r : Nat) (s : State) : Result :=
  match (s.agent r).mac with
  | none => .next s
  | some p =>
    if !s.macReady r p then .next s
    else if !p.locked then
      let s := s.modCore r (fun c => { c with vault := { c.vault with locks := banksOf (macBanks p.block) } })
      .next (s.modAgent r (fun a => { a with mac := some { p with locked := true, ends := s.cycle.toNat + vaultCycles (macLen p.block) } }))
    else
      let x := s.macStep r p
      .next (x.1.modAgent r (fun a => { a with mac := some x.2 }))

/-- The cause with which a program ends (R284). -/
def MacProgram.cause (p : MacProgram) : Nat :=
  if p.expired then Cause.watchdog.code else if p.banks ≠ 0 then Cause.uncorr.code else 0

/-- One bits of a 32-bit mask. -/
def maskCount (m : Nat) : Nat := (banksOf m).length

/-- MSTAT after a program (R280). -/
def macStatus (cause banks : Nat) : Word := word (cause + maskCount banks * 2 ^ 8 + banks * 2 ^ 16)

/-- Writes a program's report where nothing fixed stands in the way. -/
def State.writeReport (s : State) (p : Option (Ptr × Loc)) (n v : Nat) : State :=
  match p with
  | some (_, l) =>
    let l := s.livePlace ((s.partOf l.home).getD 0) l
    (s.recall l n).store noBehalf l n v
  | none => s

/-- BANK_MAC_COMPLETE (R284): record, flag, release of the locks, then the reply. -/
def execBankMacComplete (r : Nat) (s : State) : Result :=
  match (s.agent r).mac with
  | none => .next s
  | some p =>
    if !p.locked || !(p.expired || p.nextRow.isNone) then .next s
    else
      let c := p.cause
      let s := s.writeReport p.record 16 (c + maskCount p.banks * 2 ^ 8 + p.banks * 2 ^ 32 + s.cycle.toNat * 2 ^ 64)
      let s := s.writeReport p.flag 8 (macFlagVal p.block)
      let s := s.modCore r (fun c => { c with vault := { c.vault with locks := [] } })
      let s := if p.banks = 0 then s else s.logError r 5 1 p.ga.v p.banks
      let s := s.modAgent r (fun a => { a with mac := none, mstat := macStatus c p.banks })
      match p.reply with
      | some rq => .next ((s.reply rq c (maskCount p.banks) 0 p.banks 0 false).modAgent r (fun a => { a with current := none }))
      | none => .next (s.wakeAgent r)

/-- MGO (R280, R282): the block at MPROG in the data store is latched and started; a busy unit takes no trigger. -/
def State.mgo (s : State) (r : Nat) : MacStart :=
  let l : Loc := { region := .agentData, home := r, off := (s.agent r).mprog.toNat }
  let n := 64 + 16 * min 64 (s.look l 2)
  if l.off % 64 ≠ 0 ∨ 0x10000 < l.off + n then .refused
  else s.macStart r (s.look l n) { sb := 0xF0, v := (s.agent r).mprog } none

/-- The agent after a block it started is refused. -/
def Agent.macRefused (a : Agent) : Agent := { a with mstat := macStatus Cause.rpcFail.code 0 }

/-! ### Address generators, row mover, compare unit, vault port (R280) -/

/-- Starts generator g. -/
def Agent.startAg (a : Agent) (g : Nat) (v : Word) : Agent :=
  { a with agLeft := a.agLeft.setIfInBounds g v.toNat, agNext := a.agNext.setIfInBounds g (a.agBase.getD g 0 &&& 0x7FFFF),
           agBusy := a.agBusy.setIfInBounds g true }

/-- A read of AGg.NEXT: the next row address, or all ones after COUNT rows. -/
def Agent.readNext (a : Agent) (g : Nat) : Word × Agent :=
  if a.agLeft.getD g 0 = 0 then (BitVec.allOnes 64, a)
  else (a.agNext.getD g 0, { a with
    agLeft := a.agLeft.setIfInBounds g (a.agLeft.getD g 0 - 1)
    agNext := a.agNext.setIfInBounds g ((a.agNext.getD g 0 + a.agStep.getD g 0) &&& 0x7FFFF) })

/-- Starts the row mover: 1 to 16 rows; another count ends at once with ILLEGAL (DESIGN CHOICE, log entry 40). -/
def Agent.startMover (a : Agent) (v : Word) : Agent :=
  if 1 ≤ v.toNat ∧ v.toNat ≤ 16 then { a with mvBusy := true, mvRows := v.toNat, mvStat := 0 }
  else { a with mvStat := word Cause.illegal.code }

/-- Starts the compare unit. -/
def Agent.startCompare (a : Agent) : Agent := { a with cmBusy := true, cmStat := 0 }

/-- MGO as an event, on agent r. -/
def execMgo (r : Nat) (s : State) : Result :=
  if (s.agent r).mac.isSome then .next s
  else match s.mgo r with
    | .ok p s => .next (s.modAgent r (fun a => { a with mac := some p }))
    | .refused => .next (s.modAgent r Agent.macRefused)
    | .waits _ => .next s
    | .faults _ _ _ => .next s

/-- AG_COUNT, on a generator that is idle. -/
def execAgCount (r g : Nat) (v : Word) (s : State) : Result :=
  if (s.agent r).agBusy.getD g false then .next s else .next (s.modAgent r (·.startAg g v))

/-- MV_GO. -/
def execMvGo (r : Nat) (v : Word) (s : State) : Result :=
  if (s.agent r).mvBusy then .next s else .next (s.modAgent r (·.startMover v))

/-- CM_GO. -/
def execCmGo (r : Nat) (s : State) : Result := if (s.agent r).cmBusy then .next s else .next (s.modAgent r Agent.startCompare)

/-- A row that a unit works on (R85, R280). -/
def rowLoc (r : Nat) (row : Word) : Loc := vaultLoc r (row.toNat % 2 ^ 19 * 0x800)

/-- What one row of the mover does: the state after it, or none where it has to wait. -/
def State.moveOneRow (s : State) (r : Nat) : Option State :=
  let a := s.agent r
  let src := rowLoc r a.mvSrc
  let dst := rowLoc r a.mvDst
  let stop := fun (s : State) (c : Cause) => s.modAgent r (fun a => { a with mvBusy := false, mvStat := word c.code })
  match s.meets true src, s.meets true dst with
  | .nothing, .nothing =>
    let s := (s.recall src 0x800).recall dst 0x800
    if s.unreadable src 0x800 then some (stop (s.logUnreadable r src 0x800 0) .uncorr)
    else
      let s := s.store noBehalf dst 0x800 (s.look src 0x800)
      some (s.modAgent r (fun a => { a with mvSrc := a.mvSrc + 1, mvDst := a.mvDst + 1, mvRows := a.mvRows - 1, mvBusy := decide (1 < a.mvRows) }))
  | .repair, _ => some (stop s .rowRep)
  | .nothing, .repair => some (stop s .rowRep)
  | _, _ => none

/-- The compare unit's scan: the index of the first equal word, or all ones. -/
def State.scanRow (s : State) (r : Nat) : Option State :=
  let a := s.agent r
  let l := rowLoc r a.cmRow
  let done := fun (s : State) (res : Word) (c : Nat) => s.modAgent r (fun a => { a with cmBusy := false, cmRes := res, cmStat := word c })
  match s.meets true l with
  | .nothing =>
    let s := s.recall l 0x800
    if s.unreadable l 0x800 then some (done (s.logUnreadable r l 0x800 0) (BitVec.allOnes 64) Cause.uncorr.code)
    else
      let x := s.look l 0x800
      match (List.range 256).find? (fun i => decide (x / 2 ^ (64 * i) % 2 ^ 64 = a.cmVal.toNat)) with
      | some i => some (done s (word i) 0)
      | none => some (done s (BitVec.allOnes 64) 0)
  | .repair => some (done s (BitVec.allOnes 64) Cause.rowRep.code)
  | _ => none

/-- What AGENT_UNIT_COMPLETE does; none where the unit is idle or waits. The mover copies one row at a time. -/
def State.unitStep (s : State) (r : Nat) (u : AgentUnit) : Option State :=
  let a := s.agent r
  match u with
  | .mac => none
  | .ag g => if a.agBusy.getD g.val false then some (s.modAgent r (fun a => { a with agBusy := a.agBusy.setIfInBounds g.val false })) else none
  | .mover => if a.mvBusy then s.moveOneRow r else none
  | .compare => if a.cmBusy then s.scanRow r else none

/-- Whether a unit works. -/
def Agent.unitBusy (a : Agent) : AgentUnit → Bool
  | .mac => a.mac.isSome
  | .ag g => a.agBusy.getD g.val false
  | .mover => a.mvBusy
  | .compare => a.cmBusy

/-- AGENT_UNIT_COMPLETE (R280): the end of what a trigger started ends a `wfi` of the agent (R194). -/
def execAgentUnitComplete (r : Nat) (u : AgentUnit) (s : State) : Result :=
  match s.unitStep r u with
  | some t => .next (if (t.agent r).unitBusy u then t else t.wakeAgent r)
  | none => .next s

/-- BANK_LOCK_EXPIRY (R281, R283): the declared length is over; locks are released, and units that work on a released bank
stop with WATCHDOG. -/
def State.lockExpired (s : State) (r : Nat) : Bool :=
  let a := s.agent r
  (decide (a.locks ≠ []) && decide (a.lockEnd ≤ s.cycle.toNat)) || (match a.mac with
    | some p => s.macLate r p
    | none => false)

def execBankLockExpiry (r : Nat) (s : State) : Result :=
  if !s.lockExpired r then .next s
  else
    let a := s.agent r
    let past := decide (a.locks ≠ []) && decide (a.lockEnd ≤ s.cycle.toNat)
    let on := fun (row : Word) => past && a.locks.contains (bankOf (row.toNat % 2 ^ 19))
    let w := word Cause.watchdog.code
    let a := if a.mvBusy && (on a.mvSrc || on a.mvDst) then { a with mvBusy := false, mvStat := w } else a
    let a := if a.cmBusy && on a.cmRow then { a with cmBusy := false, cmStat := w, cmRes := BitVec.allOnes 64 } else a
    let b := if past then { a with locks := [], lockEnd := 0 } else a
    let b := { b with mac := b.mac.map (fun p => if s.macLate r p then { p with expired := true } else p) }
    let t := s.modAgent r (fun _ => b)
    .next (if ((s.agent r).mvBusy && !b.mvBusy) || ((s.agent r).cmBusy && !b.cmBusy) then t.wakeAgent r else t)

/-- The vault port's place: V.OFF aligned and in the vault, or the cause of its trap (R285). -/
def Agent.portCause (a : Agent) : Option Cause :=
  if a.vOff.toNat % 8 ≠ 0 then some .misalign else if 0x40000000 < a.vOff.toNat + 8 then some .aperture else none

/-- V_DATA_READ as an event: the read that waits for nothing, into register d of the agent. -/
def execVDataRead (r : Nat) (d : Reg) (s : State) : Result :=
  let a := s.agent r
  let l := vaultLoc r a.vOff.toNat
  if a.portCause.isSome || decide (s.meets true l ≠ .nothing) || s.unreadable l 8 then .next s
  else
    let s := s.recall l 8
    let v := s.look l 8
    .next ((s.modAgent r (fun a => { a with vOff := a.vOff + 8 })).modThAt { rank := r, slot := 4 } (fun t => t.putInt d (word v)))

/-- V_DATA_WRITE as an event. -/
def execVDataWrite (r : Nat) (v : Word) (s : State) : Result :=
  let a := s.agent r
  let l := vaultLoc r a.vOff.toNat
  if a.portCause.isSome || decide (s.meets true l ≠ .nothing) then .next s
  else .next (((s.recall l 8).store noBehalf l 8 v.toNat).modAgent r (fun a => { a with vOff := a.vOff + 8 }))

/-! ### The agent major (R279) -/

/-- Major 0x3D raises ILLEGAL on a compute core (R160). -/
def needAgent (i : Instr) : M Unit := do
  if (← get).turn.slot ≠ 4 then illegal i

/-- The agent of the thread that issues. -/
def myAgent : M Agent := do return (← get).me.agent

def updAgent (f : Agent → Agent) : M Unit := upd (fun s => s.modAgent s.turn.rank f)

/-- Stops with the trap of the vault port. -/
def portTrap : M Unit := do
  let a ← myAgent
  match a.portCause with
  | some c => raise c a.vOff 0
  | none => pure ()

/-- A trigger port whose unit is busy waits. -/
def waitIdle (busy : Bool) : M Unit := do
  if busy then stall

/-- The start of a block by MGO from a handler; a translation fault parks the request (R282, R339). -/
def startMac : M Unit := do
  let s ← get
  waitIdle s.me.agent.mac.isSome
  match s.mgo s.turn.rank with
  | .ok p s' => set (s'.modAgent s.turn.rank (fun a => { a with mac := some p }))
  | .refused => updAgent Agent.macRefused
  | .waits l => do upd (·.noteWaiting l); stall
  | .faults ga c k => throw (.page ga c 2 k)

/-- A write of a port (R280): ports that are not written, and numbers that name none, raise ILLEGAL. -/
def writePort (i : Instr) (port : Nat) (v : Word) : M Unit := do
  let a ← myAgent
  match port with
  | 0x00 => updAgent (fun a => { a with mprog := v })
  | 0x01 => startMac
  | 0x20 => updAgent (fun a => { a with mvSrc := v })
  | 0x21 => updAgent (fun a => { a with mvDst := v })
  | 0x22 => do waitIdle a.mvBusy; updAgent (·.startMover v)
  | 0x28 => updAgent (fun a => { a with cmRow := v })
  | 0x29 => updAgent (fun a => { a with cmVal := v })
  | 0x2A => do waitIdle a.cmBusy; updAgent Agent.startCompare
  | 0x30 => updAgent (fun a => { a with vOff := v })
  | 0x31 => do
    portTrap
    let s ← get
    let l := vaultLoc s.turn.rank a.vOff.toNat
    let ga : Ptr := { sb := 0xF3, v := a.vOff }
    writeAt ga l 8 v.toNat 2
    updAgent (fun a => { a with vOff := a.vOff + 8 })
  | p =>
    if 0x10 ≤ p ∧ p < 0x20 then
      let g := (p - 0x10) / 4
      match p % 4 with
      | 0 => updAgent (fun a => { a with agBase := a.agBase.setIfInBounds g v })
      | 1 => updAgent (fun a => { a with agStep := a.agStep.setIfInBounds g v })
      | 2 => do waitIdle (a.agBusy.getD g false); updAgent (·.startAg g v)
      | _ => illegal i
    else illegal i

/-- A read of a port. -/
def readPort (i : Instr) (port : Nat) : M Word := do
  let a ← myAgent
  match port with
  -- a status that shows the unit busy is read at once (DEDUCED, log entry 39)
  | 0x02 => return if a.mac.isSome then setBit a.mstat 63 else a.mstat
  | 0x2B => do waitIdle a.cmBusy; return a.cmRes
  | 0x31 => do
    portTrap
    let s ← get
    let v ← readAt { sb := 0xF3, v := a.vOff } (vaultLoc s.turn.rank a.vOff.toNat) 8 1
    updAgent (fun a => { a with vOff := a.vOff + 8 })
    return word v
  | p =>
    if 0x10 ≤ p ∧ p < 0x20 ∧ p % 4 = 3 then
      let g := (p - 0x10) / 4
      waitIdle (a.agBusy.getD g false)
      let r := a.readNext g
      updAgent (fun _ => r.2)
      return r.1
    else illegal i

/-- `mvp port, sR`. -/
def execMvp (f : FmtP) : State → Result :=
  run do
    needAgent (.mvp f)
    writePort (.mvp f) f.port.val ((← thread).val f.reg)

/-- `mvr sR, port`. -/
def execMvr (f : FmtP) : State → Result :=
  run do
    needAgent (.mvr f)
    let v ← readPort (.mvr f) f.port.val
    updTh (fun t => t.putInt f.reg v)

/-- `mvi port, imm`. -/
def execMvi (f : FmtP) : State → Result :=
  run do
    needAgent (.mvi f)
    writePort (.mvi f) f.port.val (sext f.imm)

/-- Whether the unit that owns a port is busy, and its status; none for a number that names no port. -/
def Agent.unitOf (a : Agent) (port : Nat) : Option (Bool × Word) :=
  if port ≤ 2 then some (a.mac.isSome, a.mstat &&& 0xFF)
  else if 0x10 ≤ port ∧ port < 0x20 then some (a.agBusy.getD ((port - 0x10) / 4) false, 0)
  else if 0x20 ≤ port ∧ port ≤ 0x22 then some (a.mvBusy, a.mvStat)
  else if 0x28 ≤ port ∧ port ≤ 0x2B then some (a.cmBusy, a.cmStat)
  else if port = 0x30 ∨ port = 0x31 then some (false, 0)
  else none

/-- `trig sR, port`. -/
def execTrig (f : FmtP) : State → Result :=
  run do
    needAgent (.trig f)
    match (← myAgent).unitOf f.port.val with
    | none => illegal (.trig f)
    | some (busy, st) =>
      waitIdle busy
      updTh (fun t => t.putInt f.reg st)

/-- `abank sR, imm` (R281): it waits while a bank of the mask is held by a bank-MAC program. -/
def execAbank (f : FmtP) : State → Result :=
  run do
    needAgent (.abank f)
    let s ← get
    let m := (s.th.val f.reg).toNat % 2 ^ 32
    if m = 0 then updAgent (fun a => { a with locks := [], lockEnd := 0 })
    else
      if (banksOf m).any (fun b => s.me.vault.locks.contains b) then stall
      updAgent (fun a => { a with locks := banksOf m, lockEnd := s.cycle.toNat + vaultCycles ((f.imm.toNat + 1) * 4) })

/-- The reply of a loaded handler: RLEN bytes from 0x0200, and the status that it gives. -/
def State.agentReply (s : State) (r : Nat) (st : Word) : State :=
  match (s.agent r).current with
  | none => s
  | some rq =>
    let data := s.peek { region := .agentData, home := r, off := 0x200 } rq.rlen
    (s.replyWith rq st rq.rlen data false).modAgent r (fun a => { a with replied := true })

/-- `areply sR`: a second one in a handler, or one outside a handler, raises ILLEGAL. -/
def execAreply (f : FmtP) : State → Result :=
  run do
    needAgent (.areply f)
    let a ← myAgent
    if a.replied || a.current.isNone then illegal (.areply f)
    upd (fun s => s.agentReply s.turn.rank (s.th.val f.reg))

/-- `anext`: the handler ends; without an earlier `areply` it answers status 0 with RBYTES 0. The next request is loaded by
LOADED_HANDLER. -/
def execAnext (f : FmtP) : State → Result :=
  run do
    needAgent (.anext f)
    let s ← get
    let r := s.turn.rank
    match s.me.agent.current with
    | some rq => if s.me.agent.replied then pure () else upd (fun s => s.reply rq 0 0 0 0 0 false)
    | none => pure ()
    upd (·.endHandler r)
    finish

/-! ### Loaded handlers (R278, R287) -/

/-- The 64-byte header of a request as its agent sees it (R259, R278): for a global TGT its value is the vault offset. -/
def Rpc.header (rq : Rpc) : Nat :=
  let tgt : Ptr := if rq.tgt.sb.toNat < 0xF0 then { rq.tgt with v := word rq.loc.off } else rq.tgt
  rq.h + rq.cfl * 256 + rq.alen * 256 ^ 2 + rq.rlen * 256 ^ 4 + rq.pad * 256 ^ 6 + tgt.bytes * 256 ^ 8 + rq.rbuf * 256 ^ 0x18 + rq.op0.toNat * 256 ^ 0x20
    + rq.op1.toNat * 256 ^ 0x28 + rq.rank % 2 ^ 16 * 256 ^ 0x30 + rq.slot.val * 256 ^ 0x32 + rq.reg.val * 256 ^ 0x33 + rq.seq * 256 ^ 0x34

/-- Starts a loaded handler: header and arguments in the data store, and the pc at its table entry. -/
def State.startHandler (s : State) (r : Nat) (rq : Rpc) (entry : Nat) : State :=
  let at_ := fun (o : Nat) => ({ region := .agentData, home := r, off := o } : Loc)
  let s := (s.poke (at_ 0) 64 rq.header).poke (at_ 0x40) 256 rq.args
  let s := s.modAgent r (fun a => { a with current := some rq, replied := false })
  s.modThAt { rank := r, slot := 4 } (fun t => { t with occ := .occupied, pc := { sb := 0xF0, v := word entry }, stalled := false, wfi := false })

/-- LOADED_HANDLER (R260, R287): the next request, for a handler that is not built in. -/
def execLoadedHandler (r : Nat) (s : State) : Result :=
  match (s.agent r).nextRequest with
  | none => .next s
  | some rq =>
    if rq.h < 14 ∨ (s.agent r).current.isSome ∨ (s.agent r).moving.isSome ∨ s.callerFirst r rq then .next s
    else if rq.stale then .next (s.refresh r rq)
    else if (s.redirectRpc rq).isSome then .next (s.forward r rq)
    else if s.foreign r rq then .next ((s.takeRequest r rq).refuse rq .prot)
    else if rq.h < 32 then .next ((s.takeRequest r rq).refuse rq .illegal)
    else
      let e := s.peek { region := .agentData, home := r, off := 0xF800 + 8 * rq.h } 8
      let s := s.takeRequest r rq
      if e = 2 ^ 64 - 1 then .next (s.refuse rq .rpcFail) else .next (s.startHandler r rq e)

end Sys2Proof.Machine
end

