-- ==== Sys2Proof/Machine/Dram.lean ====
section
/-!
DEFINITION. What happens at a vault beside its accesses: refresh (R89), tester bursts (R93, R393), row repair (R90, R349,
R362), throttle levels (R91, R387), and flushes and recalls of reductions (R111).
-/

namespace Sys2Proof.Machine

/-- A change of a core's vault. -/
def State.modVault (s : State) (r : Nat) (f : Vault → Vault) : State := s.modCore r (fun c => { c with vault := f c.vault })

/-! ### Refresh (R89) -/

/-- BANK_REFRESH: the bank is busy, and its open row closes. -/
def execBankRefresh (r bank : Nat) (s : State) : Result :=
  if 32 ≤ bank then .next s
  else .next (s.modVault r (fun v => { v with
    refreshing := addOnce v.refreshing bank, openRows := v.openRows.filter (fun row => decide (bankOf row ≠ bank)) }))

/-- BANK_REFRESH_END. -/
def execBankRefreshEnd (r bank : Nat) (s : State) : Result :=
  .next (s.modVault r (fun v => { v with refreshing := v.refreshing.filter (fun b => decide (b ≠ bank)) }))

/-! ### The background tester (R93, R393) -/

/-- TESTER_BURST: the tester reads a row of a bank. -/
def execTesterBurst (r bank row : Nat) (weak : Bool) (s : State) : Result :=
  if (s.core r).vault.burst.isSome ∨ 32 ≤ bank ∨ bankOf row ≠ bank then .next s
  else .next (s.modVault r (fun v => { v with burst := some { bank := bank, row := row, weak := weak }, waiting := [] }))

/-- TESTER_BURST_ABORT: a waiting access ends the burst. -/
def execTesterBurstAbort (r : Nat) (s : State) : Result :=
  if (s.core r).vault.waiting = [] then .next s else .next (s.modVault r (fun v => { v with burst := none, waiting := [] }))

/-! ### Row repair (R90, R349, R362) -/

/-- Spares of a bank that are in use. -/
def Vault.sparesUsed (v : Vault) (bank : Nat) : Nat := (v.repairs.filter (fun p => decide (bankOf p.1 = bank) && decide (p.2 < 64))).length

/-- Whether a row has been left without a spare, and reported. -/
def Vault.exhausted (v : Vault) (row : Nat) : Bool := v.repairs.any (fun p => decide (p.1 = row) && decide (p.2 = 64))

/-- A weak row is marked under repair, or reported once where its bank has no spare left (R362). -/
def State.markRepair (s : State) (r row : Nat) : State :=
  let v := (s.core r).vault
  if v.marked.contains row || v.exhausted row then s
  else if v.sparesUsed (bankOf row) < 64 then s.modVault r (fun v => { v with marked := addOnce v.marked row })
  else (s.modVault r (fun v => { v with repairs := (row, 64) :: v.repairs })).logError r 14 0 (word (row * 0x800)) (bankOf row)

/-- TESTER_BURST_END: a row found weak is marked before a waiting access proceeds. -/
def execTesterBurstEnd (r : Nat) (s : State) : Result :=
  match (s.core r).vault.burst with
  | none => .next s
  | some b =>
    let s := s.modVault r (fun v => { v with burst := none, waiting := [] })
    if b.weak then .next (s.markRepair r b.row) else .next s

/-- The marked row is copied to a spare with what is correctable corrected, its address is redirected, and the mark is
cleared; the granules that cannot be corrected stay so (R90, R352). -/
def State.finishRepair (s : State) (r row : Nat) : State :=
  let bank := bankOf row
  let spare := (s.core r).vault.sparesUsed bank
  let s := s.modVault r (fun v => { v with
    marked := v.marked.filter (fun x => decide (x ≠ row)), repairs := (row, spare) :: v.repairs,
    weakGranules := v.weakGranules.filter (fun g => decide (g / 32 ≠ row)), correctedReads := v.correctedReads.filter (fun x => decide (x.1 ≠ row)),
    openRows := v.openRows.filter (fun x => decide (x ≠ row)) })
  let s := s.modCore r (fun c => { c with log := { c.log with rrep := saturate32 (c.log.rrep + 1) } })
  s.logError r 3 0 (word (row * 0x800)) ((63 - spare) * 2 ^ 24 + bank)

/-- ROW_REPAIR: the mark, or the copy and the redirection of a marked row. -/
def execRowRepair (r row : Nat) (s : State) : Result :=
  if 2 ^ 19 ≤ row then .next s
  else if (s.core r).vault.marked.contains row then .next (s.finishRepair r row)
  else .next (s.markRepair r row)

/-- Whether a corrected read is the fourth of its row within 2^32 cc (R349). -/
def Vault.fourthRead (v : Vault) (e : Nat × Nat) : Bool :=
  decide (4 ≤ (v.correctedReads.filter (fun x => decide (x.1 = e.1) && decide (x.2 ≤ e.2) && decide (e.2 < x.2 + 2 ^ 32))).length)

/-- The row that the agent repairs next: a marked one, or one with four corrected reads in that time (R349). -/
def Vault.repairDue (v : Vault) : Option Nat :=
  match v.marked with
  | row :: _ => some row
  | [] => (v.correctedReads.find? (fun e => v.fourthRead e && !v.exhausted e.1)).map (·.1)

/-! ### Throttling (R91, R387) -/

/-- A thread sees a change of its vault's level: TCHG, and where EVCTL.THERM is set and the slot is not empty one THERMAL
more. -/
def Thread.throttled (t : Thread) (lvl : Nat) : Thread :=
  Thread.touchC { t with
    evctl := setBit t.evctl 9
    thermals := if bit t.evctl 2 && decide (t.occ ≠ .empty) then t.thermals ++ [lvl] else t.thermals }

/-- VAULT_THROTTLE_CHANGE. -/
def execVaultThrottleChange (r lvl : Nat) (s : State) : Result :=
  if 2 < lvl ∨ (s.core r).vault.level = lvl then .next s
  else .next (s.modCore r (fun c => { c with
    vault := { c.vault with level := lvl }
    threads := c.threads.mapIdx (fun i t => if i < 4 then t.throttled lvl else t) }))

/-- A change of a die of the package. -/
def State.modDie (s : State) (d : Nat) (f : Die → Die) : State := { s with dies := s.dies.setIfInBounds d (f (s.dies.getD d .reset)) }

/-- CORE_THROTTLE_RAISE (R387). -/
def execCoreThrottleRaise (die : Nat) (s : State) : Result := .next (s.modDie die (fun d => { d with level := min 2 (d.level + 1) }))

/-- CORE_THROTTLE_LOWER (R387). -/
def execCoreThrottleLower (die : Nat) (s : State) : Result := .next (s.modDie die (fun d => { d with level := d.level - 1 }))

/-! ### Reductions (R111) -/

/-- REDUCTION_FLUSH: the oldest entry of a core's buffer is applied at its home. -/
def execReductionFlush (r : Nat) (s : State) : Result :=
  match (s.core r).redbuf with
  | [] => .next s
  | e :: rest => .next ((s.modCore r (fun c => { c with redbuf := rest })).applyRed r e)

/-- REDUCTION_RECALL: a recall for a granule of vault `r`. -/
def execReductionRecall (r granule : Nat) (s : State) : Result := .next (s.recall (vaultLoc r (granule % 2 ^ 24 * 64)) 64)

end Sys2Proof.Machine
end

