-- ==== Sys2Proof/Machine/ControlRegs.lean ====
section
/-!
DEFINITION. Control registers: their privilege (R159), reads, and writes field by field with their side effects
(R39, R40, R57, R58, R84, R88, R163, R187, R269, R289, R294-R299, R363, R367, R369).
-/

namespace Sys2Proof.Machine

/-- The registers of a thread, a core, the package and the monitor, by number (*Shared names*, R299). -/
inductive Cr where
  | fpctl | warn | cycle | rank | srseed | evctl | domid | sstepn | errinj
  | bmask (k : Fin 8)
  | thstat | tvec | tcause | tval | tepc | tscratch | ien | ipend | ctxbase | dirty | ptbase | asid | spkey
  | tidbase | tidlim | partid
  | mstat | mtvec | mcause | mtval | mepc
  | pgrant (p : Fin 16)
  | hqg (q : Fin 256)
  deriving DecidableEq, Repr

/-- The register of a number; none where the number is not assigned. -/
def crOf (n : Nat) : Option Cr :=
  match n with
  | 0x001 => some .fpctl | 0x002 => some .warn | 0x003 => some .cycle | 0x004 => some .rank | 0x005 => some .srseed
  | 0x006 => some .evctl | 0x007 => some .domid | 0x008 => some .sstepn | 0x009 => some .errinj
  | 0x100 => some .thstat | 0x101 => some .tvec | 0x102 => some .tcause | 0x103 => some .tval | 0x104 => some .tepc
  | 0x105 => some .tscratch | 0x106 => some .ien | 0x107 => some .ipend | 0x108 => some .ctxbase | 0x109 => some .dirty
  | 0x10A => some .ptbase | 0x10B => some .asid | 0x10C => some .spkey | 0x10D => some .tidbase | 0x10E => some .tidlim
  | 0x10F => some .partid
  | 0x200 => some .mstat | 0x201 => some .mtvec | 0x202 => some .mcause | 0x203 => some .mtval | 0x204 => some .mepc
  | n =>
    if 0x010 ≤ n ∧ n < 0x018 then some (.bmask (Fin.ofNat 8 (n - 0x010)))
    else if 0x210 ≤ n ∧ n < 0x220 then some (.pgrant (Fin.ofNat 16 (n - 0x210)))
    else if 0x300 ≤ n ∧ n < 0x400 then some (.hqg (Fin.ofNat 256 (n - 0x300)))
    else none

/-- What a read of a register delivers (R187). -/
def State.crRead (s : State) (w : Turn) (r : Cr) : Word :=
  let t := s.thAt w
  let c := s.core w.rank
  match r with
  | .fpctl => t.fpctl | .warn => t.warn | .cycle => s.cycle | .rank => word (w.rank % 0x10000)
  | .srseed => t.srseed
  | .evctl => t.evctl ||| word (c.vault.level * 0x400)
  | .domid => t.domid
  | .sstepn => match c.sstepn.find? (fun p => decide (p.1 = word (field t.domid 0 3 + field t.domid 4 12 * 16))) with
    | some p => p.2
    | none => 0
  | .errinj => t.errinj
  | .bmask k => c.bmask[k]
  | .thstat => t.thstat | .tvec => c.tvec | .tcause => t.tcause | .tval => t.tval | .tepc => t.tepc
  | .tscratch => t.tscratch | .ien => t.ien | .ipend => t.ipend | .ctxbase => c.ctxbase | .dirty => t.dirty
  | .ptbase => c.ptbase | .asid => c.asid | .spkey => c.spkey | .tidbase => t.tidbase | .tidlim => t.tidlim
  | .partid => c.partid
  | .mstat => s.monitor.mstat | .mtvec => s.monitor.mtvec | .mcause => s.monitor.mcause | .mtval => s.monitor.mtval
  | .mepc => s.monitor.mepc
  | .pgrant p => s.pgrant[p]
  | .hqg q => (lookup s.hqg q.val).getD 0

/-- A write field by field: bits of `rw` take the value, bits of `w1c` clear where it holds 1, others stay (R7). -/
def fieldWrite (old v rw w1c : Word) : Word := ((old &&& ~~~rw) ||| (v &&& rw)) &&& ~~~(v &&& w1c)

/-- TVEC after a write: spaces other than global and 0xF0 store 0xF0 (R295). -/
def tvecStored (old v : Word) : Word :=
  fieldWrite old (if field v 56 8 ≤ 0xF0 then v else withField v 56 8 0xF0) 0xFFFFFFFFFFFFFFFC 0

/-- THSTAT's writable fields; PMODE 2 and 3 store 1 (R294). -/
def thstatStored (old v : Word) : Word :=
  let v := if field v 10 2 < 2 then v else withField v 10 2 1
  fieldWrite old v 0xFFFFFE0000003CE0 0

/-- The entries of a TLB that lack G go at a write to PTBASE or ASID (R335). -/
def State.dropNonGlobal (s : State) (rank : Nat) : State :=
  s.modCore rank (fun c =>
    { c with utlb := c.utlb.filter (fun t => bit t.leaf 56), tlb := c.tlb.filter (fun t => bit t.leaf 56), wcache := [],
             agent := { c.agent with tlb := c.agent.tlb.filter (fun t => bit t.leaf 56) } })

/-- A write of SPKEY: the bytes of plain and staging offsets follow the new key (R84). -/
def State.setSpkey (s : State) (rank : Nat) (k : Word) : State :=
  let c := s.core rank
  let old := field c.spkey 0 16
  let s := s.modCore rank (fun c => { c with spkey := k })
  if old = k.toNat then s
  else { s with mem := rekey (c.fixedOffset (s.pairing rank)) ((Region.scratch).base rank) old k.toNat s.mem }

/-- A write of HQGn: HOLDER only while EN is 0; enabling zeroes the frame (R369, R371). -/
def State.setHqg (s : State) (q : Nat) (v : Word) : State :=
  let old := (lookup s.hqg q).getD 0
  let new := fieldWrite old v (if bit old 0 then 0x0000FFFFFFFF0001 else 0xFFFFFFFFFFFF0001) 0
  let s := { s with hqg := insert s.hqg q new }
  if !bit old 0 && bit new 0 then s.wipe (vaultLoc (field new 48 16) (0x3E000000 + q * 0x10000)) 0x10000 else s

/-- Whether a write of a register must wait: BMASKn while the core has an arrival outstanding on tag n (R269). -/
def State.crWaits (s : State) (w : Turn) (r : Cr) : Bool :=
  match r with
  | .bmask k => decide ((s.core w.rank).pc[k] < (s.core w.rank).ac[k])
  | _ => false

/-- BMASKn as stored: SPAN 6 and 7 store 0 (R269). -/
def bmaskStored (v : Word) : Word :=
  let v := fieldWrite 0 v 0x000000F00007FFFF 0
  if field v 16 3 < 6 then v else withField v 16 3 0

/-- SSTEPN of a domain on a core (R40). -/
def setSstepn (l : List (Word × Word)) (dom v : Word) : List (Word × Word) :=
  (dom, v) :: l.filter (fun p => decide (p.1 ≠ dom))

/-- A write of a register, with its side effects (R187). -/
def State.crWrite (s : State) (w : Turn) (r : Cr) (v : Word) : State :=
  let task := fun (f : Thread → Thread) => s.modThAt w (fun t => (f t).touchC)
  let slot := fun (f : Thread → Thread) => s.modThAt w f
  let core := fun (f : Core → Core) => s.modCore w.rank f
  match r with
  | .fpctl => task (fun t =>
      let t' := { t with fpctl := fieldWrite t.fpctl (fpctlStored v) 0x1F1F07 0 }
      if field v 0 3 < 6 then t' else t'.warnBit .fmt)
  | .warn => task (fun t => { t with warn := fieldWrite t.warn v 0 0x7F })
  | .cycle => s
  | .rank => s
  | .srseed => task (fun t => { t with srseed := storedSeed v })
  | .evctl => task (fun t => { t with evctl := fieldWrite t.evctl v 7 0x200 })
  | .domid =>
    let ckpt := match s.partOf w.rank with
      | some p => bit (s.grant p) 4
      | none => false
    slot (fun t => { t with domid := fieldWrite t.domid (if ckpt then v else clearBit v 3) 0xFFFF 0 })
  | .sstepn =>
    let d := word (field (s.thAt w).domid 0 3 + field (s.thAt w).domid 4 12 * 16)
    core (fun c => { c with sstepn := setSstepn c.sstepn d v })
  | .errinj => task (fun t => { t with errinj := fieldWrite t.errinj v 0xFFFFFFFFFF87FFFF 0 })
  | .bmask k => core (fun c => { c with bmask := c.bmask.set k (bmaskStored v), ac := c.ac.set k 0, pc := c.pc.set k 0 })
  | .thstat => slot (fun t => { t with thstat := thstatStored t.thstat v })
  | .tvec => core (fun c => { c with tvec := tvecStored c.tvec v })
  | .tcause => slot (fun t => { t with tcause := fieldWrite t.tcause v 0x8000000000001FFF 0 })
  | .tval => slot (fun t => { t with tval := v })
  | .tepc => slot (fun t => { t with tepc := v })
  | .tscratch => slot (fun t => { t with tscratch := v })
  | .ien => slot (fun t => { t with ien := fieldWrite t.ien v 0x3F 0 })
  | .ipend => slot (fun t =>
      { t with ipend := fieldWrite t.ipend v 0 0x3F, missTval := if bit v 2 then 0 else t.missTval })
  | .ctxbase => core (fun c => { c with ctxbase := fieldWrite c.ctxbase v 0xFFFF00003FFFFFFF 0 })
  | .dirty => slot (fun t => { t with dirty := fieldWrite t.dirty v 0xFFFFF 0 })
  | .ptbase => (core (fun c => { c with ptbase := fieldWrite c.ptbase v 0xFFFF00003FFE0001 0 })).dropNonGlobal w.rank
  | .asid => (core (fun c => { c with asid := fieldWrite c.asid v 0xFFFF 0 })).dropNonGlobal w.rank
  | .spkey => s.setSpkey w.rank (fieldWrite 0 v 0xFFFF 0)
  | .tidbase => task (fun t => { t with tidbase := fieldWrite t.tidbase v 0xFFFFFFFFFFFFFFC0 0 })
  | .tidlim => task (fun t => { t with tidlim := tidlimStored v })
  | .partid => s
  | .mstat => { s with monitor := { s.monitor with mstat := thstatStored s.monitor.mstat v } }
  | .mtvec => { s with monitor := { s.monitor with mtvec := tvecStored s.monitor.mtvec v } }
  | .mcause => { s with monitor := { s.monitor with mcause := fieldWrite s.monitor.mcause v 0x8000000000001FFF 0 } }
  | .mtval => { s with monitor := { s.monitor with mtval := v } }
  | .mepc => { s with monitor := { s.monitor with mepc := v } }
  | .pgrant p => { s with pgrant := s.pgrant.set p (fieldWrite 0 v 0xFF3F 0) }
  | .hqg q => s.setHqg q.val v

/-- The privilege checks on a control-register word, before the number is found unassigned (R159). -/
def State.crPriv (s : State) (n : Nat) (writes : Bool) : Bool :=
  let user := !s.supervisor
  if n = 0x009 then
    match s.partOf s.turn.rank with
    | some p => !bit (s.grant p) 0
    | none => true
  else if 0x200 ≤ n then decide (s.th.mode ≠ 2)
  else if 0x100 ≤ n then user
  else user && writes && (decide (n = 0x007) || decide (n = 0x008) || (decide (0x010 ≤ n) && decide (n < 0x018)))

/-- The checks of a control-register word, and its register. -/
def crFind (i : Instr) (f : FmtC) (writes : Bool) : M Cr := do
  if (← get).crPriv f.num.toNat writes then raise .priv (wordVal i) 0
  match crOf f.num.toNat with
  | some r => return r
  | none => illegal i

/-- `crrd d, n` (R187). -/
def execCrrd (f : FmtC) : State → Result :=
  run do
    let r ← crFind (.crrd f) f false
    let v := (← get).crRead (← get).turn r
    updTh (fun t => t.putInt f.d v)

/-- `crwr n, a` (R187). -/
def execCrwr (f : FmtC) : State → Result :=
  run do
    let r ← crFind (.crwr f) f true
    if (← get).crWaits (← get).turn r then stall
    upd (fun s => s.crWrite s.turn r (s.th.val f.a))

/-- `crxch d, n, a`: d receives the value before the write (R187). -/
def execCrxch (f : FmtC) : State → Result :=
  run do
    let r ← crFind (.crxch f) f true
    if (← get).crWaits (← get).turn r then stall
    let v := (← get).crRead (← get).turn r
    upd (fun s => s.crWrite s.turn r (s.th.val f.a))
    updTh (fun t => t.putInt f.d v)

/-! ### Writes that come as events of the opcode table -/

/-- A register written at a slot: by its crwr, or by the monitor or scheduler (R187, R298). -/
def registerEvent (rank n num : Nat) (v : Word) (s : State) : Result :=
  let w : Turn := { rank := rank, slot := Fin.ofNat 5 n }
  match crOf num with
  | some r => if s.crWaits w r then .next s else .next (s.crWrite w r v)
  | none => .next s

/-- SRSEED_WRITE (R57). -/
def execSrseedWrite (r n : Nat) (v : Word) : State → Result := registerEvent r n 0x005 v
/-- FPCTL_WRITE (R58). -/
def execFpctlWrite (r n : Nat) (v : Word) : State → Result := registerEvent r n 0x001 v
/-- BMASK_WRITE (R269). -/
def execBmaskWrite (r tag : Nat) (v : Word) : State → Result := registerEvent r 0 (0x010 + tag) v
/-- PTBASE_WRITE (R335). -/
def execPtbaseWrite (r : Nat) (v : Word) : State → Result := registerEvent r 0 0x10A v
/-- ERRINJ_WRITE, while the partition's grant allows it (R159, R289). -/
def execErrinjWrite (r n : Nat) (v : Word) (s : State) : Result :=
  match s.partOf r with
  | some p => if bit (s.grant p) 0 then registerEvent r n 0x009 v s else .next s
  | none => .next s
/-- SPKEY_WRITE (R84). -/
def execSpkeyWrite (r : Nat) (v : Word) : State → Result := registerEvent r 0 0x10C v
/-- HQG_WRITE (R369). -/
def execHqgWrite (q : Nat) (v : Word) (s : State) : Result := .next (s.setHqg q v)
/-- SLOT_DOORBELL (R300). -/
def execSlotDoorbell (r n : Nat) (v : Word) (s : State) : Result := .next (s.doorbell r (Fin.ofNat 5 n) v)
/-- REGISTER_WRITE (R187, R293). -/
def execRegisterWrite (r n num : Nat) (v : Word) : State → Result := registerEvent r n num v

end Sys2Proof.Machine
end

