-- ==== Sys2Proof/Machine/Net.lean ====
section
/-!
DEFINITION. Reduction trees: `netred` and `netbc`, and the completion of a round (R73, R216, R217, R277).
-/

namespace Sys2Proof.Machine

/-! ### Trees (R277) -/

/-- A tree as configured: its members' words. -/
abbrev Tree := List (Nat × Word)

/-- The only crown of a tree. -/
def Tree.crown (t : Tree) : Option Nat :=
  match t.filter (fun p => bit p.2 17) with
  | [p] => some p.1
  | _ => none

/-- A core's parent, if it is a member and no crown. -/
def Tree.parent (t : Tree) (r : Nat) : Option Nat :=
  match lookup t r with
  | some w => if bit w 17 then none else some (field w 0 16)
  | none => none

/-- Whether the chain of a core's parents reaches a crown, within a number of links. -/
def Tree.chain (t : Tree) (crown : Nat) : Nat → Nat → Bool
  | 0, r => decide (r = crown)
  | n + 1, r => decide (r = crown) || (match t.parent r with
    | some p => t.chain crown n p
    | none => false)

/-- Whether a member reaches the tree's crown. -/
def Tree.reaches (t : Tree) (r : Nat) : Bool :=
  match t.crown with
  | some c => (lookup t r).isSome && t.chain c t.length r
  | none => false

/-- The children of a core, ascending. -/
def Tree.children (t : Tree) (r : Nat) : List Nat :=
  (t.filter (fun p => !bit p.2 17 && decide (field p.2 0 16 = r) && decide (p.1 ≠ r))).map (·.1)

/-- The combination at a node: its own value, then its children's results in ascending rank (R73). -/
def Tree.combine {α : Type} (t : Tree) (own : Nat → α) (f : α → α → α) : Nat → Nat → α
  | 0, r => own r
  | n + 1, r => (t.children r).foldl (fun x c => f x (t.combine own f n c)) (own r)

/-- Whether a condition holds at a node and everywhere below it. -/
def Tree.allBelow (t : Tree) (p : Nat → Bool) : Nat → Nat → Bool
  | 0, r => p r
  | n + 1, r => p r && (t.children r).all (t.allBelow p n)

/-- One element of a combination in a type: 0 add, 1 min, 2 max; and whether NV is set (R68, R217). -/
def netElem (ty : ElemType) (op a b : Nat) : Nat × Bool :=
  match ty with
  | .float f =>
    match op with
    | 0 => homeFadd f a b
    | k => let r := f.minmax (decide (k = 2)) a b; (r.1, decide (r.2 ≠ 0))
  | _ =>
    match op with
    | 0 => (ty.narrow false (ty.toInt a + ty.toInt b), false)
    | 1 => (if ty.toInt b < ty.toInt a then b else a, false)
    | _ => (if ty.toInt a < ty.toInt b then b else a, false)

/-- The combination of two lists of elements, with NV. -/
def netCombine (ty : ElemType) (op : Nat) (x y : List Nat × Bool) : List Nat × Bool :=
  let l := (x.1.zip y.1).map (fun p => netElem ty op p.1 p.2)
  (l.map (·.1), x.2 || y.2 || l.any (·.2))

/-! ### netred and netbc (R216, R217) -/

/-- ETs accepted: F, and I but i4 and ui8. -/
def netEt (t : ElemType) : Bool :=
  match t with
  | .float f => decide (f = f64 ∨ f = f32 ∨ f = bf16 ∨ f = f16)
  | .int w => decide (w ≠ 4)
  | .cb2 => false
  | .u8 => false

/-- Whether two contributions belong to one round. -/
def Contribution.together (s : State) (a b : Contribution) : Bool :=
  decide (a.tree = b.tree) && decide (a.round = b.round) && s.reaches a.rank b.rank

/-- The contributions of a round. -/
def State.roundOf (s : State) (c : Contribution) : List Contribution := s.nets.filter (fun x => x.together s c)

/-- Marks what every node can forward: a reduction whose whole subtree has joined (R217). -/
def State.forwardNets (s : State) : State :=
  { s with nets := s.nets.map (fun c =>
      let joined := fun (r : Nat) => (s.roundOf c).any (fun x => decide (x.rank = r))
      { c with sent := c.sent || (!c.bcast && !(Tree.crown c.cfg == some c.rank) && Tree.allBelow c.cfg joined c.cfg.length c.rank
          && Tree.reaches c.cfg c.rank) }) }

/-- A member joins the next round of a tree. -/
def State.joinNet (s : State) (bcast : Bool) (f : FmtNet) (id : Nat) : State :=
  let r := s.turn.rank
  let n := f.tree.val
  let x : Contribution :=
    { id := id, tree := n, round := s.me.rounds.getD n 0, rank := r, slot := s.turn.slot, bcast := bcast, et := f.et.val,
      op := if bcast then 0 else f.op.val, val := s.th.vget f.va, vd := f.vd, since := s.cycle.toNat, cfg := s.treeMembers r n,
      sent := false, dom := s.domain }
  -- the tree is that with which the round began
  let x := match s.roundOf x with
    | y :: _ => { x with cfg := y.cfg }
    | [] => x
  let s := (s.modMe (fun c => { c with rounds := c.rounds.setIfInBounds n (x.round + 1), nextId := c.nextId + 1 })).sent r x.dom
  ({ s with nets := s.nets ++ [x] }).forwardNets

/-- A member of the netred group (R216). -/
def net (i : Instr) (bcast : Bool) (f : FmtNet) : State → Result :=
  run do
    if !netEt (elemType f.et) || (!bcast && decide (f.op = 3)) then illegal i
    let s ← get
    if !bit (s.me.trees.getD f.tree.val 0) 16 then illegal i
    if s.trafficHeld s.turn.rank s.domain then stall
    let id := s.me.nextId
    upd (fun s => s.joinNet bcast f id)
    updTh (fun t => t.issueWaiting f.lk [.v f.vd] (.net id))

def execNetred (f : FmtNet) : State → Result := net (.netred f) false f
def execNetbc (f : FmtNet) : State → Result := net (.netbc f) true f

/-! ### Rounds -/

/-- A contribution is over; its message has arrived (R271). -/
def State.endNet (s : State) (c : Contribution) : State :=
  ({ s with nets := s.nets.filter (fun x => decide (x ≠ c)) }).received c.rank c.dom

/-- The trap of an outstanding instruction that waits on the network. -/
def Thread.trapNet (t : Thread) (id : Nat) (c : Cause) (v : Word) : Thread :=
  { t with outst := t.outst.map (fun o => if o.wait = .net id then
      { o with trap := some { cause := c, tval := v, kind := 8, out := true } } else o) }

/-- A member leaves a round with BARTO and writes nothing (R217); one that has forwarded is complete. -/
def State.netTimeout (s : State) (c : Contribution) : State :=
  let w : Turn := { rank := c.rank, slot := c.slot }
  let s := s.endNet c
  if c.sent then s else s.modThAt w (·.trapNet c.id .barTo (word (field c.dom 0 3)))

/-- What the crown delivers (R217): the combination, the crown's own value, or the canonical NaN where members differ. -/
def roundValue (l : List Contribution) (c : Contribution) : VReg × Bool :=
  let ty := elemType (Fin.ofNat 16 c.et)
  if l.any (fun x => decide (x.bcast ≠ c.bcast) || decide (x.et ≠ c.et) || decide (x.op ≠ c.op)) then
    let e := match ty with
      | .float f => f.nanCode
      | _ => 0
    (ty.reg (List.replicate ty.count e), true)
  else if c.bcast then (c.val, false)
  else
    let own := fun (r : Nat) => match l.find? (fun x => decide (x.rank = r)) with
      | some x => (ty.elems x.val, false)
      | none => ([], false)
    let v := Tree.combine c.cfg own (netCombine ty c.op) c.cfg.length c.rank
    (ty.reg v.1, v.2)

/-- Whether a member's parent is still the one with which the round began (R277). -/
def State.parentStands (s : State) (c : Contribution) : Bool :=
  bit ((s.core c.rank).trees.getD c.tree 0) 16
    && decide (Tree.parent [(c.rank, (s.core c.rank).trees.getD c.tree 0)] c.rank = Tree.parent c.cfg c.rank)

/-- The delivery to one member. -/
def State.deliverNet (s : State) (crown : Nat) (v : VReg × Bool) (c : Contribution) : State :=
  if !s.parentStands c then s.netTimeout c
  else
    let w : Turn := { rank := c.rank, slot := c.slot }
    let s := if c.bcast || decide (c.rank = crown) then s.modThAt w (·.vput c.vd v.1) else s
    let s := if c.rank = crown then s.raiseNv w v.2 else s
    s.endNet c

/-- Whether every member of a round's tree that reaches the crown has joined. -/
def State.roundFull (s : State) (c : Contribution) : Bool :=
  (Tree.crown c.cfg).isSome
    && (c.cfg.filter (fun p => Tree.reaches c.cfg p.1)).all (fun p => (s.roundOf c).any (fun x => decide (x.rank = p.1)))

/-- Whether NETRED_ROUND_COMPLETE has something to do for a contribution. -/
def State.netReady (s : State) (c : Contribution) : Bool := !Tree.reaches c.cfg c.rank || s.roundFull c

/-- NETRED_ROUND_COMPLETE (R217): the oldest round of a tree that is full completes; a member that cannot reach the crown
completes with BARTO (R277). -/
def execNetredRoundComplete (tree : Nat) (s : State) : Result :=
  match s.nets.find? (fun c => decide (c.tree = tree) && s.netReady c) with
  | none => .next s
  | some c =>
    if !Tree.reaches c.cfg c.rank then .next (s.netTimeout c)
    else
      let l := s.roundOf c
      match Tree.crown c.cfg with
      | none => .next s
      | some k =>
        match l.find? (fun x => decide (x.rank = k)) with
        | none => .next s
        | some x => .next (l.foldl (fun s y => s.deliverNet k (roundValue l x) y) s)

/-- 2^(WD + 12) cc of the tag of a domain on a core (R269). -/
def State.watchdogCycles (s : State) (rank tag : Nat) : Nat := 2 ^ (field ((s.core rank).bmaskOf tag) 36 4 + 12)

/-- Whether a member has waited longer than its barrier watchdog (R217). -/
def State.netLate (s : State) (c : Contribution) : Bool :=
  !c.sent && decide (c.since + s.watchdogCycles c.rank (field c.dom 0 3) < s.cycle.toNat)

end Sys2Proof.Machine
end

