-- ==== Sys2Proof/Machine/Engine.lean ====
section
/-!
DEFINITION. Copy engines: `ecmd`, `eqry` and `ecan` (R262, R263, R266, R267), and the commands page by page (R264, R265,
R329).
-/

namespace Sys2Proof.Machine

/-! ### The command word (R161) -/

def Cmd.code (c : Cmd) : Nat := field c.word 248 8
def Cmd.flag (c : Cmd) (i : Nat) : Bool := bit c.word (240 + i)
def Cmd.rop (c : Cmd) : Nat := field c.word 220 4
def Cmd.ret (c : Cmd) : Nat := field c.word 216 4
def Cmd.src (c : Cmd) : Ptr := { sb := BitVec.ofNat 8 (field c.word 184 8), v := Machine.word (field c.word 120 64) }
def Cmd.dst (c : Cmd) : Ptr := { sb := BitVec.ofNat 8 (field c.word 112 8), v := Machine.word (field c.word 48 64) }
def Cmd.rows (c : Cmd) : Nat := field c.word 32 16
def Cmd.cols (c : Cmd) : Nat := field c.word 16 16
def Cmd.stride (c : Cmd) : Nat := field c.word 0 16

/-- L of R264. -/
def Cmd.len (c : Cmd) : Nat := (c.rows * 0x10000 + c.cols) * 64

/-- The tree of a collective. -/
def Cmd.tree (c : Cmd) : Nat := field c.word 240 2

/-- A command whose result every member of a tree takes part in. -/
def Cmd.collective (c : Cmd) : Bool := decide (c.code = 6) || (decide (c.code = 1) && c.flag 7)

/-- A command that runs by destination pages. -/
def Cmd.paged (c : Cmd) : Bool := decide (1 ≤ c.code) && decide (c.code ≤ 5) && !c.collective

/-- The element types of a collective-reduce. -/
def retOk (n : Nat) : Bool := [0, 1, 2, 3, 9, 10].contains n

/-- A word that raises ILLEGAL at `ecmd` (R161, R264). -/
def Cmd.illegal (c : Cmd) : Bool :=
  decide (c.code = 0) || decide (8 < c.code) || (decide (c.code = 6) && (decide (2 < c.rop) || !retOk c.ret))

/-! ### Which engine (R262) -/

/-- The engines of a partition on a die, ascending. -/
def State.enginesOn (s : State) (p die : Nat) : List Nat :=
  (List.range 12).filterMap (fun k => if (s.engine (die * 12 + k)).part = some p then some (die * 12 + k) else none)

/-- Of some engines, the one with the fewest queued commands; the lowest on a tie. -/
def State.leastQueued (s : State) (l : List Nat) : Option Nat :=
  l.foldl (fun m e => match m with
    | none => some e
    | some x => if (s.engine e).queue.length < (s.engine x).queue.length then some e else some x) none

/-- The dies by their distance from one, lower first. -/
def diesFrom (d : Nat) : List Nat :=
  (List.range 8).flatMap (fun k => (if k ≤ d then [d - k] else []) ++ (if k ≠ 0 ∧ d + k < 8 then [d + k] else []))

/-- The engine that 127 names for a core. -/
def State.anyEngine (s : State) (rank : Nat) : Option Nat :=
  match s.partOf rank with
  | none => none
  | some p => (diesFrom (rank / 128 % 8)).findSome? (fun d => s.leastQueued (s.enginesOn p d))

/-- Whether a core's partition owns an engine. -/
def State.ownsEngine (s : State) (rank e : Nat) : Bool := (s.partOf rank).isSome && decide ((s.engine e).part = s.partOf rank)

/-- The engine of a word, or PROT with its number (R262). -/
def engineOf (n : Fin 128) : M Nat := do
  let s ← get
  if n.val = 127 then
    match s.anyEngine s.turn.rank with
    | some e => return e
    | none => raise .prot 127 6
  else if 96 ≤ n.val then throw (.fault .illFormed)
  else if s.ownsEngine s.turn.rank n.val then return n.val
  else raise .prot (word n.val) 6

/-! ### Acceptance (R263) -/

/-- Whether an engine accepts a command: a shadow set or a queue place is free, and a park entry. -/
def Engine.accepts (x : Engine) : Bool :=
  (x.shadow.isNone || decide (x.queue.length < 16)) && decide (x.parked.length < 8)

/-- A command enters an engine. -/
def Engine.accept (x : Engine) (c : Cmd) : Engine :=
  if x.shadow.isNone && decide (x.queue = []) then { x with shadow := some c } else { x with queue := x.queue ++ [c] }

/-- The index list of gather and scatter, latched at acceptance: element numbers, or why it cannot be read (R264). -/
def State.latchIndex (s : State) (c : Cmd) : Cmd :=
  if (c.code = 3 ∨ c.code = 4) ∧ c.rows ≠ 0 then
    let l := scratchLoc c.rank (c.stride * 64)
    let n := 4 * c.rows
    if 0x340000 < c.stride * 64 + n then { c with bad := some .aperture }
    else if s.unreadable l n then { c with bad := some .uncorr }
    else { c with idx := unpack 32 c.rows (s.look l n) }
  else c

/-- The index list is read as any bytes are: reductions to it are recalled first (R111, R112). -/
def State.readIndex (s : State) (c : Cmd) : State :=
  let l := scratchLoc c.rank (c.stride * 64)
  if (c.code = 3 ∨ c.code = 4) ∧ c.rows ≠ 0 then (s.recall l (4 * c.rows)).corrected l (4 * c.rows) else s

/-- The frames of the pages of a buffer, as an engine's walks find them (R343). -/
def State.bufferFrames (s : State) (c : Cmd) (p : Ptr) : List (Nat × Nat) :=
  let a := p.v.toNat / 0x10000
  let b := (p.v.toNat + c.len - 1) / 0x10000
  if c.len = 0 ∨ 0xF0 ≤ p.sb.toNat then []
  else (List.range (b + 1 - a)).filterMap (fun k =>
    let q : Ptr := { p with v := word ((a + k) * 0x10000) }
    match s.walk c.rank c.ptbase (vpnOf q) with
    | .ok x => let l := placeOf ((s.partOf c.rank).getD 0) x.e x.sz (vpnOf q) q.v.toNat
               some (l.home, pageKey l)
    | .error _ => none)

/-- Whether a core is the crown of a tree as it stands. -/
def State.isCrown (s : State) (rank tree : Nat) : Bool := decide (Tree.crown (s.treeMembers rank tree) = some rank)

/-- Whether a member of a collective reads its SRC, and whether it writes its DST. -/
def Cmd.reads (c : Cmd) (crown : Bool) : Bool := decide (c.code = 6) || crown

def Cmd.writes (c : Cmd) (crown : Bool) : Bool := decide (c.code = 1) || crown || !c.flag 2

/-- A collective holds the pages of its buffers from its acceptance (R343). -/
def State.holdBuffers (s : State) (c : Cmd) : State × Cmd :=
  if c.collective then
    let crown := s.isCrown c.rank c.tree
    let l := ((if c.reads crown then s.bufferFrames c c.src else []) ++ (if c.writes crown then s.bufferFrames c c.dst else [])).eraseDups
    (l.foldl (fun s h => s.hold h.1 h.2) s, { c with held := l })
  else (s, c)

/-- A command is accepted: what it names outside its word is latched, and it enters the engine (R99, R263). -/
def State.acceptCmd (s : State) (e : Nat) (c : Cmd) : State :=
  let s := s.readIndex c
  let r := s.holdBuffers (s.latchIndex c)
  r.1.setEngine e ((r.1.engine e).accept r.2)

/-- `ecmd` (R262, R263). -/
def execEcmd (f : FmtE) : State → Result :=
  run do
    let e ← engineOf f.engine
    let s ← get
    let t := s.th
    let ga := t.get f.a
    if ga.sb ≠ 0xF0 then raise .illegal ga.v 6
    if 0x340000 < ga.v.toNat + 32 then raise .aperture ga.v 6
    if ga.v.toNat % 32 ≠ 0 then raise .misalign ga.v 6
    let w ← readAt ga (scratchLoc s.turn.rank ga.v.toNat) 32 6
    let c : Cmd :=
      { word := withField (withField (BitVec.ofNat 256 w) 200 16 (s.turn.rank % 0x10000)) 195 5 f.t.val, rank := s.turn.rank,
        slot := s.turn.slot, task := t.taskId, tok := f.t, domain := t.domid, priv := s.supervisor, ptbase := s.me.ptbase,
        asid := s.me.asid, cursor := 0, idx := [], parkedOn := none, cancel := false, bad := none, shot := false, pending := [], held := [] }
    if c.illegal then raise .illegal (word (w / 2 ^ 192)) 6
    if decide (c.code = 7) && !s.supervisor then raise .priv (wordVal (.ecmd f)) 6
    if s.trafficHeld s.turn.rank s.domain || !(s.engine e).accepts then stall
    -- a shootdown comes after every earlier store (R338)
    if c.code = 7 ∧ c.flag 0 then upd (fun s => s.fenceFlush s.turn.rank 4)
    updTh (·.pending f.t)
    upd (fun s => (s.sent s.turn.rank s.domain).acceptCmd e c)
    updTh (·.issueOut f.lk [])

/-- ENGINE_COMMAND_ACTIVATE (R263): the shadow set swaps in, and the head of the queue moves up. -/
def Engine.activate (x : Engine) : Engine :=
  let x := if x.active.isNone then { x with active := x.shadow, shadow := none } else x
  match x.shadow, x.queue with
  | none, c :: rest => if x.active.isNone then { x with active := some c, queue := rest } else { x with shadow := some c, queue := rest }
  | _, _ => x

/-- Whether an activation changes anything. -/
def Engine.activates (x : Engine) : Bool := (x.active.isNone && (x.shadow.isSome || decide (x.queue ≠ []))) || (x.shadow.isNone && decide (x.queue ≠ []))

def execEngineCommandActivate (e : Nat) (s : State) : Result := .next (s.setEngine e (s.engine e).activate)

/-! ### eqry (R266) -/

/-- The word of `eqry`. -/
def Engine.status (x : Engine) (e : Nat) : Word :=
  word (e + x.queue.length * 2 ^ 8 + ofBool x.active.isSome * 2 ^ 13 + ofBool x.shadow.isSome * 2 ^ 14 + x.parked.length * 2 ^ 16
    + (match x.active with
      | some c => c.cursor % 2 ^ 32
      | none => 0) * 2 ^ 32)

/-- `eqry` (R266). -/
def execEqry (f : FmtE) : State → Result :=
  run do
    let e ← engineOf f.engine
    let s ← get
    updTh (fun t => (t.putInt f.t ((s.engine e).status e)).issueOut f.lk [.s f.t])

/-! ### ecan (R267) -/

/-- The command whose token is a register of a task in a slot. -/
def Cmd.named (c : Cmd) (w : Turn) (task : Word) (r : Reg) : Bool :=
  decide (c.rank = w.rank) && decide (c.slot = w.slot) && decide (c.task = task) && decide (c.tok = r)

/-- Ends commands taken out of an engine, with CAN = 1. -/
def State.cancelAll (s : State) (e : Nat) (l : List Cmd) : State := l.foldl (fun s c => s.endCommand c (engineStatus e c.cursor 1 0)) s

/-- Drops what a collective holds: its place in the tree and its pages. -/
def State.leaveTree (s : State) (e : Nat) : State :=
  let mine := s.colls.filter (fun m => decide (m.engine = e))
  let s := mine.foldl (fun s m => m.pages.foldl (fun s l => s.unholdPage l) s) s
  { s with colls := s.colls.filter (fun m => decide (m.engine ≠ e)) }

/-- The active command ends with an engine status. -/
def State.endActive (s : State) (e can cause : Nat) : State :=
  match (s.engine e).active with
  | some c => (s.leaveTree e).retireActive e (engineStatus e c.cursor can cause)
  | none => s

/-- Cancels on one engine: what is not active goes at once; an active command stops at its next page boundary, and a
collective at once. -/
def State.cancelOn (s : State) (e : Nat) (p : Cmd → Bool) : State :=
  let x := s.engine e
  let gone := x.queue.filter p ++ (x.shadow.filter p).toList ++ x.parked.filter p
  let s := s.setEngine e { x with
    queue := x.queue.filter (fun c => !p c), shadow := x.shadow.filter (fun c => !p c), parked := x.parked.filter (fun c => !p c),
    active := x.active.map (fun c => if p c then { c with cancel := true } else c) }
  let s := s.cancelAll e gone
  match x.active with
  | some c => if p c && c.collective then s.endActive e 1 0 else s
  | none => s

/-- Whether an engine holds a command. -/
def Engine.holds (x : Engine) (p : Cmd → Bool) : Bool :=
  x.queue.any p || x.shadow.any p || x.parked.any p || x.active.any p

/-- `ecan` (R267): it waits until the status has been written. 127 names the partition's engines on the die. -/
def execEcan (f : FmtE) : State → Result :=
  run do
    let s ← get
    let l ← if f.engine.val = 127 then do
        let _ ← engineOf f.engine
        pure (s.enginesOn ((s.partOf s.turn.rank).getD 0) (s.turn.rank / 128 % 8))
      else do
        let e ← engineOf f.engine
        pure [e]
    let p := fun (c : Cmd) => c.named s.turn s.th.taskId f.t
    if l.any (fun e => (s.engine e).holds p) then
      upd (fun s => l.foldl (fun s e => s.cancelOn e p) s)
      stall
    if s.statuses.any (fun x => decide (x.rank = s.turn.rank) && decide (x.slot = s.turn.slot) && decide (x.task = s.th.taskId) && decide (x.reg = f.t)) then stall
    updTh (·.issueOut f.lk [])

/-! ### Addresses of a command (R264, R265) -/

/-- What keeps a page from being processed. -/
inductive EngineStop where
  | ends (c : Cause)                            -- a fatal error
  | parks (ga : Ptr) (c : Cause) (reason : Nat)  -- a recoverable fault
  | waits (l : Loc)
  deriving DecidableEq, Repr

/-- On whose behalf a command addresses memory. -/
def Cmd.viewer (c : Cmd) : Viewer := { rank := c.rank, slot := c.slot.val, priv := c.priv, monitor := false }

/-- A translation that an engine uses sets A, and D where it writes (R333). -/
def State.markLeaf (s : State) (x : Leaf) (dirty : Bool) : State :=
  let s := if bit x.e 57 then s else s.orLeaf x.home x.off 57
  if dirty && !bit x.e 58 then s.orLeaf x.home x.off 58 else s

/-- Checks and translates a GA for a command; each translation is a walk of its own (DESIGN CHOICE, log entry 42). -/
def State.enginePlace (s : State) (c : Cmd) (ga : Ptr) (n align : Nat) (acc : Access) : Except EngineStop (Loc × State) :=
  match s.gaCheck c.viewer ga n with
  | some x => .error (.ends x)
  | none =>
    if ga.sb = 0xF4 then .error (.ends .aperture)  -- no unit of a control register is more than 8 bytes (R300)
    else if ga.v.toNat % align ≠ 0 then .error (.ends .misalign)
    else if 0xF0 ≤ ga.sb.toNat then .ok (placeLocal c.viewer ga, s)
    else match s.walk c.rank c.ptbase (vpnOf ga) with
      | .error (.fault k) => .error (.parks ga .notPresent k)
      | .error (.waits l) => .error (.waits l)
      | .ok x =>
        if !permits x.e acc c.priv then .error (.parks ga .prot 1)
        else if dirties acc && !bit x.e 58 && decide (s.meets false (vaultLoc x.home x.off) ≠ .nothing) then
          .error (.waits (vaultLoc x.home x.off))
        else
          let s := s.markLeaf x (dirties acc)
          let p := (s.partOf c.rank).getD 0
          let l := placeOf p x.e x.sz (vpnOf ga) ga.v.toNat
          if !s.reaches c.rank l.home then .error (.ends .prot)
          else .ok (match s.redirected p l with
            | some (l, _) => l
            | none => l, s)

/-- The same, and whether the home performs an access there now. -/
def State.engineReach (s : State) (c : Cmd) (ga : Ptr) (n align : Nat) (acc : Access) : Except EngineStop (Loc × State) :=
  match s.enginePlace c ga n align acc with
  | .error e => .error e
  | .ok (l, s) =>
    if s.migrating l then .error (.waits l)
    else match s.meets false l (decide (acc = .engineRead)) with
      | .nothing => if acc = .engineWrite ∧ (s.fixedLoc l || s.fixedLoc (l.plus (n - 1))) then .error (.ends .statWr) else .ok (l, s)
      | .repair => .error (.ends .rowRep)
      | _ => .error (.waits l)

/-! ### What a command moves -/

/-- A run of bytes: offset from SRC, offset from DST, length. -/
structure Run where
  src : Nat
  dst : Nat
  len : Nat
  deriving DecidableEq, Repr

/-- The runs of a command in ascending element order. -/
def Cmd.runs (c : Cmd) : List Run :=
  let l : List Run := match c.code with
    | 2 => (List.range c.rows).map (fun i =>
      if c.flag 0 then { src := i * c.cols * 8, dst := i * c.stride * 8, len := c.cols * 8 }
      else { src := i * c.stride * 8, dst := i * c.cols * 8, len := c.cols * 8 })
    | 3 => c.idx.mapIdx (fun e i => { src := i * c.cols * 8, dst := e * c.cols * 8, len := c.cols * 8 })
    | 4 => c.idx.mapIdx (fun e i => { src := e * c.cols * 8, dst := i * c.cols * 8, len := c.cols * 8 })
    | _ => [{ src := 0, dst := 0, len := c.len }]
  l.filter (fun x => decide (x.len ≠ 0))

/-- Natural alignment of a command's GAs. -/
def Cmd.align (c : Cmd) : Nat := if c.code = 1 ∨ c.code = 6 then 64 else 8

/-- The pages of a run's destination. -/
def Cmd.runPages (c : Cmd) (x : Run) : List Nat :=
  let a := (c.dst.v.toNat + x.dst) / 0x10000
  let b := (c.dst.v.toNat + x.dst + x.len - 1) / 0x10000
  List.range' a (b + 1 - a)

/-- A sorted list without repeats. -/
def onceEach : List Nat → List Nat
  | a :: b :: t => if a = b then onceEach (b :: t) else a :: onceEach (b :: t)
  | l => l

/-- The destination pages of a command, ascending (R265). -/
def Cmd.pages (c : Cmd) : List Nat :=
  match c.runs with
  | [x] => c.runPages x
  | l => onceEach ((l.flatMap c.runPages).mergeSort)

/-- The part of a run that falls in a destination page. -/
def Cmd.clip (c : Cmd) (page : Nat) (x : Run) : List Run :=
  let d := c.dst.v.toNat + x.dst
  let lo := max d (page * 0x10000)
  let hi := min (d + x.len) (page * 0x10000 + 0x10000)
  if lo < hi then [{ src := x.src + (lo - d), dst := x.dst + (lo - d), len := hi - lo }] else []

/-- A run cut so that neither side crosses a 2 KiB row; fill has no source. -/
def Cmd.cut (c : Cmd) : Nat → Run → List Run
  | 0, x => [x]
  | n + 1, x =>
    let room := fun (a : Nat) => 0x800 - a % 0x800
    let m := min x.len (min (if c.code = 5 then x.len else room (c.src.v.toNat + x.src)) (room (c.dst.v.toNat + x.dst)))
    if x.len ≤ m then [x]
    else { x with len := m } :: c.cut n { src := x.src + m, dst := x.dst + m, len := x.len - m }

/-- The pieces of a destination page. -/
def Cmd.pieces (c : Cmd) (page : Nat) : List Run :=
  ((c.runs.flatMap (c.clip page)).flatMap (fun x => c.cut (x.len / 0x400 + 2) x))

/-- A piece with its places; fill has no source. -/
structure Moved where
  src : Option Loc
  dst : Loc
  len : Nat
  deriving DecidableEq, Repr

/-- The places of the pieces of a page, in order: nothing is written until all are found. -/
def State.placePieces (s : State) (c : Cmd) : List Run → Except EngineStop (List Moved × State)
  | [] => .ok ([], s)
  | x :: rest =>
    let from_ : Except EngineStop (Option Loc × State) :=
      if c.code = 5 then .ok (none, s)
      else match s.engineReach c (c.src.add (word x.src)) x.len 8 .engineRead with
        | .ok (l, s) => .ok (some l, s)
        | .error e => .error e
    match from_ with
    | .error e => .error e
    | .ok (a, s) =>
      match s.engineReach c (c.dst.add (word x.dst)) x.len 8 .engineWrite with
      | .error e => .error e
      | .ok (b, s) =>
        match s.placePieces c rest with
        | .error e => .error e
        | .ok (l, s) => .ok ({ src := a, dst := b, len := x.len } :: l, s)

/-- On whose behalf a command writes (R356). -/
def Cmd.behalf (c : Cmd) : Behalf := { rank := c.rank, dom := if ckptDom c.domain then some c.domain else none }

/-- A write to the stack of the issuing slot marks its rows (R308). -/
def State.markStackAt (s : State) (c : Cmd) (l : Loc) : State :=
  let base := stackBase c.slot.val
  if c.dst.sb = 0xF1 ∧ (s.thAt { rank := c.rank, slot := c.slot }).taskId = c.task then
    s.modThAt { rank := c.rank, slot := c.slot } (fun t => { t with dirty := setBit t.dirty 19, stackRows := setBit t.stackRows ((l.off - base) / 0x800) })
  else s

/-- The 8-byte pattern of a fill repeated over a length. -/
def fillBytes (v : Nat) (n : Nat) : Nat := pack 64 (List.replicate (n / 8) v)

/-- One piece is written. -/
def State.movePiece (s : State) (c : Cmd) (m : Moved) : State :=
  let s := match m.src with
    | some l => (s.recall l m.len).corrected l m.len
    | none => s
  let v := match m.src with
    | some l => s.look l m.len
    | none => fillBytes (field c.word 120 64) m.len
  ((s.recall m.dst m.len).store c.behalf m.dst m.len v).markStackAt c m.dst

/-- The source of a page that cannot be read. -/
def State.badSource (s : State) (l : List Moved) : Option (Loc × Nat) :=
  l.findSome? (fun m => match m.src with
    | some a => if s.unreadable a m.len then some (a, m.len) else none
    | none => none)

/-- A command parks at its cursor with a fault-queue entry (R265, R340); while the tail entry is live, or all eight park
entries are in use, it stays. -/
def State.parkCmd (s : State) (e : Nat) (c : Cmd) (ga : Ptr) (cause : Cause) (reason : Nat) : Option State :=
  match s.partOf c.rank with
  | none => none
  | some p =>
    if 8 ≤ (s.engine e).parked.length then none
    else match s.appendFault p ga cause 6 reason { src := 0x40 + c.slot.val, rank := c.rank, asid := field c.asid 0 16, task := c.task, eng := e } with
    | none => none
    | some (k, s) => let x := s.engine e
                     some (s.setEngine e { x with active := none, parked := x.parked ++ [{ c with parkedOn := some (p, k) }] })

/-- What an engine does where it waits: the waiting access is known at the home, once. -/
def State.engineWaits (s : State) (l : Loc) : Option State :=
  let t := s.noteWaiting l
  if (t.core l.home).vault.waiting.length ≠ (s.core l.home).vault.waiting.length ∨ (t.band (l.home / 16)).waking ≠ (s.band (l.home / 16)).waking then some t else none

/-- The outcome of a stop. -/
def State.engineStop (s : State) (e : Nat) (c : Cmd) : EngineStop → Option State
  | .ends x => some (s.endActive e 0 x.code)
  | .parks ga x k => s.parkCmd e c ga x k
  | .waits l => s.engineWaits l

/-- ENGINE_PAGE (R265): the active command's next destination page is translated and processed, or the command stops; none
where nothing happens. -/
def State.enginePage (s : State) (e : Nat) : Option State :=
  match (s.engine e).active with
  | none => none
  | some c =>
    if !c.paged then none
    else if c.cancel then some (s.endActive e 1 0)
    else match c.bad with
      | some x => some (s.endActive e 0 x.code)
      | none =>
        match c.pages[c.cursor]? with
        | none => some (s.endActive e 0 0)
        | some page =>
          if c.dst.v.toNat % c.align ≠ 0 ∨ (c.code ≠ 5 ∧ c.src.v.toNat % c.align ≠ 0) then some (s.endActive e 0 Cause.misalign.code)
          else match s.placePieces c (c.pieces page) with
            | .error x => s.engineStop e c x
            | .ok (l, t) =>
              match t.badSource l with
              | some a => some ((t.logUnreadable c.rank a.1 a.2 0).endActive e 0 Cause.uncorr.code)
              | none =>
                let t := l.foldl (fun t m => t.movePiece c m) t
                let x := t.engine e
                let t := t.setEngine e { x with active := some { c with cursor := c.cursor + 1 } }
                if c.pages.length ≤ c.cursor + 1 then some (t.endActive e 0 0) else some t

def execEnginePage (e : Nat) (s : State) : Result := .next ((s.enginePage e).getD s)

/-- Pages one after another, as far as they go. -/
def State.enginePages (s : State) (e : Nat) : Nat → State
  | 0 => s
  | n + 1 => match s.enginePage e with
    | some t => if (t.engine e).active.isSome then t.enginePages e n else t
    | none => s

/-- The active command of an engine, where it is of a kind. -/
def State.activeOf (s : State) (e : Nat) (p : Cmd → Bool) : Option Cmd := (s.engine e).active.filter p

/-- A paged command of a code runs. -/
def pagedEvent (code e : Nat) (s : State) : Result :=
  match s.activeOf e (fun c => decide (c.code = code) && c.paged) with
  | some c => .next (s.enginePages e (c.pages.length + 1 - c.cursor))
  | none => .next s

/-- CMD_COPY2D (R264). -/
def execCmdCopy2d (e : Nat) : State → Result := pagedEvent 2 e
/-- CMD_GATHER (R264). -/
def execCmdGather (e : Nat) : State → Result := pagedEvent 3 e
/-- CMD_SCATTER (R264). -/
def execCmdScatter (e : Nat) : State → Result := pagedEvent 4 e
/-- CMD_FILL (R264). -/
def execCmdFill (e : Nat) : State → Result := pagedEvent 5 e

/-! ### Collective commands (R117, R264) -/

/-- A buffer from an offset on, cut at rows. -/
def cutBuffer (p : Ptr) : Nat → Nat → Nat → List (Ptr × Nat)
  | 0, _, _ => []
  | n + 1, o, len =>
    let m := min (len - o) (0x800 - (p.add (word o)).v.toNat % 0x800)
    if m = 0 then [] else (p.add (word o), m) :: cutBuffer p n (o + m) len

/-- The pieces of a collective's buffer at SRC and at DST. -/
def Cmd.buffer (c : Cmd) (dst : Bool) : List (Ptr × Nat) := cutBuffer (if dst then c.dst else c.src) (c.len / 0x400 + 2) 0 c.len

/-- The places of a buffer. -/
def State.placeBuffer (s : State) (c : Cmd) (acc : Access) : List (Ptr × Nat) → Except EngineStop (List (Loc × Nat) × State)
  | [] => .ok ([], s)
  | (p, n) :: rest =>
    match s.engineReach c p n 64 acc with
    | .error e => .error e
    | .ok (l, s) =>
      match s.placeBuffer c acc rest with
      | .error e => .error e
      | .ok (x, s) => .ok ((l, n) :: x, s)

/-- The places of a member: source, then destination. -/
def State.memberPlaces (s : State) (c : Cmd) (crown : Bool) : Except EngineStop (List (Loc × Nat) × List (Loc × Nat) × State) :=
  match s.placeBuffer c .engineRead (if c.reads crown then c.buffer false else []) with
  | .error e => .error e
  | .ok (a, s) =>
    match s.placeBuffer c .engineWrite (if c.writes crown then c.buffer true else []) with
    | .error e => .error e
    | .ok (b, s) => .ok (a, b, s)

/-- Joins the tree: the pages of the member are held until it ends (R343). -/
def State.joinColl (s : State) (e : Nat) (c : Cmd) : Option State :=
  let cfg := match s.colls.find? (fun m => decide (m.tree = c.tree) && s.reaches m.rank c.rank) with
    | some m => m.cfg
    | none => s.treeMembers c.rank c.tree
  if (lookup cfg c.rank).isNone then some (s.endActive e 0 Cause.illegal.code)
  else match s.memberPlaces c (decide (Tree.crown cfg = some c.rank)) with
    | .error x => s.engineStop e c x
    | .ok (a, b, s) =>
      let pages := ((a ++ b).map (fun x => { x.1 with off := x.1.off / 0x10000 * 0x10000 })).eraseDups
      let s := pages.foldl (fun s l => s.holdPage l) s
      let s := c.held.foldl (fun s h => s.unhold h.1 h.2) s
      let s := s.setEngine e { s.engine e with active := some { c with held := [] } }
      some { s with colls := s.colls ++ [{ tree := c.tree, engine := e, rank := c.rank, since := s.cycle.toNat, cfg := cfg, pages := pages }] }

/-- The FLAGS that a collective defines: COLL and the tree, or the tree and the crown's own result (R161, R264). -/
def Cmd.collFlags (c : Cmd) : Nat := field c.word 240 8 &&& (if c.code = 1 then 0x83 else 0x07)

/-- What members must have in common: command, flags, reduction and length. -/
def Cmd.same (a b : Cmd) : Bool :=
  decide (a.code = b.code) && decide (a.collFlags = b.collFlags) && decide (a.len = b.len)
    && (decide (a.code = 1) || (decide (a.rop = b.rop) && decide (a.ret = b.ret)))

/-- The oldest joined command of a core on a tree that agrees with a command. -/
def State.memberOf (s : State) (c : Cmd) (r : Nat) : Option (Nat × Cmd) :=
  (s.colls.filter (fun m => decide (m.rank = r) && decide (m.tree = c.tree))).findSome? (fun m =>
    match (s.engine m.engine).active with
    | some x => if x.same c then some (m.engine, x) else none
    | none => none)

/-- The bytes of a buffer. -/
def State.readBuffer (s : State) : List (Loc × Nat) → Nat
  | [] => 0
  | (l, n) :: rest => s.look l n + 256 ^ n * s.readBuffer rest

/-- The bytes of a buffer written. -/
def State.writeBuffer (s : State) (c : Cmd) (v : Nat) : List (Loc × Nat) → State
  | [] => s
  | (l, n) :: rest => (((s.recall l n).store c.behalf l n (v % 256 ^ n)).markStackAt c l).writeBuffer c (v / 256 ^ n) rest

/-- The members of a full round: rank, engine, command. -/
def State.collRound (s : State) (c : Cmd) (cfg : Tree) : Option (List (Nat × Nat × Cmd)) :=
  let ranks := (cfg.filter (fun p => Tree.reaches cfg p.1)).map (·.1)
  let l := ranks.filterMap (fun r => (s.memberOf c r).map (fun x => (r, x.1, x.2)))
  if l.length = ranks.length then some l else none

/-- The places of every member of a round, or the engine whose member stops and how. -/
def State.roundPlaces (s : State) (crown : Nat) : List (Nat × Nat × Cmd) →
    Except (Nat × Cmd × EngineStop) (List (Nat × Nat × Cmd × List (Loc × Nat) × List (Loc × Nat)) × State)
  | [] => .ok ([], s)
  | (r, e, c) :: rest =>
    match s.memberPlaces c (decide (r = crown)) with
    | .error x => .error (e, c, x)
    | .ok (a, b, s) =>
      match s.roundPlaces crown rest with
      | .error x => .error x
      | .ok (l, s) => .ok ((r, e, c, a, b) :: l, s)

/-- What a round delivers: the crown's bytes, or the combination (R73). The issuing threads' FPCTL keeps its NV: R264 gives the
command a status alone (DESIGN CHOICE, log entry 45). -/
def State.collValue (s : State) (cfg : Tree) (crown : Nat) (c : Cmd) (l : List (Nat × Nat × Cmd × List (Loc × Nat) × List (Loc × Nat))) : Nat :=
  let bytes := fun (r : Nat) => match l.find? (fun x => decide (x.1 = r)) with
    | some x => s.readBuffer x.2.2.2.1
    | none => 0
  if c.code = 1 then bytes crown
  else
    let ty := elemType (Fin.ofNat 16 c.ret)
    let w := ty.memBits
    pack w (Tree.combine cfg (fun r => (unpack w (c.len * 8 / w) (bytes r), false)) (netCombine ty c.rop) cfg.length crown).1

/-- The source of a member that cannot be read. -/
def State.lostMember (s : State) (l : List (Nat × Nat × Cmd × List (Loc × Nat) × List (Loc × Nat))) : Option (Nat × Cmd × Loc × Nat) :=
  l.findSome? (fun x => (x.2.2.2.1.find? (fun y => s.unreadable y.1 y.2)).map (fun y => (x.2.1, x.2.2.1, y)))

/-- A round completes: every member's result is written, and every command ends. -/
def State.finishColl (s : State) (crown : Nat) (cfg : Tree) (c : Cmd) (l : List (Nat × Nat × Cmd)) : Option State :=
  match s.roundPlaces crown l with
  | .error (e, x, k) => s.engineStop e x k
  | .ok (m, s) =>
    match s.lostMember m with
    | some (e, x, a) => some ((s.logUnreadable x.rank a.1 a.2 0).endActive e 0 Cause.uncorr.code)
    | none =>
      let s := m.foldl (fun s x => x.2.2.2.1.foldl (fun s y => (s.recall y.1 y.2).corrected y.1 y.2) s) s
      let v := s.collValue cfg crown c m
      let s := m.foldl (fun s x => s.writeBuffer x.2.2.1 v x.2.2.2.2) s
      some (m.foldl (fun s x =>
        let y := s.engine x.2.1
        let n := if x.2.2.2.2 = [] then 0 else x.2.2.1.pages.length
        (s.setEngine x.2.1 { y with active := some { x.2.2.1 with cursor := n } }).endActive x.2.1 0 0) s)

/-- Whether a member has waited beyond its barrier watchdog (R264). -/
def State.collLate (s : State) (m : CollMember) (c : Cmd) : Bool := decide (m.since + s.watchdogCycles m.rank (field c.domain 0 3) < s.cycle.toNat)

/-- A collective command goes on: it joins, completes with the others of its round, or ends with BARTO; none where it
waits. -/
def State.collStep (s : State) (e : Nat) : Option State :=
  match s.activeOf e Cmd.collective with
  | none => none
  | some c =>
    if c.cancel then some (s.endActive e 1 0)
    else if c.len = 0 then some (s.endActive e 0 0)
    else if c.dst.v.toNat % 64 ≠ 0 ∨ c.src.v.toNat % 64 ≠ 0 then some (s.endActive e 0 Cause.misalign.code)
    else match s.colls.find? (fun m => decide (m.engine = e)) with
      | none => s.joinColl e c
      | some m =>
        if !Tree.reaches m.cfg c.rank || decide (Tree.parent (s.treeMembers c.rank c.tree) c.rank ≠ Tree.parent m.cfg c.rank) || s.collLate m c then
          some (s.endActive e 0 Cause.barTo.code)
        else match Tree.crown m.cfg, s.collRound c m.cfg with
          | some k, some l => s.finishColl k m.cfg c l
          | _, _ => none

/-- CMD_COPY (R264): plain, or collective. -/
def execCmdCopy (e : Nat) (s : State) : Result :=
  match s.activeOf e (fun c => decide (c.code = 1) && c.collective) with
  | some _ => .next ((s.collStep e).getD s)
  | none => pagedEvent 1 e s

/-- CMD_COLLECTIVE_REDUCE (R264). -/
def execCmdCollectiveReduce (e : Nat) (s : State) : Result :=
  match s.activeOf e (fun c => decide (c.code = 6)) with
  | some _ => .next ((s.collStep e).getD s)
  | none => .next s

/-! ### Commands that an agent carries out (R264, R336) -/

/-- The request that an engine sends for its active command. -/
def Cmd.request (c : Cmd) (s : State) (e h : Nat) (l : Loc) (op0 op1 : Word) : Rpc :=
  { h := h, cfl := 0, pad := 0, alen := 0, rlen := 0, tgt := c.src, loc := l, op0 := op0, op1 := op1, rbuf := 0, rank := c.rank, slot := c.slot, reg := c.tok,
    task := c.task, seq := 0, args := 0, row := 0, priv := c.priv, part := (s.partOf c.rank).getD 0, domain := c.domain, engine := some e,
    asid := field c.asid 0 16, stale := false, inj := none
    glob := match s.walk c.rank c.ptbase (vpnOf c.src) with
      | .ok x => bit x.e 56
      | .error _ => false }

/-- Marks the active command as sent. -/
def State.markShot (s : State) (e : Nat) (c : Cmd) : State := s.setEngine e { s.engine e with active := some { c with shot := true } }

/-- CMD_BANK_MAC_LAUNCH (R264): handler 13 at the home of SRC, whose reply's status is the command's. -/
def State.launchStep (s : State) (e : Nat) : Option State :=
  match s.activeOf e (fun c => decide (c.code = 8) && !c.shot) with
  | none => none
  | some c =>
    if c.cancel then some (s.endActive e 1 0)
    else match s.enginePlace c c.src 1 1 .rpc with
      | .error x => s.engineStop e c x
      | .ok (l, s) => some ((s.markShot e c).deliver (c.request s e 13 l 0 0))

def execCmdBankMacLaunch (e : Nat) (s : State) : Result := .next ((s.launchStep e).getD s)

/-- CMD_PAGE_MIGRATE_MOVE (R336): handler 9 at the page's home, with the placement and the place of the leaf. -/
def State.moveStep (s : State) (e : Nat) : Option State :=
  match s.activeOf e (fun c => decide (c.code = 7) && !c.flag 0 && !c.shot) with
  | none => none
  | some c =>
    let stop := fun (cause h : Nat) => some (s.retireActive e (rpcStatus cause h 0 0))
    if c.cancel then some (s.endActive e 1 0)
    else if 0xF0 ≤ c.src.sb.toNat then stop Cause.aperture.code 0
    else match s.walk c.rank c.ptbase (vpnOf c.src) with
      | .error (.waits l) => s.engineWaits l
      | .error (.fault _) => stop 0 2
      | .ok x =>
        if vpnOf c.src ≠ x.vpn0 ∨ c.src.v.toNat % 0x10000 ≠ 0 then stop Cause.misalign.code 0
        else
          let l := placeOf ((s.partOf c.rank).getD 0) x.e x.sz (vpnOf c.src) 0
          some ((s.markShot e c).deliver (c.request s e 9 l c.dst.v (word (x.home * 2 ^ 48 + x.off))))

def execCmdPageMigrateMove (e : Nat) (s : State) : Result := .next ((s.moveStep e).getD s)

end Sys2Proof.Machine
end

