-- ==== Sys2Proof/Machine/Launch.lean ====
section
/-!
DEFINITION. Launches: work queues, records, join counters, termination records, the dispatcher (R310-R323, R327, R328),
and redundant execution (R359, R360).
-/

namespace Sys2Proof.Machine

/-! ### Join counters (R317, R318) -/

/-- A counter after a signal. -/
def counterSignal (w : Word) : Word := if field w 0 32 = 0 then w else withField w 0 32 (field w 0 32 - 1)

/-- A counter that a failure reaches. -/
def counterFail (w : Word) (c : BitVec 8) : Word := if bit w 63 then w else withField (setBit w 63) 40 8 c.toNat

/-- Join counter j. -/
def State.join (s : State) (j : Nat) : Word := (lookup s.joins j).getD 0

/-- The counter of a WAIT or SIGNAL field, where it is valid (R314). -/
def joinIndex (x : BitVec 16) : Option Nat := if bit x 15 then some (field x 0 14) else none

/-- Sends a failure, and then perhaps a signal, to the counter of a field as messages. -/
def State.toJoin (s : State) (x : BitVec 16) (fail : Option (BitVec 8)) (sig : Bool) : State :=
  match joinIndex x with
  | none => s
  | some j => { s with msgs := s.msgs ++ (match fail with
      | some c => [Msg.failure j c]
      | none => []) ++ (if sig then [Msg.signal j] else []) }

/-- Whether a message is for counter j. -/
def Msg.forJoin (m : Msg) (j : Nat) : Bool :=
  match m with
  | .signal k => decide (k = j)
  | .failure k _ => decide (k = j)
  | .weight _ _ => false | .topup _ _ => false | .topupAck _ => false | .discard _ _ _ => false | .redirect _ _ _ _ _ => false

/-- What a message does to a counter. -/
def Msg.onJoin (m : Msg) (w : Word) : Word :=
  match m with
  | .signal _ => counterSignal w
  | .failure _ c => counterFail w c
  | .weight _ _ => w | .topup _ _ => w | .topupAck _ => w | .discard _ _ _ => w | .redirect _ _ _ _ _ => w

/-- The messages on their way to counter j reach it, in their order. -/
def State.settleJoin (s : State) (j : Nat) : State :=
  let l := s.msgs.filter (·.forJoin j)
  if l = [] then s
  else { s with msgs := s.msgs.filter (fun m => !m.forJoin j), joins := insert s.joins j (l.foldl (fun w m => m.onJoin w) (s.join j)) }

/-- A failure, and then perhaps a signal, reaches the counter of a field at once: what follows in its rule waits for that
(R315, R325, R327). -/
def State.failJoin (s : State) (x : BitVec 16) (c : BitVec 8) (sig : Bool) : State :=
  match joinIndex x with
  | none => s
  | some j =>
    let s := s.settleJoin j
    let w := counterFail (s.join j) c
    { s with joins := insert s.joins j (if sig then counterSignal w else w) }

/-- JOIN_SIGNAL (R318): the next message of the counter, where it is a signal. -/
def execJoinSignal (j : Nat) (s : State) : Result :=
  match takeFirst (·.forJoin j) s.msgs with
  | some (.signal _, rest) => .next { s with msgs := rest, joins := insert s.joins j (counterSignal (s.join j)) }
  | _ => .next s

/-- The cause that a byte names; a byte that is no code counts as TRAPI in the name of an event (R301). -/
def causeNamed (x : BitVec 8) : Cause := causeOf x.toNat

/-- JOIN_FAILURE (R318): the next message of the counter, where it is a failure of that name. -/
def execJoinFailure (j : Nat) (c : Cause) (s : State) : Result :=
  match takeFirst (·.forJoin j) s.msgs with
  | some (.failure _ x, rest) =>
    if causeNamed x = c then .next { s with msgs := rest, joins := insert s.joins j (counterFail (s.join j) x) } else .next s
  | _ => .next s

/-! ### Work queues that freeze (R327) -/

/-- Freezes a queue with a cause, and interrupts its partition. -/
def State.freezeQueue (s : State) (q : Nat) (c : BitVec 8) : State :=
  let x := s.queue q
  if x.frozen then s
  else
    let s := s.setQueue q { x with frozen := true, fcause := c }
    match x.bound with
    | some p => s.raiseIrq p 5
    | none => s

/-! ### Termination records (R319, R325) -/

/-- The 32 bytes of a termination record (R319). -/
def Term.bytes (t : Term) : Nat :=
  t.outw % 2 ^ 128 + t.signal.toNat * 2 ^ 128 + t.queue * 2 ^ 144 + ofBool t.failed * 2 ^ 160 + t.cause.toNat * 2 ^ 168

/-- A termination record takes a value, in the pool too (R319). -/
def State.putTerm (s : State) (launch : Nat) (t : Term) : State :=
  let s := { s with terms := insert s.terms launch t }
  match s.part t.part with
  | some x => s.store noBehalf (vaultLoc x.spec.sys (x.spec.poolOff + 32 * (launch % 2 ^ 32))) 32 t.bytes
  | none => s

/-- The failure of a task of a launch: its counter, its record, its queue. A copy of a redundant launch neither freezes nor
signals (R359). -/
def State.reportFailure (s : State) (launch : Nat) (cause : BitVec 8) : State :=
  match lookup s.terms launch with
  | none => s
  | some t =>
    let t' := if t.failed then t else { t with failed := true, cause := cause }
    match t.copy with
    | some (l, k) =>
      let s := s.putTerm launch t'
      (match lookup s.redundants l with
      | some r => { s with redundants := insert s.redundants l { r with failedCopies := addOnce r.failedCopies k } }
      | none => s)
    | none => ((s.failJoin t.signal cause false).putTerm launch t').freezeQueue t.queue cause

/-- A launch of a queue has ended (R319). -/
def State.countEnded (s : State) (q : Nat) : State := s.setQueue q { s.queue q with ended := (s.queue q).ended + 1 }

/-- OUTW has reached zero: the launch has terminated: it signals, its record is free, and its queue counts it. Of a copy of a
redundant launch only the record is free (R359). -/
def State.terminate (s : State) (launch : Nat) (t : Term) : State :=
  match t.copy with
  | some (l, _) =>
    let s := { s with terms := erase s.terms launch }
    (match lookup s.redundants l with
    | some r => { s with redundants := insert s.redundants l { r with terms := r.terms.erase launch } }
    | none => s)
  | none => State.countEnded { (s.toJoin t.signal none true) with
      terms := erase s.terms launch, gangs := erase s.gangs launch
      bands := s.bands.map (fun p => if p.2.resv = some launch then (p.1, { p.2 with resv := none }) else p) } t.queue

/-- WEIGHT_RETURN (R319): the next weight message; a launch without a record takes none. -/
def execWeightReturn (s : State) : Result :=
  let isW := fun (m : Msg) => match m with
    | .weight _ _ => true
    | _ => false
  match takeFirst isW s.msgs with
  | some (.weight l w, rest) =>
    let s := { s with msgs := rest }
    match lookup s.terms l with
    | none => .next s
    | some t =>
      if t.outw ≤ w then .next (s.terminate l t) else .next (s.putTerm l { t with outw := t.outw - w })
  | _ => .next s

/-- TOPUP_MESSAGE (R319). -/
def execTopupMessage (s : State) : Result :=
  let isT := fun (m : Msg) => match m with
    | .topup _ _ => true
    | _ => false
  match takeFirst isT s.msgs with
  | some (.topup l w, rest) =>
    let s := { s with msgs := rest ++ [.topupAck w] }
    match lookup s.terms l with
    | none => .next s
    | some t => .next (s.putTerm l { t with outw := t.outw + 2 ^ 63 })
  | _ => .next s

/-- SPAWN_TOPUP_ACK (R30): the waiting spawn of a slot holds 2^63 more. -/
def execSpawnTopupAck (r n : Nat) (s : State) : Result :=
  let w : Turn := { rank := r, slot := Fin.ofNat 5 n }
  let isA := fun (m : Msg) => match m with
    | .topupAck x => decide (x = w)
    | _ => false
  match takeFirst isA s.msgs with
  | some (_, rest) =>
    let more := fun (k : Task) => { k with weight := k.weight + 2 ^ 63 }
    let s : State := { s with msgs := rest }
    .next (s.modThAt w (fun t => { t with topup := false, task := t.task.map more }))
  | none => .next s

/-! ### Launch records (R314, R315) -/

/-- `n` bytes at an offset of a record. -/
def recN (x : BitVec 512) (o n : Nat) : Nat := field x (8 * o) (8 * n)

def recGang (x : BitVec 512) : Bool := bit x 80
def recBands (x : BitVec 512) : Nat := recN x 0xB 1
def recPlace (x : BitVec 512) : Nat := recN x 0xC 2
def recPrio (x : BitVec 512) : Nat := recN x 9 1 % 8
def recWait (x : BitVec 512) (i : Nat) : BitVec 16 := BitVec.ofNat 16 (recN x (0x18 + 2 * i) 2)
def recSignal (x : BitVec 512) : BitVec 16 := BitVec.ofNat 16 (recN x 0x1C 2)

/-- The ranks of a partition's cores, ascending. -/
def State.ranksOf (s : State) (p : Partition) : List Nat :=
  (p.spec.bands.mergeSort).flatMap (fun b => bandRanks (s.dev * 64 + b))

/-- Whether the field names a counter outside a partition's range. -/
def outOfRange (p : Partition) (x : BitVec 16) : Bool :=
  match joinIndex x with
  | some j => decide (j < p.spec.counterBase) || decide (p.spec.counterBase + p.spec.counterCount ≤ j)
  | none => false

/-- Whether a PLACE is wrong for a record. -/
def State.badPlace (s : State) (p : Partition) (x : BitVec 512) : Bool :=
  let r := recPlace x
  if r = 0xFFFF then false
  else
    let b := r / 16 % 64
    !(decide (r / 1024 = s.dev) && p.spec.bands.contains b)
      || (recGang x && (decide (r % 16 ≠ 0) || !((List.range (recBands x)).all (fun k => p.spec.bands.contains (b + k)))))

/-- Whether a record is malformed in a queue (R315, R359). -/
def State.badRecord (s : State) (p : Partition) (q : WorkQueue) (x : BitVec 512) : Bool :=
  decide (recN x 0x3F 1 ≠ 0) || decide (recN x 0 8 % 4 ≠ 0) || decide (0xF0 < recN x 8 1)
    || (recGang x && (decide (recBands x = 0) || decide (p.spec.bands.length < recBands x) || q.redundant))
    || s.badPlace p x || outOfRange p (recWait x 0) || outOfRange p (recWait x 1) || outOfRange p (recSignal x)
    || decide (256 < recN x 0x28 2)

/-- The cause of the first poisoned wait of a record (R318, R328). -/
def State.poisonOf (s : State) (x : BitVec 512) : Option (BitVec 8) :=
  ([0, 1] : List Nat).findSome? (fun i => match joinIndex (recWait x i) with
    | some j => if bit (s.join j) 63 then some (BitVec.ofNat 8 (field (s.join j) 40 8)) else none
    | none => none)

/-- Whether every wait is met (R318). -/
def State.waitsMet (s : State) (x : BitVec 512) : Bool :=
  ([0, 1] : List Nat).all (fun i => match joinIndex (recWait x i) with
    | some j => decide (field (s.join j) 0 32 = 0) && !bit (s.join j) 63
    | none => true)

/-- Free termination records of a partition's pool (R319). -/
def State.freeTerms (s : State) (p : Nat) (x : Partition) : Nat :=
  x.spec.pool - (s.terms.filter (fun t => decide (t.2.part = p))).length

/-- Whether the head of a queue is eligible (R320). -/
def State.eligible (s : State) (p : Nat) (x : Partition) (q : WorkQueue) (r : BitVec 512) : Bool :=
  s.badRecord x q r || (s.poisonOf r).isSome || (s.waitsMet r && decide ((if q.redundant then 2 else 1) ≤ s.freeTerms p x))

/-! ### Starting (R316, R322, R323, R359) -/

/-- A task of a launch record on a core: PC, priority, domain, argument, initial registers (R29, R316). -/
def State.recordTask (s : State) (rank : Nat) (x : BitVec 512) (launch weight m members : Nat) (copy : Option (Nat × Nat)) : Task :=
  let gang := recGang x
  { id := (s.core rank).nextTaskId rank, pc := { sb := BitVec.ofNat 8 (recN x 8 1), v := word (recN x 0 8) }, prio := recPrio x, aged := 0,
    mig := false, gang := gang, matched := false, frame := false, parked := false, live := 0, arg := word (recN x 0x10 8), weight := weight,
    join := recSignal x, domain := BitVec.ofNat 16 (recN x 0xE 2), origin := rank % 0x10000, parkTok := 0, launch := launch, regs := [],
    src := if gang then .gang else .launch,
    s5 := match copy with
      | some (_, k) => word k
      | none => if gang then word m else 0,
    s6 := if gang then word members else 0, s7 := 0, evctl := word (recN x 0x1F 1 % 8), srseed := word (recN x 0x30 8) ^^^ word m,
    tidbase := fieldWrite 0 (word (recN x 0x20 8)) 0xFFFFFFFFFFFFFFC0 0, tidlim := word (min 256 (recN x 0x28 2)), wdog := recN x 0x2C 4,
    ran := 0, since := s.cycle.toNat, mitten := none, gangOf := if gang then some (launch, m) else none, copy := copy, wait := .none,
    mon := none, bound := none, tiles := 0, stopped := false, replay := none, pend := 0, tokErr := 0, tokUnc := 0, kidWdog := 0, probe := 0 }

/-- A task enters the ready queue of a core; where queue and spill region are full it is held until an entry frees
(R298). A band that sleeps wakes (R386). -/
def State.enqueue (s : State) (rank : Nat) (k : Task) : State :=
  let s := s.wakeBand (rank / 16)
  if (s.core rank).readyFull then s.modCore rank (fun c => { c with parked := c.parked ++ [{ k with wait := .none }] })
  else s.makeReady rank k

/-- A new task of a record on a core, with its record of termination. -/
def State.newTask (s : State) (rank : Nat) (k : Task) : State :=
  (s.modCore rank (fun c => { c with taskSeq := c.taskSeq + 1 })).enqueue rank k

/-- The core with the fewest ready tasks; the lowest rank on a tie. -/
def State.leastReady (s : State) (l : List Nat) : Option Nat :=
  l.foldl (fun m r => match m with
    | none => some r
    | some x => if (s.core r).ready.length < (s.core x).ready.length then some r else some x) none

/-- The core of a single task: outside reserved bands where there is one (R322). -/
def State.coreFor (s : State) (x : Partition) : Option Nat :=
  match s.leastReady ((s.ranksOf x).filter (fun r => (s.band (r / 16)).resv.isNone)) with
  | some r => some r
  | none => s.leastReady (s.ranksOf x)

/-- The lowest free record of a partition's pool. -/
def State.freeIndex (s : State) (p : Nat) : Nat :=
  let used := (s.terms.filter (fun t => decide (t.2.part = p))).map (fun t => t.1 % 2 ^ 32)
  ((List.range (used.length + 1)).find? (fun i => !used.contains i)).getD 0

/-- A fresh termination record (R319), the lowest free one of the pool (DESIGN CHOICE, log entry 46). -/
def State.newTerm (s : State) (p q : Nat) (sig : BitVec 16) (copy : Option (Nat × Nat)) : Nat × State :=
  let i := s.nextTerm * 2 ^ 32 + s.freeIndex p
  (i, State.putTerm { s with nextTerm := s.nextTerm + 1 } i
    { outw := 2 ^ 63, signal := sig, queue := q, part := p, failed := false, cause := 0, copy := copy })

/-- Starts a single task (R322). -/
def State.startSingle (s : State) (p q : Nat) (x : Partition) (rec : BitVec 512) : State :=
  match (if recPlace rec = 0xFFFF then s.coreFor x else some (recPlace rec)) with
  | none => s
  | some r =>
    let t := s.newTerm p q (recSignal rec) none
    t.2.newTask r (t.2.recordTask r rec t.1 (2 ^ 63) 0 1 none)

/-- The bands of a gang (R323), ascending: as keys of the package's bands. -/
def State.gangBands (s : State) (x : Partition) (rec : BitVec 512) : List Nat :=
  let n := recBands rec
  if recPlace rec = 0xFFFF then
    let l := (x.spec.bands.mergeSort).map (fun b => s.dev * 64 + b)
    let free := l.filter (fun b => (s.band b).resv.isNone)
    let held := l.filter (fun b => (s.band b).resv.isSome)
    ((free ++ held).take n).mergeSort
  else (List.range n).map (fun k => recPlace rec / 16 + k)

/-- The weight of member m of n (R30). -/
def memberWeight (n m : Nat) : Nat := 2 ^ 63 / n + (if m = 0 then 2 ^ 63 % n else 0)

/-- A member waits on its core for the gang to be placed. -/
def State.addMember (s : State) (rank : Nat) (g : Nat) (k : Task) : State :=
  s.modCore rank (fun c => { c with taskSeq := c.taskSeq + 1, parked := c.parked ++ [{ k with wait := .gang g }] })

/-- Starts a gang (R323): its number is that of its termination record. -/
def State.startGang (s : State) (p q : Nat) (x : Partition) (rec : BitVec 512) : State :=
  let t := s.newTerm p q (recSignal rec) none
  let bands := s.gangBands x rec
  let ranks := bands.flatMap bandRanks
  let s := { t.2 with gangs := insert t.2.gangs t.1 { record := rec, launch := t.1, part := p, bands := bands, reserved := [], placed := false, loadAt := none } }
  (ranks.zipIdx).foldl (fun s y => s.addMember y.1 t.1 (s.recordTask y.1 rec t.1 (memberWeight ranks.length y.2) y.2 ranks.length none)) s

/-- A core for the next copy of a redundant launch (R359, R360): on a die none of the others uses, else on such a band, else
on such a core. -/
def State.copyCore (s : State) (x : Partition) (used : List Nat) : Option Nat :=
  let l := s.ranksOf x
  let away := fun (n : Nat) => l.filter (fun r => used.all (fun u => decide (u / n ≠ r / n)))
  match s.leastReady (away 128), s.leastReady (away 16), s.leastReady (away 1) with
  | some r, _, _ => some r
  | none, some r, _ => some r
  | none, none, r => r

/-- Starts copy k of a redundant launch, with a termination record of its own. -/
def State.startCopy (s : State) (l k r : Nat) (d : Redundant) : State :=
  let t := s.newTerm d.part d.queue (recSignal d.record) (some (l, k))
  let s := t.2.newTask r (t.2.recordTask r d.record t.1 (2 ^ 63) 0 1 (some (l, k)))
  { s with redundants := insert s.redundants l { d with terms := d.terms ++ [t.1], cores := d.cores ++ [r] } }

/-- A place of the partition that its system core's table translates. -/
def State.sysPlace (s : State) (x : Partition) (ga : Ptr) : Option Loc := s.tablePlace x.spec.sys ga

/-- Starts a redundant launch (R359): the block is latched, and copies 0 and 1 start. A block that cannot be reached fails
the launch as a malformed record does (DESIGN CHOICE, log entry 43). -/
def State.startRedundant (s : State) (p q : Nat) (x : Partition) (rec : BitVec 512) : Option State :=
  let ga : Ptr := { sb := 0, v := word (recN rec 0x10 8) }
  match s.sysPlace x ga with
  | none => none
  | some l =>
    if l.off % 64 ≠ 0 then none
    else
      let i := s.nextTerm
      let d : Redundant :=
        { record := rec, queue := q, part := p, block := BitVec.ofNat 512 (s.look l 64), blockLoc := l, terms := [], failedCopies := [], cores := [] }
      match (if recPlace rec = 0xFFFF then s.coreFor x else some (recPlace rec)) with
      | none => none
      | some r0 =>
        let s := s.startCopy i 0 r0 d
        match s.copyCore x [r0], lookup s.redundants i with
        | some r1, some d => some (s.startCopy i 1 r1 d)
        | _, _ => some s

/-! ### The dispatcher (R320, R321) -/

/-- A record dispatched as one that fails with ILLEGAL (R315). -/
def State.failRecord (s : State) (q : Nat) (x : Partition) (rec : BitVec 512) : State :=
  let c := Cause.byte .illegal
  (if outOfRange x (recSignal rec) then s else s.failJoin (recSignal rec) c true).freezeQueue q c

/-- Cancel(h) (R328). -/
def State.cancel (s : State) (rec : BitVec 512) (c : BitVec 8) : State := s.toJoin (recSignal rec) (some c) true

/-- A record that has left its queue is started, cancelled or failed. -/
def State.dispatchRecord (s : State) (p q : Nat) (x : Partition) (rec : BitVec 512) : State :=
  if s.badRecord x (s.queue q) rec then s.failRecord q x rec
  else match s.poisonOf rec with
    | some c => s.cancel rec c
    | none =>
      if (s.queue q).redundant then (s.startRedundant p q x rec).getD (s.failRecord q x rec)
      else if recGang rec then s.startGang p q x rec
      else s.startSingle p q x rec

/-- The candidates of a partition with an eligible head: queue and head (R320). -/
def State.candidates (s : State) (p : Nat) (x : Partition) : List (Nat × BitVec 512) :=
  s.queues.filterMap (fun q => match q.2.recs with
    | r :: _ => if q.2.bound = some p ∧ !q.2.frozen ∧ s.eligible p x q.2 r then some (q.1, r) else none
    | [] => none)

/-- The effective priority of a head. -/
def State.headPrio (s : State) (c : Nat × BitVec 512) : Nat :=
  let age := match (s.queue c.1).since with
    | some t => s.cycle.toNat - t
    | none => 0
  min 7 (recPrio c.2 + age / 2 ^ 20)

/-- The age of every head is counted from when it became eligible. -/
def State.noteHeads (s : State) (p : Nat) (l : List Nat) : State :=
  { s with queues := s.queues.map (fun q =>
      if q.2.bound = some p then (q.1, { q.2 with since := if l.contains q.1 then (match q.2.since with
        | some t => some t
        | none => some s.cycle.toNat) else none })
      else q) }

/-- A queue takes a value; the records past its 16 in hardware lie in its overflow region, in order from its start (R310;
the place of each is a DESIGN CHOICE, log entry 46). -/
def State.putRecs (s : State) (q : Nat) (y : WorkQueue) : State :=
  let s := s.setQueue q y
  match y.bound with
  | none => s
  | some p => match s.part p with
    | none => s
    | some x => match lookup x.spec.overflow q with
      | none => s
      | some o => ((y.recs.drop 16).zipIdx).foldl (fun s r => s.store noBehalf (vaultLoc x.spec.sys (o + 64 * r.2)) 64 r.1.toNat) s

/-- The heads that are eligible now have been so since now at the latest, in every partition (R320). -/
def State.noteAll (s : State) : State :=
  s.parts.foldl (fun s p => s.noteHeads p.1 ((s.candidates p.1 p.2).map (·.1))) s

/-- The choice of R321: the queue and its head, with credits reloaded. -/
def State.choose (s : State) (x : Partition) (e : List (Nat × BitVec 512)) : Option (Nat × BitVec 512 × Nat × State) :=
  match (e.map s.headPrio).max? with
  | none => none
  | some p =>
    let l := e.filter (fun c => decide (s.headPrio c = p))
    let s := if l.all (fun c => decide ((s.queue c.1).credit = 0)) then
        l.foldl (fun s c => s.setQueue c.1 { s.queue c.1 with credit := max 1 (recN c.2 0x1E 1) }) s
      else s
    let ok := l.filter (fun c => decide (0 < (s.queue c.1).credit))
    match ok.find? (fun c => decide (x.ptr.getD p 0 ≤ c.1)), ok with
    | some c, _ => some (c.1, c.2, p, s)
    | none, c :: _ => some (c.1, c.2, p, s)
    | none, [] => none

/-- DISPATCH (R321), for partition p. -/
def execDispatch (p : Nat) (s : State) : Result :=
  match s.part p with
  | none => .next s
  | some x =>
    if s.cycle.toNat < x.next then .next s
    else
      let e := s.candidates p x
      let s := s.noteHeads p (e.map (·.1))
      match s.choose x e with
      | none => .next s
      | some (q, rec, prio, s) =>
        let y := s.queue q
        let s := s.putRecs q { y with recs := y.recs.drop 1, credit := y.credit - 1, since := none }
        let x := { x with ptr := x.ptr.setIfInBounds prio ((q + 1) % 4096), next := s.cycle.toNat + 4 }
        .next (({ s with parts := insert s.parts p x }).dispatchRecord p q x rec)

/-! ### Redundant comparison (R360) -/

/-- A pointer of a redundancy block at an offset. -/
def blockPtr (b : BitVec 512) (o : Nat) : Ptr := Ptr.ofBytes (recN b o 9)

def blockLen (b : BitVec 512) : Nat := recN b 0x20 4

/-- Row i of image k. -/
def State.imageRow (s : State) (x : Partition) (d : Redundant) (k i : Nat) : Option Loc :=
  s.sysPlace x ((blockPtr d.block 0x10).add (word (k * blockLen d.block + i * 0x800)))

/-- The rows of an image. -/
def imageRows (d : Redundant) : List Nat := List.range (blockLen d.block / 0x800)

/-- Whether every row of an image, and of OUT, can be reached. -/
def State.imagesReach (s : State) (x : Partition) (d : Redundant) : Bool :=
  (imageRows d).all (fun i => ((List.range d.cores.length).all (fun k => (s.imageRow x d k i).isSome))
    && (s.sysPlace x ((blockPtr d.block 0).add (word (i * 0x800)))).isSome)

/-- Whether two images agree byte for byte; a copy that failed, or an image that cannot be read, matches no other. -/
def State.imagesAgree (s : State) (x : Partition) (d : Redundant) (j k : Nat) : Bool :=
  !d.failedCopies.contains j && !d.failedCopies.contains k && (imageRows d).all (fun i =>
    match s.imageRow x d j i, s.imageRow x d k i with
    | some a, some b => !s.unreadable a 0x800 && !s.unreadable b 0x800 && decide (s.look a 0x800 = s.look b 0x800)
    | _, _ => false)

/-- Image k is copied to OUT. -/
def State.commitImage (s : State) (x : Partition) (d : Redundant) (k : Nat) : State :=
  (imageRows d).foldl (fun s i =>
    match s.imageRow x d k i, s.sysPlace x ((blockPtr d.block 0).add (word (i * 0x800))) with
    | some a, some b => (s.recall b 0x800).store noBehalf b 0x800 (s.look a 0x800)
    | _, _ => s) s

/-- The launch ends with a RESULT: it fails first where no two images agree (R325); then it signals. -/
def State.endRedundant (s : State) (l : Nat) (d : Redundant) (result : Nat) : State :=
  let s := s.store noBehalf (d.blockLoc.plus 0x28) 8 result
  let s := { s with redundants := erase s.redundants l }
  let c := Cause.byte .uncorr
  let s := if result = 3 then (s.failJoin (recSignal d.record) c false).freezeQueue d.queue c else s
  (s.toJoin (recSignal d.record) none true).countEnded d.queue

/-- Whether the copies started so far have all terminated. -/
def Redundant.copiesOver (d : Redundant) : Bool :=
  decide (2 ≤ d.cores.length) && decide (d.terms = [])

/-- An entry of the log of a partition's system core about a redundancy block (R351). -/
def State.logBlock (s : State) (x : Partition) (d : Redundant) (kind detail : Nat) : State :=
  s.logError x.spec.sys kind 1 (word (recN d.record 0x10 8)) detail

/-- Whether REDUNDANT_COMPARE can go on. -/
def State.compareReady (s : State) (d : Redundant) : Bool :=
  match s.part d.part with
  | some x => d.copiesOver && s.imagesReach x d
  | none => false

/-- REDUNDANT_COMPARE (R360). -/
def execRedundantCompare (l : Nat) (s : State) : Result :=
  match lookup s.redundants l with
  | none => .next s
  | some d =>
    if !s.compareReady d then .next s
    else match s.part d.part with
      | none => .next s
      | some x =>
        if d.cores.length = 2 then
          if s.imagesAgree x d 0 1 then .next ((s.commitImage x d 0).endRedundant l d 0)
          else if s.freeTerms d.part x = 0 then .next s
          else
            let s := s.logBlock x d 11 0x100
            match s.copyCore x d.cores with
            | some r => .next (s.startCopy l 2 r d)
            | none => .next (s.startCopy l 2 x.spec.sys d)
        else if s.imagesAgree x d 2 0 then .next ((s.commitImage x d 2).endRedundant l d 1)
        else if s.imagesAgree x d 2 1 then .next ((s.commitImage x d 2).endRedundant l d 2)
        else .next ((s.logBlock x d 12 (recN d.record 0xE 2)).endRedundant l d 3)

/-! ### Submission (R310-R313, R327) -/

/-- Whether a host port may reach a partition's queues, counters and doorbell (R367, R374). -/
def State.portGranted (s : State) (port p : Nat) : Bool := bit (s.grant p) (1 + port)

/-- A record is discarded. -/
def State.dropRecord (s : State) (q : Nat) : State := s.setQueue q { s.queue q with drops := min 0xFFFF ((s.queue q).drops + 1) }

/-- Whether a port reaches a queue; management cores (port 2) reach all (R311). -/
def State.queueReached (s : State) (port q : Nat) : Bool :=
  decide (port = 2) || match (s.queue q).bound with
    | some p => s.portGranted port p
    | none => false

/-- LREC (R313): a write of `size` bytes at an offset within the register. -/
def execLrec (port q off size : Nat) (rec : BitVec 512) (s : State) : Result :=
  let x := s.queue q
  if off ≠ 0 ∨ size ≠ 64 ∨ x.bound.isNone ∨ !s.queueReached port q ∨ 16 + x.ovcap ≤ x.recs.length then .next (s.dropRecord q)
  else .next (s.putRecs q { x with recs := x.recs ++ [rec] })

/-- QCTL_RESUME (R327). -/
def execQctlResume (port q : Nat) (s : State) : Result :=
  let x := s.queue q
  if x.frozen ∧ s.queueReached port q then .next (s.setQueue q { x with frozen := false, fcause := 0 }) else .next s

/-- QCTL_FLUSH (R327): every record is cancelled, from head to tail. -/
def execQctlFlush (port q : Nat) (s : State) : Result :=
  let x := s.queue q
  if x.frozen ∧ s.queueReached port q then
    let s := x.recs.foldl (fun s r => s.failJoin (recSignal r) x.fcause true) s
    .next (s.setQueue q { x with recs := [], frozen := false, fcause := 0, since := none })
  else .next s

/-- QCTL_CLEAR_DROPS (R312). -/
def execQctlClearDrops (port q : Nat) (s : State) : Result :=
  if s.queueReached port q then .next (s.setQueue q { s.queue q with drops := 0 }) else .next s

/-- The partition whose range holds a counter (R317). -/
def State.joinPart (s : State) (j : Nat) : Option Nat :=
  (s.parts.find? (fun p => decide (p.2.spec.counterBase ≤ j) && decide (j < p.2.spec.counterBase + p.2.spec.counterCount))).map (·.1)

/-- Whether a port reaches a counter; management cores (port 2) reach all 16,384. -/
def State.joinReached (s : State) (port j : Nat) : Bool :=
  decide (j < 16384) && (decide (port = 2) || match s.joinPart j with
    | some p => s.portGranted port p
    | none => false)

/-- JOIN_COUNTER_WRITE (R317): the whole word is replaced. -/
def execJoinCounterWrite (port j : Nat) (v : Word) (s : State) : Result :=
  if s.joinReached port j then .next { s with joins := insert s.joins j (v &&& 0x8000FF00FFFFFFFF) } else .next s

/-- QSTAT (R312). -/
def WorkQueue.stat (x : WorkQueue) : Word :=
  word (x.drops + min 0xFFFF x.recs.length * 2 ^ 16 + min 0xFFFF (16 + x.ovcap - x.recs.length) * 2 ^ 32 + x.fcause.toNat * 2 ^ 48
    + ofBool x.frozen * 2 ^ 63)

/-- QCFG (R312). -/
def WorkQueue.config (x : WorkQueue) : Word :=
  word (x.bound.getD 0 + ofBool x.bound.isSome * 2 ^ 4 + x.ovcap * 2 ^ 48)

end Sys2Proof.Machine
end

