-- ==== Sys2Proof/Machine/Host.lean ====
section
/-!
DEFINITION. What hosts, the second tier and other packages do: doorbells and the vault window (R374-R376), latency
tolerance (R385), port training and versions (R374, R377, R379), and Cufflink links (R361, R380, R381).
-/

namespace Sys2Proof.Machine

/-- An error-log entry in the system core of every partition that a test accepts (R351). -/
def State.logParts (s : State) (p : Partition → Bool) (kind : Nat) (addr : Word) (detail : Nat) : State :=
  (s.parts.filter (fun x => p x.2)).foldl (fun s x => s.logError x.2.spec.sys kind 0 addr detail) s

/-! ### Doorbells and the vault window (R374, R375) -/

/-- HOST_DOORBELL: the value into the mailbox, then the interrupt. -/
def execHostDoorbell (port p : Nat) (v : Word) (s : State) : Result :=
  match s.part p with
  | none => .next s
  | some x =>
    if port < 2 ∧ s.portGranted port p then
      let l := vaultLoc x.spec.sys x.spec.mailbox
      .next ((((s.wakeBand (x.spec.sys / 16)).recall l 8).store noBehalf l 8 v.toNat).raiseIrq p 4)
    else .next s

/-- A host port changes what it shows. -/
def State.modPort (s : State) (port : Nat) (f : Port → Port) : State :=
  { s with ports := s.ports.setIfInBounds port (f (s.ports.getD port { ver := 0, enumerated := false, read := 0, readErr := false })) }

/-- Whether the vault window reaches 8 bytes of a vault. -/
def State.windowReaches (s : State) (r off : Nat) : Bool :=
  decide (off % 8 = 0) && decide (off + 8 ≤ 0x3E000000) && match s.partOf r with
    | some p => bit (s.grant p) 3
    | none => false

/-- Whether an access of a port to a vault waits there. -/
def State.windowWaits (s : State) (r off : Nat) : Bool := s.windowReaches r off && decide (s.meets false (vaultLoc r off) ≠ .nothing)

/-- VAULT_WINDOW_READ: 8 bytes, an unsupported request, or a read that is aborted. -/
def execVaultWindowRead (port r off : Nat) (s : State) : Result :=
  let l := vaultLoc r off
  if !s.windowReaches r off then .next (s.modPort port (fun p => { p with readErr := true }))
  else if s.windowWaits r off then .next (s.noteWaiting l)
  else
    let s := s.recall l 8
    if s.unreadable l 8 then .next ((s.logUnreadable r l 8 0).modPort port (fun p => { p with readErr := true }))
    else .next ((s.corrected l 8).modPort port (fun p => { p with read := word (s.look l 8), readErr := false }))

/-- VAULT_WINDOW_WRITE. -/
def execVaultWindowWrite (port r off : Nat) (v : Word) (s : State) : Result :=
  let l := vaultLoc r off
  if !s.windowReaches r off then .next (s.modPort port (fun p => { p with readErr := true }))
  else if s.windowWaits r off then .next (s.noteWaiting l)
  else .next (((s.recall l 8).store noBehalf l 8 v.toNat).modPort port (fun p => { p with readErr := false }))

/-! ### Latency tolerance (R383, R385) -/

/-- Wake time of a power state, in ns (R383). -/
def wakeNs (lvl : Nat) : Nat :=
  match lvl with
  | 0 => 0
  | 1 => 50
  | 2 => 5000
  | 3 => 200000
  | _ => 20000000

/-- TOL of a partition. -/
def State.tol (s : State) (p : Nat) : Nat := field (s.ltol.getD p 0) 0 32

/-- The bands of a partition, as keys. -/
def State.bandsOf (s : State) (x : Partition) : List Nat := x.spec.bands.map (fun b => s.dev * 64 + b)

/-- LTOL_WRITE (R385): bands whose state wakes too slowly for the new tolerance wake (R386). -/
def execLtolWrite (port p : Nat) (v : Word) (s : State) : Result :=
  if port < 2 ∧ s.portGranted port p then
    let s := { s with ltol := s.ltol.setIfInBounds p (v &&& 0xFFFFFFFF) }
    match s.part p with
    | some x => .next ((s.bandsOf x).foldl (fun s b => if s.tol p < wakeNs (s.band b).power then s.wakeBand b else s) s)
    | none => .next s
  else .next s

/-- LTOL as read: STATE is the deepest state of the partition's bands (R385). -/
def State.ltolRead (s : State) (p : Nat) : Word :=
  let deepest := match s.part p with
    | some x => ((s.bandsOf x).map (fun b => (s.band b).power)).foldl max 0
    | none => 0
  word (s.tol p + deepest * 2 ^ 32)

/-! ### Ports and versions (R374, R377, R379) -/

/-- The values of IFVER.HOST. -/
def hostVersions : List Nat := [5, 6, 7, 0x20, 0x30]

/-- HOST_PORT_TRAINING: the version, or the port stays down where none is common. -/
def execHostPortTraining (port ver : Nat) (s : State) : Result :=
  if 2 ≤ port then .next s
  else if hostVersions.contains ver then .next (s.modPort port (fun p => { p with ver := ver, enumerated := decide (5 ≤ s.bringUp) }))
  else .next ((s.modPort port (fun p => { p with ver := 0, enumerated := false })).logParts (fun x => bit (s.grant x.spec.id) (1 + port)) 9 (word port) 0)

/-- HOST_PORT_RESET: the fundamental reset of one port's link and function (R389). -/
def execHostPortReset (port : Nat) (s : State) : Result :=
  .next (s.modPort port (fun _ => { ver := 0, enumerated := false, read := 0, readErr := false }))

/-- Whether a partition has a second-tier share. -/
def hasTier (x : Partition) : Bool := decide (0 < x.spec.tierFrames)

/-- SECOND_TIER_PORT_DOWN (R377). -/
def execSecondTierPortDown (port : Nat) (s : State) : Result :=
  if 2 ≤ s.tiers.getD port 0 then .next (({ s with tiers := s.tiers.setIfInBounds port 1 }).logParts hasTier 9 (word port) 0) else .next s

/-- SECOND_TIER_PORT_UP (R379). -/
def execSecondTierPortUp (port ver : Nat) (s : State) : Result :=
  if 8 ≤ port then .next s
  else if ver = 2 ∨ ver = 3 then .next { s with tiers := s.tiers.setIfInBounds port ver }
  else .next (s.logParts hasTier 9 (word port) 0)

/-- IFVER of a port (R379); the highest launch-record VER is 0. -/
def State.ifver (s : State) (port : Nat) : Word :=
  let up := (s.links.toList.filter (fun l => l.up)).map (fun l => l.gen)
  word (Config.firmware % 256 + 0x10000 + (s.ports.getD port { ver := 0, enumerated := false, read := 0, readErr := false }).ver * 2 ^ 24
    + up.min?.getD 0 * 2 ^ 32 + ((s.tiers.toList.filter (fun v => decide (2 ≤ v))).min?.getD 0) * 2 ^ 40)

/-! ### Reads of BAR0 (R311, R312, R317, R374) -/

/-- 8 bytes of BAR0 as a port reads them; offsets that hold nothing read 0. -/
def State.bar0Read (s : State) (port o : Nat) : Word :=
  if o < 0x1000000 then
    let x := s.queue (o / 0x1000)
    if o % 0x1000 = 0x40 then x.stat else if o % 0x1000 = 0x50 then x.config else 0
  else if o < 0x1020000 then
    if s.joinReached port ((o - 0x1000000) / 8) then s.join ((o - 0x1000000) / 8) else 0
  else if o = 0x1FFF000 then s.ifver port
  else 0

/-! ### Cufflink (R361, R380, R381) -/

/-- The lane rates of a generation, highest first (R361). -/
def linkRates (gen : Nat) : List Nat :=
  match gen with
  | 3 => [224, 168, 112, 56]
  | 2 => [112, 56]
  | _ => []

/-- The next lower rate of a link. -/
def Link.lower (l : Link) : Option Nat := (linkRates l.gen).find? (fun r => decide (r < l.rate))

def Link.reset : Link := { gen := 0, rate := 0, up := false }

/-- LINK_RATE_LOWER: one step lower at the next retrain, with entry kind 8. -/
def execLinkRateLower (l : Nat) (s : State) : Result :=
  let x := s.links.getD l .reset
  match x.lower with
  | some r =>
    if x.up then .next (({ s with links := s.links.setIfInBounds l { x with rate := r } }).logParts (fun _ => true) 8 (word l) r) else .next s
  | none => .next s

/-- A status that cannot return (R361). -/
def Rpc.lostStatus (rq : Rpc) : Status :=
  { statusFor { rank := rq.rank, slot := rq.slot } rq.task rq.reg rq.domain 0 with lost := true, credit := true }

/-- Where no route to other packages remains, calls to them complete with RPCFAIL, and a status that one of their agents owes
is lost (R361). -/
def State.cutFabric (s : State) : State :=
  let away := s.cores.filter (fun p => decide (p.1 / 1024 ≠ s.dev) && decide (p.1 < 65536))
  let s := (away.flatMap (fun p => p.2.agent.requests.map (fun rq => (p.1, rq)))).foldl (fun s x =>
    if x.2.rank / 1024 = s.dev then (s.takeRequest x.1 x.2).refuse x.2 .rpcFail else s) s
  away.foldl (fun s p => match p.2.agent.current with
    | some rq => if rq.rank / 1024 = s.dev && !p.2.agent.replied && rq.engine.isNone then
        { (s.modAgent p.1 (fun a => { a with replied := true })) with statuses := s.statuses ++ [rq.lostStatus] } else s
    | none => s) s

/-- The links with one changed, and whether the fabric stands. -/
def State.setLink (s : State) (l : Nat) (x : Link) : State :=
  let links := s.links.setIfInBounds l x
  { s with links := links, fabric := links.toList.any (fun y => y.up) }

/-- LINK_DOWN: a link that fails at its lowest step, with entry kind 9. -/
def execLinkDown (l : Nat) (s : State) : Result :=
  let x := s.links.getD l .reset
  if x.up ∧ x.lower = none then
    let s := (s.setLink l { x with up := false }).logParts (fun _ => true) 9 (word l) 0
    .next (if s.fabric then s else s.cutFabric)
  else .next s

/-- LINK_RETRAIN by the device monitor: it may raise the rate or bring the link up again. -/
def execLinkRetrain (l rate : Nat) (s : State) : Result :=
  let x := s.links.getD l .reset
  if (linkRates x.gen).contains rate then .next (s.setLink l { x with rate := rate, up := true }) else .next s

end Sys2Proof.Machine
end

