-- ==== Sys2Proof/Machine/Power.lean ====
section
/-!
DEFINITION. Power states of bands, dies and the package (R383-R386), and the thermal hold of a die (R388).
-/

namespace Sys2Proof.Machine

/-! ### Idleness (R384) -/

/-- Whether an engine holds no command. -/
def Engine.idle (x : Engine) : Bool := x.active.isNone && x.shadow.isNone && decide (x.queue = []) && decide (x.parked = [])

/-- Whether a slot counts as empty: it holds no task (R20), and code that runs in it without one waits in `wfi`. -/
def Thread.rests (t : Thread) : Bool := decide (t.occ = .empty) || (t.task.isNone && t.wfi && decide (t.ipend &&& t.ien = 0))

/-- Whether a core has nothing to run or to finish. -/
def Core.idle (c : Core) : Bool :=
  c.threads.toList.all Thread.rests && decide (c.ready = []) && c.parked.all (fun k => decide (k.wait ≠ .none))
    && decide (c.agent.requests = []) && c.agent.current.isNone && c.agent.moving.isNone && c.agent.mac.isNone
    && !c.agent.mvBusy && !c.agent.cmBusy && decide (c.xfers = []) && decide (c.mops = [])

/-- Whether no tile is on a band or on its way. -/
def Band.still (z : Band) : Bool :=
  z.cw.toList.all Option.isNone && z.ccw.toList.all Option.isNone && decide (z.pend = []) && decide (z.eject = []) && decide (z.writing = [])
    && decide (z.retire = []) && decide (z.matched = 0) && z.resv.isNone

/-- Whether a band is idle. -/
def State.bandIdle (s : State) (b : Nat) : Bool :=
  (s.band b).still && (bandRanks b).all (fun r => (s.core r).idle)
    && (List.range 12).all (fun k => (s.engine (b % 64 / 8 * 12 + k)).idle)

/-- Whether the reduction buffers of a band are empty. -/
def State.bandFlushed (s : State) (b : Nat) : Bool := (bandRanks b).all (fun r => decide ((s.core r).redbuf = []))

/-- The partitions, with their numbers, that have a band among some. -/
def State.partsWith (s : State) (p : Nat → Bool) : List (Nat × Partition) := s.parts.filter (fun x => x.2.spec.bands.any p)

/-- The bands of a partition's kind among some, as keys. -/
def State.usedBands (s : State) (p : Nat → Bool) : List Nat :=
  (s.partsWith p).flatMap (fun x => (x.2.spec.bands.filter p).map (fun b => s.dev * 64 + b))

/-- Whether a power state may take the bands of a scope: each idle, and each partition with a band there tolerant (R384,
R385). -/
def State.mayRest (s : State) (p : Nat → Bool) (lvl : Nat) : Bool :=
  (s.usedBands p).all (fun b => s.bandIdle b) && (s.partsWith p).all (fun x => decide (wakeNs lvl ≤ s.tol x.1))

/-- The bands that a power state of a band takes (R383). -/
def scopeBands (b lvl : Nat) : Nat → Bool :=
  match lvl with
  | 3 => fun x => decide (x / 8 = b % 64 / 8)
  | 4 => fun _ => true
  | _ => fun x => decide (x = b % 64)

/-- The deepest state that an idle band may enter; 0 none. -/
def State.restLevel (s : State) (b : Nat) : Nat :=
  match s.partOf (b * 16) with
  | none => 0
  | some p =>
    ((([4, 3] : List Nat).find? (fun l => s.mayRest (scopeBands b l) l)).or
      (([2, 1] : List Nat).find? (fun l => s.bandIdle b && decide (wakeNs l ≤ s.tol p)))).getD 0

/-- The L1, TLBs and walk caches of a gated band are dropped (R383). -/
def Core.gate (c : Core) : Core := { c with utlb := [], tlb := [], wcache := [], agent := { c.agent with tlb := [] } }

/-- A band in a power state. -/
def State.restBand (s : State) (b lvl : Nat) : State :=
  let s := s.modBand b (fun z => { z with power := lvl, waking := false })
  if 2 ≤ lvl then (bandRanks b).foldl (fun s r => s.modCore r Core.gate) s else s

/-- Whether a band commits to a state now. -/
def State.restReady (s : State) (b lvl : Nat) : Bool :=
  decide (lvl ≠ 0) && decide (s.restLevel b = lvl) && decide ((s.band b).power < lvl) && !(s.band b).waking
    && (s.usedBands (scopeBands b lvl)).all (fun x => s.bandFlushed x)

/-- POWER_STATE_ENTRY (R386). -/
def execPowerStateEntry (b lvl : Nat) (s : State) : Result :=
  if s.restReady b lvl then
    let s := (s.usedBands (scopeBands b lvl)).foldl (fun s x => s.restBand x lvl) s
    .next { s with standby := s.standby || decide (lvl = 4) }
  else .next s

/-- WAKE_EVENT (R386). -/
def execWakeEvent (b : Nat) (s : State) : Result := if (s.partOf (b * 16)).isSome then .next (s.wakeBand b) else .next s

/-- Whether a band's wake can end: its die is not held. -/
def State.wakeReady (s : State) (b : Nat) : Bool :=
  (s.band b).waking && decide ((s.band b).power ≠ 0) && !s.dieHeld (b * 16) && (s.partOf (b * 16)).isSome

/-- WAKE_COMPLETE (R386): the die or package wakes with the band; bands that it leaves asleep are power-gated, and other dies
in retention. -/
def execWakeComplete (b : Nat) (s : State) : Result :=
  if s.wakeReady b then
    let lvl := (s.band b).power
    let s := (s.usedBands (scopeBands b lvl)).foldl (fun s x =>
      if x = b then s else s.modBand x (fun z => if 3 ≤ z.power then { z with power := if x % 64 / 8 = b % 64 / 8 then 2 else 3 } else z)) s
    .next { (s.modBand b (fun z => { z with power := 0, waking := false })) with standby := s.standby && decide (lvl ≠ 4) }
  else .next s

/-! ### Thermal hold (R388) -/

/-- THERMAL_HOLD: the die stops. -/
def execThermalHold (die : Nat) (s : State) : Result :=
  .next (s.modDie die (fun d => { d with held := some (d.held.getD s.cycle.toNat) }))

/-- The bands of a die. -/
def State.dieBands (s : State) (die : Nat) : List Nat := (List.range 8).map (fun k => s.dev * 64 + die * 8 + k)

/-- Task watchdogs do not count a hold (R326). -/
def Thread.unheld (t : Thread) (n : Nat) : Thread := { t with task := t.task.map (fun k => { k with since := k.since + n }) }

/-- THERMAL_HOLD_RELEASE: band cycles resume where they stopped, after a multiple of 4 cycles. -/
def execThermalHoldRelease (die : Nat) (s : State) : Result :=
  match (s.dies.getD die .reset).held with
  | none => .next s
  | some t =>
    let n := (s.cycle.toNat - t + 3) / 4 * 4
    let s := (s.dieBands die).foldl (fun s b =>
      if (lookup s.bands b).isSome then s.modBand b (fun z => { z with hold := z.hold + n }) else s) s
    let s := { s with cores := s.cores.map (fun (p : Nat × Core) =>
      if p.1 / 1024 = s.dev ∧ p.1 / 128 % 8 = die then (p.1, { p.2 with threads := p.2.threads.map (fun (t : Thread) => t.unheld n) }) else p) }
    .next (s.modDie die (fun d => { d with held := none }))

end Sys2Proof.Machine
end

