-- ==== Sys2Proof/Machine/Reliab.lean ====
section
/-!
DEFINITION. Superstep checkpoint mode: images (R357), rollback and its limits (R355, R356, R358), and the failure of
tasks outside a slot (R325).
-/

namespace Sys2Proof.Machine

/-! ### Ranges of memory as data -/

/-- The cells of a range, by their offset in it. -/
def State.cellsIn (s : State) (l : Loc) (n : Nat) : List Host.Cell :=
  (s.mem.filter (fun c => decide (l.key ≤ c.1) && decide (c.1 < l.key + n))).map (fun c => (c.1 - l.key, c.2))

/-- A range of memory with cells put in place of what it held. -/
def State.putCells (s : State) (l : Loc) (n : Nat) (cells : List Host.Cell) : State :=
  { s with mem := cells.foldl (fun m c => Memory.write m (l.key + c.1) c.2) (Memory.clear s.mem l.key n) }

/-! ### Tasks of a domain -/

/-- Whether a task belongs to a domain. -/
def Task.inDomain (k : Task) (dom : Word) : Bool := decide (k.domain.setWidth 64 = dom)

/-- Whether a slot runs a task of a domain: its DOMID names it. -/
def Thread.inDomain (t : Thread) (dom : Word) : Bool := decide (t.occ ≠ .empty) && decide (t.domid = dom) && t.task.isSome

/-- The tasks of a domain on a core: ready, outside the slots, and running. -/
def Core.domainTasks (c : Core) (dom : Word) : List Task :=
  c.ready.filter (·.inDomain dom) ++ c.parked.filter (·.inDomain dom) ++ (c.threads.toList.filter (·.inDomain dom)).filterMap (·.task)

/-- The slots of a core that take tasks, by number. -/
def fourSlots : List (Fin 5) := [0, 1, 2, 3]

/-- SSTEPN of a domain on a core (R40). -/
def Core.sstepCount (c : Core) (dom : Word) : Word :=
  match c.sstepn.find? (fun p => decide (p.1 = domKey dom)) with
  | some p => p.2
  | none => 0

/-! ### Checkpoint images (R357) -/

/-- The image of a core for a domain, saved at its barrier. -/
def State.imageOf (s : State) (r : Nat) (dom : Word) : CkptImage :=
  let c := s.core r
  let tasks := c.domainTasks dom
  { dom := dom, cells := s.cellsIn (scratchLoc r 0) 0x340000,
    stackCells := fourSlots.map (fun n => s.cellsIn (vaultLoc r (stackBase n.val)) 0x400000),
    frames := tasks.filterMap (fun k => (c.frameOf k.id).map (fun f => (k.id, s.cellsIn (vaultLoc r (c.frameBase f)) 0x410000))),
    threads := c.threads, ready := c.ready.filter (·.inDomain dom), parked := c.parked.filter (·.inDomain dom), queues := c.queues,
    ranges := c.ranges, wsum := c.wsum, mitten := c.mitten, sstepn := c.sstepCount dom, count := 0 }

/-- A core at the start of a superstep of a checkpoint domain: its image is saved and its journal empty (R356, R357). -/
def State.saveImage (s : State) (r : Nat) (dom : Word) : State :=
  let img := s.imageOf r dom
  s.modCore r (fun c => { c with
    ckpt := img :: c.ckpt.filter (fun i => decide (i.dom ≠ dom))
    vault := { c.vault with journal := c.vault.journal.filter (fun j => decide (j.dom ≠ dom)),
                            unprotected := c.vault.unprotected.filter (fun d => decide (d ≠ dom)) } })

/-! ### Tasks that fail outside a slot (R325) -/

/-- A task in no slot fails: its launch hears of it at once, and it is removed when its asynchronous operations have
ended. -/
def State.failTask (s : State) (r : Nat) (k : Task) (c : BitVec 8) : State :=
  ((s.setReady r ((s.core r).ready.filter (fun y => decide (y.id ≠ k.id)))).modCore r (fun x => { x with
    parked := x.parked.filter (fun y => decide (y.id ≠ k.id)) ++ [{ k with wait := .failed }] })).reportFailure k.launch c

/-- Every task of a core that a test accepts fails. -/
def State.failTasks (s : State) (r : Nat) (p : Task → Bool) (c : BitVec 8) : State :=
  let x := s.core r
  let out := (x.ready ++ x.parked).filter (fun k => p k && decide (k.wait ≠ .failed))
  let s := out.foldl (fun s k => s.failTask r k c) s
  fourSlots.foldl (fun s n =>
    let w : Turn := { rank := r, slot := n }
    match (s.thAt w).task with
    | some k => if p k && (s.thAt w).failing.isNone then s.modThAt w (·.failWith c) else s
    | none => s) s

/-! ### Rollback (R358) -/

/-- The members of a domain: the group of a core that has an image of it, or whose task is in it. -/
def State.domainMembers (s : State) (dom : Word) : List Nat :=
  match s.cores.find? (fun p => p.2.ckpt.any (fun i => decide (i.dom = dom)) || p.2.threads.toList.any (·.inDomain dom)) with
  | some p => s.groupOf p.1 (field dom 0 3)
  | none => []

/-- Live tasks of weight 0 that count as messages of a domain on a core (R192, R271). -/
def Core.matchedOf (c : Core) (dom : Word) : Nat :=
  ((c.ready ++ c.parked ++ c.threads.toList.filterMap (·.task)).filter (fun k => decide (k.weight = 0) && decide (k.probe = domKey dom))).length

/-- D of a domain on a core (R271). -/
def Core.dOf (c : Core) (dom : Word) : Int :=
  match c.msgD.find? (fun p => decide (p.1 = domKey dom)) with
  | some p => p.2
  | none => 0

/-- What a core adds to the sum of a domain's circuit: D, and its injections that still wait for a slot of the band (R142). -/
def State.dAt (s : State) (r : Nat) (dom : Word) : Int :=
  (s.core r).dOf dom
    + (((s.band (r / 16)).pend.filter (fun x => decide (x.pos = r % 16) && decide (domKey x.tile.dom = domKey dom))).length : Int)

/-- Whether a core's transfers, matrix operations and instructions of a domain are over, but for what is discarded. -/
def State.rollbackReady (s : State) (dom : Word) : Bool :=
  let l := s.domainMembers dom
  decide ((l.map (fun r => s.dAt r dom - (s.core r).matchedOf dom)).foldl (· + ·) 0 = 0)

/-- The journalled rows of a domain are written back, last first, and the journal is empty (R358). -/
def State.undoJournal (s : State) (r : Nat) (dom : Word) : State :=
  let l := (s.core r).vault.journal.filter (fun j => decide (j.dom = dom))
  let s := l.foldl (fun s j =>
    let s := s.store noBehalf (vaultLoc r (j.row * 0x800)) 0x800 j.old
    if j.cv then s else s.modCore r (fun c => { c with vault := { c.vault with noCv := addOnce c.vault.noCv j.row } })) s
  s.modCore r (fun c => { c with vault := { c.vault with journal := c.vault.journal.filter (fun j => decide (j.dom ≠ dom)) } })

/-- The weights that the tasks of a domain on a core hold, by launch. -/
def Core.weights (c : Core) (dom : Word) : List (Nat × Nat) :=
  (c.domainTasks dom).map (fun k => (k.launch, k.weight))

/-- OUTW of each launch follows what its tasks hold before and after (R358). -/
def State.settleWeights (s : State) (before after : List (Nat × Nat)) : State :=
  s.terms.foldl (fun s t =>
    let sum := fun (l : List (Nat × Nat)) => ((l.filter (fun x => decide (x.1 = t.1))).map (·.2)).foldl (· + ·) 0
    s.putTerm t.1 { t.2 with outw := t.2.outw + sum after - sum before }) s

/-- Removes a domain's tasks from a core, with what they hold of its units. -/
def State.clearDomain (s : State) (r : Nat) (dom : Word) : State :=
  let c := s.core r
  let tasks := c.domainTasks dom
  let mine := fun (w : Fin 5) => (c.threads[w]).inDomain dom
  let s := (c.xfers.filter (fun x => decide (x.dom = dom))).foldl (fun s x =>
    (framesOf x.offs).foldl (fun s k => s.unhold r k) (s.modCore r (fun c => { c with xfers := c.xfers.filter (fun y => decide (y.id ≠ x.id)) }))) s
  let s := tasks.foldl (fun s k => (s.unbindFrame r k.id).freeMitten r k.id) s
  let s := (tasks.filter (fun k => decide (k.weight = 0))).foldl (fun s k => s.countWeightless r k false) s
  let s := s.setReady r (c.ready.filter (fun k => !k.inDomain dom))
  s.modCore r (fun c => { c with
    mops := c.mops.filter (fun m => !mine m.slot)
    redbuf := c.redbuf.filter (fun e => !mine e.last)
    parked := c.parked.filter (fun k => !k.inDomain dom)
    threads := c.threads.map (fun t => if t.inDomain dom then t.emptied else t) })

/-- A slot for a restored thread: its own, or an empty one. -/
def State.restoreSlot (s : State) (r : Nat) (n : Fin 5) : Option (Fin 5) :=
  if (s.thAt { rank := r, slot := n }).occ = .empty then some n
  else fourSlots.find? (fun m => decide ((s.thAt { rank := r, slot := m }).occ = .empty))

/-- The thread and the stack of slot n of an image in slot m; what belongs to the slot stays (R293). -/
def State.seatImage (s : State) (r : Nat) (i : CkptImage) (n m : Fin 5) : State :=
  let old := s.thAt { rank := r, slot := m }
  let s := s.setThAt { rank := r, slot := m } { i.threads[n] with
    ien := old.ien, ipend := old.ipend, missTval := old.missTval, thermals := old.thermals, tscratch := old.tscratch, stalled := false,
    pend := 0, outst := [], badRegs := [] }
  s.putCells (vaultLoc r (stackBase m.val)) 0x400000 (i.stackCells.getD n.val [])

/-- A task of a domain in an image comes back into a slot with its context and stack; where every slot has been taken by
others it becomes ready with full context instead (DESIGN CHOICE, log entry 47). -/
def State.restoreThread (s : State) (r : Nat) (i : CkptImage) (n : Fin 5) : State :=
  if !(i.threads[n]).inDomain i.dom then s
  else match s.restoreSlot r n with
    | some m => s.seatImage r i n m
    | none =>
      let w : Turn := { rank := r, slot := n }
      let old := s.thAt w
      let stack := s.cellsIn (vaultLoc r (stackBase n.val)) 0x400000
      let back := fun (s : State) => (s.setThAt w old).putCells (vaultLoc r (stackBase n.val)) 0x400000 stack
      (match (s.seatImage r i n n).leaveFull w, (i.threads[n]).task with
      | some (k, s), _ => (back s).makeReady r k
      | none, some k => s.failTask r k (Cause.byte .uncorr)
      | none, none => s)

/-- The frame of a restored task, with its contents. -/
def State.restoreFrameOf (s : State) (r : Nat) (x : Word × List Host.Cell) : State :=
  match (s.core r).freeFrame with
  | none => s
  | some f => (s.modCore r (fun c => { c with frames := insert c.frames f x.1 })).putCells (vaultLoc r ((s.core r).frameBase f)) 0x410000 x.2

/-- The tasks of an image's domain. -/
def CkptImage.tasks (i : CkptImage) : List Task := i.ready ++ i.parked ++ (i.threads.toList.filter (·.inDomain i.dom)).filterMap (·.task)

/-- Whether a range of a domain, now or in an image, holds the tile of a weight sum. -/
def weightIn (dom : Word) (l : List StatRange) (key : Nat) : Bool :=
  l.any (fun x => decide (x.dom = dom) && decide (x.p0 ≤ key / 4) && decide (key / 4 < x.p0 + x.count))

/-- What an image gives back of a core's compute-in-memory state: the queues, ranges, weight sums and mitten slots of its
domain (R42, R357). -/
def CkptImage.units (i : CkptImage) (c : Core) : Core :=
  let own := fun (key : Nat) => weightIn i.dom (c.ranges ++ i.ranges) key
  { c with
    queues := Vector.ofFn (fun (n : Fin 8) => if i.queues[n].dom = i.dom ∨ c.queues[n].dom = i.dom then i.queues[n] else c.queues[n])
    ranges := c.ranges.filter (fun x => decide (x.dom ≠ i.dom)) ++ i.ranges.filter (fun x => decide (x.dom = i.dom))
    wsum := c.wsum.filter (fun x => !own x.1) ++ i.wsum.filter (fun x => own x.1)
    mitten := Vector.ofFn (fun (n : Fin 4) => match i.mitten[n] with
      | some m => if i.tasks.any (fun k => decide (k.id = m.task)) then some m else c.mitten[n]
      | none => c.mitten[n]) }

/-- A core restores its image (R358 step 4); its participant completes with the restored count. The lines of the scratchpad
come back whole (DESIGN CHOICE, log entry 47). -/
def State.restoreImage (s : State) (r : Nat) (i : CkptImage) : State :=
  let s := s.putCells (scratchLoc r 0) 0x340000 i.cells
  let s := s.setReady r (i.ready.foldl insertReady (s.core r).ready)
  let s := (i.tasks.filter (fun k => decide (k.weight = 0))).foldl (fun s k => s.countWeightless r k true) s
  let s := s.modCore r (fun c => { i.units c with
    parked := c.parked ++ i.parked
    badScratch := []
    sstepn := setSstepn c.sstepn (domKey i.dom) i.sstepn
    sstep := c.sstep.map (fun p => if p.dom = i.dom then { p with terminated := true, done := true } else p)
    ckpt := c.ckpt.map (fun j => if j.dom = i.dom then { j with count := j.count + 1 } else j) })
  let s := i.frames.foldl (fun s x => s.restoreFrameOf r x) s
  fourSlots.foldl (fun s n => s.restoreThread r i n) s

/-- The participants that a restored core has: those whose threads stood at their `sstep`. -/
def State.restoreParticipants (s : State) (r : Nat) (i : CkptImage) : State :=
  s.modCore r (fun c =>
    if c.sstep.any (fun p => decide (p.dom = i.dom)) then c
    else match fourSlots.find? (fun n => (i.threads[n]).inDomain i.dom && ((i.threads[n]).waitSince).isSome) with
      | some n => { c with sstep := { slot := n, task := (i.threads[n]).taskId, tag := field i.dom 0 3, dom := i.dom, target := 0, terminated := true, done := true } :: c.sstep }
      | none => c)

/-- The domain cannot be restored: every task of it fails with UNCORR (R358). -/
def State.unresolved (s : State) (dom : Word) (l : List Nat) : State :=
  let s := match l with
    | r :: _ => s.logError (s.sysCore r) 12 1 0 (field dom 0 16)
    | [] => s
  let s := l.foldl (fun s r => s.failTasks r (·.inDomain dom) (Cause.byte .uncorr)) s
  { s with rollbackDue := s.rollbackDue.filter (fun d => decide (d ≠ dom)) }

/-- Whether every member has an image, and no third rollback of one superstep is due (R358). -/
def State.restorable (s : State) (dom : Word) (l : List Nat) : Bool :=
  decide (l ≠ []) && l.all (fun r => match (s.core r).ckpt.find? (fun i => decide (i.dom = dom)) with
    | some i => decide (i.count < 2)
    | none => false)

/-- ROLLBACK (R358). -/
def execRollback (dom : Word) (s : State) : Result :=
  if !s.rollbackDue.contains dom || !s.rollbackReady dom then .next s
  else
    let l := s.domainMembers dom
    if !s.restorable dom l then .next (s.unresolved dom l)
    else
      let before := l.flatMap (fun r => (s.core r).weights dom)
      let s := match l with
        | r :: _ => s.logError r 13 4 0 (field dom 0 16)
        | [] => s
      let s := l.foldl (fun s r => s.undoJournal r dom) s
      let s := l.foldl (fun s r => s.clearDomain r dom) s
      let s := l.foldl (fun s r => match (s.core r).ckpt.find? (fun i => decide (i.dom = dom)) with
        | some i => (s.restoreImage r i).restoreParticipants r i
        | none => s) s
      let s := s.settleWeights before (l.flatMap (fun r => (s.core r).weights dom))
      .next { s with rollbackDue := s.rollbackDue.filter (fun d => decide (d ≠ dom)) }

end Sys2Proof.Machine
end

