-- ==== Sys2Proof/Machine/Sync.lean ====
section
/-!
DEFINITION. Barriers, the colour probe, supersteps (R268-R273, R41) and monitors (R274-R276).
-/

namespace Sys2Proof.Machine

/-! ### Barriers (R270) -/

/-- A core's arrival withdrawn. -/
def Core.withdraw (c : Core) (tag : Nat) : Core :=
  if c.arrived tag then { c with ac := c.ac.setIfInBounds tag (c.ac.getD tag 0 - 1) } else c

/-- Whether every member of a core's group has arrived. -/
def State.phaseFull (s : State) (r tag : Nat) : Bool :=
  let l := s.groupOf r tag
  decide ((s.core r).span tag ≠ 0) && decide (l ≠ []) && l.all (fun m => (s.core m).arrived tag)

/-- Participants whose circuit has ended arrive at the barrier, once an earlier arrival of the core is over (R273). -/
def Core.arriveParticipants (c : Core) (tag : Nat) : Core :=
  if c.sstep.any (fun p => decide (p.tag = tag) && p.terminated && !p.done && decide (p.target = 0)) && !c.arrived tag then
    let c := c.arrive tag
    { c with sstep := c.sstep.map (fun p =>
        if p.tag = tag ∧ p.terminated ∧ !p.done ∧ p.target = 0 then { p with target := (c.ac.getD tag 0).toNat } else p) }
  else c

/-- A member's PC becomes its AC; participants cross (R41, R270, R273). -/
def State.crossBarrier (s : State) (r tag : Nat) : State :=
  let c := s.core r
  let v := c.ac.getD tag 0
  let through := c.sstep.filter (fun p => decide (p.tag = tag) && p.terminated && !p.done && decide (p.target = v.toNat) && decide (p.target ≠ 0))
  let s := s.modCore r (fun c => { c with
    pc := c.pc.setIfInBounds tag v
    sstepn := through.foldl (fun l p => setSstepn l (domKey p.dom) (c.sstepCount p.dom + 1)) c.sstepn
    sstep := c.sstep.map (fun p => if through.contains p then { p with done := true } else p) })
  let s := through.foldl (fun s p => if ckptDom p.dom then s.saveImage r p.dom else s) s
  s.modCore r (·.arriveParticipants tag)

/-- BARRIER_PHASE_COMPLETE (R270): every member has arrived, and each member's PC advances. -/
def State.completePhase (s : State) (r tag : Nat) : State := (s.groupOf r tag).foldl (fun s m => s.crossBarrier m tag) s

def execBarrierPhaseComplete (r tag : Nat) (s : State) : Result :=
  if s.phaseFull r tag then .next (s.completePhase r tag) else .next s

/-! ### The colour probe (R271, R272) -/

/-- A circuit over a core's group for a domain: white, and zero. The members' B are cleared. -/
def State.circuit (s : State) (r tag : Nat) (dom : Word) : Bool × Bool × State :=
  let l := s.groupOf r tag
  let white := l.all (fun m => !(s.core m).msgB.contains (domKey dom))
  let sum := (l.map (fun m => s.dAt m dom)).foldl (· + ·) 0
  (white, decide (sum = 0), l.foldl (fun s m => s.modCore m (fun c => { c with msgB := c.msgB.filter (fun d => decide (d ≠ domKey dom)) })) s)

/-- A core's participant on a tag that waits for the domain's circuit. -/
def Core.waitingParticipant (c : Core) (tag : Nat) : Option Participant := c.sstep.find? (fun p => decide (p.tag = tag) && !p.terminated)

/-- Whether every member has a participant of a domain, and a core is the lowest of them (R273). -/
def State.termStarts (s : State) (r tag : Nat) (p : Participant) : Bool :=
  let l := s.groupOf r tag
  decide (l.head? = some r) && l.all (fun m => (s.core m).sstep.any (fun q => decide (q.tag = tag) && decide (domKey q.dom = domKey p.dom) && !q.terminated))

/-- Whether a circuit may start at a core on a tag. -/
def State.probeDue (s : State) (r tag : Nat) : Bool :=
  (match (s.core r).probeRun with
    | some (t, _) => decide (t = tag)
    | none => false)
  || (match (s.core r).waitingParticipant tag with
    | some p => s.termStarts r tag p
    | none => false)

/-- PROBE_CIRCUIT (R271): the circuit of a `prst`, or one of the termination of a superstep. Where that is white and zero,
every member goes to the barrier. -/
def execProbeCircuit (r tag : Nat) (s : State) : Result :=
  match (s.core r).probeRun with
  | some (t, dom) =>
    if t = tag then
      let x := s.circuit r tag dom
      .next (x.2.2.modCore r (fun c => { c with probeRun := none, probeRes := word (ofBool x.1 + ofBool x.2.1 * 2) }))
    else .next s
  | none =>
    match (s.core r).waitingParticipant tag with
    | none => .next s
    | some p =>
      if !s.termStarts r tag p then .next s
      else
        let x := s.circuit r tag p.dom
        if x.1 && x.2.1 then
          .next ((s.groupOf r tag).foldl (fun s m => s.modCore m (fun c =>
            Core.arriveParticipants { c with sstep := c.sstep.map (fun q =>
              if q.tag = tag ∧ domKey q.dom = domKey p.dom then { q with terminated := true } else q) } tag)) x.2.2)
        else .next x.2.2

/-! ### The sync major (R268) -/

/-- A tag on which the core is a member; else ILLEGAL (R269). Scope 7 sets WARN.FMT. -/
def needMember (i : Instr) (f : FmtS) : M Unit := do
  if (← get).me.span f.tag.val = 0 then illegal i

/-- The slot waits at a barrier. -/
def waitTag (tag : Nat) : M Unit := do
  let now := (← get).cycle.toNat
  updTh (fun t => if t.waitSince.isSome then t else { t with waitSince := some (now, tag) })
  stall

/-- The wait is over. -/
def endWait (f : FmtS) : M Unit := updTh (fun t => Thread.warnIf { t with waitSince := none } .fmt (decide (f.scope = 7)))

/-- The scope of a tag's group: the smallest of core 1, band 2, die 3, package 4 and fabric 5 that holds every member (R115).
-/
def State.tagScope (s : State) (r tag : Nat) : Nat :=
  let l := s.groupOf r tag
  let within := fun (n : Nat) => l.all (fun m => decide (m / n = r / n))
  if within 1 then 1 else if within 16 then 2 else if within 128 then 3 else if within 1024 then 4 else 5

/-- `barr` (R270): a second arrival waits for the phase to flip; `.rel` releases at the domain's scope first (R115). -/
def execBarr (f : FmtS) : State → Result :=
  run do
    needMember (.barr f) f
    let tag := f.tag.val
    if (← get).me.arrived tag then waitTag tag
    if f.scope ≠ 0 then upd (fun s => s.fenceFlush s.turn.rank (s.tagScope s.turn.rank tag))
    upd (fun s => s.modMe (·.arrive tag))
    endWait f

/-- `bwait` (R270). -/
def execBwait (f : FmtS) : State → Result :=
  run do
    needMember (.bwait f) f
    let tag := f.tag.val
    if (← get).me.arrived tag then waitTag tag
    if f.scope ≠ 0 then upd (fun s => s.fenceFlush s.turn.rank (s.tagScope s.turn.rank tag))
    let n := (← get).me.pc.getD tag 0
    endWait f
    updTh (fun t => t.putInt f.d (n.setWidth 64))

/-- `bmask` (R270). -/
def execBmask (f : FmtS) : State → Result :=
  run do
    needMember (.bmask f) f
    let c := (← get).me
    let tag := f.tag.val
    let v := word ((c.pc.getD tag 0).toNat % 2 ^ 16 + c.group tag * 2 ^ 16 + c.span tag * 2 ^ 32 + (c.ac.getD tag 0).toNat % 2 ^ 16 * 2 ^ 48)
    updTh (fun t => (t.putInt f.d v).warnIf .fmt (decide (f.scope = 7)))

/-- `prst` (R272). -/
def execPrst (f : FmtS) : State → Result :=
  run do
    needMember (.prst f) f
    upd (fun s => s.modMe (fun c => { c with probeRun := some (f.tag.val, s.th.domid) }))
    updTh (fun t => t.warnIf .fmt (decide (f.scope = 7)))

/-- `pwait` (R272): it waits for the last circuit that the core started. -/
def execPwait (f : FmtS) : State → Result :=
  run do
    needMember (.pwait f) f
    let c := (← get).me
    if c.probeRun.isSome then stall
    updTh (fun t => (t.putInt f.d c.probeRes).warnIf .fmt (decide (f.scope = 7)))

/-- Whether a participant is that of a thread: its task's, or the slot's where it holds none. -/
def Participant.of (p : Participant) (w : Turn) (task : Word) : Bool := decide (p.task = task) && (decide (task ≠ 0) || decide (p.slot = w.slot))

/-- `sstep` (R273): arrival of the core's participant, then the wait for the domain's circuit and the barrier. -/
def execSstep (f : FmtS) : State → Result :=
  run do
    needMember (.sstep f) f
    let s ← get
    let tag := f.tag.val
    let dom := s.th.domid
    let mine := fun (p : Participant) => decide (domKey p.dom = domKey dom)
    match s.me.sstep.find? mine with
    | none =>
      upd (fun s => s.flushRed s.turn.rank (fun _ => true))
      upd (fun s => s.modMe (fun c => { c with
        sstep := c.sstep ++ [{ slot := s.turn.slot, task := s.th.taskId, tag := tag, dom := dom, target := 0, terminated := false, done := false }] }))
      waitTag tag
    | some p =>
      if !p.of s.turn s.th.taskId then stall
      if !p.done then waitTag tag
      upd (fun s => s.modMe (fun c => { c with sstep := c.sstep.filter (fun q => !mine q) }))
      let n := s.me.sstepCount dom
      endWait f
      updTh (fun t => t.putInt f.d n)

/-- The threads of a core that are stalled on a tag. -/
def Core.stalledOn (c : Core) (tag : Nat) : List (Fin 5) :=
  fourSlots.filter (fun n => match (c.threads[n]).waitSince with
    | some (_, t) => decide (t = tag)
    | none => false)

/-- A core's arrival on a tag, or its participant, is withdrawn (R270, R273). -/
def State.withdrawAt (s : State) (r tag : Nat) (slot : Fin 5) : State :=
  s.modCore r (fun c =>
    let mine := fun (p : Participant) => p.of { rank := r, slot := slot } (c.threads[slot]).taskId && decide (p.tag = tag) && !p.done
    if c.sstep.any (fun p => mine p && !p.terminated) then { c with sstep := c.sstep.filter (fun p => !mine p) }
    else { c.withdraw tag with sstep := c.sstep.filter (fun p => !mine p) })

/-- A function applied as another thread. -/
def State.asTurn (s : State) (w : Turn) (f : State → State) : State :=
  let t := f { s with turn := w }
  { t with turn := s.turn }

/-- A trap taken in a slot that is stalled or at a boundary. -/
def State.trapAt (s : State) (w : Turn) (c : Cause) (tval : Word) (kind : BitVec 4) : State :=
  s.asTurn w (fun s => s.takeTrap { cause := c, tval := tval, kind := kind, out := false })

/-- Whether a thread has waited at a barrier beyond its watchdog, and nothing of it is outstanding. -/
def State.barrierLate (s : State) (w : Turn) : Option Nat :=
  let t := s.thAt w
  match t.waitSince with
  | some (t0, tag) => if t0 + s.watchdogCycles w.rank tag < s.cycle.toNat ∧ t.outst = [] then some tag else none
  | none => none

/-- The outstanding network operation of a slot that is late (R217). -/
def State.lateNet (s : State) (w : Turn) : Option Contribution :=
  s.nets.find? (fun c => decide (c.rank = w.rank) && decide (c.slot = w.slot) && s.netLate c)

/-- BARRIER_WATCHDOG_EXPIRY (R270, R273, R217): where every arrival of the phase is in, the phase completes instead. -/
def execBarrierWatchdogExpiry (r n : Nat) (s : State) : Result :=
  let w : Turn := { rank := r, slot := Fin.ofNat 5 n }
  match s.barrierLate w with
  | some tag =>
    if s.phaseFull r tag then .next (s.completePhase r tag)
    else .next ((s.withdrawAt r tag w.slot).trapAt w .barTo (word tag) 8)
  | none =>
    match s.lateNet w with
    | some c => .next (s.netTimeout c)
    | none => .next s

/-! ### Monitors (R274-R276) -/

/-- Arms the monitor of the slot on a place: a watch at the home, by handler 11 where that is another core. -/
def armMonitor (ga : Ptr) (l : Loc) : M Unit := do
  let s ← get
  if l.home ≠ s.turn.rank then upd (fun s => s.addWatch l.home l.granule s.turn)
  updTh (fun t => { t with mon := some { ga := ga, loc := l }, monHit := false })

/-- `mon.arm` (R275). -/
def execMonArm (f : FmtS) : State → Result :=
  run do
    let ga := (← thread).get f.a
    let l ← resolve ga 1 1 .load
    arrive ga l 1 1 true
    armMonitor ga l

/-- 2^(12 + 4t) cc (R274). -/
def monTimeout (f : FmtS) : Nat := 2 ^ (12 + 4 * f.tag.val)

/-- Whether the slot is to leave its wait: an enabled interrupt or a pre-emption (R275). -/
def Thread.called (t : Thread) : Bool := decide (t.ipend &&& t.ien ≠ 0) && bit t.thstat 6 || t.preempt

/-- `mon.wait` (R275): a write since the watch was recorded answers every wait until the monitor is armed again. -/
def execMonWait (f : FmtS) : State → Result :=
  run do
    let s ← get
    let t := s.th
    if t.mon.isNone then updTh (fun t => t.putInt f.d 0)
    else if t.monHit then updTh (fun t => t.putInt f.d 1)
    else if t.called then updTh (fun t => t.putInt f.d 0)
    else do
      updTh (fun t => { t with monWait := some { d := f.d, ends := s.cycle.toNat + monTimeout f, ne := false, seen := none } })
      finish

/-- `mon.waitne` (R276): comparison and watch are one access. -/
def execMonWaitne (f : FmtS) : State → Result :=
  run do
    let t ← thread
    let ga := t.get f.a
    let v ← loadData ga 8 8 .load
    let l ← resolve ga 8 8 .load
    armMonitor ga l
    if v ≠ (t.val f.d).toNat then updTh (fun t => t.putInt f.d (word v))
    else if t.called then updTh (fun t => t.putInt f.d (word v))
    else do
      let now := (← get).cycle.toNat
      updTh (fun t => { t with monWait := some { d := f.d, ends := now + monTimeout f, ne := true, seen := none } })
      finish

/-- A monitor wait ends with a value, and its slot goes on (R275). -/
def Thread.endMon (t : Thread) (m : MonWait) (v : Option Word) : Thread :=
  let t := match v with
    | some x => t.putInt m.d x
    | none => t.putInt m.d (t.val m.d)
  (Thread.next { t with monWait := none, outst := noteIssued t.outst }).stepReplay

/-- MONITOR_WAKE (R275, R276): the granule has been written; for `mon.waitne`, a write has made the word differ, and what it
was then is returned. -/
def execMonitorWake (r n : Nat) (s : State) : Result :=
  let w : Turn := { rank := r, slot := Fin.ofNat 5 n }
  let t := s.thAt w
  match t.monWait with
  | some m =>
    if m.ne then
      if m.seen.isSome then .next (s.setThAt w (t.endMon m m.seen)) else .next s
    else if t.monHit then .next (s.setThAt w (t.endMon m (some 1)))
    else .next s
  | none => .next s

/-- Whether a monitor wait ends without a write: its timeout, an enabled interrupt or a pre-emption. -/
def State.monOver (s : State) (t : Thread) (m : MonWait) : Bool := decide (m.ends ≤ s.cycle.toNat) || t.called

/-- MONITOR_TIMEOUT (R274, R275); a write that has already answered the wait still answers it. -/
def execMonitorTimeout (r n : Nat) (s : State) : Result :=
  let w : Turn := { rank := r, slot := Fin.ofNat 5 n }
  let t := s.thAt w
  match t.monWait with
  | some m => if s.monOver t m then .next (s.setThAt w (t.endMon m (if m.ne then m.seen else some (word (ofBool t.monHit))))) else .next s
  | none => .next s

end Sys2Proof.Machine
end

