-- ==== Sys2Proof/Machine/Sched.lean ====
section
/-!
DEFINITION. What the scheduler does beside dispatch: statuses reach their tokens (R114, R31, R32), tasks are placed, age,
are pre-empted and fail (R34-R37, R305, R309, R325, R326), gangs are reserved and released (R36, R37, R323), and fault-queue
entries are resolved (R341).
-/

namespace Sys2Proof.Machine

/-! ### Token statuses (R114) -/

/-- Where a task is: in a slot, in a ready queue, or outside both. -/
inductive Seat where
  | slot (w : Turn)
  | ready (r : Nat) (k : Task)
  | parked (r : Nat) (k : Task)
  deriving DecidableEq, Repr

/-- Where the task of an identity is on a core. -/
def Core.seat (c : Core) (r : Nat) (id : Word) : Option Seat :=
  match fourSlots.find? (fun n => decide ((c.threads[n]).taskId = id)) with
  | some n => some (.slot { rank := r, slot := n })
  | none =>
    match c.ready.find? (fun k => decide (k.id = id)), c.parked.find? (fun k => decide (k.id = id)) with
    | some k, _ => some (.ready r k)
    | none, some k => some (.parked r k)
    | none, none => none

/-- Where the owner of a token is: a task by its TASKID, or the thread of a slot that holds none. -/
def State.seatOf (s : State) (x : Status) : Option Seat :=
  if x.task = 0 then
    let w : Turn := { rank := x.rank, slot := x.slot }
    if (s.thAt w).task.isNone then some (.slot w) else none
  else s.cores.findSome? (fun p => p.2.seat p.1 x.task)

/-- A status value written into a token register: ready, and an error where it could not be delivered (R301). -/
def Thread.putStatus (t : Thread) (x : Status) : Thread :=
  let t := t.putInt x.reg (if x.lost then BitVec.allOnes 64 else x.value)
  if x.reg = 0 then t
  else { t with pend := clearBit t.pend x.reg.val,
                tokErr := if x.lost then setBit t.tokErr x.reg.val else t.tokErr,
                tokUnc := if x.recov && !x.lost then setBit t.tokUnc x.reg.val else t.tokUnc,
                waitTok := if t.waitTok = some x.reg then none else t.waitTok }

/-- The same for a task outside a slot: in its record where the register is saved there. -/
def Task.putStatus (k : Task) (x : Status) : Task :=
  let i := ((List.range x.reg.val).filter (fun n => decide (n ≠ 0) && k.live.getLsbD n)).length
  { k with regs := if k.live.getLsbD x.reg.val then k.regs.set i (.int (if x.lost then BitVec.allOnes 64 else x.value)) else k.regs,
           pend := clearBit k.pend x.reg.val,
           tokErr := if x.lost then setBit k.tokErr x.reg.val else clearBit k.tokErr x.reg.val,
           tokUnc := if x.recov && !x.lost then setBit k.tokUnc x.reg.val else clearBit k.tokUnc x.reg.val }

/-- The frame of a task outside a slot: its saved register, and its pending tokens (R307). -/
def State.putFrameStatus (s : State) (r : Nat) (k : Task) (x : Status) : State :=
  match (s.core r).frameOf k.id with
  | none => s
  | some f =>
    let base := (s.core r).frameBase f
    let v : Ptr := .int (if x.lost then BitVec.allOnes 64 else x.value)
    let s := if k.frame && nbit (s.present r k.id) 17 && decide (x.reg ≠ 0) then s.storeAll r base [(0x200 + 16 * x.reg.val, 16, v.bytes)] else s
    s.storeAll r base [(0x10, 4, (clearBit k.pend x.reg.val).toNat)]

/-- The core on which a task parked on a token resumes (R32). -/
def State.resumeCore (s : State) (r : Nat) (k : Task) : Nat :=
  if k.mig && !k.frame then
    (s.leastReady ((List.range 16).map (fun d => r / 16 * 16 + (r + d) % 16))).getD r
  else r

/-- A status reaches a task outside a slot; one parked on the token becomes ready (R31). -/
def State.putParked (s : State) (r : Nat) (k : Task) (x : Status) : State :=
  let k' := k.putStatus x
  let s := s.putFrameStatus r k x
  if k.wait = .token x.reg then
    (s.modCore r (fun c => { c with parked := c.parked.filter (fun y => decide (y.id ≠ k.id)) })).enqueue (s.resumeCore r k') k'
  else s.modCore r (fun c => { c with parked := c.parked.map (fun y => if y.id = k.id then k' else y) })

/-- A status is delivered, and wakes the core's band (R386); that of a task that has ended is discarded (R325). -/
def State.deliverStatus (s : State) (x : Status) : State :=
  let s := s.wakeBand (x.rank / 16)
  let s := if x.credit then (s.modCore x.rank (fun c => { c with credits := c.credits - 1 })).received x.rank (domKey x.dom) else s
  match s.seatOf x with
  | some (.slot w) => s.modThAt w (·.putStatus x)
  | some (.ready r k) =>
    let s := s.putFrameStatus r k x
    s.setReady r ((s.core r).ready.map (fun y => if y.id = k.id then k.putStatus x else y))
  | some (.parked r k) => s.putParked r k x
  | none => s

/-- TOKEN_STATUS_WRITE (R114): the first status that can be delivered. An armed injection of target 7 makes it
undeliverable instead (R363). -/
def execTokenStatusWrite (s : State) : Result :=
  match takeFirst (fun (x : Status) => !x.lost) s.statuses with
  | none => .next s
  | some (x, rest) =>
    match s.seatOf x with
    | some (.slot w) =>
      let i := (s.thAt w).injects 7
      let s := s.setThAt w i.2
      if i.1 then .next { s with statuses := { x with lost := true } :: rest }
      else .next ({ s with statuses := rest }.deliverStatus x)
    | _ => .next ({ s with statuses := rest }.deliverStatus x)

/-- STATUS_UNDELIVERABLE (R301, R351): the first status that is lost. -/
def execStatusUndeliverable (s : State) : Result :=
  match takeFirst (fun (x : Status) => x.lost) s.statuses with
  | none => .next s
  | some (x, rest) => .next (({ s with statuses := rest }.deliverStatus x).logError x.rank 15 0 0 x.reg.val)

/-! ### Placement and aging (R34, R35) -/

/-- Tasks held outside a full ready queue enter it as entries free (R298). -/
def State.releaseHeld (s : State) (r : Nat) : State :=
  let c := s.core r
  if c.readyFull then s
  else match takeFirst (fun (k : Task) => decide (k.wait = .none)) c.parked with
    | some (k, rest) => (s.modCore r (fun c => { c with parked := rest })).makeReady r k
    | none => s

/-- Whether the head of a core's ready queue may enter a slot. -/
def State.placeable (s : State) (r : Nat) (n : Fin 5) : Bool :=
  let b := s.band (r / 16)
  (s.taskSlots r).contains n && decide ((s.thAt { rank := r, slot := n }).occ = .empty) && b.resv.isNone && decide (b.power = 0)
    && decide ((s.core r).ready ≠ [])

/-- SLOT_PLACEMENT (R29, R35): the head of the ready queue enters an empty slot. -/
def execSlotPlacement (r n : Nat) (s : State) : Result :=
  let w : Turn := { rank := r, slot := Fin.ofNat 5 n }
  let s := s.releaseHeld r
  if s.placeable r w.slot then
    match (s.core r).ready with
    | k :: rest => .next (((s.setReady r rest).placeTask w k).releaseHeld r)
    | [] => .next s
  else .next s

/-- Whether a ready task is due for a promotion (R34). -/
def State.agingDue (s : State) (k : Task) : Bool := decide (k.since + 2 ^ 20 * (k.aged + 1) ≤ s.cycle.toNat) && decide (k.eff < 7)

/-- PRIORITY_AGING (R34). -/
def execPriorityAging (r : Nat) (id : Word) (s : State) : Result :=
  match takeFirst (fun (k : Task) => decide (k.id = id)) (s.core r).ready with
  | some (k, rest) =>
    if s.agingDue k then .next (s.setReady r (insertReady rest { k with aged := k.aged + 1 })) else .next s
  | none => .next s

/-! ### Events at a boundary (R305) -/

/-- The interrupt that a slot takes next, with its TVAL (R297, R305). -/
def Thread.nextInterrupt (t : Thread) : Option (Nat × Word) :=
  if bit t.thstat 6 then
    ((List.range 6).find? (fun n => bit (t.ipend &&& t.ien) n)).map (fun n => (n, if n = 2 then t.missTval else 0))
  else none

/-- Whether a thread stands at a boundary where an event may be taken: no window is replayed, no transfer resumed. -/
def Thread.atBoundary (t : Thread) : Bool := t.replay.isNone && decide (t.resumeTiles = 0)

/-- An event that the slot takes before its next instruction (R305): THERMAL, then an interrupt. -/
def Thread.boundaryDue (t : Thread) : Bool := t.atBoundary && (decide (t.thermals ≠ []) || t.nextInterrupt.isSome)

/-! ### Pre-emption (R35, R37, R305, R309) -/

/-- Whether a slot is at a boundary where a pre-emption may be taken: user mode, INTRAP 0, no replay pending, no wait that
ends first, and no THERMAL or interrupt, which precede it unless it has begun (R305). -/
def State.preemptible (s : State) (w : Turn) : Bool :=
  let t := s.thAt w
  t.preempt && decide (t.occ ≠ .empty) && (decide (t.occ = .draining) || !t.boundaryDue) && t.task.isSome && decide (t.mode = 0) && !bit t.thstat 5 && t.replay.isNone && t.failing.isNone
    && t.monWait.isNone && !t.topup && t.faultWait.isNone && (s.bindFrame w.rank t.taskId).isSome

/-- The transfer that an outstanding `tld` or `tst` waits for (R92). -/
def State.heldXfer (s : State) (w : Turn) (o : Outst) : Option TileXfer :=
  match o.wait with
  | .tiles id => if o.trap.isNone then (s.core w.rank).xfers.find? (fun x => decide (x.id = id)) else none
  | .ready => none | .op _ => none | .net _ => none | .inj _ => none | .stopped _ => none

/-- Stops a held transfer after its tile in progress (R255, R309). -/
def State.stopTransfer (s : State) (w : Turn) (x : TileXfer) : State :=
  (s.dropXfer w.rank x (x.done - (x.n - x.offs.length))).modThAt w (fun t => { t with
    pend := clearBit t.pend x.tok.val, outst := t.outst.map (fun o => if o.wait = .tiles x.id then { o with wait := .stopped x.done } else o) })

/-- The thread stands again at a transfer that has been stopped after some tiles, with the window it had (R255, R309). -/
def Thread.standAt (t : Thread) (o : Outst) (younger : List Outst) (done : Nat) : Thread :=
  { t with pc := o.pc, outst := [], resumeTiles := done, xferStop := true, replay := mkReplay (BitVec.ofNat 16 ((lkDone o younger none).toNat * 2)) }

/-- The pre-emption of a gang's member: the task waits for its gang, which is to be placed whole again (R323). -/
def State.parkMember (s : State) (r g : Nat) (k : Task) : State :=
  let s := s.modCore r (fun c => { c with parked := c.parked ++ [{ k with wait := .gang g }] })
  match lookup s.gangs g with
  | some x => if x.placed then { s with gangs := insert s.gangs g { x with placed := false, reserved := [], loadAt := none } } else s
  | none => s

/-- The task of a slot leaves with full context for the head of its level (R35, R308). -/
def State.preemptNow (s : State) (w : Turn) : State :=
  match s.leaveFull w with
  | none => s
  | some (k, s) =>
    match k.gangOf with
    | some (g, _) => s.parkMember w.rank g k
    | none => s.setReady w.rank (insertHead (s.core w.rank).ready { k with since := s.cycle.toNat, aged := 0, wait := .none })

/-- PRE_EMPTION (R309): the slot drains, and the task leaves. A held transfer stops once it is the oldest outstanding
instruction; the frame holds one count, so that a younger one runs to its end (DESIGN CHOICE, log entry 48). -/
def State.preemptStep (s : State) (w : Turn) : Option State :=
  if !s.preemptible w then none
  else
    let t := s.thAt w
    match t.outst with
    | [] => some (s.preemptNow w)
    | o :: younger =>
      match o.wait, s.heldXfer w o with
      | .stopped n, _ =>
        if younger.all (fun y => s.waitOver w y && y.trap.isSome) then some ((s.setThAt w (t.standAt o younger n)).preemptNow w) else none
      | _, some x => some ((s.setThAt w { t with occ := .draining }).stopTransfer w x)
      | _, none => if t.occ = .draining then none else some (s.setThAt w { t with occ := .draining })

def execPreEmption (r n : Nat) (s : State) : Result := .next ((s.preemptStep { rank := r, slot := Fin.ofNat 5 n }).getD s)

/-! ### Gangs (R36, R37, R323) -/

/-- The band that a gang reserves next. -/
def Gang.nextBand (g : Gang) : Option Nat := if g.placed then none else g.bands.find? (fun b => !g.reserved.contains b)

/-- GANG_RESERVATION (R37): the gang's next band, in ascending number, once it is free. -/
def execGangReservation (g b : Nat) (s : State) : Result :=
  match lookup s.gangs g with
  | none => .next s
  | some x =>
    if x.nextBand = some b ∧ (s.band b).resv.isNone then
      let s := (s.wakeBand b).modBand b (fun z => { z with resv := some g, resvAt := s.cycle.toNat })
      .next { s with gangs := insert s.gangs g { x with reserved := x.reserved ++ [b] } }
    else .next s

/-- The running tasks of a core that have not been asked to leave. -/
def State.running (s : State) (r : Nat) : List (Fin 5 × Task) :=
  (s.taskSlots r).filterMap (fun n =>
    let t := s.thAt { rank := r, slot := n }
    if t.occ = .empty ∨ t.preempt then none else t.task.map (fun k => (n, k)))

/-- Of some tasks, those of the lowest priority. -/
def lowest (l : List (Fin 5 × Task)) : List (Fin 5 × Task) :=
  match (l.map (fun x => x.2.eff)).min? with
  | some q => l.filter (fun x => decide (x.2.eff = q))
  | none => []

/-- Every placed member of a gang is asked to leave. -/
def State.removeGang (s : State) (g : Nat) : State :=
  { s with cores := s.cores.map (fun p => (p.1, { p.2 with threads := p.2.threads.map (fun t =>
      if (t.task.bind (·.gangOf)).map (·.1) = some g then { t with preempt := true } else t) })) }

/-- The gang for which a core of a reserved band is late: no empty slot 2^16 cc after the reservation, and no task asked to
leave yet. -/
def State.lateFor (s : State) (r : Nat) : Option Gang :=
  let z := s.band (r / 16)
  match z.resv with
  | none => none
  | some g =>
    if z.resvAt + 2 ^ 16 ≤ s.cycle.toNat ∧ (s.taskSlots r).all (fun n => decide ((s.thAt { rank := r, slot := n }).occ ≠ .empty) && !(s.thAt { rank := r, slot := n }).preempt) then
      (lookup s.gangs g).filter (fun x => !x.placed)
    else none

/-- The choice of R37 and R323 on a core for a gang of a priority. -/
def State.reserveStep (s : State) (r : Nat) : Option State :=
  match s.lateFor r with
  | none => none
  | some g =>
    let p := recPrio g.record
    let run := s.running r
    match latest (lowest (run.filter (fun x => decide (x.2.eff ≤ p) && !x.2.gang))) with
    | some x => some (s.modThAt { rank := r, slot := x.1 } (fun t => { t with preempt := true }))
    | none =>
      let may := run.filter (fun x => decide (x.2.eff ≤ p))
      if may.all (fun x => decide (x.2.eff < p) && decide ((x.2.gangOf.map (·.1)) ≠ some g.launch)) then
        match latest (lowest may) with
        | some x => x.2.gangOf.map (fun y => s.removeGang y.1)
        | none => none
      else none

/-- GANG_RESERVATION_TIMEOUT (R37, R323). -/
def execGangReservationTimeout (r : Nat) (s : State) : Result := .next ((s.reserveStep r).getD s)

/-- The members of a gang that wait, with their cores. -/
def State.gangMembers (s : State) (g : Nat) : List (Nat × Task) :=
  s.cores.flatMap (fun p => (p.2.parked.filter (fun k => decide (k.wait = .gang g))).map (fun k => (p.1, k)))

/-- The lowest empty slot of a core that takes tasks. -/
def State.emptySlot (s : State) (r : Nat) : Option (Fin 5) :=
  (s.taskSlots r).find? (fun n => decide ((s.thAt { rank := r, slot := n }).occ = .empty))

/-- Whether a gang's bands are all reserved, awake, and hold a slot for every member (R36). -/
def State.gangFits (s : State) (g : Nat) (x : Gang) : Bool :=
  !x.placed && decide (x.nextBand = none) && x.bands.all (fun b => decide ((s.band b).power = 0))
    && decide (s.gangMembers g ≠ []) && (s.gangMembers g).all (fun m => (s.emptySlot m.1).isSome)
    && !s.cores.any (fun p => p.2.threads.toList.any (fun t => decide ((t.task.bind (·.gangOf)).map (·.1) = some g)))

/-- A gang's tag, and the cores of its bands. -/
def gangTag (x : Gang) : Nat := recN x.record 0xE 2 % 8

def Gang.ranks (x : Gang) : List Nat := x.bands.flatMap bandRanks

/-- SPAN and GROUP of a gang (R36). -/
def Gang.span (x : Gang) : Nat :=
  if x.bands.length = 1 then 2 else if x.bands.all (fun b => decide (b / 8 = x.bands.headD 0 / 8)) then 3 else 4

def Gang.group (x : Gang) : Nat := x.bands.headD 0 * 16

/-- BMASK of a gang's tag on a core: WD stays, and AC and PC start again (R36, R269). -/
def Core.loadGang (c : Core) (x : Gang) : Core :=
  let tag := gangTag x
  { c with bmask := c.bmask.setIfInBounds tag (withField (withField (c.bmaskOf tag) 16 3 x.span) 0 16 x.group)
           ac := c.ac.setIfInBounds tag 0
           pc := c.pc.setIfInBounds tag 0 }

/-- A member enters the lowest empty slot of its core. -/
def State.placeMember (s : State) (r : Nat) (k : Task) : State :=
  match s.emptySlot r with
  | some n => (s.modCore r (fun c => { c with parked := c.parked.filter (fun y => decide (y.id ≠ k.id)) })).placeTask { rank := r, slot := n } k
  | none => s

/-- The release: BMASK is loaded, every member enters its slot, and the reservations end (R36, R37). -/
def State.releaseGang (s : State) (g : Nat) (x : Gang) : State :=
  let s := x.ranks.foldl (fun s r => s.modCore r (·.loadGang x)) s
  let s := (s.gangMembers g).foldl (fun s m => s.placeMember m.1 m.2) s
  let s := x.bands.foldl (fun s b => s.modBand b (fun z => { z with resv := none })) s
  { s with gangs := insert s.gangs g { x with placed := true, loadAt := none } }

/-- GANG_RELEASE: placed, or the wait for its BMASK load begins; none where neither can be. -/
def State.gangStep (s : State) (g : Nat) : Option State :=
  match lookup s.gangs g with
  | none => none
  | some x =>
    if !s.gangFits g x then none
    else if x.ranks.any (fun r => (s.core r).arrived (gangTag x)) then
      if x.loadAt.isSome then none else some { s with gangs := insert s.gangs g { x with loadAt := some s.cycle.toNat } }
    else some (s.releaseGang g x)

def execGangRelease (g : Nat) (s : State) : Result := .next ((s.gangStep g).getD s)

/-- Whether a gang's load has waited too long on a core (R269), and the threads stalled there can trap. -/
def State.loadLate (s : State) (r g : Nat) : Bool :=
  match lookup s.gangs g with
  | none => false
  | some x =>
    match x.loadAt with
    | none => false
    | some t =>
      x.ranks.contains r && (s.core r).arrived (gangTag x) && decide (t + s.watchdogCycles r (gangTag x) < s.cycle.toNat)
        && ((s.core r).stalledOn (gangTag x)).all (fun n => decide ((s.thAt { rank := r, slot := n }).outst = []))

/-- GANG_BMASK_LOAD_TIMEOUT (R269): the arrival is withdrawn, and threads stalled on it raise BARTO; where every arrival of
the phase is in, the phase completes instead (R270). -/
def execGangBmaskLoadTimeout (r g : Nat) (s : State) : Result :=
  match lookup s.gangs g with
  | none => .next s
  | some x =>
    if !s.loadLate r g then .next s
    else if s.phaseFull r (gangTag x) then .next (s.completePhase r (gangTag x))
    else
      let tag := gangTag x
      let l := (s.core r).stalledOn tag
      let s := s.modCore r (fun c => { c.withdraw tag with sstep := c.sstep.filter (fun p => decide (p.tag ≠ tag) || p.done) })
      .next (l.foldl (fun s n => s.trapAt { rank := r, slot := n } .barTo (word tag) 8) s)

/-! ### Entries at a boundary (R302, R305) -/

/-- TRAP_ENTRY (R302): a trap with handler delivery is taken in a slot once its instructions have finished; WATCHDOG ends
the task, and the other causes are not delivered so (R301). -/
def execTrapEntry (r n : Nat) (c : Cause) (v : Word) (s : State) : Result :=
  let w : Turn := { rank := r, slot := Fin.ofNat 5 n }
  let t := s.thAt w
  if t.occ = .empty ∨ t.outst ≠ [] ∨ t.failing.isSome then .next s
  else match c with
    | .watchdog => .next (s.setThAt w (t.failWith (Cause.byte .watchdog)))
    | .notPresent => .next s
    | .missOvf => .next s
    | c => .next (s.trapAt w c v 0)

/-- INTERRUPT_ENTRY (R302). -/
def execInterruptEntry (r n : Nat) (s : State) : Result :=
  let w : Turn := { rank := r, slot := Fin.ofNat 5 n }
  let t := s.thAt w
  if t.occ ≠ .occupied ∨ t.outst ≠ [] ∨ t.replay.isSome ∨ t.resumeTiles ≠ 0 ∨ t.failing.isSome ∨ t.thermals ≠ [] ∨ w.slot = 4 then .next s
  else match t.nextInterrupt with
    | some (b, v) => .next (s.enterInterrupt w b v)
    | none => .next s

/-- Whether a `wfi` is over (R194, R303). -/
def State.wfiOver (s : State) (w : Turn) : Bool :=
  let t := s.thAt w
  t.wfi && if w.slot = 4 then decide ((s.core w.rank).agent.requests ≠ []) else decide (t.ipend &&& t.ien ≠ 0)

/-- WFI_WAKE (R303). -/
def execWfiWake (r n : Nat) (s : State) : Result :=
  let w : Turn := { rank := r, slot := Fin.ofNat 5 n }
  if s.wfiOver w then .next (s.modThAt w (fun t => { t with wfi := false })) else .next s

/-- OUTSTANDING_INSTRUCTION_COMPLETE (R24, R26); a trap of a task that has failed is not taken. -/
def execOutstandingInstructionComplete (r n : Nat) (s : State) : Result :=
  let w : Turn := { rank := r, slot := Fin.ofNat 5 n }
  if (s.thAt w).failing.isSome then .next s else .next (s.completeOut w)

/-! ### Tasks that fail (R325, R326) -/

/-- Whether a task has run beyond its watchdog: its slot issues nothing more (R326). -/
def State.watchdogOver (s : State) (w : Turn) : Bool :=
  let t := s.thAt w
  match t.task with
  | some k => decide (k.wdog ≠ 0) && decide (k.wdog * 2 ^ 16 < k.ran + (s.cycle.toNat - k.since)) && t.failing.isNone
  | none => false

/-- The same once its outstanding instructions have finished. -/
def State.watchdogDue (s : State) (w : Turn) : Bool := s.watchdogOver w && decide ((s.thAt w).outst = [])

/-- TASK_WATCHDOG_EXPIRY (R326). -/
def execTaskWatchdogExpiry (r n : Nat) (s : State) : Result :=
  let w : Turn := { rank := r, slot := Fin.ofNat 5 n }
  if s.watchdogDue w then .next (s.modThAt w (·.failWith (Cause.byte .watchdog))) else .next s

/-- What a failed task of a core leaves behind is given back (R325 step 6). -/
def State.settleTask (s : State) (r : Nat) (k : Task) : State :=
  let s := if k.weight = 0 then s.countWeightless r k false else { s with msgs := s.msgs ++ [.weight k.launch k.weight] }
  (s.unbindFrame r k.id).freeMitten r k.id

/-- The participant of a task that is gone. -/
def Core.dropParticipant (c : Core) (id : Word) : Core := { c with sstep := c.sstep.filter (fun p => decide (p.task ≠ id) || decide (id = 0)) }

/-- The held transfers of a slot stop, and nothing is kept of them (R325 step 3). -/
def State.stopAll (s : State) (w : Turn) : State :=
  let s := ((s.thAt w).outst.filterMap (s.heldXfer w)).foldl (fun s x => s.stopTransfer w x) s
  s.modThAt w (fun t => { t with outst := t.outst.filter (fun o => match o.wait with
    | .stopped _ => false
    | _ => true) })

/-- The next step of the removal of a failed task in a slot: first its launch hears of it and the slot drains; then, when
its operations have ended, it goes. None where it waits. -/
def State.removeStep (s : State) (w : Turn) : Option State :=
  let t := s.thAt w
  match t.failing with
  | none => none
  | some c =>
    match t.task with
    | none => if t.outst.all (fun o => s.waitOver w o) && decide (t.pend = 0) then some (s.setThAt w t.emptied) else none
    | some k =>
      if k.wait ≠ .failed then
        let s := s.setThAt w { t with occ := .draining, task := some { k with wait := .failed }, replay := none, monWait := none, waitSince := none }
        some ((s.reportFailure k.launch c).stopAll w)
      else if t.outst.all (fun o => s.waitOver w o) && decide (t.pend = 0) then
        some (((s.modCore w.rank (·.dropParticipant k.id)).fenceFlush w.rank 4).endTask w)
      else none

/-- The failed task outside a slot whose operations have ended. -/
def Core.failedOver (c : Core) : Option Task := c.parked.find? (fun k => decide (k.wait = .failed) && decide (k.pend = 0))

/-- TASK_FAILURE_REMOVAL (R325): the failed task of a slot, or else one outside the slots. -/
def execTaskFailureRemoval (r n : Nat) (s : State) : Result :=
  let w : Turn := { rank := r, slot := Fin.ofNat 5 n }
  if (s.thAt w).failing.isSome then .next ((s.removeStep w).getD s)
  else match (s.core r).failedOver with
    | some k =>
      .next (((s.modCore r (fun c => { c with parked := c.parked.filter (fun y => decide (y.id ≠ k.id)) })).fenceFlush r 4).settleTask r k)
    | none => .next s

/-! ### Resolution of faults (R341) -/

/-- A faulted task resumes or fails. -/
def State.resolveTask (s : State) (r : Nat) (k : Task) (ok : Bool) (c : BitVec 8) : State :=
  if ok then (s.modCore r (fun x => { x with parked := x.parked.filter (fun y => decide (y.id ≠ k.id)) })).enqueue r k
  else s.failTask r k c

/-- A task that stayed in its slot resumes or fails. -/
def State.resolveSlot (s : State) (w : Turn) (ok : Bool) (c : BitVec 8) : State :=
  s.modThAt w (fun t => if ok then { t with faultWait := none } else Thread.failWith { t with faultWait := none } c)

/-- An engine's command resumes at its cursor or ends. -/
def State.resolveCmd (s : State) (e : Nat) (c : Cmd) (ok : Bool) (cause : BitVec 8) : State :=
  let x := s.engine e
  let s := s.setEngine e { x with parked := x.parked.erase c, queue := if ok then { c with parkedOn := none } :: x.queue else x.queue }
  if ok then s else s.endCommand c (engineStatus e c.cursor 0 cause.toNat)

/-- An agent's request is served again or answered; requests that resume keep their order. -/
def State.resolveRequest (s : State) (r k : Nat) (rq : Rpc) (ok : Bool) (c : BitVec 8) : State :=
  let again := { rq with stale := rq.stale || decide (rq.tgt.sb.toNat < 0xF0) }
  let s := s.modCore r (fun x => { x with agent := { x.agent with
    parkedReqs := x.agent.parkedReqs.filter (fun p => decide (p ≠ (k, rq)))
    requests := if ok then x.agent.requests ++ [again] else x.agent.requests } })
  if ok then s.wakeAgent r else s.refuseByte rq c

/-- What waits on a fault-queue entry of a partition resumes or fails. -/
def State.resolve (s : State) (p k : Nat) (ok : Bool) (c : BitVec 8) : State :=
  let s := (s.cores.flatMap (fun x => (x.2.parked.filter (fun t => decide (t.wait = .fault p k))).map (fun t => (x.1, t)))).foldl
    (fun s x => s.resolveTask x.1 x.2 ok c) s
  let s := (s.cores.flatMap (fun x => (fourSlots.filter (fun n => decide ((x.2.threads[n]).faultWait = some (p, k)))).map (fun n => ({ rank := x.1, slot := n } : Turn)))).foldl
    (fun s w => s.resolveSlot w ok c) s
  let s := (s.engines.flatMap (fun x => (x.2.parked.filter (fun y => decide (y.parkedOn = some (p, k)))).map (fun y => (x.1, y)))).foldl
    (fun s x => s.resolveCmd x.1 x.2 ok c) s
  (s.cores.flatMap (fun x => if s.partOf x.1 = some p then (x.2.agent.parkedReqs.filter (fun y => decide (y.1 = k))).map (fun y => (x.1, y.2)) else [])).foldl
    (fun s x => s.resolveRequest x.1 k x.2 ok c) s

/-- Whether an entry is live and its RES byte has been stored. -/
def State.faultStored (s : State) (x : Partition) (k : Nat) : Bool :=
  decide (k < 2 ^ x.spec.faultK) && decide (s.peek ((x.faultEntry k).plus 0x1E) 1 ≠ 0) && decide (s.peek ((x.faultEntry k).plus 0x1F) 1 ≠ 0)

/-- Whether an entry is the next to be resolved: the first of its partition whose RES was stored, in the order of the
stores at the home. -/
def State.faultNext (s : State) (p : Nat) (x : Partition) (k : Nat) : Bool :=
  match s.resolves.find? (fun e => decide (e.1 = p) && s.faultStored x e.2) with
  | some e => decide (e.2 = k)
  | none => true

/-- FAULT_RESOLVE (R341). -/
def execFaultResolve (p k : Nat) (s : State) : Result :=
  match s.part p with
  | none => .next s
  | some x =>
    if !s.faultStored x k || !s.faultNext p x k then .next s
    else
      let l := x.faultEntry k
      let ok := decide (s.peek (l.plus 0x1F) 1 = 1)
      let c := BitVec.ofNat 8 (s.peek (l.plus 9) 1)
      let s := { s with resolves := s.resolves.filter (fun e => decide (e ≠ (p, k))) }
      .next ((s.resolve p k ok c).storeAll x.spec.sys l.off [(0x1E, 1, 0), (0x1F, 1, 0)])

end Sys2Proof.Machine
end

