-- ==== Sys2Proof/Machine/BringUp.lean ====
section
/-!
DEFINITION. Package reset and bring-up (R389, R390), and the creation and removal of partitions (R364-R368).
`State.bringUp` is the last step of R390 that has ended.
-/

namespace Sys2Proof.Machine

/-! ### Reset and bring-up (R389, R390) -/

/-- PACKAGE_RESET: every package-scope field at its reset value; the bytes of memory are none of them. -/
def execPackageReset (s : State) : Result := .next { State.reset with mem := s.mem, agenda := s.agenda, tick := s.tick }

/-- The key of the management core's state (DESIGN CHOICE, log entry 62). -/
def monitorCore : Nat := 65536

/-- MONITOR_BOOT (step 1): the monitor's slot is in monitor mode, and every band is power-gated. -/
def execMonitorBoot (s : State) : Result :=
  if s.bringUp ≠ 0 then .next s
  else .next { (s.modThAt { rank := monitorCore, slot := 0 } (fun t => { t with thstat := withField t.thstat 8 2 2 })) with
    pgrant := .replicate 16 0, hqg := [], bands := [], bringUp := 1 }

/-- UCIE_TRAINING (step 2): a bit for each die whose links fail. -/
def execUcieTraining (absent : Nat) (s : State) : Result :=
  if s.bringUp ≠ 1 then .next s
  else .next { s with dies := Vector.ofFn (fun (d : Fin 8) => { s.dies[d] with absent := nbit absent d.val }), bringUp := 2 }

/-- VAULT_TEST (step 3): every vault row is zero with CV = 1, and the repair map is loaded, up to 64 entries a bank: rank, row,
spare. A bank that it fills is logged. -/
def execVaultTest (repairs : List (Nat × Nat × Nat)) (s : State) : Result :=
  if s.bringUp ≠ 2 then .next s
  else
    let s := { s with mem := Memory.clear s.mem 0 0x800000000000 }
    let s := repairs.foldl (fun s x =>
      let v := (s.core x.1).vault
      if 2 ^ 19 ≤ x.2.1 ∨ 64 ≤ x.2.2 ∨ 64 ≤ v.sparesUsed (bankOf x.2.1) then s
      else
        let s := s.modVault x.1 (fun v => { v with repairs := (x.2.1, x.2.2) :: v.repairs })
        if (s.core x.1).vault.sparesUsed (bankOf x.2.1) = 64 then s.logError x.1 14 0 (word (x.2.1 * 0x800)) (bankOf x.2.1) else s) s
    .next { s with bringUp := 3 }

/-- A link that trains at a generation common to its ends, at its highest rate; else down (R380). -/
def trainedLink (gen : Nat) : Link :=
  match linkRates gen with
  | r :: _ => { gen := gen, rate := r, up := true }
  | [] => .reset

/-- CUFFLINK_NEGOTIATION (step 4): RANK.DEV, and the generation of each link; 0 where none is common. -/
def execCufflinkNegotiation (dev : Nat) (gens : List Nat) (s : State) : Result :=
  if s.bringUp ≠ 3 then .next s
  else
    let links : Vector Link 12 := Vector.ofFn (fun (l : Fin 12) => trainedLink (gens.getD l.val 0))
    let d := dev % 64
    -- the cores of the package carry the device number in their ranks
    let cores := s.cores.map (fun (p : Nat × Core) => if p.1 < 65536 then (d * 1024 + p.1 % 1024, p.2) else p)
    .next { s with dev := d, links := links, fabric := links.toList.any (fun y => y.up), cores := cores, bringUp := 4 }

/-- HOST_ENUMERATION (step 5): the ports that have trained answer. -/
def execHostEnumeration (s : State) : Result :=
  if s.bringUp ≠ 4 then .next s
  else .next { s with ports := s.ports.map (fun p => { p with enumerated := decide (p.ver ≠ 0) }), bringUp := 5 }

/-! ### Creation (R364, R365) -/

/-- Whether the ranges of two partitions' counters meet. -/
def countersMeet (a b : PartSpec) : Bool :=
  decide (a.counterBase < b.counterBase + b.counterCount) && decide (b.counterBase < a.counterBase + a.counterCount)

/-- Whether a partition can be created (R364): each resource exists and belongs to no other. -/
def State.specOk (s : State) (x : PartSpec) : Bool :=
  decide (5 ≤ s.bringUp) && decide (x.id < 16) && (s.part x.id).isNone && decide (x.bands ≠ []) && decide x.bands.Nodup
    && x.bands.all (fun b => decide (b < 64) && !(s.dies.getD (b / 8) .reset).absent && s.parts.all (fun p => !p.2.spec.bands.contains b))
    && decide (x.sys / 1024 = s.dev) && x.bands.contains (x.sys / 16 % 64)
    && decide (x.engines ≠ []) && x.engines.all (fun e => decide (e < 96) && (s.engine e).part.isNone)
    && x.queues.all (fun q => decide (q.1 < 4096) && decide (q.2 ≤ 65535) && (s.queue q.1).bound.isNone)
    && x.queues.all (fun q => decide (q.2 = 0) || (match lookup x.overflow q.1 with
      | some o => decide (o + 64 * q.2 ≤ 0x3E000000)
      | none => false))
    && decide (x.poolOff + 32 * x.pool ≤ 0x3E000000)
    && x.redundant.all (fun q => (x.queues.map (·.1)).contains q) && (decide (x.redundant = []) || bit (s.grant x.id) 5)
    && decide (x.counterBase + x.counterCount ≤ 16384) && s.parts.all (fun p => decide (x.counterCount = 0) || decide (p.2.spec.counterCount = 0) || !countersMeet p.2.spec x)
    -- shares are whole GiB, the second tier's less 1/64 for its check values; journals come with PGRANT.CKPT
    && decide (x.tierFrames % 16128 = 0) && decide (x.hostFrames % 16384 = 0) && (decide (x.journalRows = 0) || bit (s.grant x.id) 4)
    && decide (6 ≤ x.faultK) && decide (x.faultK ≤ 16) && decide (x.faultOff + 32 * 2 ^ x.faultK ≤ 0x3E000000)
    && decide (x.mailbox % 8 = 0) && decide (x.mailbox + 8 ≤ 0x40000000)

/-- What a vault keeps when its band is gated or leaves reset: its rows' errors, repair map and level. -/
def Vault.kept (v : Vault) : Vault :=
  { v with openRows := [], burst := none, waiting := [], zero := [], locks := [], journal := [], unprotected := [], inflight := [] }

/-- A core in band reset (R389): every field at its reset value, but for its vault's rows and its error log. -/
def Core.fresh (c : Core) (partid : Word) : Core := { Core.reset with partid := partid, log := c.log, vault := c.vault.kept }

/-- Entries 32-255 of an agent's handler table hold all ones: no handler (R287). -/
def State.clearHandlers (s : State) (r : Nat) : State := s.poke { region := .agentData, home := r, off := 0xF900 } 0x700 (2 ^ 0x3800 - 1)

/-- A band joins a partition: its cores leave band reset. -/
def State.startBand (s : State) (x : PartSpec) (b : Nat) : State :=
  let s := s.setBand b { Band.reset with power := 0, cycle := s.cycle.toNat / 2 * 2 }
  (bandRanks b).foldl (fun s r => (s.modCore r (fun c => c.fresh (word (x.id + ofBool (decide (r = x.sys)) * 16)))).clearHandlers r) s

/-- The system core starts supervisor code in slot 0 (R292, R390). -/
def State.startSystem (s : State) (x : PartSpec) : State :=
  s.modThAt { rank := x.sys, slot := 0 } (fun t => { t with occ := .occupied, pc := x.pc, thstat := withField t.thstat 8 2 1 })

/-- PARTITION_CREATION (step 6, R364, R365). -/
def execPartitionCreation (x : PartSpec) (s : State) : Result :=
  if !s.specOk x then .next s
  else
    let s := x.bands.foldl (fun s b => s.startBand x (s.dev * 64 + b)) s
    let s := x.engines.foldl (fun s e => s.setEngine e { Engine.reset with part := some x.id }) s
    let s := x.queues.foldl (fun s q => s.setQueue q.1
      { WorkQueue.reset with bound := some x.id, ovcap := q.2, redundant := x.redundant.contains q.1, drops := (s.queue q.1).drops }) s
    let p : Partition := { spec := x, faultTail := 0, ptr := .replicate 8 0, next := 0 }
    let s := { s with
      joins := s.joins.filter (fun j => decide (j.1 < x.counterBase) || decide (x.counterBase + x.counterCount ≤ j.1))
      parts := insert s.parts x.id p, bringUp := 6 }
    .next (s.startSystem x)

/-! ### Removal (R368) -/

/-- Every task of a core ends as failed with WATCHDOG, and its weight returns. -/
def State.endTasks (s : State) (r : Nat) : State :=
  let c := s.core r
  (c.threads.toList.filterMap (·.task) ++ c.ready ++ c.parked).foldl (fun s k =>
    let s := if k.wait = .failed then s else s.reportFailure k.launch (Cause.byte .watchdog)
    if k.weight = 0 then s else { s with msgs := s.msgs ++ [.weight k.launch k.weight] }) s

/-- A command of an engine that is withdrawn, or whose agent is, ends with TOKERR (R301, R329). -/
def State.loseCommand (s : State) (c : Cmd) : State :=
  let s := c.held.foldl (fun s h => s.unhold h.1 h.2) (s.received c.rank (domKey c.domain))
  { s with statuses := s.statuses ++ [{ statusFor { rank := c.rank, slot := c.slot } c.task c.tok c.domain 0 with lost := true }] }

/-- A status that an agent owed when it was reset is lost (R301). -/
def State.loseReply (s : State) (rq : Rpc) : State :=
  match rq.engine with
  | none => { s with statuses := s.statuses ++ [rq.lostStatus] }
  | some e =>
    let x := s.engine e
    match x.active with
    | some c => (s.loseCommand c).setEngine e { x with active := none }
    | none => s

/-- The statuses that an agent owes when it goes are lost (R301): those of its requests, of its handler, of its bank-MAC
program and of a migration. -/
def State.loseAll (s : State) (r : Nat) : State :=
  let a := (s.core r).agent
  let l := a.requests ++ a.held ++ a.resend.map (·.2) ++ a.parkedReqs.map (·.2) ++ (if a.replied then [] else a.current.toList) ++ (a.moving.map (·.rq)).toList
    ++ (a.mac.bind (·.reply)).toList
  l.foldl (fun s rq => s.loseReply rq) s

/-- A core leaves its partition: tasks, reductions, requests, then its clocks. -/
def State.dropCore (s : State) (r : Nat) : State :=
  let s := ((s.endTasks r).flushRed r (fun _ => true)).loseAll r
  let s := s.modCore r (fun c => c.fresh 0)
  { s with nets := s.nets.filter (fun n => decide (n.rank ≠ r)), statuses := s.statuses.filter (fun x => decide (x.rank ≠ r) || decide (x.task ≠ 0)) }

/-- An engine leaves its partition. -/
def State.withdrawEngine (s : State) (e : Nat) : State :=
  let x := s.engine e
  let s := (x.active.toList ++ x.shadow.toList ++ x.queue ++ x.parked).foldl (fun s c => s.loseCommand c) (s.leaveTree e)
  s.setEngine e .reset

/-- Gangs not yet placed that need a removed band: their members elsewhere fail with the others. -/
def State.failGangs (s : State) (bands : List Nat) : State :=
  let gone := (s.gangs.filter (fun g => !g.2.placed && g.2.bands.any (fun b => bands.contains b))).map (·.1)
  let member := fun (k : Task) => match k.wait with
    | .gang g => gone.contains g
    | _ => false
  s.cores.foldl (fun s p => s.failTasks p.1 member (Cause.byte .watchdog)) s

/-- The hand-off queues held on some bands are disabled. -/
def State.disableQueues (s : State) (bands : List Nat) : State :=
  { s with hqg := s.hqg.map (fun h => if bands.contains (field h.2 48 16 / 16) then (h.1, clearBit h.2 0) else h) }

/-- The queues of a partition freeze. -/
def State.freezeAll (s : State) (p : Nat) : State :=
  (s.queues.filter (fun q => decide (q.2.bound = some p))).foldl (fun s q => s.freezeQueue q.1 (Cause.byte .watchdog)) s

/-- A partition that has no band left gives everything back. -/
def State.destroy (s : State) (p : Nat) (x : Partition) : State :=
  let s := x.spec.engines.foldl (fun s e => s.withdrawEngine e) s
  { s with
    parts := erase s.parts p
    queues := s.queues.map (fun q => if q.2.bound = some p then (q.1, { WorkQueue.reset with drops := q.2.drops }) else q)
    terms := s.terms.filter (fun t => decide (t.2.part ≠ p))
    gangs := s.gangs.filter (fun g => decide (g.2.part ≠ p))
    redundants := s.redundants.filter (fun d => decide (d.2.part ≠ p)) }

/-- PARTITION_REMOVAL (R368): some bands of a partition, or, with its system core's band or with all of them, the partition. -/
def execPartitionRemoval (p : Nat) (bands : List Nat) (s : State) : Result :=
  match s.part p with
  | none => .next s
  | some x =>
    let all := bands.contains (x.spec.sys / 16 % 64)
    let gone := if all then x.spec.bands else x.spec.bands.filter (fun b => bands.contains b)
    let keys := gone.map (fun b => s.dev * 64 + b)
    let s := if all then s.freezeAll p else s
    let s := keys.foldl (fun s b => (bandRanks b).foldl (fun s r => s.dropCore r) s) s
    let s := (s.failGangs keys).disableQueues keys
    let s := if all then s.destroy p x
      else { s with parts := insert s.parts p { x with spec := { x.spec with bands := x.spec.bands.filter (fun b => !gone.contains b) } } }
    .next (keys.foldl (fun s b => s.setBand b .reset) s)

end Sys2Proof.Machine
end

