-- ==== Sys2Proof/Machine/VectorMask.lean ====
section
/-!
DEFINITION. Compares, mask algebra and selection, permutes, and moves between files (R205, R206, R214, R220).
-/

namespace Sys2Proof.Machine

/-! ### Compares (R205) -/

/-- A mask named in bits [2:0] of a register field. -/
def maskField (r : Reg) : Fin 8 := Fin.ofNat 8 r.val

/-- The bits of a compare's destination: active ones set or clear, inactive ones kept. -/
def mergedBits : List Bool → List Bool → List (Bool × Flags) → List Bool × Flags
  | a :: as, o :: os, r :: rs =>
    let x := mergedBits as os rs
    if a then (r.1 :: x.1, r.2 ||| x.2) else (o :: x.1, x.2)
  | _, _, _ => ([], 0)

/-- A compare of va and vb into mask vd[2:0]; bits from n upward are 0. -/
def vcompare (i : Instr) (f : FmtV) (ok : ElemType → Bool) (g : ElemType → Nat → Nat → Bool × Flags) : State → Result :=
  run do
    let ty := elemType f.et
    if !ok ty then illegal i
    let t ← thread
    let md := maskField f.vd
    let r := mergedBits (maskBits (t.governing f.msk) ty.count) (maskBits (t.mget md) ty.count)
      (((ty.elems (t.vget f.va)).zip (ty.elems (t.vget f.vb))).map (fun p => g ty p.1 p.2))
    fpWrite r.2 (fun t => t.mput md (maskOf r.1))
    updTh (·.warnIf .fmt (decide (f.md ≠ 0) || decide (8 ≤ f.vd.val)))

/-- NV for a signalling NaN among the operands. -/
def nvSignalling (x y : Num) : Flags := if x.isSnan || y.isSnan then flagNV else 0

/-- NV for any NaN among the operands. -/
def nvAny (x y : Num) : Flags := if x.isNan || y.isNan then flagNV else 0

/-- A compare by values for floating types and by integers for the others. -/
def compareBy (gf : Num → Num → Bool × Flags) (gi : Int → Int → Bool) (ty : ElemType) (a b : Nat) : Bool × Flags :=
  match ty with
  | .float F => gf (F.value a) (F.value b)
  | _ => (gi (ty.toInt a) (ty.toInt b), 0)

def execVeq (f : FmtV) : State → Result :=
  vcompare (.veq f) f etAllButCb2 (compareBy (fun x y => (Num.eq x y, nvSignalling x y)) (fun a b => a == b))
def execVne (f : FmtV) : State → Result :=
  vcompare (.vne f) f etAllButCb2 (compareBy (fun x y => (!Num.eq x y, nvSignalling x y)) (fun a b => a != b))
def execVlt (f : FmtV) : State → Result :=
  vcompare (.vlt f) f etAllButCb2 (compareBy (fun x y => (Num.lt x y, nvAny x y)) (fun a b => decide (a < b)))
def execVle (f : FmtV) : State → Result :=
  vcompare (.vle f) f etAllButCb2
    (compareBy (fun x y => (Num.lt x y || Num.eq x y, nvAny x y)) (fun a b => decide (a ≤ b)))
def execVunord (f : FmtV) : State → Result :=
  vcompare (.vunord f) f ElemType.isFloat
    (compareBy (fun x y => (x.isNan || y.isNan, nvSignalling x y)) (fun _ _ => false))

/-- `vclass`: the class mask of a against bits [11:0] of vb (R180, R205). -/
def execVclass (f : FmtV) (s : State) : Result :=
  let k := (s.th.vget f.vb).toNat % 2 ^ 12
  vcompare (.vclass f) f ElemType.isFloat (fun ty a _ =>
    match ty with
    | .float F => (decide (F.classMask a &&& k ≠ 0), 0)
    | _ => (false, 0)) s

/-! ### Selection and mask algebra (R206) -/

/-- A member that raises no flag: its effect, then WARN.FMT where md is non-zero. -/
def plainV (f : FmtV) (g : Thread → Thread) : State → Result :=
  simple (fun t => (g t).warnIf .fmt (decide (f.md ≠ 0)))

/-- `vsel`: the mask selects and does not merge. -/
def execVsel (f : FmtV) : State → Result :=
  plainV f (fun t =>
    let ty := elemType f.et
    let pick := (maskBits (t.governing f.msk) ty.count).zip ((ty.elems (t.vget f.va)).zip (ty.elems (t.vget f.vb)))
    t.vput f.vd (ty.reg (pick.map (fun p => if p.1 then p.2.1 else p.2.2))))

/-- A member of the mask algebra on all 1024 bits. -/
def maskOp (g : MReg → MReg → MReg) (f : FmtV) : State → Result :=
  plainV f (fun t => t.mput (maskField f.vd) (g (t.mget (maskField f.va)) (t.mget (maskField f.vb))))

def execMand : FmtV → State → Result := maskOp (· &&& ·)
def execMor : FmtV → State → Result := maskOp (· ||| ·)
def execMxor : FmtV → State → Result := maskOp (· ^^^ ·)
def execMnot : FmtV → State → Result := maskOp (fun a _ => ~~~a)

/-- The bits of ma and mj below n. -/
def Thread.bothMasks (t : Thread) (f : FmtV) : List Bool :=
  maskBits (t.mget (maskField f.va) &&& t.governing f.msk) (elemType f.et).count

def execMpopc (f : FmtV) : State → Result :=
  plainV f (fun t => t.putInt f.vd (word ((t.bothMasks f).countP id)))

/-- The place of the first set bit. -/
def firstSet : List Bool → Nat → Option Nat
  | [], _ => none
  | b :: r, i => if b then some i else firstSet r (i + 1)

def execMfirst (f : FmtV) : State → Result :=
  plainV f (fun t => t.putInt f.vd (match firstSet (t.bothMasks f) 0 with | some i => word i | none => BitVec.allOnes 64))

/-! ### Permutes (R214) -/

/-- X[i]: vb's 16-bit unit i mod 256. -/
def unit16 (x : VReg) (i : Nat) : Nat := x.toNat / 2 ^ (16 * (i % 256)) % 2 ^ 16

/-- A permute: element i by index, active elements written, inactive merged. -/
def permute (f : FmtV) (g : ElemType → VReg → VReg → Nat → Nat) : State → Result :=
  plainV f (fun t =>
    let ty := elemType f.et
    let a := t.vget f.va
    let b := t.vget f.vb
    t.vput f.vd (ty.reg (merged (maskBits (t.governing f.msk) ty.count) (ty.elems (t.vget f.vd))
      ((List.range ty.count).map (fun i => (g ty a b i, 0)))).1))

def execVperm (f : FmtV) : State → Result :=
  permute f (fun ty a b i => ty.elem a (i - i % 256 + unit16 b i % min ty.count 256))
def execVslup (f : FmtV) : State → Result :=
  permute f (fun ty a b i => if unit16 b 0 ≤ i then ty.elem a (i - unit16 b 0) else 0)
def execVsldn (f : FmtV) : State → Result :=
  permute f (fun ty a b i => if i + unit16 b 0 < ty.count then ty.elem a (i + unit16 b 0) else 0)
def execVbcast (f : FmtV) : State → Result :=
  permute f (fun ty a b _ => ty.elem a (unit16 b 0 % ty.count))
def execVzip (f : FmtV) : State → Result :=
  permute f (fun ty a b i => if i % 2 = 0 then ty.elem a (i / 2) else ty.elem b ((i - 1) / 2))
def execVunzip (f : FmtV) : State → Result :=
  permute f (fun ty a _ i =>
    if i < ty.count / 2 then ty.elem a (2 * i) else ty.elem a (2 * (i - ty.count / 2) + 1))

/-- The active elements in order. -/
def selected : List Bool → List Nat → List Nat
  | b :: bs, x :: xs => if b then x :: selected bs xs else selected bs xs
  | _, _ => []

/-- `vcmprs`: active elements packed, the rest zero. -/
def execVcmprs (f : FmtV) : State → Result :=
  plainV f (fun t =>
    let ty := elemType f.et
    t.vput f.vd (ty.reg (selected (maskBits (t.governing f.msk) ty.count) (ty.elems (t.vget f.va)))))

/-- The r-th active slot takes the r-th of a list; inactive slots keep theirs. -/
def expanded : List Bool → List Nat → List Nat → List Nat
  | b :: bs, o :: os, xs =>
    if b then (match xs with
      | x :: r => x :: expanded bs os r
      | [] => o :: expanded bs os [])
    else o :: expanded bs os xs
  | _, _, _ => []

def execVexpnd (f : FmtV) : State → Result :=
  plainV f (fun t =>
    let ty := elemType f.et
    t.vput f.vd (ty.reg (expanded (maskBits (t.governing f.msk) ty.count) (ty.elems (t.vget f.vd)) (ty.elems (t.vget f.va)))))

/-! ### Moves (R220) -/

/-- Active elements take values, inactive ones merge. -/
def Thread.fill (t : Thread) (f : FmtV) (g : Nat → Nat) : Thread :=
  let ty := elemType f.et
  t.vput f.vd (ty.reg (merged (maskBits (t.governing f.msk) ty.count) (ty.elems (t.vget f.vd))
    ((List.range ty.count).map (fun i => (g i, 0)))).1)

def execVsplat (f : FmtV) : State → Result :=
  plainV f (fun t => t.fill f (fun _ => (t.val f.va).toNat % 2 ^ (elemType f.et).memBits))

/-- `vgetel`: sign-extended for signed integers, else zero-extended (R47). -/
def execVgetel (f : FmtV) : State → Result :=
  plainV f (fun t =>
    let ty := elemType f.et
    let e := ty.elem (t.vget f.va) ((t.val f.vb).toNat % ty.count)
    t.putInt f.vd (word (match ty with
      | .int _ => intBits 64 (ty.toInt e)
      | _ => e)))

def execVsetel (f : FmtV) : State → Result :=
  plainV f (fun t =>
    let ty := elemType f.et
    t.vput f.vd (ty.reg ((ty.elems (t.vget f.vd)).set ((t.val f.vb).toNat % ty.count) ((t.val f.va).toNat % 2 ^ ty.memBits))))

/-- `vid`: exact for F, modulo 2^w for I. -/
def execVid (f : FmtV) : State → Result :=
  run do
    let ty := elemType f.et
    if !etFI ty then illegal (.vid f)
    updTh (fun t => (t.fill f (fun i => match ty with
      | .float F => (F.round 0 (Num.ofInt i) 0).1
      | _ => i % 2 ^ ty.memBits)).warnIf .fmt (decide (f.md ≠ 0)))

def execM2v (f : FmtV) : State → Result :=
  plainV f (fun t => t.fill f (fun i => if (t.mget (maskField f.va)).getLsbD i then 2 ^ (elemType f.et).memBits - 1 else 0))

def execV2m (f : FmtV) : State → Result :=
  plainV f (fun t => t.mput (maskField f.vd) (maskOf (((elemType f.et).elems (t.vget f.va)).map (fun e => decide (e ≠ 0)))))

end Sys2Proof.Machine
end

