-- ==== Sys2Proof/Machine/Hazard.lean ====
section
/-!
DEFINITION. The registers, accumulators and queues that each instruction reads and writes (R25, R155): what the
scoreboard, the lookahead windows and the register checks of R352 look at. A token register that an instruction names
is written, and is no part of the destination of R25.
-/

namespace Sys2Proof.Machine

/-- What an instruction touches. -/
structure Uses where
  reads : List Res
  writes : List Res
  deriving DecidableEq, Repr

/-- An instruction that touches no register. -/
def usesNone : Uses := { reads := [], writes := [] }

/-- Scalar sources and destinations. -/
def usesS (r w : List Reg) : Uses := { reads := r.map .s, writes := w.map .s }

/-- What stands beside another reading. -/
def Uses.and (u : Uses) (r : List Res) : Uses := { u with reads := u.reads ++ r }

/-- A mask register named by a field. -/
def maskRes (r : Reg) : Res := .m (maskField r)

/-- The governing mask of a word. -/
def governRes (k : Fin 4) : Res := .m ⟨k.val, by omega⟩

/-- The destination group of k registers (R197). -/
def groupRes (vd : Reg) (k : Nat) : List Res := (List.range k).map (fun i => .v (Fin.ofNat 32 (groupBase vd k + i)))

/-- An F-V member: its sources, its mask, and the old destination where lanes merge or accumulate (R196). -/
def usesV (f : FmtV) (src : List Res) (dst : List Res) (acc : Bool) : Uses :=
  { reads := src ++ [governRes f.msk] ++ (if acc || decide (f.msk ≠ 0) then dst else []), writes := dst }

/-- Two vector sources. -/
def usesVV (f : FmtV) (acc : Bool) : Uses := usesV f [.v f.va, .v f.vb] [.v f.vd] acc

/-- The destination of a widening member; a 64-bit source takes the plain form (R162). -/
def wideRes (f : FmtV) (k : Nat) : List Res :=
  if elemType f.et = .float f64 ∨ elemType f.et = .int 64 then [.v f.vd] else groupRes f.vd k

/-- The destination of a conversion (R207). -/
def vcvtRes (f : FmtVcvt) : List Res :=
  let k := (elemType f.et).count / max 1 (elemType f.det).count
  if 1 < k then groupRes f.vd k else [.v f.vd]

/-- The accumulators of a name, and its bound queue. -/
def accRes (t : Thread) (r : Reg) : List Res := (t.accGroup (Fin.ofNat 8 r.val)).map .acc
def boundQueue (t : Thread) (r : Reg) : Res := .q (t.acc (Fin.ofNat 8 r.val)).q

/-- A matrix operation: sPos, its accumulator, and the queue that feeds it where no mitten tile does (R234). -/
def usesMat (t : Thread) (f : FmtX) : Uses :=
  let queue := if bit (t.acc (Fin.ofNat 8 f.x.val)).bind 19 then [] else [boundQueue t f.x]
  { reads := .s f.y :: queue ++ accRes t f.x, writes := accRes t f.x }

/-- The registers that a `spawn` copies (R192). -/
def liveRegs (t : Thread) (f : FmtA) : List Reg :=
  let live := (trimLive (BitVec.ofNat 32 (t.val f.d).toNat) none).1
  ((List.range 32).filter (fun n => live.getLsbD n)).map (Fin.ofNat 32)

/-- The destination of a drain (R238). -/
def drainUses (t : Thread) (f : FmtX) : Uses :=
  let ctl := t.val f.x
  let bytes := match drainType (field ctl 0 4) with
    | some ty => 128 * ty.memBits
    | none => 0
  { reads := .s f.x :: accRes t f.y ++ (if f.fl.val % 4 = 1 then [.s f.z] else []),
    writes := drainRes f bytes ++ accRes t f.y }

/-- What each instruction reads and writes. -/
def usesOf (t : Thread) : Instr → Uses
  -- scalar
  | .add f | .sub f | .and f | .or f | .xor f | .sll f | .srl f | .sra f | .slt f | .sltu f | .min f | .max f | .minu f
  | .maxu f | .mul f | .mulh f | .mulhu f | .div f | .divu f | .rem f | .remu f | .pmk f | .padd f | .prank f =>
    usesS [f.a, f.b] [f.d]
  | .clz f | .ctz f | .popc f | .ptag f | .pclr f | .pchk f => usesS [f.a] [f.d]
  | .addi f | .andi f | .ori f | .xori f | .slti f | .sltiu f | .paddi f | .jalr f => usesS [f.a] [f.d]
  | .lui f => usesS [] [f.d]
  | .lsi f => usesS [f.d] [f.d]
  | .slli f | .srli f | .srai f => usesS [f.a] [f.d]
  | .fadd f | .fsub f | .fmul f | .fdiv f | .fmin f | .fmax f | .feq f | .flt f | .fle f | .fsgnj f | .fsgnjn f =>
    usesS [f.a, f.b] [f.d]
  | .fmadd f | .fmsub f => usesS [f.a, f.b, f.d] [f.d]
  | .fsqrt f | .fclass f | .fcvtf f | .fcvtfi f | .fcvtif f => usesS [f.a] [f.d]
  | .ld f => usesS [f.a] [f.d]
  | .st f => usesS [f.a, f.d] []
  | .amoCas f => usesS [f.a, f.b, f.d] [f.d]
  | .amoSwap f | .amoAdd f | .amoAnd f | .amoOr f | .amoXor f | .amoSmin f | .amoSmax f | .amoUmin f | .amoUmax f
  | .amoFadd f | .amoFmin f | .amoFmax f => usesS [f.a, f.b] [f.d]
  | .redAdd f | .redFadd f | .redSmin f | .redSmax f | .redFmin f | .redFmax f => usesS [f.a, f.b] []
  | .beq f | .bne f | .blt f | .bge f | .bltu f | .bgeu f => usesS [f.a, f.b] []
  | .jal f => usesS [] [f.d]
  | .crrd f => usesS [] [f.d]
  | .crwr f => usesS [f.a] []
  | .crxch f => usesS [f.a] [f.d]
  | .spawn f => usesS (f.a :: f.b :: f.d :: liveRegs t f) []
  -- the token of a park is the one pending register that it may name
  | .park f | .parkMig f => usesS [f.d] []
  | .rdcyc f | .rank f => usesS [] [f.d]
  -- vectors
  | .vadd f | .vsub f | .vmul f | .vmin f | .vmax f | .vsgnj f | .vand f | .vor f | .vxor f | .vsll f | .vsrl f
  | .vsra f | .vadds f | .vsubs f | .vperm f | .vslup f | .vsldn f | .vbcast f | .vzip f => usesVV f false
  | .vfma f | .vfms f | .vfnma f | .vdot2 f | .vdot4 f => usesVV f true
  | .vabs f | .vneg f | .vunzip f => usesV f [.v f.va] [.v f.vd] false
  | .vcmprs f => { reads := [.v f.va, governRes f.msk], writes := [.v f.vd] }
  | .vexpnd f => usesV f [.v f.va] [.v f.vd] true
  | .vwmul f => usesV f [.v f.va, .v f.vb] (wideRes f 2) false
  | .vwfma f => usesV f [.v f.va, .v f.vb] (wideRes f 2) true
  | .vqfma f => usesV f [.v f.va, .v f.vb] (wideRes f 4) true
  | .veq f | .vne f | .vlt f | .vle f | .vunord f | .vclass f => usesV f [.v f.va, .v f.vb] [maskRes f.vd] false
  | .vsel f => { reads := [.v f.va, .v f.vb, governRes f.msk], writes := [.v f.vd] }
  | .mand f | .mor f | .mxor f => { reads := [maskRes f.va, maskRes f.vb], writes := [maskRes f.vd] }
  | .mnot f => { reads := [maskRes f.va], writes := [maskRes f.vd] }
  | .mpopc f | .mfirst f => { reads := [maskRes f.va, governRes f.msk], writes := [.s f.vd] }
  | .vcvt f =>
    { reads := [.v f.va, governRes f.msk] ++ (if f.msk ≠ 0 then vcvtRes f else []), writes := vcvtRes f }
  | .vqnt f | .vdqnt f => { reads := [.v f.va], writes := [.v f.vd] }
  | .vcbdec f => { reads := .v f.va :: (if nbit f.vb.val 2 then [.v 30, .v 31] else []), writes := [.v f.vd] }
  | .vexp2 f | .vlog2 f | .vrcp f | .vrsqrt f | .vsqrt f | .vsinpi f | .vtanh f => { reads := [.v f.va], writes := [.v f.vd] }
  | .vdiv f => { reads := [.v f.va, .v f.vb], writes := [.v f.vd] }
  | .vrsum f | .vrmin f | .vrmax f | .vscan f => { reads := [.v f.va, maskRes f.vb], writes := [.v f.vd] }
  | .netred f | .netbc f => { reads := [.v f.va], writes := [.v f.vd] }
  | .vld f => { reads := [.s f.va], writes := [.v f.vd] }
  | .vlds f => { reads := [.s f.va, .s f.vb], writes := [.v f.vd] }
  | .vldx f => { reads := [.s f.va, .v f.vb], writes := [.v f.vd] }
  | .vst f => { reads := [.s f.va, .v f.vd], writes := [] }
  | .vsts f => { reads := [.s f.va, .s f.vb, .v f.vd], writes := [] }
  | .vstx f => { reads := [.s f.va, .v f.vb, .v f.vd], writes := [] }
  | .vsplat f => usesV f [.s f.va] [.v f.vd] false
  | .vgetel f => { reads := [.v f.va, .s f.vb], writes := [.s f.vd] }
  | .vsetel f => { reads := [.s f.va, .s f.vb, .v f.vd], writes := [.v f.vd] }
  | .vid f => usesV f [] [.v f.vd] false
  | .m2v f => usesV f [maskRes f.va] [.v f.vd] false
  | .v2m f => { reads := [.v f.va], writes := [maskRes f.vd] }
  -- tensors, matrices, queues
  | .tdef f => usesS [f.x, f.y] []
  | .tinv f => usesS [f.x] []
  | .tqry f => usesS [f.y] [f.x]
  | .mstat f => usesS [f.x, f.y, f.z] []
  | .munst f => usesS [f.x] []
  | .mwr f =>
    if nbit f.fl.val 0 then usesS [f.x, f.y, f.z] []
    else { reads := [.s f.x, .s f.y, .q f.z.val], writes := if nbit f.fl.val 1 then [.q f.z.val] else [] }
  | .mrd f =>
    if nbit f.fl.val 0 then usesS [f.x, f.y, f.z] []
    else { reads := [.s f.x, .s f.y], writes := [.q f.z.val] }
  | .mmac f | .mmul f | .mmacSp f => usesMat t f
  | .mgang f => (usesMat t f).and [.s f.z]
  | .mbind f => { reads := [.s f.z], writes := accRes t f.x }
  | .mzero f => { reads := [], writes := accRes t f.x }
  | .mdrain f => drainUses t f
  | .mchk f => { reads := accRes t f.y, writes := .s f.x :: accRes t f.y }
  | .mfix f => { reads := (if nbit f.fl.val 0 then [.s f.y] else []) ++ accRes t f.x, writes := accRes t f.x }
  | .qcfg f => { reads := [.s f.y, .s f.z], writes := [.q f.x.val] }
  | .qhead f | .qtail f => { reads := [.q f.y.val], writes := [.s f.x] }
  | .qpop f => { reads := [.s f.z], writes := [.s f.x, .q f.y.val] }
  | .qpush f => { reads := [.s f.y], writes := [.q f.x.val] }
  -- bands and pairs
  | .binj f => usesS [f.x, f.y] []
  | .bset f => usesS [f.y, f.z] [f.x]
  | .bclr f => usesS [f.y] [f.x]
  | .bmiss f => usesS [] [f.x]
  | .bstat f => usesS [f.y] [f.x]
  | .pget f => usesS [f.y, f.z] [f.x]
  | .prel _ => usesNone
  -- vault, remote and engine operations
  | .tld f | .tst f => { reads := [.s f.a], writes := [.q f.q.val, .s f.t] }
  | .ract f | .rpre f => usesS [f.a] []
  | .discard f => usesS [f.a] [f.t]
  | .rcall f | .rcallp f => usesS [f.a] [f.t]
  | .ecmd f => usesS [f.a] [f.t]
  | .eqry f => usesS [] [f.t]
  | .ecan _ => usesNone
  -- synchronisation
  | .barr _ | .prst _ => usesNone
  | .bwait f | .bmask f | .pwait f | .sstep f => usesS [] [f.d]
  | .monArm f => usesS [f.a] []
  | .monWait f => usesS [] [f.d]
  | .monWaitne f => usesS [f.a, f.d] [f.d]
  -- the agent major
  | .mvp f | .abank f | .areply f => usesS [f.reg] []
  | .mvr f | .trig f => usesS [] [f.reg]
  -- no register; events are no instructions of a thread
  | _ => usesNone

/-! ### What stands in the way -/

/-- The register numbers among what an instruction touches. -/
def scalarOf : Res → Option Reg
  | .s r => some r
  | .v _ => none | .m _ => none | .acc _ => none | .q _ => none | .mem _ _ => none

/-- A token register that is still pending stands in the way (R24). -/
def Thread.scoreboard (t : Thread) (u : Uses) : Bool :=
  (u.reads ++ u.writes).any (fun x => match scalarOf x with
    | some r => t.pend.getLsbD r.val
    | none => false)

/-- An outstanding instruction whose destination is touched (R25); s0 is nobody's destination (R171). -/
def Thread.lookaheadHit (t : Thread) (u : Uses) : Bool :=
  t.outst.any (fun o => o.dest.any (fun d => decide (d ≠ .s 0) && (u.reads.contains d || u.writes.contains d)))

/-! ### Stored bytes (R218) -/

/-- The key of the first byte of an access of the thread, where its core can tell it without a walk. -/
def State.keyOf (s : State) (ga : Ptr) : Option Nat :=
  if ga.sb.toNat < 0xF0 then
    match s.heldEntry s.turn.rank (decide (s.turn.slot = 4)) (vpnOf ga) (field s.me.asid 0 16) with
    | some t =>
      let part := (s.partOf s.turn.rank).getD 0
      let l := placeOf part t.leaf t.sz (vpnOf ga) ga.v.toNat
      some (match s.redirected part l with
        | some x => x.1.key
        | none => l.key)
    | none => none
  else some (s.localPlace ga).key

/-- The ranges of memory that an instruction reads or writes as accesses of its thread. -/
def memRanges (t : Thread) : Instr → List (Ptr × Nat)
  | .ld f | .st f => [(memGa f t, sizeBytes f.size.val)]
  | .amoCas f | .amoSwap f | .amoAdd f | .amoAnd f | .amoOr f | .amoXor f | .amoSmin f | .amoSmax f | .amoUmin f | .amoUmax f
  | .amoFadd f | .amoFmin f | .amoFmax f | .redAdd f | .redFadd f | .redSmin f | .redSmax f | .redFmin f | .redFmax f =>
    [(t.get f.a, if f.width.val = 0 then 4 else 8)]
  | .vld f | .vst f => (unitPieces f t).map (fun p => (p.ga, p.n))
  | .vlds f | .vsts f => (stridedPieces f t).map (fun p => (p.ga, p.n))
  | .vldx f | .vstx f => (indexedPieces f t).map (fun p => (p.ga, p.n))
  | .tld f | .tst f => (List.range (f.cnt.val + 1)).map (fun i => ((t.get f.a).add (word (i * 0x800)), 0x800))
  | .rcall f | .rcallp f => [(t.get f.a, 64)]
  | .ecmd f => [(t.get f.a, 32)]
  | .monWaitne f => [(t.get f.a, 8)]
  | .mrd f => if nbit f.fl.val 0 then [(t.get f.z, 0x800)] else []
  | .mwr f => if nbit f.fl.val 0 then [(t.get f.z, 0x800)] else []
  | .mdrain f => if f.fl.val % 4 = 1 then (contiguous (t.get f.z) 64 256 0 0x2000).map (fun p => (p.ga, p.n)) else []
  | .mfix f => if nbit f.fl.val 0 then (contiguous (t.get f.y) 64 256 0 0x1000).map (fun p => (p.ga, p.n)) else []
  | .pget f => (contiguous (t.get f.z) 64 256 0 0x1000).map (fun p => (p.ga, p.n))
  | _ => []

/-- The bytes that an outstanding instruction stores. -/
def Outst.stored (o : Outst) : List (Nat × Nat) :=
  o.dest.filterMap (fun d => match d with
    | .mem k n => some (k, n)
    | .s _ => none | .v _ => none | .m _ => none | .acc _ => none | .q _ => none)

/-- Whether an instruction reads or writes bytes that an outstanding one stores (R25, R218). -/
def State.storedHit (s : State) (i : Instr) : Bool :=
  match s.th.outst.flatMap Outst.stored with
  | [] => false
  | l => (memRanges s.th i).any (fun x => match s.keyOf x.1 with
    | some k => l.any (fun y => decide (k < y.1 + y.2) && decide (y.1 < k + x.2))
    | none => false)

/-- Whether the thread lies within the window of every outstanding instruction (R23). -/
def Thread.inWindows (t : Thread) : Bool := t.outst.all (fun o => decide (o.issued < o.lk))

/-- Majors whose instructions wait until the thread has nothing outstanding (R23, R187, R189). -/
def waitsForAll (major : Nat) : Bool := decide (0x14 ≤ major) && decide (major ≤ 0x1F)

/-- The first register read that stands in a set of token registers. -/
def Uses.tokenIn (u : Uses) (bad : BitVec 32) : Option Reg :=
  (u.reads.filterMap scalarOf).find? (fun r => bad.getLsbD r.val)

/-- The number of a register in the TVAL of R352. -/
def Res.number : Res → Nat
  | .s r => r.val
  | .v r => r.val
  | .m r => r.val
  | .acc n => n.val
  | .q n => n
  | .mem k _ => k

end Sys2Proof.Machine
end

