-- ==== Sys2Proof/Machine/Issue.lean ====
section
/-!
DEFINITION. Issue: the choice of a slot (R20, R21), what holds an instruction back (R22-R26, R160, R301, R352), the events of
an instruction boundary (R305), fetch (R154, R186, R278) and what an issued instruction leaves in the windows before it.
-/

namespace Sys2Proof.Machine

/-! ### The choice of a slot (R20, R21) -/

/-- Whether a core runs: its band is awake, its die is not held, the package is not in standby. The management core has
no band. -/
def State.coreRuns (s : State) (r : Nat) : Bool :=
  decide (r = monitorCore) || (decide ((s.band (r / 16)).power = 0) && !s.dieHeld r && !s.standby)

/-- Whether a thread has an instruction to try: it holds a task or handler that waits for nothing but its next instruction. -/
def State.canTry (s : State) (w : Turn) : Bool :=
  let t := s.thAt w
  decide (t.occ = .occupied) && !t.wfi && t.failing.isNone && t.faultWait.isNone && t.monWait.isNone && t.waitTok.isNone && !t.topup
    && !(ckptDom t.domid && s.rollbackDue.contains t.domid) && !s.preemptible w && !s.watchdogOver w && s.coreRuns w.rank

/-- The priority by which R21 compares slots; a slot that holds no task counts as the highest. -/
def Thread.issuePrio (t : Thread) : Nat :=
  match t.task with
  | some k => k.eff
  | none => 7

/-- The slots of a core that are ready (R20): they have an instruction to try and have not met a stall. -/
def State.readySlots (s : State) (r : Nat) : List (Fin 5) :=
  fourSlots.filter (fun n => s.canTry { rank := r, slot := n } && !(s.thAt { rank := r, slot := n }).stalled)

/-- The slot that waits longest beyond 64 cycles, else the first of the highest priority from Rrp on (R21). -/
def State.pick (s : State) (r : Nat) : Option (Fin 5) :=
  let c := s.core r
  let ready := s.readySlots r
  let passed := fun (n : Fin 5) => c.passed.getD n.val 0
  match ((ready.filter (fun n => decide (64 ≤ passed n))).map passed).max? with
  | some m => ready.find? (fun n => decide (passed n = m))
  | none =>
    match (ready.map (fun n => (s.thAt { rank := r, slot := n }).issuePrio)).max? with
    | none => none
    | some p =>
      ([0, 1, 2, 3] : List Nat).findSome? (fun d =>
        ready.find? (fun n => decide (n.val = (c.rrp + d) % 4) && decide ((s.thAt { rank := r, slot := n }).issuePrio = p)))

/-- Rrp and Passed after a choice (R21): Passed counts while a slot is ready and not chosen. -/
def Core.chosen (c : Core) (ready : List (Fin 5)) (n : Fin 5) : Core :=
  { c with rrp := (n.val + 1) % 4,
           passed := Vector.ofFn (fun (k : Fin 4) =>
             if k.val = n.val then 0 else if ready.any (fun x => decide (x.val = k.val)) then c.passed[k] + 1 else 0) }

/-- A core whose every slot has met a stall looks at them again. -/
def Core.unstall (c : Core) : Core := { c with threads := c.threads.map (fun t => { t with stalled := false }) }

/-- ISSUE_ARBITRATION (R21): the core chooses the slot that issues next, or none. -/
def State.arbitrateCore (s : State) (r : Nat) : State :=
  match s.pick r with
  | some n =>
    let c := s.core r
    { s.modCore r (fun c => c.chosen (s.readySlots r) n) with
      turn := { rank := r, slot := n }, granted := some (c.rrp, c.passed) }
  | none => s.modCore r (fun c => { c.unstall with passed := .replicate 4 0 })

def execIssueArbitration (r : Nat) (s : State) : Result := .next (s.arbitrateCore r)

/-- The same for the agent of a core, a thread by itself. -/
def State.arbitrateAgent (s : State) (r : Nat) : State :=
  let w : Turn := { rank := r, slot := 4 }
  if s.canTry w then
    if (s.thAt w).stalled then s.modThAt w (fun t => { t with stalled := false })
    else { s with turn := w, granted := some ((s.core r).rrp, (s.core r).passed) }
  else s

/-- The first core or agent of a list that has a slot to issue. -/
def State.firstGrant (s : State) : List (Nat × Bool) → State
  | [] => s
  | (r, agent) :: l =>
    let t := if agent then s.arbitrateAgent r else s.arbitrateCore r
    if t.granted.isSome then t else t.firstGrant l

/-- Issue goes round the cores and their agents; the order among cores is not fixed (R9). -/
def State.arbitrate (s : State) : State :=
  let l := s.cores.flatMap (fun (p : Nat × Core) => [(p.1, false), (p.1, true)])
  let k := s.tick % max 1 l.length
  s.firstGrant (l.drop k ++ l.take k)

/-! ### What holds an instruction back -/

/-- The words that a vault agent executes (R160). -/
def agentRuns (i : Instr) : Bool :=
  let n := encodeNat i
  let mo := n % 64
  (decide (1 ≤ mo) && decide (mo ≤ 0x12)) || (decide (0x14 ≤ mo) && decide (mo ≤ 0x1E)) || decide (mo = 0x3D)
    || (decide (mo = 0x1F) && ([0, 2, 3, 8, 9, 10] : List Nat).contains (n / 2 ^ 21 % 128))

/-- A read of a token whose status a rollback restores (R355): it waits in a checkpoint domain; where the domain is
unprotected the error is logged and the value read. -/
def tokenGate (r : Reg) : M Unit := do
  let s ← get
  if s.consumed true then
    upd (fun s => { s with rollbackDue := addOnce s.rollbackDue s.th.domid })
    stall
  else
    if ckptDom s.th.domid then upd (fun s => s.logError s.turn.rank 13 0 0 (field s.th.domid 0 16))
    updTh (fun t => { t with tokUnc := clearBit t.tokUnc r.val })

/-- What stands before the execution of an instruction: permission on an agent, windows, scoreboard, token errors and
register errors. -/
def gate (i : Instr) : M Unit := do
  let s ← get
  let t := s.th
  let u := usesOf t i
  if s.turn.slot = 4 && !agentRuns i then illegal i
  if !t.inWindows then stall
  if t.lookaheadHit u || s.storedHit i then
    updTh (·.warnBit .lkv)
    stall
  if waitsForAll (encodeNat i % 64) && decide (t.outst ≠ []) then stall
  if t.scoreboard u then stall
  match u.tokenIn t.tokErr with
  | some r =>
    updTh (fun t => { t with tokErr := clearBit t.tokErr r.val })
    raise .tokErr (word r.val) 0
  | none => pure ()
  match u.tokenIn t.tokUnc with
  | some r => tokenGate r
  | none => pure ()
  match u.reads.find? (fun x => t.badRegs.contains x) with
  | some x => uncorrectable (word (x.number + 2 ^ 63)) 0 true
  | none => pure ()

/-! ### Fetch -/

/-- The word at the pc. A core fetches from global space and from its scratchpad (R186); an agent from its instruction
store (R278). -/
def fetch : M Nat := do
  let s ← get
  let pc := s.th.pc
  if s.turn.slot = 4 then
    if pc.sb ≠ 0xF0 ∨ 0x8000 < pc.v.toNat + 4 then raise .aperture pc.v 0
    else if pc.v.toNat % 4 ≠ 0 then raise .misalign pc.v 0
    else return s.peek { region := .agentCode, home := s.turn.rank, off := pc.v.toNat } 4
  else
    if 0xF0 < pc.sb.toNat then raise .aperture pc.v 0
    let l ← resolve pc 4 4 .fetch
    arrive pc l 4 0 true
    let s ← get
    if s.unreadable l 4 then
      upd (fun s => s.logUnreadable s.turn.rank l 4 0)
      uncorrectable pc.v 0 (s.recoverable s.th.domid l)
    upd (·.corrected l 4)
    return (← get).look l 4

/-- A word that the encoding rejects (R156, R158): nothing is performed, and ILLEGAL is raised with the word in TVAL. -/
def execIllegalInstruction (w : BitVec 32) : State → Result := run (raise .illegal (w.setWidth 64) 0)

/-! ### After an instruction -/

/-- What an issued instruction leaves beside its own effect: it counts in the windows before it (R23, R26), a register it
wrote is good again (R352), and a replay moves on. `o` is the number of entries before it. -/
def Thread.issued (t : Thread) (u : Uses) (o : Nat) : Thread :=
  { t with outst := noteIssued (t.outst.take o) ++ t.outst.drop o,
           badRegs := t.badRegs.filter (fun x => !u.writes.contains x) }

/-- Whether an instruction sets up a window to replay (R303). -/
def startsReplay : Instr → Bool
  | .tret _ => true
  | _ => false

/-- The thread after its instruction: `t0` before it, `t` as the meaning left it. -/
def Thread.afterInstr (i : Instr) (t0 t : Thread) : Thread :=
  if t.occ = .empty ∨ t.pc = t0.pc ∨ startsReplay i then t
  else if t.pc = t0.pc.add 4 then { (t.issued (usesOf t0 i) t0.outst.length).stepReplay with resumeTiles := 0 }
  else { t with replay := none, resumeTiles := 0 }

/-- The end of a turn to issue: a thread that stalled was not ready, so that R21 forgets its choice; else the core looks at
every slot again, and Passed of the slots that were not ready is 0. -/
def State.endIssue (s : State) (g : Nat × Vector Nat 4) (idle : List (Fin 5)) : State :=
  let w := s.turn
  let s := { s with granted := none, unitTurn := true }
  if (s.thAt w).stalled then
    s.modCore w.rank (fun c => { c with rrp := g.1, passed := g.2.setIfInBounds w.slot.val 0 })
  else if w.slot = 4 then s
  else s.modCore w.rank (fun c => { c.unstall with passed := idle.foldl (fun p n => p.setIfInBounds n.val 0) c.passed })

/-! ### One turn -/

/-- The entry of that event, once nothing of the thread is outstanding (R302). -/
def State.takeBoundary (s : State) : State :=
  let t := s.th
  if t.outst ≠ [] then s.modTh Thread.stall
  else match t.thermals with
    | lvl :: rest =>
      (s.modTh (fun t => { t with thermals := rest })).takeTrap { cause := .thermal, tval := word lvl, kind := 0, out := false }
    | [] => match t.nextInterrupt with
      | some (b, v) => s.enterInterrupt s.turn b v
      | none => s

/-- The instruction of a replay that has taken effect already is passed over (R26). -/
def Thread.skips (t : Thread) : Bool :=
  match t.replay with
  | some r => r.skip.getLsbD r.pos
  | none => false

def Thread.skip (t : Thread) : Thread :=
  if t.inWindows then { (t.issued usesNone t.outst.length).next.stepReplay with resumeTiles := 0 } else t.stall

/-- A decoded instruction runs where nothing holds it back. `ex` is the meaning of an instruction. -/
def issueInstr (ex : Instr → State → Result) (i : Instr) (s : State) : Result :=
  match gate i s with
  | .error e t => stopResult s t e
  | .ok _ t =>
    match ex i t with
    | .next u => .next (u.modThAt t.turn (Thread.afterInstr i t.th))
    | .fault f => .fault f
    | .refused r => .refused r

/-- The thread whose turn it is takes an event, passes over an instruction, or fetches and runs one. -/
def runTurn (ex : Instr → State → Result) (s : State) : Result :=
  if !s.canTry s.turn then .next s
  else if s.turn.slot ≠ 4 && s.th.boundaryDue then .next s.takeBoundary
  else if s.th.skips then .next (s.modTh Thread.skip)
  else
    match fetch s with
    | .error e t => stopResult s t e
    | .ok w t =>
      match decodeNat w with
      | .ok i => issueInstr ex i t
      | .error _ => execIllegalInstruction (BitVec.ofNat 32 w) t

/-- The other slots of the core that were tried by nobody and would have met a stall: they were not ready (R20, R21). -/
def State.notReady (ex : Instr → State → Result) (s : State) : List (Fin 5) :=
  if s.turn.slot = 4 then []
  else (s.readySlots s.turn.rank).filter (fun n => decide (n ≠ s.turn.slot) &&
    match runTurn ex { s with turn := { rank := s.turn.rank, slot := n } } with
    | .next t => (t.thAt { rank := s.turn.rank, slot := n }).stalled
    | .fault _ => false
    | .refused _ => false)

/-- A turn of issue: the choice, where none stands, and the thread's turn. -/
def issueTurn (ex : Instr → State → Result) (s : State) : Result :=
  let s := if s.granted.isSome then s else s.arbitrate
  match s.granted with
  | none => .next { s with unitTurn := true }
  | some g =>
    match runTurn ex s with
    | .next t => .next (State.endIssue { t with turn := s.turn } g (s.notReady ex))
    | .fault f => .fault f
    | .refused r => .refused r

end Sys2Proof.Machine
end

