-- ==== Sys2Proof/Machine/Paging.lean ====
section
/-!
DEFINITION. Walks as events, migration of pages (R343, R344), redirect notices, and shootdowns (R335-R339).
-/

namespace Sys2Proof.Machine

/-! ### Ranges of pages -/

/-- Whether two ranges of pages meet. -/
def pagesMeet (a n b m : Nat) : Bool := decide (a < b + m) && decide (b < a + n)

/-- Pages of a TLB entry or leaf of a size. -/
def szPages (sz : Nat) : Nat :=
  match sz with
  | 1 => 32
  | 2 => 0x4000
  | _ => 1

/-! ### Migration (R344) -/

/-- The entries of a leaf: the run of 32 of a 2 MiB page, or one (R332; DEDUCED, log entry 44). -/
def leafEntries (sz off : Nat) : List Nat := if sz = 1 then (List.range 32).map (fun k => off / 256 * 256 + 8 * k) else [off]

/-- A change of every entry of a leaf: writes of less than a row (R347). -/
def State.modLeaf (s : State) (home off sz : Nat) (f : Word → Word) : State :=
  (leafEntries sz off).foldl (fun s o =>
    (s.modCore home (fun c => { c with vault := c.vault.noteWrite o 8 })).poke (vaultLoc home o) 8 (f (word (s.peek (vaultLoc home o) 8))).toNat) s

/-- TIER, HOME and FRAME of a word put into an entry (R331). -/
def placed (e place : Word) : Word :=
  withField (withField (withField e 61 2 (leafTier place)) 27 16 (leafHome place)) 0 27 (leafFrame place)

/-- Why a home does not start a move: HCODE of R344 step 1. -/
def State.moveRefused (s : State) (r : Nat) (rq : Rpc) (e : Word) (lh key frames : Nat) : Option Nat :=
  let c := s.core r
  let sz := field e 50 2
  if (List.range frames).any (fun k => decide ((lookup c.vault.inflight (key + k)).getD 0 ≠ 0)) then some 1
  else if !bit e 63 || bit e 60 || sz = 3 || decide (leafHome e ≠ r) || !s.reaches r lh then some 2
  else if 32 ≤ c.agent.redirects.length then some 3
  else if s.malformed r (placed e rq.op0) sz || decide (placed e rq.op0 = e) then some 4
  else none

/-- Handler 9 starts: the leaf is marked, and the page's requests are held from now on. -/
def State.startMove (s : State) (r : Nat) (rq : Rpc) : State :=
  if !rq.priv then s.refuse rq .priv
  else
    let lh := field rq.op1 48 16
    let lo := field rq.op1 0 30 / 8 * 8
    let e := word (s.peek (vaultLoc lh lo) 8)
    let sz := field e 50 2
    let frames := szPages sz
    let key := pageKey rq.loc / frames * frames
    match s.moveRefused r rq e lh key frames with
    | some h => s.reply rq 0 h 0 0 0 false
    | none =>
      let s := s.modLeaf lh lo sz (fun w => setBit w 60)
      let m : Moving := { rq := rq, frame := key, frames := frames, leafHome := lh, leafOff := lo, place := placed 0 rq.op0, rows := 0, moved := 0 }
      s.modAgent r (fun a => { a with moving := some m })

/-- The place of a row of a page at its old and its new home. -/
def Moving.source (m : Moving) (row : Nat) : Loc := { m.rq.loc with off := m.frame % 2 ^ 40 * 0x10000 + row * 0x800 }

def Moving.target (m : Moving) (row : Nat) : Loc :=
  placeOf m.rq.part (withField m.place 0 27 (leafFrame m.place + row / 32)) 0 0 (row % 32 * 0x800)

/-- An access held for the new place of a page, when the page stays: it keeps its turn at the old one. -/
def Moving.back (m : Moving) (e : HeldAccess) : HeldAccess :=
  match (List.range m.frames).find? (fun k => decide ((m.target (k * 32)).page = e.page)) with
  | some k => { e with page := (m.source (k * 32)).page }
  | none => e

/-- Ends a move without effect on the page's place: MIG is cleared, and the held requests are served here, in order. -/
def State.abandonMove (s : State) (r : Nat) (m : Moving) : State :=
  let held := (s.agent r).held
  let s := { s with heldOrder := s.heldOrder.map (fun (e : HeldAccess) => if e.home = r then m.back e else e) }
  let s := s.modLeaf m.leafHome m.leafOff (if m.frames = 32 then 1 else 0) (fun w => clearBit w 60)
  s.modAgent r (fun a => { a with moving := none, held := [], requests := a.requests ++ held })

/-- A frame whose zero-map bit is set moves without rows: the bit at the new home, or zeros there (R342). -/
def State.moveZero (s : State) (r : Nat) (m : Moving) (leafHome leafOff : Nat) : State :=
  let src := m.source m.rows
  let dst := m.target m.rows
  let s := s.modCore src.home (fun c => { c with vault := { c.vault with zero := c.vault.zero.filter (fun z => decide (z.1 ≠ src.off / 0x10000)) } })
  let s := (s.recall dst 0x10000).zeroFill dst 0x10000
  let s := if dst.region = .vault then
      s.modCore dst.home (fun c => { c with vault := { c.vault with
        zero := (dst.off / 0x10000, leafHome, leafOff) :: c.vault.zero.filter (fun z => decide (z.1 ≠ dst.off / 0x10000)) } })
    else s
  s.modAgent r (fun a => { a with moving := some { m with rows := m.rows + 32 } })

/-- The next row of the page that a home moves: written at its new home (R344 step 3); none where it waits. A row that cannot
be read ends the move with UNCORR (R352). -/
def State.moveRowStep (s : State) (r : Nat) : Option State :=
  match (s.agent r).moving with
  | none => none
  | some m =>
    if m.frames * 32 ≤ m.rows then none
    else
      let src := m.source m.rows
      let dst := m.target m.rows
      let zero := if src.region = .vault ∧ m.rows % 32 = 0 then (s.core src.home).vault.zero.find? (fun z => decide (z.1 = src.off / 0x10000)) else none
      match zero with
      | some (_, lh, lo) => some (s.moveZero r m lh lo)
      | none =>
        match s.meets true src true, s.meets false dst with
        | .nothing, .nothing =>
          if s.unreadable src 0x800 then
            some (((s.logUnreadable r src 0x800 0).abandonMove r m).reply m.rq Cause.uncorr.code 0 0 0 0 false)
          else
            let s := ((s.recall src 0x800).recall dst 0x800).corrected src 0x800
            let s := s.store noBehalf dst 0x800 (s.look src 0x800)
            some (s.modAgent r (fun a => { a with moving := some { m with rows := m.rows + 1, moved := m.moved + 1 } }))
        | .nothing, _ => s.engineWaits dst
        | _, _ => s.engineWaits src

/-- Places in a moved page that units keep by place follow it: reduction buffers and monitors. -/
def Moving.follow (m : Moving) (l : Loc) : Loc :=
  if l.home = m.rq.loc.home ∧ m.frame ≤ pageKey l ∧ pageKey l < m.frame + m.frames then
    (m.target ((pageKey l - m.frame) * 32)).plus (l.off % 0x10000)
  else l

/-- The rows are all acknowledged: the leaf names the new place, the redirect entry is made, and the held requests follow
(R344 steps 4-6). -/
def State.finishMove (s : State) (r : Nat) (m : Moving) : State :=
  let s := s.modLeaf m.leafHome m.leafOff (if m.frames = 32 then 1 else 0) (fun w => clearBit (placed w m.place) 60)
  let held := (s.agent r).held
  let e : Redirect := { place := m.place, frames := m.frames, vpn := vpnOf m.rq.tgt / m.frames * m.frames, asid := m.rq.asid }
  let new := pageKey (m.target 0)
  -- entries that an earlier move left at the new place are over: the page is there
  let s := s.modAgent (leafHome m.place) (fun a => { a with redirects := a.redirects.filter (fun x => !pagesMeet x.1 x.2.frames new m.frames) })
  let s := s.modAgent r (fun a => { a with moving := none, held := [], redirects := insert a.redirects m.frame e })
  let track := fun (c : Core) => { c with
    redbuf := c.redbuf.map (fun (x : RedEntry) => { x with loc := m.follow x.loc })
    threads := c.threads.map (fun (t : Thread) => { t with mon := t.mon.map (fun (x : Mon) => { x with loc := m.follow x.loc }) }) }
  let s : State := { s with cores := s.cores.map (fun (p : Nat × Core) => (p.1, track p.2)) }
  let s := held.foldl (fun s rq => ({ s with msgs := s.msgs ++ [Msg.redirect rq.rank (vpnOf rq.tgt) 0 rq.asid m.place] }).deliver rq) s
  s.reply m.rq 0 0 0 m.moved 0 false

/-- MIGRATE_OUT (R344): handler 9 is accepted at the page's home, or its move ends. -/
def execMigrateOut (r : Nat) (s : State) : Result :=
  match (s.agent r).moving with
  | some m => if m.frames * 32 ≤ m.rows then .next (s.finishMove r m) else .next s
  | none => serve 9 r (fun s rq => s.startMove r rq) s

/-- The home whose page the agent of a core receives. -/
def State.movingTo (s : State) (r : Nat) : Option Nat :=
  (s.cores.find? (fun p => match p.2.agent.moving with
    | some m => decide (leafHome m.place = r) && decide (m.rows < m.frames * 32)
    | none => false)).map (·.1)

/-- MIGRATE_IN (R344): the new home writes the next row under handler 10; sent by an `rcall` it replies ILLEGAL, or PRIV. -/
def execMigrateIn (r : Nat) (s : State) : Result :=
  match s.movingTo r with
  | some h => .next ((s.moveRowStep h).getD s)
  | none => serve 10 r (fun s rq => s.refuse rq (if rq.priv then .illegal else .priv)) s

/-! ### Redirect notices (R344) -/

/-- A TLB entry with the new home and frame of its page. -/
def TlbEntry.redirect (t : TlbEntry) (vpn asid : Nat) (e : Word) : TlbEntry :=
  if t.covers vpn asid then { t with leaf := placed t.leaf e } else t

/-- REDIRECT_NOTICE: the next notice for a core. -/
def execRedirectNotice (r : Nat) (s : State) : Result :=
  let mine := fun (m : Msg) => match m with
    | .redirect x _ _ _ _ => decide (x = r)
    | _ => false
  match takeFirst mine s.msgs with
  | some (.redirect _ vpn _ asid e, rest) =>
    .next (({ s with msgs := rest } : State).modCore r (fun c => { c with
      utlb := c.utlb.map (fun t => t.redirect vpn asid e)
      tlb := c.tlb.map (fun t => t.redirect vpn asid e)
      agent := { c.agent with tlb := c.agent.tlb.map (fun t => t.redirect vpn asid e) } }))
  | _ => .next s

/-! ### Shootdowns (R336, R338) -/

/-- The first page of a shootdown, its ASID, and whether it takes every ASID. -/
def Cmd.shootAsid (c : Cmd) : Nat := c.stride

def Cmd.shootAll (c : Cmd) : Bool := c.flag 1

/-- Whether a shootdown names a page for an ASID. -/
def Cmd.shoots (c : Cmd) (vpn n asid : Nat) : Bool :=
  pagesMeet (vpnOf c.src) c.rows vpn n && (c.shootAll || decide (asid = c.shootAsid))

/-- The cores of an engine's partition. -/
def State.shootRanks (s : State) (e : Nat) : List Nat :=
  match (s.engine e).part with
  | some p => match s.part p with
    | some x => s.ranksOf x
    | none => []
  | none => []

/-- CMD_PAGE_MIGRATE_SHOOT (R338 step 2): the shootdown is sent, once. -/
def State.shootStep (s : State) (e : Nat) : Option State :=
  match s.activeOf e (fun c => decide (c.code = 7) && c.flag 0 && !c.shot) with
  | none => none
  | some c =>
    if c.cancel then some (s.endActive e 1 0)
    else if 0xF0 ≤ c.src.sb.toNat then some (s.endActive e 0 Cause.aperture.code)
    else if c.src.v.toNat % 0x10000 ≠ 0 then some (s.endActive e 0 Cause.misalign.code)
    else if c.rows = 0 then some (s.retireActive e 0)
    else some (s.setEngine e { s.engine e with active := some { c with shot := true, pending := (s.shootRanks e).map (fun r => (r, false)) } })

def execCmdPageMigrateShoot (e : Nat) (s : State) : Result := .next ((s.shootStep e).getD s)

/-- Whether a request carries a translation of the range: of its ASID, of any, or of a leaf with G. -/
def Cmd.carried (c : Cmd) (rq : Rpc) : Bool :=
  decide (rq.tgt.sb.toNat < 0xF0) && pagesMeet (vpnOf c.src) c.rows (vpnOf rq.tgt) 1 && (c.shootAll || rq.glob || decide (rq.asid = c.shootAsid))

/-- A request whose translation is in the range is marked (R338 step 3). -/
def Cmd.mark (c : Cmd) (rq : Rpc) : Rpc := if c.carried rq then { rq with stale := true } else rq

/-- A core and its agent drop what they hold of the range. -/
def Core.shootdown (k : Core) (c : Cmd) : Core :=
  let keep := fun (t : TlbEntry) => !(pagesMeet (vpnOf c.src) c.rows t.vpn (szPages t.sz) && (c.shootAll || bit t.leaf 56 || decide (t.asid = c.shootAsid)))
  let a := k.agent
  { k with
    utlb := k.utlb.filter keep
    tlb := k.tlb.filter keep
    wcache := k.wcache.filter (fun w => !c.shoots (w.index * 2 ^ (14 * (w.lvl + 1))) (2 ^ (14 * (w.lvl + 1))) w.asid)
    agent := { a with tlb := a.tlb.filter keep, requests := a.requests.map c.mark, held := a.held.map c.mark,
                      resend := a.resend.map (fun p => (p.1, c.mark p.2)), parkedReqs := a.parkedReqs.map (fun p => (p.1, c.mark p.2)) } }

/-- Whether nothing of a core uses a translation of the range any longer (R338 step 4): a marked request has been refreshed, or
parked, which frees its translation. -/
def State.shootOver (s : State) (r : Nat) (c : Cmd) : Bool :=
  let k := s.core r
  let in_ := fun (p : Ptr) (n : Nat) => decide (p.sb.toNat < 0xF0) && pagesMeet (vpnOf c.src) c.rows (vpnOf p) n
  let waits := fun (rq : Rpc) => rq.stale && c.carried rq
  k.xfers.all (fun x => !in_ x.ga 3)
    && !k.agent.requests.any waits && !k.agent.held.any waits && !k.agent.resend.any (fun p => waits p.2)
    && s.msgs.all (fun m => match m with
      | .discard _ _ st => decide (st.rank ≠ r)
      | _ => true)
    && (match k.agent.current with
      | some rq => k.agent.replied || !in_ rq.tgt 1
      | none => true)
    && (match k.agent.moving with
      | some m => !pagesMeet (vpnOf c.src) c.rows (vpnOf m.rq.tgt) m.frames
      | none => true)
    && (match k.agent.mac with
      | some p => !in_ p.ga 1 && (match p.flag with | some f => !in_ f.1 1 | none => true) && (match p.record with | some f => !in_ f.1 1 | none => true)
      | none => true)

/-- What SHOOTDOWN_RECEIPT does at a core for one engine: it drops its entries, then acknowledges; none where it waits. -/
def State.receiptOf (s : State) (r e : Nat) : Option State :=
  match (s.engine e).active with
  | none => none
  | some c =>
    if c.pending.contains (r, false) then
      let s := s.flushRed r (fun x => decide (x.ga.sb.toNat < 0xF0) && pagesMeet (vpnOf c.src) c.rows (vpnOf x.ga) 1)
      let s := s.modCore r (·.shootdown c)
      some (s.setEngine e { s.engine e with active := some { c with pending := c.pending.map (fun p => if p = (r, false) then (r, true) else p) } })
    else if c.pending.contains (r, true) && s.shootOver r c then
      some (s.setEngine e { s.engine e with active := some { c with pending := c.pending.filter (fun p => decide (p ≠ (r, true))) } })
    else none

/-- SHOOTDOWN_RECEIPT (R338). -/
def State.receiptStep (s : State) (r : Nat) : Option State := s.engines.findSome? (fun x => s.receiptOf r x.1)

def execShootdownReceipt (r : Nat) (s : State) : Result := .next ((s.receiptStep r).getD s)

/-- Whether a copy engine of the partition uses a translation of the range that it read before: that of a collective which has
joined its tree (R338 step 4); every other page is translated and used in one step. -/
def State.engineUses (s : State) (e : Nat) (c : Cmd) : Bool :=
  s.colls.any (fun m => decide ((s.engine m.engine).part = (s.engine e).part) && match (s.engine m.engine).active with
    | some x => ([x.src, x.dst] : List Ptr).any (fun p => decide (p.sb.toNat < 0xF0) && pagesMeet (vpnOf c.src) c.rows (vpnOf p) (x.len / 0x10000 + 2))
    | none => false)

/-- SHOOTDOWN_ACK (R338 step 5): every recipient has acknowledged; redirect entries for pages of the range are freed, and the
status is written. -/
def State.ackStep (s : State) (e : Nat) : Option State :=
  match s.activeOf e (fun c => decide (c.code = 7) && c.flag 0 && c.shot && decide (c.pending = []) && !s.engineUses e c) with
  | none => none
  | some c =>
    let s := (s.shootRanks e).foldl (fun s r => s.modAgent r (fun a =>
      { a with redirects := a.redirects.filter (fun x => !pagesMeet (vpnOf c.src) c.rows x.2.vpn x.2.frames) })) s
    some (s.retireActive e 0)

def execShootdownAck (e : Nat) (s : State) : Result := .next ((s.ackStep e).getD s)

/-! ### Walks and set-D as events (R330, R333) -/

/-- PAGE_WALK (R330): the walk of a thread that missed fills its TLB, or parks the task with a fault (R340). -/
def execPageWalk (r n : Nat) (ga : Ptr) (acc : Access) (s : State) : Result :=
  let w : Turn := { rank := r, slot := Fin.ofNat 5 n }
  let t := s.thAt w
  if t.occ ≠ .occupied ∨ t.outst ≠ [] ∨ t.failing.isSome ∨ t.faultWait.isSome ∨ 0xF0 ≤ ga.sb.toNat then .next s
  else .next (s.asTurn w (fun s =>
    let vpn := vpnOf ga
    let asid := field s.me.asid 0 16
    let agent := decide (w.slot = 4)
    match s.entryFor r agent asid s.me.ptbase vpn with
    | .error (.fault k) => s.parkFault ga .notPresent (accessKind acc) k
    | .error (.waits l) => s.noteWaiting l
    | .ok (_, none) => s
    | .ok (_, some x) =>
      if permits x.e acc s.supervisor then s.fill r agent vpn asid x else s.parkFault ga .prot (accessKind acc) 1))

/-- SET_DIRTY (R333): an atomic OR into a leaf at its home. -/
def execSetDirty (r off : Nat) (s : State) : Result :=
  let o := off / 8 * 8
  if o < 0x40000000 then .next (s.orLeaf r o 58) else .next s

end Sys2Proof.Machine
end

