-- ==== Sys2Proof/Machine/Units.lean ====
section
/-!
DEFINITION. What the hardware units do by themselves between instructions: the events that may happen in a state, and the
choice of one. The manual orders events only where a rule does (R9), so the units take turns (DESIGN CHOICE, log entry 15);
events that come from outside (refreshes, testers, links, ports, throttles, bring-up) are inputs and are never chosen here.
-/

namespace Sys2Proof.Machine

/-- A thing that a unit may do: one that changes nothing has nothing to do. -/
abbrev UnitEvent := State → Result

/-- The state that an event leads to, where it does something. -/
def progress (s : State) (e : UnitEvent) : Option State :=
  match e s with
  | .next t => if t = s then none else some t
  | .fault _ => none
  | .refused _ => none

/-- Both families of tiles. -/
def families : List Family := [.cw, .ccw]

/-- The units of an agent. -/
def agentUnits : List AgentUnit := [.mac, .ag 0, .ag 1, .ag 2, .ag 3, .mover, .compare]

/-! ### Messages and statuses -/

/-- The event that a message in flight brings. -/
def Msg.event : Msg → UnitEvent
  | .weight _ _ => execWeightReturn
  | .topup _ _ => execTopupMessage
  | .topupAck w => execSpawnTopupAck w.rank w.slot.val
  | .signal j => execJoinSignal j
  | .failure j c => execJoinFailure j (causeOf c.toNat)
  | .discard _ _ _ => execDiscardAtHome
  | .redirect r _ _ _ _ => execRedirectNotice r

def State.messageEvents (s : State) : List UnitEvent :=
  [execTokenStatusWrite, execStatusUndeliverable, execRetireNotice, execEjectionMessage, execEjectionWriteComplete]
    ++ s.msgs.map Msg.event ++ s.rollbackDue.map execRollback ++ ([0, 1, 2, 3] : List Nat).map execNetredRoundComplete

/-! ### Launches, gangs and faults -/

/-- The entries of a partition's fault queue whose RES byte is not zero. -/
def State.storedFaults (s : State) (x : Partition) : List Nat :=
  let base := (x.faultEntry 0).key
  (s.mem.filter (fun c => decide (base ≤ c.1) && decide (c.1 < base + 32 * 2 ^ x.spec.faultK) && decide ((c.1 - base) % 32 = 0x1F))).map
    (fun c => (c.1 - base) / 32)

def State.partitionEvents (s : State) : List UnitEvent :=
  s.parts.flatMap (fun p => execDispatch p.1 :: (s.storedFaults p.2).map (fun k => execFaultResolve p.1 k))

def State.gangEvents (s : State) : List UnitEvent :=
  s.gangs.flatMap (fun g =>
    (match g.2.nextBand with
      | some b => [execGangReservation g.1 b]
      | none => [execGangRelease g.1])
    ++ (if g.2.loadAt.isSome then g.2.ranks.map (fun r => execGangBmaskLoadTimeout r g.1) else [])
    ++ (g.2.reserved.flatMap bandRanks).map (fun r => execGangReservationTimeout r))
  ++ s.redundants.map (fun d => execRedundantCompare d.1)

/-! ### Cores -/

/-- What the agent of a core and its units may do. -/
def State.agentEvents (s : State) (r : Nat) : List UnitEvent :=
  let a := (s.core r).agent
  (match a.nextRequest with
    | some rq =>
      [match rq.h with
        | 0 => execHandlerRead r
        | 1 => execHandlerWrite r
        | 2 => execHandlerElementAtomic r
        | 3 => execHandlerTileRead r
        | 4 => execHandlerTileWrite r
        | 5 => execHandlerTileAdd r
        | 6 => execHandlerVectorAdd r
        | 7 => execHandlerHandOffPush r
        | 8 => execHandlerHandOffPop r
        | 9 => execMigrateOut r
        | 10 => execMigrateIn r
        | 11 => execHandlerRemoteMonitorArm r
        | 12 => execHandlerReductionRecall r
        | 13 => execHandlerBankMacLaunch r
        | _ => execLoadedHandler r]
    | none => [])
  ++ (if a.moving.isSome then [execMigrateOut r] else [])
  ++ (if (s.movingTo r).isSome then [execMigrateIn r] else [])
  ++ (if a.mac.isSome then [execBankMacProgramRun r, execBankMacComplete r] else [])
  ++ agentUnits.map (execAgentUnitComplete r) ++ [execBankLockExpiry r, execHeldRequestResend r]

/-- What may happen at a slot, or at an agent's thread. An outstanding instruction completes when its thread waits: the
time that it takes covers its window, as in the sequence that R25 and R26 are shown with (DEDUCED, log entry 14). -/
def State.slotEvents (s : State) (r n : Nat) : List UnitEvent :=
  let w : Turn := { rank := r, slot := Fin.ofNat 5 n }
  let t := s.thAt w
  if t.occ = .empty then [execSlotPlacement r n]
  else (if t.outst ≠ [] ∧ (t.stalled ∨ !s.canTry w) then [execOutstandingInstructionComplete r n] else [])
    ++ [execTaskFailureRemoval r n, execPreEmption r n, execTaskWatchdogExpiry r n,
        execWfiWake r n, execMonitorWake r n, execMonitorTimeout r n, execBarrierWatchdogExpiry r n]

/-- The macros of a core that hold operations. -/
def Core.busyMacros (c : Core) : List Nat := (c.mops.map (fun m => m.pos / 48)).eraseDups

def State.coreEvents (s : State) (r : Nat) : List UnitEvent :=
  let c := s.core r
  c.busyMacros.flatMap (fun m => [execMatrixOpStart r m, execMatrixOpComplete r m])
  ++ [execTileTransferTile r, execTaskFailureRemoval r 0, execShootdownReceipt r]
  ++ c.ready.map (fun k => execPriorityAging r k.id)
  ++ (List.range 8).flatMap (fun t => [execBarrierPhaseComplete r t, execProbeCircuit r t])
  ++ (match c.vault.repairDue with
    | some row => [execRowRepair r row]
    | none => [])

/-! ### The motion of bands (R138, R142) -/

/-- What is to happen at a band in the cycle that it has reached: a claim is raised, an injection takes the slot that its
family's move has left free, or, where band cycles lie behind CYCLE.COUNT, two of them pass. An idle band moves nothing. -/
def State.bandMotion (s : State) (b : Nat) : Option UnitEvent :=
  let z := s.band b
  if z.idle then none
  else match z.pend.find? (fun x => !x.claim && decide (x.since + 64 ≤ z.cycle)), z.pend.find? (fun x => z.injectable x.tile.fam x.pos) with
    | some x, _ => some (execInjectionClaim (b * 16 + x.pos) x.tile.fam)
    | none, some x => some (execBandInjection (b * 16 + x.pos) x.tile.fam)
    | none, none => if z.cycle + 2 ≤ s.bandNow b then some (execBandStep b) else none

/-- A number of such events, where a band runs. -/
def State.bandMoves (b : Nat) : Nat → State → State
  | 0, s => s
  | n + 1, s =>
    match s.bandMotion b with
    | none => s
    | some e => match e s with
      | .next t => State.bandMoves b n t
      | .fault _ => s
      | .refused _ => s

/-- A band reaches the time of CYCLE.COUNT: as many events as lie between. -/
def State.bandReach (s : State) (b : Nat) : State :=
  if s.coreRuns (b * 16) && !(s.band b).idle then State.bandMoves b ((s.bandNow b - (s.band b).cycle) / 2 + 2 * (s.band b).pend.length) s else s

/-- Every band reaches it. -/
def State.bandsReach (s : State) : State := s.bands.foldl (fun s b => s.bandReach b.1) s

/-! ### Bands and engines -/

def State.bandEvents (s : State) (b : Nat) : List UnitEvent :=
  let z := s.band b
  let lvl := s.restLevel b
  (if lvl ≠ 0 ∧ z.power = 0 then (bandRanks b).map execReductionFlush else [])
  ++ (if lvl ≠ 0 then [execPowerStateEntry b lvl] else [])
  ++ [execWakeComplete b]

def State.engineEvents (s : State) (e : Nat) : List UnitEvent :=
  let x := s.engine e
  (if x.activates then [execEngineCommandActivate e] else [])
  ++ match x.active with
    | none => []
    | some c =>
      if c.collective then [if c.code = 6 then execCmdCollectiveReduce e else execCmdCopy e]
      else match c.code with
        | 7 => [execCmdPageMigrateMove e, execCmdPageMigrateShoot e, execShootdownAck e]
        | 8 => [execCmdBankMacLaunch e]
        | _ => [execEnginePage e]

/-! ### The choice -/

/-- What the units may do in a state, unit by unit; there is a list, perhaps empty, for each unit. What belongs to a sleeping
band or a held die waits, but for the wake. -/
def State.unitEvents (s : State) : List (List UnitEvent) :=
  [s.messageEvents, s.partitionEvents, s.gangEvents]
  ++ s.cores.flatMap (fun c => if s.coreRuns c.1 then
      [([0, 1, 2, 3, 4] : List Nat).flatMap (s.slotEvents c.1), s.coreEvents c.1, s.agentEvents c.1] else [[], [], []])
  ++ s.bands.map (fun b => if s.coreRuns (b.1 * 16) then s.bandEvents b.1 else
      if (s.band b.1).waking then [execWakeComplete b.1] else
      if s.restLevel b.1 ≠ 0 then [execPowerStateEntry b.1 (s.restLevel b.1)] else [])
  ++ s.engines.map (fun e => if (s.dies.getD (e.1 / 12) .reset).held.isSome || s.standby then [] else s.engineEvents e.1)

/-- The first unit that has something to do, counted from `k`, and the state that its first such event leads to. -/
def firstProgress (s : State) : Nat → List (List UnitEvent) → Option (Nat × State)
  | _, [] => none
  | k, u :: l =>
    match u.findSome? (progress s) with
    | some t => some (k, t)
    | none => firstProgress s (k + 1) l

/-- The unit that moves: the next one in turn after the one that moved last. -/
def internalEvent (s : State) : Option State :=
  let l := s.unitEvents
  let n := max 1 l.length
  let k := s.cursor % n
  (firstProgress s k (l.drop k ++ l.take k)).map (fun x => { x.2 with cursor := (x.1 + 1) % n })

/-! ### Inputs that wait -/

/-- An access through a host window that its vault holds back is made again until it is performed (R89, R90), and a load of
BMASK waits for the core's arrival (R269). -/
def State.inputWaits (s : State) : Instr → Bool
  | .vaultWindowRead _ r off => s.windowWaits r off
  | .vaultWindowWrite _ r off _ => s.windowWaits r off
  | .bmaskWrite r n _ => (s.core r).arrived n
  | _ => false

/-! ### A program placed from outside (DESIGN CHOICE, log entry 63) -/

/-- The partition on whose system core a placed word runs: band 0, with nothing else granted. -/
def placedPartition : Partition :=
  { spec := { id := 0, bands := [0], sys := 0, pc := .zero, engines := [], queues := [], overflow := [], redundant := [], counterBase := 0,
              counterCount := 0, pool := 0, poolOff := 0, faultOff := 0, faultK := 0, tierFrames := 0, hostFrames := 0, journalRows := 0,
              mailbox := 0 },
    faultTail := 0, ptr := .replicate 8 0, next := 0 }

/-- A thread that stands at a pc with nothing in its way. -/
def Thread.standing (t : Thread) (pc : Ptr) : Thread :=
  { t with occ := .occupied, pc := pc, thstat := withField t.thstat 8 2 1, pend := 0, tokErr := 0, tokUnc := 0, ien := 0, outst := [],
           replay := none, resumeTiles := 0, xferStop := false, thermals := [], waitSince := none, monWait := none, stalled := false, wfi := false,
           waitTok := none, preempt := false, faultWait := none, topup := false, failing := none, badRegs := [] }

/-- The state with a word where a thread fetches next: slot 0 of core 0, in supervisor mode and in the scratchpad; for the
agent major, the agent of that core and its instruction store. Bring-up is over and the band is awake. -/
def State.placeWord (s : State) (w : Nat) : State :=
  let agent := decide (w % 64 = 0x3D)
  let at_ : Turn := { rank := 0, slot := if agent then 4 else 0 }
  let l : Loc := if agent then { region := .agentCode, home := 0, off := 0 } else scratchLoc 0 0x310000
  let s : State := { s with
    dev := 0, bringUp := 6, agenda := [], unitTurn := false, standby := false, turn := at_, granted := some (0, .replicate 4 0),
    parts := if (s.partOf 0).isSome then s.parts else insert s.parts 0 placedPartition,
    dies := s.dies.setIfInBounds 0 { s.dies.getD 0 .reset with held := none } }
  let s := s.modBand 0 (fun z => { z with power := 0, waking := false })
  (s.modThAt at_ (fun t => t.standing { sb := 0xF0, v := word l.off })).poke l 4 w

end Sys2Proof.Machine
end

