-- ==== Sys2Proof/Machine/Dispatch.lean ====
section
/-!
DEFINITION. One arm for each instruction and event: a direct call of its meaning.
-/

namespace Sys2Proof.Machine

/-- What an instruction or event does. -/
def exec (i : Instr) (s : State) : Host.Outcome State Fault Refusal :=
  match i with
  | .add f => Sys2Proof.Machine.execAdd f s
  | .sub f => Sys2Proof.Machine.execSub f s
  | .and f => Sys2Proof.Machine.execAnd f s
  | .or f => Sys2Proof.Machine.execOr f s
  | .xor f => Sys2Proof.Machine.execXor f s
  | .sll f => Sys2Proof.Machine.execSll f s
  | .srl f => Sys2Proof.Machine.execSrl f s
  | .sra f => Sys2Proof.Machine.execSra f s
  | .slt f => Sys2Proof.Machine.execSlt f s
  | .sltu f => Sys2Proof.Machine.execSltu f s
  | .min f => Sys2Proof.Machine.execMin f s
  | .max f => Sys2Proof.Machine.execMax f s
  | .minu f => Sys2Proof.Machine.execMinu f s
  | .maxu f => Sys2Proof.Machine.execMaxu f s
  | .mul f => Sys2Proof.Machine.execMul f s
  | .mulh f => Sys2Proof.Machine.execMulh f s
  | .mulhu f => Sys2Proof.Machine.execMulhu f s
  | .div f => Sys2Proof.Machine.execDiv f s
  | .divu f => Sys2Proof.Machine.execDivu f s
  | .rem f => Sys2Proof.Machine.execRem f s
  | .remu f => Sys2Proof.Machine.execRemu f s
  | .clz f => Sys2Proof.Machine.execClz f s
  | .ctz f => Sys2Proof.Machine.execCtz f s
  | .popc f => Sys2Proof.Machine.execPopc f s
  | .addi f => Sys2Proof.Machine.execAddi f s
  | .andi f => Sys2Proof.Machine.execAndi f s
  | .ori f => Sys2Proof.Machine.execOri f s
  | .xori f => Sys2Proof.Machine.execXori f s
  | .slti f => Sys2Proof.Machine.execSlti f s
  | .sltiu f => Sys2Proof.Machine.execSltiu f s
  | .lui f => Sys2Proof.Machine.execLui f s
  | .lsi f => Sys2Proof.Machine.execLsi f s
  | .slli f => Sys2Proof.Machine.execSlli f s
  | .srli f => Sys2Proof.Machine.execSrli f s
  | .srai f => Sys2Proof.Machine.execSrai f s
  | .pmk f => Sys2Proof.Machine.execPmk f s
  | .padd f => Sys2Proof.Machine.execPadd f s
  | .ptag f => Sys2Proof.Machine.execPtag f s
  | .pclr f => Sys2Proof.Machine.execPclr f s
  | .prank f => Sys2Proof.Machine.execPrank f s
  | .pchk f => Sys2Proof.Machine.execPchk f s
  | .paddi f => Sys2Proof.Machine.execPaddi f s
  | .fadd f => Sys2Proof.Machine.execFadd f s
  | .fsub f => Sys2Proof.Machine.execFsub f s
  | .fmul f => Sys2Proof.Machine.execFmul f s
  | .fdiv f => Sys2Proof.Machine.execFdiv f s
  | .fsqrt f => Sys2Proof.Machine.execFsqrt f s
  | .fmin f => Sys2Proof.Machine.execFmin f s
  | .fmax f => Sys2Proof.Machine.execFmax f s
  | .fmadd f => Sys2Proof.Machine.execFmadd f s
  | .fmsub f => Sys2Proof.Machine.execFmsub f s
  | .feq f => Sys2Proof.Machine.execFeq f s
  | .flt f => Sys2Proof.Machine.execFlt f s
  | .fle f => Sys2Proof.Machine.execFle f s
  | .fclass f => Sys2Proof.Machine.execFclass f s
  | .fcvtf f => Sys2Proof.Machine.execFcvtf f s
  | .fcvtfi f => Sys2Proof.Machine.execFcvtfi f s
  | .fcvtif f => Sys2Proof.Machine.execFcvtif f s
  | .fsgnj f => Sys2Proof.Machine.execFsgnj f s
  | .fsgnjn f => Sys2Proof.Machine.execFsgnjn f s
  | .ld f => Sys2Proof.Machine.execLd f s
  | .st f => Sys2Proof.Machine.execSt f s
  | .amoSwap f => Sys2Proof.Machine.execAmoSwap f s
  | .amoAdd f => Sys2Proof.Machine.execAmoAdd f s
  | .amoAnd f => Sys2Proof.Machine.execAmoAnd f s
  | .amoOr f => Sys2Proof.Machine.execAmoOr f s
  | .amoXor f => Sys2Proof.Machine.execAmoXor f s
  | .amoSmin f => Sys2Proof.Machine.execAmoSmin f s
  | .amoSmax f => Sys2Proof.Machine.execAmoSmax f s
  | .amoUmin f => Sys2Proof.Machine.execAmoUmin f s
  | .amoUmax f => Sys2Proof.Machine.execAmoUmax f s
  | .amoCas f => Sys2Proof.Machine.execAmoCas f s
  | .amoFadd f => Sys2Proof.Machine.execAmoFadd f s
  | .amoFmin f => Sys2Proof.Machine.execAmoFmin f s
  | .amoFmax f => Sys2Proof.Machine.execAmoFmax f s
  | .redAdd f => Sys2Proof.Machine.execRedAdd f s
  | .redFadd f => Sys2Proof.Machine.execRedFadd f s
  | .redSmin f => Sys2Proof.Machine.execRedSmin f s
  | .redSmax f => Sys2Proof.Machine.execRedSmax f s
  | .redFmin f => Sys2Proof.Machine.execRedFmin f s
  | .redFmax f => Sys2Proof.Machine.execRedFmax f s
  | .beq f => Sys2Proof.Machine.execBeq f s
  | .bne f => Sys2Proof.Machine.execBne f s
  | .blt f => Sys2Proof.Machine.execBlt f s
  | .bge f => Sys2Proof.Machine.execBge f s
  | .bltu f => Sys2Proof.Machine.execBltu f s
  | .bgeu f => Sys2Proof.Machine.execBgeu f s
  | .jal f => Sys2Proof.Machine.execJal f s
  | .jalr f => Sys2Proof.Machine.execJalr f s
  | .crrd f => Sys2Proof.Machine.execCrrd f s
  | .crwr f => Sys2Proof.Machine.execCrwr f s
  | .crxch f => Sys2Proof.Machine.execCrxch f s
  | .trap f => Sys2Proof.Machine.execTrap f s
  | .trapBrk f => Sys2Proof.Machine.execTrapBrk f s
  | .tret f => Sys2Proof.Machine.execTret f s
  | .fence f => Sys2Proof.Machine.execFence f s
  | .ifence f => Sys2Proof.Machine.execIfence f s
  | .spawn f => Sys2Proof.Machine.execSpawn f s
  | .park f => Sys2Proof.Machine.execPark f s
  | .parkMig f => Sys2Proof.Machine.execParkMig f s
  | .tend f => Sys2Proof.Machine.execTend f s
  | .tyield f => Sys2Proof.Machine.execTyield f s
  | .rdcyc f => Sys2Proof.Machine.execRdcyc f s
  | .rank f => Sys2Proof.Machine.execRank f s
  | .wfi f => Sys2Proof.Machine.execWfi f s
  | .vadd f => Sys2Proof.Machine.execVadd f s
  | .vsub f => Sys2Proof.Machine.execVsub f s
  | .vmul f => Sys2Proof.Machine.execVmul f s
  | .vmin f => Sys2Proof.Machine.execVmin f s
  | .vmax f => Sys2Proof.Machine.execVmax f s
  | .vabs f => Sys2Proof.Machine.execVabs f s
  | .vneg f => Sys2Proof.Machine.execVneg f s
  | .vsgnj f => Sys2Proof.Machine.execVsgnj f s
  | .vfma f => Sys2Proof.Machine.execVfma f s
  | .vfms f => Sys2Proof.Machine.execVfms f s
  | .vfnma f => Sys2Proof.Machine.execVfnma f s
  | .vwmul f => Sys2Proof.Machine.execVwmul f s
  | .vwfma f => Sys2Proof.Machine.execVwfma f s
  | .vqfma f => Sys2Proof.Machine.execVqfma f s
  | .vdot2 f => Sys2Proof.Machine.execVdot2 f s
  | .vdot4 f => Sys2Proof.Machine.execVdot4 f s
  | .vand f => Sys2Proof.Machine.execVand f s
  | .vor f => Sys2Proof.Machine.execVor f s
  | .vxor f => Sys2Proof.Machine.execVxor f s
  | .vsll f => Sys2Proof.Machine.execVsll f s
  | .vsrl f => Sys2Proof.Machine.execVsrl f s
  | .vsra f => Sys2Proof.Machine.execVsra f s
  | .vadds f => Sys2Proof.Machine.execVadds f s
  | .vsubs f => Sys2Proof.Machine.execVsubs f s
  | .veq f => Sys2Proof.Machine.execVeq f s
  | .vne f => Sys2Proof.Machine.execVne f s
  | .vlt f => Sys2Proof.Machine.execVlt f s
  | .vle f => Sys2Proof.Machine.execVle f s
  | .vunord f => Sys2Proof.Machine.execVunord f s
  | .vclass f => Sys2Proof.Machine.execVclass f s
  | .vsel f => Sys2Proof.Machine.execVsel f s
  | .mand f => Sys2Proof.Machine.execMand f s
  | .mor f => Sys2Proof.Machine.execMor f s
  | .mxor f => Sys2Proof.Machine.execMxor f s
  | .mnot f => Sys2Proof.Machine.execMnot f s
  | .mpopc f => Sys2Proof.Machine.execMpopc f s
  | .mfirst f => Sys2Proof.Machine.execMfirst f s
  | .vcvt f => Sys2Proof.Machine.execVcvt f s
  | .vqnt f => Sys2Proof.Machine.execVqnt f s
  | .vdqnt f => Sys2Proof.Machine.execVdqnt f s
  | .vcbdec f => Sys2Proof.Machine.execVcbdec f s
  | .vexp2 f => Sys2Proof.Machine.execVexp2 f s
  | .vlog2 f => Sys2Proof.Machine.execVlog2 f s
  | .vrcp f => Sys2Proof.Machine.execVrcp f s
  | .vrsqrt f => Sys2Proof.Machine.execVrsqrt f s
  | .vsqrt f => Sys2Proof.Machine.execVsqrt f s
  | .vdiv f => Sys2Proof.Machine.execVdiv f s
  | .vsinpi f => Sys2Proof.Machine.execVsinpi f s
  | .vtanh f => Sys2Proof.Machine.execVtanh f s
  | .vperm f => Sys2Proof.Machine.execVperm f s
  | .vslup f => Sys2Proof.Machine.execVslup f s
  | .vsldn f => Sys2Proof.Machine.execVsldn f s
  | .vbcast f => Sys2Proof.Machine.execVbcast f s
  | .vcmprs f => Sys2Proof.Machine.execVcmprs f s
  | .vexpnd f => Sys2Proof.Machine.execVexpnd f s
  | .vzip f => Sys2Proof.Machine.execVzip f s
  | .vunzip f => Sys2Proof.Machine.execVunzip f s
  | .vrsum f => Sys2Proof.Machine.execVrsum f s
  | .vrmin f => Sys2Proof.Machine.execVrmin f s
  | .vrmax f => Sys2Proof.Machine.execVrmax f s
  | .vscan f => Sys2Proof.Machine.execVscan f s
  | .netred f => Sys2Proof.Machine.execNetred f s
  | .netbc f => Sys2Proof.Machine.execNetbc f s
  | .vld f => Sys2Proof.Machine.execVld f s
  | .vlds f => Sys2Proof.Machine.execVlds f s
  | .vldx f => Sys2Proof.Machine.execVldx f s
  | .vst f => Sys2Proof.Machine.execVst f s
  | .vsts f => Sys2Proof.Machine.execVsts f s
  | .vstx f => Sys2Proof.Machine.execVstx f s
  | .vsplat f => Sys2Proof.Machine.execVsplat f s
  | .vgetel f => Sys2Proof.Machine.execVgetel f s
  | .vsetel f => Sys2Proof.Machine.execVsetel f s
  | .vid f => Sys2Proof.Machine.execVid f s
  | .m2v f => Sys2Proof.Machine.execM2v f s
  | .v2m f => Sys2Proof.Machine.execV2m f s
  | .tdef f => Sys2Proof.Machine.execTdef f s
  | .tinv f => Sys2Proof.Machine.execTinv f s
  | .tqry f => Sys2Proof.Machine.execTqry f s
  | .mstat f => Sys2Proof.Machine.execMstat f s
  | .munst f => Sys2Proof.Machine.execMunst f s
  | .mwr f => Sys2Proof.Machine.execMwr f s
  | .mrd f => Sys2Proof.Machine.execMrd f s
  | .mmac f => Sys2Proof.Machine.execMmac f s
  | .mmul f => Sys2Proof.Machine.execMmul f s
  | .mmacSp f => Sys2Proof.Machine.execMmacSp f s
  | .mgang f => Sys2Proof.Machine.execMgang f s
  | .mbind f => Sys2Proof.Machine.execMbind f s
  | .mzero f => Sys2Proof.Machine.execMzero f s
  | .mdrain f => Sys2Proof.Machine.execMdrain f s
  | .mchk f => Sys2Proof.Machine.execMchk f s
  | .mfix f => Sys2Proof.Machine.execMfix f s
  | .qcfg f => Sys2Proof.Machine.execQcfg f s
  | .qhead f => Sys2Proof.Machine.execQhead f s
  | .qtail f => Sys2Proof.Machine.execQtail f s
  | .qpop f => Sys2Proof.Machine.execQpop f s
  | .qpush f => Sys2Proof.Machine.execQpush f s
  | .binj f => Sys2Proof.Machine.execBinj f s
  | .bset f => Sys2Proof.Machine.execBset f s
  | .bclr f => Sys2Proof.Machine.execBclr f s
  | .bmiss f => Sys2Proof.Machine.execBmiss f s
  | .bstat f => Sys2Proof.Machine.execBstat f s
  | .pget f => Sys2Proof.Machine.execPget f s
  | .prel f => Sys2Proof.Machine.execPrel f s
  | .tld f => Sys2Proof.Machine.execTld f s
  | .tst f => Sys2Proof.Machine.execTst f s
  | .ract f => Sys2Proof.Machine.execRact f s
  | .rpre f => Sys2Proof.Machine.execRpre f s
  | .discard f => Sys2Proof.Machine.execDiscard f s
  | .rcall f => Sys2Proof.Machine.execRcall f s
  | .rcallp f => Sys2Proof.Machine.execRcallp f s
  | .ecmd f => Sys2Proof.Machine.execEcmd f s
  | .eqry f => Sys2Proof.Machine.execEqry f s
  | .ecan f => Sys2Proof.Machine.execEcan f s
  | .barr f => Sys2Proof.Machine.execBarr f s
  | .bwait f => Sys2Proof.Machine.execBwait f s
  | .bmask f => Sys2Proof.Machine.execBmask f s
  | .prst f => Sys2Proof.Machine.execPrst f s
  | .pwait f => Sys2Proof.Machine.execPwait f s
  | .sstep f => Sys2Proof.Machine.execSstep f s
  | .monArm f => Sys2Proof.Machine.execMonArm f s
  | .monWait f => Sys2Proof.Machine.execMonWait f s
  | .monWaitne f => Sys2Proof.Machine.execMonWaitne f s
  | .mvp f => Sys2Proof.Machine.execMvp f s
  | .mvr f => Sys2Proof.Machine.execMvr f s
  | .mvi f => Sys2Proof.Machine.execMvi f s
  | .trig f => Sys2Proof.Machine.execTrig f s
  | .abank f => Sys2Proof.Machine.execAbank f s
  | .areply f => Sys2Proof.Machine.execAreply f s
  | .anext f => Sys2Proof.Machine.execAnext f s
  | .cmdCopy e => Sys2Proof.Machine.execCmdCopy e s
  | .cmdCopy2d e => Sys2Proof.Machine.execCmdCopy2d e s
  | .cmdGather e => Sys2Proof.Machine.execCmdGather e s
  | .cmdScatter e => Sys2Proof.Machine.execCmdScatter e s
  | .cmdFill e => Sys2Proof.Machine.execCmdFill e s
  | .cmdCollectiveReduce e => Sys2Proof.Machine.execCmdCollectiveReduce e s
  | .cmdPageMigrateMove e => Sys2Proof.Machine.execCmdPageMigrateMove e s
  | .cmdPageMigrateShoot e => Sys2Proof.Machine.execCmdPageMigrateShoot e s
  | .cmdBankMacLaunch e => Sys2Proof.Machine.execCmdBankMacLaunch e s
  | .engineCommandActivate e => Sys2Proof.Machine.execEngineCommandActivate e s
  | .enginePage e => Sys2Proof.Machine.execEnginePage e s
  | .handlerRead r => Sys2Proof.Machine.execHandlerRead r s
  | .handlerWrite r => Sys2Proof.Machine.execHandlerWrite r s
  | .handlerElementAtomic r => Sys2Proof.Machine.execHandlerElementAtomic r s
  | .handlerTileRead r => Sys2Proof.Machine.execHandlerTileRead r s
  | .handlerTileWrite r => Sys2Proof.Machine.execHandlerTileWrite r s
  | .handlerTileAdd r => Sys2Proof.Machine.execHandlerTileAdd r s
  | .handlerVectorAdd r => Sys2Proof.Machine.execHandlerVectorAdd r s
  | .handlerHandOffPush r => Sys2Proof.Machine.execHandlerHandOffPush r s
  | .handlerHandOffPop r => Sys2Proof.Machine.execHandlerHandOffPop r s
  | .migrateOut r => Sys2Proof.Machine.execMigrateOut r s
  | .migrateIn r => Sys2Proof.Machine.execMigrateIn r s
  | .handlerRemoteMonitorArm r => Sys2Proof.Machine.execHandlerRemoteMonitorArm r s
  | .handlerReductionRecall r => Sys2Proof.Machine.execHandlerReductionRecall r s
  | .handlerBankMacLaunch r => Sys2Proof.Machine.execHandlerBankMacLaunch r s
  | .loadedHandler r => Sys2Proof.Machine.execLoadedHandler r s
  | .mgo r => Sys2Proof.Machine.execMgo r s
  | .agCount r g v => Sys2Proof.Machine.execAgCount r g v s
  | .mvGo r v => Sys2Proof.Machine.execMvGo r v s
  | .cmGo r => Sys2Proof.Machine.execCmGo r s
  | .vDataRead r d => Sys2Proof.Machine.execVDataRead r d s
  | .vDataWrite r v => Sys2Proof.Machine.execVDataWrite r v s
  | .bankMacProgramRun r => Sys2Proof.Machine.execBankMacProgramRun r s
  | .bankMacComplete r => Sys2Proof.Machine.execBankMacComplete r s
  | .bankLockExpiry r => Sys2Proof.Machine.execBankLockExpiry r s
  | .issueArbitration r => Sys2Proof.Machine.execIssueArbitration r s
  | .priorityAging r id => Sys2Proof.Machine.execPriorityAging r id s
  | .slotPlacement r n => Sys2Proof.Machine.execSlotPlacement r n s
  | .preEmption r n => Sys2Proof.Machine.execPreEmption r n s
  | .gangReservation g b => Sys2Proof.Machine.execGangReservation g b s
  | .gangReservationTimeout r => Sys2Proof.Machine.execGangReservationTimeout r s
  | .gangRelease g => Sys2Proof.Machine.execGangRelease g s
  | .gangBmaskLoadTimeout r g => Sys2Proof.Machine.execGangBmaskLoadTimeout r g s
  | .trapEntry r n c v => Sys2Proof.Machine.execTrapEntry r n c v s
  | .interruptEntry r n => Sys2Proof.Machine.execInterruptEntry r n s
  | .wfiWake r n => Sys2Proof.Machine.execWfiWake r n s
  | .taskWatchdogExpiry r n => Sys2Proof.Machine.execTaskWatchdogExpiry r n s
  | .taskFailureRemoval r n => Sys2Proof.Machine.execTaskFailureRemoval r n s
  | .tokenStatusWrite => Sys2Proof.Machine.execTokenStatusWrite s
  | .statusUndeliverable => Sys2Proof.Machine.execStatusUndeliverable s
  | .spawnTopupAck r n => Sys2Proof.Machine.execSpawnTopupAck r n s
  | .topupMessage => Sys2Proof.Machine.execTopupMessage s
  | .weightReturn => Sys2Proof.Machine.execWeightReturn s
  | .joinSignal j => Sys2Proof.Machine.execJoinSignal j s
  | .joinFailure j c => Sys2Proof.Machine.execJoinFailure j c s
  | .dispatch p => Sys2Proof.Machine.execDispatch p s
  | .lrec port q off size rec => Sys2Proof.Machine.execLrec port q off size rec s
  | .qctlResume port q => Sys2Proof.Machine.execQctlResume port q s
  | .qctlFlush port q => Sys2Proof.Machine.execQctlFlush port q s
  | .qctlClearDrops port q => Sys2Proof.Machine.execQctlClearDrops port q s
  | .joinCounterWrite port j v => Sys2Proof.Machine.execJoinCounterWrite port j v s
  | .hostDoorbell port p v => Sys2Proof.Machine.execHostDoorbell port p v s
  | .vaultWindowRead port r off => Sys2Proof.Machine.execVaultWindowRead port r off s
  | .vaultWindowWrite port r off v => Sys2Proof.Machine.execVaultWindowWrite port r off v s
  | .ltolWrite port p v => Sys2Proof.Machine.execLtolWrite port p v s
  | .redundantCompare l => Sys2Proof.Machine.execRedundantCompare l s
  | .matrixOpStart r m => Sys2Proof.Machine.execMatrixOpStart r m s
  | .matrixOpComplete r m => Sys2Proof.Machine.execMatrixOpComplete r m s
  | .tileTransferTile r => Sys2Proof.Machine.execTileTransferTile r s
  | .bankRefresh r bank => Sys2Proof.Machine.execBankRefresh r bank s
  | .bankRefreshEnd r bank => Sys2Proof.Machine.execBankRefreshEnd r bank s
  | .testerBurst r bank row weak => Sys2Proof.Machine.execTesterBurst r bank row weak s
  | .testerBurstAbort r => Sys2Proof.Machine.execTesterBurstAbort r s
  | .rowRepair r row => Sys2Proof.Machine.execRowRepair r row s
  | .vaultThrottleChange r lvl => Sys2Proof.Machine.execVaultThrottleChange r lvl s
  | .coreThrottleRaise die => Sys2Proof.Machine.execCoreThrottleRaise die s
  | .coreThrottleLower die => Sys2Proof.Machine.execCoreThrottleLower die s
  | .bandStep b => Sys2Proof.Machine.execBandStep b s
  | .bandInjection r fam => Sys2Proof.Machine.execBandInjection r fam s
  | .injectionClaim r fam => Sys2Proof.Machine.execInjectionClaim r fam s
  | .retireNotice => Sys2Proof.Machine.execRetireNotice s
  | .ejectionMessage => Sys2Proof.Machine.execEjectionMessage s
  | .ejectionWriteComplete => Sys2Proof.Machine.execEjectionWriteComplete s
  | .probeCircuit r tag => Sys2Proof.Machine.execProbeCircuit r tag s
  | .barrierPhaseComplete r tag => Sys2Proof.Machine.execBarrierPhaseComplete r tag s
  | .barrierWatchdogExpiry r n => Sys2Proof.Machine.execBarrierWatchdogExpiry r n s
  | .rollback dom => Sys2Proof.Machine.execRollback dom s
  | .monitorWake r n => Sys2Proof.Machine.execMonitorWake r n s
  | .monitorTimeout r n => Sys2Proof.Machine.execMonitorTimeout r n s
  | .netredRoundComplete tree => Sys2Proof.Machine.execNetredRoundComplete tree s
  | .reductionFlush r => Sys2Proof.Machine.execReductionFlush r s
  | .reductionRecall r granule => Sys2Proof.Machine.execReductionRecall r granule s
  | .pageWalk r n ga acc => Sys2Proof.Machine.execPageWalk r n ga acc s
  | .setDirty r off => Sys2Proof.Machine.execSetDirty r off s
  | .faultResolve p k => Sys2Proof.Machine.execFaultResolve p k s
  | .shootdownReceipt r => Sys2Proof.Machine.execShootdownReceipt r s
  | .shootdownAck e => Sys2Proof.Machine.execShootdownAck e s
  | .redirectNotice r => Sys2Proof.Machine.execRedirectNotice r s
  | .discardAtHome => Sys2Proof.Machine.execDiscardAtHome s
  | .srseedWrite r n v => Sys2Proof.Machine.execSrseedWrite r n v s
  | .fpctlWrite r n v => Sys2Proof.Machine.execFpctlWrite r n v s
  | .bmaskWrite r tag v => Sys2Proof.Machine.execBmaskWrite r tag v s
  | .ptbaseWrite r v => Sys2Proof.Machine.execPtbaseWrite r v s
  | .errinjWrite r n v => Sys2Proof.Machine.execErrinjWrite r n v s
  | .spkeyWrite r v => Sys2Proof.Machine.execSpkeyWrite r v s
  | .hqgWrite q v => Sys2Proof.Machine.execHqgWrite q v s
  | .slotDoorbell r n v => Sys2Proof.Machine.execSlotDoorbell r n v s
  | .registerWrite r n num v => Sys2Proof.Machine.execRegisterWrite r n num v s
  | .powerStateEntry b lvl => Sys2Proof.Machine.execPowerStateEntry b lvl s
  | .wakeEvent b => Sys2Proof.Machine.execWakeEvent b s
  | .wakeComplete b => Sys2Proof.Machine.execWakeComplete b s
  | .thermalHold die => Sys2Proof.Machine.execThermalHold die s
  | .thermalHoldRelease die => Sys2Proof.Machine.execThermalHoldRelease die s
  | .linkRateLower l => Sys2Proof.Machine.execLinkRateLower l s
  | .linkDown l => Sys2Proof.Machine.execLinkDown l s
  | .packageReset => Sys2Proof.Machine.execPackageReset s
  | .hostPortReset port => Sys2Proof.Machine.execHostPortReset port s
  | .monitorBoot => Sys2Proof.Machine.execMonitorBoot s
  | .ucieTraining absent => Sys2Proof.Machine.execUcieTraining absent s
  | .vaultTest repairs => Sys2Proof.Machine.execVaultTest repairs s
  | .cufflinkNegotiation dev gens => Sys2Proof.Machine.execCufflinkNegotiation dev gens s
  | .hostEnumeration => Sys2Proof.Machine.execHostEnumeration s
  | .partitionCreation spec => Sys2Proof.Machine.execPartitionCreation spec s
  | .partitionRemoval p bands => Sys2Proof.Machine.execPartitionRemoval p bands s
  | .outstandingInstructionComplete r n => Sys2Proof.Machine.execOutstandingInstructionComplete r n s
  | .illegalInstruction w => Sys2Proof.Machine.execIllegalInstruction w s
  | .heldRequestResend r => Sys2Proof.Machine.execHeldRequestResend r s
  | .testerBurstEnd r => Sys2Proof.Machine.execTesterBurstEnd r s
  | .agentUnitComplete r u => Sys2Proof.Machine.execAgentUnitComplete r u s
  | .linkRetrain l rate => Sys2Proof.Machine.execLinkRetrain l rate s
  | .hostPortTraining port ver => Sys2Proof.Machine.execHostPortTraining port ver s
  | .secondTierPortDown port => Sys2Proof.Machine.execSecondTierPortDown port s
  | .secondTierPortUp port ver => Sys2Proof.Machine.execSecondTierPortUp port ver s

end Sys2Proof.Machine
end

