-- ==== Sys2Proof/Machine/Step.lean ====
section
/-!
DEFINITION. One step of the machine: time passes, then the next input of the agenda is taken, or a hardware unit moves, or a
thread issues; and the state with a word where the next step fetches.
-/

namespace Sys2Proof.Machine

/-- The clock and the tick of a step (DESIGN CHOICE, log entry 2). What became eligible is noted with the time that ends
(R320). -/
def State.advance (s : State) : State :=
  let s := s.noteAll
  { s with cycle := s.cycle + 1 + word (Config.stepCycles s.tick), tick := s.tick + 1 }

/-- The machine by itself: a unit's turn, where one has something to do, or a turn of issue. -/
def machineTurn (s : State) : Host.Outcome State Fault Refusal :=
  if s.unitTurn then
    match internalEvent s with
    | some t => .next { t with unitTurn := false }
    | none => issueTurn exec s
  else issueTurn exec s

/-- The state in which a turn is taken: time has passed, and the bands have moved with it (R138). -/
def State.elapsed (s : State) : State := s.advance.bandsReach

/-- One step. An input is an event of the agenda; an instruction word there is no input and is passed over. -/
def step (s : State) : Host.Outcome State Fault Refusal :=
  let s := s.elapsed
  match s.agenda with
  | [] => machineTurn s
  | i :: rest =>
    if hasWord i then .next { s with agenda := rest }
    else if s.inputWaits i then machineTurn s
    else exec i { s with agenda := rest }

/-- The state with an instruction where the next step fetches it. Every word of the table has 32 bits. -/
def State.withFetchWord (s : State) (_nbits w : Nat) : State := s.placeWord w

end Sys2Proof.Machine
end

