-- ==== Sys2Proof/Safety.lean ====
section
/-!
DEFINITION. What counts as a safe run, the invariant of every step, and the terms in which claims say what an instruction
leaves alone.
-/

namespace Sys2Proof

/-- A state from which `n` steps all answer a next state. -/
def SafeFor (n : Nat) (s : Machine.State) : Prop := ∃ t, Host.Core.run core n s = .next t

/-- The invariant of every step: memory lists rising addresses and no zero byte. -/
def Inv (s : Machine.State) : Prop := Machine.Memory.wf s.mem

/-- A run that never stops. -/
def Safe (s : Machine.State) : Prop := ∀ n, SafeFor n s

namespace Claims

open Machine

/-- What an instruction may change of the thread that runs it, beside its pc: scalar registers, vector registers, masks,
bits of WARN that it may set, the sticky flags of FPCTL, the generator of R56, the list of outstanding instructions, the rows
written in its stack (R308), and what its armed monitor has met (R275, R276). -/
structure Footprint where
  regs : List Reg := []
  vregs : List Reg := []
  masks : List (Fin 8) := []
  warn : List Warn := []
  flags : Bool := false
  seed : Bool := false
  outst : Bool := false
  stack : Bool := false
  mon : Bool := false

/-- Whether a bit of DIRTY records something that a footprint may change (R308). -/
def Footprint.dirties (p : Footprint) (i : Nat) : Bool :=
  (decide (i = 17) && !p.regs.isEmpty) || (decide (i = 16) && !p.masks.isEmpty)
    || (decide (i = 18) && (!p.warn.isEmpty || p.flags || p.seed))
    || (decide (i = 19) && p.stack) || p.vregs.any (fun v => decide (i = v.val / 4))

/-- A wait of a monitor but for what it has seen. -/
def unseen (w : MonWait) : MonWait := { w with seen := none }

/-- The thread `b` is `a` but for a footprint and the pc: every other register, token state, mask, status, special and
exception register, and the accumulators, are as they were. WARN, the flags and DIRTY only gain bits. -/
structure Keeps (p : Footprint) (a b : Thread) : Prop where
  regs : ∀ r, r ∉ p.regs → b.get r = a.get r
  tokens : ∀ r : Reg, r ∉ p.regs → bit b.tokErr r.val = bit a.tokErr r.val ∧ bit b.tokUnc r.val = bit a.tokUnc r.val
  vregs : ∀ v, v ∉ p.vregs → b.vget v = a.vget v
  masks : ∀ m, m ∉ p.masks → b.mget m = a.mget m
  warn : ∀ i, bit b.warn i = bit a.warn i ∨ (i ∈ p.warn.map Warn.bit ∧ bit b.warn i = true)
  fpctl : ∀ i, bit b.fpctl i = bit a.fpctl i ∨ (p.flags = true ∧ 8 ≤ i ∧ i < 13 ∧ bit b.fpctl i = true)
  seed : p.seed = false → b.srseed = a.srseed
  dirty : ∀ i, bit b.dirty i = bit a.dirty i ∨ (p.dirties i = true ∧ bit b.dirty i = true)
  outst : p.outst = false → b.outst = a.outst
  stack : p.stack = false → b.stackRows = a.stackRows
  mon : p.mon = false → b.monHit = a.monHit ∧ b.monWait = a.monWait
  waits : b.monWait.map unseen = a.monWait.map unseen
  rest : b = { a with pc := b.pc, regs := b.regs, vregs := b.vregs, masks := b.masks, tokErr := b.tokErr,
                      tokUnc := b.tokUnc, warn := b.warn, fpctl := b.fpctl, srseed := b.srseed, dirty := b.dirty,
                      outst := b.outst, stackRows := b.stackRows, monHit := b.monHit, monWait := b.monWait }

/-- Only the thread that issues differs, and every byte of memory reads as before. -/
def Alone (s t : State) : Prop := t = s.setTh t.th ∧ ∀ l, t.byteAt l = s.byteAt l

/-- The instruction completes: a next state, the pc at the following word, and nothing outside a footprint changed. -/
structure Completes (p : Footprint) (s t : State) : Prop where
  alone : Alone s t
  keeps : Keeps p s.th t.th
  pc : t.th.pc = s.th.pc.add 4

/-- A long-latency instruction is outstanding, with its lookahead and what it writes, and holds no trap (R23). -/
def Issued (s t : State) (lk : Fin 16) (dest : List Res) : Prop :=
  ∃ o, t.th.outst = s.th.outst ++ [o] ∧ o.pc = s.th.pc ∧ o.lk = lk.val ∧ o.dest = dest ∧ o.trap = none

/-- A register as a write of it leaves it: s0 holds zero whatever is written (R164). -/
def held (r : Reg) (p : Ptr) : Ptr := if r = 0 then .zero else p

/-! ### Flags -/

/-- FPCTL.RM as a member that does not honour SR uses it: SR (5) rounds in RNE (0) (R55, R179). -/
def scalarMode (t : Thread) : Mode := if t.rm = 5 then 0 else t.rm

/-- No flag among `fl` has its enable bit set in FPCTL (R59). -/
def Untrapped (t : Thread) (fl : Flags) : Prop := fl &&& field t.fpctl 16 5 = 0

/-- FPCTL[12:8] gains exactly the flags `fl`. -/
def Flagged (a b : Thread) (fl : Flags) : Prop := ∀ i, i < 5 → bit b.fpctl (8 + i) = (bit a.fpctl (8 + i) || nbit fl i)

/-! ### Exceptions -/

/-- The issuing thread is a slot of a compute core outside monitor mode and outside a handler, with nothing outstanding
and no window to replay: a trap enters its handler at once. -/
structure MayTrap (s : State) : Prop where
  slot : s.turn.slot ≠ 4
  mode : s.th.mode ≠ 2
  intrap : bit s.th.thstat 5 = false
  outst : s.th.outst = []
  replay : s.th.replay = none

/-- Enter of R302 at the issuing thread, for a trap that no outstanding instruction raised; beside a footprint, only the
registers of the entry change. -/
structure TrapEntry (p : Footprint) (s t : State) (c : Cause) (tval : Word) (kind : Nat) : Prop where
  alone : Alone s t
  tepc : t.th.tepc = s.th.pc.v
  epcsb : field t.th.thstat 56 8 = s.th.pc.sb.toNat
  tcause : t.th.tcause = word (c.code + kind * 0x100)
  tval : t.th.tval = tval
  pmode : field t.th.thstat 10 2 = field s.th.thstat 8 2
  pie : field t.th.thstat 7 1 = field s.th.thstat 6 1
  ie : field t.th.thstat 6 1 = 0
  mode : t.th.mode = 1
  intrap : field t.th.thstat 5 1 = 1
  status : field t.th.thstat 0 5 = field s.th.thstat 0 5 ∧ field t.th.thstat 12 29 = field s.th.thstat 12 29
  pc : t.th.pc = { sb := BitVec.ofNat 8 (field s.me.tvec 56 8), v := word (4 * field s.me.tvec 2 54) }
  rest : Keeps p s.th { t.th with tepc := s.th.tepc, tcause := s.th.tcause, tval := s.th.tval, thstat := s.th.thstat,
                                  replay := s.th.replay, waitSince := s.th.waitSince, monWait := s.th.monWait, occ := s.th.occ }

/-! ### Accesses -/

/-- The place of an access of `n` bytes that the checks of R78 let pass: the own scratchpad, stack and vault, the data store
of an agent (R278), a scratchpad of a core within reach, or a page whose translation the
first-level TLB (an agent's own TLB) holds with the permission and, for a write, with D set. -/
def Placed (s : State) (ga : Ptr) (n : Nat) (acc : Access) (l : Loc) : Prop :=
  (ga.sb = 0xF0 ∧ s.turn.slot ≠ 4 ∧ ga.v.toNat + n ≤ 0x340000 ∧ l = scratchLoc s.turn.rank ga.v.toNat)
  ∨ (ga.sb = 0xF0 ∧ s.turn.slot = 4 ∧ ga.v.toNat + n ≤ 0x10000 ∧ l = { region := .agentData, home := s.turn.rank, off := ga.v.toNat })
  ∨ (ga.sb = 0xF1 ∧ s.turn.slot ≠ 4 ∧ ga.v.toNat + n ≤ 0x400000
      ∧ l = vaultLoc s.turn.rank (stackBase s.turn.slot.val + ga.v.toNat))
  ∨ (ga.sb = 0xF2 ∧ s.turn.slot ≠ 4 ∧ s.isCore (ga.v.toNat / 2 ^ 48) = true ∧ ga.v.toNat % 2 ^ 48 + n ≤ 0x340000
      ∧ s.reaches s.turn.rank (ga.v.toNat / 2 ^ 48) = true ∧ l = scratchLoc (ga.v.toNat / 2 ^ 48) (ga.v.toNat % 2 ^ 48))
  ∨ (ga.sb = 0xF3 ∧ s.supervisor = true ∧ ga.v.toNat + n ≤ 0x40000000 ∧ l = vaultLoc s.turn.rank ga.v.toNat)
  ∨ (ga.sb.toNat < 0xF0 ∧ bit s.me.ptbase 0 = true ∧ ∃ e,
      (if s.turn.slot = 4 then s.me.agent.tlb else s.me.utlb).find? (fun t => t.covers (vpnOf ga) (field s.me.asid 0 16)) = some e
      ∧ permits e.leaf acc s.supervisor = true ∧ (dirties acc = true → bit e.leaf 58 = true)
      ∧ l = placeOf ((s.partOf s.turn.rank).getD 0) e.leaf e.sz (vpnOf ga) ga.v.toNat
      ∧ s.redirected ((s.partOf s.turn.rank).getD 0) l = none)

/-- Nothing at the home of a place delays an access of `n` bytes by the issuing thread or changes what it delivers: no page
move or access held by one, sleep, refresh, repair or lock, no deferred reduction in its granules, no uncorrectable error, no
unmatched entry of a pair buffer, and no injection armed; a home of another core is within reach, its turn has come there, and
the domain's traffic is not held. -/
structure Quiet (s : State) (l : Loc) (n : Nat) : Prop where
  still : s.migrating l = false
  held : s.heldOrder = []
  remote : l.home ≠ s.turn.rank → s.homeReached s.turn.rank l = true ∧ s.trafficHeld s.turn.rank s.domain = false
    ∧ s.callerWaits s.turn l.home = false
  meets : s.meets (decide (s.turn.slot = 4) && decide (l.home = s.turn.rank)) l = .nothing
  reds : ∀ p ∈ s.cores, ∀ e ∈ p.2.redbuf, e.loc.granule < l.key / 64 ∨ (l.key + n - 1) / 64 < e.loc.granule
  readable : s.unreadable l n = false
  matched : s.look l n = s.peek l n
  uninjected : bit s.th.errinj 31 = false

/-- A write of `n` bytes to a place is allowed and changes no byte but its own: the place is no stationary or mitten position
(R121) and no fixed entry of a handler table (R300), no earlier operation of the thread is still to read there (R103, R129),
the thread works outside checkpoint mode (R356), and the frame of a vault place is not zero-mapped (R342). -/
structure PlainWrite (s : State) (l : Loc) (n : Nat) : Prop where
  table : l.region = .agentData → l.off < 0xF800 ∨ 0xF900 ≤ l.off
  free : s.fixedLoc l = false
  unread : s.readFirst l n = false
  plain : ckptDom s.th.domid = false
  mapped : l.region = .vault → (s.core l.home).vault.zero.find? (fun z => decide (z.1 = l.off / 0x10000)) = none

/-- Every byte reads as before but for the `n` bytes at a place, which hold the low bytes of `v`. -/
def Stored (s t : State) (l : Loc) (n v : Nat) : Prop :=
  t.peek l n = v % 256 ^ n ∧ ∀ k : Loc, k.key < l.key ∨ l.key + n ≤ k.key → t.byteAt k = s.byteAt k

/-- Every byte of memory reads as before. -/
def Untouched (s t : State) : Prop := ∀ k, t.byteAt k = s.byteAt k

end Claims

end Sys2Proof
end

