-- ==== Sys2Proof/Certificates/Slice0/Obligations.lean ====
section
/-!
DEFINITION. The statements for the provers: each `Obligations.<Name>` says what its title in OBLIGATIONS.json says, and the
tables and predicates that the statements are written in stand beside them in `Sys2Proof.Claims`.
-/

open Sys2Proof Sys2Proof.Machine Sys2Proof.Claims

/-! ### Integer arithmetic, immediates and constants (R171-R177) -/

namespace Sys2Proof.Claims

/-- The bits of a word from bit 0 up. -/
def bitsUp (a : Word) : List Bool := (List.range 64).map a.getLsbD

/-- The bits of a word from bit 63 down. -/
def bitsDown (a : Word) : List Bool := (List.range 64).map (fun i => a.getLsbD (63 - i))

/-- A truth value as an integer result. -/
def truth (p : Prop) [Decidable p] : Word := if p then 1 else 0

/-- The members of the alu group outside the divide class, with the results of the table of R173. -/
def aluTable : List ((FmtA → Instr) × (Word → Word → Word)) :=
  [ (.add, fun a b => BitVec.ofInt 64 (a.toInt + b.toInt)),
    (.sub, fun a b => BitVec.ofInt 64 (a.toInt - b.toInt)),
    (.and, fun a b => a &&& b), (.or, fun a b => a ||| b), (.xor, fun a b => a ^^^ b),
    (.sll, fun a b => if b.toNat < 64 then word (a.toNat * 2 ^ b.toNat) else 0),
    (.srl, fun a b => word (a.toNat / 2 ^ b.toNat)),
    (.sra, fun a b => BitVec.ofInt 64 (a.toInt / 2 ^ b.toNat)),
    (.slt, fun a b => truth (a.toInt < b.toInt)), (.sltu, fun a b => truth (a.toNat < b.toNat)),
    (.min, fun a b => BitVec.ofInt 64 (min a.toInt b.toInt)), (.max, fun a b => BitVec.ofInt 64 (max a.toInt b.toInt)),
    (.minu, fun a b => word (min a.toNat b.toNat)), (.maxu, fun a b => word (max a.toNat b.toNat)),
    (.mul, fun a b => word (a.toNat * b.toNat)),
    (.mulh, fun a b => BitVec.ofInt 64 (a.toInt * b.toInt / 2 ^ 64)),
    (.mulhu, fun a b => word (a.toNat * b.toNat / 2 ^ 64)),
    (.clz, fun a _ => word ((bitsDown a).takeWhile (fun x => !x)).length),
    (.ctz, fun a _ => word ((bitsUp a).takeWhile (fun x => !x)).length),
    (.popc, fun a _ => word ((bitsUp a).count true)) ]

/-- What an F-A member of an issue-pipeline class may change: d, and WARN.LKIG where LK is not zero (R25, R173). -/
def aluFoot (f : FmtA) : Footprint := { regs := [f.d], warn := if f.lk = 0 then [] else [.lkig] }

/-- The quotient and remainder of the divide class, from the table and the text of R174. -/
def SignedQuotient (a b q : Word) : Prop :=
  if b = 0 then q = if a = 0 then 0 else if a.toInt < 0 then 0x8000000000000000 else 0x7FFFFFFFFFFFFFFF
  else if a.toInt = -2 ^ 63 ∧ b.toInt = -1 then q = 0x7FFFFFFFFFFFFFFF
  else q.toInt = a.toInt.tdiv b.toInt

def SignedRemainder (a b r : Word) : Prop :=
  if b = 0 then r = a
  else if a.toInt = -2 ^ 63 ∧ b.toInt = -1 then r = 0
  else r.toInt = a.toInt - b.toInt * a.toInt.tdiv b.toInt

def UnsignedQuotient (a b q : Word) : Prop :=
  if b = 0 then q = if a = 0 then 0 else 0xFFFFFFFFFFFFFFFF
  else q.toNat * b.toNat ≤ a.toNat ∧ a.toNat < (q.toNat + 1) * b.toNat

def UnsignedRemainder (a b r : Word) : Prop :=
  if b = 0 then r = a else r.toNat < b.toNat ∧ ∃ q, a.toNat = b.toNat * q + r.toNat

def divideTable : List ((FmtA → Instr) × (Word → Word → Word → Prop)) :=
  [(.div, SignedQuotient), (.divu, UnsignedQuotient), (.rem, SignedRemainder), (.remu, UnsignedRemainder)]

/-- The immediate members with their major opcodes and the results of R175, i the sign-extended immediate. -/
def immTable : List (Nat × (FmtI → Instr) × (Word → Int → Word)) :=
  [ (0x02, .addi, fun a i => BitVec.ofInt 64 (a.toInt + i)),
    (0x03, .andi, fun a i => a &&& BitVec.ofInt 64 i),
    (0x04, .ori, fun a i => a ||| BitVec.ofInt 64 i),
    (0x05, .xori, fun a i => a ^^^ BitVec.ofInt 64 i),
    (0x06, .slti, fun a i => truth (a.toInt < i)),
    (0x07, .sltiu, fun a i => truth (a.toNat < (BitVec.ofInt 64 i).toNat)) ]

/-- The shifts by a constant (R177). -/
def shiftTable : List ((FmtSh → Instr) × (Word → Nat → Word)) :=
  [ (.slli, fun a n => word (a.toNat * 2 ^ n)), (.srli, fun a n => word (a.toNat / 2 ^ n)),
    (.srai, fun a n => BitVec.ofInt 64 (a.toInt / 2 ^ n)) ]

/-- The pointer members (R178) but for `pchk`, as functions of two registers. -/
def pointerTable : List ((FmtA → Instr) × (Ptr → Ptr → Ptr)) :=
  [ (.pmk, fun a b => { sb := BitVec.ofNat 8 b.v.toNat, v := a.v }),
    (.padd, fun a b => { sb := a.sb, v := a.v + b.v }),
    (.ptag, fun a _ => { sb := 0, v := word a.sb.toNat }),
    (.pclr, fun a _ => { sb := 0, v := a.v }),
    (.prank, fun a b => { sb := 0xF2, v := word (b.v.toNat % 2 ^ 16 * 2 ^ 48 + a.v.toNat % 2 ^ 48) }) ]

end Sys2Proof.Claims

/-- R173: every alu member outside the divide class writes its result with a zero space byte, whatever its operands and LK,
and leaves the rest of the machine alone. R174: the divide class never traps; its results, the saturated and limit cases
included, and it is outstanding. -/
def Obligations.IntegerMembers : Prop :=
  (∀ e ∈ aluTable, ∀ (f : FmtA) (s : State), ∃ t, exec (e.1 f) s = .next t
    ∧ Completes (aluFoot f) s t
    ∧ t.th.get f.d = held f.d (.int (e.2 (s.th.val f.a) (s.th.val f.b))))
  ∧ (∀ e ∈ divideTable, ∀ (f : FmtA) (s : State), ∃ t r, exec (e.1 f) s = .next t
    ∧ Completes { regs := [f.d], outst := true } s t
    ∧ t.th.get f.d = held f.d (.int r) ∧ e.2 (s.th.val f.a) (s.th.val f.b) r
    ∧ Issued s t f.lk [.s f.d])

/-- R175: the immediate members, their major opcodes, and the two facts that the rule derives. -/
def Obligations.ImmediateMembers : Prop :=
  (∀ e ∈ immTable, ∀ (f : FmtI) (s : State), encodeNat (e.2.1 f) % 64 = e.1 ∧ ∃ t, exec (e.2.1 f) s = .next t
    ∧ Completes { regs := [f.d] } s t
    ∧ t.th.get f.d = held f.d (.int (e.2.2 (s.th.val f.a) f.imm.toInt)))
  ∧ (∀ i : BitVec 16, -32768 ≤ i.toInt ∧ i.toInt ≤ 32767)
  ∧ (∀ (f : FmtI) (s t : State), f.imm = 0xFFFF → f.d ≠ 0 → exec (.andi f) s = .next t → t.th.val f.d = s.th.val f.a)
  ∧ (∀ (f : FmtI) (s t : State), f.imm = 0xFFFF → f.d ≠ 0 → exec (.sltiu f) s = .next t →
      (t.th.val f.d = 1 ↔ s.th.val f.a ≠ 0xFFFFFFFFFFFFFFFF))

/-! ### Branches and jumps (R185, R186) -/

namespace Sys2Proof.Claims

/-- The branches: major opcode and condition of R185. -/
def branchTable : List (Nat × (FmtB → Instr) × (Word → Word → Bool)) :=
  [ (0x14, .beq, fun a b => decide (a = b)), (0x15, .bne, fun a b => decide (a ≠ b)),
    (0x16, .blt, fun a b => decide (a.toInt < b.toInt)), (0x17, .bge, fun a b => decide (b.toInt ≤ a.toInt)),
    (0x18, .bltu, fun a b => decide (a.toNat < b.toNat)), (0x19, .bgeu, fun a b => decide (b.toNat ≤ a.toNat)) ]

end Sys2Proof.Claims

/-- R185: when each branch is taken, where it goes, and that it changes only the pc. -/
def Obligations.Branches : Prop :=
  ∀ e ∈ branchTable, ∀ (f : FmtB) (s : State), encodeNat (e.2.1 f) % 64 = e.1
    ∧ ∃ t, exec (e.2.1 f) s = .next t ∧ Alone s t ∧ Keeps {} s.th t.th
      ∧ t.th.pc.sb = s.th.pc.sb
      ∧ t.th.pc.v = if e.2.2 (s.th.val f.a) (s.th.val f.b) then BitVec.ofInt 64 (s.th.pc.v.toInt + f.off.toInt * 4)
          else s.th.pc.v + 4

/-- R176, R177: `lui`, `lsi` and the shifts by a constant. R178: the pointer members and `paddi` build, keep or drop a space
byte; `pchk` gives 0 for a global address, 0x02 for a privileged space in user mode, 0x03 past the scratchpad window. R186:
`jal` and `jalr` write the link and go to their targets; the target of `jalr` is formed before d is written. -/
def Obligations.ConstantsAndPointers : Prop :=
  ((∀ (f : FmtU) (s : State), ∃ t, exec (.lui f) s = .next t ∧ Completes { regs := [f.d] } s t
    ∧ t.th.get f.d = held f.d (.int (BitVec.ofInt 64 (f.imm.toInt * 2 ^ 11))))
  ∧ (∀ (f : FmtU) (s : State), ∃ t, exec (.lsi f) s = .next t ∧ Completes { regs := [f.d] } s t
    ∧ t.th.get f.d = held f.d (.int (word ((s.th.val f.d).toNat * 2 ^ 21 + f.imm.toNat))))
  ∧ (∀ e ∈ shiftTable, ∀ (f : FmtSh) (s : State), ∃ t, exec (e.1 f) s = .next t
    ∧ Completes { regs := [f.d] } s t
    ∧ t.th.get f.d = held f.d (.int (e.2 (s.th.val f.a) f.sh.val))))
  ∧ ((∀ e ∈ pointerTable, ∀ (f : FmtA) (s : State), ∃ t, exec (e.1 f) s = .next t
    ∧ Completes (aluFoot f) s t ∧ t.th.get f.d = held f.d (e.2 (s.th.get f.a) (s.th.get f.b)))
  ∧ (∀ (f : FmtI) (s : State), ∃ t, exec (.paddi f) s = .next t ∧ Completes { regs := [f.d] } s t
    ∧ t.th.get f.d = held f.d { sb := (s.th.get f.a).sb, v := (s.th.get f.a).v + BitVec.ofInt 64 f.imm.toInt })
  ∧ (∀ (f : FmtA) (s : State), ∃ t c, exec (.pchk f) s = .next t ∧ Completes (aluFoot f) s t
    ∧ t.th.get f.d = held f.d (.int (word c)) ∧ c ∈ [0, 2, 3, 6]
    ∧ ((s.th.get f.a).sb.toNat < 0xF0 → c = 0)
    ∧ (((s.th.get f.a).sb = 0xF3 ∨ (s.th.get f.a).sb = 0xF4) → s.supervisor = false → c = 2)
    ∧ ((s.th.get f.a).sb = 0xF0 → s.turn.slot ≠ 4 → (c = 3 ↔ 0x340000 ≤ (s.th.get f.a).v.toNat))
    ∧ (0xF5 ≤ (s.th.get f.a).sb.toNat → c = 3)))
  ∧ ((∀ (f : FmtJ) (s : State), ∃ t, exec (.jal f) s = .next t ∧ Alone s t ∧ Keeps { regs := [f.d] } s.th t.th
    ∧ t.th.get f.d = held f.d { sb := s.th.pc.sb, v := s.th.pc.v + 4 }
    ∧ t.th.pc = { sb := s.th.pc.sb, v := BitVec.ofInt 64 (s.th.pc.v.toInt + f.off.toInt * 4) })
  ∧ (∀ (f : FmtI) (s : State), ∃ t, exec (.jalr f) s = .next t ∧ Alone s t ∧ Keeps { regs := [f.d] } s.th t.th
    ∧ t.th.get f.d = held f.d { sb := s.th.pc.sb, v := s.th.pc.v + 4 }
    ∧ t.th.pc = { sb := (s.th.get f.a).sb, v := BitVec.ofInt 64 ((s.th.get f.a).v.toInt + f.imm.toInt) }))

/-! ### Taking an exception and returning from one (R190, R301-R303) -/

/-! ### Scalar floating point (R179-R181) -/

namespace Sys2Proof.Claims

/-- The exact result of a member before its rounding, with the flags that the operands raise. -/
abbrev Exact := Fmt → Mode → Nat → Nat → Nat → Machine.Num × Flags

/-- Round(x) with the flags of both (R179). -/
def rounded (F : Fmt) (m : Mode) (x : Machine.Num × Flags) : Nat × Flags := ((F.round m x.1 0).1, x.2 ||| (F.round m x.1 0).2)

/-- The members that round one exact sum, product or fused sum: a zero sum is negative in RDN (3) only (R61). -/
def fpRoundTable : List ((FmtF → Instr) × Exact) :=
  [ (.fadd, fun F m a b _ => Machine.Num.add (m == 3) (F.value a) (F.value b)),
    (.fsub, fun F m a b _ => Machine.Num.add (m == 3) (F.value a) (F.value b).neg),
    (.fmul, fun F _ a b _ => Machine.Num.mul (F.value a) (F.value b)),
    (.fmadd, fun F m a b d => Machine.Num.fma (m == 3) (F.value a) (F.value b) (F.value d)),
    (.fmsub, fun F m a b d => Machine.Num.fma (m == 3) (F.value a) (F.value b) (F.value d).neg) ]

/-- The members that do not round. -/
def fpPlainTable : List ((FmtF → Instr) × (Fmt → Nat → Nat → Nat × Flags)) :=
  [ (.fmin, fun F a b => F.minmax false a b), (.fmax, fun F a b => F.minmax true a b),
    (.feq, fun F a b => (if Machine.Num.eq (F.value a) (F.value b) then 1 else 0,
      if (F.value a).isSnan || (F.value b).isSnan then flagNV else 0)),
    (.flt, fun F a b => (if Machine.Num.lt (F.value a) (F.value b) then 1 else 0,
      if (F.value a).isNan || (F.value b).isNan then flagNV else 0)),
    (.fle, fun F a b => (if Machine.Num.lt (F.value a) (F.value b) || Machine.Num.eq (F.value a) (F.value b) then 1 else 0,
      if (F.value a).isNan || (F.value b).isNan then flagNV else 0)),
    (.fclass, fun F a _ => (F.classMask a, 0)),
    (.fsgnj, fun F a b => (a % 2 ^ (F.width - 1) + b / 2 ^ (F.width - 1) % 2 * 2 ^ (F.width - 1), 0)),
    (.fsgnjn, fun F a b => (a % 2 ^ (F.width - 1) + (1 - b / 2 ^ (F.width - 1) % 2) * 2 ^ (F.width - 1), 0)) ]

/-- What an fpu member may change. -/
def fpFoot (f : FmtF) : Footprint := { regs := [f.d], warn := [.lkig, .fmt], flags := true }

/-- The format of fn[6:5] and the operands of R47. -/
def fpFmt (f : FmtF) : Fmt := if f.fmt = 0 then f64 else if f.fmt = 1 then f32 else if f.fmt = 2 then bf16 else f16

def fpOperand (F : Fmt) (w : Word) : Nat := w.toNat % 2 ^ F.width

/-- The integer kinds of R181: width and signedness. -/
def kindOf (b : Reg) : Nat × Bool := if b = 0 then (64, true) else if b = 1 then (64, false) else if b = 2 then (32, true) else (32, false)

/-- The least and greatest integer of a kind. -/
def kindRange (b : Reg) : Int × Int :=
  if (kindOf b).2 then (-2 ^ ((kindOf b).1 - 1), 2 ^ ((kindOf b).1 - 1) - 1) else (0, 2 ^ (kindOf b).1 - 1)

end Sys2Proof.Claims

/-- R179, R22: `fdiv` and `fsqrt` in f64 and f32 are one rounding of the exact quotient or root, and outstanding. R181: the
conversions for the codes 0-3 of b, outside SR; a code from 4 upward raises ILLEGAL with the word. -/
def Obligations.ScalarFpLong : Prop :=
  (∀ (f : FmtF) (s : State), f.fmt.val < 2 →
    (∀ r, r = (fpFmt f).div (scalarMode s.th) ((fpFmt f).value (fpOperand (fpFmt f) (s.th.val f.a)))
        ((fpFmt f).value (fpOperand (fpFmt f) (s.th.val f.b))) → Untrapped s.th r.2 →
      ∃ t, exec (.fdiv f) s = .next t ∧ Completes { fpFoot f with outst := true } s t ∧ Issued s t f.lk [.s f.d]
        ∧ t.th.get f.d = held f.d (.int (word r.1)) ∧ Flagged s.th t.th r.2)
    ∧ (∀ r, r = (fpFmt f).sqrt (scalarMode s.th) ((fpFmt f).value (fpOperand (fpFmt f) (s.th.val f.a))) → Untrapped s.th r.2 →
      ∃ t, exec (.fsqrt f) s = .next t ∧ Completes { fpFoot f with outst := true } s t ∧ Issued s t f.lk [.s f.d]
        ∧ t.th.get f.d = held f.d (.int (word r.1)) ∧ Flagged s.th t.th r.2))
  ∧ ((∀ (f : FmtF) (s : State), f.b.val < 4 → s.th.rm ≠ 5 →
    (∀ r, r = (fpFmt f).convert s.th.rm false ((fpFmt { f with fmt := Fin.ofNat 4 f.b.val }).value
          (fpOperand (fpFmt { f with fmt := Fin.ofNat 4 f.b.val }) (s.th.val f.a))) 0 → Untrapped s.th r.2 →
      ∃ t, exec (.fcvtf f) s = .next t ∧ Completes (fpFoot f) s t ∧ t.th.get f.d = held f.d (.int (word r.1)) ∧ Flagged s.th t.th r.2)
    ∧ (∀ r, r = toInteger s.th.rm (kindRange f.b).1 (kindRange f.b).2 ((fpFmt f).value (fpOperand (fpFmt f) (s.th.val f.a))) 0 →
        Untrapped s.th r.2 →
      ∃ t, exec (.fcvtfi f) s = .next t ∧ Completes (fpFoot f) s t ∧ t.th.get f.d = held f.d (.int (BitVec.ofInt 64 r.1))
        ∧ Flagged s.th t.th r.2)
    ∧ (∀ r x, x = (s.th.val f.a).toNat % 2 ^ (kindOf f.b).1 →
        r = (fpFmt f).convert s.th.rm false (Machine.Num.ofInt (if (kindOf f.b).2 ∧ 2 ^ ((kindOf f.b).1 - 1) ≤ x
              then (x : Int) - 2 ^ (kindOf f.b).1 else x)) 0 → Untrapped s.th r.2 →
      ∃ t, exec (.fcvtif f) s = .next t ∧ Completes (fpFoot f) s t ∧ t.th.get f.d = held f.d (.int (word r.1)) ∧ Flagged s.th t.th r.2))
  ∧ (∀ (f : FmtF) (s : State), 4 ≤ f.b.val → MayTrap s → ∀ c ∈ ([.fcvtf, .fcvtfi, .fcvtif] : List (FmtF → Instr)),
      ∃ t, exec (c f) s = .next t ∧ TrapEntry {} s t .illegal (word (encodeNat (c f))) 0))

/-- R59, R179: a rounding member writes Round of its exact result and raises its flags when no raised flag is enabled; SR
falls back to RNE with WARN.FMT. R179, R180: the comparisons, selections, sign injections and `fclass`; SR in FPCTL.RM sets
WARN.FMT. R59: a rounding member that raises an enabled flag writes no destination, sets the flags, and enters FPX with the
raised flags in TVAL. -/
def Obligations.ScalarFpMembers : Prop :=
  (∀ e ∈ fpRoundTable, ∀ (f : FmtF) (s : State) (r : Nat × Flags),
    r = rounded (fpFmt f) (scalarMode s.th) (e.2 (fpFmt f) (scalarMode s.th) (fpOperand (fpFmt f) (s.th.val f.a))
      (fpOperand (fpFmt f) (s.th.val f.b)) (fpOperand (fpFmt f) (s.th.val f.d))) →
    Untrapped s.th r.2 → ∃ t, exec (e.1 f) s = .next t ∧ Completes (fpFoot f) s t
      ∧ t.th.get f.d = held f.d (.int (word r.1)) ∧ Flagged s.th t.th r.2
      ∧ (s.th.rm = 5 → bit t.th.warn 2 = true))
  ∧ (∀ e ∈ fpPlainTable, ∀ (f : FmtF) (s : State) (r : Nat × Flags),
    r = e.2 (fpFmt f) (fpOperand (fpFmt f) (s.th.val f.a)) (fpOperand (fpFmt f) (s.th.val f.b)) →
    Untrapped s.th r.2 → ∃ t, exec (e.1 f) s = .next t ∧ Completes (fpFoot f) s t
      ∧ t.th.get f.d = held f.d (.int (word r.1)) ∧ Flagged s.th t.th r.2
      ∧ (s.th.rm = 5 → bit t.th.warn 2 = true))
  ∧ (∀ e ∈ fpRoundTable, ∀ (f : FmtF) (s : State) (r : Nat × Flags), MayTrap s →
    r = rounded (fpFmt f) (scalarMode s.th) (e.2 (fpFmt f) (scalarMode s.th) (fpOperand (fpFmt f) (s.th.val f.a))
      (fpOperand (fpFmt f) (s.th.val f.b)) (fpOperand (fpFmt f) (s.th.val f.d))) →
    ¬ Untrapped s.th r.2 → ∃ t, exec (e.1 f) s = .next t
      ∧ TrapEntry { flags := true } s t .fpx (word r.2) 0 ∧ Flagged s.th t.th r.2)

/-! ### Scalar memory accesses (R78, R121, R182-R184) -/

namespace Sys2Proof.Claims

/-- The bytes of a size or width code. -/
def widthOf (c : Nat) : Nat := 2 ^ c

/-- The value of `8 n` bits as a two's complement integer. -/
def signed (n x : Nat) : Int := if x % 256 ^ n < 256 ^ n / 2 then (x % 256 ^ n : Nat) else (x % 256 ^ n : Nat) - (256 ^ n : Nat)

/-- What `ld` writes for the bytes `m` (R182): a pointer, a sign extension, or a zero extension. -/
def loaded (f : FmtM) (m : Nat) : Ptr :=
  if f.size = 4 then { sb := BitVec.ofNat 8 (m / 2 ^ 64), v := word m }
  else if f.sx ∧ f.size.val < 3 then .int (BitVec.ofInt 64 (signed (widthOf f.size.val) m))
  else .int (word m)

/-- What `st` stores: the register's low bytes, or the pointer with bytes 9-15 zero (R182). -/
def storedBytes (f : FmtM) (p : Ptr) : Nat := if f.size = 4 then p.v.toNat + p.sb.toNat * 2 ^ 64 else p.v.toNat

/-- The effective address of F-M. -/
def accessGa (f : FmtM) (t : Thread) : Ptr := { sb := (t.get f.a).sb, v := (t.get f.a).v + BitVec.ofInt 64 f.off.toInt }

/-- The members of `amo`: from the old value, the operand and the comparand of `n` bytes, the value stored, if any, and
whether NV is set (R183). -/
def amoTable : List ((FmtAm → Instr) × (Nat → Nat → Nat → Nat → Option Nat × Bool)) :=
  [ (.amoSwap, fun _ _ e _ => (some e, false)), (.amoAdd, fun n m e _ => (some ((m + e) % 256 ^ n), false)),
    (.amoAnd, fun _ m e _ => (some (m &&& e), false)), (.amoOr, fun _ m e _ => (some (m ||| e), false)),
    (.amoXor, fun _ m e _ => (some (m ^^^ e), false)),
    (.amoSmin, fun n m e _ => (some (if signed n e < signed n m then e else m), false)),
    (.amoSmax, fun n m e _ => (some (if signed n m < signed n e then e else m), false)),
    (.amoUmin, fun _ m e _ => (some (min m e), false)), (.amoUmax, fun _ m e _ => (some (max m e), false)),
    (.amoCas, fun _ m e c => (if m = c then some e else none, false)),
    (.amoFadd, fun n m e _ =>
      let F := if n = 8 then f64 else f32
      let r := rounded F 0 (Machine.Num.add false (F.value m) (F.value e))
      (some r.1, nbit r.2 4)),
    (.amoFmin, fun n m e _ => let r := (if n = 8 then f64 else f32).minmax false m e; (some r.1, decide (r.2 ≠ 0))),
    (.amoFmax, fun n m e _ => let r := (if n = 8 then f64 else f32).minmax true m e; (some r.1, decide (r.2 ≠ 0))) ]

/-- Whether a member works on floating elements: a 4-byte old value is then zero-extended (R47, R183). -/
def amoFloat (i : Instr) : Bool :=
  match i with
  | .amoFadd _ => true | .amoFmin _ => true | .amoFmax _ => true
  | _ => false

/-- The members of `red` with their operation codes (R184). -/
def redTable : List (Nat × (FmtAm → Instr)) :=
  [(0, .redAdd), (1, .redFadd), (2, .redSmin), (3, .redSmax), (4, .redFmin), (5, .redFmax)]

/-- The bytes of an atomic's element. -/
def amoBytes (f : FmtAm) : Nat := if f.width = 0 then 4 else 8

end Sys2Proof.Claims

/-- R182: `ld` of an aligned address that the checks let pass delivers the bytes at its place, extended as its size and sx
say, and changes no byte; in the own core, with nothing to correct, it changes nothing else. -/
def Obligations.LoadsDeliver : Prop :=
  ∀ (f : FmtM) (s : State) (l : Loc), f.wf = true → Inv s → Placed s (accessGa f s.th) (widthOf f.size.val) .load l →
    (accessGa f s.th).v.toNat % widthOf f.size.val = 0 → Quiet s l (widthOf f.size.val) →
    ∃ t, exec (.ld f) s = .next t ∧ t.th.get f.d = held f.d (loaded f (s.peek l (widthOf f.size.val)))
      ∧ Keeps { regs := [f.d], warn := if f.sx ∧ 3 ≤ f.size.val then [.fmt] else [] } s.th t.th
      ∧ t.th.pc = s.th.pc.add 4 ∧ Untouched s t
      ∧ (l.home = s.turn.rank → (s.core l.home).vault.weakGranules = [] → (s.core l.home).weakScratch = [] → Alone s t)

/-- R182: `st` stores the low bytes of its register, or the pointer, at the place of its address, and no other byte. -/
def Obligations.StoresStore : Prop :=
  ∀ (f : FmtM) (s : State) (l : Loc), f.wf = true → Inv s → Placed s (accessGa f s.th) (widthOf f.size.val) .store l →
    (accessGa f s.th).v.toNat % widthOf f.size.val = 0 → Quiet s l (widthOf f.size.val) →
    PlainWrite s l (widthOf f.size.val) → ∃ t, exec (.st f) s = .next t ∧ Stored s t l (widthOf f.size.val) (storedBytes f (s.th.get f.d))
      ∧ Keeps { warn := if f.sx then [.fmt] else [], stack := true, mon := true } s.th t.th
      ∧ t.th.pc = s.th.pc.add 4

/-- R78, R182, R183: an access of its own scratchpad at an address that is not a multiple of its size raises MISALIGN with
the address in TVAL and the kind of the access, one that leaves the window APERTURE, and changes no register. R121: a store
or an atomic at a stationary or mitten position raises STATWR, where nothing delays it. -/
def Obligations.AccessesTrap : Prop :=
  ((∀ (f : FmtM) (s : State), f.wf = true → MayTrap s → (accessGa f s.th).sb = 0xF0 →
    ∀ k ∈ ([(.ld f, 1), (.st f, 2)] : List (Instr × Nat)),
      (0x340000 < (accessGa f s.th).v.toNat + widthOf f.size.val →
        ∃ t, exec k.1 s = .next t ∧ TrapEntry {} s t .aperture (accessGa f s.th).v k.2)
      ∧ ((accessGa f s.th).v.toNat + widthOf f.size.val ≤ 0x340000 → (accessGa f s.th).v.toNat % widthOf f.size.val ≠ 0 →
        ∃ t, exec k.1 s = .next t ∧ TrapEntry {} s t .misalign (accessGa f s.th).v k.2))
  ∧ (∀ (f : FmtAm) (s : State), f.wf = true → MayTrap s → (s.th.get f.a).sb = 0xF0 →
    (s.th.get f.a).v.toNat + amoBytes f ≤ 0x340000 → (s.th.get f.a).v.toNat % amoBytes f ≠ 0 →
      (∀ e ∈ amoTable, ∃ t, exec (e.1 f) s = .next t ∧ TrapEntry {} s t .misalign (s.th.get f.a).v 3)
      ∧ (∀ e ∈ redTable, ∃ t, exec (e.2 f) s = .next t ∧ TrapEntry {} s t .misalign (s.th.get f.a).v 3)))
  ∧ (∀ (s : State) (l : Loc), MayTrap s → s.fixedLoc l = true → l.region = .scratch → l.home = s.turn.rank →
    (∀ f : FmtM, f.wf = true → accessGa f s.th = { sb := 0xF0, v := word l.off } → l.off + widthOf f.size.val ≤ 0x340000 →
      l.off % widthOf f.size.val = 0 → Quiet s l (widthOf f.size.val) → s.readFirst l (widthOf f.size.val) = false →
      ∃ t, exec (.st f) s = .next t ∧ TrapEntry {} s t .statWr (word l.off) 2)
    ∧ (∀ f : FmtAm, f.wf = true → s.th.get f.a = { sb := 0xF0, v := word l.off } → l.off + amoBytes f ≤ 0x340000 →
      l.off % amoBytes f = 0 → Quiet s l (amoBytes f) → s.readFirst l (amoBytes f) = false → ∀ e ∈ amoTable, ∃ t, exec (e.1 f) s = .next t ∧ TrapEntry {} s t .statWr (word l.off) 3))

/-- R183: an atomic delivers the old value of its element, stores the new one, and is outstanding; a `cas` that does not
match stores nothing, and the floating members set only NV; an ordered one finds no deferred reduction of its home scope.
R111, R184: a deferred reduction whose element no entry touches adds its entry to the buffer; its home keeps its bytes until
a flush, no register changes, and ord is ignored with WARN.FMT. -/
def Obligations.AtomicsAndReductions : Prop :=
  (∀ e ∈ amoTable, ∀ (f : FmtAm) (s : State) (l : Loc) (old : Nat) (r : Option Nat × Bool), f.wf = true → Inv s →
    Placed s (s.th.get f.a) (amoBytes f) .atomic l → (s.th.get f.a).v.toNat % amoBytes f = 0 →
    Quiet s l (amoBytes f) → PlainWrite s l (amoBytes f) →
    (f.ord = true → ∀ x ∈ s.me.redbuf, homeScope s.turn.rank (s.th.get f.a) l < homeScope s.turn.rank x.ga x.loc) →
    old = s.peek l (amoBytes f) → r = e.2 (amoBytes f) old ((s.th.val f.b).toNat % 256 ^ amoBytes f) ((s.th.val f.d).toNat % 256 ^ amoBytes f) →
    ∃ t, exec (e.1 f) s = .next t
      ∧ t.th.get f.d = held f.d (.int (if amoFloat (e.1 f) then word old else BitVec.ofInt 64 (signed (amoBytes f) old)))
      ∧ (∀ v, r.1 = some v → Stored s t l (amoBytes f) v) ∧ (r.1 = none → Untouched s t)
      ∧ Flagged s.th t.th (if r.2 then flagNV else 0) ∧ Issued s t f.lk [.s f.d]
      ∧ Keeps { regs := [f.d], flags := true, outst := true, stack := true, mon := true } s.th t.th
      ∧ t.th.pc = s.th.pc.add 4)
  ∧ (∀ e ∈ redTable, ∀ (f : FmtAm) (s : State) (l : Loc), f.wf = true → s.turn.slot ≠ 4 →
    Placed s (s.th.get f.a) (amoBytes f) .atomic l → (s.th.get f.a).v.toNat % amoBytes f = 0 → l.home / 1024 = s.dev →
    s.me.redbuf.length < 64 →
    (∀ x ∈ s.me.redbuf, x.loc.key + x.width ≤ l.key ∨ l.key + amoBytes f ≤ x.loc.key) →
    ∃ t x, exec (e.2 f) s = .next t ∧ t.me.redbuf = s.me.redbuf ++ [x] ∧ x.loc = l ∧ x.op = e.1 ∧ x.width = amoBytes f
      ∧ x.val = (s.th.val f.b).toNat % 256 ^ amoBytes f ∧ x.last = s.turn.slot ∧ x.nv = [] ∧ Untouched s t ∧ Issued s t f.lk []
      ∧ Keeps { warn := if f.ord then [.fmt] else [], outst := true, stack := true } s.th t.th
      ∧ t.th.pc = s.th.pc.add 4 ∧ (f.ord = true → bit t.th.warn 2 = true))

/-! ### Control registers (R7, R57, R58, R159, R187, R269, R293-R300) -/

namespace Sys2Proof.Claims

/-- The assigned control registers of a core, outside monitor mode: number, what a read by the issuing thread delivers, the bits
that a write takes from its operand, and the bits that a 1 clears (R7 and the register tables of the rules). -/
def crTable : List (Nat × (State → Word) × Word × Word) :=
  [ (0x001, fun s => s.th.fpctl, 0x1F1F07, 0), (0x002, fun s => s.th.warn, 0, 0x7F),
    (0x003, fun s => s.cycle, 0, 0), (0x004, fun s => word (s.turn.rank % 2 ^ 16), 0, 0),
    (0x006, fun s => s.th.evctl ||| word (s.me.vault.level * 2 ^ 10), 7, 0x200),
    (0x009, fun s => s.th.errinj, 0xFFFFFFFFFF87FFFF, 0),
    (0x100, fun s => s.th.thstat, 0xFFFFFE0000003CE0, 0), (0x101, fun s => s.me.tvec, 0xFFFFFFFFFFFFFFFC, 0),
    (0x102, fun s => s.th.tcause, 0x8000000000001FFF, 0), (0x103, fun s => s.th.tval, 0xFFFFFFFFFFFFFFFF, 0),
    (0x104, fun s => s.th.tepc, 0xFFFFFFFFFFFFFFFF, 0), (0x105, fun s => s.th.tscratch, 0xFFFFFFFFFFFFFFFF, 0),
    (0x106, fun s => s.th.ien, 0x3F, 0), (0x107, fun s => s.th.ipend, 0, 0x3F),
    (0x108, fun s => s.me.ctxbase, 0xFFFF00003FFFFFFF, 0), (0x109, fun s => s.th.dirty, 0xFFFFF, 0),
    (0x10A, fun s => s.me.ptbase, 0xFFFF00003FFE0001, 0), (0x10B, fun s => s.me.asid, 0xFFFF, 0),
    (0x10D, fun s => s.th.tidbase, 0xFFFFFFFFFFFFFFC0, 0), (0x10F, fun s => s.me.partid, 0, 0) ]

/-- Whether the issuing thread may read, or write, a register (R159). -/
def MayUse (s : State) (n : Nat) (writes : Bool) : Prop :=
  if n = 9 then ∃ p, s.partOf s.turn.rank = some p ∧ bit (s.grant p) 0 = true
  else if 0x200 ≤ n then s.th.mode = 2
  else if 0x100 ≤ n ∨ (writes = true ∧ (n = 7 ∨ n = 8 ∨ (0x10 ≤ n ∧ n < 0x18))) then s.supervisor = true
  else True

/-- A value that no special rule of its register replaces as it is written: RM, PMODE and SB legal (R58, R294, R295). -/
def Writable (n : Nat) (v : Word) : Prop :=
  (n = 0x001 → field v 0 3 < 6) ∧ (n = 0x100 → field v 10 2 < 2) ∧ (n = 0x101 → field v 56 8 ≤ 0xF0)

/-- The word after a write by access codes (R7). -/
def afterWrite (old v rw w1c : Word) : Word := ((old &&& ~~~rw) ||| (v &&& rw)) &&& ~~~(v &&& w1c)

/-- Scalar, vector, mask and accumulator registers of the issuing thread, and every other thread's, are as they were. -/
def RegistersKept (s t : State) : Prop :=
  (∀ r, t.th.get r = s.th.get r) ∧ t.th.vregs = s.th.vregs ∧ t.th.masks = s.th.masks ∧ t.th.accs = s.th.accs
    ∧ ∀ w, w ≠ s.turn → t.thAt w = s.thAt w

/-- What a write of row `n` with value `v` leaves: the register by its access codes, every other register of the table as it was
but for DIRTY.C, and memory. -/
def CrWritten (s t : State) (n : Nat) (v : Word) : Prop :=
  ∀ e ∈ crTable,
    (e.1 = n → e.2.1 t = if n = 0x109 then e.2.1 t else afterWrite (e.2.1 s) v e.2.2.1 e.2.2.2)
    ∧ (e.1 ≠ n → e.1 ≠ 0x109 → e.2.1 t = e.2.1 s)

/-- The word of a member with a format of control registers. -/
def crWords : List (FmtC → Instr) := [.crrd, .crwr, .crxch]

end Sys2Proof.Claims

/-- R57, R58, R269, R294, R295, R298: what a write stores where a rule replaces the operand. -/
def Obligations.ControlRegisterEffects : Prop :=
  ∀ (f : FmtC) (s : State) (v : Word), v = s.th.val f.a →
    (f.num = 0x001 → 6 ≤ field v 0 3 → ∃ t, exec (.crwr f) s = .next t ∧ field t.th.fpctl 0 3 = 0 ∧ bit t.th.warn 2 = true
      ∧ RegistersKept s t ∧ Untouched s t)
    ∧ (f.num = 0x005 → ∃ t, exec (.crwr f) s = .next t ∧ t.th.srseed = (if v = 0 then 0x5A17C0DE00000001 else v)
      ∧ RegistersKept s t ∧ Untouched s t)
    ∧ (f.num = 0x100 → s.supervisor = true → 2 ≤ field v 10 2 → ∃ t, exec (.crwr f) s = .next t ∧ field t.th.thstat 10 2 = 1
      ∧ t.th.mode = s.th.mode ∧ RegistersKept s t ∧ Untouched s t)
    ∧ (f.num = 0x101 → s.supervisor = true → 0xF0 < field v 56 8 → ∃ t, exec (.crwr f) s = .next t ∧ field t.me.tvec 56 8 = 0xF0
      ∧ field t.me.tvec 2 54 = field v 2 54 ∧ field t.me.tvec 0 2 = field s.me.tvec 0 2 ∧ RegistersKept s t ∧ Untouched s t)
    ∧ (f.num = 0x007 → s.supervisor = true → ∃ t, exec (.crwr f) s = .next t ∧ field t.th.domid 0 3 = field v 0 3
      ∧ field t.th.domid 4 12 = field v 4 12 ∧ (∀ p, s.partOf s.turn.rank = some p → bit t.th.domid 3 = (bit v 3 && bit (s.grant p) 4))
      ∧ RegistersKept s t ∧ Untouched s t)
    ∧ (f.num = 0x10E → s.supervisor = true → ∃ t, exec (.crwr f) s = .next t ∧ t.th.tidlim = word (min (v.toNat % 512) 256)
      ∧ RegistersKept s t ∧ Untouched s t)
    ∧ (∀ k : Fin 8, f.num.toNat = 0x010 + k.val → s.supervisor = true → s.me.ac[k] ≤ s.me.pc[k] → ∃ t, exec (.crwr f) s = .next t
      ∧ field t.me.bmask[k] 0 16 = field v 0 16 ∧ field t.me.bmask[k] 16 3 = (if field v 16 3 < 6 then field v 16 3 else 0)
      ∧ field t.me.bmask[k] 36 4 = field v 36 4 ∧ field t.me.bmask[k] 19 17 = 0 ∧ field t.me.bmask[k] 40 24 = 0
      ∧ t.me.ac[k] = 0 ∧ t.me.pc[k] = 0 ∧ RegistersKept s t ∧ Untouched s t)
    ∧ ((f.num = 0x10A ∨ f.num = 0x10B) → s.supervisor = true → ∃ t, exec (.crwr f) s = .next t
      ∧ (∀ e ∈ t.me.tlb, bit e.leaf 56 = true) ∧ (∀ e ∈ s.me.tlb, bit e.leaf 56 = true → e ∈ t.me.tlb)
      ∧ (∀ e ∈ t.me.utlb, bit e.leaf 56 = true) ∧ t.me.wcache = []
      ∧ RegistersKept s t ∧ Untouched s t)

/-- R187: `crrd` of an assigned register that the mode may use delivers it and changes nothing else. R7, R187: `crwr` and
`crxch` write an assigned register field by field and no other; `crxch` delivers the old value. R158, R159: a privileged
register in user mode, a monitor register outside monitor mode, and ERRINJ without its grant raise PRIV before the number is
looked up; an unassigned number raises ILLEGAL; TVAL holds the word. -/
def Obligations.ControlRegisters : Prop :=
  (∀ e ∈ crTable, ∀ (f : FmtC) (s : State), f.num.toNat = e.1 → MayUse s e.1 false →
    ∃ t, exec (.crrd f) s = .next t ∧ Completes { regs := [f.d] } s t ∧ t.th.get f.d = held f.d (.int (e.2.1 s)))
  ∧ (∀ e ∈ crTable, ∀ (f : FmtC) (s : State), f.num.toNat = e.1 → MayUse s e.1 true → Writable e.1 (s.th.val f.a) →
    (∃ t, exec (.crwr f) s = .next t ∧ CrWritten s t e.1 (s.th.val f.a)
      ∧ (e.1 = 0x109 → field t.th.dirty 0 20 = field (s.th.val f.a) 0 20)
      ∧ RegistersKept s t ∧ Untouched s t ∧ t.th.pc = s.th.pc.add 4)
    ∧ (∃ t u, exec (.crwr f) s = .next u ∧ exec (.crxch f) s = .next t ∧ t = u.setTh (u.th.putInt f.d (e.2.1 s))))
  ∧ (∀ c ∈ crWords, ∀ (f : FmtC) (s : State), MayTrap s →
    ((0x200 ≤ f.num.toNat ∨ (0x100 ≤ f.num.toNat ∧ s.supervisor = false)
        ∨ (f.num = 9 ∧ ∀ p, s.partOf s.turn.rank = some p → bit (s.grant p) 0 = false)) →
      ∃ t, exec (c f) s = .next t ∧ TrapEntry {} s t .priv (word (encodeNat (c f))) 0)
    ∧ (0x00A ≤ f.num.toNat → f.num.toNat < 0x010 →
      ∃ t, exec (c f) s = .next t ∧ TrapEntry {} s t .illegal (word (encodeNat (c f))) 0))

/-- R57, R58, R84, R269, R300, R335, R363, R369: the register writes that come as events reach the register of their slot,
core or package, with the stored value of the rule, and change no memory but what the rule says. -/
def Obligations.RegisterEvents : Prop :=
  (∀ (r n : Nat) (w : Turn) (v : Word) (s : State), n < 4 → w = { rank := r, slot := Fin.ofNat 5 n } →
    (∃ t, exec (.srseedWrite r n v) s = .next t ∧ (t.thAt w).srseed = (if v = 0 then 0x5A17C0DE00000001 else v)
      ∧ (t.thAt w).regs = (s.thAt w).regs ∧ Untouched s t)
    ∧ (∃ t, exec (.fpctlWrite r n v) s = .next t
      ∧ field (t.thAt w).fpctl 0 3 = (if field v 0 3 < 6 then field v 0 3 else 0)
      ∧ field (t.thAt w).fpctl 8 5 = field v 8 5 ∧ field (t.thAt w).fpctl 16 5 = field v 16 5
      ∧ (t.thAt w).regs = (s.thAt w).regs ∧ Untouched s t)
    ∧ (∀ p, s.partOf r = some p → bit (s.grant p) 0 = true → ∃ t, exec (.errinjWrite r n v) s = .next t
      ∧ field (t.thAt w).errinj 0 19 = field v 0 19 ∧ field (t.thAt w).errinj 23 41 = field v 23 41
      ∧ (t.thAt w).regs = (s.thAt w).regs ∧ Untouched s t)
    ∧ (∃ t, exec (.slotDoorbell r n v) s = .next t
      ∧ (t.thAt w).ipend = (if bit v 0 then setBit (s.thAt w).ipend 0 else (s.thAt w).ipend) ∧ Untouched s t)
    ∧ (∃ t, exec (.registerWrite r n 0x105 v) s = .next t ∧ (t.thAt w).tscratch = v
      ∧ (t.thAt w).regs = (s.thAt w).regs ∧ Untouched s t)
    ∧ (∃ t, exec (.registerWrite r n 0x106 v) s = .next t ∧ field (t.thAt w).ien 0 6 = field v 0 6
      ∧ (t.thAt w).regs = (s.thAt w).regs ∧ Untouched s t))
  ∧ (∀ (r : Nat) (k : Fin 8) (v : Word) (s : State), (s.core r).ac[k] ≤ (s.core r).pc[k] →
    ∃ t, exec (.bmaskWrite r k.val v) s = .next t ∧ field (t.core r).bmask[k] 0 16 = field v 0 16
      ∧ field (t.core r).bmask[k] 16 3 = (if field v 16 3 < 6 then field v 16 3 else 0) ∧ (t.core r).ac[k] = 0 ∧ (t.core r).pc[k] = 0
      ∧ (∀ j, j ≠ k → (t.core r).bmask[j] = (s.core r).bmask[j]) ∧ Untouched s t)
  ∧ (∀ (r : Nat) (v : Word) (s : State), ∃ t, exec (.ptbaseWrite r v) s = .next t ∧ field (t.core r).ptbase 48 16 = field v 48 16
      ∧ field (t.core r).ptbase 17 13 = field v 17 13 ∧ bit (t.core r).ptbase 0 = bit v 0
      ∧ (∀ e ∈ (t.core r).tlb, bit e.leaf 56 = true) ∧ (∀ e ∈ (t.core r).utlb, bit e.leaf 56 = true) ∧ (t.core r).wcache = [] ∧ Untouched s t)
  ∧ (∀ (r : Nat) (v : Word) (s : State), ∃ t, exec (.spkeyWrite r v) s = .next t ∧ (t.core r).spkey = word (v.toNat % 2 ^ 16)
      ∧ (field (s.core r).spkey 0 16 = v.toNat % 2 ^ 16 → Untouched s t)
      ∧ (∀ k : Loc, k.key < 0x800000000000 → t.byteAt k = s.byteAt k))
  ∧ (∀ (q : Nat) (v : Word) (s : State), q < 256 → ∃ t h, exec (.hqgWrite q v) s = .next t ∧ lookup t.hqg q = some h
      ∧ bit h 0 = bit v 0 ∧ field h 16 32 = field v 16 32
      ∧ (bit ((lookup s.hqg q).getD 0) 0 = false → field h 48 16 = field v 48 16)
      ∧ (bit ((lookup s.hqg q).getD 0) 0 = true → field h 48 16 = field ((lookup s.hqg q).getD 0) 48 16)
      ∧ (bit ((lookup s.hqg q).getD 0) 0 = false → bit v 0 = true →
          ∀ i < 0x10000, t.byteAt (vaultLoc (field v 48 16) (0x3E000000 + q * 0x10000 + i)) = 0)
      ∧ (bit ((lookup s.hqg q).getD 0) 0 = true → Untouched s t))

/-! ### The sys group (R27-R33, R107, R110, R189-R194, R303) -/

/-- R110, R194, R303: `ifence`, `rdcyc`, `rank`, and `wfi` outside user mode. R107, R111, R191: `fence` completes with no
deferred reduction left whose home lies within its scope; with an empty buffer it changes nothing but the pc and WARN, and
kind 3 or scope 7 sets WARN.FMT. R107, R111: a `fence` of band scope or more performs a deferred integer addition to the own
scratchpad: the sum stands at its home and the entry is gone. -/
def Obligations.SysMembersAndFences : Prop :=
  (∀ (f : FmtA) (s : State),
    (∃ t, exec (.ifence f) s = .next t ∧ Completes { warn := if f.lk = 0 then [] else [.lkig] } s t)
    ∧ (∃ t, exec (.rdcyc f) s = .next t ∧ Completes (aluFoot f) s t ∧ t.th.get f.d = held f.d (.int s.cycle))
    ∧ (∃ t, exec (.rank f) s = .next t ∧ Completes (aluFoot f) s t
      ∧ t.th.get f.d = held f.d (.int (word (s.turn.rank % 2 ^ 16))))
    ∧ (s.supervisor = true → ∃ t, exec (.wfi f) s = .next t ∧ Alone s t ∧ t.th.pc = s.th.pc.add 4
      ∧ (s.turn.slot ≠ 4 → (t.th.wfi = true ↔ s.th.ipend &&& s.th.ien = 0))
      ∧ (s.turn.slot = 4 → (t.th.wfi = true ↔ s.me.agent.requests = []))
      ∧ Keeps { warn := if f.lk = 0 then [] else [.lkig] } s.th { t.th with wfi := s.th.wfi }))
  ∧ (∀ (f : FmtA) (s : State), s.me.redbuf = [] → ∃ t, exec (.fence f) s = .next t ∧ Untouched s t
    ∧ Keeps { warn := [.lkig, .fmt] } s.th t.th ∧ t.th.pc = s.th.pc.add 4
    ∧ (f.b.val / 8 = 3 ∨ f.b.val % 8 = 7 → bit t.th.warn 2 = true))
  ∧ (∀ (f : FmtA) (s : State) (x : RedEntry), Inv s → s.me.redbuf = [x] → x.loc = scratchLoc s.turn.rank x.loc.off → x.loc.off + 8 ≤ 0x340000 →
    x.ga.sb = 0xF0 → x.op = 0 → x.width = 8 → 1 ≤ f.b.val % 8 → s.fixedLoc x.loc = false → s.look x.loc 8 = s.peek x.loc 8 →
    s.me.agent.moving = none → s.me.agent.redirects = [] →
    ∃ t, exec (.fence f) s = .next t ∧ t.me.redbuf = [] ∧ Stored s t x.loc 8 (s.peek x.loc 8 + x.val)
      ∧ t.th.regs = s.th.regs ∧ t.th.pc = s.th.pc.add 4)

/-- R31, R32, R193: `park` and `park.mig` on a token that is not pending do nothing; on a pending one the task leaves its
slot with the live registers, to resume after the `park` when the token's status is written. R33: `tend` waits while a token
is pending; with none it ends the task: its slot is empty and its weight is on its way to its termination record. R194:
`tyield` does nothing where no ready task has at least the task's priority; else, with a frame to be had, the task goes to
the ready queue and its slot is empty. -/
def Obligations.TasksLeave : Prop :=
  (∀ e ∈ ([(.park, false), (.parkMig, true)] : List ((FmtPark → Instr) × Bool)), ∀ (f : FmtPark) (s : State),
    (bit s.th.pend f.a.val = false → ∃ t, exec (e.1 f) s = .next t
      ∧ Completes { warn := if f.lk = 0 then [] else [.lkig] } s t)
    ∧ (∀ k, bit s.th.pend f.a.val = true → s.th.task = some k → f.a ≠ 0 → s.holdsState s.turn = false → f.lk = 0 →
      s.th.val f.d = 0 → ∃ t x, exec (e.1 f) s = .next t ∧ t.me.parked = s.me.parked ++ [x] ∧ x.id = k.id
        ∧ x.wait = .token f.a ∧ x.parkTok = f.a ∧ x.pc = s.th.pc.add 4 ∧ x.regs = [s.th.get f.a] ∧ x.live.toNat = 2 ^ f.a.val
        ∧ x.weight = k.weight ∧ x.pend = s.th.pend ∧ (x.mig = true ↔ e.2 = true ∧ k.mitten = none)
        ∧ t.th.occ = .empty ∧ t.th.task = none ∧ t.th.pend = 0 ∧ Untouched s t))
  ∧ (∀ (f : FmtA) (s : State) (k : Task), s.th.task = some k → bit s.th.thstat 12 = false →
    (s.th.pend ≠ 0 → ∃ t, exec (.tend f) s = .next t ∧ t.th.pc = s.th.pc ∧ t.th.task = some k ∧ Untouched s t)
    ∧ (s.th.pend = 0 → s.me.redbuf = [] → 0 < k.weight → s.me.frames = [] → s.me.mitten = .replicate 4 none →
      ∃ t, exec (.tend f) s = .next t ∧ t.th.task = none ∧ t.th.occ = .empty
        ∧ t.msgs = s.msgs ++ [.weight k.launch k.weight] ∧ t.me.ready = s.me.ready ∧ Untouched s t))
  ∧ (∀ (f : FmtA) (s : State) (k : Task), s.th.task = some k →
    ((∀ x ∈ s.me.ready, x.eff < k.eff) → ∃ t, exec (.tyield f) s = .next t
      ∧ Completes { warn := if f.lk = 0 then [] else [.lkig] } s t)
    ∧ (∀ x xs, s.me.ready = x :: xs → k.eff ≤ x.eff → 0 < field s.me.ctxbase 0 16 → s.me.frames = [] → f.lk = 0 →
      ∃ t y, exec (.tyield f) s = .next t ∧ y ∈ t.me.ready ∧ t.me.ready.length = s.me.ready.length + 1 ∧ y.id = k.id
        ∧ y.pc = s.th.pc.add 4 ∧ y.frame = true ∧ t.th.task = none ∧ t.th.occ = .empty))

/-! ### Vector arithmetic on elements (R195-R204) -/

namespace Sys2Proof.Claims

/-- The ET groups of R201, by code. -/
def etF : List Nat := [0, 1, 2, 3]
def etN : List Nat := [4, 5, 6, 7, 8]
def etI : List Nat := [9, 10, 11, 12, 13, 15]

/-- The function of a member on one element of a type: mode, saturation, a, b and the old destination. -/
abbrev ElemOp := ElemType → Mode → Bool → Nat → Nat → Nat → Nat × Flags

/-- An exact integer as an element of a type: wrapped, or clamped to its range (R49). -/
def intElem (ty : ElemType) (sat : Bool) (x : Int) : Nat :=
  ((if sat then max ty.least (min ty.greatest x) else x) % (2 ^ ty.memBits : Nat)).toNat

/-- A member given by what it does in floating types and by its exact integer result. -/
def byType (gf : Fmt → Mode → Nat → Nat → Nat → Nat × Flags) (gi : Int → Int → Int → Int) : ElemOp := fun ty m sat a b c =>
  match ty with
  | .float F => gf F m a b c
  | _ => (intElem ty sat (gi (ty.toInt a) (ty.toInt b) (ty.toInt c)), 0)

/-- A change of the sign bit, arithmetic: a NaN delivers the canonical NaN, a signalling one raises NV (R202). -/
def signArith (g : Nat → Nat) (F : Fmt) (a : Nat) : Nat × Flags :=
  if (F.value a).isNan then (F.nanCode, if (F.value a).isSnan then flagNV else 0)
  else (a % 2 ^ (F.width - 1) + g (a / 2 ^ (F.width - 1) % 2) * 2 ^ (F.width - 1), 0)

/-- The element-wise members of vbasic, vmac and vbit on single registers: accepted ET codes, whether md selects rounding and
whether it selects saturation, and the function (R202-R204). -/
def vectorTable : List ((FmtV → Instr) × List Nat × (Bool × Bool) × ElemOp) :=
  [ (.vadd, etF ++ etI, (true, true),
      byType (fun F m a b _ => rounded F m (Machine.Num.add (m == 3) (F.value a) (F.value b))) (fun a b _ => a + b)),
    (.vsub, etF ++ etI, (true, true),
      byType (fun F m a b _ => rounded F m (Machine.Num.add (m == 3) (F.value a) (F.value b).neg)) (fun a b _ => a - b)),
    (.vmul, etF ++ etI, (true, true),
      byType (fun F m a b _ => rounded F m (Machine.Num.mul (F.value a) (F.value b))) (fun a b _ => a * b)),
    (.vmin, etF ++ etI, (false, false), byType (fun F _ a b _ => F.minmax false a b) (fun a b _ => min a b)),
    (.vmax, etF ++ etI, (false, false), byType (fun F _ a b _ => F.minmax true a b) (fun a b _ => max a b)),
    (.vabs, etF ++ etI, (false, true), byType (fun F _ a _ _ => signArith (fun _ => 0) F a) (fun a _ _ => |a|)),
    (.vneg, etF ++ etI, (false, true), byType (fun F _ a _ _ => signArith (fun s => 1 - s) F a) (fun a _ _ => -a)),
    (.vsgnj, etF, (false, false),
      byType (fun F _ a b _ => (a % 2 ^ (F.width - 1) + b / 2 ^ (F.width - 1) % 2 * 2 ^ (F.width - 1), 0)) (fun a _ _ => a)),
    (.vfma, etF ++ [9, 10, 11, 12, 13], (true, true),
      byType (fun F m a b c => rounded F m (Machine.Num.fma (m == 3) (F.value a) (F.value b) (F.value c))) (fun a b c => a * b + c)),
    (.vfms, etF ++ [9, 10, 11, 12, 13], (true, true),
      byType (fun F m a b c => rounded F m (Machine.Num.fma (m == 3) (F.value a) (F.value b) (F.value c).neg)) (fun a b c => a * b - c)),
    (.vfnma, etF ++ [9, 10, 11, 12, 13], (true, true),
      byType (fun F m a b c => rounded F m (Machine.Num.fma (m == 3) (F.value a).neg (F.value b) (F.value c))) (fun a b c => c - a * b)),
    (.vand, etF ++ etN ++ etI, (false, false), fun _ _ _ a b _ => (a &&& b, 0)),
    (.vor, etF ++ etN ++ etI, (false, false), fun _ _ _ a b _ => (a ||| b, 0)),
    (.vxor, etF ++ etN ++ etI, (false, false), fun _ _ _ a b _ => (a ^^^ b, 0)),
    (.vsll, etI, (false, false), fun ty _ _ a b _ => (a * 2 ^ (b % ty.memBits) % 2 ^ ty.memBits, 0)),
    (.vsrl, etI, (false, false), fun ty _ _ a b _ => (a / 2 ^ (b % ty.memBits), 0)),
    (.vsra, etI, (false, false), fun ty _ _ a b _ => (intElem ty false (ty.toInt a / (2 ^ (b % ty.memBits) : Nat)), 0)),
    (.vadds, etI, (false, false), fun ty _ _ a b _ => (intElem ty true (ty.toInt a + ty.toInt b), 0)),
    (.vsubs, etI, (false, false), fun ty _ _ a b _ => (intElem ty true (ty.toInt a - ty.toInt b), 0)) ]

/-- The rounding mode of md: DYN, RNE, RTZ, RNA (R54, R200). -/
def mdRounding (t : Thread) (md : Fin 4) : Mode := if md = 0 then scalarMode t else if md = 1 then 0 else if md = 2 then 1 else 4

/-- The mode and saturation that a member works with (R200). -/
def vMode (c : Bool × Bool) (t : Thread) (ty : ElemType) (md : Fin 4) : Mode := if ty.isFloat ∧ c.1 then mdRounding t md else 0

def vSat (c : Bool × Bool) (ty : ElemType) (md : Fin 4) : Bool := !ty.isFloat && c.2 && decide (md.val % 2 = 1)

/-- Whether element `i` is active: bit `i` of the mask that mk names (R196). -/
def active (t : Thread) (msk : Fin 4) (i : Nat) : Bool := (t.mget ⟨msk.val, by omega⟩).getLsbD i

/-- The OR of the flags of the active elements among the first `n`. -/
def orFlags (n : Nat) (act : Nat → Bool) (fl : Nat → Flags) : Flags :=
  (List.range n).foldr (fun i x => if act i then fl i ||| x else x) 0

/-- The result of a member at element `i`. -/
def elemResult (e : (Bool × Bool) × ElemOp) (f : FmtV) (t : Thread) (i : Nat) : Nat × Flags :=
  let ty := elemType f.et
  e.2 ty (vMode e.1 t ty f.md) (vSat e.1 ty f.md) (ty.elem (t.vget f.va) i) (ty.elem (t.vget f.vb) i) (ty.elem (t.vget f.vd) i)

/-- Every vector word with its accepted ET codes whose other types raise ILLEGAL (R201). -/
def typedTable : List ((FmtV → Instr) × List Nat) :=
  vectorTable.map (fun e => (e.1, e.2.1))
  ++ [(.veq, etF ++ etN ++ etI), (.vne, etF ++ etN ++ etI), (.vlt, etF ++ etN ++ etI), (.vle, etF ++ etN ++ etI),
      (.vunord, etF ++ etN), (.vclass, etF ++ etN), (.vid, etF ++ etI),
      (.vwmul, [0, 1, 2, 3, 9, 10, 11, 12]), (.vwfma, [0, 1, 2, 3, 9, 10, 11, 12]), (.vqfma, [0, 4, 5, 9, 12]),
      (.vdot2, [2, 3, 11]), (.vdot4, [4, 5, 12])]

end Sys2Proof.Claims

/-- R196, R200-R204: an element-wise member writes its result to every active element, keeps the inactive ones, raises the
OR of the active elements' flags where none is enabled, and changes no other register. R201: a vector word whose element
type its member does not accept raises ILLEGAL with the word, and changes nothing else. -/
def Obligations.VectorElementwise : Prop :=
  (∀ e ∈ vectorTable, ∀ (f : FmtV) (s : State) (fl : Flags), f.et.val ∈ e.2.1 →
    fl = orFlags (elemType f.et).count (active s.th f.msk) (fun i => (elemResult e.2.2 f s.th i).2) → Untrapped s.th fl →
    ∃ t, exec (e.1 f) s = .next t ∧ Completes { vregs := [f.vd], warn := [.fmt], flags := true } s t
      ∧ Flagged s.th t.th fl
      ∧ ∀ i, i < (elemType f.et).count → (elemType f.et).elem (t.th.vget f.vd) i =
          if active s.th f.msk i then (elemResult e.2.2 f s.th i).1 % 2 ^ (elemType f.et).memBits
          else (elemType f.et).elem (s.th.vget f.vd) i)
  ∧ (∀ e ∈ typedTable, ∀ (f : FmtV) (s : State), MayTrap s → f.et.val ∉ e.2 →
    ∃ t, exec (e.1 f) s = .next t ∧ TrapEntry {} s t .illegal (word (encodeNat (e.1 f))) 0)

/-! ### Widening and dot products (R197, R198, R203) -/

namespace Sys2Proof.Claims

/-- The widening members: registers of a group, ET codes with their destination types, and whether an addend is read. -/
def wideTable : List ((FmtV → Instr) × Nat × List (Nat × ElemType) × Bool) :=
  [ (.vwmul, 2, [(1, .float f64), (2, .float f32), (3, .float f32), (10, .int 64), (11, .int 32), (12, .int 16)], false),
    (.vwfma, 2, [(1, .float f64), (2, .float f32), (3, .float f32), (10, .int 64), (11, .int 32), (12, .int 16)], true),
    (.vqfma, 4, [(4, .float f32), (5, .float f32), (12, .int 32)], true) ]

/-- a x b, or a x b + c, from a source type into a wider one: exact, then one rounding or narrowing (R72, R203). -/
def wideResult (src dst : ElemType) (add : Bool) (m : Mode) (sat : Bool) (a b c : Nat) : Nat × Flags :=
  match src, dst with
  | .float F, .float G =>
    rounded G m (if add then Machine.Num.fma (m == 3) (F.value a) (F.value b) (G.value c) else Machine.Num.mul (F.value a) (F.value b))
  | _, _ => (intElem dst sat (src.toInt a * src.toInt b + if add then dst.toInt c else 0), 0)

/-- Element `i` of a group of `k` registers from `base`: register i mod k, slot i / k (R197). -/
def groupElem (t : Thread) (ty : ElemType) (base k i : Nat) : Nat := ty.elem (t.vregs.getD (base + i % k) 0) (i / k)

/-- The destination group's registers. -/
def groupRegsOf (vd : Reg) (k : Nat) : List Reg := (List.range k).map (fun r => Fin.ofNat 32 (vd.val - vd.val % k + r))

/-- The dot products: elements per sum, ET codes with destination types. -/
def dotTable : List ((FmtV → Instr) × Nat × List (Nat × ElemType)) :=
  [ (.vdot2, 2, [(2, .float f32), (3, .float f32), (11, .int 32)]), (.vdot4, 4, [(4, .float f32), (5, .float f32), (12, .int 32)]) ]

/-- The exact sum of `q` products and the addend, folded from the addend, with every flag of its parts. -/
def dotExact (F : Fmt) (zneg : Bool) : List (Nat × Nat) → Machine.Num × Flags → Machine.Num × Flags
  | [], acc => acc
  | (a, b) :: r, acc =>
    let p := Machine.Num.mul (F.value a) (F.value b)
    let x := Machine.Num.add zneg acc.1 p.1
    dotExact F zneg r (x.1, acc.2 ||| p.2 ||| x.2)

/-- The result of a dot product at destination element `i` (R203): one rounding or narrowing of the exact sum. -/
def dotResult (q : Nat) (dst : ElemType) (f : FmtV) (t : Thread) (i : Nat) : Nat × Flags :=
  let src := elemType f.et
  let ps := (List.range q).map (fun j => (src.elem (t.vget f.va) (q * i + j), src.elem (t.vget f.vb) (q * i + j)))
  let c := dst.elem (t.vget f.vd) i
  match src, dst with
  | .float F, .float G =>
    rounded G (mdRounding t f.md) (dotExact F (mdRounding t f.md == 3) ps (G.value c, if (G.value c).isSnan then flagNV else 0))
  | _, _ => (intElem dst (decide (f.md.val % 2 = 1)) ((ps.map (fun p => src.toInt p.1 * src.toInt p.2)).sum + dst.toInt c), 0)

end Sys2Proof.Claims

/-! ### Compares, masks, permutes and moves (R205, R206, R214, R220) -/

namespace Sys2Proof.Claims

/-- The compares: ET codes, what two floating values give, what two integers give, and which NaNs raise NV (any, or only
signalling ones). -/
def compareTable : List ((FmtV → Instr) × List Nat × (Machine.Num → Machine.Num → Bool) × (Int → Int → Bool) × Bool) :=
  [ (.veq, etF ++ etN ++ etI, Machine.Num.eq, fun a b => decide (a = b), false),
    (.vne, etF ++ etN ++ etI, fun x y => !Machine.Num.eq x y, fun a b => decide (a ≠ b), false),
    (.vlt, etF ++ etN ++ etI, Machine.Num.lt, fun a b => decide (a < b), true),
    (.vle, etF ++ etN ++ etI, fun x y => Machine.Num.lt x y || Machine.Num.eq x y, fun a b => decide (a ≤ b), true),
    (.vunord, etF ++ etN, fun x y => x.isNan || y.isNan, fun _ _ => false, false) ]

/-- The mask register that bits [2:0] of a register field name (R205). -/
def maskNo (r : Reg) : Fin 8 := Fin.ofNat 8 r.val

/-- The truth and flags of a compare at element `i`. -/
def compareResult (e : (Machine.Num → Machine.Num → Bool) × (Int → Int → Bool) × Bool) (f : FmtV) (t : Thread) (i : Nat) : Bool × Flags :=
  let ty := elemType f.et
  let a := ty.elem (t.vget f.va) i
  let b := ty.elem (t.vget f.vb) i
  match ty with
  | .float F =>
    (e.1 (F.value a) (F.value b),
      if (if e.2.2 then (F.value a).isNan || (F.value b).isNan else (F.value a).isSnan || (F.value b).isSnan) then flagNV else 0)
  | _ => (e.2.1 (ty.toInt a) (ty.toInt b), 0)

/-- X[i] of R214: vb's 16-bit unit i mod 256. -/
def unitX (x : VReg) (i : Nat) : Nat := x.toNat / 2 ^ (16 * (i % 256)) % 2 ^ 16

/-- The members that write elements of vd by index and merge: `g` gives element i from the operands, with n elements (R214, R220). -/
def permuteTable : List ((FmtV → Instr) × (FmtV → Thread → Nat → Nat → Nat)) :=
  let A := fun (f : FmtV) (t : Thread) (i : Nat) => (elemType f.et).elem (t.vget f.va) i
  let B := fun (f : FmtV) (t : Thread) (i : Nat) => (elemType f.et).elem (t.vget f.vb) i
  [ (.vperm, fun f t n i => A f t (i / 256 * 256 + unitX (t.vget f.vb) i % min n 256)),
    (.vslup, fun f t _ i => if unitX (t.vget f.vb) 0 ≤ i then A f t (i - unitX (t.vget f.vb) 0) else 0),
    (.vsldn, fun f t n i => if i + unitX (t.vget f.vb) 0 < n then A f t (i + unitX (t.vget f.vb) 0) else 0),
    (.vbcast, fun f t n _ => A f t (unitX (t.vget f.vb) 0 % n)),
    (.vzip, fun f t _ i => if i % 2 = 0 then A f t (i / 2) else B f t (i / 2)),
    (.vunzip, fun f t n i => if i < n / 2 then A f t (2 * i) else A f t (2 * (i - n / 2) + 1)),
    (.vsplat, fun f t _ _ => (t.val f.va).toNat),
    (.m2v, fun f t _ i => if (t.mget (maskNo f.va)).getLsbD i then 2 ^ (elemType f.et).memBits - 1 else 0) ]

/-- The members of the mask algebra, bit by bit (R206). -/
def maskTable : List ((FmtV → Instr) × (Bool → Bool → Bool)) :=
  [(.mand, fun a b => a && b), (.mor, fun a b => a || b), (.mxor, fun a b => a != b), (.mnot, fun a _ => !a)]

end Sys2Proof.Claims

/-- R197, R198, R203: a widening member multiplies, or multiplies and adds, into a group of two or four registers: element i
lies in register i mod k, slot i / k; vd is rounded down to the group's first register. R203: `vdot2` and `vdot4` add the
products of 2 or 4 neighbouring elements to one element of the wider type, with one rounding of the exact sum; each
destination element has its own mask bit. R205: a compare sets the bit of each active element in mask vd[2:0], keeps the
inactive ones and clears the bits from the element count upward; `vclass` tests each class mask against bits [11:0] of vb.
m0 is not written. -/
def Obligations.VectorWideAndCompare : Prop :=
  (∀ e ∈ wideTable, ∀ d ∈ e.2.2.1, ∀ (f : FmtV) (s : State) (src : ElemType) (base : Nat) (res : Nat → Nat × Flags) (fl : Flags),
    f.et.val = d.1 → src = elemType f.et → base = f.vd.val - f.vd.val % e.2.1 →
    (∀ i, res i = wideResult src d.2 e.2.2.2 (if src.isFloat then mdRounding s.th f.md else 0) (!src.isFloat && decide (f.md.val % 2 = 1))
      (src.elem (s.th.vget f.va) i) (src.elem (s.th.vget f.vb) i) (groupElem s.th d.2 base e.2.1 i)) →
    fl = orFlags src.count (active s.th f.msk) (fun i => (res i).2) → Untrapped s.th fl →
    ∃ t, exec (e.1 f) s = .next t
      ∧ Completes { vregs := groupRegsOf f.vd e.2.1, warn := [.fmt, .align, .ovlp], flags := true } s t ∧ Flagged s.th t.th fl
      ∧ (∀ i, i < src.count → groupElem t.th d.2 base e.2.1 i =
          if active s.th f.msk i then (res i).1 % 2 ^ d.2.memBits else groupElem s.th d.2 base e.2.1 i)
      ∧ (f.vd.val % e.2.1 ≠ 0 → bit t.th.warn 3 = true))
  ∧ (∀ e ∈ dotTable, ∀ d ∈ e.2.2, ∀ (f : FmtV) (s : State) (fl : Flags), f.et.val = d.1 →
    fl = orFlags 128 (active s.th f.msk) (fun i => (dotResult e.2.1 d.2 f s.th i).2) → Untrapped s.th fl →
    ∃ t, exec (e.1 f) s = .next t ∧ Completes { vregs := [f.vd], warn := [.fmt], flags := true } s t ∧ Flagged s.th t.th fl
      ∧ ∀ i, i < 128 → d.2.elem (t.th.vget f.vd) i =
          if active s.th f.msk i then (dotResult e.2.1 d.2 f s.th i).1 % 2 ^ d.2.memBits else d.2.elem (s.th.vget f.vd) i)
  ∧ ((∀ e ∈ compareTable, ∀ (f : FmtV) (s : State) (fl : Flags), f.et.val ∈ e.2.1 → maskNo f.vd ≠ 0 →
    fl = orFlags (elemType f.et).count (active s.th f.msk) (fun i => (compareResult e.2.2 f s.th i).2) → Untrapped s.th fl →
    ∃ t, exec (e.1 f) s = .next t ∧ Completes { masks := [maskNo f.vd], warn := [.fmt], flags := true } s t ∧ Flagged s.th t.th fl
      ∧ ∀ i, (t.th.mget (maskNo f.vd)).getLsbD i = (decide (i < (elemType f.et).count)
          && if active s.th f.msk i then (compareResult e.2.2 f s.th i).1 else (s.th.mget (maskNo f.vd)).getLsbD i))
  ∧ (∀ (f : FmtV) (s : State) (F : Fmt), elemType f.et = .float F → maskNo f.vd ≠ 0 →
    ∃ t, exec (.vclass f) s = .next t ∧ Completes { masks := [maskNo f.vd], warn := [.fmt] } s t
      ∧ ∀ i, (t.th.mget (maskNo f.vd)).getLsbD i = (decide (i < (elemType f.et).count)
          && if active s.th f.msk i then decide (F.classMask ((elemType f.et).elem (s.th.vget f.va) i) &&& ((s.th.vget f.vb).toNat % 2 ^ 12) ≠ 0)
             else (s.th.mget (maskNo f.vd)).getLsbD i)))

/-- R206, R220: the mask algebra on all 1024 bits, `v2m`, `vsel`, `mpopc` and `mfirst`. R214, R220: the permutes and moves
give each active element the element their index names, and keep the inactive ones. -/
def Obligations.MasksAndMoves : Prop :=
  (∀ (f : FmtV) (s : State),
    (∀ e ∈ maskTable, maskNo f.vd ≠ 0 → ∃ t, exec (e.1 f) s = .next t
      ∧ Completes { masks := [maskNo f.vd], warn := [.fmt] } s t
      ∧ ∀ i, i < 1024 → (t.th.mget (maskNo f.vd)).getLsbD i =
          e.2 ((s.th.mget (maskNo f.va)).getLsbD i) ((s.th.mget (maskNo f.vb)).getLsbD i))
    ∧ (∀ e ∈ maskTable, maskNo f.vd = 0 → ∃ t, exec (e.1 f) s = .next t ∧ Completes { warn := [.fmt] } s t ∧ bit t.th.warn 2 = true)
    ∧ (maskNo f.vd ≠ 0 → ∃ t, exec (.v2m f) s = .next t ∧ Completes { masks := [maskNo f.vd], warn := [.fmt] } s t
      ∧ ∀ i, (t.th.mget (maskNo f.vd)).getLsbD i =
          (decide (i < (elemType f.et).count) && decide ((elemType f.et).elem (s.th.vget f.va) i ≠ 0)))
    ∧ (∃ t, exec (.vsel f) s = .next t ∧ Completes { vregs := [f.vd], warn := [.fmt] } s t
      ∧ ∀ i, i < (elemType f.et).count → (elemType f.et).elem (t.th.vget f.vd) i =
          (elemType f.et).elem (if active s.th f.msk i then s.th.vget f.va else s.th.vget f.vb) i)
    ∧ (∃ t, exec (.mpopc f) s = .next t ∧ Completes { regs := [f.vd], warn := [.fmt] } s t
      ∧ t.th.get f.vd = held f.vd (.int (word ((List.range (elemType f.et).count).countP
          (fun i => (s.th.mget (maskNo f.va)).getLsbD i && active s.th f.msk i)))))
    ∧ (∃ t, exec (.mfirst f) s = .next t ∧ Completes { regs := [f.vd], warn := [.fmt] } s t
      ∧ t.th.get f.vd = held f.vd (.int (match (List.range (elemType f.et).count).find?
          (fun i => (s.th.mget (maskNo f.va)).getLsbD i && active s.th f.msk i) with
        | some i => word i
        | none => 0xFFFFFFFFFFFFFFFF))))
  ∧ ((∀ e ∈ permuteTable, ∀ (f : FmtV) (s : State), ∃ t, exec (e.1 f) s = .next t
    ∧ Completes { vregs := [f.vd], warn := [.fmt] } s t
    ∧ ∀ i, i < (elemType f.et).count → (elemType f.et).elem (t.th.vget f.vd) i =
        if active s.th f.msk i then e.2 f s.th (elemType f.et).count i % 2 ^ (elemType f.et).memBits
        else (elemType f.et).elem (s.th.vget f.vd) i)
  ∧ (∀ (f : FmtV) (s : State), f.et.val ∈ etF ++ etI → ∃ t, exec (.vid f) s = .next t
    ∧ Completes { vregs := [f.vd], warn := [.fmt] } s t
    ∧ ∀ i, i < (elemType f.et).count → (elemType f.et).elem (t.th.vget f.vd) i =
        if active s.th f.msk i then (match elemType f.et with
            | .float F => (F.round 0 (Machine.Num.ofInt i) 0).1
            | _ => i) % 2 ^ (elemType f.et).memBits
        else (elemType f.et).elem (s.th.vget f.vd) i)
  ∧ (∀ (f : FmtV) (s : State), ∃ t, exec (.vgetel f) s = .next t ∧ Completes { regs := [f.vd], warn := [.fmt] } s t
    ∧ t.th.get f.vd = held f.vd (.int (match elemType f.et with
        | .int w => BitVec.ofInt 64 ((ElemType.int w).toInt ((elemType f.et).elem (s.th.vget f.va) ((s.th.val f.vb).toNat % (elemType f.et).count)))
        | _ => word ((elemType f.et).elem (s.th.vget f.va) ((s.th.val f.vb).toNat % (elemType f.et).count)))))
  ∧ (∀ (f : FmtV) (s : State), ∃ t, exec (.vsetel f) s = .next t ∧ Completes { vregs := [f.vd], warn := [.fmt] } s t
    ∧ ∀ i, i < (elemType f.et).count → (elemType f.et).elem (t.th.vget f.vd) i =
        if i = (s.th.val f.vb).toNat % (elemType f.et).count then (s.th.val f.va).toNat % 2 ^ (elemType f.et).memBits
        else (elemType f.et).elem (s.th.vget f.vd) i)
  ∧ (∀ (f : FmtV) (s : State), ∃ t, exec (.vcmprs f) s = .next t ∧ Completes { vregs := [f.vd], warn := [.fmt] } s t
    ∧ ∀ i, i < (elemType f.et).count → (elemType f.et).elem (t.th.vget f.vd) i =
        (((List.range (elemType f.et).count).filter (active s.th f.msk)).map ((elemType f.et).elem (s.th.vget f.va))).getD i 0)
  ∧ (∀ (f : FmtV) (s : State), ∃ t, exec (.vexpnd f) s = .next t ∧ Completes { vregs := [f.vd], warn := [.fmt] } s t
    ∧ ∀ i, i < (elemType f.et).count → (elemType f.et).elem (t.th.vget f.vd) i =
        if active s.th f.msk i then (elemType f.et).elem (s.th.vget f.va) ((List.range i).countP (active s.th f.msk))
        else (elemType f.et).elem (s.th.vget f.vd) i))

/-! ### Conversion, quantisation and special functions (R56, R64-R67, R207-R213) -/

namespace Sys2Proof.Claims

/-- One element converted between types; `u` is its draw under SR (R62, R63, R208). -/
def convResult (src dst : ElemType) (m : Mode) (sat : Bool) (u a : Nat) : Nat × Flags :=
  match src, dst with
  | .float F, .float G => G.convert m sat (F.value a) u
  | .float F, _ =>
    let r := toInteger m dst.least dst.greatest (F.value a) u
    ((r.1 % (2 ^ dst.memBits : Nat)).toNat, r.2)
  | _, .float G => G.convert m sat (Machine.Num.ofInt (src.toInt a)) u
  | _, _ => (intElem dst sat (src.toInt a), 0)

/-- The mode of a `vcvt` word: its code, or FPCTL.RM for codes 6 and 7 (R54, R162). -/
def cvtMode (f : FmtVcvt) (t : Thread) : Mode := if f.rm.val < 6 then f.rm.val else t.rm

/-- The draw of element `i` under SR: one for each active element up to it, ascending (R56). -/
def drawAt (t : Thread) (act : Nat → Bool) (i : Nat) : Nat :=
  (Nat.iterate srNext ((List.range i).countP act + 1) t.srseed).toNat / 2 ^ 32

/-- The registers that a group of one register stands for, or a group of several. -/
def cvtRatio (src dst : ElemType) : Nat := if src.count ≤ dst.count then 1 else src.count / dst.count

/-- The wide type, block size and E8M0 form of a legal `vqnt` or `vdqnt` code (R209). -/
def QuantCode (f : FmtVl) (w : Fmt) (b : Nat) (mx : Bool) : Prop :=
  ((f.vb.val / 8, w) ∈ ([(0, f32), (1, bf16), (2, f16)] : List (Nat × Fmt)))
  ∧ ((f.vb.val % 8, b, mx) ∈ ([(0, 32, true), (1, 32, false), (2, 64, false), (3, 128, false), (4, 256, false)] : List (Nat × Nat × Bool)))
  ∧ f.et.val ∈ [4, 5, 6, 7, 8, 12, 13] ∧ b ≤ 4096 / w.width ∧ (mx = true → f.et.val < 9)

/-- The value of a narrow element: floating, or an integer. -/
def narrowValue (ty : ElemType) (x : Nat) : Machine.Num :=
  match ty with
  | .float F => F.value x
  | _ => Machine.Num.ofInt (ty.toInt x)

/-- Scale `b` of a quantised register: E8M0 at byte 480 + b, FP32 at byte 480 + 4b (R50, R51, R209). -/
def scaleBits (x : VReg) (mx : Bool) (b : Nat) : Nat :=
  if mx then x.toNat / 2 ^ (8 * (480 + b)) % 2 ^ 8 else x.toNat / 2 ^ (8 * (480 + 4 * b)) % 2 ^ 32

/-- The value of a scale; an FP32 scale that is zero, negative, infinite or a NaN has none (R50, R51). -/
def scaleValue (mx : Bool) (c : Nat) : Option Machine.Num :=
  if mx then some (if c = 0xFF then .nan false else .fin false 1 ((c : Int) - 127))
  else if c = 0 ∨ 0x7F800000 ≤ c then none else some (f32.value c)

/-- The mode of a rounding word without SR (R54, R162). -/
def wideMode (t : Thread) : Mode := scalarMode t

/-- The exact magnitude of a finite value. -/
def magnitude (x : Machine.Num) : Machine.Num :=
  match x with
  | .fin _ m e => .fin false m e
  | v => v

/-- A value is no infinity and no NaN. -/
def isFinite (x : Machine.Num) : Bool :=
  match x with
  | .fin _ _ _ => true
  | _ => false

/-- What a block quantises to: a non-finite element spoils it, a block of zeros has scale 1, any other has its scale from its
greatest magnitude `a x 2^e` (R64, R65). -/
def blockResult (ty : ElemType) (mx : Bool) (m : Mode) (us : List Nat) (xs : List Machine.Num) : List (Nat × Flags) × Nat :=
  if xs.any (fun x => !isFinite x) then (xs.map (fun _ => (0, flagNV)), if mx then 0xFF else 0x7FC00000)
  else if xs.all (fun x => Machine.Num.eq x (.fin false 0 0)) then (xs.map (fun _ => (0, 0)), if mx then 0x7F else 0x3F800000)
  else quantBlock ty mx m us xs

/-- The draws of `n` elements in ascending order under SR, zeros in every other mode. -/
def quantDraws (t : Thread) (n : Nat) : List Nat :=
  (List.range n).map (fun i => if t.rm = 5 then (Nat.iterate srNext (i + 1) t.srseed).toNat / 2 ^ 32 else 0)

/-- Block `j` of a quantisation of register `x`: elements [jB, jB + B). -/
def blockAt (ty : ElemType) (w : Fmt) (b : Nat) (mx : Bool) (t : Thread) (x : VReg) (j : Nat) : List (Nat × Flags) × Nat :=
  blockResult ty mx t.rm (((quantDraws t (4096 / w.width)).drop (j * b)).take b)
    ((List.range b).map (fun i => w.value ((ElemType.float w).elem x (j * b + i))))

/-- What the vector converters may change, outstanding included. -/
def convFoot (f : FmtVl) : Footprint :=
  { vregs := [f.vd], warn := [.fmt, .ovlp, .etc], flags := true, outst := true }

/-- Scale index and word of the trap of an outstanding instruction (R51, R211). -/
def IssuedTrap (s t : State) (lk : Fin 16) (dest : List Res) (c : Cause) (tval : Word) : Prop :=
  ∃ o, t.th.outst = s.th.outst ++ [o] ∧ o.pc = s.th.pc ∧ o.lk = lk.val ∧ o.dest = dest
    ∧ o.trap = some { cause := c, tval := tval, kind := 0, out := true }

/-- The special functions: major opcode 0x27's members, whether f64 is computed in f64, and the function (R67, R213). -/
def functionTable : List ((FmtVl → Instr) × Bool × (Fmt → Mode → Machine.Num → Machine.Num → Nat × Flags)) :=
  [ (.vexp2, false, fun G m x _ => G.special m .exp2 x), (.vlog2, false, fun G m x _ => G.special m .log2 x),
    (.vrcp, true, fun G m x _ => G.div m (.fin false 1 0) x), (.vrsqrt, true, fun G m x _ => G.special m .rsqrt x),
    (.vsqrt, true, fun G m x _ => G.sqrt m x), (.vdiv, true, fun G m x y => G.div m x y),
    (.vsinpi, false, fun G m x _ => G.special m .sinpi x), (.vtanh, false, fun G m x _ => G.special m .tanh x) ]

/-- A function at element `i`; f64 without an FP64 form goes through f32, the flags of both ORed (R162, R213). -/
def functionResult (e : Bool × (Fmt → Mode → Machine.Num → Machine.Num → Nat × Flags)) (F : Fmt) (f : FmtVl) (t : Thread) (i : Nat) :
    Nat × Flags :=
  let a := F.value ((ElemType.float F).elem (t.vget f.va) i)
  let b := F.value ((ElemType.float F).elem (t.vget f.vb) i)
  if F = f64 ∧ e.1 = false then
    let n := f32.convert 0 false a 0
    let r := e.2 f32 (scalarMode t) (f32.value n.1) (f32.value n.1)
    ((f64.convert 0 false (f32.value r.1) 0).1, n.2 ||| r.2)
  else e.2 F (scalarMode t) a b

end Sys2Proof.Claims

/-- R56, R207, R208: `vcvt` converts each active element, one draw each under SR, into one register or a group of k; the
elements past the source's count are zero, inactive ones are kept; the same type copies bits with WARN.ETC; cb2 and ratios
of 8 and 16 raise ILLEGAL. -/
def Obligations.VectorConverts : Prop :=
  (∀ (f : FmtVcvt) (s : State) (src dst : ElemType) (k base : Nat) (res : Nat → Nat × Flags) (fl : Flags),
    src = elemType f.et → dst = elemType f.det → src ≠ dst → f.et ≠ 14 → f.det ≠ 14 → src.count ≤ 4 * dst.count →
    k = cvtRatio src dst → base = f.vd.val - f.vd.val % k →
    (∀ i, res i = convResult src dst (cvtMode f s.th) f.sat
      (if cvtMode f s.th = 5 then drawAt s.th (active s.th f.msk) i else 0) (src.elem (s.th.vget f.va) i)) →
    fl = orFlags src.count (active s.th f.msk) (fun i => (res i).2) → Untrapped s.th fl →
    ∃ t, exec (.vcvt f) s = .next t
      ∧ Completes { vregs := groupRegsOf f.vd k, warn := [.fmt, .align, .ovlp], flags := true, seed := true } s t
      ∧ Flagged s.th t.th fl
      ∧ (∀ i, i < src.count → groupElem t.th dst base k i =
          if active s.th f.msk i then (res i).1 % 2 ^ dst.memBits else groupElem s.th dst base k i)
      ∧ (∀ i, src.count ≤ i → i < dst.count → dst.elem (t.th.vget f.vd) i = 0)
      ∧ t.th.srseed = (if cvtMode f s.th = 5 then Nat.iterate srNext ((List.range src.count).countP (active s.th f.msk)) s.th.srseed
          else s.th.srseed))
  ∧ (∀ (f : FmtVcvt) (s : State), f.et = f.det → f.et ≠ 14 → ∃ t, exec (.vcvt f) s = .next t
    ∧ Completes { vregs := [f.vd], warn := [.fmt, .etc] } s t ∧ bit t.th.warn 6 = true
    ∧ ∀ i, i < (elemType f.et).count → (elemType f.et).elem (t.th.vget f.vd) i =
        (elemType f.et).elem (if active s.th f.msk i then s.th.vget f.va else s.th.vget f.vd) i)
  ∧ (∀ (f : FmtVcvt) (s : State), MayTrap s →
    (f.et = 14 ∨ f.det = 14 ∨ 4 * (elemType f.det).count < (elemType f.et).count) →
    ∃ t, exec (.vcvt f) s = .next t ∧ TrapEntry {} s t .illegal (word (encodeNat (.vcvt f))) 0)

/-- R50-R53, R64-R66, R209-R212: `vqnt` writes every block's elements and scale; `vdqnt` and `vcbdec` multiply each element
or codebook weight by its scale and round once; a failing FP32 scale is an outstanding SCALE with the block's index. -/
def Obligations.QuantisationMembers : Prop :=
  (∀ (f : FmtVl) (s : State) (w : Fmt) (b : Nat) (mx : Bool) (ty : ElemType) (n : Nat) (fl : Flags),
    QuantCode f w b mx → ty = elemType f.et → n = 4096 / w.width →
    fl = orFlags n (fun _ => true) (fun i => ((blockAt ty w b mx s.th (s.th.vget f.va) (i / b)).1.getD (i % b) (0, 0)).2) →
    Untrapped s.th fl →
    ∃ t, exec (.vqnt f) s = .next t ∧ Completes { convFoot f with seed := true } s t ∧ Issued s t f.lk [.v f.vd] ∧ Flagged s.th t.th fl
      ∧ (∀ i, i < n → ty.elem (t.th.vget f.vd) i =
          ((blockAt ty w b mx s.th (s.th.vget f.va) (i / b)).1.getD (i % b) (0, 0)).1 % 2 ^ ty.memBits)
      ∧ (∀ j, j < n / b → scaleBits (t.th.vget f.vd) mx j = (blockAt ty w b mx s.th (s.th.vget f.va) j).2 % 2 ^ (if mx then 8 else 32))
      ∧ t.th.srseed = (if s.th.rm = 5 then Nat.iterate srNext n s.th.srseed else s.th.srseed))
  ∧ (∀ (f : FmtVl) (s : State) (w : Fmt) (b : Nat) (mx : Bool) (ty : ElemType) (n : Nat),
    QuantCode f w b mx → ty = elemType f.et → n = 4096 / w.width →
    (∀ (sc : Nat → Machine.Num) (res : Nat → Nat × Flags) (fl : Flags),
      (∀ j, j < n / b → scaleValue mx (scaleBits (s.th.vget f.va) mx j) = some (sc j)) →
      (∀ i, res i = rounded w (wideMode s.th) (Machine.Num.mul (narrowValue ty (ty.elem (s.th.vget f.va) i)) (sc (i / b)))) →
      fl = orFlags n (fun _ => true) (fun i => (res i).2) → Untrapped s.th fl →
      ∃ t, exec (.vdqnt f) s = .next t ∧ Completes (convFoot f) s t ∧ Issued s t f.lk [.v f.vd] ∧ Flagged s.th t.th fl
        ∧ ∀ i, i < n → (ElemType.float w).elem (t.th.vget f.vd) i = (res i).1 % 2 ^ w.width)
    ∧ (∀ j, j < n / b → scaleValue mx (scaleBits (s.th.vget f.va) mx j) = none →
        (∀ i, i < j → scaleValue mx (scaleBits (s.th.vget f.va) mx i) ≠ none) →
      ∃ t, exec (.vdqnt f) s = .next t ∧ Completes { outst := true } s t ∧ IssuedTrap s t f.lk [.v f.vd] .scale (word j)))
  ∧ (∀ (f : FmtVl) (s : State) (w : Fmt) (n : Nat) (sc : Nat → Machine.Num) (res : Nat → Nat × Flags) (fl : Flags) (table : Nat),
    ((f.vb.val / 8, w) ∈ ([(0, f32), (1, bf16), (2, f16)] : List (Nat × Fmt))) → f.et = 14 → n = 4096 / w.width →
    table = (if f.vb.val / 4 % 2 = 1 then (s.th.vget 30).toNat + (s.th.vget 31).toNat * 2 ^ 4096 else pack 32 resetCodebook) →
    (∀ i, i < n → some (sc i) = if f.vb.val % 4 = 0 then some (.fin false 1 0)
        else scaleValue false (scaleBits (s.th.vget f.va) false (i / (32 * 2 ^ (f.vb.val % 4 - 1))))) →
    (∀ i, res i = rounded w (wideMode s.th)
      (Machine.Num.mul (codeWeight table (ElemType.cb2.elem (s.th.vget f.va) (i / 8)) (i % 8)) (sc i))) →
    fl = orFlags n (fun _ => true) (fun i => (res i).2) → Untrapped s.th fl →
    ∃ t, exec (.vcbdec f) s = .next t ∧ Completes (convFoot f) s t ∧ Issued s t f.lk [.v f.vd] ∧ Flagged s.th t.th fl
      ∧ ∀ i, i < n → (ElemType.float w).elem (t.th.vget f.vd) i = (res i).1 % 2 ^ w.width)

/-! ### In-register reductions and scans (R72, R215) -/

namespace Sys2Proof.Claims

/-- a + b in a type: floating in a mode, integers wrapping. -/
def sumOf (ty : ElemType) (m : Mode) (a b : Nat) : Nat × Flags :=
  match ty with
  | .float F => rounded F m (Machine.Num.add (m == 3) (F.value a) (F.value b))
  | _ => (intElem ty false (ty.toInt a + ty.toInt b), 0)

/-- The sum of 2^k values by halving: element i plus element i + 2^(k-1), again and again (R72). -/
def halvingSum (ty : ElemType) (m : Mode) : Nat → (Nat → Nat) → Nat × Flags
  | 0, x => (x 0, 0)
  | k + 1, x =>
    let r := halvingSum ty m k (fun i => (sumOf ty m (x i) (x (i + 2 ^ k))).1)
    (r.1, orFlags (2 ^ k) (fun _ => true) (fun i => (sumOf ty m (x i) (x (i + 2 ^ k))).2) ||| r.2)

/-- The inclusive prefix sums; the first is x_0, canonical where it is a NaN (R72, R215). -/
def prefixSum (ty : ElemType) (m : Mode) (x : Nat → Nat) : Nat → Nat × Flags
  | 0 =>
    match ty with
    | .float F => if (F.value (x 0)).isNan then (F.nanCode, if (F.value (x 0)).isSnan then flagNV else 0) else (x 0, 0)
    | _ => (x 0, 0)
  | i + 1 => sumOf ty m (prefixSum ty m x i).1 (x (i + 1))

/-- minimumNumber or maximumNumber, or the lesser or greater integer (R68, R215). -/
def extremeOf (ty : ElemType) (max : Bool) (a b : Nat) : Nat × Flags :=
  match ty with
  | .float F => F.minmax max a b
  | _ => (if (ty.toInt a < ty.toInt b) ↔ max = false then a else b, 0)

/-- The extreme of no elements: an infinity, or a limit of R49. -/
def noExtreme (ty : ElemType) (max : Bool) : Nat :=
  match ty with
  | .float F => F.infCode + ofBool max * 2 ^ (F.width - 1)
  | _ => intElem ty false (if max then ty.least else ty.greatest)

/-- The mask that vb[18:16] names. -/
def vredMask (f : FmtVl) (t : Thread) (i : Nat) : Bool := (t.mget (maskNo f.vb)).getLsbD i

/-- Element `i` taking part: +0 or 0 where it is inactive. -/
def taking (f : FmtVl) (t : Thread) (i : Nat) : Nat := if vredMask f t i then (elemType f.et).elem (t.vget f.va) i else 0

/-- FPCTL.RM for a floating reduction. -/
def vredMode (t : Thread) : Mode := scalarMode t

end Sys2Proof.Claims

/-- R162, R213: the special functions compute every element of f32, bf16 and f16, and of f64 directly or through f32 with
WARN.ETC; every other type raises ILLEGAL. R72, R215: `vrsum` sums by halving, `vrmin` and `vrmax` fold the active elements
(a single NaN delivers the canonical NaN: the model's reading, DEDUCED, log entry 75), `vscan` writes the prefix sums; sums
and extremes leave the other elements zero. -/
def Obligations.FunctionsAndReductions : Prop :=
  (∀ e ∈ functionTable, ∀ (f : FmtVl) (s : State),
    (∀ (F : Fmt) (fl : Flags), f.et.val < 4 → elemType f.et = .float F →
      fl = orFlags (4096 / F.width) (fun _ => true) (fun i => (functionResult e.2 F f s.th i).2) → Untrapped s.th fl →
      ∃ t, exec (e.1 f) s = .next t ∧ Completes (convFoot f) s t ∧ Issued s t f.lk [.v f.vd] ∧ Flagged s.th t.th fl
        ∧ (F = f64 → e.2.1 = false → bit t.th.warn 6 = true)
        ∧ ∀ i, i < 4096 / F.width → (ElemType.float F).elem (t.th.vget f.vd) i = (functionResult e.2 F f s.th i).1 % 2 ^ F.width)
    ∧ (4 ≤ f.et.val → MayTrap s → ∃ t, exec (e.1 f) s = .next t ∧ TrapEntry {} s t .illegal (word (encodeNat (e.1 f))) 0))
  ∧ (∀ (f : FmtVl) (s : State) (ty : ElemType) (foot : Footprint), f.et.val ∈ etF ++ etI → ty = elemType f.et →
    foot = { vregs := [f.vd], warn := [.fmt], flags := true, outst := true } →
    (∀ r, r = halvingSum ty (vredMode s.th) (Nat.log2 ty.count) (taking f s.th) → Untrapped s.th r.2 →
      ∃ t, exec (.vrsum f) s = .next t ∧ Completes foot s t ∧ Issued s t f.lk [.v f.vd] ∧ Flagged s.th t.th r.2
        ∧ ∀ i, i < ty.count → ty.elem (t.th.vget f.vd) i = if i = 0 then r.1 % 2 ^ ty.memBits else 0)
    ∧ (∀ e ∈ ([(.vrmin, false), (.vrmax, true)] : List ((FmtVl → Instr) × Bool)), ∀ l : List Nat,
        l = ((List.range ty.count).filter (vredMask f s.th)).map (ty.elem (s.th.vget f.va)) →
        (l = [] → ∃ t, exec (e.1 f) s = .next t ∧ Completes foot s t ∧ Issued s t f.lk [.v f.vd] ∧ Flagged s.th t.th 0
          ∧ ∀ i, i < ty.count → ty.elem (t.th.vget f.vd) i = if i = 0 then noExtreme ty e.2 % 2 ^ ty.memBits else 0)
        ∧ (∀ x xs r, l = x :: xs →
            r = xs.foldl (fun p y => ((extremeOf ty e.2 p.1 y).1, p.2 ||| (extremeOf ty e.2 p.1 y).2)) (extremeOf ty e.2 x x) →
            Untrapped s.th r.2 → ∃ t, exec (e.1 f) s = .next t ∧ Completes foot s t ∧ Issued s t f.lk [.v f.vd] ∧ Flagged s.th t.th r.2
              ∧ ∀ i, i < ty.count → ty.elem (t.th.vget f.vd) i = if i = 0 then r.1 % 2 ^ ty.memBits else 0))
    ∧ (∀ fl, fl = orFlags ty.count (fun _ => true) (fun i => (prefixSum ty (vredMode s.th) (taking f s.th) i).2) → Untrapped s.th fl →
      ∃ t, exec (.vscan f) s = .next t ∧ Completes foot s t ∧ Issued s t f.lk [.v f.vd] ∧ Flagged s.th t.th fl
        ∧ ∀ i, i < ty.count → ty.elem (t.th.vget f.vd) i = (prefixSum ty (vredMode s.th) (taking f s.th) i).1 % 2 ^ ty.memBits))

/-! ### Vector memory accesses (R218, R219) -/

namespace Sys2Proof.Claims

/-- Bytes of an element's alignment: one for types below a byte and FP6. -/
def elemBytes (ty : ElemType) : Nat := if ty.memBits < 8 then 1 else ty.memBits / 8

/-- Element address of `vlds` and `vsts`: i x sext(b.v). -/
def stridedGa (f : FmtVl) (t : Thread) (i : Nat) : Ptr := { sb := (t.get f.va).sb, v := (t.get f.va).v + word i * t.val f.vb }

/-- Element address of `vldx` and `vstx`: zext of vb's 32-bit element i. -/
def indexedGa (f : FmtVl) (t : Thread) (i : Nat) : Ptr :=
  { sb := (t.get f.va).sb, v := (t.get f.va).v + word ((t.vget f.vb).toNat / 2 ^ (32 * i) % 2 ^ 32) }

/-- The forms with an address for each element: load, store, their ET codes, and the address. -/
def addressTable : List ((FmtVl → Instr) × (FmtVl → Instr) × List Nat × (FmtVl → Thread → Nat → Ptr)) :=
  [ (.vlds, .vsts, [0, 1, 2, 3, 4, 5, 9, 10, 11, 12, 14, 15], stridedGa), (.vldx, .vstx, [0, 1, 9, 10], indexedGa) ]

/-- Every access within the `n` bytes at a place is quiet. -/
def QuietRange (s : State) (l : Loc) (n : Nat) : Prop :=
  ∀ o k, 0 < k → o + k ≤ n → Quiet s { l with off := l.off + o } k

/-- Every write within the `n` bytes at a place is plain. -/
def PlainRange (s : State) (l : Loc) (n : Nat) : Prop := 
  ∀ o k, 0 < k → o + k ≤ n → PlainWrite s { l with off := l.off + o } k

/-- An outstanding store holds a byte as its destination (R25, R218). -/
def CoversByte (d : List Res) (k : Nat) : Prop := ∃ a m, Res.mem a m ∈ d ∧ a ≤ k ∧ k < a + m

/-- Two places of `n` bytes do not overlap. -/
def Apart (a b : Loc) (n : Nat) : Prop := a.key + n ≤ b.key ∨ b.key + n ≤ a.key

end Sys2Proof.Claims

/-- R195, R218: `vld` and `vst` move the contiguous bytes of a register, 384 for FP6; here in the own scratchpad. A store's
bytes are its destination while it is outstanding (R25). R218, R219: the strided and indexed forms move one element at each
of their addresses; where two elements of a store share bytes the higher index remains. A type that the form does not accept
raises ILLEGAL, and a first element that is misaligned raises MISALIGN with its address and stores nothing. -/
def Obligations.VectorMemory : Prop :=
  (∀ (f : FmtVl) (s : State) (ty : ElemType) (l : Loc) (n : Nat), ty = elemType f.et → n = ty.count * ty.memBits / 8 → Inv s →
    (s.th.get f.va).sb = 0xF0 → s.turn.slot ≠ 4 → (s.th.get f.va).v.toNat + n ≤ 0x340000 → (s.th.get f.va).v.toNat % elemBytes ty = 0 →
    l = scratchLoc s.turn.rank (s.th.get f.va).v.toNat → QuietRange s l n →
    (∃ t, exec (.vld f) s = .next t ∧ Keeps { vregs := [f.vd], outst := true } s.th t.th ∧ t.th.pc = s.th.pc.add 4
      ∧ Issued s t f.lk [.v f.vd] ∧ Untouched s t
      ∧ ∀ i, i < ty.count → ty.elem (t.th.vget f.vd) i = s.peek l n / 2 ^ (ty.memBits * i) % 2 ^ ty.memBits)
    ∧ (PlainRange s l n → ∃ t, exec (.vst f) s = .next t ∧ Keeps { outst := true, mon := true } s.th t.th ∧ t.th.pc = s.th.pc.add 4
      ∧ (∃ d, Issued s t f.lk d ∧ ∀ k, CoversByte d k ↔ l.key ≤ k ∧ k < l.key + n)
      ∧ (∀ i, i < ty.count → t.peek l n / 2 ^ (ty.memBits * i) % 2 ^ ty.memBits = ty.elem (s.th.vget f.vd) i)
      ∧ ∀ k : Loc, k.key < l.key ∨ l.key + n ≤ k.key → t.byteAt k = s.byteAt k))
  ∧ (∀ e ∈ addressTable, ∀ (f : FmtVl) (s : State) (ty : ElemType) (w : Nat) (l : Nat → Loc), ty = elemType f.et → w = elemBytes ty →
    (f.et.val ∈ e.2.2.1 → Inv s →
      (∀ i, i < ty.count → Placed s (e.2.2.2 f s.th i) w .load (l i) ∧ (e.2.2.2 f s.th i).v.toNat % w = 0 ∧ Quiet s (l i) w
        ∧ (s.core (l i).home).vault.weakGranules = []) →
      ∃ t, exec (e.1 f) s = .next t ∧ Keeps { vregs := [f.vd], outst := true } s.th t.th ∧ t.th.pc = s.th.pc.add 4
        ∧ Issued s t f.lk [.v f.vd] ∧ Untouched s t ∧ ∀ i, i < ty.count → ty.elem (t.th.vget f.vd) i = s.peek (l i) w)
    ∧ (f.et.val ∈ e.2.2.1 → Inv s →
      (∀ i, i < ty.count → Placed s (e.2.2.2 f s.th i) w .store (l i) ∧ (e.2.2.2 f s.th i).v.toNat % w = 0 ∧ Quiet s (l i) w
        ∧ PlainWrite s (l i) w) →
      ∃ t, exec (e.2.1 f) s = .next t ∧ Keeps { outst := true, stack := true, mon := true } s.th t.th ∧ t.th.pc = s.th.pc.add 4
        ∧ (∃ d, Issued s t f.lk d ∧ ∀ k, CoversByte d k ↔ ∃ i, i < ty.count ∧ (l i).key ≤ k ∧ k < (l i).key + w)
        ∧ (∀ i, i < ty.count → (∀ j, i < j → j < ty.count → Apart (l i) (l j) w) → t.peek (l i) w = ty.elem (s.th.vget f.vd) i)
        ∧ ∀ k : Loc, (∀ i, i < ty.count → k.key < (l i).key ∨ (l i).key + w ≤ k.key) → t.byteAt k = s.byteAt k)
    ∧ (f.et.val ∉ e.2.2.1 → MayTrap s → ∀ c ∈ [e.1, e.2.1],
      ∃ t, exec (c f) s = .next t ∧ TrapEntry {} s t .illegal (word (encodeNat (c f))) 0)
    ∧ (f.et.val ∈ e.2.2.1 → MayTrap s → (s.th.get f.va).sb = 0xF0 → (e.2.2.2 f s.th 0).v.toNat + w ≤ 0x340000 →
      (e.2.2.2 f s.th 0).v.toNat % w ≠ 0 → ∀ c ∈ [(e.1, 1), (e.2.1, 2)],
      ∃ t, exec (c.1 f) s = .next t ∧ TrapEntry {} s t .misalign (e.2.2.2 f s.th 0).v c.2))

/-! ### In-network reduction and broadcast (R73, R216, R217, R277) -/

namespace Sys2Proof.Claims

/-- The members of vnet. -/
def netTable : List ((FmtNet → Instr) × Bool) := [(.netred, false), (.netbc, true)]

/-- A legal word: an accepted element type and, for `netred`, an operation (R216). -/
def netLegal (f : FmtNet) (bcast : Bool) : Prop := f.et.val ∈ [0, 1, 2, 3, 9, 10, 11, 12] ∧ (bcast = false → f.op ≠ 3)

/-- Two elements combined up a tree: 0 adds in RNE or wraps, 1 and 2 take the lesser or greater (R68, R73, R217). -/
def netResult (ty : ElemType) (op a b : Nat) : Nat :=
  match ty with
  | .float F => if op = 0 then (rounded F 0 (Machine.Num.add false (F.value a) (F.value b))).1 else (F.minmax (decide (op = 2)) a b).1
  | _ => intElem ty false (if op = 0 then ty.toInt a + ty.toInt b else if op = 1 then min (ty.toInt a) (ty.toInt b)
      else max (ty.toInt a) (ty.toInt b))

/-- A round of two members: the crown's contribution and that of a child whose parent is the crown, both in place. -/
structure PairRound (s : State) (c m : Contribution) (wc wm : Word) : Prop where
  nets : s.nets = [c, m] ∨ s.nets = [m, c]
  same : c.tree = m.tree ∧ c.round = m.round ∧ c.bcast = m.bcast ∧ c.et = m.et ∧ c.op = m.op ∧ c.cfg = m.cfg
  cfg : c.cfg = [(c.rank, wc), (m.rank, wm)] ∨ c.cfg = [(m.rank, wm), (c.rank, wc)]
  crown : bit wc 17 = true ∧ bit wm 17 = false ∧ field wm 0 16 = c.rank ∧ c.rank ≠ m.rank
  here : (s.core c.rank).trees.getD c.tree 0 = wc ∧ (s.core m.rank).trees.getD m.tree 0 = wm ∧ bit wc 16 = true ∧ bit wm 16 = true
  reach : ∀ a ∈ [c.rank, m.rank], ∀ b ∈ [c.rank, m.rank], s.reaches a b = true

end Sys2Proof.Claims

/-- R216, R217: a member of a tree that issues `netred` or `netbc` joins the tree's next round with its va, and the
instruction is outstanding; an element type or OP that is not accepted, and a core that is no member, raise ILLEGAL. R73,
R217: a full round of a crown and one child ends: a reduction leaves the element-wise combination, the crown's own value
first, in the crown's vd alone; a broadcast leaves the crown's va in both. -/
def Obligations.NetworkReductions : Prop :=
  (∀ e ∈ netTable, ∀ (f : FmtNet) (s : State),
    (netLegal f e.2 → bit (s.me.trees.getD f.tree.val 0) 16 = true → s.trafficHeld s.turn.rank s.domain = false →
      ∃ t x, exec (e.1 f) s = .next t ∧ x ∈ t.nets ∧ t.nets.length = s.nets.length + 1
        ∧ (∀ y ∈ s.nets, ∃ y' ∈ t.nets, y' = { y with sent := y'.sent })
        ∧ x.tree = f.tree.val ∧ x.round = s.me.rounds.getD f.tree.val 0 ∧ x.rank = s.turn.rank ∧ x.slot = s.turn.slot ∧ x.bcast = e.2
        ∧ x.et = f.et.val ∧ x.val = s.th.vget f.va ∧ x.vd = f.vd ∧ x.since = s.cycle.toNat
        ∧ t.me.rounds.getD f.tree.val 0 = x.round + 1
        ∧ (∃ o, t.th.outst = s.th.outst ++ [o] ∧ o.dest = [.v f.vd] ∧ o.wait = .net x.id ∧ o.trap = none ∧ o.lk = f.lk.val)
        ∧ Keeps { outst := true } s.th t.th ∧ t.th.pc = s.th.pc.add 4 ∧ Untouched s t)
    ∧ ((¬ netLegal f e.2 ∨ bit (s.me.trees.getD f.tree.val 0) 16 = false) → MayTrap s →
      ∃ t, exec (e.1 f) s = .next t ∧ TrapEntry {} s t .illegal (word (encodeNat (e.1 f))) 0))
  ∧ (∀ (s : State) (c m : Contribution) (wc wm : Word) (ty : ElemType), PairRound s c m wc wm → c.et < 16 → c.op < 3 →
    ty = elemType (Fin.ofNat 16 c.et) →
    ∃ t, exec (.netredRoundComplete c.tree) s = .next t ∧ t.nets = [] ∧ Untouched s t
      ∧ (c.bcast = false →
          (∀ i, i < ty.count → ty.elem ((t.thAt { rank := c.rank, slot := c.slot }).vget c.vd) i =
            netResult ty c.op (ty.elem c.val i) (ty.elem m.val i) % 2 ^ ty.memBits)
          ∧ Keeps { vregs := [c.vd], flags := true } (s.thAt { rank := c.rank, slot := c.slot }) (t.thAt { rank := c.rank, slot := c.slot })
          ∧ t.thAt { rank := m.rank, slot := m.slot } = s.thAt { rank := m.rank, slot := m.slot })
      ∧ (c.bcast = true → ∀ x ∈ [c, m], (t.thAt { rank := x.rank, slot := x.slot }).vget x.vd = c.val
          ∧ Keeps { vregs := [x.vd] } (s.thAt { rank := x.rank, slot := x.slot }) (t.thAt { rank := x.rank, slot := x.slot })))

/-! ### Tensors, stationary ranges and operand queues (R129, R223-R232, R241-R244) -/

namespace Sys2Proof.Claims

/-- The tensor-table entry of a tid that the issuing thread may name, its place, and its 64 bytes (R223); no request waits at its
home. -/
structure Entry (s : State) (tid : Nat) (l : Loc) (d : BitVec 512) : Prop where
  named : 0 < tid ∧ tid < s.th.tidlim.toNat
  placed : Placed s (tableGa s.th.tidbase tid) 64 .load l
  quiet : Quiet s l 64
  steady : (s.core l.home).vault.weakGranules = []
  calm : (s.core l.home).agent.requests = [] ∧ (s.core l.home).agent.callers = []
  bytes : s.peek l 64 = d.toNat

/-- bits [7:0] of a register (R222). -/
def tidIn (t : Thread) (r : Reg) : Nat := (t.val r).toNat % 256

/-- The tile that sPos names in a tid's range: its index x = row x NBLK + column, its position and its quarter (R126). -/
def TileNamed (c : Core) (d : BitVec 512) (tid : Nat) (sp : Word) (p q : Nat) : Prop :=
  ∃ g x, c.rangeOf tid = some g ∧ x = field sp 16 16 * field d 48 16 + field sp 0 16 ∧ x / quarters d < g.count
    ∧ p = g.p0 + x / quarters d ∧ q = x % quarters d

/-- The place of a tile position of the own scratchpad. -/
def positionLoc (s : State) (p : Nat) : Loc := scratchLoc s.turn.rank (p * 0x800)

/-- A tile of 2048 bytes in the own scratchpad that a scalar register points at. -/
structure TileGa (s : State) (ga : Ptr) (l : Loc) : Prop where
  spot : ga.sb = 0xF0 ∧ ga.v.toNat % 0x800 = 0 ∧ ga.v.toNat + 0x800 ≤ 0x340000
  place : l = scratchLoc s.turn.rank ga.v.toNat
  quiet : Quiet s l 0x800

/-- The parts of the core of the issuing thread that these instructions change are as they were but for queue `n`. -/
def OtherQueues (s t : State) (n : Nat) : Prop := ∀ k, k ≠ n → t.me.queue k = s.me.queue k

/-- A queue that gains the tile `v` at its tail, and keeps every other byte (R129). -/
def Pushed (s t : State) (n v : Nat) : Prop :=
  (t.me.queue n).count = (s.me.queue n).count + 1 ∧ (t.me.queue n).head = (s.me.queue n).head
    ∧ Stored s t (scratchLoc s.turn.rank ((s.me.queue n).base + ((s.me.queue n).head + (s.me.queue n).count) % (s.me.queue n).cap * 0x800))
        0x800 v

/-- No core buffers a deferred reduction (R111). -/
def NoReds (s : State) : Prop := ∀ p ∈ s.cores, p.2.redbuf = []

/-- The bits of a descriptor that are fields; the others are reserved (R224). -/
def descriptorFields : BitVec 512 := 0xFFFFFFFFFFFFFFFFFFFFFFFFFFFFFFFFFFFFFFFFFFFFFFFFFFFFFFFF011F0F01

/-- A configured queue with room, no reservation and no pop in flight. -/
def HasRoom (x : OpQueue) : Prop := x.cfg = true ∧ x.resv = [] ∧ x.count < x.cap ∧ 0x300000 ≤ x.base ∧ x.base + x.cap * 0x800 ≤ 0x340000

end Sys2Proof.Claims

/-- R8, R223, R225, R227, R228: each reads the entry that its tid names; `tdef` stores the fields of a valid descriptor with
V set, `tinv` clears V, `tqry` reads a word of the entry or the stationary range; a bad tid, an invalid descriptor and a tid
with a range trap. R122, R126, R135, R229-R232: `mstat` makes a range of positions stationary and stores their weight sums,
`munst` frees it; `mwr` reads its source, or is assigned a queue's tile, and waits on the macro, where the tile is replaced
when its turn comes; `mrd` copies a tile out. -/
def Obligations.TensorsAndTiles : Prop :=
  ((∀ (f : FmtX) (s : State) (ly lt : Loc) (d e : BitVec 512), Inv s → Entry s (tidIn s.th f.x) lt e →
    Placed s (s.th.get f.y) 64 .load ly → (s.th.get f.y).v.toNat % 64 = 0 → Quiet s ly 64 → (s.core ly.home).vault.weakGranules = [] →
    s.peek ly 64 = d.toNat → s.me.rangeOf (tidIn s.th f.x) = none →
    (descReason d = 0 → Placed s (tableGa s.th.tidbase (tidIn s.th f.x)) 64 .store lt → PlainWrite s lt 64 →
      ∃ t, exec (.tdef f) s = .next t ∧ Stored s t lt 64 (setBit (d &&& descriptorFields) 0).toNat ∧ Issued s t f.lk []
        ∧ Keeps { outst := true, stack := true, mon := true } s.th t.th ∧ t.th.pc = s.th.pc.add 4)
    ∧ (descReason d ≠ 0 → MayTrap s → s.me.weakScratch = [] → ly.home = s.turn.rank → lt.home = s.turn.rank →
      ∃ t, exec (.tdef f) s = .next t ∧ TrapEntry {} s t .illegal (word (tidIn s.th f.x + descReason d * 0x100)) 0))
  ∧ (∀ (f : FmtX) (s : State), MayTrap s →
    ((tidIn s.th f.x = 0 ∨ s.th.tidlim.toNat ≤ tidIn s.th f.x) → ∀ c ∈ ([.tdef, .tinv, .mstat, .munst] : List (FmtX → Instr)),
      ∃ t, exec (c f) s = .next t ∧ TrapEntry {} s t .aperture (word (tidIn s.th f.x)) 0)
    ∧ (∀ (l : Loc) (d : BitVec 512), Entry s (tidIn s.th f.x) l d → l.home = s.turn.rank → s.me.weakScratch = [] →
      s.me.rangeOf (tidIn s.th f.x) ≠ none → ∀ c ∈ ([.tdef, .tinv] : List (FmtX → Instr)),
        ∃ t, exec (c f) s = .next t ∧ TrapEntry {} s t .statWr (word (tidIn s.th f.x)) 0))
  ∧ (∀ (f : FmtX) (s : State) (l : Loc) (d : BitVec 512), Inv s → Entry s (tidIn s.th f.x) l d → s.me.rangeOf (tidIn s.th f.x) = none →
    Placed s (tableGa s.th.tidbase (tidIn s.th f.x)) 1 .store l → Quiet s l 1 → PlainWrite s l 1 →
    ∃ t, exec (.tinv f) s = .next t ∧ Stored s t l 1 (d.toNat % 256 / 2 * 2) ∧ Issued s t f.lk []
      ∧ Keeps { outst := true, stack := true, mon := true } s.th t.th ∧ t.th.pc = s.th.pc.add 4)
  ∧ (∀ (f : FmtX) (s : State) (l : Loc) (d : BitVec 512), Inv s → Entry s (tidIn s.th f.y) l d → f.z.val ≤ 8 →
    ∃ t, exec (.tqry f) s = .next t ∧ Untouched s t ∧ Issued s t f.lk [.s f.x]
      ∧ Keeps { regs := [f.x], outst := true } s.th t.th ∧ t.th.pc = s.th.pc.add 4
      ∧ t.th.get f.x = held f.x (.int (if f.z.val < 8 then word (d.toNat / 2 ^ (64 * f.z.val))
          else match s.me.rangeOf (tidIn s.th f.y) with
            | some g => word (g.p0 + g.count * 0x10000)
            | none => 0))))
  ∧ ((∀ (f : FmtX) (s : State) (l : Loc) (d : BitVec 512) (p0 n : Nat), Inv s → NoReds s → Entry s (tidIn s.th f.x) l d → bit d 0 = true →
    (s.th.get f.y) = { sb := 0xF0, v := word (p0 * 0x800) } → n = (s.th.val f.z).toNat → 0 < n → p0 + n ≤ 1536 →
    (∀ p, p0 ≤ p → p < p0 + n → s.fixedAt s.turn.rank (p * 0x800) = false) → s.me.rangeOf (tidIn s.th f.x) = none →
    (∀ p, p0 ≤ p → p < p0 + n → s.badTileScale s.turn.rank d p0 p = none) →
    ∃ t, exec (.mstat f) s = .next t
      ∧ t.me.ranges = s.me.ranges ++ [{ tid := tidIn s.th f.x, p0 := p0, count := n, dom := s.th.domid }]
      ∧ (∀ p, p0 ≤ p → p < p0 + n → ∀ x ∈ s.tileWsums s.turn.rank d p0 p, lookup t.me.wsum x.1 = some x.2)
      ∧ Untouched s t ∧ Issued s t f.lk [] ∧ Keeps { outst := true } s.th t.th ∧ t.th.pc = s.th.pc.add 4)
  ∧ (∀ (f : FmtX) (s : State) (l : Loc) (d : BitVec 512) (g : StatRange), Inv s → Entry s (tidIn s.th f.x) l d →
    s.me.rangeOf (tidIn s.th f.x) = some g → s.me.mops = [] →
    ∃ t, exec (.munst f) s = .next t ∧ t.me.rangeOf (tidIn s.th f.x) = none ∧ (∀ k, k ≠ tidIn s.th f.x → t.me.rangeOf k = s.me.rangeOf k)
      ∧ Untouched s t ∧ Issued s t f.lk [] ∧ Keeps { outst := true } s.th t.th ∧ t.th.pc = s.th.pc.add 4)
  ∧ (∀ (f : FmtX) (s : State) (l : Loc) (d : BitVec 512), MayTrap s → Entry s (tidIn s.th f.x) l d → l.home = s.turn.rank →
    s.me.weakScratch = [] → s.me.rangeOf (tidIn s.th f.x) = none →
    ∃ t, exec (.munst f) s = .next t ∧ TrapEntry {} s t .aperture (word (tidIn s.th f.x)) 0)
  ∧ (∀ (f : FmtX) (s : State) (l : Loc) (d : BitVec 512) (p q v : Nat), Inv s → NoReds s → Entry s (tidIn s.th f.x) l d → bit d 0 = true →
    TileNamed s.me d (tidIn s.th f.x) (s.th.val f.y) p q → p < (if s.pairing s.turn.rank then 1532 else 1536) →
    s.th.mittenTid (tidIn s.th f.x) = false → s.me.mops = [] →
    ((nbit f.fl.val 0 = true ∧ ∃ ls, TileGa s (s.th.get f.z) ls ∧ v = s.peek ls 0x800)
      ∨ (nbit f.fl.val 0 = false ∧ f.z.val < 8 ∧ (s.me.queue f.z.val).cfg = true ∧ (s.me.queue f.z.val).pops = []
        ∧ 0 < (s.me.queue f.z.val).count
        ∧ v = s.look (scratchLoc s.turn.rank ((s.me.queue f.z.val).base + (s.me.queue f.z.val).head % (s.me.queue f.z.val).cap * 0x800)) 0x800)) →
    ∃ t m g, exec (.mwr f) s = .next t ∧ t.me.mops = [m] ∧ m.kind = .write ∧ m.wTid = tidIn s.th f.x ∧ m.wDesc = d ∧ m.pos = p
      ∧ m.read = true ∧ m.args = some g ∧ g.a = v ∧ m.executing = false ∧ m.slot = s.turn.slot
      ∧ (m.pop = true ↔ nbit f.fl.val 0 = false ∧ nbit f.fl.val 1 = true) ∧ Untouched s t
      ∧ Keeps { warn := [.fmt], outst := true } s.th t.th ∧ t.th.pc = s.th.pc.add 4
      ∧ Issued s t f.lk [.mem (positionLoc s p).key 0x800])
  ∧ (∀ (s : State) (r mac : Nat) (m : MatOp) (g : MatArgs) (p0 : Nat), Inv s → NoReds s → (s.core r).macroHead mac = some m → m.kind = .write →
    m.executing = false → m.dead = none → m.read = true → m.args = some g → m.pos < 1536 →
    p0 = ((s.core r).rangeOf m.wTid).elim 0 StatRange.p0 →
    s.badOperand r m = none → s.badTileScale r m.wDesc p0 m.pos = none → ckptDom (s.thAt { rank := r, slot := m.slot }).domid = false →
    (m.pop = true → ((s.core r).queue m.queue).pops = [(m.id, false)] ∧ m.queue < (s.core r).queues.size) →
    ∃ t, exec (.matrixOpStart r mac) s = .next t ∧ Stored s t (scratchLoc r (m.pos * 0x800)) 0x800 g.a
      ∧ (t.core r).mops = (s.core r).mops.filter (fun x => decide (x.id ≠ m.id))
      ∧ ((t.core r).queue m.queue).count = ((s.core r).queue m.queue).count - (if m.pop then 1 else 0)
      ∧ ∀ x ∈ t.tileWsums r m.wDesc p0 m.pos, lookup (t.core r).wsum x.1 = some x.2)
  ∧ (∀ (f : FmtX) (s : State) (l : Loc) (d : BitVec 512) (p q : Nat), Inv s → NoReds s → Entry s (tidIn s.th f.x) l d → bit d 0 = true →
    TileNamed s.me d (tidIn s.th f.x) (s.th.val f.y) p q → p < 1536 → s.me.mops = [] →
    (nbit f.fl.val 0 = true → ∀ lz, TileGa s (s.th.get f.z) lz → PlainWrite s lz 0x800 →
      ∃ t, exec (.mrd f) s = .next t ∧ Stored s t lz 0x800 (s.peek (positionLoc s p) 0x800)
        ∧ Keeps { warn := [.fmt], outst := true, mon := true } s.th t.th ∧ t.th.pc = s.th.pc.add 4 ∧ Issued s t f.lk [])
    ∧ (nbit f.fl.val 0 = false → f.z.val < 8 → HasRoom (s.me.queue f.z.val) →
      ∃ t, exec (.mrd f) s = .next t ∧ Pushed s t f.z.val (s.peek (positionLoc s p) 0x800)
        ∧ Keeps { warn := [.fmt], outst := true, mon := true } s.th t.th ∧ t.th.pc = s.th.pc.add 4 ∧ Issued s t f.lk [.q f.z.val])))

/-- R129, R241-R244: `qcfg` lays a queue out, `qhead` and `qtail` point at its ends, `qpop` retires tiles from the head,
`qpush` copies a tile to the tail; a queue that is not configured raises APERTURE. -/
def Obligations.OperandQueues : Prop :=
  (∀ (f : FmtX) (s : State), f.x.val < 8 → (s.th.get f.y).sb = 0xF0 → (s.th.get f.y).v.toNat % 0x800 = 0 →
    0 < (s.th.val f.z).toNat % 128 → (s.th.val f.z).toNat % 128 ≤ 64 → 0x300000 ≤ (s.th.get f.y).v.toNat →
    (s.th.get f.y).v.toNat + (s.th.val f.z).toNat % 128 * 0x800 ≤ (if s.pairing s.turn.rank then 0x33E000 else 0x340000) →
    s.me.queueBusy f.x.val = false →
    ∃ t, exec (.qcfg f) s = .next t
      ∧ t.me.queue f.x.val =
          { cfg := true, base := (s.th.get f.y).v.toNat, cap := (s.th.val f.z).toNat % 128,
            tid := (s.th.val f.z).toNat / 256 % 256, head := 0, count := 0, resv := [], pops := [], dom := s.th.domid }
      ∧ OtherQueues s t f.x.val ∧ Untouched s t ∧ Issued s t f.lk [.q f.x.val]
      ∧ Keeps { outst := true } s.th t.th ∧ t.th.pc = s.th.pc.add 4)
  ∧ (∀ (f : FmtX) (s : State), f.y.val < 8 → (s.me.queue f.y.val).cfg = true → s.me.queueBusy f.y.val = false →
    (∃ t, exec (.qhead f) s = .next t ∧ Completes { regs := [f.x], outst := true } s t ∧ Issued s t f.lk [.s f.x]
      ∧ t.th.get f.x = held f.x { sb := 0xF0, v := word ((s.me.queue f.y.val).base
          + (s.me.queue f.y.val).head % (s.me.queue f.y.val).cap * 0x800) })
    ∧ (∃ t, exec (.qtail f) s = .next t ∧ Completes { regs := [f.x], outst := true } s t ∧ Issued s t f.lk [.s f.x]
      ∧ t.th.get f.x = held f.x { sb := 0xF0, v := word ((s.me.queue f.y.val).base
          + ((s.me.queue f.y.val).head + (s.me.queue f.y.val).count + (s.me.queue f.y.val).resv.length) % (s.me.queue f.y.val).cap * 0x800) })
    ∧ ((s.th.val f.z).toNat % 128 ≤ (s.me.queue f.y.val).cap → (s.th.val f.z).toNat % 128 ≤ (s.me.queue f.y.val).count →
      ∃ t, exec (.qpop f) s = .next t
        ∧ (t.me.queue f.y.val).count = (s.me.queue f.y.val).count - (s.th.val f.z).toNat % 128
        ∧ (t.me.queue f.y.val).head = (s.me.queue f.y.val).head + (s.th.val f.z).toNat % 128
        ∧ OtherQueues s t f.y.val ∧ Untouched s t ∧ Issued s t f.lk [.s f.x, .q f.y.val]
        ∧ t.th.get f.x = held f.x (.int (word ((s.me.queue f.y.val).count - (s.th.val f.z).toNat % 128)))
        ∧ Keeps { regs := [f.x], outst := true } s.th t.th ∧ t.th.pc = s.th.pc.add 4))
  ∧ (∀ (f : FmtX) (s : State) (l : Loc), Inv s → NoReds s → s.me.mops = [] → f.x.val < 8 → HasRoom (s.me.queue f.x.val) →
    TileGa s (s.th.get f.y) l →
    ∃ t, exec (.qpush f) s = .next t ∧ Pushed s t f.x.val (s.peek l 0x800) ∧ OtherQueues s t f.x.val ∧ Issued s t f.lk [.q f.x.val]
      ∧ Keeps { outst := true, mon := true } s.th t.th ∧ t.th.pc = s.th.pc.add 4)
  ∧ (∀ (f : FmtX) (s : State), MayTrap s →
    (f.y.val < 8 → (s.me.queue f.y.val).cfg = false → ∀ c ∈ ([.qhead, .qtail, .qpop] : List (FmtX → Instr)),
      ∃ t, exec (c f) s = .next t ∧ TrapEntry {} s t .aperture (word f.y.val) 0)
    ∧ (f.x.val < 8 → (s.me.queue f.x.val).cfg = false →
      ∃ t, exec (.qpush f) s = .next t ∧ TrapEntry {} s t .aperture (word f.x.val) 0))

/-! ### Matrix operations and accumulators (R69, R71, R122-R137, R233-R240) -/

namespace Sys2Proof.Claims

/-- The thread `b` is `a` but for a footprint, the pc and the accumulators in a list. -/
def KeepsAcc (p : Footprint) (l : List (Fin 8)) (a b : Thread) : Prop :=
  Keeps p a { b with accs := a.accs, dirty := a.dirty &&& b.dirty } ∧ (∀ k, k ∉ l → b.acc k = a.acc k)

/-- The matrix operations on a bound queue. -/
def productTable : List ((FmtX → Instr) × MatKind) := [(.mmac, .mac), (.mmul, .mul), (.mmacSp, .sparse)]

/-- What R234 asks of an operation on accumulator `n` whose binding names a queue: the binding, the queue, both tensors, their types
and kinds, the tile that sPos names at position `p`, quarter `q`, and a place in the macro's queue. -/
structure MatrixReady (s : State) (n : Fin 8) (kind : MatKind) (sp : Word) (lw la : Loc) (w a : BitVec 512) (p q : Nat) : Prop where
  bound : bit (s.th.acc n).bind 23 = true ∧ bit (s.th.acc n).bind 19 = false
  even : s.th.inPair n = true → n.val % 2 = 0
  queue : (s.me.queue (field (s.th.acc n).bind 16 3)).cfg = true
  weights : Entry s (field (s.th.acc n).bind 8 8) lw w ∧ bit w 0 = true
  actives : Entry s (s.me.queue (field (s.th.acc n).bind 16 3)).tid la a ∧ bit a 0 = true
  types : pairOk (field a 8 4) (field w 8 4) = true
  kinds : field a 16 3 ≠ 3 ∧ (field (s.th.acc n).bind 0 2 = 1 → field a 16 3 = 0 ∧ field w 16 3 = 0)
  maps : kind = .sparse → field a 128 64 ≠ 0xFFFFFFFFFFFFFFFF ∧ field w 128 64 ≠ 0xFFFFFFFFFFFFFFFF
  tile : TileNamed s.me w (field (s.th.acc n).bind 8 8) sp p q
  room : s.me.macroFull (p / 48) = false

/-- An operation has joined its macro's queue, behind every other. -/
def Queued (s t : State) (lk : Fin 16) (m : MatOp) : Prop :=
  m ∈ t.me.mops ∧ t.me.mops.length = s.me.mops.length + 1 ∧ (∀ y ∈ s.me.mops, ∃ y' ∈ t.me.mops, y' = { y with args := y'.args, read := y'.read })
    ∧ m.id = s.me.nextId ∧ m.slot = s.turn.slot ∧ m.executing = false
    ∧ (∃ o, t.th.outst = s.th.outst ++ [o] ∧ o.wait = .op m.id ∧ o.dest = (s.th.accGroup m.acc).map .acc ∧ o.lk = lk.val ∧ o.trap = none)
    ∧ t.th.pc = s.th.pc.add 4 ∧ Untouched s t

/-- The exact sum over k of A[r, k] x W[c, k], scales and, for `mmac.sp`, bitmaps included (R69, R133). -/
def sliceSum (m : MatOp) (g : MatArgs) (r c : Nat) : Machine.Num :=
  let sh := shapeOf (descEt m.wDesc)
  let sp := decide (m.kind = .sparse)
  exactSum ((List.range sh.k).map (fun k => (Machine.Num.mul
    (operand m.aDesc sh.k g.a 0 0 g.aScale (if sp then some g.aMap else none) r k)
    (operand m.wDesc sh.k g.w m.quarter g.wBook g.wScale (if sp then some g.wMap else none) c k)).1))

/-- Element i of an accumulator, or of an FP64 pair, of a class. -/
def accElem (t : Thread) (n : Fin 8) (cls i : Nat) : Nat := t.image n cls / 2 ^ (clsBits cls * i) % 2 ^ clsBits cls

/-- An element plus a slice sum: saturating INT32, or one rounding in RNE (R69, R71). -/
def accumulated (cls old : Nat) (x : Machine.Num) : Nat :=
  if cls = 1 then intElem (.int 32) true ((ElemType.int 32).toInt old + x.toInt)
  else (rounded (clsFmt cls) 0 (Machine.Num.add false ((clsFmt cls).value old) x)).1

/-- An operation of macro `k` on core `r` that stands alone there: no gang operation, its operands at hand. -/
structure Lone (s : State) (r k : Nat) (m : MatOp) (g : MatArgs) : Prop where
  alone : (s.core r).mops = [m]
  unit : m.pos / 48 = k
  kind : m.kind = .mac ∨ m.kind = .mul ∨ m.kind = .sparse
  args : m.read = true ∧ m.args = some g
  alive : m.dead = none ∧ m.record = none

/-- What R233 makes the class of a binding, from the W and A descriptors' types and kinds. -/
def boundClass (w : BitVec 512) (aKind : Nat) : Nat :=
  if field w 8 4 = 0 then 2 else if (field w 8 4 = 12 ∨ field w 8 4 = 13) ∧ field w 16 3 ≠ 2 ∧ aKind ≠ 2 then 1 else 0

/-- Rows and columns of an accumulator that fail their check (R136). -/
def failingRows (a : Acc) (l : List Nat) : List Nat := failing (rowOutcomes a (field a.bind 0 2) l)
def failingCols (a : Acc) (l : List Nat) : List Nat := failing (colOutcomes a (field a.bind 0 2) l)

/-- An accumulator field of F-X that names `n`. -/
def names (r : Reg) (n : Fin 8) : Prop := r.val = n.val

end Sys2Proof.Claims

/-- R129, R234, R235: a legal matrix operation joins its macro's queue with its tile, its A tile's place in the operand
queue and its quadrant, and is outstanding; `mgang` in a gang task does so with its record, and off position 0 with a
reserved slot; an unbound accumulator and a field above 7 raise ILLEGAL. -/
def Obligations.MatrixIssue : Prop :=
  (∀ e ∈ productTable, ∀ (f : FmtX) (s : State) (n : Fin 8) (lw la : Loc) (w a : BitVec 512) (p q : Nat), Inv s → NoReds s → names f.x n →
    MatrixReady s n e.2 (s.th.val f.y) lw la w a p q →
    ∃ t m, exec (e.1 f) s = .next t ∧ Queued s t f.lk m ∧ m.acc = n ∧ m.kind = e.2 ∧ m.pos = p ∧ m.quarter = q ∧ m.mit = none
      ∧ m.aDesc = a ∧ m.wDesc = w ∧ m.queue = field (s.th.acc n).bind 16 3 ∧ m.pop = nbit f.fl.val 0 ∧ m.record = none
      ∧ m.seq = (s.me.queue m.queue).head + (s.me.queue m.queue).pops.length ∧ m.qd.toNat = field (s.th.val f.y) 32 2
      ∧ (t.me.queue m.queue).pops = (s.me.queue m.queue).pops ++ (if m.pop then [(m.id, false)] else [])
      ∧ Keeps { warn := [.fmt], outst := true } s.th t.th)
  ∧ (∀ (f : FmtX) (s : State) (n : Fin 8) (k : Task) (lw la : Loc) (w a : BitVec 512) (p q : Nat), Inv s → NoReds s →
    names f.x n → s.th.task = some k → k.gang = true → (s.th.get f.z).sb = 0xF0 → (s.th.get f.z).v.toNat % 16 = 0 →
    (s.th.get f.z).v.toNat + 16 ≤ 0x340000 → s.fixedAt s.turn.rank (s.th.get f.z).v.toNat = false →
    MatrixReady s n (if nbit f.fl.val 1 then .gangMul else .gangMac) (s.th.val f.y) lw la w a p q →
    (s.turn.rank % 16 ≠ 0 → HasRoom (s.me.queue (field (s.th.acc n).bind 16 3))) →
    ∃ t m, exec (.mgang f) s = .next t ∧ Queued s t f.lk m ∧ m.acc = n ∧ m.kind = (if nbit f.fl.val 1 then .gangMul else .gangMac)
      ∧ m.pos = p ∧ m.quarter = q ∧ m.record = some (s.th.get f.z).v.toNat ∧ m.dead = none ∧ m.queue = field (s.th.acc n).bind 16 3
      ∧ (t.me.queue m.queue).resv = (s.me.queue m.queue).resv ++ (if s.turn.rank % 16 ≠ 0 then [false] else [])
      ∧ Keeps { warn := [.fmt], outst := true } s.th t.th)
  ∧ (∀ e ∈ productTable, ∀ (f : FmtX) (s : State), MayTrap s →
    (8 ≤ f.x.val ∨ ∃ n, names f.x n ∧ bit (s.th.acc n).bind 23 = false) →
    ∃ t, exec (e.1 f) s = .next t ∧ TrapEntry {} s t .illegal (word (encodeNat (e.1 f))) 0)

/-- R69, R71, R127-R129, R135: an operation with unscaled operands starts with the W tile as it then is, and its popped tile
retires; when it completes, each element of its quadrant or accumulator is the old one, or 0 for `mmul`, plus the exact
slice sum, rounded or saturated once, and with CHK the column checksum gains the sum of the products; the operation is gone.
-/
def Obligations.MatrixRuns : Prop :=
  (∀ (r k : Nat) (s : State) (m : MatOp) (g : MatArgs), Lone s r k m g → m.executing = false → descKind m.aDesc = 0 → descKind m.wDesc = 0 →
    s.unreadable (scratchLoc r (((s.core r).queue m.queue).tileOff m.seq)) 0x800 = false →
    (m.pop = true → m.queue < 8 ∧ ((s.core r).queue m.queue).pops = [(m.id, false)]) →
    ∃ t, exec (.matrixOpStart r k) s = .next t ∧ (t.core r).mops = [{ m with executing := true, args := some (s.wTile r m g) }] ∧ Untouched s t
      ∧ (t.core r).threads = (s.core r).threads
      ∧ (m.pop = true → ((t.core r).queue m.queue).head = ((s.core r).queue m.queue).head + 1
          ∧ ((t.core r).queue m.queue).count = ((s.core r).queue m.queue).count - 1 ∧ ((t.core r).queue m.queue).pops = []))
  ∧ (∀ (r k : Nat) (s : State) (m : MatOp) (g : MatArgs) (a b : Thread) (cls r0 c0 : Nat) (sh : Shape), Lone s r k m g → m.executing = true →
    a = s.thAt { rank := r, slot := m.slot } → bit a.errinj 31 = false → cls = field (a.acc m.acc).bind 0 2 → cls < 3 →
    (cls = 2 → a.inPair m.acc = true ∧ m.acc.val % 2 = 0) → (cls ≠ 2 → a.inPair m.acc = false) →
    sh = shapeOf (descEt m.wDesc) → r0 = (if cls = 2 then 16 * (m.qd.toNat / 2) else 0) → c0 = (if cls = 2 then 16 * (m.qd.toNat % 2) else 0) →
    ∃ t, exec (.matrixOpComplete r k) s = .next t ∧ (t.core r).mops = [] ∧ Untouched s t
      ∧ (b = t.thAt { rank := r, slot := m.slot } →
        KeepsAcc {} (a.accGroup m.acc) a b
        ∧ (∀ i, i < 1024 → accElem b m.acc cls i =
            let old := if m.kind = .mul then 0 else accElem a m.acc cls i
            if r0 ≤ i / 32 ∧ i / 32 < r0 + sh.m ∧ c0 ≤ i % 32 ∧ i % 32 < c0 + sh.n then accumulated cls old (sliceSum m g (i / 32 - r0) (i % 32 - c0)) % 2 ^ clsBits cls
            else old)
        ∧ (bit (a.acc m.acc).bind 22 = true → ∀ c, c < sh.n → c0 + c < 32 → (ckList (b.acc m.acc).cr).getD (c0 + c) 0 =
            ckAdd cls (if m.kind = .mul then 0 else (ckList (a.acc m.acc).cr).getD (c0 + c) 0)
              (exactSum ((List.range sh.k).map (fun k => (Machine.Num.mul
                (exactSum ((List.range sh.m).map (fun r => operand m.aDesc sh.k g.a 0 0 g.aScale
                  (if m.kind = .sparse then some g.aMap else none) r k)))
                (operand m.wDesc sh.k g.w m.quarter g.wBook g.wScale (if m.kind = .sparse then some g.wMap else none) c k)).1))) % 2 ^ 64)
        ∧ (bit (a.acc m.acc).bind 22 = false → (b.acc m.acc).cr = (if m.kind = .mul then 0 else (a.acc m.acc).cr))))

namespace Sys2Proof.Claims

/-- The destination types of `mdrain` by the code in its control word (R237). -/
def drainTypes : List (Nat × ElemType) :=
  [ (0, .float f64), (1, .float f32), (2, .float bf16), (3, .float f16), (4, .float e4m3), (5, .float e5m2), (10, .int 32), (11, .int 16),
    (12, .int 8) ]

/-- The mode of a drain: codes 0-5 of bits [6:4], else FPCTL.RM; SR is honoured (R54, R238). -/
def drainMode (ctl : Word) (t : Thread) : Mode := if field ctl 4 3 < 6 then field ctl 4 3 else t.rm

/-- One element of a drain: INT32 converts as R208 gives, any other class is scaled exactly and rounded once (R70, R238). -/
def drainResult (cls : Nat) (ty : ElemType) (m : Mode) (sat : Bool) (scale : Machine.Num) (u x : Nat) : Nat × Flags :=
  if cls = 1 then convResult (.int 32) ty m sat u x
  else
    let v := Machine.Num.mul ((clsFmt cls).value x) scale
    match ty with
    | .float F => ((F.convert m sat v.1 u).1, v.2 ||| (F.convert m sat v.1 u).2)
    | _ => (((toInteger m ty.least ty.greatest v.1 u).1 % (2 ^ ty.memBits : Nat)).toNat, v.2 ||| (toInteger m ty.least ty.greatest v.1 u).2)

/-- The status of a drain without checksums: SAT and CORR (R237). -/
def drainWord (a : Acc) : Word := word (ofBool (bit a.bind 20) * 2 ^ 9 + field a.bind 32 16 * 2 ^ 32)

/-- A drain without checksums whose results are `res` and whose flags are `fl`: the control word's type, the scales that the W
descriptor gives for its 32 columns, the draws under SR. -/
structure Drains (s : State) (f : FmtX) (n : Fin 8) (ty : ElemType) (res : Nat → Nat × Flags) (fl : Flags) : Prop where
  named : names f.y n
  reds : NoReds s
  ready : s.accBusy n = false ∧ bit (s.th.acc n).bind 22 = false
  type : (field (s.th.val f.x) 0 4, ty) ∈ drainTypes
  results : ∃ scale : Nat → Machine.Num,
    (((field (s.th.acc n).bind 8 8 = 0 ∨ field (s.th.acc n).bind 0 2 = 1) ∧ ∀ c, scale c = .fin false 1 0)
      ∨ ∃ l w, Entry s (field (s.th.acc n).bind 8 8) l w ∧ field (s.th.acc n).bind 0 2 ≠ 1
          ∧ ((field w 16 3 ≠ 3 ∧ ∀ c, scale c = .fin false 1 0)
            ∨ (field w 16 3 = 3 ∧ ∀ c, c < 32 → scaleValue false
                (s.look (scratchLoc s.turn.rank (field w 64 64 + field (s.th.val f.x) 16 16 * 128 + 4 * c)) 4) = some (scale c))))
    ∧ ∀ k, res k = drainResult (field (s.th.acc n).bind 0 2) ty (drainMode (s.th.val f.x) s.th) (bit (s.th.val f.x) 7) (scale (k % 32))
        (if drainMode (s.th.val f.x) s.th = 5 then (Nat.iterate srNext (k + 1) s.th.srseed).toNat / 2 ^ 32 else 0)
        (accElem s.th n (field (s.th.acc n).bind 0 2) k)
  flags : fl = orFlags 1024 (fun _ => true) (fun k => (res k).2) ||| (if bit (s.th.acc n).bind 20 then flagNX else 0)

end Sys2Proof.Claims

/-- R130, R135, R136, R233, R236, R239, R240: `mbind` writes a binding, `mzero` clears an accumulator, `mchk` reports,
corrects or fails a check, `mfix` seals the checksums from the contents. R70, R132, R237, R238: `mdrain` of an accumulator
without checksums converts its 1024 elements, each scaled and rounded once, into a queue, the own scratchpad or vector
registers, and delivers a status that reports only SAT. -/
def Obligations.AccumulatorsDrain : Prop :=
  ((∀ (f : FmtX) (s : State) (n : Fin 8) (l : Loc) (w : BitVec 512) (aKind cls : Nat) (k : Fin 8), Inv s → names f.x n → f.y.val < 8 →
    nbit f.fl.val 2 = false → s.accBusy n = false → s.accBusy (evenOf n) = false → s.accBusy (oddOf n) = false →
    Entry s (tidIn s.th f.z) l w → bit w 0 = true →
    field w 8 4 ∉ [9, 10, 11, 15] →
    ((field w 8 4 = 12 ∨ field w 8 4 = 13) ∧ (s.me.queue f.y.val).cfg = true →
      ∃ la a, Entry s (s.me.queue f.y.val).tid la a ∧ aKind = field a 16 3) →
    (¬ ((field w 8 4 = 12 ∨ field w 8 4 = 13) ∧ (s.me.queue f.y.val).cfg = true) → aKind = 0) →
    cls = boundClass w aKind → (field w 16 3 = 3 → cls ≠ 1) → k = (if cls = 2 then evenOf n else n) →
    ∃ t, exec (.mbind f) s = .next t ∧ Untouched s t ∧ Issued s t f.lk (if cls = 2 then [.acc (evenOf n), .acc (oddOf n)] else [.acc n]) ∧ t.th.pc = s.th.pc.add 4
      ∧ KeepsAcc { warn := [.align], outst := true } [k] s.th t.th ∧ (t.th.acc k).elems = (s.th.acc k).elems
      ∧ bit (t.th.acc k).bind 23 = true ∧ bit (t.th.acc k).bind 22 = nbit f.fl.val 0 ∧ bit (t.th.acc k).bind 21 = nbit f.fl.val 1
      ∧ bit (t.th.acc k).bind 20 = bit (s.th.acc k).bind 20 ∧ bit (t.th.acc k).bind 19 = false
      ∧ field (t.th.acc k).bind 16 3 = f.y.val ∧ field (t.th.acc k).bind 8 8 = tidIn s.th f.z ∧ field (t.th.acc k).bind 0 2 = cls
      ∧ field (t.th.acc k).bind 32 16 = field (s.th.acc k).bind 32 16 ∧ (k ≠ n → bit t.th.warn 3 = true))
  ∧ (∀ (f : FmtX) (s : State) (n : Fin 8), names f.x n → s.accBusy n = false →
    ∃ t, exec (.mzero f) s = .next t ∧ Alone s t ∧ t.th.pc = s.th.pc.add 4 ∧ Issued s t f.lk ((s.th.accGroup n).map .acc)
      ∧ KeepsAcc { outst := true } (s.th.accGroup n) s.th t.th
      ∧ ∀ k ∈ s.th.accGroup n, (t.th.acc k).elems = 0 ∧ (t.th.acc k).cr = 0 ∧ (t.th.acc k).cc = 0 ∧ (t.th.acc k).sr = 0
        ∧ (t.th.acc k).sc = 0 ∧ bit (t.th.acc k).bind 20 = false ∧ field (t.th.acc k).bind 32 16 = 0
        ∧ field (t.th.acc k).bind 0 20 = field (s.th.acc k).bind 0 20 ∧ field (t.th.acc k).bind 21 3 = field (s.th.acc k).bind 21 3)
  ∧ (∀ (f : FmtX) (s : State) (n : Fin 8) (a : Acc) (l fr fc : List Nat), names f.y n → s.accBusy n = false → a = s.th.acc n →
    l = s.th.accElems n (field a.bind 0 2) → fr = failingRows a l → fc = failingCols a l →
    (bit a.bind 22 = false → ∃ t, exec (.mchk f) s = .next t ∧ Completes { regs := [f.x], outst := true } s t
      ∧ t.th.get f.x = held f.x .zero)
    ∧ (bit a.bind 22 = true → fr = [] → fc = [] → ∃ t v, exec (.mchk f) s = .next t ∧ Completes { regs := [f.x], outst := true } s t
      ∧ t.th.get f.x = held f.x (.int v) ∧ field v 0 9 = 0 ∧ bit v 9 = bit a.bind 20 ∧ field v 16 10 = 0 ∧ field v 32 16 = field a.bind 32 16)
    ∧ (bit a.bind 22 = true → bit a.bind 21 = false → (fr.length, fc.length) ∉ [(0, 0), (1, 1)] → s.rollbackDue = [] →
      ∃ t v, exec (.mchk f) s = .next t ∧ Untouched s t ∧ Keeps { regs := [f.x], outst := true } s.th { t.th with ipend := s.th.ipend } ∧ t.th.pc = s.th.pc.add 4
        ∧ t.th.get f.x = held f.x (.int v) ∧ field v 0 8 = 0x0E ∧ field v 16 5 = min fr.length 31 ∧ field v 21 5 = min fc.length 31)
    ∧ (bit a.bind 22 = true → bit a.bind 21 = true → (fr.length, fc.length) ∉ [(0, 0), (1, 1)] → ckptDom s.th.domid = false →
      s.rollbackDue = [] → ∃ t, exec (.mchk f) s = .next t ∧ Untouched s t ∧ Keeps { outst := true } s.th { t.th with ipend := s.th.ipend }
        ∧ IssuedTrap s t f.lk [.s f.x, .acc n] .chkFail (word n.val))
    ∧ (∀ r c : Nat, bit a.bind 22 = true → field a.bind 0 2 ≠ 2 → fr = [r] → fc = [c] →
      failingRows a (l.set (32 * r + c) (corrected a (field a.bind 0 2) l r c)) = [] →
      failingCols a (l.set (32 * r + c) (corrected a (field a.bind 0 2) l r c)) = [] →
      ∃ t v, exec (.mchk f) s = .next t ∧ KeepsAcc { regs := [f.x], outst := true } [n] s.th t.th ∧ t.th.get f.x = held f.x (.int v)
        ∧ field v 0 8 = 0 ∧ bit v 8 = true ∧ field (t.th.acc n).bind 32 16 = min (field a.bind 32 16 + 1) 0xFFFF
        ∧ ∀ i, i < 1024 → accElem t.th n (field a.bind 0 2) i =
            if i = 32 * r + c then corrected a (field a.bind 0 2) l r c % 2 ^ 32 else accElem s.th n (field a.bind 0 2) i))
  ∧ (∀ (f : FmtX) (s : State) (n : Fin 8) (cls : Nat), names f.x n → bit (s.th.acc n).bind 23 = true → s.accBusy n = false →
    nbit f.fl.val 0 = false → cls = field (s.th.acc n).bind 0 2 →
    ∃ t, exec (.mfix f) s = .next t ∧ Alone s t ∧ t.th.pc = s.th.pc.add 4 ∧ KeepsAcc { outst := true } [n] s.th t.th
      ∧ (t.th.acc n).elems = (s.th.acc n).elems ∧ bit (t.th.acc n).bind 20 = false ∧ field (t.th.acc n).bind 32 16 = 0
      ∧ (∀ m, m < 32 → (ckList (t.th.acc n).cc).getD m 0 = ckAdd cls 0 (exactSum (rowTerms cls (s.th.accElems n cls) m)) % 2 ^ 64)
      ∧ (∀ m, m < 32 → (ckList (t.th.acc n).cr).getD m 0 = ckAdd cls 0 (exactSum (colTerms cls (s.th.accElems n cls) m)) % 2 ^ 64)))
  ∧ (∀ (f : FmtX) (s : State) (n : Fin 8) (ty : ElemType) (res : Nat → Nat × Flags) (fl : Flags) (foot : Footprint), Inv s →
    Drains s f n ty res fl → Untrapped s.th fl →
    foot = { regs := [f.x], warn := [.fmt], flags := true, seed := true, outst := true, mon := true } →
    (f.fl.val % 4 = 0 → f.z.val < 8 → (s.me.queue f.z.val).cfg = true → (s.me.queue f.z.val).resv = [] →
      (s.me.queue f.z.val).count + (ty.memBits + 15) / 16 ≤ (s.me.queue f.z.val).cap → 0x300000 ≤ (s.me.queue f.z.val).base →
      (s.me.queue f.z.val).base + (s.me.queue f.z.val).cap * 0x800 ≤ 0x340000 →
      ∃ t, exec (.mdrain f) s = .next t ∧ Keeps foot s.th t.th ∧ Flagged s.th t.th fl ∧ t.th.pc = s.th.pc.add 4
        ∧ t.th.get f.x = held f.x (.int (drainWord (s.th.acc n)))
        ∧ (t.me.queue f.z.val).count = (s.me.queue f.z.val).count + (ty.memBits + 15) / 16 ∧ OtherQueues s t f.z.val
        ∧ ∀ k, k < 1024 → t.peek (scratchLoc s.turn.rank ((s.me.queue f.z.val).base
              + ((s.me.queue f.z.val).head + (s.me.queue f.z.val).count + ty.memBits * k / 16384) % (s.me.queue f.z.val).cap * 0x800)) 0x800
            / 2 ^ (ty.memBits * k % 16384) % 2 ^ ty.memBits = (res k).1 % 2 ^ ty.memBits)
    ∧ (∀ l, f.fl.val % 4 = 1 → (s.th.get f.z).sb = 0xF0 → s.turn.slot ≠ 4 → (s.th.get f.z).v.toNat % 64 = 0 →
      (s.th.get f.z).v.toNat + 128 * ty.memBits ≤ 0x340000 → l = scratchLoc s.turn.rank (s.th.get f.z).v.toNat →
      QuietRange s l (128 * ty.memBits) → PlainRange s l (128 * ty.memBits) →
      ∃ t, exec (.mdrain f) s = .next t ∧ Keeps foot s.th t.th ∧ Flagged s.th t.th fl ∧ t.th.pc = s.th.pc.add 4
        ∧ t.th.get f.x = held f.x (.int (drainWord (s.th.acc n)))
        ∧ (∀ k, k < 1024 → t.peek l (128 * ty.memBits) / 2 ^ (ty.memBits * k) % 2 ^ ty.memBits = (res k).1 % 2 ^ ty.memBits)
        ∧ ∀ k : Loc, k.key < l.key ∨ l.key + 128 * ty.memBits ≤ k.key → t.byteAt k = s.byteAt k)
    ∧ (f.fl.val % 4 = 2 → f.z.val + ty.memBits / 4 ≤ 32 →
      ∃ t, exec (.mdrain f) s = .next t ∧ Untouched s t ∧ Flagged s.th t.th fl ∧ t.th.pc = s.th.pc.add 4
        ∧ t.th.get f.x = held f.x (.int (drainWord (s.th.acc n)))
        ∧ Keeps { foot with vregs := (List.range (ty.memBits / 4)).map (fun r => Fin.ofNat 32 (f.z.val + r)) } s.th t.th
        ∧ ∀ k, k < 1024 → ty.elem (t.th.vregs.getD (f.z.val + k / ty.count) 0) (k % ty.count) = (res k).1 % 2 ^ ty.memBits))

/-! ### Bands and pairing (R138-R151, R245-R251) -/

namespace Sys2Proof.Claims

/-- The bytes of a descriptor read as a number. -/
def byteField (d o n : Nat) : Nat := d / 256 ^ o % 256 ^ n

/-- The status word of `bset` and `bclr` (R246, R247): cause 0x07 for reasons 2 and 3, 0x01 for the others. -/
def bsetStatus (why rank : Nat) : Word :=
  word ((if why = 0 then 0 else if why = 2 ∨ why = 3 then 0x07 else 0x01) + why * 2 ^ 8 + rank % 2 ^ 16 * 2 ^ 16)

/-- `n` aligned bytes of the own scratchpad at the address of a register, read without delay. -/
def ScratchBytes (s : State) (ga : Ptr) (n v : Nat) : Prop :=
  ga.sb = 0xF0 ∧ ga.v.toNat % n = 0 ∧ ga.v.toNat + n ≤ 0x340000 ∧ Quiet s (scratchLoc s.turn.rank ga.v.toNat) n
    ∧ s.me.weakScratch = [] ∧ v = s.peek (scratchLoc s.turn.rank ga.v.toNat) n

/-- A pair tile that moves on: a good header, partners left, and no end of its laps at this position. -/
def Plain (p : Nat) (x : Tile) : Prop :=
  x.bad = false ∧ x.weak = false ∧ x.bcast = false ∧ x.pmask ≠ 0 ∧ ¬ (p = x.orig ∧ x.lapCnt = x.lapLim)

/-- A tile as it arrives at a position: a lap is counted at its origin, and the header's code follows (R140, R149). -/
def arrived (q : Nat) (x : Tile) : Tile :=
  if q = x.orig ∧ x.lapCnt < x.lapLim then Tile.recoded { x with lapCnt := x.lapCnt + 1 } else x

/-- A core of the band has taken in a message of a set's domain since the last circuit (R271). -/
def Black (s : State) (g : PairSet) (b : Nat) : Prop := ∃ p, p < 16 ∧ (s.core (b * 16 + p)).msgB.contains (domKey (g.domain.setWidth 64)) = true

/-- Nothing of a core's own state differs but what `g` gives. -/
def CoreOnly (s t : State) (r : Nat) : Prop := (∀ q, q ≠ r → t.core q = s.core q) ∧ Untouched s t

end Sys2Proof.Claims

/-- R140, R245: `binj` queues a tile with its descriptor's fields and the CHK of its payload, and is outstanding until it
enters the band; a set that is not installed raises ILLEGAL, a faulted one BANDFLT. R144, R246-R251: `bset` installs a set
or says why not, `bclr` removes a complete one, `bmiss` and `bstat` read the counts, `pget` takes the oldest missed
encounter, `prel` frees the mitten slot. -/
def Obligations.BandMembers : Prop :=
  (∀ (f : FmtX) (s : State) (pay d n lim : Nat), s.me.sstep = [] → ScratchBytes s (s.th.get f.x) 0x800 pay → ScratchBytes s (s.th.get f.y) 64 d →
    s.turn.slot ≠ 4 → n = byteField d 0x21 1 % 8 → lim = byteField d 0x21 1 / 16 % 8 →
    (∀ g, (s.band (s.turn.rank / 16)).glove.getD n none = some g → lim ≠ 0 → g.faulted = false →
      ∃ t x, exec (.binj f) s = .next t ∧ (t.band (s.turn.rank / 16)).pend = (s.band (s.turn.rank / 16)).pend ++ [x]
        ∧ x.pos = s.turn.rank % 16 ∧ x.slot = s.turn.slot ∧ x.claim = false ∧ x.tile.payload = pay ∧ x.tile.pmask.toNat = d % 2 ^ 256
        ∧ x.tile.idx = byteField d 0x20 1 ∧ x.tile.set = n ∧ x.tile.orig = s.turn.rank % 16 ∧ x.tile.lapLim = lim ∧ x.tile.lapCnt = 0
        ∧ x.tile.fam = (if byteField d 0x21 1 / 8 % 2 = 1 then .ccw else .cw)
        ∧ x.tile.tid = (if byteField d 0x21 1 / 8 % 2 = 1 then g.ccwTid else g.cwTid)
        ∧ x.tile.chk.toNat = crc32c 0x800 pay % 2 ^ 32 ∧ x.tile.bcast = false ∧ x.tile.dom = s.th.domid
        ∧ (∃ o, t.th.outst = s.th.outst ++ [o] ∧ o.wait = .inj x.id ∧ o.dest = [] ∧ o.trap = none ∧ o.lk = f.lk.val)
        ∧ Keeps { outst := true } s.th t.th ∧ t.th.pc = s.th.pc.add 4 ∧ Untouched s t)
    ∧ (MayTrap s → ((s.band (s.turn.rank / 16)).glove.getD n none = none ∨ lim = 0) →
      ∃ t, exec (.binj f) s = .next t ∧ TrapEntry {} s t .illegal (s.th.get f.y).v 7)
    ∧ (∀ g, MayTrap s → (s.band (s.turn.rank / 16)).glove.getD n none = some g → lim ≠ 0 → g.faulted = true →
      ∃ t, exec (.binj f) s = .next t ∧ TrapEntry {} s t .bandFlt (s.th.get f.y).v 7))
  ∧ ((∀ (f : FmtX) (s : State) (d n : Nat), ScratchBytes s (s.th.get f.z) 32 d → s.turn.slot ≠ 4 → n = (s.th.val f.y).toNat % 8 →
    (∀ why, ((byteField d 0 8 % 4 ≠ 0 ∨ byteField d 0x18 8 % 0x20000 ≠ 0) ∧ why = 4
        ∨ byteField d 0 8 % 4 = 0 ∧ byteField d 0x18 8 % 0x20000 = 0 ∧ (s.band (s.turn.rank / 16)).glove.getD n none ≠ none ∧ why = 1) →
      ∃ t, exec (.bset f) s = .next t ∧ Completes { regs := [f.x], outst := true } s t ∧ Issued s t f.lk [.s f.x]
        ∧ t.th.get f.x = held f.x (.int (bsetStatus why 0)))
    ∧ (∀ l, s.bsetCheck n (byteField d 0 8) (byteField d 0x18 8) = .ok l → s.regionWaits s.turn.rank (word (byteField d 0x18 8)) = none →
      ∃ t g, exec (.bset f) s = .next t
        ∧ (t.band (s.turn.rank / 16)).glove.getD n none = some g ∧ g.pc = { sb := BitVec.ofNat 8 (byteField d 8 1), v := word (byteField d 0 8) }
        ∧ g.prio = byteField d 9 1 % 8 ∧ g.cwTid = byteField d 0xA 1 ∧ g.ccwTid = byteField d 0xB 1 ∧ g.accRule.toNat = byteField d 0xC 1
        ∧ g.domain.toNat = byteField d 0xE 2 ∧ g.argBase = word (byteField d 0x10 8) ∧ g.ejBase = word (byteField d 0x18 8)
        ∧ g.srseed = s.th.srseed ∧ g.tidbase = s.th.tidbase ∧ g.tidlim = s.th.tidlim ∧ g.evctl = s.th.evctl &&& 7 ∧ g.faulted = false
        ∧ (∀ k, k ≠ n → (t.band (s.turn.rank / 16)).glove.getD k none = (s.band (s.turn.rank / 16)).glove.getD k none)
        ∧ t.th.get f.x = held f.x .zero ∧ Keeps { regs := [f.x], outst := true, mon := true } s.th t.th ∧ t.th.pc = s.th.pc.add 4))
  ∧ (∀ (f : FmtX) (s : State) (n : Nat) (z : Band), z = s.band (s.turn.rank / 16) → n = (s.th.val f.y).toNat % 8 →
    (z.glove.getD n none = none → ∃ t, exec (.bclr f) s = .next t ∧ Completes { regs := [f.x], outst := true } s t
      ∧ t.th.get f.x = held f.x (.int (bsetStatus 6 0)))
    ∧ (∀ g, z.glove.getD n none = some g → g.faulted = true ∨ z.quiet = false ∨ Black s g (s.turn.rank / 16) → ∃ t, exec (.bclr f) s = .next t
      ∧ Keeps { regs := [f.x], outst := true } s.th t.th ∧ t.th.pc = s.th.pc.add 4 ∧ t.band (s.turn.rank / 16) = z ∧ Untouched s t
      ∧ ¬ Black t g (s.turn.rank / 16) ∧ t.th.get f.x = held f.x (.int (bsetStatus 5 0)))
    ∧ (∀ g, z.glove.getD n none = some g → g.faulted = false → z.quiet = true → ¬ Black s g (s.turn.rank / 16) →
      (∀ p, p < 16 → (s.core (s.turn.rank / 16 * 16 + p)).inj.getD n 0 =
        (s.core (s.turn.rank / 16 * 16 + p)).ret.getD n 0 + (s.core (s.turn.rank / 16 * 16 + p)).ej.getD n 0) →
      ∃ t, exec (.bclr f) s = .next t ∧ (t.band (s.turn.rank / 16)).glove.getD n none = none ∧ t.th.get f.x = held f.x .zero
        ∧ (∀ p, p < 16 → (t.core (s.turn.rank / 16 * 16 + p)).inj.getD n 0 = 0 ∧ (t.core (s.turn.rank / 16 * 16 + p)).ret.getD n 0 = 0
          ∧ (t.core (s.turn.rank / 16 * 16 + p)).ej.getD n 0 = 0 ∧ (t.core (s.turn.rank / 16 * 16 + p)).meqCount.getD n 0 = 0)
        ∧ (∀ k, k ≠ n → (t.band (s.turn.rank / 16)).glove.getD k none = z.glove.getD k none)
        ∧ Keeps { regs := [f.x], outst := true } s.th t.th ∧ t.th.pc = s.th.pc.add 4))
  ∧ (∀ (f : FmtX) (s : State), ∃ t, exec (.bmiss f) s = .next t ∧ Keeps { regs := [f.x], outst := true } s.th t.th ∧ Untouched s t
    ∧ t.th.pc = s.th.pc.add 4 ∧ Issued s t f.lk [.s f.x]
    ∧ (nbit f.fl.val 0 = true → t.th.get f.x = held f.x (.int (word s.me.missOvf)) ∧ t.me.missLog = [] ∧ t.me.missOvf = 0)
    ∧ (nbit f.fl.val 0 = false → s.me.missLog = [] → t.th.get f.x = held f.x (.int 0xFFFFFFFFFFFFFFFF) ∧ t.me.missLog = [])
    ∧ (∀ e l, nbit f.fl.val 0 = false → s.me.missLog = e :: l → t.th.get f.x = held f.x (.int e) ∧ t.me.missLog = l))
  ∧ (∀ (f : FmtX) (s : State) (n : Nat), n = (s.th.val f.y).toNat % 8 →
    (∀ k v, ((k, v) ∈ [(1, s.me.inj.getD n 0), (2, s.me.ret.getD n 0), (3, s.me.ej.getD n 0)] ∨ (k = 4 ∧ v = BitVec.ofNat 32 (s.me.meqCount.getD n 0)
        ∧ s.me.meqCount.getD n 0 < 2 ^ 32)) → f.z.val = k →
      ∃ t, exec (.bstat f) s = .next t ∧ Completes { regs := [f.x], outst := true } s t ∧ t.th.get f.x = held f.x (.int (word v.toNat)))
    ∧ (f.z.val = 0 → (s.band (s.turn.rank / 16)).glove.getD n none = none →
      ∃ t, exec (.bstat f) s = .next t ∧ Completes { regs := [f.x], outst := true } s t ∧ t.th.get f.x = held f.x (.int 0x200))
    ∧ (6 < f.z.val → MayTrap s → ∃ t, exec (.bstat f) s = .next t ∧ TrapEntry {} s t .illegal (word (encodeNat (.bstat f))) 0))
  ∧ (∀ (f : FmtX) (s : State) (n : Nat) (z : Band), z = s.band (s.turn.rank / 16) → n = (s.th.val f.y).toNat % 8 → Inv s →
    ((z.glove.getD n none = none ∨ s.me.meqCount.getD n 0 = 0) → ∃ t, exec (.pget f) s = .next t
      ∧ Completes { regs := [f.x], outst := true } s t ∧ t.th.get f.x = held f.x (.int 0xFFFFFFFFFFFFFFFF))
    ∧ (∀ g l d v, z.glove.getD n none = some g → 0 < s.me.meqCount.getD n 0 → n < 8 →
        g.entry (s.turn.rank % 16) (s.me.meqHead.getD n 0) = some l → l.region = .vault → l.home = s.turn.rank → (s.core l.home).vault.weakGranules = [] →
        Quiet s l 0x800 → Quiet s { l with off := l.off + 0x800 } 0x800 →
        (s.th.get f.z).sb = 0xF0 → s.turn.slot ≠ 4 → (s.th.get f.z).v.toNat % 64 = 0 → (s.th.get f.z).v.toNat + 0x1000 ≤ 0x340000 →
        d = scratchLoc s.turn.rank (s.th.get f.z).v.toNat → QuietRange s d 0x1000 → PlainRange s d 0x1000 →
        v = s.peek l 0x1000 → (byteField v 0x840 8 % 256 ≠ 0 ∨ crc32c 0x800 (byteField v 0 0x800) = byteField v 0x81C 4) →
      ∃ t, exec (.pget f) s = .next t ∧ Stored s t d 0x1000 v ∧ t.th.get f.x = held f.x (.int (word (byteField v 0x840 8)))
        ∧ t.me.meqCount.getD n 0 = s.me.meqCount.getD n 0 - 1 ∧ t.me.meqHead.getD n 0 = (s.me.meqHead.getD n 0 + 1) % 32
        ∧ Keeps { regs := [f.x], outst := true, mon := true } s.th t.th ∧ t.th.pc = s.th.pc.add 4))
  ∧ (∀ (f : FmtX) (s : State),
    ((s.th.task = none ∨ ∃ k, s.th.task = some k ∧ k.mitten = none) → ∃ t, exec (.prel f) s = .next t ∧ Completes { outst := true } s t)
    ∧ (∀ k n m, s.th.task = some k → k.mitten = some n → n < 4 → s.me.mitten.getD n none = some m → m.task = k.id → s.me.mops = [] →
      ∃ t, exec (.prel f) s = .next t ∧ t.me.mitten.getD n none = none ∧ t.th.task = some { k with mitten := none }
        ∧ (∀ a : Fin 8, bit (s.th.acc a).bind 19 = true → bit (t.th.acc a).bind 23 = false)
        ∧ (∀ a : Fin 8, bit (s.th.acc a).bind 19 = false → t.th.acc a = s.th.acc a) ∧ t.th.pc = s.th.pc.add 4)))

/-- R138, R142, R145-R149: a band step moves one family one position and counts laps; an injection enters a free slot, after
64 band cycles with a claim, and a pair that meets is accepted as a matched task; the messages of a band reach their
origins. -/
def Obligations.BandEvents : Prop :=
  (∀ (b : Nat) (s : State) (fam : Family) (z : Band), z = s.band b → z.glove = .replicate 8 none →
    fam = (if (z.cycle + 2) % 4 = 0 then .cw else .ccw) → (∀ p x, p < 16 → (z.ring fam).getD p none = some x → Plain p x) →
    ∃ t, exec (.bandStep b) s = .next t ∧ (t.band b).cycle = z.cycle + 2 ∧ Untouched s t
      ∧ (∀ p, p < 16 → ((t.band b).ring fam).getD ((p + (if fam = .cw then 1 else 15)) % 16) none =
          ((z.ring fam).getD p none).map (arrived ((p + (if fam = .cw then 1 else 15)) % 16)))
      ∧ (fam = .cw → (t.band b).ccw = z.ccw) ∧ (fam = .ccw → (t.band b).cw = z.cw) ∧ (∀ r, t.core r = s.core r))
  ∧ (∀ (r : Nat) (s : State) (z : Band) (x : Injection), z = s.band (r / 16) → z.pend = [x] → x.pos = r % 16 → x.tile.bcast = false →
    x.since ≤ z.cycle → x.tile.set < 8 → z.cycle % 4 = (if x.tile.fam = .cw then 0 else 2) → r % 16 ∈ z.free → (z.ring x.tile.fam).getD (r % 16) none = none →
    (z.glove.getD x.tile.set none = none → ∃ t, exec (.bandInjection r x.tile.fam) s = .next t
      ∧ ((t.band (r / 16)).ring x.tile.fam).getD (r % 16) none = some x.tile ∧ (t.band (r / 16)).pend = []
      ∧ (t.core r).inj.getD x.tile.set 0 = (s.core r).inj.getD x.tile.set 0 + 1 ∧ Untouched s t)
    ∧ (∀ g y, x.tile.fam = .cw → z.glove.getD x.tile.set none = some g → g.faulted = false → z.ccw.getD (r % 16) none = some y →
        y.bcast = false → y.set = x.tile.set → x.tile.pmask.getLsbD y.idx = true → y.pmask.getLsbD x.tile.idx = true →
        x.tile.intact = true → y.intact = true → (s.core r).mitten.getD 0 none = none → (s.core r).ready = [] → Inv s →
      ∃ t c, exec (.bandInjection r .cw) s = .next t ∧ c ∈ (t.core r).ready ∧ c.matched = true ∧ c.pc = g.pc ∧ c.prio = g.prio
        ∧ c.s5 = word x.tile.idx ∧ c.s6 = word y.idx ∧ c.s7 = g.argBase ∧ c.arg = word x.tile.set ∧ c.weight = 0 ∧ c.mitten = some 0
        ∧ ((t.band (r / 16)).cw.getD (r % 16) none) = some (Tile.recoded { x.tile with pmask := clearBit x.tile.pmask y.idx })
        ∧ ((t.band (r / 16)).ccw.getD (r % 16) none) = some (Tile.recoded { y with pmask := clearBit y.pmask x.tile.idx })
        ∧ t.peek (scratchLoc r 0x2FE000) 0x800 = y.payload % 256 ^ 0x800 ∧ t.peek (scratchLoc r 0x33E000) 0x800 = x.tile.payload % 256 ^ 0x800))
  ∧ (∀ (r : Nat) (s : State) (x : Injection), (s.band (r / 16)).pend = [x] → x.pos = r % 16 → x.claim = false →
    x.since + 64 ≤ (s.band (r / 16)).cycle → ∃ t, exec (.injectionClaim r x.tile.fam) s = .next t
      ∧ (t.band (r / 16)).pend = [{ x with claim := true }] ∧ (∀ q, t.core q = s.core q) ∧ Untouched s t)
  ∧ (∀ (b o n : Nat) (d : Word) (l : List (Nat × Nat × Word)) (s : State) (z : Band), s.bands = [(b, z)] → z.retire = (o, n, d) :: l → n < 8 →
    ∃ t, exec .retireNotice s = .next t ∧ (t.band b).retire = l
      ∧ (t.core (b * 16 + o)).ret.getD n 0 = (s.core (b * 16 + o)).ret.getD n 0 + 1 ∧ Untouched s t)
  ∧ (∀ (b : Nat) (e : Ejection) (s : State) (z : Band), s.bands = [(b, z)] → z.eject = [e] → e.waiting = false → z.writing = [] →
    (s.core (b * 16 + e.tile.orig)).meqCount.getD e.tile.set 0 < 32 →
    ∃ t, exec .ejectionMessage s = .next t ∧ (t.band b).eject = [] ∧ (t.band b).writing = [e] ∧ Untouched s t)
  ∧ (∀ (b : Nat) (e : Ejection) (s : State) (z : Band) (g : PairSet) (l : Loc), s.bands = [(b, z)] → z.writing = [e] →
    z.glove.getD e.tile.set none = some g → e.tile.set < 8 → Inv s →
    g.entry e.tile.orig (((s.core (b * 16 + e.tile.orig)).meqHead.getD e.tile.set 0
      + (s.core (b * 16 + e.tile.orig)).meqCount.getD e.tile.set 0) % 32) = some l → l.off % 0x1000 = 0 → s.meets false l = .nothing →
    (∀ p ∈ s.cores, p.2.redbuf = []) →
    ∃ t, exec .ejectionWriteComplete s = .next t ∧ (t.band b).writing = [] ∧ t.peek l 0x800 = e.tile.payload % 256 ^ 0x800
      ∧ (t.core (b * 16 + e.tile.orig)).ej.getD e.tile.set 0 = (s.core (b * 16 + e.tile.orig)).ej.getD e.tile.set 0 + 1
      ∧ (t.core (b * 16 + e.tile.orig)).meqCount.getD e.tile.set 0 = (s.core (b * 16 + e.tile.orig)).meqCount.getD e.tile.set 0 + 1)

/-! ### Tile transfers, rows and discards (R87, R92, R97, R252-R257, R342) -/

namespace Sys2Proof.Claims

/-- The pages of the own vault that a transfer of `n` tiles from an address covers: tile k is Placed at offs[k]. -/
def TilesAt (s : State) (ga : Ptr) (acc : Access) (n : Nat) (offs : List Nat) : Prop :=
  offs.length = n ∧ ∀ k, k < n → Placed s { ga with v := ga.v + word (k * 0x800) } 0x800 acc (vaultLoc s.turn.rank (offs.getD k 0))

/-- A token register as an instruction that writes its marker leaves it: pending, with no error (R24). -/
def Marked (a b : Thread) (r : Reg) : Prop :=
  ∀ k : Reg, bit b.pend k.val = (bit a.pend k.val || decide (k = r ∧ r ≠ 0))

/-- What is left of a thread that issues with a token: its pending bits and token errors change. -/
def KeepsTok (p : Footprint) (r : Reg) (a b : Thread) : Prop :=
  Keeps p a { b with pend := a.pend, tokErr := a.tokErr, tokUnc := a.tokUnc, resumeTiles := a.resumeTiles }
    ∧ ∀ k : Reg, k ≠ r → bit b.tokErr k.val = bit a.tokErr k.val ∧ bit b.tokUnc k.val = bit a.tokUnc k.val

/-- The status word of a transfer or discard: cause, and tiles or pages done (R92, R257). -/
def doneStatus (cause n : Nat) : Word := word (cause + n * 2 ^ 8)

/-- No page move has taken a place away (R344). -/
def Settled (s : State) (rank : Nat) (l : Loc) : Prop := s.migrating l = false ∧ s.livePlace ((s.partOf rank).getD 0) l = l

/-- A status on its way to a token register of a thread's task. -/
def StatusSent (t : State) (rank : Nat) (slot : Fin 5) (r : Reg) (v : Word) : Prop :=
  ∃ x ∈ t.statuses, x.rank = rank ∧ x.slot = slot ∧ x.reg = r ∧ x.value = v

end Sys2Proof.Claims

/-- R92, R97, R254: `tld` reserves slots at the tail of its queue, `tst` takes tiles from its head; both mark their token
pending and start a transfer of cnt + 1 tiles of the own vault, held outstanding under EVCTL; another home raises NONLOCAL.
R87, R254, R256, R257, R342: the last tile of a load enters its queue and the status with cause 0 is sent; `ract` and `rpre`
open and close a row; `discard` holds its pages and sends them home, where each reads as zero. -/
def Obligations.TileTransfers : Prop :=
  (∀ e ∈ ([(.tld, false), (.tst, true)] : List ((FmtT → Instr) × Bool)), ∀ (f : FmtT) (s : State) (q : OpQueue) (offs : List Nat),
    f.q.val < 8 → s.th.resumeTiles = 0 → q = s.me.queue f.q.val →
    (q.cfg = true → f.cnt.val + 1 ≤ q.cap → (s.th.get f.a).v.toNat % 0x800 = 0 → s.turn.slot ≠ 4 →
      TilesAt s (s.th.get f.a) (if e.2 then .tileWrite else .tileRead) (f.cnt.val + 1) offs →
      (e.2 = false → q.count + q.resv.length + f.cnt.val + 1 ≤ q.cap) →
      ∃ t x, exec (e.1 f) s = .next t ∧ t.me.xfers = s.me.xfers ++ [x] ∧ x.store = e.2 ∧ x.queue = f.q.val ∧ x.offs = offs
        ∧ x.n = f.cnt.val + 1 ∧ x.done = 0 ∧ x.tok = f.t ∧ x.slot = s.turn.slot ∧ x.held = (bit s.th.evctl 0 || bit s.th.evctl 1)
        ∧ x.seq = (if e.2 then q.head + q.pops.length else q.head + q.count + q.resv.length)
        ∧ (e.2 = false → (t.me.queue f.q.val).resv = q.resv ++ List.replicate (f.cnt.val + 1) false)
        ∧ (e.2 = true → (t.me.queue f.q.val).pops = q.pops ++ List.replicate (f.cnt.val + 1) (x.id, false))
        ∧ Marked s.th t.th f.t ∧ KeepsTok { outst := true } f.t s.th t.th ∧ t.th.pc = s.th.pc.add 4 ∧ Untouched s t
        ∧ ∃ o, t.th.outst = s.th.outst ++ [o] ∧ o.dest = [.q f.q.val] ∧ o.wait = (if x.held then .tiles x.id else .ready) ∧ o.trap = none)
    ∧ (MayTrap s → q.cfg = false → ∃ t, exec (e.1 f) s = .next t ∧ TrapEntry {} s t .aperture (word f.q.val) 0)
    ∧ (MayTrap s → q.cfg = true → q.cap < f.cnt.val + 1 → ∃ t, exec (e.1 f) s = .next t ∧ TrapEntry {} s t .aperture (word (f.cnt.val + 1)) 4)
    ∧ (MayTrap s → q.cfg = true → f.cnt.val + 1 ≤ q.cap → (s.th.get f.a).sb = 0xF0 → (s.th.get f.a).v.toNat % 0x800 = 0 →
      (s.th.get f.a).v.toNat + 0x800 ≤ 0x340000 →
      ∃ t, exec (e.1 f) s = .next t ∧ TrapEntry {} s t .nonLocal (s.th.get f.a).v 4))
  ∧ ((∀ (r off : Nat) (s : State) (x : TileXfer) (q : OpQueue), (s.core r).xfers = [x] → x.store = false → x.offs = [off] → x.n = x.done + 1 →
    x.queue < 8 → q = (s.core r).queue x.queue → q.cfg = true → q.resv = [false] → x.seq = q.head + q.count → 0 < q.cap → 0x300000 ≤ q.base →
    q.base + q.cap * 0x800 ≤ 0x340000 → Inv s → Settled s r (vaultLoc r off) →
    s.meets false (vaultLoc r off) = .nothing → s.unreadable (vaultLoc r off) 0x800 = false → (s.core r).vault.badCheck = [] →
    bit (s.thAt { rank := r, slot := x.slot }).errinj 31 = false → (∀ p ∈ s.cores, p.2.redbuf = []) →
    ∃ t, exec (.tileTransferTile r) s = .next t ∧ (t.core r).xfers = [] ∧ ((t.core r).queue x.queue).count = q.count + 1
      ∧ Stored s t (scratchLoc r (q.base + x.seq % q.cap * 0x800)) 0x800 (s.peek (vaultLoc r off) 0x800)
      ∧ StatusSent t r x.slot x.tok (doneStatus 0 x.n) ∧ rowOf off ∈ (t.core r).vault.openRows)
  ∧ (∀ (f : FmtT) (s : State) (l : Loc), f.q.val < 8 → Placed s (s.th.get f.a) 1 .tileRead l → l.region = .vault → l.home = s.turn.rank →
    (s.migrating l = false → s.meets false l = .nothing → ∃ t, exec (.ract f) s = .next t ∧ rowOf l.off ∈ t.me.vault.openRows
      ∧ (∀ k, k ∈ t.me.vault.openRows → k = rowOf l.off ∨ k ∈ s.me.vault.openRows) ∧ Untouched s t
      ∧ Keeps { outst := true } s.th t.th ∧ t.th.pc = s.th.pc.add 4)
    ∧ (∃ t, exec (.rpre f) s = .next t ∧ rowOf l.off ∉ t.me.vault.openRows
      ∧ (∀ k, k ≠ rowOf l.off → (k ∈ t.me.vault.openRows ↔ k ∈ s.me.vault.openRows)) ∧ Untouched s t
      ∧ Keeps { outst := true } s.th t.th ∧ t.th.pc = s.th.pc.add 4))
  ∧ (∀ (f : FmtT) (s : State), f.q.val < 8 →
    (∀ ls : Nat → Loc, (s.th.get f.a).sb.toNat < 0xF0 → (s.th.get f.a).v.toNat % 0x10000 = 0 →
      (∀ k, k ≤ f.cnt.val → Placed s { (s.th.get f.a) with v := (s.th.get f.a).v + word (k * 0x10000) } 0x10000 .discard (ls k)) →
      ∃ t pages st, exec (.discard f) s = .next t ∧ t.msgs = s.msgs ++ [.discard 0 pages st]
        ∧ pages.map (·.1) = (List.range (f.cnt.val + 1)).map ls ∧ st.reg = f.t ∧ st.rank = s.turn.rank ∧ st.slot = s.turn.slot
        ∧ Marked s.th t.th f.t ∧ KeepsTok { outst := true } f.t s.th t.th ∧ t.th.pc = s.th.pc.add 4 ∧ Untouched s t)
    ∧ (MayTrap s → 0xF0 ≤ (s.th.get f.a).sb.toNat →
      ∃ t, exec (.discard f) s = .next t ∧ TrapEntry {} s t .aperture (s.th.get f.a).v 4))
  ∧ (∀ (s : State) (n h o : Nat) (l : Loc) (st : Status), Inv s → s.msgs = [.discard n [(l, h, o)] st] → s.pageFree l = true →
    Settled s st.rank l → s.discardRuns l h o = true → l.region = .vault → (∀ p ∈ s.cores, p.2.redbuf = []) → ckptDom st.dom = false → o + 8 ≤ 0x40000000 → l.off < 0x40000000 →
    (vaultLoc h o).key + 8 ≤ { l with off := l.off / 0x10000 * 0x10000 }.key
      ∨ { l with off := l.off / 0x10000 * 0x10000 }.key + 0x10000 ≤ (vaultLoc h o).key →
    ∃ t, exec .discardAtHome s = .next t ∧ t.msgs = [] ∧ t.statuses = s.statuses ++ [{ st with value := doneStatus 0 (n + 1) }]
      ∧ (∀ k, k < 0x10000 → t.byteAt { l with off := l.off / 0x10000 * 0x10000 + k } = 0)
      ∧ bit (word (t.peek (vaultLoc h o) 8)) 59 = true ∧ bit (word (t.peek (vaultLoc h o) 8)) 58 = false
      ∧ (∃ z ∈ (t.core l.home).vault.zero, z.1 = l.off / 0x10000)))

/-! ### Remote procedure calls (R43, R258-R261, R275, R371, R372) -/

namespace Sys2Proof.Claims

/-- No thread has changed but for a monitor that is met, with what its wait has seen, and an agent that wakes. -/
def Calm (s t : State) : Prop :=
  ∀ w, ∃ h k m, t.thAt w = { s.thAt w with monHit := h, wfi := k, monWait := m } ∧ m.map unseen = (s.thAt w).monWait.map unseen

/-- Both runs of bytes hold their values, and every other byte reads as before. -/
def Stored2 (s t : State) (l : Loc) (n v : Nat) (l' : Loc) (n' v' : Nat) : Prop :=
  t.peek l n = v % 256 ^ n ∧ t.peek l' n' = v' % 256 ^ n'
    ∧ ∀ k : Loc, (k.key < l.key ∨ l.key + n ≤ k.key) → (k.key < l'.key ∨ l'.key + n' ≤ k.key) → t.byteAt k = s.byteAt k

/-- Nothing keeps the agent of a core from serving its next request, which is for handler `h`: no other request or page move is
under way, no implicit RPC waits there (R43), the translation stands, the caller may reach the home, and the target meets nothing. -/
structure Serves (s : State) (r h : Nat) (rq : Rpc) : Prop where
  next : (s.agent r).nextRequest = some rq
  handler : rq.h = h
  idle : (s.agent r).current = none ∧ (s.agent r).moving = none ∧ (s.agent r).callers = []
  fresh : rq.stale = false
  here : s.redirected rq.part rq.loc = none
  within : s.foreign r rq = false
  met : s.meets false rq.loc = .nothing
  home : rq.loc.home = r ∧ r < 65536 ∧ rq.loc.region ≠ .control
  direct : rq.engine = none
  reds : ∀ p ∈ s.cores, p.2.redbuf = []

/-- A request has left its agent and its status is on the way to its token register (R260). -/
def Answered (s t : State) (r : Nat) (rq : Rpc) (cause hcode rbytes hval : Nat) : Prop :=
  (t.agent r).requests = (s.agent r).requests.erase rq
    ∧ ∃ x, t.statuses = s.statuses ++ [x] ∧ x.rank = rq.rank ∧ x.slot = rq.slot ∧ x.reg = rq.reg ∧ x.task = rq.task
      ∧ x.value = word (cause + hcode * 2 ^ 8 + rbytes * 2 ^ 16 + hval * 2 ^ 32) ∧ x.lost = false ∧ x.credit = true

/-- The target bytes of a request can be read: no lost granule, and no free entry of the pair buffer. -/
structure Legible (s : State) (rq : Rpc) (n : Nat) : Prop where
  readable : s.unreadable rq.loc n = false
  steady : s.look rq.loc n = s.peek rq.loc n

/-- They can be read and written: no fixed position, no table of an agent, no journal, no zero map. -/
structure Sound (s : State) (rq : Rpc) (n : Nat) : Prop extends Legible s rq n where
  free : s.fixedLoc rq.loc = false
  table : rq.loc.region ≠ .agentData
  plain : ckptDom rq.domain = false
  mapped : rq.loc.region = .vault → (s.core rq.loc.home).vault.zero.find? (fun z => decide (z.1 = rq.loc.off / 0x10000)) = none

/-- The result buffer of a request. -/
def buffer (rq : Rpc) : Loc := scratchLoc rq.rank rq.rbuf

/-- A handler that stores `v` in `n` target bytes and returns `data` in `rbytes` bytes of the buffer (R260). -/
def ServedAs (c : Nat → Instr) (r : Nat) (s : State) (rq : Rpc) (n v hcode rbytes data : Nat) : Prop :=
  ∃ t, exec (c r) s = .next t ∧ Answered s t r rq 0 hcode rbytes 0 ∧ Stored2 s t rq.loc n v (buffer rq) rbytes data ∧ Calm s t

/-- A request whose bytes lie in one row, at a multiple of `align`, apart from its buffer. -/
def Ranged (s : State) (rq : Rpc) (n align rbytes : Nat) : Prop :=
  rq.loc.off % 0x800 + n ≤ 0x800 ∧ rq.loc.off % align = 0 ∧ s.fixedBuffer rq.rank rq.rbuf rbytes = false
    ∧ ((buffer rq).key + rbytes ≤ rq.loc.key ∨ rq.loc.key + n ≤ (buffer rq).key)

/-- Elementwise sums in RNE (R68, R74, R261). -/
def sumsOf (F : Fmt) (w n a b : Nat) : List (Nat × Flags) :=
  (List.range n).map (fun i => rounded F 0 (Machine.Num.add false (F.value (a / 2 ^ (w * i) % 2 ^ w)) (F.value (b / 2 ^ (w * i) % 2 ^ w))))

/-- The sums side by side, and HCODE: 1 where NV was raised. -/
def sumBytes (w : Nat) (l : List (Nat × Flags)) : Nat := ((List.range l.length).map (fun i => (l.getD i (0, 0)).1 * 2 ^ (w * i))).sum

def sumCode (l : List (Nat × Flags)) : Nat := if l.any (fun x => nbit x.2 4) then 1 else 0

/-- A call block that passes R259's checks, with its arguments, its row for handlers 4 and 5, and the place of its target. -/
structure CallBlock (s : State) (ga : Ptr) (b args row : Nat) (l : Loc) : Prop where
  block : ScratchBytes s ga 64 b
  sizes : byteField b 2 2 ≤ 256 ∧ byteField b 2 2 % 8 = 0 ∧ byteField b 4 2 ≤ 256
  result : byteField b 0x18 8 % 64 = 0
    ∧ byteField b 0x18 8 + (if byteField b 0 1 ∈ [3, 4, 5] then 0x800 else byteField b 4 2) ≤ 0x340000
  inside : ga.v.toNat + 64 + byteField b 2 2 ≤ 0x340000
  args : if byteField b 2 2 = 0 then args = 0
    else Quiet s (scratchLoc s.turn.rank (ga.v.toNat + 64)) (byteField b 2 2)
      ∧ args = s.peek (scratchLoc s.turn.rank (ga.v.toNat + 64)) (byteField b 2 2)
  row : if byteField b 0 1 ∈ [4, 5] then Quiet s (scratchLoc s.turn.rank (byteField b 0x18 8)) 0x800
      ∧ row = s.peek (scratchLoc s.turn.rank (byteField b 0x18 8)) 0x800 else row = 0
  target : Placed s (Ptr.ofBytes (byteField b 8 16)) 1 .rpc l
  ready : s.me.credits < 64 ∧ s.trafficHeld s.turn.rank s.domain = false ∧ s.migrating l = false
    ∧ s.redirected ((s.partOf s.turn.rank).getD 0) l = none ∧ s.me.redbuf = [] ∧ s.turn.slot ≠ 4

/-- The request of a call block, as it stands at its agent. -/
structure CallMade (s : State) (b args row : Nat) (l : Loc) (tok : Reg) (rq : Rpc) : Prop where
  head : rq.h = byteField b 0 1 ∧ rq.alen = byteField b 2 2 ∧ rq.rlen = byteField b 4 2 ∧ rq.rbuf = byteField b 0x18 8
  operands : rq.op0 = word (byteField b 0x20 8) ∧ rq.op1 = word (byteField b 0x28 8) ∧ rq.args = args ∧ rq.row = row
  target : rq.tgt = Ptr.ofBytes (byteField b 8 16) ∧ rq.loc = l
  caller : rq.rank = s.turn.rank ∧ rq.slot = s.turn.slot ∧ rq.reg = tok ∧ rq.task = s.th.taskId ∧ rq.seq = s.me.rpcSeq ∧ rq.engine = none

end Sys2Proof.Claims

/-- R258, R259: `rcall` sends the request of its call block to the target's home and marks its token pending; `rcallp` does
too, and its task parks on the token; a call block outside space 0xF0, a bad field and a misaligned block send nothing and
trap. R260, R261, R275: the built-in handlers 0 to 6, 11 and 12 perform their access at the home and answer with status 0; a
target that is not aligned answers MISALIGN, a bad size ILLEGAL, and neither changes a byte. -/
def Obligations.RpcCallsServed : Prop :=
  (∀ (f : FmtRpc) (s : State),
    (∀ b args row l, CallBlock s (s.th.get f.a) b args row l →
      (∃ t rq, exec (.rcall f) s = .next t ∧ CallMade s b args row l f.t rq ∧ (t.agent l.home).requests = (s.agent l.home).requests ++ [rq]
        ∧ t.me.credits = s.me.credits + 1 ∧ Marked s.th t.th f.t ∧ KeepsTok { outst := true } f.t s.th t.th ∧ t.th.pc = s.th.pc.add 4
        ∧ Issued s t f.lk [] ∧ Untouched s t)
      ∧ (∀ k, s.th.task = some k → f.t ≠ 0 → s.th.outst = [] → s.holdsState s.turn = false → byteField b 0x38 4 = 0 →
        ∃ t rq x, exec (.rcallp f) s = .next t ∧ CallMade s b args row l f.t rq
          ∧ (t.agent l.home).requests = (s.agent l.home).requests ++ [rq] ∧ t.me.credits = s.me.credits + 1
          ∧ t.me.parked = s.me.parked ++ [x] ∧ x.id = k.id ∧ x.wait = .token f.t ∧ x.pc = s.th.pc.add 4 ∧ x.live.toNat = 2 ^ f.t.val
          ∧ (x.mig = true ↔ byteField b 1 1 % 2 = 1 ∧ k.mitten = none) ∧ bit x.pend f.t.val = true
          ∧ t.th.occ = .empty ∧ t.th.task = none ∧ Untouched s t))
    ∧ (MayTrap s → ∀ c ∈ ([.rcall f, .rcallp f] : List Instr),
      ((s.th.get f.a).sb ≠ 0xF0 → ∃ t, exec c s = .next t ∧ TrapEntry {} s t .illegal (s.th.get f.a).v 5)
      ∧ ((s.th.get f.a).sb = 0xF0 → (s.th.get f.a).v.toNat + 64 ≤ 0x340000 → (s.th.get f.a).v.toNat % 64 ≠ 0 →
        ∃ t, exec c s = .next t ∧ TrapEntry {} s t .misalign (s.th.get f.a).v 5)
      ∧ (∀ b, ScratchBytes s (s.th.get f.a) 64 b → (256 < byteField b 2 2 ∨ byteField b 2 2 % 8 ≠ 0 ∨ 256 < byteField b 4 2
          ∨ byteField b 0x18 8 % 64 ≠ 0) →
        ∃ t, exec c s = .next t ∧ TrapEntry {} s t .illegal (s.th.get f.a).v 5)))
  ∧ (∀ (r : Nat) (s : State) (rq : Rpc), Inv s →
    (Serves s r 0 rq → Legible s rq rq.rlen → (rq.rlen ∈ [1, 2, 4] ∨ (0 < rq.rlen ∧ rq.rlen % 8 = 0 ∧ rq.rlen ≤ 256)) →
      Ranged s rq rq.rlen (min rq.rlen 8) rq.rlen → ServedAs .handlerRead r s rq 0 0 0 rq.rlen (s.peek rq.loc rq.rlen))
    ∧ (Serves s r 1 rq → Sound s rq rq.alen → (rq.alen ∈ [1, 2, 4] ∨ (0 < rq.alen ∧ rq.alen % 8 = 0 ∧ rq.alen ≤ 256)) →
      Ranged s rq rq.alen (min rq.alen 8) 0 → ServedAs .handlerWrite r s rq rq.alen rq.args 0 0 0)
    ∧ (∀ n old i e v, Serves s r 2 rq → Sound s rq n → n = (if bit rq.op0 4 then 8 else 4) → Ranged s rq n n 8 → 8 ≤ rq.rlen →
      old = s.peek rq.loc n → amoTable[i]? = some e → field rq.op0 0 4 = i → (i = 9 → n = 8 → rq.alen = 8) →
      v = e.2 n old (rq.op1.toNat % 256 ^ n) (if n = 8 then rq.args % 2 ^ 64 else field rq.op0 32 32) →
      ∃ f : FmtAm, ServedAs .handlerElementAtomic r s rq n (v.1.getD old) (if v.2 then 1 else 0) 8
        (if amoFloat (e.1 f) then word old else BitVec.ofInt 64 (signed n old)).toNat)
    ∧ (Serves s r 3 rq → Legible s rq 0x800 → Ranged s rq 0x800 0x800 0x800 → (s.core r).vault.badCheck = [] →
      ServedAs .handlerTileRead r s rq 0 0 0 0x800 (s.peek rq.loc 0x800))
    ∧ (Serves s r 4 rq → Sound s rq 0x800 → Ranged s rq 0x800 0x800 0 → ServedAs .handlerTileWrite r s rq 0x800 rq.row 0 0 0)
    ∧ (∀ l, Serves s r 5 rq → Sound s rq 0x800 → Ranged s rq 0x800 0x800 0 →
      l = (if bit rq.op0 0 then sumsOf bf16 16 1024 (s.peek rq.loc 0x800) rq.row else sumsOf f32 32 512 (s.peek rq.loc 0x800) rq.row) →
      ServedAs .handlerTileAdd r s rq 0x800 (sumBytes (if bit rq.op0 0 then 16 else 32) l) (sumCode l) 0 0)
    ∧ (∀ l, Serves s r 6 rq → Sound s rq rq.alen → 0 < rq.alen → rq.alen % 8 = 0 → rq.alen ≤ rq.rlen → Ranged s rq rq.alen 4 rq.alen →
      l = sumsOf f32 32 (rq.alen / 4) (s.peek rq.loc rq.alen) rq.args →
      ServedAs .handlerVectorAdd r s rq rq.alen (sumBytes 32 l) (sumCode l) rq.alen (s.peek rq.loc rq.alen))
    ∧ (Serves s r 11 rq → ∃ t, exec (.handlerRemoteMonitorArm r) s = .next t ∧ Answered s t r rq 0 0 0 0 ∧ Untouched s t ∧ Calm s t
      ∧ (rq.loc.granule, { rank := rq.rank, slot := rq.slot }) ∈ (t.agent r).watches)
    ∧ (Serves s r 12 rq → ∃ t, exec (.handlerReductionRecall r) s = .next t ∧ Answered s t r rq 0 0 0 0 ∧ Untouched s t ∧ Calm s t)
    ∧ (∀ e ∈ ([(3, .handlerTileRead), (4, .handlerTileWrite), (5, .handlerTileAdd)] : List (Nat × (Nat → Instr))),
      Serves s r e.1 rq → rq.loc.off % 0x800 ≠ 0 →
      ∃ t, exec (e.2 r) s = .next t ∧ Answered s t r rq 0x04 0 0 0 ∧ Untouched s t ∧ Calm s t)
    ∧ (Serves s r 0 rq → rq.rlen = 0 → ∃ t, exec (.handlerRead r) s = .next t ∧ Answered s t r rq 0x01 0 0 0 ∧ Untouched s t ∧ Calm s t)
    ∧ (Serves s r 1 rq → rq.alen = 0 → ∃ t, exec (.handlerWrite r) s = .next t ∧ Answered s t r rq 0x01 0 0 0 ∧ Untouched s t ∧ Calm s t))

namespace Sys2Proof.Claims

/-- The bytes of the frame of a hand-off queue at a target: HEAD, TAIL, COUNT, pushes, pops (R371). -/
def frameByte (s : State) (l : Loc) (o n : Nat) : Nat := s.peek (l.plus o) n

/-- A request on a granted hand-off frame that is written plainly: the register of its queue is enabled for this home, with
bit `p` of the field from `lo` set (R370-R372). -/
structure HandOff (s : State) (r : Nat) (rq : Rpc) (lo : Nat) : Prop where
  target : rq.loc.region = .vault ∧ 0x3E000000 ≤ rq.loc.off ∧ rq.loc.off < 0x3F000000 ∧ rq.loc.off % 0x10000 = 0
  enabled : ∃ h, lookup s.hqg (rq.loc.off / 0x10000 - 0x3E00) = some h ∧ bit h 0 = true ∧ field h 48 16 = r
    ∧ (field h lo 16).testBit rq.part = true
  mapped : (s.core r).vault.zero.find? (fun z => decide (z.1 = rq.loc.off / 0x10000)) = none
  ends : frameByte s rq.loc 0 1 < 240 ∧ frameByte s rq.loc 1 1 < 240

end Sys2Proof.Claims

/-- R260, R287, R344, R371, R372: a push appends its arguments to a hand-off queue and a pop takes its oldest message; an
empty and a full queue answer HCODE 1; a loaded handler starts at its table entry with its request in the data store; a
request returned from a full hold queue is sent again after 256 cc. -/
def Obligations.HandOffsAndLoaded : Prop :=
  ∀ (r : Nat) (s : State) (rq : Rpc), Inv s →
    (Serves s r 7 rq → HandOff s r rq 32 → 0 < rq.alen → rq.alen ≤ 256 →
      (frameByte s rq.loc 2 1 < 240 → ∃ t, exec (.handlerHandOffPush r) s = .next t ∧ Answered s t r rq 0 0 0 0 ∧ Calm s t
        ∧ t.peek (rq.loc.plus (0x1000 + 256 * frameByte s rq.loc 1 1)) rq.alen = rq.args % 256 ^ rq.alen
        ∧ t.peek (rq.loc.plus (0x100 + frameByte s rq.loc 1 1)) 1 = rq.alen / 8
        ∧ frameByte t rq.loc 1 1 = (frameByte s rq.loc 1 1 + 1) % 240 ∧ frameByte t rq.loc 2 1 = frameByte s rq.loc 2 1 + 1
        ∧ frameByte t rq.loc 8 8 = (frameByte s rq.loc 8 8 + 1) % 2 ^ 64 ∧ frameByte t rq.loc 0 1 = frameByte s rq.loc 0 1
        ∧ (∀ k : Loc, k.key < rq.loc.key ∨ rq.loc.key + 0x10000 ≤ k.key → t.byteAt k = s.byteAt k))
      ∧ (240 ≤ frameByte s rq.loc 2 1 → ∃ t, exec (.handlerHandOffPush r) s = .next t ∧ Answered s t r rq 0 1 0 0 ∧ Untouched s t ∧ Calm s t))
    ∧ (Serves s r 8 rq → HandOff s r rq 16 →
      (∀ n, 0 < frameByte s rq.loc 2 1 → n = min (8 * frameByte s rq.loc (0x100 + frameByte s rq.loc 0 1) 1) rq.rlen → n < 2 ^ 16 →
        s.fixedBuffer rq.rank rq.rbuf n = false →
        ∃ t, exec (.handlerHandOffPop r) s = .next t ∧ Answered s t r rq 0 0 n 0 ∧ Calm s t
          ∧ t.peek (buffer rq) n = s.peek (rq.loc.plus (0x1000 + 256 * frameByte s rq.loc 0 1)) n
          ∧ frameByte t rq.loc 0 1 = (frameByte s rq.loc 0 1 + 1) % 240 ∧ frameByte t rq.loc 2 1 = frameByte s rq.loc 2 1 - 1
          ∧ frameByte t rq.loc 0x10 8 = (frameByte s rq.loc 0x10 8 + 1) % 2 ^ 64 ∧ frameByte t rq.loc 1 1 = frameByte s rq.loc 1 1)
      ∧ (frameByte s rq.loc 2 1 = 0 → ∃ t, exec (.handlerHandOffPop r) s = .next t ∧ Answered s t r rq 0 1 0 0 ∧ Untouched s t ∧ Calm s t))
    ∧ (∀ e, 32 ≤ rq.h → Serves s r rq.h rq → e = s.peek { region := .agentData, home := r, off := 0xF800 + 8 * rq.h } 8 →
      (e ≠ 2 ^ 64 - 1 → ∃ t, exec (.loadedHandler r) s = .next t ∧ (t.agent r).current = some rq
        ∧ (t.agent r).requests = (s.agent r).requests.erase rq
        ∧ (t.thAt { rank := r, slot := 4 }).pc = { sb := 0xF0, v := word e } ∧ (t.thAt { rank := r, slot := 4 }).occ = .occupied
        ∧ (t.thAt { rank := r, slot := 4 }).regs = (s.thAt { rank := r, slot := 4 }).regs
        ∧ Stored2 s t { region := .agentData, home := r, off := 0 } 64 rq.header { region := .agentData, home := r, off := 0x40 } 256 rq.args)
      ∧ (e = 2 ^ 64 - 1 → ∃ t, exec (.loadedHandler r) s = .next t ∧ Answered s t r rq 0x0F 0 0 0 ∧ Untouched s t ∧ Calm s t))
    ∧ (∀ c l, (s.agent r).resend = (c, rq) :: l → c + 256 ≤ s.cycle.toNat → s.migrating rq.loc = false →
      s.redirected rq.part rq.loc = none → ∃ t, exec (.heldRequestResend r) s = .next t ∧ (t.agent r).resend = l
        ∧ (t.agent rq.loc.home).requests = (s.agent rq.loc.home).requests ++ [rq] ∧ Untouched s t ∧ Calm s t)

/-! ### Copy engines (R161, R262-R267) -/

namespace Sys2Proof.Claims

/-- The engine that a word names for the core of the issuing thread: its own number, or by 127 the one of R262. -/
def EngineNamed (s : State) (n : Fin 128) (e : Nat) : Prop :=
  (n.val < 96 ∧ e = n.val ∧ s.ownsEngine s.turn.rank e = true) ∨ (n.val = 127 ∧ s.anyEngine s.turn.rank = some e)

/-- A command word that is accepted: code 1 to 8, a reduction it knows, and the privilege of code 7 (R161, R264). -/
def Accepted (s : State) (w : BitVec 256) : Prop :=
  1 ≤ field w 248 8 ∧ field w 248 8 ≤ 8 ∧ (field w 248 8 = 6 → field w 220 4 ≤ 2 ∧ field w 216 4 ∈ [0, 1, 2, 3, 9, 10])
    ∧ (field w 248 8 = 7 → s.supervisor = true)

/-- A command as `ecmd` makes it from its word: the core and the token stand in the word (R161, R263). -/
structure CmdMade (s : State) (w : BitVec 256) (tok : Reg) (c : Cmd) : Prop where
  word : ∀ i, i < 195 ∨ 216 ≤ i → bit c.word i = bit w i
  caller : field c.word 200 16 = s.turn.rank % 2 ^ 16 ∧ field c.word 195 5 = tok.val
  who : c.rank = s.turn.rank ∧ c.slot = s.turn.slot ∧ c.tok = tok ∧ c.task = s.th.taskId ∧ c.domain = s.th.domid ∧ c.priv = s.supervisor
  fresh : c.cursor = 0 ∧ c.cancel = false ∧ c.shot = false ∧ c.parkedOn = none
  plain : ¬ (field w 248 8 = 3 ∨ field w 248 8 = 4) → c.idx = [] ∧ c.bad = none
  list : ∀ l n, (field w 248 8 = 3 ∨ field w 248 8 = 4) → l = scratchLoc s.turn.rank (field w 0 16 * 64) → n = field w 32 16 →
    field w 0 16 * 64 + 4 * n ≤ 0x340000 → s.unreadable l (4 * n) = false → s.look l (4 * n) = s.peek l (4 * n) →
    c.bad = none ∧ c.idx = (List.range n).map (fun i => s.peek (l.plus (4 * i)) 4)

/-- The paged commands with their codes. -/
def pagedTable : List ((Nat → Instr) × Nat) := [(.cmdCopy, 1), (.cmdCopy2d, 2), (.cmdGather, 3), (.cmdScatter, 4), (.cmdFill, 5)]

/-- The runs of a command (R264): how many, their length, and the offsets of run `i` from SRC and from DST. -/
def runCount (c : Cmd) : Nat :=
  match field c.word 248 8 with
  | 2 => field c.word 32 16 | 3 => c.idx.length | 4 => c.idx.length | _ => 1

def runLen (c : Cmd) : Nat :=
  match field c.word 248 8 with
  | 2 => field c.word 16 16 * 8 | 3 => field c.word 16 16 * 8 | 4 => field c.word 16 16 * 8
  | _ => (field c.word 32 16 * 0x10000 + field c.word 16 16) * 64

def srcOff (c : Cmd) (i : Nat) : Nat :=
  match field c.word 248 8 with
  | 2 => if bit c.word 240 then i * (field c.word 16 16 * 8) else i * (field c.word 0 16 * 8)
  | 3 => c.idx.getD i 0 * (field c.word 16 16 * 8)
  | 4 => i * (field c.word 16 16 * 8)
  | _ => 0

def dstOff (c : Cmd) (i : Nat) : Nat :=
  match field c.word 248 8 with
  | 2 => if bit c.word 240 then i * (field c.word 0 16 * 8) else i * (field c.word 16 16 * 8)
  | 3 => i * (field c.word 16 16 * 8)
  | 4 => c.idx.getD i 0 * (field c.word 16 16 * 8)
  | _ => 0

/-- A scratchpad that nothing delays and that holds nothing fixed, lost or deferred. -/
structure Open (s : State) (r : Nat) : Prop where
  meets : s.meets false (scratchLoc r 0) = .nothing
  still : (s.core r).agent.moving = none
  whole : (s.core r).badScratch = []
  free : (s.core r).ranges = [] ∧ s.pairing r = false
  reds : ∀ p ∈ s.cores, p.2.redbuf = []

/-- The active command of an engine has its source and destination in its core's scratchpad, aligned, its destination in one
page, and no run of its destination overlaps another or its source. -/
structure Fits (s : State) (e : Nat) (c : Cmd) : Prop where
  active : (s.engine e).active = some c ∧ c.cursor = 0 ∧ c.cancel = false ∧ c.bad = none ∧ c.slot ≠ 4
  plain : field c.word 248 8 = 1 → bit c.word 247 = false
  dst : c.dst.sb = 0xF0 ∧ c.dst.v.toNat % (if field c.word 248 8 = 1 then 64 else 8) = 0
  src : field c.word 248 8 ≠ 5 → c.src.sb = 0xF0 ∧ c.src.v.toNat % (if field c.word 248 8 = 1 then 64 else 8) = 0
  size : 0 < runCount c ∧ 0 < runLen c
  inside : ∀ i, i < runCount c → c.dst.v.toNat + dstOff c i + runLen c ≤ 0x340000
    ∧ (field c.word 248 8 ≠ 5 → c.src.v.toNat + srcOff c i + runLen c ≤ 0x340000)
  page : ∃ p, ∀ i, i < runCount c → (c.dst.v.toNat + dstOff c i) / 0x10000 = p ∧ (c.dst.v.toNat + dstOff c i + runLen c - 1) / 0x10000 = p
  apart : ∀ i j, i < runCount c → j < runCount c →
    (i < j → dstOff c i + runLen c ≤ dstOff c j ∨ dstOff c j + runLen c ≤ dstOff c i)
    ∧ (field c.word 248 8 ≠ 5 → c.dst.v.toNat + dstOff c i + runLen c ≤ c.src.v.toNat + srcOff c j
        ∨ c.src.v.toNat + srcOff c j + runLen c ≤ c.dst.v.toNat + dstOff c i)
  openPad : Open s c.rank
  alone : ∀ m ∈ s.colls, m.engine ≠ e

/-- The status of a command that has ended: engine, destination pages and cause (R265). -/
def Ended (s t : State) (e : Nat) (c : Cmd) (pages cause : Nat) : Prop :=
  (t.engine e).active = none ∧ ∃ x ∈ t.statuses, x.rank = c.rank ∧ x.slot = c.slot ∧ x.task = c.task ∧ x.reg = c.tok
    ∧ x.value = word (cause + pages % 2 ^ 32 * 2 ^ 16 + e % 2 ^ 16 * 2 ^ 48) ∧ s.statuses.length < t.statuses.length

/-- A collective of a crown and one child, both of whose commands have joined and agree, with buffers of one row (R217, R264). -/
structure PairColl (s : State) (k m : CollMember) (c d : Cmd) (wk wm : Word) (n : Nat) : Prop where
  joined : s.colls = [k, m] ∨ s.colls = [m, k]
  tree : k.tree = m.tree ∧ k.tree = field c.word 240 2 ∧ k.cfg = m.cfg ∧ s.treeMembers k.rank k.tree = k.cfg ∧ k.cfg = (if k.rank < m.rank
    then [(k.rank, wk), (m.rank, wm)] else [(m.rank, wm), (k.rank, wk)])
  crown : bit wk 17 = true ∧ bit wm 17 = false ∧ field wm 0 16 = k.rank ∧ k.rank ≠ m.rank ∧ k.engine ≠ m.engine
  active : (s.engine k.engine).active = some c ∧ (s.engine m.engine).active = some d
  agree : (∀ i, 216 ≤ i → bit c.word i = bit d.word i) ∧ c.cancel = false ∧ d.cancel = false ∧ field c.word 16 32 = field d.word 16 32
  ranks : c.rank = k.rank ∧ d.rank = m.rank ∧ c.slot ≠ 4 ∧ d.slot ≠ 4
  size : n = (field c.word 32 16 * 0x10000 + field c.word 16 16) * 64 ∧ 0 < n
  rows : ∀ x ∈ [c, d], x.src.sb = 0xF0 ∧ x.dst.sb = 0xF0 ∧ x.src.v.toNat % 64 = 0 ∧ x.dst.v.toNat % 64 = 0
    ∧ x.src.v.toNat % 0x800 + n ≤ 0x800 ∧ x.dst.v.toNat % 0x800 + n ≤ 0x800 ∧ x.src.v.toNat + n ≤ 0x340000 ∧ x.dst.v.toNat + n ≤ 0x340000
  pads : Open s k.rank ∧ Open s m.rank
  early : s.cycle.toNat ≤ k.since + 2 ^ 12

end Sys2Proof.Claims

/-- R161, R262, R263, R266, R267: `ecmd` queues its command at the engine it names and marks its token pending; `eqry`
delivers the engine's counts; `ecan` completes once no engine it names holds the command, and cancels one that waits with
CAN = 1; a bad code, a privileged one and an engine of another partition trap. -/
def Obligations.EngineWords : Prop :=
  ∀ (f : FmtE) (s : State),
    (∀ e w, EngineNamed s f.engine e → s.turn.slot ≠ 4 → ScratchBytes s (s.th.get f.a) 32 w →
      (Accepted s (BitVec.ofNat 256 w) → s.trafficHeld s.turn.rank s.domain = false → NoReds s → (s.engine e).parked.length < 8 →
        (s.engine e).queue.length < 16 →
        ∃ t c, exec (.ecmd f) s = .next t ∧ CmdMade s (BitVec.ofNat 256 w) f.t c
          ∧ ((s.engine e).shadow = none → (s.engine e).queue = [] → t.engine e = { s.engine e with shadow := some c })
          ∧ (((s.engine e).shadow ≠ none ∨ (s.engine e).queue ≠ []) → t.engine e = { s.engine e with queue := (s.engine e).queue ++ [c] })
          ∧ (∀ k, k ≠ e → t.engine k = s.engine k) ∧ Marked s.th t.th f.t ∧ KeepsTok { outst := true } f.t s.th t.th
          ∧ t.th.pc = s.th.pc.add 4 ∧ Issued s t f.lk [] ∧ Untouched s t)
      ∧ (MayTrap s → (field (BitVec.ofNat 256 w) 248 8 = 0 ∨ 8 < field (BitVec.ofNat 256 w) 248 8) →
        ∃ t, exec (.ecmd f) s = .next t ∧ TrapEntry {} s t .illegal (word (w / 2 ^ 192)) 6)
      ∧ (MayTrap s → field (BitVec.ofNat 256 w) 248 8 = 7 → s.supervisor = false →
        ∃ t, exec (.ecmd f) s = .next t ∧ TrapEntry {} s t .priv (word (encodeNat (.ecmd f))) 6))
    ∧ (∀ e, EngineNamed s f.engine e → ∃ t, exec (.eqry f) s = .next t ∧ Completes { regs := [f.t], outst := true } s t
      ∧ Issued s t f.lk [.s f.t] ∧ t.th.get f.t = held f.t (.int (word (e + (s.engine e).queue.length * 2 ^ 8
          + (if (s.engine e).active.isSome then 1 else 0) * 2 ^ 13 + (if (s.engine e).shadow.isSome then 1 else 0) * 2 ^ 14
          + (s.engine e).parked.length * 2 ^ 16 + ((s.engine e).active.map (fun c => c.cursor % 2 ^ 32)).getD 0 * 2 ^ 32))))
    ∧ (∀ e, f.engine.val < 96 → EngineNamed s f.engine e →
      ((∀ c ∈ (s.engine e).queue ++ (s.engine e).parked ++ (s.engine e).shadow.toList ++ (s.engine e).active.toList,
          ¬ (c.rank = s.turn.rank ∧ c.slot = s.turn.slot ∧ c.task = s.th.taskId ∧ c.tok = f.t)) →
        (∀ x ∈ s.statuses, ¬ (x.rank = s.turn.rank ∧ x.slot = s.turn.slot ∧ x.task = s.th.taskId ∧ x.reg = f.t)) →
        ∃ t, exec (.ecan f) s = .next t ∧ Completes { outst := true } s t ∧ Issued s t f.lk [])
      ∧ (∀ c, (s.engine e).shadow = some c → (s.engine e).active = none → (s.engine e).queue = [] → (s.engine e).parked = [] →
        c.rank = s.turn.rank → c.slot = s.turn.slot → c.task = s.th.taskId → c.tok = f.t → c.cursor = 0 →
        ∃ t x, exec (.ecan f) s = .next t ∧ (t.engine e).shadow = none ∧ t.statuses = s.statuses ++ [x] ∧ x.rank = s.turn.rank
          ∧ x.slot = s.turn.slot ∧ x.reg = f.t ∧ x.value = word (2 ^ 8 + e % 2 ^ 16 * 2 ^ 48) ∧ t.th.pc = s.th.pc ∧ Untouched s t))
    ∧ (MayTrap s → f.engine.val < 96 → s.ownsEngine s.turn.rank f.engine.val = false → ∀ c ∈ ([.ecmd f, .eqry f, .ecan f] : List Instr),
      ∃ t, exec c s = .next t ∧ TrapEntry {} s t .prot (word f.engine.val) 6)

/-- R263-R265: a command becomes active in queue order; copy, copy-2D, gather, scatter and fill move the runs of their
destination page and end with its count; a bank-MAC launch sends handler 13 to the home of SRC. R73, R217, R264: a
collective command joins its tree with the tree as it stands; once both members of a crown and one child have joined, a
reduction leaves the combination, the crown first, and a copy the crown's bytes, at every destination, and both end. -/
def Obligations.EngineCommands : Prop :=
  ((∀ (e : Nat) (s : State) (x : Engine), x = s.engine e →
    (∀ a b l, x.active = none → x.shadow = some a → x.queue = b :: l → ∃ t, exec (.engineCommandActivate e) s = .next t
      ∧ t.engine e = { x with active := some a, shadow := some b, queue := l } ∧ Untouched s t ∧ Calm s t)
    ∧ (∀ a, x.active = none → x.shadow = some a → x.queue = [] → ∃ t, exec (.engineCommandActivate e) s = .next t
      ∧ t.engine e = { x with active := some a, shadow := none } ∧ Untouched s t ∧ Calm s t)
    ∧ (∀ a b l, x.active = some a → x.shadow = none → x.queue = b :: l → ∃ t, exec (.engineCommandActivate e) s = .next t
      ∧ t.engine e = { x with shadow := some b, queue := l } ∧ Untouched s t ∧ Calm s t))
  ∧ (∀ k ∈ pagedTable, ∀ (e : Nat) (s : State) (c : Cmd), Inv s → Fits s e c → field c.word 248 8 = k.2 →
    ∀ i ∈ ([k.1 e, .enginePage e] : List Instr), ∃ t, exec i s = .next t ∧ Ended s t e c 1 0 ∧ Calm s t
      ∧ (∀ i j, i < runCount c → j < runLen c → t.byteAt (scratchLoc c.rank (c.dst.v.toNat + dstOff c i + j)) =
          if k.2 = 5 then BitVec.ofNat 8 (field c.word (120 + 8 * (j % 8)) 8)
          else s.byteAt (scratchLoc c.rank (c.src.v.toNat + srcOff c i + j)))
      ∧ (∀ l : Loc, (∀ i, i < runCount c → l.key < (scratchLoc c.rank (c.dst.v.toNat + dstOff c i)).key
          ∨ (scratchLoc c.rank (c.dst.v.toNat + dstOff c i)).key + runLen c ≤ l.key) → t.byteAt l = s.byteAt l))
  ∧ (∀ (e : Nat) (s : State) (c : Cmd), (s.engine e).active = some c → field c.word 248 8 = 8 → c.shot = false → c.cancel = false →
    c.src.sb = 0xF3 → c.priv = true → c.src.v.toNat + 1 ≤ 0x40000000 → (s.core c.rank).agent.moving = none →
    (s.core c.rank).agent.redirects = [] →
    ∃ t rq, exec (.cmdBankMacLaunch e) s = .next t ∧ (t.engine e).active = some { c with shot := true }
      ∧ (t.agent c.rank).requests = (s.agent c.rank).requests ++ [rq] ∧ rq.h = 13 ∧ rq.engine = some e ∧ rq.tgt = c.src
      ∧ rq.loc = vaultLoc c.rank c.src.v.toNat ∧ rq.reg = c.tok ∧ rq.alen = 0 ∧ Untouched s t ∧ Calm s t))
  ∧ ((∀ (e : Nat) (s : State) (c : Cmd), (s.engine e).active = some c → c.cancel = false → c.slot ≠ 4 →
    (field c.word 248 8 = 6 ∨ (field c.word 248 8 = 1 ∧ bit c.word 247 = true)) → 0 < runLen c → c.src.sb = 0xF0 → c.dst.sb = 0xF0 →
    c.src.v.toNat % 64 = 0 → c.dst.v.toNat % 64 = 0 → c.src.v.toNat + runLen c ≤ 0x340000 → c.dst.v.toNat + runLen c ≤ 0x340000 →
    Open s c.rank → (∀ m ∈ s.colls, m.engine ≠ e ∧ m.tree ≠ field c.word 240 2) →
    (lookup (s.treeMembers c.rank (field c.word 240 2)) c.rank).isSome = true →
    ∃ t m, exec (if field c.word 248 8 = 6 then .cmdCollectiveReduce e else .cmdCopy e) s = .next t ∧ t.colls = s.colls ++ [m]
      ∧ m.engine = e ∧ m.rank = c.rank ∧ m.tree = field c.word 240 2 ∧ m.since = s.cycle.toNat
      ∧ m.cfg = s.treeMembers c.rank (field c.word 240 2) ∧ t.engine e = { s.engine e with active := some { c with held := [] } } ∧ t.statuses = s.statuses ∧ Untouched s t ∧ Calm s t)
  ∧ (∀ (s : State) (k m : CollMember) (c d : Cmd) (wk wm : Word) (n w : Nat) (ty : ElemType), Inv s → PairColl s k m c d wk wm n →
    ty = elemType (Fin.ofNat 16 (field c.word 216 4)) → w = ty.memBits →
    (field c.word 248 8 = 6 → field c.word 216 4 ∈ [0, 1, 2, 3, 9, 10] → field c.word 220 4 < 3 →
      ∃ t, exec (.cmdCollectiveReduce k.engine) s = .next t ∧ (t.engine k.engine).active = none ∧ (t.engine m.engine).active = none
        ∧ t.colls = [] ∧ Calm s t ∧ (∀ i, i < n * 8 / w → ∀ x ∈ [c] ++ (if bit c.word 242 then [] else [d]),
          t.peek (scratchLoc x.rank x.dst.v.toNat) n / 2 ^ (w * i) % 2 ^ w =
            netResult ty (field c.word 220 4) (s.peek (scratchLoc c.rank c.src.v.toNat) n / 2 ^ (w * i) % 2 ^ w)
              (s.peek (scratchLoc d.rank d.src.v.toNat) n / 2 ^ (w * i) % 2 ^ w) % 2 ^ w))
    ∧ (field c.word 248 8 = 1 → bit c.word 247 = true →
      ∃ t, exec (.cmdCopy k.engine) s = .next t ∧ (t.engine k.engine).active = none ∧ (t.engine m.engine).active = none
        ∧ t.colls = [] ∧ Calm s t ∧ ∀ x ∈ [c, d], t.peek (scratchLoc x.rank x.dst.v.toNat) n = s.peek (scratchLoc c.rank c.src.v.toNat) n)))

/-! ### Barriers, probes, supersteps and monitors (R41, R268-R276) -/

namespace Sys2Proof.Claims

/-- A counter of a tag: AC counts the core's arrivals, PC the phases passed (R270). -/
def acOf (c : Core) (tag : Nat) : BitVec 32 := c.ac.getD tag 0

def pcOf (c : Core) (tag : Nat) : BitVec 32 := c.pc.getD tag 0

/-- WARN.FMT for scope 7, which the sync words reserve. -/
def syncFoot (f : FmtS) (regs : List Reg) : Footprint := { regs := regs, warn := if f.scope = 7 then [.fmt] else [] }

/-- The core of the issuing thread is a member on a tag with no arrival outstanding, and has deferred nothing. -/
structure Free (s : State) (tag : Nat) : Prop where
  member : field (s.me.bmask.getD tag 0) 16 3 ≠ 0
  passed : ¬ pcOf s.me tag < acOf s.me tag
  reds : s.me.redbuf = []

/-- The slot waits at its instruction: the pc and every register stay. -/
def Waits (s t : State) : Prop :=
  t.th.pc = s.th.pc ∧ t.th.regs = s.th.regs ∧ t.th.thstat = s.th.thstat ∧ Untouched s t

end Sys2Proof.Claims

/-- R268-R273: `barr` arrives once a phase and then waits; `bwait` waits for the phase and delivers it; `bmask` reads the
tag's counters; `prst` and `pwait` start and await a circuit; `sstep` enters a participant, waits, and delivers the
superstep's number. R41, R270-R273: a phase whose members have all arrived completes on each of them, and counts a
superstep; a circuit reports white and zero and clears B, and ends a superstep's wait; a wait beyond the watchdog withdraws
the arrival and raises BARTO. -/
def Obligations.Synchronisation : Prop :=
  (∀ (f : FmtS) (s : State) (tag : Nat), tag = f.tag.val →
    (Free s tag →
      (∃ t, exec (.barr f) s = .next t ∧ acOf t.me tag = acOf s.me tag + 1 ∧ (∀ k, k ≠ tag → acOf t.me k = acOf s.me k) ∧ t.me.pc = s.me.pc
        ∧ Keeps (syncFoot f []) s.th { t.th with waitSince := s.th.waitSince } ∧ t.th.waitSince = none ∧ t.th.pc = s.th.pc.add 4 ∧ Untouched s t)
      ∧ (∃ t, exec (.bwait f) s = .next t ∧ t.th.get f.d = held f.d (.int (word (pcOf s.me tag).toNat)) ∧ t.me.ac = s.me.ac
        ∧ t.me.pc = s.me.pc ∧ Keeps (syncFoot f [f.d]) s.th { t.th with waitSince := s.th.waitSince } ∧ t.th.waitSince = none
        ∧ t.th.pc = s.th.pc.add 4 ∧ Untouched s t))
    ∧ (field (s.me.bmask.getD tag 0) 16 3 ≠ 0 →
      (pcOf s.me tag < acOf s.me tag → ∀ c ∈ ([.barr f, .bwait f] : List Instr), ∃ t, exec c s = .next t ∧ Waits s t ∧ t.me.ac = s.me.ac
        ∧ t.th.waitSince = some (s.th.waitSince.getD (s.cycle.toNat, tag)))
      ∧ (∃ t, exec (.bmask f) s = .next t ∧ Completes (syncFoot f [f.d]) s t
        ∧ t.th.get f.d = held f.d (.int (word ((pcOf s.me tag).toNat % 2 ^ 16 + field (s.me.bmask.getD tag 0) 0 16 * 2 ^ 16
            + field (s.me.bmask.getD tag 0) 16 3 * 2 ^ 32 + (acOf s.me tag).toNat % 2 ^ 16 * 2 ^ 48))))
      ∧ (∃ t, exec (.prst f) s = .next t ∧ t.me.probeRun = some (tag, s.th.domid) ∧ Keeps (syncFoot f []) s.th t.th
        ∧ t.th.pc = s.th.pc.add 4 ∧ Untouched s t)
      ∧ (s.me.probeRun = none → ∃ t, exec (.pwait f) s = .next t ∧ Completes (syncFoot f [f.d]) s t
        ∧ t.th.get f.d = held f.d (.int s.me.probeRes))
      ∧ (s.me.probeRun ≠ none → ∃ t, exec (.pwait f) s = .next t ∧ Waits s t)
      ∧ ((∀ p ∈ s.me.sstep, domKey p.dom ≠ domKey s.th.domid) → s.me.redbuf = [] →
        ∃ t p, exec (.sstep f) s = .next t ∧ Waits s t ∧ t.me.sstep = s.me.sstep ++ [p] ∧ p.slot = s.turn.slot ∧ p.task = s.th.taskId
          ∧ p.tag = tag ∧ p.dom = s.th.domid ∧ p.terminated = false ∧ p.done = false)
      ∧ (∀ p, s.me.sstep = [p] → domKey p.dom = domKey s.th.domid → p.task = s.th.taskId → p.slot = s.turn.slot →
        (p.done = false → ∃ t, exec (.sstep f) s = .next t ∧ Waits s t ∧ t.me.sstep = [p])
        ∧ (p.done = true → ∃ t, exec (.sstep f) s = .next t ∧ t.me.sstep = [] ∧ t.th.get f.d = held f.d (.int (s.me.sstepCount s.th.domid))
          ∧ Keeps (syncFoot f [f.d]) s.th { t.th with waitSince := s.th.waitSince } ∧ t.th.pc = s.th.pc.add 4 ∧ Untouched s t)))
    ∧ (field (s.me.bmask.getD tag 0) 16 3 = 0 → MayTrap s →
      ∀ c ∈ ([.barr, .bwait, .bmask, .prst, .pwait, .sstep] : List (FmtS → Instr)),
        ∃ t, exec (c f) s = .next t ∧ TrapEntry {} s t .illegal (word (encodeNat (c f))) 0))
  ∧ (∀ (r tag : Nat) (s : State), tag < 8 →
    (field ((s.core r).bmask.getD tag 0) 16 3 ≠ 0 → s.groupOf r tag ≠ [] → (∀ m ∈ s.groupOf r tag, pcOf (s.core m) tag < acOf (s.core m) tag) →
      ((∀ m ∈ s.groupOf r tag, (s.core m).sstep = []) → ∃ t, exec (.barrierPhaseComplete r tag) s = .next t ∧ Untouched s t ∧ Calm s t
        ∧ (∀ m ∈ s.groupOf r tag, pcOf (t.core m) tag = acOf (s.core m) tag ∧ (t.core m).ac = (s.core m).ac
            ∧ ∀ k, k ≠ tag → pcOf (t.core m) k = pcOf (s.core m) k)
        ∧ (∀ m, m ∉ s.groupOf r tag → t.core m = s.core m))
      ∧ (∀ p, s.groupOf r tag = [r] → (s.core r).sstep = [p] → p.tag = tag → p.terminated = true → p.done = false → ckptDom p.dom = false →
        p.target = (acOf (s.core r) tag).toNat → ∃ t, exec (.barrierPhaseComplete r tag) s = .next t ∧ Untouched s t ∧ Calm s t
          ∧ pcOf (t.core r) tag = acOf (s.core r) tag ∧ (t.core r).sstep = [{ p with done := true }]
          ∧ (t.core r).sstepCount p.dom = (s.core r).sstepCount p.dom + 1))
    ∧ (∀ dom, (s.core r).probeRun = some (tag, dom) → ∃ t, exec (.probeCircuit r tag) s = .next t ∧ Untouched s t ∧ Calm s t
      ∧ (t.core r).probeRun = none ∧ (∀ m ∈ s.groupOf r tag, domKey dom ∉ (t.core m).msgB ∧ (t.core m).msgD = (s.core m).msgD)
      ∧ (bit (t.core r).probeRes 0 = true ↔ ∀ m ∈ s.groupOf r tag, domKey dom ∉ (s.core m).msgB)
      ∧ (bit (t.core r).probeRes 1 = true ↔ ((s.groupOf r tag).map (fun m => s.dAt m dom)).sum = 0)
      ∧ (t.core r).probeRes.toNat < 4)
    ∧ (∀ p, (s.core r).probeRun = none → s.groupOf r tag = [r] → (s.core r).sstep = [p] → p.tag = tag → p.terminated = false →
      p.done = false → p.target = 0 → ¬ pcOf (s.core r) tag < acOf (s.core r) tag →
      (domKey p.dom ∉ (s.core r).msgB → s.dAt r p.dom = 0 → ∃ t, exec (.probeCircuit r tag) s = .next t ∧ Untouched s t ∧ Calm s t
        ∧ acOf (t.core r) tag = acOf (s.core r) tag + 1
        ∧ (t.core r).sstep = [{ p with terminated := true, target := (acOf (s.core r) tag + 1).toNat }])
      ∧ (domKey p.dom ∈ (s.core r).msgB → ∃ t, exec (.probeCircuit r tag) s = .next t ∧ Untouched s t ∧ Calm s t
        ∧ (t.core r).sstep = [p] ∧ (t.core r).ac = (s.core r).ac ∧ domKey p.dom ∉ (t.core r).msgB))
    ∧ (∀ (n t0 : Nat) (w : Turn) (a : Thread), n < 4 → w = { rank := r, slot := Fin.ofNat 5 n } → a = s.thAt w → a.waitSince = some (t0, tag) →
      t0 + 2 ^ (field ((s.core r).bmask.getD tag 0) 36 4 + 12) < s.cycle.toNat → a.outst = [] → a.mode ≠ 2 → bit a.thstat 5 = false →
      a.replay = none → (∃ m ∈ s.groupOf r tag, ¬ pcOf (s.core m) tag < acOf (s.core m) tag) → (s.core r).sstep = [] →
      pcOf (s.core r) tag < acOf (s.core r) tag →
      ∃ t, exec (.barrierWatchdogExpiry r n) s = .next t ∧ acOf (t.core r) tag = acOf (s.core r) tag - 1 ∧ Untouched s t
        ∧ (t.thAt w).tcause = word (0x17 + 0x800) ∧ (t.thAt w).tval = word tag ∧ (t.thAt w).tepc = a.pc.v ∧ (t.thAt w).mode = 1
        ∧ (t.thAt w).pc = { sb := BitVec.ofNat 8 (field (s.core r).tvec 56 8), v := word (4 * field (s.core r).tvec 2 54) }
        ∧ (t.thAt w).waitSince = none ∧ (t.thAt w).regs = a.regs ∧ (∀ x, x ≠ w → t.thAt x = s.thAt x)))

/-- R274-R276: `mon.arm` arms a granule at its home; `mon.wait` delivers 1 once it has been written, 0 with none armed, and
else waits; `mon.waitne` arms, compares, and delivers a word that differs; a write repeats the comparison, and it, an
interrupt and the timeout end the waits. -/
def Obligations.MonitorsWait : Prop :=
  (∀ (f : FmtS) (s : State) (l : Loc), Placed s (s.th.get f.a) 1 .load l → Quiet s l 1 →
    ∃ t, exec (.monArm f) s = .next t ∧ t.th.mon = some { ga := s.th.get f.a, loc := l } ∧ t.th.monHit = false ∧ Untouched s t
      ∧ (l.home ≠ s.turn.rank → (l.granule, s.turn) ∈ (t.agent l.home).watches)
      ∧ Keeps {} s.th { t.th with mon := s.th.mon, monHit := s.th.monHit } ∧ t.th.pc = s.th.pc.add 4)
  ∧ (∀ (f : FmtS) (s : State),
    (s.th.mon = none → ∃ t, exec (.monWait f) s = .next t ∧ Completes { regs := [f.d] } s t ∧ t.th.get f.d = held f.d (.int 0))
    ∧ (s.th.mon ≠ none → s.th.monHit = true → ∃ t, exec (.monWait f) s = .next t ∧ Completes { regs := [f.d], mon := true } s t
      ∧ t.th.get f.d = held f.d (.int 1) ∧ t.th.monHit = true)
    ∧ (s.th.mon ≠ none → s.th.monHit = false → s.th.ipend &&& s.th.ien = 0 → s.th.preempt = false →
      ∃ t, exec (.monWait f) s = .next t ∧ Waits s t
        ∧ t.th.monWait = some { d := f.d, ends := s.cycle.toNat + 2 ^ (12 + 4 * f.tag.val), ne := false, seen := none }))
  ∧ (∀ (f : FmtS) (s : State) (l : Loc), Placed s (s.th.get f.a) 8 .load l → (s.th.get f.a).v.toNat % 8 = 0 → Quiet s l 8 →
    (word (s.peek l 8) ≠ s.th.val f.d → ∃ t, exec (.monWaitne f) s = .next t ∧ t.th.get f.d = held f.d (.int (word (s.peek l 8)))
      ∧ t.th.mon = some { ga := s.th.get f.a, loc := l } ∧ Untouched s t
      ∧ Keeps { regs := [f.d] } s.th { t.th with mon := s.th.mon, monHit := s.th.monHit } ∧ t.th.pc = s.th.pc.add 4)
    ∧ (word (s.peek l 8) = s.th.val f.d → s.th.ipend &&& s.th.ien = 0 → s.th.preempt = false →
      ∃ t, exec (.monWaitne f) s = .next t ∧ Waits s t ∧ t.th.mon = some { ga := s.th.get f.a, loc := l }
        ∧ t.th.monWait = some { d := f.d, ends := s.cycle.toNat + 2 ^ (12 + 4 * f.tag.val), ne := true, seen := none }))
  ∧ (∀ (s : State) (l : Loc) (n : Nat) (w : Turn) (m : MonWait) (x : Mon), (s.thAt w).monWait = some m → (s.thAt w).mon = some x →
    m.ne = true → m.seen = none → l.key / 64 ≤ x.loc.granule → x.loc.granule ≤ (l.key + n - 1) / 64 →
    ((s.wake l n).thAt w).monHit = true ∧ ((s.wake l n).thAt w).monWait =
      some { m with seen := if s.wordAt x.loc = (s.thAt w).val m.d then none else some (s.wordAt x.loc) })
  ∧ (∀ (r n : Nat) (s : State) (w : Turn) (a : Thread) (m : MonWait) (x : Mon), n < 5 → w = { rank := r, slot := Fin.ofNat 5 n } → a = s.thAt w →
    a.monWait = some m → a.mon = some x → a.outst = [] → a.replay = none →
    (a.monHit = true → m.ne = false → ∃ t, exec (.monitorWake r n) s = .next t ∧ (t.thAt w).get m.d = held m.d (.int 1)
      ∧ (t.thAt w).monWait = none ∧ (t.thAt w).pc = a.pc.add 4 ∧ (∀ k, k ≠ m.d → (t.thAt w).get k = a.get k) ∧ Untouched s t
      ∧ (∀ y, y ≠ w → t.thAt y = s.thAt y))
    ∧ (∀ v, m.ne = true → m.seen = some v → ∃ t, exec (.monitorWake r n) s = .next t
      ∧ (t.thAt w).get m.d = held m.d (.int v) ∧ (t.thAt w).monWait = none ∧ (t.thAt w).pc = a.pc.add 4
      ∧ (∀ k, k ≠ m.d → (t.thAt w).get k = a.get k) ∧ Untouched s t ∧ (∀ y, y ≠ w → t.thAt y = s.thAt y))
    ∧ (m.ne = true → m.seen = none → ∃ t, exec (.monitorWake r n) s = .next t ∧ t.thAt w = a ∧ Untouched s t)
    ∧ (m.ends ≤ s.cycle.toNat → ∃ t, exec (.monitorTimeout r n) s = .next t ∧ (t.thAt w).monWait = none ∧ (t.thAt w).pc = a.pc.add 4
      ∧ (t.thAt w).get m.d = held m.d (.int (if m.ne then m.seen.getD (a.val m.d) else if a.monHit then 1 else 0)) ∧ (∀ k, k ≠ m.d → (t.thAt w).get k = a.get k)
      ∧ Untouched s t ∧ (∀ y, y ≠ w → t.thAt y = s.thAt y)))

/-! ### Vault agents (R278-R287) -/

namespace Sys2Proof.Claims

/-- The thread that issues is an agent. -/
def OnAgent (s : State) : Prop := s.turn.slot = 4

/-- What an agent's instruction leaves alone: every byte, its registers but `regs`, and every other thread. -/
def AgentKeeps (s t : State) (regs : List Reg) : Prop :=
  Untouched s t ∧ Keeps { regs := regs } s.th t.th ∧ t.th.pc = s.th.pc.add 4 ∧ ∀ w, w ≠ s.turn → t.thAt w = s.thAt w

/-- The agent of the issuing thread after a write of a port that holds an operand (R280). -/
def portTable : List (Nat × (Agent → Word → Agent)) :=
  [ (0x00, fun a v => { a with mprog := v }), (0x20, fun a v => { a with mvSrc := v }), (0x21, fun a v => { a with mvDst := v }),
    (0x28, fun a v => { a with cmRow := v }), (0x29, fun a v => { a with cmVal := v }), (0x30, fun a v => { a with vOff := v }) ]

/-- The banks whose bit is set in a mask (R281). -/
def bankList (m : Nat) : List Nat := (List.range 32).filter (fun i => m.testBit i)

/-- A vault row that a unit of an agent can use now. -/
structure RowFree (s : State) (r row : Nat) : Prop where
  meets : s.meets true (vaultLoc r (row * 0x800)) = .nothing
  whole : s.unreadable (vaultLoc r (row * 0x800)) 0x800 = false
  mapped : (s.core r).vault.zero.find? (fun z => decide (z.1 = row * 0x800 / 0x10000)) = none
  inside : row < 2 ^ 19

/-- The bank of a row address as the units use it (R85, R280). -/
def rowBank (w : Word) : Nat := w.toNat % 2 ^ 19 / 0x4000

/-- The parts of a core that the units change besides its agent: nothing. -/
def OtherCores (s t : State) (r : Nat) : Prop := ∀ q, q ≠ r → t.core q = s.core q

end Sys2Proof.Claims

/-- R279-R281: `mvp` and `mvi` write a port from a register or an immediate, `mvr` reads one, `trig` reads a unit's status,
`abank` locks banks for its length; a busy unit makes its ports wait, and a number that names no port raises ILLEGAL. R260,
R278, R280, R285: the vault port moves 8 bytes and its offset; `areply` answers the request with bytes from the data store,
and `anext` ends the handler, with status 0 where nothing has answered; an agent's trap answers RPCFAIL. -/
def Obligations.AgentMembers : Prop :=
  ((∀ (f : FmtP) (s : State), OnAgent s → ∀ k ∈ ([(.mvp f, s.th.val f.reg), (.mvi f, f.imm.signExtend 64)] : List (Instr × Word)),
    (∀ e ∈ portTable, f.port.val = e.1 → ∃ t, exec k.1 s = .next t ∧ t.me.agent = e.2 s.me.agent k.2 ∧ AgentKeeps s t [])
    ∧ (∀ g, g < 4 → (f.port.val = 0x10 + 4 * g → ∃ t, exec k.1 s = .next t
          ∧ t.me.agent = { s.me.agent with agBase := s.me.agent.agBase.setIfInBounds g k.2 } ∧ AgentKeeps s t [])
      ∧ (f.port.val = 0x11 + 4 * g → ∃ t, exec k.1 s = .next t
          ∧ t.me.agent = { s.me.agent with agStep := s.me.agent.agStep.setIfInBounds g k.2 } ∧ AgentKeeps s t [])
      ∧ (f.port.val = 0x12 + 4 * g → s.me.agent.agBusy.getD g false = false → ∃ t, exec k.1 s = .next t ∧ AgentKeeps s t []
          ∧ t.me.agent.agLeft.getD g 0 = k.2.toNat ∧ t.me.agent.agBusy.getD g false = true
          ∧ t.me.agent.agNext.getD g 0 = word ((s.me.agent.agBase.getD g 0).toNat % 2 ^ 19))
      ∧ (f.port.val = 0x12 + 4 * g → s.me.agent.agBusy.getD g false = true → ∃ t, exec k.1 s = .next t ∧ Waits s t ∧ t.me.agent = s.me.agent))
    ∧ (f.port.val = 0x22 → s.me.agent.mvBusy = false → 1 ≤ k.2.toNat → k.2.toNat ≤ 16 → ∃ t, exec k.1 s = .next t ∧ AgentKeeps s t []
        ∧ t.me.agent = { s.me.agent with mvBusy := true, mvRows := k.2.toNat, mvStat := 0 })
    ∧ (f.port.val = 0x2A → s.me.agent.cmBusy = false → ∃ t, exec k.1 s = .next t ∧ AgentKeeps s t []
        ∧ t.me.agent = { s.me.agent with cmBusy := true, cmStat := 0 }))
  ∧ (∀ (f : FmtP) (s : State), OnAgent s →
    (f.port.val = 0x02 → s.me.agent.mac = none → ∃ t, exec (.mvr f) s = .next t ∧ AgentKeeps s t [f.reg]
      ∧ t.th.get f.reg = held f.reg (.int s.me.agent.mstat))
    ∧ (f.port.val = 0x02 → s.me.agent.mac ≠ none → ∃ t, exec (.mvr f) s = .next t ∧ AgentKeeps s t [f.reg]
      ∧ t.th.get f.reg = held f.reg (.int (setBit s.me.agent.mstat 63)))
    ∧ (f.port.val = 0x2B → s.me.agent.cmBusy = false → ∃ t, exec (.mvr f) s = .next t ∧ AgentKeeps s t [f.reg]
      ∧ t.th.get f.reg = held f.reg (.int s.me.agent.cmRes))
    ∧ (f.port.val = 0x2B → s.me.agent.cmBusy = true → ∃ t, exec (.mvr f) s = .next t ∧ Waits s t)
    ∧ (∀ g, g < 4 → f.port.val = 0x13 + 4 * g → s.me.agent.agBusy.getD g false = false →
      (s.me.agent.agLeft.getD g 0 = 0 → ∃ t, exec (.mvr f) s = .next t ∧ AgentKeeps s t [f.reg]
        ∧ t.th.get f.reg = held f.reg (.int 0xFFFFFFFFFFFFFFFF) ∧ t.me.agent.agLeft.getD g 0 = 0)
      ∧ (s.me.agent.agLeft.getD g 0 ≠ 0 → ∃ t, exec (.mvr f) s = .next t ∧ AgentKeeps s t [f.reg]
        ∧ t.th.get f.reg = held f.reg (.int (s.me.agent.agNext.getD g 0)) ∧ t.me.agent.agLeft.getD g 0 = s.me.agent.agLeft.getD g 0 - 1
        ∧ t.me.agent.agNext.getD g 0 = word ((s.me.agent.agNext.getD g 0 + s.me.agent.agStep.getD g 0).toNat % 2 ^ 19)))
    ∧ (∀ e ∈ ([(0, s.me.agent.mac.isSome, s.me.agent.mstat.toNat % 256), (1, s.me.agent.mac.isSome, s.me.agent.mstat.toNat % 256),
          (0x22, s.me.agent.mvBusy, s.me.agent.mvStat.toNat), (0x2A, s.me.agent.cmBusy, s.me.agent.cmStat.toNat), (0x31, false, 0)]
          : List (Nat × Bool × Nat)), f.port.val = e.1 →
      (e.2.1 = false → ∃ t, exec (.trig f) s = .next t ∧ AgentKeeps s t [f.reg] ∧ t.th.get f.reg = held f.reg (.int (word e.2.2)))
      ∧ (e.2.1 = true → ∃ t, exec (.trig f) s = .next t ∧ Waits s t))
    ∧ (field (s.th.val f.reg) 0 32 ≠ 0 → (∀ b ∈ bankList (field (s.th.val f.reg) 0 32), b ∉ s.me.vault.locks) →
      ∃ t, exec (.abank f) s = .next t ∧ AgentKeeps s t [] ∧ t.me.agent.locks = bankList (field (s.th.val f.reg) 0 32)
        ∧ t.me.agent.lockEnd = s.cycle.toNat + 8 * ((f.imm.toNat + 1) * 4))
    ∧ (field (s.th.val f.reg) 0 32 = 0 → ∃ t, exec (.abank f) s = .next t ∧ AgentKeeps s t [] ∧ t.me.agent.locks = []))
  ∧ (∀ (f : FmtP) (s : State), MayTrap s → ∀ c ∈ ([.mvp, .mvr, .mvi, .trig, .abank, .areply, .anext] : List (FmtP → Instr)),
    ∃ t, exec (c f) s = .next t ∧ TrapEntry {} s t .illegal (word (encodeNat (c f))) 0))
  ∧ ((∀ (f : FmtP) (s : State) (l : Loc), OnAgent s → Inv s → f.port.val = 0x31 → s.me.agent.vOff.toNat % 8 = 0 →
    s.me.agent.vOff.toNat + 8 ≤ 0x40000000 → l = vaultLoc s.turn.rank s.me.agent.vOff.toNat → Quiet s l 8 →
    (∃ t, exec (.mvr f) s = .next t ∧ t.th.get f.reg = held f.reg (.int (word (s.peek l 8))) ∧ t.me.agent.vOff = s.me.agent.vOff + 8
      ∧ Keeps { regs := [f.reg] } s.th t.th ∧ t.th.pc = s.th.pc.add 4 ∧ Untouched s t)
    ∧ (PlainWrite s l 8 → ∀ k ∈ ([(.mvp f, s.th.val f.reg), (.mvi f, f.imm.signExtend 64)] : List (Instr × Word)),
      ∃ t, exec k.1 s = .next t ∧ Stored s t l 8 k.2.toNat ∧ t.me.agent.vOff = s.me.agent.vOff + 8
        ∧ Keeps { mon := true } s.th t.th ∧ t.th.pc = s.th.pc.add 4))
  ∧ (∀ (f : FmtP) (s : State) (rq : Rpc), OnAgent s → Inv s → NoReds s → s.me.agent.current = some rq → rq.engine = none → rq.rlen ≤ 256 →
    s.fixedBuffer rq.rank rq.rbuf rq.rlen = false → rq.rank < 65536 → rq.rbuf + rq.rlen ≤ 0x340000 → s.turn.rank < 65536 →
    (s.me.agent.replied = false → ∃ t x, exec (.areply f) s = .next t ∧ t.me.agent.replied = true ∧ t.me.agent.current = some rq
      ∧ Stored s t (buffer rq) rq.rlen (s.peek { region := .agentData, home := s.turn.rank, off := 0x200 } rq.rlen)
      ∧ t.statuses = s.statuses ++ [x] ∧ x.rank = rq.rank ∧ x.slot = rq.slot ∧ x.reg = rq.reg ∧ x.value = s.th.val f.reg
      ∧ t.th.regs = s.th.regs ∧ t.th.pc = s.th.pc.add 4)
    ∧ (∃ t, exec (.anext f) s = .next t ∧ t.me.agent.current = none ∧ t.me.agent.replied = false ∧ t.me.agent.locks = []
      ∧ t.th.occ = .empty ∧ t.th.regs = s.th.regs ∧ Untouched s t
      ∧ (s.me.agent.replied = true → t.statuses = s.statuses)
      ∧ (s.me.agent.replied = false → ∃ x, t.statuses = s.statuses ++ [x] ∧ x.rank = rq.rank ∧ x.slot = rq.slot ∧ x.reg = rq.reg ∧ x.value = 0))
    ∧ (s.me.agent.replied = true → s.th.outst = [] → s.th.replay = none → ∃ t, exec (.areply f) s = .next t ∧ t.me.agent.current = none
      ∧ t.th.occ = .empty ∧ t.statuses = s.statuses ∧ t.me.log.nextSeq = s.me.log.nextSeq + 1)
    ∧ (s.me.agent.replied = false → s.th.outst = [] → f.port.val = 3 → ∃ t x, exec (.mvr f) s = .next t ∧ t.me.agent.current = none
      ∧ t.statuses = s.statuses ++ [x] ∧ x.reg = rq.reg ∧ x.rank = rq.rank ∧ x.value = word (0x0F + 0x01 * 2 ^ 8) ∧ t.th.occ = .empty)))

/-- R280, R281: the triggers start a unit that is idle; the address generator, the row mover and the compare unit complete;
the vault port moves 8 bytes; a lock ends with its length. -/
def Obligations.AgentUnits : Prop :=
  ∀ (r : Nat) (s : State) (a : Agent), a = s.agent r →
    (∀ (g : Nat) (v : Word), g < 4 → a.agBusy.getD g false = false → ∃ t, exec (.agCount r g v) s = .next t ∧ Untouched s t ∧ Calm s t
      ∧ OtherCores s t r ∧ (t.agent r).agLeft.getD g 0 = v.toNat ∧ (t.agent r).agBusy.getD g false = true
      ∧ (t.agent r).agNext.getD g 0 = word ((a.agBase.getD g 0).toNat % 2 ^ 19))
    ∧ (∀ v : Word, a.mvBusy = false → 1 ≤ v.toNat → v.toNat ≤ 16 → ∃ t, exec (.mvGo r v) s = .next t ∧ Untouched s t ∧ Calm s t
      ∧ OtherCores s t r ∧ t.agent r = { a with mvBusy := true, mvRows := v.toNat, mvStat := 0 })
    ∧ (a.cmBusy = false → ∃ t, exec (.cmGo r) s = .next t ∧ Untouched s t ∧ Calm s t ∧ OtherCores s t r
      ∧ t.agent r = { a with cmBusy := true, cmStat := 0 })
    ∧ (∀ g : Fin 4, a.agBusy.getD g.val false = true → ∃ t, exec (.agentUnitComplete r (.ag g)) s = .next t ∧ Untouched s t ∧ Calm s t
      ∧ OtherCores s t r ∧ t.agent r = { a with agBusy := a.agBusy.setIfInBounds g.val false })
    ∧ (Inv s → (∀ p ∈ s.cores, p.2.redbuf = []) → r < 65536 → a.mvBusy = true → 1 ≤ a.mvRows → RowFree s r a.mvSrc.toNat → RowFree s r a.mvDst.toNat →
      ∃ t, exec (.agentUnitComplete r .mover) s = .next t ∧ Calm s t
        ∧ Stored s t (vaultLoc r (a.mvDst.toNat * 0x800)) 0x800 (s.peek (vaultLoc r (a.mvSrc.toNat * 0x800)) 0x800)
        ∧ t.agent r = { a with mvSrc := a.mvSrc + 1, mvDst := a.mvDst + 1, mvRows := a.mvRows - 1, mvBusy := decide (1 < a.mvRows) })
    ∧ (∀ x, (∀ p ∈ s.cores, p.2.redbuf = []) → a.cmBusy = true → RowFree s r a.cmRow.toNat → x = s.peek (vaultLoc r (a.cmRow.toNat * 0x800)) 0x800 →
      ∃ t, exec (.agentUnitComplete r .compare) s = .next t ∧ Untouched s t ∧ Calm s t ∧ (t.agent r).cmBusy = false ∧ (t.agent r).cmStat = 0
        ∧ (∀ i, i < 256 → x / 2 ^ (64 * i) % 2 ^ 64 = a.cmVal.toNat → (∀ j, j < i → x / 2 ^ (64 * j) % 2 ^ 64 ≠ a.cmVal.toNat) →
            (t.agent r).cmRes = word i)
        ∧ ((∀ i, i < 256 → x / 2 ^ (64 * i) % 2 ^ 64 ≠ a.cmVal.toNat) → (t.agent r).cmRes = 0xFFFFFFFFFFFFFFFF))
    ∧ (∀ l, Inv s → (∀ p ∈ s.cores, p.2.redbuf = []) → a.vOff.toNat % 8 = 0 → a.vOff.toNat + 8 ≤ 0x40000000 → l = vaultLoc r a.vOff.toNat →
      s.meets true l = .nothing → s.unreadable l 8 = false → (s.core r).vault.zero.find? (fun z => decide (z.1 = a.vOff.toNat / 0x10000)) = none →
      (∀ d : Reg, ∃ t, exec (.vDataRead r d) s = .next t ∧ Untouched s t
        ∧ (t.thAt { rank := r, slot := 4 }).get d = held d (.int (word (s.peek l 8))) ∧ t.agent r = { a with vOff := a.vOff + 8 }
        ∧ (∀ w, w ≠ { rank := r, slot := 4 } → t.thAt w = s.thAt w))
      ∧ (∀ v : Word, ∃ t, exec (.vDataWrite r v) s = .next t ∧ Stored s t l 8 v.toNat ∧ Calm s t ∧ t.agent r = { a with vOff := a.vOff + 8 }))
    ∧ (a.locks ≠ [] → a.lockEnd ≤ s.cycle.toNat → a.mac = none → ∃ t, exec (.bankLockExpiry r) s = .next t ∧ Untouched s t ∧ Calm s t
      ∧ (t.agent r).locks = [] ∧ (a.mvBusy = true → rowBank a.mvSrc ∈ a.locks → (t.agent r).mvBusy = false ∧ (t.agent r).mvStat = 0x14)
      ∧ (a.cmBusy = true → rowBank a.cmRow ∈ a.locks → (t.agent r).cmBusy = false ∧ (t.agent r).cmStat = 0x14))

namespace Sys2Proof.Claims

/-- A bank-MAC block with one operation and no report: header, length, banks, and entry {opcode, rows, D, A, B} (R282). -/
structure OneOp (x et len banks opc n d a b : Nat) : Prop where
  header : byteField x 0 2 = 1 ∧ byteField x 2 1 = et ∧ byteField x 3 1 % 4 = 0 ∧ byteField x 4 4 = banks ∧ byteField x 8 2 = len
  types : (et = 1 ∨ et = 2) ∧ 1 ≤ len ∧ len ≤ 4096
  entry : byteField x 64 1 % 16 = opc ∧ byteField x 65 1 = n ∧ byteField x 68 4 = d ∧ byteField x 72 4 = a ∧ byteField x 76 4 = b
  rows : opc ≤ 3 ∧ 1 ≤ n ∧ n ≤ 16
  places : ∀ y ∈ [d, a] ++ (if opc = 3 then [] else [b]), y + n ≤ 2 ^ 19 ∧ y / 0x4000 = (y + n - 1) / 0x4000 ∧ banks.testBit (y / 0x4000) = true

/-- One element of an operation in RNE: add, multiply, multiply and add, copy (R283). -/
def macResult (F : Fmt) (opc a b d : Nat) : Nat :=
  if opc = 0 then (rounded F 0 (Machine.Num.add false (F.value a) (F.value b))).1
  else if opc = 1 then (rounded F 0 (Machine.Num.mul (F.value a) (F.value b))).1
  else if opc = 2 then (rounded F 0 (Machine.Num.add false (Machine.Num.mul (F.value a) (F.value b)).1 (F.value d))).1
  else a

/-- A program that has one operation and has met no error. -/
structure Clean (p : MacProgram) (x k : Nat) : Prop where
  block : p.block = x ∧ p.rows = [k] ∧ p.hit = [] ∧ p.poison = [] ∧ p.banks = 0 ∧ p.inj = none
  reports : p.flag = none ∧ p.record = none

/-- The core cycles of one row: 32 vault cycles for f32, 64 for bf16, eight core cycles each (R283). -/
def rowCycles (et : Nat) : Nat := 8 * (if et = 1 then 32 else 64)

end Sys2Proof.Claims

/-- R261, R280, R282-R284: a block that is well formed is latched from the vault by handler 13 and from the data store by
MGO; a program locks its banks, performs its rows, and ends with its status, WATCHDOG where its length ran out; a block that
is not is refused. -/
def Obligations.BankMacPrograms : Prop :=
  ∀ (r : Nat) (s : State) (x et len banks opc n d a b : Nat), OneOp x et len banks opc n d a b →
    (∀ rq, Serves s r 13 rq → (s.agent r).mac = none → rq.loc.region = .vault → rq.loc.off % 64 = 0 → s.peek rq.loc 80 = x →
      s.unreadable rq.loc 80 = false → rq.inj = none → ∃ t p, exec (.handlerBankMacLaunch r) s = .next t ∧ (t.agent r).mac = some p ∧ Clean p x 0
        ∧ p.reply = some rq ∧ p.locked = false ∧ p.expired = false ∧ (t.agent r).current = some rq
        ∧ (t.agent r).requests = (s.agent r).requests.erase rq ∧ t.statuses = s.statuses ∧ Untouched s t ∧ Calm s t)
    ∧ (∀ (l : Loc), (s.agent r).mac = none → l = { region := .agentData, home := r, off := (s.agent r).mprog.toNat } → l.off % 64 = 0 →
      l.off + 80 ≤ 0x10000 → s.peek l 80 = x →
      (∃ t p, exec (.mgo r) s = .next t ∧ (t.agent r).mac = some p ∧ Clean p x 0 ∧ p.reply = none ∧ p.locked = false ∧ p.expired = false
        ∧ Untouched s t ∧ Calm s t)
      ∧ (OnAgent s → s.turn.rank = r → ∀ f : FmtP, f.port.val = 1 → ∀ c ∈ ([.mvp f, .mvi f] : List Instr),
        ∃ t p, exec c s = .next t ∧ (t.agent r).mac = some p ∧ Clean p x 0 ∧ p.reply = none ∧ AgentKeeps s t []))
    ∧ (∀ p k, (s.agent r).mac = some p → Clean p x k → p.expired = false →
      (p.locked = false → (s.core r).vault.refreshing = [] → (s.agent r).locks = [] → (s.core r).vault.burst = none →
        ∃ t, exec (.bankMacProgramRun r) s = .next t ∧ (t.core r).vault.locks = bankList banks
          ∧ (t.agent r).mac = some { p with locked := true, ends := s.cycle.toNat + 8 * len } ∧ Untouched s t ∧ Calm s t)
      ∧ (∀ F w y v, F = (if et = 1 then f32 else bf16) → w = (if et = 1 then 32 else 16) → y = vaultLoc r ((d + k) * 0x800) →
        v = s.peek y 0x800 → Inv s → (∀ q ∈ s.cores, q.2.redbuf = []) →
        p.locked = true → k < n → (k + 1) * rowCycles et ≤ 8 * len → p.ends + (k + 1) * rowCycles et ≤ s.cycle.toNat + 8 * len →
        (s.core r).vault.refreshing = [] → (s.agent r).locks = [] → (s.core r).vault.burst = none → (s.core r).vault.badGranules = [] →
        (s.core r).vault.zero = [] → (∀ rq, p.reply = some rq → ckptDom rq.domain = false) →
        ∃ t, exec (.bankMacProgramRun r) s = .next t ∧ (t.agent r).mac = some { p with rows := [k + 1] } ∧ Calm s t
          ∧ (∀ i, i < 16384 / w → t.peek y 0x800 / 2 ^ (w * i) % 2 ^ w =
              macResult F opc (s.peek (vaultLoc r ((a + k) * 0x800)) 0x800 / 2 ^ (w * i) % 2 ^ w)
                (s.peek (vaultLoc r ((b + k) * 0x800)) 0x800 / 2 ^ (w * i) % 2 ^ w) (v / 2 ^ (w * i) % 2 ^ w) % 2 ^ w)
          ∧ (∀ l : Loc, l.key < y.key ∨ y.key + 0x800 ≤ l.key → t.byteAt l = s.byteAt l))
      ∧ (p.locked = true → k < n → 8 * len < (k + 1) * rowCycles et → p.ends ≤ s.cycle.toNat → (s.agent r).locks = [] →
        ∃ t, exec (.bankLockExpiry r) s = .next t ∧ (t.agent r).mac = some { p with expired := true } ∧ Untouched s t ∧ Calm s t)
      ∧ (p.locked = true → k = n → ∃ t, exec (.bankMacComplete r) s = .next t ∧ (t.agent r).mac = none ∧ (t.agent r).mstat = 0
        ∧ (t.core r).vault.locks = [] ∧ Untouched s t ∧ Calm s t
        ∧ (p.reply = none → t.statuses = s.statuses)
        ∧ (∀ rq, p.reply = some rq → rq.engine = none → (t.agent r).current = none ∧ ∃ y, t.statuses = s.statuses ++ [y]
            ∧ y.rank = rq.rank ∧ y.slot = rq.slot ∧ y.reg = rq.reg ∧ y.value = 0)))
    ∧ (∀ p k rq, (s.agent r).mac = some p → Clean p x k → p.locked = true → p.expired = true → p.reply = some rq → rq.engine = none →
      ∃ t y, exec (.bankMacComplete r) s = .next t ∧ (t.agent r).mac = none ∧ (t.agent r).mstat = 0x14 ∧ (t.core r).vault.locks = []
        ∧ t.statuses = s.statuses ++ [y] ∧ y.reg = rq.reg ∧ y.rank = rq.rank ∧ y.value = 0x14 ∧ Untouched s t ∧ Calm s t)
    ∧ (∀ rq, Serves s r 13 rq → (s.agent r).mac = none → rq.loc.region = .vault → rq.loc.off % 64 = 0 → s.unreadable rq.loc 64 = false →
      s.peek rq.loc 2 = 0 → ∃ t, exec (.handlerBankMacLaunch r) s = .next t ∧ Answered s t r rq 0x0F 1 0 0 ∧ Untouched s t ∧ Calm s t)

/-! ### Tokens and tasks (R29, R31, R34, R35, R114, R301, R309, R325, R326) -/

namespace Sys2Proof.Claims

/-- The slot `n` of a core. -/
def slotAt (r n : Nat) : Turn := { rank := r, slot := Fin.ofNat 5 n }

/-- Every thread but one is as it was. -/
def OthersKept (s t : State) (w : Turn) : Prop := ∀ x, x ≠ w → t.thAt x = s.thAt x

/-- Every thread but one is as it was but for a monitor that is met, with what its wait has seen. -/
def OthersMet (s t : State) (w : Turn) : Prop :=
  ∀ x, x ≠ w → ∃ h m, t.thAt x = { s.thAt x with monHit := h, monWait := m } ∧ m.map unseen = (s.thAt x).monWait.map unseen

/-- The thread of a slot after a status has reached one of its registers (R114): the register, its pending bit and its token
errors change, and no other register does. -/
def Reached (s t : State) (w : Turn) (r : Reg) (v : Word) (lost : Bool) : Prop :=
  (t.thAt w).get r = held r (.int v) ∧ (∀ k, k ≠ r → (t.thAt w).get k = (s.thAt w).get k)
    ∧ (∀ k : Reg, bit (t.thAt w).pend k.val = (bit (s.thAt w).pend k.val && !decide (k = r ∧ r ≠ 0)))
    ∧ (r ≠ 0 → bit (t.thAt w).tokErr r.val = lost) ∧ (t.thAt w).pc = (s.thAt w).pc ∧ (t.thAt w).vregs = (s.thAt w).vregs
    ∧ (t.thAt w).task = (s.thAt w).task ∧ (t.thAt w).thstat = (s.thAt w).thstat

/-- A thread as a slot holds it when a task begins: R29's registers, everything else of the task zero. -/
structure Begun (k : Task) (a : Thread) : Prop where
  pc : a.pc = k.pc ∧ a.occ = .occupied ∧ a.mode = 0 ∧ bit a.thstat 5 = false
  stack : a.get 2 = { sb := 0xF1, v := 0x400000 }
  args : a.get 4 = .int k.arg ∧ a.get 5 = .int k.s5 ∧ a.get 6 = .int k.s6 ∧ a.get 7 = .int k.s7
  others : ∀ r : Reg, r ≠ 2 → (r.val < 4 ∨ 7 < r.val) → a.get r = .zero
  vector : (∀ r, a.vget r = 0) ∧ (∀ m : Fin 8, m ≠ 0 → a.mget m = 0)
  special : a.fpctl = 0 ∧ a.warn = 0 ∧ a.errinj = 0 ∧ a.srseed = (if k.srseed = 0 then 0x5A17C0DE00000001 else k.srseed)
    ∧ a.domid = word k.domain.toNat ∧ a.evctl = k.evctl &&& 7 ∧ a.tidbase = k.tidbase ∧ a.tidlim = k.tidlim
  task : ∃ x, a.task = some x ∧ x.id = k.id ∧ x.weight = k.weight

/-- A task in a slot that nothing keeps from leaving it. -/
structure Leaves (a : Thread) (k : Task) : Prop where
  task : a.task = some k ∧ k.gangOf = none ∧ a.occ = .occupied
  mode : a.mode = 0 ∧ bit a.thstat 5 = false
  idle : a.outst = [] ∧ a.replay = none ∧ a.failing = none ∧ a.monWait = none ∧ a.topup = false ∧ a.faultWait = none ∧ a.preempt = true
  calm : a.thermals = [] ∧ a.ipend &&& a.ien = 0

end Sys2Proof.Claims

/-- R29, R34, R35, R306, R308, R309, R325, R326: the head of a ready queue enters an empty slot with R29's registers; a task
that has waited is promoted; a pre-empted one leaves with its context; a task beyond its watchdog fails, and its launch
hears of it. -/
def Obligations.TaskEvents : Prop :=
  ∀ (r n : Nat) (s : State) (w : Turn) (k : Task), n < 4 → w = slotAt r n →
    (∀ l, (s.core r).ready = k :: l → l.length ≤ 64 → (s.thAt w).occ = .empty → s.runtimeSlot r n = false → (s.band (r / 16)).resv = none →
      (s.band (r / 16)).power = 0 → (∀ y ∈ (s.core r).parked, y.wait ≠ .none) → k.frame = false → k.live = 0 → k.bound = none →
      k.src ≠ .resume → ∃ t, exec (.slotPlacement r n) s = .next t ∧ (t.core r).ready = l ∧ Begun k (t.thAt w) ∧ OthersKept s t w ∧ Untouched s t)
    ∧ ((s.core r).ready = [k] → k.since + 2 ^ 20 * (k.aged + 1) ≤ s.cycle.toNat → min 7 (k.prio + k.aged) < 7 →
      ∃ t, exec (.priorityAging r k.id) s = .next t ∧ (t.core r).ready = [{ k with aged := k.aged + 1 }] ∧ Untouched s t ∧ Calm s t)
    ∧ (Leaves (s.thAt w) k → (s.core r).frames = [] → 0 < field (s.core r).ctxbase 0 16 → (s.core r).ready = [] → (s.thAt w).dirty = 0 →
      ∃ t y, exec (.preEmption r n) s = .next t ∧ (t.thAt w).occ = .empty ∧ (t.thAt w).task = none ∧ (t.core r).ready = [y] ∧ y.id = k.id
        ∧ y.pc = (s.thAt w).pc ∧ y.frame = true ∧ y.wait = .none ∧ (t.core r).frames = [(0, k.id)]
        ∧ OthersMet s t w)
    ∧ ((s.thAt w).task = some k → k.wdog ≠ 0 → k.wdog * 2 ^ 16 < k.ran + (s.cycle.toNat - k.since) → (s.thAt w).outst = [] →
      (s.thAt w).failing = none → ∃ t, exec (.taskWatchdogExpiry r n) s = .next t ∧ t.thAt w = { s.thAt w with failing := some 0x14 }
        ∧ OthersKept s t w ∧ Untouched s t)
    ∧ (∀ (c : BitVec 8) m x j l, (s.thAt w).failing = some c → (s.thAt w).task = some k → k.wait ≠ .failed → (s.thAt w).outst = [] →
      lookup s.terms k.launch = some m → m.copy = none → m.failed = false → bit m.signal 15 = true → j = field m.signal 0 14 →
      (∀ y ∈ s.msgs, y.forJoin j = false) → (s.queue m.queue).frozen = false → (s.queue m.queue).bound = none → Inv s →
      s.part m.part = some x → (s.core x.spec.sys).vault.zero = [] →
      l = vaultLoc x.spec.sys (x.spec.poolOff + 32 * (k.launch % 2 ^ 32)) →
      ∃ t y, exec (.taskFailureRemoval r n) s = .next t ∧ (t.thAt w).occ = .draining ∧ (t.thAt w).task = some { k with wait := .failed }
        ∧ t.join j = (if bit (s.join j) 63 then s.join j else withField (setBit (s.join j) 63) 40 8 c.toNat) ∧ t.msgs = s.msgs
        ∧ lookup t.terms k.launch = some y ∧ y = { m with failed := true, cause := c } ∧ Stored s t l 32 y.bytes
        ∧ (t.queue m.queue).frozen = true ∧ (t.queue m.queue).fcause = c ∧ OthersMet s t w)
    ∧ (∀ c, (s.thAt w).failing = some c → (s.thAt w).task = some k → k.wait = .failed → (s.thAt w).outst = [] → (s.thAt w).pend = 0 →
      (s.core r).redbuf = [] → (s.core r).frames = [] → (s.core r).mitten = .replicate 4 none → 0 < k.weight →
      ∃ t, exec (.taskFailureRemoval r n) s = .next t ∧ (t.thAt w).occ = .empty ∧ (t.thAt w).task = none
        ∧ t.msgs = s.msgs ++ [.weight k.launch k.weight] ∧ OthersKept s t w ∧ Untouched s t)

/-- R31, R114, R301, R351: the first status that can be delivered reaches its token register; a task parked on it becomes
ready with the value in its record; one that is lost leaves all ones and a token error, and is logged. R26, R194, R297,
R302, R305: a trap and an interrupt of a slot whose instructions have ended enter the handler; an outstanding instruction
that is over goes, and the trap of one that holds a trap is taken with TCAUSE.OUT; a `wfi` ends with an enabled bit. -/
def Obligations.TokensAndSlots : Prop :=
  (∀ (s : State) (x : Status) (l : List Status) (w : Turn), s.statuses = x :: l →
    (x.lost = false → s.seatOf x = some (.slot w) → bit (s.thAt w).errinj 31 = false →
      ∃ t, exec .tokenStatusWrite s = .next t ∧ t.statuses = l ∧ Reached s t w x.reg x.value false ∧ OthersKept s t w ∧ Untouched s t
        ∧ (x.credit = true → (t.core x.rank).credits = (s.core x.rank).credits - 1)
        ∧ (x.credit = false → (t.core x.rank).credits = (s.core x.rank).credits))
    ∧ (∀ r k c, x.lost = false → s.cores = [(r, c)] → c.parked = [k] → c.ready = [] → c.frames = [] → s.seatOf x = some (.parked r k) →
      k.wait = .token x.reg → x.reg ≠ 0 → k.live.toNat = 2 ^ x.reg.val → k.regs.length = 1 → k.mig = false → k.frame = false →
      (s.band (r / 16)).power = 0 → ∃ t y, exec .tokenStatusWrite s = .next t ∧ t.statuses = l ∧ (t.core r).parked = []
        ∧ (t.core r).ready = [y] ∧ y.id = k.id ∧ y.pc = k.pc ∧ y.regs = [.int x.value] ∧ bit y.pend x.reg.val = false ∧ y.wait = .none ∧ Untouched s t)
    ∧ (x.lost = true → s.seatOf x = some (.slot w) → ∃ t, exec .statusUndeliverable s = .next t ∧ t.statuses = l
      ∧ Reached s t w x.reg 0xFFFFFFFFFFFFFFFF true ∧ Untouched s t
      ∧ ∃ e, (t.core x.rank).log.entries.head? = some e ∧ e.kind = 15 ∧ e.detail.toNat = x.reg.val))
  ∧ (∀ (r n : Nat) (s : State) (w : Turn) (a : Thread), n < 4 → w = slotAt r n → a = s.thAt w → a.failing = none → a.mode ≠ 2 →
    (∀ (c : Cause) (v : Word), a.occ = .occupied → a.outst = [] → a.replay = none → bit a.thstat 5 = false →
      c ≠ .watchdog → c ≠ .notPresent → c ≠ .missOvf →
      ∃ t b, exec (.trapEntry r n c v) s = .next t ∧ t.thAt w = b ∧ b.tcause = word c.code ∧ b.tval = v ∧ b.tepc = a.pc.v
        ∧ field b.thstat 56 8 = a.pc.sb.toNat ∧ field b.thstat 10 2 = field a.thstat 8 2 ∧ b.mode = 1 ∧ bit b.thstat 5 = true
        ∧ b.pc = { sb := BitVec.ofNat 8 (field (s.core r).tvec 56 8), v := word (4 * field (s.core r).tvec 2 54) } ∧ b.regs = a.regs
        ∧ OthersKept s t w ∧ Untouched s t)
    ∧ (∀ (c : Cause) (v : Word), a.occ = .occupied → a.outst = [] → a.replay = none → bit a.thstat 5 = true →
      c ≠ .watchdog → c ≠ .notPresent → c ≠ .missOvf →
      ∃ t, exec (.trapEntry r n c v) s = .next t ∧ t.thAt w = { a with failing := some (BitVec.ofNat 8 c.code) } ∧ OthersKept s t w ∧ Untouched s t)
    ∧ (∀ i, i < 6 → a.occ = .occupied → a.outst = [] → a.replay = none → a.resumeTiles = 0 → a.thermals = [] → bit a.thstat 6 = true →
      bit (a.ipend &&& a.ien) i = true → (∀ j, j < i → bit (a.ipend &&& a.ien) j = false) →
      ∃ t b, exec (.interruptEntry r n) s = .next t ∧ t.thAt w = b ∧ b.tcause = word (i + 2 ^ 63) ∧ b.tval = (if i = 2 then a.missTval else 0)
        ∧ b.tepc = a.pc.v ∧ field b.thstat 56 8 = a.pc.sb.toNat ∧ bit b.thstat 7 = true ∧ bit b.thstat 6 = false ∧ b.mode = 1
        ∧ b.pc = { sb := BitVec.ofNat 8 (field (s.core r).tvec 56 8), v := word (4 * field (s.core r).tvec 2 54) } ∧ b.regs = a.regs
        ∧ b.ipend = a.ipend ∧ OthersKept s t w ∧ Untouched s t)
    ∧ (a.wfi = true → a.ipend &&& a.ien ≠ 0 → ∃ t, exec (.wfiWake r n) s = .next t ∧ t.thAt w = { a with wfi := false } ∧ OthersKept s t w
      ∧ Untouched s t)
    ∧ (∀ o, a.outst = [o] → o.wait = .ready →
      (o.trap = none → a.occ ≠ .draining → ∃ t, exec (.outstandingInstructionComplete r n) s = .next t ∧ t.thAt w = { a with outst := [] } ∧ OthersKept s t w
        ∧ Untouched s t)
      ∧ (∀ x, o.trap = some x → a.replay = none → bit a.thstat 5 = false →
        ∃ t b, exec (.outstandingInstructionComplete r n) s = .next t ∧ t.thAt w = b ∧ b.outst = []
          ∧ b.tcause = word (x.cause.code + x.kind.toNat * 0x100 + 0x1000) ∧ b.tval = x.tval ∧ b.tepc = o.pc.v
          ∧ field b.thstat 56 8 = o.pc.sb.toNat ∧ field b.thstat 41 15 = o.done.toNat ∧ b.mode = 1 ∧ b.regs = a.regs ∧ OthersKept s t w
          ∧ Untouched s t)))

/-- R190, R302: `trap` and `trap.brk` enter the handler with TVAL := n and TEPC := their own pc, and change nothing else.
R303: `tret` restores mode, IE and pc, clears INTRAP, LKDONE and SKIPX, and replays a window only where TCAUSE.OUT is set; a
non-zero LK sets WARN.LKIG (R157). R159, R303: `tret` and `wfi` in user mode raise PRIV with the word in TVAL. R156, R158: a
word that the encoding rejects raises ILLEGAL with the word in TVAL and does nothing else. -/
def Obligations.ExceptionsAndReturns : Prop :=
  (∀ (f : FmtTrap) (s : State), MayTrap s →
    (∃ t, exec (.trap f) s = .next t ∧ TrapEntry {} s t .trapI (word f.n.toNat) 0)
    ∧ (∃ t, exec (.trapBrk f) s = .next t ∧ TrapEntry {} s t .brk (word f.n.toNat) 0))
  ∧ (∀ (f : FmtA) (s : State), s.turn.slot ≠ 4 → s.th.mode = 1 → ∃ t, exec (.tret f) s = .next t ∧ Alone s t
    ∧ t.th.mode = field s.th.thstat 10 2 ∧ field t.th.thstat 6 1 = field s.th.thstat 7 1 ∧ field t.th.thstat 5 1 = 0
    ∧ field t.th.thstat 41 15 = 0 ∧ field t.th.thstat 13 1 = 0
    ∧ t.th.pc.sb.toNat = field s.th.thstat 56 8 ∧ t.th.pc.v = s.th.tepc
    ∧ (bit s.th.tcause 12 = false → t.th.replay = none)
    ∧ (f.lk ≠ 0 → bit t.th.warn Warn.lkig.bit = true)
    ∧ Keeps { warn := if f.lk = 0 then [] else [.lkig] } s.th { t.th with thstat := s.th.thstat, resumeTiles := s.th.resumeTiles, replay := s.th.replay })
  ∧ (∀ (f : FmtA) (s : State), MayTrap s → s.supervisor = false →
    (∃ t, exec (.tret f) s = .next t ∧ TrapEntry {} s t .priv (word (encodeNat (.tret f))) 0)
    ∧ (∃ t, exec (.wfi f) s = .next t ∧ TrapEntry {} s t .priv (word (encodeNat (.wfi f))) 0))
  ∧ (∀ (w : BitVec 32) (s : State), MayTrap s → ∃ t, exec (.illegalInstruction w) s = .next t ∧ TrapEntry {} s t .illegal (word w.toNat) 0)

/-! ### Gangs and launches (R36, R37, R269, R310-R323, R327, R328, R359, R360) -/

namespace Sys2Proof.Claims

/-- `n` bytes at an offset of a launch record (R314). -/
def recBytes (x : BitVec 512) (o n : Nat) : Nat := x.toNat / 256 ^ o % 256 ^ n

/-- The tag of a gang's domain, and the cores of its bands (R36). -/
def tagOf (x : Gang) : Nat := recBytes x.record 0xE 2 % 8

def coresOf (x : Gang) : List Nat := x.bands.flatMap (fun b => (List.range 16).map (fun p => b * 16 + p))

/-- A gang whose bands are all reserved and awake, none of whose members runs yet, with no arrival on its tag there. -/
structure Complete (s : State) (g : Nat) (x : Gang) : Prop where
  here : lookup s.gangs g = some x ∧ x.placed = false ∧ x.bands ≠ []
  reserved : ∀ b ∈ x.bands, b ∈ x.reserved ∧ (s.band b).power = 0
  none : ∀ p ∈ s.cores, ∀ n : Fin 5, ∀ k m, p.2.threads[n].task = some k → k.gangOf ≠ some (g, m)
  passed : ∀ r ∈ coresOf x, ¬ pcOf (s.core r) (tagOf x) < acOf (s.core r) (tagOf x)

/-- The members of a gang that wait for it, each on a core of its own with an empty slot that takes tasks. -/
structure Members (s : State) (g : Nat) (l : List (Nat × Task)) : Prop where
  all : s.gangMembers g = l ∧ l ≠ [] ∧ (l.map (·.1)).Nodup
  slots : ∀ m ∈ l, ∃ n, n < 4 ∧ (s.thAt (slotAt m.1 n)).occ = .empty ∧ s.runtimeSlot m.1 n = false
  plain : ∀ m ∈ l, m.2.frame = false ∧ m.2.live = 0 ∧ m.2.bound = none ∧ m.2.src ≠ .resume

/-- Whether a port reaches a queue: the management cores (port 2) reach all (R311), another port those of a partition that
grants it (R374). -/
def PortReaches (s : State) (port q : Nat) : Prop :=
  port = 2 ∨ ∃ p, (s.queue q).bound = some p ∧ bit (s.grant p) (1 + port) = true

/-- The place of record `n` of a partition's pool of termination records (R319). -/
def termLoc (x : Partition) (n : Nat) : Loc := vaultLoc x.spec.sys (x.spec.poolOff + 32 * (n % 2 ^ 32))

/-- A termination record has a value, in the pool too, where the partition of the record stands (R319). -/
def TermPut (s t : State) (n : Nat) (m : Term) : Prop :=
  lookup t.terms n = some m ∧ t.statuses = s.statuses ∧ Calm s t
    ∧ ∀ x, Inv s → s.part m.part = some x → (s.core x.spec.sys).vault.zero = [] → Stored s t (termLoc x n) 32 m.bytes

/-- Nothing but the packet of launch state named by a statement changes: threads and memory are as they were. -/
def LaunchOnly (s t : State) : Prop := Untouched s t ∧ (∀ w, t.thAt w = s.thAt w) ∧ t.statuses = s.statuses

/-- A record for one task on a core of a partition, with no waits and no signal (R314-R316). -/
structure SingleRecord (s : State) (x : Partition) (rec : BitVec 512) (r : Nat) : Prop where
  form : recBytes rec 0x3F 1 = 0 ∧ recBytes rec 0 8 % 4 = 0 ∧ recBytes rec 8 1 ≤ 0xF0 ∧ bit rec 80 = false ∧ recBytes rec 0x28 2 ≤ 256
  joins : ∀ o ∈ [0x18, 0x1A, 0x1C], recBytes rec o 2 < 2 ^ 15
  place : recBytes rec 0xC 2 = r ∧ r ≠ 0xFFFF ∧ r / 1024 = s.dev ∧ r / 16 % 64 ∈ x.spec.bands

/-- The task of a launch record (R316). -/
structure Started (rec : BitVec 512) (launch : Nat) (k : Task) : Prop where
  pc : k.pc = { sb := BitVec.ofNat 8 (recBytes rec 8 1), v := word (recBytes rec 0 8) }
  args : k.arg = word (recBytes rec 0x10 8) ∧ k.prio = recBytes rec 9 1 % 8 ∧ k.domain.toNat = recBytes rec 0xE 2 ∧ k.launch = launch
  weight : k.weight = 2 ^ 63 ∧ k.s5 = 0 ∧ k.s6 = 0 ∧ k.s7 = 0
  registers : k.evctl = word (recBytes rec 0x1F 1 % 8) ∧ k.srseed = word (recBytes rec 0x30 8) ∧ k.tidlim = word (recBytes rec 0x28 2)
    ∧ k.tidbase = word (recBytes rec 0x20 8 / 64 * 64) ∧ k.wdog = recBytes rec 0x2C 4

/-- A redundant launch of two copies, both ended, over images of one row that the partition's table places (R359, R360). -/
structure TwoCopies (s : State) (l : Nat) (d : Redundant) (x : Partition) (a b o : Loc) : Prop where
  here : lookup s.redundants l = some d ∧ s.part d.part = some x
  ended : d.terms = [] ∧ d.cores.length = 2 ∧ d.failedCopies = []
  size : recBytes d.block 0x20 4 = 0x800
  images : s.imageRow x d 0 0 = some a ∧ s.imageRow x d 1 0 = some b ∧ s.sysPlace x (Ptr.ofBytes (recBytes d.block 0 9)) = some o
  vaults : a.region = .vault ∧ b.region = .vault ∧ o.region = .vault ∧ d.blockLoc.region = .vault
  readable : s.unreadable a 0x800 = false ∧ s.unreadable b 0x800 = false
  quiet : ∀ p ∈ s.cores, p.2.redbuf = [] ∧ p.2.vault.zero = [] ∧ p.2.ready.length < 64
  apart : d.blockLoc.key + 0x30 ≤ o.key ∨ o.key + 0x800 ≤ d.blockLoc.key

end Sys2Proof.Claims

/-- R27-R30, R192: `spawn` of an aligned target puts a child behind the ready queue's tasks of its level: the target as pc,
ARG, half the weight, the parent's priority, join, domain and launch, and the live registers as they are at issue. R30,
R192: a target that is no multiple of 4 raises MISALIGN with the target in TVAL and creates nothing; a parent of weight 1
asks for its top-up once and waits. R30, R319: a top-up adds 2^63 to its launch, in the pool too, and is acknowledged; the
acknowledgement adds 2^63 to the task that waits for it. -/
def Obligations.SpawnCreates : Prop :=
  (∀ (f : FmtA) (s : State) (k : Task), s.th.task = some k → (s.th.get f.a).v.toNat % 4 = 0 → 2 ≤ k.weight →
    s.me.ready.length < 64 →
    (((List.range 32).filter (fun n => n ≠ 0 && (s.th.val f.d).getLsbD n)).length ≤ 16) →
    ∃ t c, exec (.spawn f) s = .next t ∧ c ∈ t.me.ready ∧ t.me.ready.length = s.me.ready.length + 1
      ∧ (∀ x ∈ s.me.ready, x ∈ t.me.ready)
      ∧ c.pc = s.th.get f.a ∧ c.arg = s.th.val f.b ∧ c.weight = k.weight / 2 ∧ c.prio = k.prio ∧ c.join = k.join
      ∧ c.launch = k.launch ∧ c.origin = s.turn.rank % 2 ^ 16 ∧ c.id.toNat = s.turn.rank % 2 ^ 16 * 2 ^ 48 + s.me.taskSeq % 2 ^ 48
      ∧ c.regs = ((List.range 32).filter (fun n => n ≠ 0 && (s.th.val f.d).getLsbD n)).map (fun n => s.th.regs.getD n .zero)
      ∧ c.srseed = srNext s.th.srseed ^^^ 0x2545F4914F6CDD1D ∧ t.th.srseed = srNext s.th.srseed
      ∧ (∃ k', t.th.task = some k' ∧ k'.weight = k.weight - k.weight / 2)
      ∧ t.th.regs = s.th.regs ∧ t.th.pc = s.th.pc.add 4 ∧ Untouched s t)
  ∧ (∀ (f : FmtA) (s : State),
    ((s.th.get f.a).v.toNat % 4 ≠ 0 → MayTrap s →
      ∃ t, exec (.spawn f) s = .next t ∧ TrapEntry {} s t .misalign (s.th.val f.a) 0)
    ∧ (∀ k, s.th.task = some k → (s.th.get f.a).v.toNat % 4 = 0 → k.weight = 1 → s.me.ready.length < 64 →
      ∃ t, exec (.spawn f) s = .next t ∧ t.th.pc = s.th.pc ∧ t.me.ready = s.me.ready ∧ t.th.topup = true
        ∧ t.msgs = (if s.th.topup then s.msgs else s.msgs ++ [.topup k.launch s.turn])))
  ∧ (∀ (s : State) (l : List Msg),
    (∀ n w m, s.msgs = .topup n w :: l → lookup s.terms n = some m → ∃ t, exec .topupMessage s = .next t ∧ t.msgs = l ++ [.topupAck w]
      ∧ TermPut s t n { m with outw := m.outw + 2 ^ 63 })
    ∧ (∀ r n k, n < 4 → s.msgs = .topupAck (slotAt r n) :: l → (s.thAt (slotAt r n)).task = some k →
      ∃ t, exec (.spawnTopupAck r n) s = .next t ∧ t.msgs = l ∧ OthersKept s t (slotAt r n) ∧ Untouched s t
        ∧ t.thAt (slotAt r n) = { s.thAt (slotAt r n) with topup := false, task := some { k with weight := k.weight + 2 ^ 63 } }))

/-- R317-R319: a signal counts a join counter down to zero, and a failure poisons it once; a returned weight lowers OUTW, in
the pool too, and one that makes it up ends the launch, which signals, frees its record, and counts in its queue. -/
def Obligations.QueuesAndLaunches : Prop :=
  ∀ (s : State) (l : List Msg),
    (∀ j, s.msgs = .signal j :: l → ∃ t w, exec (.joinSignal j) s = .next t ∧ t.msgs = l ∧ lookup t.joins j = some w
      ∧ field w 0 32 = field (s.join j) 0 32 - 1 ∧ field w 32 32 = field (s.join j) 32 32 ∧ LaunchOnly s t)
    ∧ (∀ (j : Nat) (x : BitVec 8), s.msgs = .failure j x :: l →
      ∃ t w, exec (.joinFailure j (causeNamed x)) s = .next t ∧ t.msgs = l ∧ lookup t.joins j = some w ∧ bit w 63 = true ∧ LaunchOnly s t
        ∧ field w 0 32 = field (s.join j) 0 32
        ∧ field w 40 8 = (if bit (s.join j) 63 then field (s.join j) 40 8 else x.toNat))
    ∧ (∀ n w m, s.msgs = .weight n w :: l → lookup s.terms n = some m → m.copy = none →
      (w < m.outw → ∃ t, exec .weightReturn s = .next t ∧ t.msgs = l ∧ TermPut s t n { m with outw := m.outw - w })
      ∧ (m.outw = w → ∃ t, exec .weightReturn s = .next t ∧ lookup t.terms n = none ∧ LaunchOnly s t
        ∧ (t.queue m.queue).ended = (s.queue m.queue).ended + 1
        ∧ t.msgs = l ++ (if bit m.signal 15 then [.signal (field m.signal 0 14)] else [])))

/-- R36, R37, R269, R323: a gang reserves its bands in order; a core that is late for it asks its lowest task to leave; the
release loads BMASK, places every member and ends the reservations; a load that an arrival holds up beyond the watchdog
withdraws it with BARTO. R315, R316, R319-R322, R359, R360: the dispatcher starts the task of an eligible record on its core
with a termination record of weight 2^63 in the pool, and a malformed record freezes its queue with ILLEGAL; two copies that
agree commit their image, and two that do not start a third. Which record of the pool is taken is the model's choice (DESIGN
CHOICE, log entry 46). -/
def Obligations.GangEvents : Prop :=
  (∀ (g : Nat) (s : State) (x : Gang),
    (∀ b, lookup s.gangs g = some x → x.placed = false → x.bands.find? (fun y => !x.reserved.contains y) = some b → (s.band b).resv = none →
      ∃ t, exec (.gangReservation g b) s = .next t ∧ (t.band b).resv = some g ∧ (t.band b).resvAt = s.cycle.toNat
        ∧ lookup t.gangs g = some { x with reserved := x.reserved ++ [b] } ∧ (∀ k, k ≠ b → t.band k = s.band k) ∧ LaunchOnly s t)
    ∧ (∀ (r m : Nat) (f : Nat → Task), lookup s.gangs g = some x → x.placed = false → (s.band (r / 16)).resv = some g →
      (s.band (r / 16)).resvAt + 2 ^ 16 ≤ s.cycle.toNat → s.runtimeSlot r 0 = false → m < 4 →
      (∀ n, n < 4 → (s.thAt (slotAt r n)).occ = .occupied ∧ (s.thAt (slotAt r n)).preempt = false ∧ (s.thAt (slotAt r n)).task = some (f n)
        ∧ (f n).gang = false ∧ (n ≠ m → (f m).eff < (f n).eff)) → (f m).eff ≤ recBytes x.record 9 1 % 8 →
      ∃ t, exec (.gangReservationTimeout r) s = .next t ∧ t.thAt (slotAt r m) = { s.thAt (slotAt r m) with preempt := true }
        ∧ OthersKept s t (slotAt r m) ∧ Untouched s t)
    ∧ (∀ l, Complete s g x → Members s g l → ∃ t, exec (.gangRelease g) s = .next t ∧ (∃ y, lookup t.gangs g = some y ∧ y.placed = true)
      ∧ (∀ b ∈ x.bands, (t.band b).resv = none) ∧ Untouched s t
      ∧ (∀ r ∈ coresOf x, acOf (t.core r) (tagOf x) = 0 ∧ pcOf (t.core r) (tagOf x) = 0
          ∧ field ((t.core r).bmask.getD (tagOf x) 0) 0 16 = x.bands.headD 0 * 16 % 2 ^ 16
          ∧ (x.bands.length = 1 → field ((t.core r).bmask.getD (tagOf x) 0) 16 3 = 2)
          ∧ field ((t.core r).bmask.getD (tagOf x) 0) 36 4 = field ((s.core r).bmask.getD (tagOf x) 0) 36 4)
      ∧ (∀ m ∈ l, ∃ n, n < 4 ∧ (s.thAt (slotAt m.1 n)).occ = .empty ∧ Begun m.2 (t.thAt (slotAt m.1 n))))
    ∧ (∀ (r n t0 : Nat) (a : Thread), lookup s.gangs g = some x → x.loadAt = some t0 → r ∈ coresOf x → n < 4 → a = s.thAt (slotAt r n) →
      pcOf (s.core r) (tagOf x) < acOf (s.core r) (tagOf x) → (s.core r).sstep = [] →
      (∃ k ∈ s.groupOf r (tagOf x), ¬ pcOf (s.core k) (tagOf x) < acOf (s.core k) (tagOf x)) →
      t0 + 2 ^ (field ((s.core r).bmask.getD (tagOf x) 0) 36 4 + 12) < s.cycle.toNat →
      (∃ c, a.waitSince = some (c, tagOf x)) → (∀ k, k < 4 → k ≠ n → (s.thAt (slotAt r k)).waitSince = none) → a.outst = [] → a.mode ≠ 2 →
      a.replay = none → bit a.thstat 5 = false →
      ∃ t, exec (.gangBmaskLoadTimeout r g) s = .next t ∧ acOf (t.core r) (tagOf x) = acOf (s.core r) (tagOf x) - 1
        ∧ (t.thAt (slotAt r n)).tcause = word (0x17 + 0x800) ∧ (t.thAt (slotAt r n)).tval = word (tagOf x)
        ∧ (t.thAt (slotAt r n)).tepc = a.pc.v ∧ (t.thAt (slotAt r n)).waitSince = none ∧ OthersKept s t (slotAt r n) ∧ Untouched s t))
  ∧ ((∀ (p q r : Nat) (s : State) (x : Partition) (y : WorkQueue) (rec : BitVec 512), lookup s.parts p = some x → x.next ≤ s.cycle.toNat →
    s.queues = [(q, y)] → y.bound = some p → y.frozen = false → y.redundant = false → y.recs = [rec] →
    (SingleRecord s x rec r → s.terms = [] → 0 < x.spec.pool → (s.core r).ready = [] → (s.band (r / 16)).power = 0 →
      ∃ t k n m, exec (.dispatch p) s = .next t ∧ (t.queue q).recs = [] ∧ (t.core r).ready = [k] ∧ Started rec n k
        ∧ k.id.toNat = r % 2 ^ 16 * 2 ^ 48 + (s.core r).taskSeq % 2 ^ 48 ∧ (t.core r).taskSeq = (s.core r).taskSeq + 1
        ∧ n % 2 ^ 32 = 0 ∧ lookup t.terms n = some m ∧ m.outw = 2 ^ 63 ∧ m.failed = false ∧ m.queue = q ∧ m.part = p ∧ m.copy = none
        ∧ (Inv s → (s.core x.spec.sys).vault.zero = [] → Stored s t (termLoc x n) 32 m.bytes))
    ∧ (recBytes rec 0x3F 1 ≠ 0 → recBytes rec 0x1C 2 < 2 ^ 15 → ∃ t, exec (.dispatch p) s = .next t ∧ (t.queue q).recs = []
      ∧ (t.queue q).frozen = true ∧ (t.queue q).fcause = 0x01 ∧ t.terms = s.terms ∧ Untouched s t))
  ∧ (∀ (l : Nat) (s : State) (d : Redundant) (x : Partition) (a b o : Loc), Inv s → TwoCopies s l d x a b o →
    (s.peek a 0x800 = s.peek b 0x800 → ∃ t, exec (.redundantCompare l) s = .next t ∧ t.peek o 0x800 = s.peek a 0x800
      ∧ t.peek (d.blockLoc.plus 0x28) 8 = 0 ∧ Calm s t ∧ lookup t.redundants l = none
      ∧ (t.queue d.queue).ended = (s.queue d.queue).ended + 1
      ∧ t.msgs = s.msgs ++ (if 2 ^ 15 ≤ recBytes d.record 0x1C 2 then [.signal (recBytes d.record 0x1C 2 % 2 ^ 14)] else []))
    ∧ (s.peek a 0x800 ≠ s.peek b 0x800 → s.freeTerms d.part x ≠ 0 → ∃ t d' n m, exec (.redundantCompare l) s = .next t
      ∧ lookup t.redundants l = some d' ∧ d'.terms = [n] ∧ d'.cores.length = 3 ∧ lookup t.terms n = some m ∧ m.outw = 2 ^ 63
      ∧ m.copy = some (l, 2) ∧ Stored s t (termLoc x n) 32 m.bytes ∧ t.msgs = s.msgs
      ∧ ∃ e, (t.core x.spec.sys).log.entries.head? = some e ∧ e.kind = 11)))

/-! ### Hosts, links and recovery (R111, R356-R358, R361, R374-R377, R379, R380, R385, R386) -/

namespace Sys2Proof.Claims

/-- A thread has not changed but for a monitor that is met, with what its wait has seen. -/
def Met (s t : State) (w : Turn) : Prop :=
  ∃ h m, t.thAt w = { s.thAt w with monHit := h, monWait := m } ∧ m.map unseen = (s.thAt w).monWait.map unseen

/-- A port that may use a partition (R374). -/
def HostMay (s : State) (port p : Nat) : Prop := port < 2 ∧ bit (s.grant p) (1 + port) = true

/-- The newest entry of a core's error log has a kind (R351). -/
def LogHead (t : State) (r : Nat) (kind : Nat) : Prop := ∃ e, (t.core r).log.entries.head? = some e ∧ e.kind.toNat = kind

/-- What a port shows. -/
def portAt (s : State) (port : Nat) : Port := s.ports.getD port { ver := 0, enumerated := false, read := 0, readErr := false }

/-- Nothing delays an access of a host to 8 bytes of a vault that the window reaches (R375). -/
structure Windowed (s : State) (port r off : Nat) : Prop where
  port : port < 2
  granted : ∃ p, s.partOf r = some p ∧ bit (s.grant p) 3 = true
  inside : off % 8 = 0 ∧ off + 8 ≤ 0x3E000000
  met : s.meets false (vaultLoc r off) = .nothing
  reds : ∀ p ∈ s.cores, p.2.redbuf = []
  mapped : (s.core r).vault.zero = []

/-- The wake time of a power state, in ns (R383). -/
def wakeTime (lvl : Nat) : Nat := [0, 50, 5000, 200000, 20000000].getD lvl 0

/-- The one image of a domain on the one core that holds it, with one row in the journal, ready to be restored (R357, R358). -/
structure Restorable (s : State) (dom : Word) (r : Nat) (i : CkptImage) (j : JournalRow) : Prop where
  due : dom ∈ s.rollbackDue ∧ s.rollbackReady dom = true ∧ s.domainMembers dom = [r]
  image : (s.core r).ckpt = [i] ∧ i.dom = dom ∧ i.count < 2 ∧ i.frames = []
  cells : (∀ c ∈ i.cells, c.1 < 0x340000) ∧ ∀ l ∈ i.stackCells, ∀ c ∈ l, c.1 < 0x400000
  journal : (s.core r).vault.journal = [j] ∧ j.dom = dom ∧ j.row < 0x7C000
  mapped : (s.core r).vault.zero = [] ∧ (s.core r).frames = [] ∧ r < 65536
  none : s.terms = [] ∧ (s.core r).ready = [] ∧ i.ready = []
  slots : ∀ n, n < 4 → (s.thAt (slotAt r n)).occ = .empty ∨ (s.thAt (slotAt r n)).inDomain dom = true

end Sys2Proof.Claims

/-- R374-R376, R385, R386: a doorbell stores its value and then sets HOSTDB; the vault window reads and writes 8 bytes or
answers unsupported; a write of a tolerance wakes the bands that would wake too late; a port resets alone. A port without a
grant changes nothing. R310-R313, R317, R327, R374: a whole record enters its queue, in the overflow region past sixteen,
and a piece, or one too many, is dropped and counted; a queue that has failed is resumed, or flushed with its records
cancelled; a port that may writes a counter. Where a record lies in the overflow region is the model's choice (DESIGN
CHOICE, log entry 46). -/
def Obligations.HostEvents : Prop :=
  ((∀ (port p : Nat) (v : Word) (s : State),
    (¬ HostMay s port p → exec (.hostDoorbell port p v) s = .next s ∧ exec (.ltolWrite port p v) s = .next s)
    ∧ (∀ x, HostMay s port p → s.part p = some x → Inv s → (∀ y ∈ s.cores, y.2.redbuf = []) → (s.core x.spec.sys).vault.zero = [] →
      ∃ t, exec (.hostDoorbell port p v) s = .next t ∧ Stored s t (vaultLoc x.spec.sys x.spec.mailbox) 8 v.toNat
        ∧ bit (t.thAt (slotAt x.spec.sys 0)).ipend 4 = true ∧ (∀ w, w ≠ slotAt x.spec.sys 0 → Met s t w)
        ∧ (t.thAt (slotAt x.spec.sys 0)).pc = (s.thAt (slotAt x.spec.sys 0)).pc)
    ∧ (∀ x, HostMay s port p → p < 16 → s.part p = some x →
      ∃ t, exec (.ltolWrite port p v) s = .next t ∧ field (t.ltol.getD p 0) 0 32 = v.toNat % 2 ^ 32 ∧ t.cores = s.cores ∧ t.mem = s.mem
        ∧ (∀ k, k ≠ p → t.ltol.getD k 0 = s.ltol.getD k 0)
        ∧ ∀ b ∈ x.spec.bands, ∀ z, z = s.band (s.dev * 64 + b) → z.power < 5 →
            t.band (s.dev * 64 + b) = { z with waking := z.waking || decide (v.toNat % 2 ^ 32 < wakeTime z.power) }))
  ∧ (∀ (port r off : Nat) (v : Word) (s : State),
    (Windowed s port r off → (s.unreadable (vaultLoc r off) 8 = false →
        ∃ t, exec (.vaultWindowRead port r off) s = .next t ∧ (portAt t port).read = word (s.peek (vaultLoc r off) 8)
          ∧ (portAt t port).readErr = false ∧ Untouched s t ∧ ∀ w, t.thAt w = s.thAt w)
      ∧ (s.unreadable (vaultLoc r off) 8 = true → ∃ t, exec (.vaultWindowRead port r off) s = .next t ∧ (portAt t port).readErr = true
          ∧ (portAt t port).read = (portAt s port).read ∧ Untouched s t)
      ∧ (Inv s → ∃ t, exec (.vaultWindowWrite port r off v) s = .next t ∧ Stored s t (vaultLoc r off) 8 v.toNat
          ∧ (portAt t port).readErr = false ∧ ∀ w, Met s t w))
    ∧ (port < 2 → (s.partOf r = none ∨ (∃ p, s.partOf r = some p ∧ bit (s.grant p) 3 = false) ∨ 0x3E000000 ≤ off) →
      ∀ c ∈ ([.vaultWindowRead port r off, .vaultWindowWrite port r off v] : List Instr),
        ∃ t, exec c s = .next t ∧ (portAt t port).readErr = true ∧ t = { s with ports := t.ports } ∧ ∀ k, k ≠ port → portAt t k = portAt s k))
  ∧ (∀ (port : Nat) (s : State), port < 2 → ∃ t, exec (.hostPortReset port) s = .next t ∧ t = { s with ports := t.ports }
      ∧ (portAt t port).ver = 0 ∧ (portAt t port).enumerated = false ∧ ∀ k, k ≠ port → portAt t k = portAt s k))
  ∧ (∀ (port q : Nat) (s : State) (x : WorkQueue), x = s.queue q →
    (∀ rec, PortReaches s port q → x.bound.isSome = true → x.recs.length < 16 + x.ovcap → ∃ t, exec (.lrec port q 0 64 rec) s = .next t
      ∧ t.queue q = { x with recs := x.recs ++ [rec] } ∧ (∀ k, k ≠ q → t.queue k = s.queue k) ∧ t.statuses = s.statuses ∧ Calm s t
      ∧ (x.recs.length < 16 → LaunchOnly s t)
      ∧ (∀ p y o, x.bound = some p → s.part p = some y → lookup y.spec.overflow q = some o → 16 ≤ x.recs.length → Inv s →
          t.peek (vaultLoc y.spec.sys (o + 64 * (x.recs.length - 16))) 64 = rec.toNat))
    ∧ (∀ off size rec, (off ≠ 0 ∨ size ≠ 64 ∨ x.bound = none ∨ 16 + x.ovcap ≤ x.recs.length) → ∃ t,
      exec (.lrec port q off size rec) s = .next t
      ∧ t.queue q = { x with drops := min 0xFFFF (x.drops + 1) } ∧ (∀ k, k ≠ q → t.queue k = s.queue k) ∧ LaunchOnly s t)
    ∧ (PortReaches s port q → x.frozen = true → ∃ t, exec (.qctlResume port q) s = .next t
      ∧ t.queue q = { x with frozen := false, fcause := 0 } ∧ t.msgs = s.msgs ∧ LaunchOnly s t)
    ∧ (PortReaches s port q → x.frozen = true → ∃ t, exec (.qctlFlush port q) s = .next t
      ∧ t.queue q = { x with recs := [], frozen := false, fcause := 0, since := none } ∧ LaunchOnly s t
      ∧ (∀ rec j w, x.recs = [rec] → 2 ^ 15 ≤ recBytes rec 0x1C 2 → j = recBytes rec 0x1C 2 % 2 ^ 14 → w = s.join j →
          (∀ y ∈ s.msgs, y.forJoin j = false) → t.msgs = s.msgs ∧ bit (t.join j) 63 = true ∧ field (t.join j) 0 32 = field w 0 32 - 1
          ∧ field (t.join j) 40 8 = (if bit w 63 then field w 40 8 else x.fcause.toNat)))
    ∧ (PortReaches s port q → ∃ t, exec (.qctlClearDrops port q) s = .next t ∧ t.queue q = { x with drops := 0 } ∧ t.msgs = s.msgs ∧ LaunchOnly s t)
    ∧ (∀ (j : Nat) (v : Word), j < 16384 →
      (port = 2 ∨ ∃ p y, s.parts = [(p, y)] ∧ y.spec.counterBase ≤ j ∧ j < y.spec.counterBase + y.spec.counterCount
        ∧ bit (s.grant p) (1 + port) = true) → ∃ t w, exec (.joinCounterWrite port j v) s = .next t ∧ lookup t.joins j = some w
        ∧ field w 0 32 = field v 0 32 ∧ field w 40 8 = field v 40 8 ∧ bit w 63 = bit v 63 ∧ w &&& 0x7FFF00FF00000000 = 0
        ∧ (∀ k, k ≠ j → t.join k = s.join k) ∧ LaunchOnly s t))

/-- R361, R377, R379-R381: ports and links come up at a version both ends have, and stay down with an entry of kind 9 where
there is none; a link lowers its rate one step with kind 8, fails at its lowest, and is retrained. Which partitions log it
is a DESIGN CHOICE, log entry 50. -/
def Obligations.LinkEvents : Prop :=
  ∀ (s : State) (p : Nat) (x : Partition), s.parts = [(p, x)] →
    (∀ port v, port < 2 →
      (v ∈ [5, 6, 7, 0x20, 0x30] → ∃ t, exec (.hostPortTraining port v) s = .next t ∧ (portAt t port).ver = v ∧ t = { s with ports := t.ports }
        ∧ (∀ k, k ≠ port → portAt t k = portAt s k) ∧ field (t.ifver port) 24 8 = v)
      ∧ (v ∉ [5, 6, 7, 0x20, 0x30] → bit (s.grant x.spec.id) (1 + port) = true → ∃ t, exec (.hostPortTraining port v) s = .next t
        ∧ (portAt t port).ver = 0 ∧ LogHead t x.spec.sys 9 ∧ Untouched s t))
    ∧ (∀ port v, port < 8 → (v = 2 ∨ v = 3 → ∃ t, exec (.secondTierPortUp port v) s = .next t ∧ t = { s with tiers := t.tiers }
        ∧ t.tiers.getD port 0 = v ∧ ∀ k, k ≠ port → t.tiers.getD k 0 = s.tiers.getD k 0)
      ∧ (v ≠ 2 → v ≠ 3 → 0 < x.spec.tierFrames → ∃ t, exec (.secondTierPortUp port v) s = .next t ∧ t.tiers = s.tiers ∧ LogHead t x.spec.sys 9
        ∧ Untouched s t)
      ∧ (2 ≤ s.tiers.getD port 0 → 0 < x.spec.tierFrames → ∃ t, exec (.secondTierPortDown port) s = .next t ∧ LogHead t x.spec.sys 9
        ∧ Untouched s t ∧ ∀ l n q, l.region = .tier2 q → t.unreadable l n = true))
    ∧ (∀ k l, k < 12 → l = s.links.getD k .reset → l.up = true →
      (∀ e ∈ [(3, 224, 168), (3, 168, 112), (3, 112, 56), (2, 112, 56)], l.gen = e.1 → l.rate = e.2.1 →
        ∃ t, exec (.linkRateLower k) s = .next t ∧ t.links.getD k .reset = { l with rate := e.2.2 } ∧ LogHead t x.spec.sys 8 ∧ t.fabric = s.fabric
          ∧ Untouched s t)
      ∧ (l.rate = 56 → (l.gen = 2 ∨ l.gen = 3) →
        ((∃ m, m < 12 ∧ m ≠ k ∧ (s.links.getD m .reset).up = true) → ∃ t, exec (.linkDown k) s = .next t ∧ (t.links.getD k .reset).up = false
          ∧ t.fabric = true ∧ LogHead t x.spec.sys 9 ∧ Untouched s t)
        ∧ (∀ q c rq, (∀ m, m < 12 → m ≠ k → (s.links.getD m .reset).up = false) → x.spec.sys / 1024 = s.dev →
          s.cores.filter (fun y => decide (y.1 / 1024 ≠ s.dev) && decide (y.1 < 65536)) = [(q, c)] → s.core q = c → c.agent.requests = [rq] →
          c.agent.current = none → rq.rank / 1024 = s.dev → rq.engine = none → ∃ t y, exec (.linkDown k) s = .next t ∧ t.fabric = false
            ∧ (t.agent q).requests = [] ∧ t.statuses = s.statuses ++ [y] ∧ y.rank = rq.rank ∧ y.reg = rq.reg ∧ y.value = 0x0F ∧ y.lost = false
            ∧ Untouched s t)))
    ∧ (∀ k l r, k < 12 → l = s.links.getD k .reset → ((l.gen = 3 ∧ r ∈ [224, 168, 112, 56]) ∨ (l.gen = 2 ∧ r ∈ [112, 56])) →
      ∃ t, exec (.linkRetrain k r) s = .next t ∧ t.links.getD k .reset = { l with rate := r, up := true } ∧ t.fabric = true
        ∧ t.cores = s.cores ∧ t.mem = s.mem)

/-- R111, R184, R356-R358: the oldest deferred reduction is applied at its home, and a recall applies all of a granule; a
rollback writes the journalled rows back and restores the image, and the third of one superstep, or one without an image,
fails the domain's tasks. -/
def Obligations.RecoveryEvents : Prop :=
  (∀ (r : Nat) (s : State) (e : RedEntry) (l : List RedEntry), Inv s → (s.core r).redbuf = e :: l → Settled s r e.loc → e.nv = [] →
    e.loc.region ≠ .control → e.loc.builtIn = false → s.fixedLoc e.loc = false → s.look e.loc e.width = s.peek e.loc e.width →
    (e.loc.region = .vault → (s.core e.loc.home).vault.zero.find? (fun z => decide (z.1 = e.loc.off / 0x10000)) = none) →
    ckptDom (s.thAt { rank := r, slot := e.last }).domid = false → e.width ∈ [4, 8] →
    ∀ k ∈ [(0, Instr.amoAdd), (1, .amoFadd), (2, .amoSmin), (3, .amoSmax), (4, .amoFmin), (5, .amoFmax)],
      e.op = k.1 → ∀ a ∈ amoTable, (∀ f, a.1 f = k.2 f) → ∀ v nv, a.2 e.width (s.peek e.loc e.width) (e.val % 256 ^ e.width) 0 = (some v, nv) →
      e.val < 256 ^ e.width →
      (∃ t, exec (.reductionFlush r) s = .next t ∧ (t.core r).redbuf = l ∧ Stored s t e.loc e.width v
        ∧ (∀ i, i < 13 → i ≠ 12 → bit (t.thAt { rank := r, slot := e.last }).fpctl i = bit (s.thAt { rank := r, slot := e.last }).fpctl i)
        ∧ bit (t.thAt { rank := r, slot := e.last }).fpctl 12 = (bit (s.thAt { rank := r, slot := e.last }).fpctl 12 || nv))
      ∧ (∀ g c, l = [] → s.cores = [(r, c)] → e.loc = vaultLoc r (g % 2 ^ 24 * 64 + e.loc.off % 64) → r < 65536 →
        ∃ t, exec (.reductionRecall r g) s = .next t ∧ (t.core r).redbuf = [] ∧ Stored s t e.loc e.width v))
  ∧ (∀ (dom : Word) (s : State) (r : Nat) (i : CkptImage) (j : JournalRow), Inv s → Restorable s dom r i j →
    ∃ t, exec (.rollback dom) s = .next t ∧ dom ∉ t.rollbackDue ∧ t.peek (vaultLoc r (j.row * 0x800)) 0x800 = j.old % 256 ^ 0x800
      ∧ (t.core r).vault.journal = [] ∧ (t.core r).ckpt = [{ i with count := i.count + 1 }] ∧ (t.core r).sstepCount dom = i.sstepn
      ∧ (∀ n : Fin 8, (t.core r).queues[n] =
          (if i.queues[n].dom = dom ∨ (s.core r).queues[n].dom = dom then i.queues[n] else (s.core r).queues[n]))
      ∧ (∀ x, x ∈ (t.core r).ranges ↔ (x ∈ i.ranges ∧ x.dom = dom) ∨ (x ∈ (s.core r).ranges ∧ x.dom ≠ dom))
      ∧ (∀ (n : Fin 4) m, i.mitten[n] = some m → (∃ k ∈ i.tasks, k.id = m.task) → (t.core r).mitten[n] = some m)
      ∧ ((t.core r).log.entries.head?.map (fun e => (e.kind.toNat, e.fl.toNat, e.detail.toNat)) = some (13, 4, dom.toNat % 2 ^ 16))
      ∧ ∀ n, n < 4 → ∀ k : Fin 5, k.val = n → i.threads[k].inDomain dom = true →
          (t.thAt (slotAt r n)).pc = i.threads[k].pc ∧ (t.thAt (slotAt r n)).regs = i.threads[k].regs ∧ (t.thAt (slotAt r n)).occ = i.threads[k].occ)
  ∧ (∀ (dom : Word) (s : State) (r : Nat) (i : CkptImage), dom ∈ s.rollbackDue → s.rollbackReady dom = true → s.domainMembers dom = [r] →
    ((s.core r).ckpt = [] ∨ ((s.core r).ckpt = [i] ∧ i.dom = dom ∧ 2 ≤ i.count)) →
    ∃ t, exec (.rollback dom) s = .next t ∧ dom ∉ t.rollbackDue ∧ LogHead t (s.sysCore r) 12
      ∧ (s.terms = [] → (s.core r).ready.length ≤ 64 → Untouched s t)
      ∧ ∀ n, n < 4 → ∀ k, (s.thAt (slotAt r n)).task = some k → k.inDomain dom = true → (s.thAt (slotAt r n)).failing = none →
          (t.thAt (slotAt r n)).failing = some (Cause.byte .uncorr))

/-! ### Translation and paging (R330-R344) -/

namespace Sys2Proof.Claims

/-- A four-level walk of R330 from PTBASE for a page: the homes and offsets of the entries of levels 3 to 0, three pointers and a
64 KiB leaf in a vault, valid and well formed for a core (R331, R332); nothing delays a read of them (R337). -/
structure Chain (s : State) (r : Nat) (ptbase : Word) (vpn : Nat) (h o : Nat → Nat) (e : Word) : Prop where
  on : bit ptbase 0 = true
  root : h 3 = field ptbase 48 16 ∧ o 3 = field ptbase 17 13 * 2 ^ 17 + 8 * (vpn / 2 ^ 42 % 2 ^ 14)
  down : ∀ k, k < 3 → ∀ w, w = word (s.peek (vaultLoc (h (k + 1)) (o (k + 1))) 8) → bit w 63 = true ∧ field w 50 2 = 3
    ∧ h k = field w 27 16 ∧ o k = field w 0 13 * 2 ^ 17 + 8 * (vpn / 2 ^ (14 * k) % 2 ^ 14)
  leaf : e = word (s.peek (vaultLoc (h 0) (o 0)) 8) ∧ bit e 63 = true ∧ field e 50 2 = 0
  formed : field e 61 2 = 0 ∧ field e 0 27 < 0x3E00 ∧ s.reaches r (field e 27 16) = true
  still : ∀ k, k < 4 → s.meets false (vaultLoc (h k) (o k)) true = .nothing

/-- How a walk of a core fails: the cause and the reason of R340. -/
def WalkFails (s : State) (r : Nat) (ga : Ptr) (acc : Access) (priv : Bool) (cause reason : Nat) : Prop :=
  (cause = 5 ∧ reason = 4 ∧ bit (s.core r).ptbase 0 = false)
  ∨ (cause = 5 ∧ reason = 0 ∧ bit (s.core r).ptbase 0 = true
      ∧ s.meets false (vaultLoc (field (s.core r).ptbase 48 16)
          (field (s.core r).ptbase 17 13 * 2 ^ 17 + 8 * (vpnOf ga / 2 ^ 42 % 2 ^ 14))) true = .nothing
      ∧ bit (word (s.peek (vaultLoc (field (s.core r).ptbase 48 16)
          (field (s.core r).ptbase 17 13 * 2 ^ 17 + 8 * (vpnOf ga / 2 ^ 42 % 2 ^ 14))) 8)) 63 = false)
  ∨ (cause = 6 ∧ reason = 1 ∧ ∃ h o e, Chain s r (s.core r).ptbase (vpnOf ga) h o e ∧ permits e acc priv = false)

/-- A thread of a slot that can take a walk of its core, whose TLB and walk cache hold nothing. -/
structure Walks (s : State) (r : Nat) (a : Thread) (ga : Ptr) : Prop where
  global : ga.sb.toNat < 0xF0
  thread : a.occ = .occupied ∧ a.outst = [] ∧ a.failing = none ∧ a.faultWait = none
  cold : (s.core r).utlb = [] ∧ (s.core r).tlb = [] ∧ (s.core r).wcache = []

/-- The place of entry `k` of a fault queue, and its 32 bytes for a thread (R340). -/
def faultSlot (x : Partition) (k : Nat) : Loc := vaultLoc x.spec.sys (x.spec.faultOff + 32 * k)

def faultBytes (ga : Ptr) (cause kind reason slot rank asid : Nat) (task : Word) : Nat :=
  ga.v.toNat + ga.sb.toNat * 2 ^ 64 + cause * 2 ^ 72 + (kind + 16 * reason) * 2 ^ 80 + slot * 2 ^ 88 + rank * 2 ^ 96 + asid * 2 ^ 112
    + task.toNat * 2 ^ 128 + 0xFFFF * 2 ^ 192 + 2 ^ 240

/-- An entry that supervisor software has resolved, the next of its partition in the order of those stores, and nothing but the
tasks of one core waits (R341). -/
structure Resolved (s : State) (p : Nat) (x : Partition) (k res : Nat) (r : Nat) (c : Core) : Prop where
  next : ∀ j, (p, j) ∈ s.resolves → j = k
  live : k < 2 ^ x.spec.faultK ∧ s.peek ((faultSlot x k).plus 0x1E) 1 ≠ 0 ∧ s.peek ((faultSlot x k).plus 0x1F) 1 = res ∧ res ≠ 0
  only : s.cores = [(r, c)] ∧ s.engines = [] ∧ c.agent.parkedReqs = [] ∧ c.ready = []
  mapped : (s.core x.spec.sys).vault.zero = []

/-- Handler 9 of a privileged request for a 64 KiB page in the vault of its home, whose leaf is `e` (R344). -/
structure MoveAsked (s : State) (r : Nat) (rq : Rpc) (l : Loc) (e : Word) : Prop where
  serves : Serves s r 9 rq
  priv : rq.priv = true ∧ rq.loc.region = .vault
  leaf : l = vaultLoc (field rq.op1 48 16) (field rq.op1 0 30 / 8 * 8) ∧ e = word (s.peek l 8) ∧ field e 50 2 = 0

/-- The leaf can move: valid, not moving, here, with a free redirect entry and no use in flight. -/
structure Movable (s : State) (r : Nat) (rq : Rpc) (e : Word) : Prop where
  idle : lookup (s.core r).vault.inflight (rq.loc.off / 0x10000) = none
  valid : bit e 63 = true ∧ bit e 60 = false ∧ field e 27 16 = r ∧ s.reaches r (field rq.op1 48 16) = true
  room : (s.agent r).redirects.length < 32

/-- TIER, HOME and FRAME of two words agree (R331). -/
def SamePlace (a b : Word) : Prop := field a 61 2 = field b 61 2 ∧ field a 27 16 = field b 27 16 ∧ field a 0 27 = field b 0 27

/-- An active page command (R161, R336). -/
structure PageCmd (s : State) (e : Nat) (c : Cmd) (op : Bool) : Prop where
  active : (s.engine e).active = some c
  code : field c.word 248 8 = 7 ∧ bit c.word 240 = op ∧ c.cancel = false
  src : c.src.sb.toNat < 0xF0 ∧ c.src.v.toNat % 0x10000 = 0

/-- Whether a shootdown names `n` pages from `v` of an ASID (R338). -/
def shotAt (c : Cmd) (v n asid : Nat) (global : Bool) : Bool :=
  decide (vpnOf c.src < v + n) && decide (v < vpnOf c.src + field c.word 32 16)
    && (bit c.word 241 || global || decide (asid = field c.word 0 16))

/-- Pages of a translation by SZ (R332). -/
def pagesOf (sz : Nat) : Nat := if sz = 1 then 32 else if sz = 2 then 0x4000 else 1

end Sys2Proof.Claims

/-- R336, R343, R344: a MOVE sends handler 9 with its placement and the place of the leaf; the home refuses with HCODE 1 to
4 or sets MIG, streams rows, rewrites the leaf, keeps a redirect entry and replies with the rows moved; a redirect notice
mends a TLB. -/
def Obligations.PageMoves : Prop :=
  (∀ (e : Nat) (s : State) (c : Cmd), PageCmd s e c false → c.shot = false →
    (∀ h o w, Chain s c.rank c.ptbase (vpnOf c.src) h o w → (s.agent (field w 27 16)).moving = none →
      (s.agent (field w 27 16)).redirects = [] →
      ∃ t rq, exec (.cmdPageMigrateMove e) s = .next t ∧ (t.engine e).active = some { c with shot := true } ∧ rq.h = 9
        ∧ (t.agent (field w 27 16)).requests = (s.agent (field w 27 16)).requests ++ [rq] ∧ rq.op0 = c.dst.v ∧ rq.op1 = word (h 0 * 2 ^ 48 + o 0)
        ∧ rq.tgt = c.src ∧ rq.loc = vaultLoc (field w 27 16) (field w 0 27 * 0x10000) ∧ rq.engine = some e ∧ rq.priv = c.priv
        ∧ Untouched s t ∧ Calm s t)
    ∧ (bit c.ptbase 0 = false → ∃ t x, exec (.cmdPageMigrateMove e) s = .next t ∧ (t.engine e).active = none ∧ t.statuses = s.statuses ++ [x]
        ∧ x.rank = c.rank ∧ x.reg = c.tok ∧ x.value = 0x200 ∧ Untouched s t ∧ Calm s t))
  ∧ (∀ (r : Nat) (s : State) (rq : Rpc) (l : Loc) (e : Word), Inv s → MoveAsked s r rq l e →
    (Movable s r rq e → field rq.op0 61 2 = 0 → field rq.op0 0 27 < 0x3E00 → s.reaches r (field rq.op0 27 16) = true → ¬ SamePlace rq.op0 e →
      ∃ t m, exec (.migrateOut r) s = .next t ∧ Stored s t l 8 (e.toNat ||| 2 ^ 60) ∧ (t.agent r).moving = some m ∧ m.rq = rq
        ∧ m.frame = rq.loc.off / 0x10000 ∧ m.frames = 1 ∧ m.rows = 0 ∧ m.moved = 0 ∧ SamePlace m.place rq.op0 ∧ m.leafHome = l.home ∧ m.leafOff = l.off
        ∧ (t.agent r).requests = (s.agent r).requests.erase rq ∧ t.statuses = s.statuses ∧ Calm s t)
    ∧ (∀ hc, (hc = 1 ∧ ∃ n, lookup (s.core r).vault.inflight (rq.loc.off / 0x10000) = some n ∧ n ≠ 0)
        ∨ (hc = 2 ∧ lookup (s.core r).vault.inflight (rq.loc.off / 0x10000) = none ∧ (bit e 63 = false ∨ bit e 60 = true))
        ∨ (hc = 3 ∧ lookup (s.core r).vault.inflight (rq.loc.off / 0x10000) = none ∧ bit e 63 = true ∧ bit e 60 = false ∧ field e 27 16 = r
            ∧ s.reaches r (field rq.op1 48 16) = true ∧ 32 ≤ (s.agent r).redirects.length)
        ∨ (hc = 4 ∧ Movable s r rq e ∧ (SamePlace rq.op0 e ∨ field rq.op0 61 2 = 3)) →
      ∃ t, exec (.migrateOut r) s = .next t ∧ Answered s t r rq 0 hc 0 0 ∧ Untouched s t ∧ Calm s t ∧ (t.agent r).moving = none))
  ∧ (∀ (r : Nat) (s : State) (m : Moving) (l : Loc) (z : Word), Inv s → (s.agent r).moving = some m → m.frames = 1 → m.rows = 32 →
    (s.agent r).held = [] → m.rq.engine = none → m.moved < 2 ^ 32 → l = vaultLoc m.leafHome m.leafOff → z = word (s.peek l 8) →
    ∃ t y x q, exec (.migrateOut r) s = .next t ∧ Stored s t l 8 y.toNat ∧ SamePlace y m.place ∧ bit y 60 = false
      ∧ (∀ i, 43 ≤ i → i < 60 → bit y i = bit z i) ∧ bit y 63 = bit z 63 ∧ (t.agent r).moving = none
      ∧ lookup (t.agent r).redirects m.frame = some q ∧ q.place = m.place ∧ q.frames = 1
      ∧ t.statuses = s.statuses ++ [x] ∧ x.rank = m.rq.rank ∧ x.reg = m.rq.reg ∧ x.value = word (m.moved * 2 ^ 32)
      ∧ ∀ w, ∃ n, t.thAt w = { s.thAt w with mon := n })
  ∧ (∀ (r h : Nat) (s : State) (m : Moving) (a b : Loc), Inv s → s.movingTo r = some h → (s.agent h).moving = some m → m.frames = 1 →
    m.rows < 32 → m.rq.loc.region = .vault → field m.place 61 2 = 0 → m.frame < 2 ^ 14 →
    a = vaultLoc m.rq.loc.home (m.frame * 0x10000 + m.rows * 0x800) →
    b = vaultLoc (field m.place 27 16) (field m.place 0 27 * 0x10000 + m.rows * 0x800) →
    s.meets true a = .nothing → s.meets false b = .nothing → s.unreadable a 0x800 = false → (s.core a.home).vault.zero = [] →
    (s.core b.home).vault.zero = [] → (∀ p ∈ s.cores, p.2.redbuf = []) →
    ∃ t, exec (.migrateIn r) s = .next t ∧ Stored s t b 0x800 (s.peek a 0x800)
      ∧ (t.agent h).moving = some { m with rows := m.rows + 1, moved := m.moved + 1 } ∧ Calm s t)
  ∧ (∀ (r : Nat) (s : State) (rq : Rpc), Serves s r 10 rq → s.movingTo r = none → rq.priv = true →
    ∃ t, exec (.migrateIn r) s = .next t ∧ Answered s t r rq 0x01 0 0 0 ∧ Untouched s t ∧ Calm s t)
  ∧ (∀ (r vpn sz asid : Nat) (z : Word) (s : State) (l : List Msg) (y : TlbEntry), s.msgs = .redirect r vpn sz asid z :: l → (s.core r).tlb = [y] →
    y.sz = 0 → ∃ t x, exec (.redirectNotice r) s = .next t ∧ t.msgs = l ∧ (t.core r).tlb = [x] ∧ Untouched s t ∧ (∀ w, t.thAt w = s.thAt w)
      ∧ x.vpn = y.vpn ∧ x.asid = y.asid ∧ x.sz = 0
      ∧ (if y.vpn = vpn ∧ (bit y.leaf 56 = true ∨ y.asid = asid) then SamePlace x.leaf z ∧ (∀ i, 43 ≤ i → i < 61 → bit x.leaf i = bit y.leaf i)
          ∧ bit x.leaf 63 = bit y.leaf 63 else x = y))

/-- R330-R334, R340, R341: a walk fills the TLB with its leaf and sets A, a set-D sets D alone, and a walk that fails writes
its fault-queue entry and parks its task; a resolved entry is freed, and its task resumes or fails. R336, R338, R339: a
SHOOT is sent once to every core of the partition; a core drops the translations it names, marks the requests that carry
one, and acknowledges once nothing uses them; with all acknowledgements in, redirect entries are freed and the status is
zero. -/
def Obligations.PagingAndShootdowns : Prop :=
  ((∀ (r n : Nat) (ga : Ptr) (acc : Access) (s : State) (a : Thread), n < 4 → a = s.thAt (slotAt r n) → Inv s → Walks s r a ga →
    (∀ h o e, Chain s r (s.core r).ptbase (vpnOf ga) h o e → permits e acc (decide (a.mode ≠ 0)) = true →
      ∃ t, exec (.pageWalk r n ga acc) s = .next t ∧ Stored s t (vaultLoc (h 0) (o 0)) 8 (e.toNat ||| 2 ^ 57) ∧ (∀ w, t.thAt w = s.thAt w)
        ∧ (∀ l ∈ [(t.core r).utlb, (t.core r).tlb],
            l = [{ vpn := vpnOf ga, sz := 0, asid := field (s.core r).asid 0 16, leaf := setBit e 57, home := h 0, off := o 0 }]))
    ∧ (∀ p x cause reason, s.partOf r = some p → s.part p = some x → r < 65536 → s.peek ((faultSlot x x.faultTail).plus 0x1E) 1 = 0 →
      (s.core x.spec.sys).vault.zero = [] → WalkFails s r ga acc (decide (a.mode ≠ 0)) cause reason →
      ((a.task = none ∨ ((s.core r).frames = [] ∧ field (s.core r).ctxbase 0 16 = 0)) →
        ∃ t h i m, exec (.pageWalk r n ga acc) s = .next t
          ∧ t.thAt (slotAt r n) = { a with faultWait := some (p, x.faultTail), monHit := h, ipend := i, monWait := m }
          ∧ m.map unseen = a.monWait.map unseen
          ∧ Stored s t (faultSlot x x.faultTail) 32 (faultBytes ga cause (accessKind acc) reason n r (field (s.core r).asid 0 16) a.taskId)
          ∧ bit (t.thAt (slotAt x.spec.sys 0)).ipend 1 = true)
      ∧ (∀ k, a.task = some k → (s.core r).frames = [] → 0 < field (s.core r).ctxbase 0 16 → a.dirty = 0 → r ≠ x.spec.sys →
        (s.core r).vault.zero = [] → field (s.core r).ctxbase 16 14 * 0x10000 + 0x410000 ≤ 0x3F000000 →
        ∃ t y, exec (.pageWalk r n ga acc) s = .next t ∧ (t.thAt (slotAt r n)).occ = .empty ∧ (t.core r).parked = (s.core r).parked ++ [y]
          ∧ y.id = k.id ∧ y.pc = a.pc ∧ y.wait = .fault p x.faultTail ∧ y.frame = true
          ∧ (x.spec.sys < 65536 → x.spec.faultOff + 32 * x.faultTail + 32 ≤ 0x40000000 → t.peek (faultSlot x x.faultTail) 32 = faultBytes ga cause
              (accessKind acc) reason n r (field (s.core r).asid 0 16) k.id))))
  ∧ (∀ (r off : Nat) (s : State), Inv s → off < 2 ^ 30 → ∃ t, exec (.setDirty r off) s = .next t ∧ (∀ w, t.thAt w = s.thAt w)
      ∧ Stored s t (vaultLoc r (off / 8 * 8)) 8 (s.peek (vaultLoc r (off / 8 * 8)) 8 ||| 2 ^ 58))
  ∧ (∀ (p k res r : Nat) (s : State) (x : Partition) (c : Core), Inv s → s.part p = some x → Resolved s p x k res r c →
    (∀ y, c.parked = [y] → y.wait = .fault p k → (∀ n : Fin 5, c.threads[n].faultWait = none) →
      (res = 1 → ∃ t z, exec (.faultResolve p k) s = .next t ∧ (t.core r).parked = [] ∧ (t.core r).ready = [z] ∧ z.id = y.id ∧ z.pc = y.pc
        ∧ z.frame = y.frame ∧ z.regs = y.regs ∧ z.wait = .none ∧ Stored s t ((faultSlot x k).plus 0x1E) 2 0)
      ∧ (∀ m, res ≠ 1 → lookup s.terms y.launch = some m → m.copy = none → m.failed = false →
        ∃ t, exec (.faultResolve p k) s = .next t ∧ (t.core r).parked = [{ y with wait := .failed }] ∧ (t.core r).ready = []
          ∧ lookup t.terms y.launch = some { m with failed := true, cause := BitVec.ofNat 8 (s.peek ((faultSlot x k).plus 9) 1) }
          ∧ t.peek ((faultSlot x k).plus 0x1E) 2 = 0))
    ∧ (∀ n, n < 4 → c.parked = [] → (s.thAt (slotAt r n)).faultWait = some (p, k) →
      (∀ m, m < 4 → m ≠ n → (s.thAt (slotAt r m)).faultWait = none) →
      ∃ t, exec (.faultResolve p k) s = .next t ∧ Stored s t ((faultSlot x k).plus 0x1E) 2 0 ∧ (t.thAt (slotAt r n)).faultWait = none
        ∧ (t.thAt (slotAt r n)).pc = (s.thAt (slotAt r n)).pc ∧ (t.thAt (slotAt r n)).regs = (s.thAt (slotAt r n)).regs
        ∧ (res = 1 → (t.thAt (slotAt r n)).failing = (s.thAt (slotAt r n)).failing)
        ∧ (res ≠ 1 → (t.thAt (slotAt r n)).failing = some (BitVec.ofNat 8 (s.peek ((faultSlot x k).plus 9) 1))))))
  ∧ (∀ (e : Nat) (s : State) (c : Cmd), PageCmd s e c true →
    (∀ p x, c.shot = false → field c.word 32 16 ≠ 0 → (s.engine e).part = some p → s.part p = some x → (∀ b ∈ x.spec.bands, b < 64) →
      ∃ t l, exec (.cmdPageMigrateShoot e) s = .next t ∧ (t.engine e).active = some { c with shot := true, pending := l }
        ∧ (∀ y ∈ l, y.2 = false) ∧ (∀ r, (r, false) ∈ l ↔ r / 1024 = s.dev ∧ r / 16 % 64 ∈ x.spec.bands) ∧ t.cores = s.cores ∧ t.mem = s.mem)
    ∧ (c.shot = false → field c.word 32 16 = 0 → ∃ t x, exec (.cmdPageMigrateShoot e) s = .next t ∧ (t.engine e).active = none
        ∧ t.statuses = s.statuses ++ [x] ∧ x.value = 0 ∧ x.rank = c.rank ∧ x.reg = c.tok ∧ Untouched s t)
    ∧ (∀ r x, s.engines = [(e, x)] → c.pending = [(r, false)] → (s.core r).redbuf = [] →
      ∃ t, exec (.shootdownReceipt r) s = .next t ∧ (t.engine e).active = some { c with pending := [(r, true)] } ∧ Untouched s t
        ∧ (∀ w, t.thAt w = s.thAt w)
        ∧ (t.core r).utlb = (s.core r).utlb.filter (fun y => !shotAt c y.vpn (pagesOf y.sz) y.asid (bit y.leaf 56))
        ∧ (t.core r).tlb = (s.core r).tlb.filter (fun y => !shotAt c y.vpn (pagesOf y.sz) y.asid (bit y.leaf 56))
        ∧ (t.agent r).tlb = (s.agent r).tlb.filter (fun y => !shotAt c y.vpn (pagesOf y.sz) y.asid (bit y.leaf 56))
        ∧ (t.agent r).requests = (s.agent r).requests.map (fun q =>
            if q.tgt.sb.toNat < 0xF0 ∧ shotAt c (vpnOf q.tgt) 1 q.asid q.glob = true then { q with stale := true } else q))
    ∧ (∀ r x, s.engines = [(e, x)] → c.pending = [(r, true)] → (s.core r).xfers = [] → s.msgs = [] → (s.agent r).current = none →
      (s.agent r).moving = none → (s.agent r).mac = none →
      (∀ q ∈ (s.agent r).requests ++ (s.agent r).held ++ (s.agent r).resend.map (·.2), q.stale = false) →
      ∃ t, exec (.shootdownReceipt r) s = .next t ∧ (t.engine e).active = some { c with pending := [] } ∧ t.cores = s.cores ∧ t.mem = s.mem)
    ∧ (∀ p x, c.shot = true → c.pending = [] → s.colls = [] → (s.engine e).part = some p → s.part p = some x →
      ∃ t y, exec (.shootdownAck e) s = .next t ∧ (t.engine e).active = none ∧ t.statuses = s.statuses ++ [y] ∧ y.value = 0 ∧ y.rank = c.rank
        ∧ y.reg = c.tok ∧ Untouched s t ∧ ∀ r, r / 1024 = s.dev → r / 16 % 64 ∈ x.spec.bands →
          (t.agent r).redirects = (s.agent r).redirects.filter (fun q => !shotAt c q.2.vpn q.2.frames 0 true)))

/-! ### Issue, the vault's DRAM and throttling (R20, R21, R89-R91, R93, R349, R351, R362, R387) -/

namespace Sys2Proof.Claims

/-- Slot `n` of a core is ready: it has an instruction to try and has met no stall since the core last looked (R20). -/
def Ready (s : State) (r n : Nat) : Prop := s.canTry (slotAt r n) = true ∧ (s.thAt (slotAt r n)).stalled = false

/-- Passed of a slot, and its distance from Rrp (R21). -/
def passedOf (c : Core) (n : Nat) : Nat := c.passed.getD n 0

def fromRrp (c : Core) (n : Nat) : Nat := (n + 4 - c.rrp % 4) % 4

/-- The slot that R21 picks. -/
def Picked (s : State) (r n : Nat) : Prop :=
  n < 4 ∧ Ready s r n ∧
  ((64 ≤ passedOf (s.core r) n ∧ ∀ k, k < 4 → Ready s r k →
      passedOf (s.core r) k ≤ passedOf (s.core r) n ∧ (k < n → passedOf (s.core r) k < passedOf (s.core r) n))
   ∨ ((∀ k, k < 4 → Ready s r k → passedOf (s.core r) k < 64) ∧ ∀ k, k < 4 → Ready s r k →
      (s.thAt (slotAt r k)).issuePrio ≤ (s.thAt (slotAt r n)).issuePrio
        ∧ ((s.thAt (slotAt r k)).issuePrio = (s.thAt (slotAt r n)).issuePrio → fromRrp (s.core r) n ≤ fromRrp (s.core r) k)))

/-- The vault of a core. -/
def vaultAt (s : State) (r : Nat) : Vault := (s.core r).vault

/-- The bank of a vault offset: its row address over 2^14 (R85). -/
def bankAt (off : Nat) : Nat := off / 0x800 / 0x4000

/-- A vault whose band runs, with no row under repair, no lock, no refresh and no burst but those a statement names. -/
structure Awake (s : State) (r : Nat) : Prop where
  band : (s.band (r / 16)).power = 0 ∧ (s.dies.getD (r / 128 % 8) .reset).held = none
  free : (vaultAt s r).marked = [] ∧ (vaultAt s r).locks = [] ∧ (s.agent r).locks = []

/-- Nothing but what a core's vault and its log keep beside the bytes has changed, and perhaps pending interrupts. -/
def VaultOnly (s t : State) (r : Nat) : Prop :=
  Untouched s t ∧ (∀ w, ∃ i, t.thAt w = { s.thAt w with ipend := i }) ∧ ∀ k, k ≠ r → (t.core k).vault = (s.core k).vault

/-- Spares of a bank in use (R362). -/
def sparesIn (v : Vault) (bank : Nat) : Nat := (v.repairs.filter (fun p => decide (p.1 / 0x4000 = bank) && decide (p.2 < 64))).length

end Sys2Proof.Claims

/-- R20, R21: a core grants the ready slot that waited longest beyond 64 cycles, else the first of the highest priority from
Rrp on, moves Rrp behind it and counts Passed; with no slot ready it grants none. R89, R90, R93, R349, R351, R362: a refresh
keeps its bank's accesses waiting and a burst those of its vault, until they end; a weak row is marked, then moves to a
spare with kind 3 and its bytes, or is reported once with kind 14 where no spare is left. R88, R91, R305, R387: a change of
a vault's level sets TCHG in every slot of its core and one more pending THERMAL, with the level, where THERM asks for it; a
die's core throttle level rises and falls by one step between 0 and 2 and nothing else changes. -/
def Obligations.ArbitrationAndDram : Prop :=
  (∀ (r : Nat) (s : State),
    (∀ n, Picked s r n → ∃ t, exec (.issueArbitration r) s = .next t ∧ t.turn = slotAt r n ∧ t.granted.isSome = true
      ∧ (t.core r).rrp = (n + 1) % 4 ∧ passedOf (t.core r) n = 0
      ∧ (∀ k, k < 4 → k ≠ n → (Ready s r k → passedOf (t.core r) k = passedOf (s.core r) k + 1) ∧ (¬ Ready s r k → passedOf (t.core r) k = 0))
      ∧ (∀ w, t.thAt w = s.thAt w) ∧ Untouched s t)
    ∧ ((∀ n, n < 4 → ¬ Ready s r n) → ∃ t, exec (.issueArbitration r) s = .next t ∧ t.turn = s.turn ∧ t.granted = s.granted
      ∧ (∀ w, w.rank = r → t.thAt w = { s.thAt w with stalled := false }) ∧ (t.core r).rrp = (s.core r).rrp ∧ Untouched s t))
  ∧ (∀ (r : Nat) (s : State) (v : Vault), v = vaultAt s r →
    (∀ bank, bank < 32 →
      (∃ t, exec (.bankRefresh r bank) s = .next t ∧ VaultOnly s t r ∧ bank ∈ (vaultAt t r).refreshing
        ∧ (∀ k, k ≠ bank → (k ∈ (vaultAt t r).refreshing ↔ k ∈ v.refreshing)) ∧ (∀ row ∈ (vaultAt t r).openRows, row / 0x4000 ≠ bank ∧ row ∈ v.openRows)
        ∧ (Awake s r → ∀ off, bankAt off = bank → t.meets false (vaultLoc r off) = .refresh))
      ∧ (∃ t, exec (.bankRefreshEnd r bank) s = .next t ∧ VaultOnly s t r ∧ (∀ k, k ∈ (vaultAt t r).refreshing ↔ k ∈ v.refreshing ∧ k ≠ bank)
        ∧ (Awake s r → v.burst = none → ∀ off, bankAt off = bank → t.meets false (vaultLoc r off) = .nothing)))
    ∧ (∀ bank row weak, bank < 32 → row / 0x4000 = bank → v.burst = none →
      ∃ t, exec (.testerBurst r bank row weak) s = .next t ∧ VaultOnly s t r ∧ (vaultAt t r).burst = some { bank := bank, row := row, weak := weak }
        ∧ (Awake s r → v.refreshing = [] → ∀ off, t.meets false (vaultLoc r off) = .waits))
    ∧ (v.waiting ≠ [] → ∃ t, exec (.testerBurstAbort r) s = .next t ∧ VaultOnly s t r ∧ (vaultAt t r).burst = none ∧ (vaultAt t r).waiting = [])
    ∧ (∀ b, v.burst = some b → ∃ t, exec (.testerBurstEnd r) s = .next t ∧ VaultOnly s t r ∧ (vaultAt t r).burst = none
      ∧ (b.weak = false → (vaultAt t r).marked = v.marked)
      ∧ (b.weak = true → sparesIn v (b.row / 0x4000) < 64 → v.exhausted b.row = false → b.row ∈ (vaultAt t r).marked))
    ∧ (∀ row, row < 2 ^ 19 →
      (row ∉ v.marked → v.exhausted row = false →
        (sparesIn v (row / 0x4000) < 64 → ∃ t, exec (.rowRepair r row) s = .next t ∧ VaultOnly s t r ∧ row ∈ (vaultAt t r).marked
          ∧ (vaultAt t r).repairs = v.repairs ∧ (Awake s r → ∀ off, off / 0x800 = row → t.meets false (vaultLoc r off) = .repair))
        ∧ (64 ≤ sparesIn v (row / 0x4000) → ∃ t, exec (.rowRepair r row) s = .next t ∧ VaultOnly s t r ∧ (vaultAt t r).marked = v.marked
          ∧ LogHead t r 14 ∧ exec (.rowRepair r row) t = .next t))
      ∧ (row ∈ v.marked → ∃ t, exec (.rowRepair r row) s = .next t ∧ VaultOnly s t r ∧ row ∉ (vaultAt t r).marked
          ∧ (vaultAt t r).repairs = (row, sparesIn v (row / 0x4000)) :: v.repairs ∧ LogHead t r 3
          ∧ (t.core r).log.rrep = min ((s.core r).log.rrep + 1) 0xFFFFFFFF)))
  ∧ ((∀ (r lvl : Nat) (s : State), lvl ≤ 2 → (vaultAt s r).level ≠ lvl →
    ∃ t, exec (.vaultThrottleChange r lvl) s = .next t ∧ (vaultAt t r).level = lvl ∧ Untouched s t
      ∧ (∀ w, w.rank ≠ r ∨ w.slot = 4 → t.thAt w = s.thAt w)
      ∧ ∀ n, n < 4 → ∃ e d, t.thAt (slotAt r n) = { s.thAt (slotAt r n) with evctl := e, dirty := d, thermals := (s.thAt (slotAt r n)).thermals
            ++ (if bit (s.thAt (slotAt r n)).evctl 2 = true ∧ (s.thAt (slotAt r n)).occ ≠ .empty then [lvl] else []) }
          ∧ (∀ i, bit e i = (bit (s.thAt (slotAt r n)).evctl i || decide (i = 9))))
  ∧ (∀ (die : Nat) (s : State), die < 8 → ∀ c ∈ [(Instr.coreThrottleRaise die, min 2 ((s.dies.getD die .reset).level + 1)),
      (.coreThrottleLower die, (s.dies.getD die .reset).level - 1)],
    ∃ t, exec c.1 s = .next t ∧ t = { s with dies := t.dies } ∧ t.dies.getD die .reset = { s.dies.getD die .reset with level := c.2 }
      ∧ ∀ k, k ≠ die → t.dies.getD k .reset = s.dies.getD k .reset))

/-! ### Power and bring-up (R364-R368, R383-R386, R388-R390) -/

namespace Sys2Proof.Claims

/-- Every thread and every byte are as they were. -/
def AsWas (s t : State) : Prop := Untouched s t ∧ ∀ w, t.thAt w = s.thAt w

/-- The bands of a partition that a state of band `b` takes with it (R383). -/
def InScope (x : Partition) (b lvl k : Nat) : Prop := k ∈ x.spec.bands ∧ (lvl ≤ 2 → k = b % 64) ∧ (lvl = 3 → k / 8 = b % 64 / 8)

/-- The one partition of the package, with band `b`, and its tolerance (R385). -/
structure OnePart (s : State) (p : Nat) (x : Partition) (b : Nat) : Prop where
  part : s.parts = [(p, x)] ∧ b / 64 = s.dev ∧ b % 64 ∈ x.spec.bands ∧ ∀ k ∈ x.spec.bands, k < 64

/-- LTOL of a partition in ns. -/
def tolerance (s : State) (p : Nat) : Nat := field (s.ltol.getD p 0) 0 32

/-- The cores of a list of bands of the package. -/
def Within (s : State) (bands : List Nat) (r : Nat) : Prop := r / 1024 = s.dev ∧ r / 16 % 64 ∈ bands

end Sys2Proof.Claims

/-- R383-R386: an idle band enters the deepest state whose wake time its partition accepts, with its die or package where
the state takes them, and drops its translations from state 2 on; a wake returns it to state 0; no result, register or byte
changes. R138, R326, R388: a thermal hold stops issue on its die and keeps its messages waiting; the release adds the cycles
spent, as a multiple of 4, to the bands' hold and the tasks' start, and leaves every tile, register and byte where it was.
-/
def Obligations.PowerAndThermal : Prop :=
  (∀ (b : Nat) (s : State) (p : Nat) (x : Partition), OnePart s p x b →
    (∀ lvl, 1 ≤ lvl → lvl ≤ 4 → wakeTime lvl ≤ tolerance s p → (lvl < 4 → tolerance s p < wakeTime (lvl + 1)) →
      (∀ k, InScope x b lvl k → s.bandIdle (s.dev * 64 + k) = true ∧ s.bandFlushed (s.dev * 64 + k) = true) → (s.band b).power < lvl →
      (s.band b).waking = false →
      ∃ t, exec (.powerStateEntry b lvl) s = .next t ∧ AsWas s t ∧ t.standby = (s.standby || decide (lvl = 4))
        ∧ (∀ k, InScope x b lvl k → t.band (s.dev * 64 + k) = { s.band (s.dev * 64 + k) with power := lvl, waking := false })
        ∧ (∀ k, (∀ j, InScope x b lvl j → k ≠ s.dev * 64 + j) → t.band k = s.band k)
        ∧ (2 ≤ lvl → ∀ r, r / 16 = b → (t.core r).utlb = [] ∧ (t.core r).tlb = [] ∧ (t.core r).wcache = [] ∧ (t.agent r).tlb = []))
    ∧ (∀ lvl, (s.bandIdle b = false ∨ tolerance s p = 0) → exec (.powerStateEntry b lvl) s = .next s)
    ∧ (s.partOf (b * 16) = some p → (s.band b).power ≠ 0 →
      (∃ t, exec (.wakeEvent b) s = .next t ∧ AsWas s t ∧ t.band b = { s.band b with waking := true } ∧ ∀ k, k ≠ b → t.band k = s.band k)
      ∧ ((s.band b).waking = true → s.dieHeld (b * 16) = false → ∃ t, exec (.wakeComplete b) s = .next t ∧ AsWas s t
          ∧ t.band b = { s.band b with power := 0, waking := false } ∧ ((s.band b).power ≤ 2 → t.standby = s.standby)
          ∧ ((s.band b).power = 4 → t.standby = false)
          ∧ ∀ k, k ≠ b → ∃ l, l ≤ (s.band k).power ∧ t.band k = { s.band k with power := l })))
  ∧ (∀ (die : Nat) (s : State), die < 8 →
    (∃ t, exec (.thermalHold die) s = .next t ∧ t = { s with dies := t.dies } ∧ (t.dies.getD die .reset).held.isSome = true
      ∧ (∀ k, k ≠ die → t.dies.getD k .reset = s.dies.getD k .reset)
      ∧ ∀ r, r / 1024 = s.dev → r / 128 % 8 = die → r ≠ 65536 → t.coreRuns r = false ∧ ∀ off, t.meets false (vaultLoc r off) = .waits)
    ∧ (∀ t0, (s.dies.getD die .reset).held = some t0 → t0 ≤ s.cycle.toNat → ∃ t n, exec (.thermalHoldRelease die) s = .next t
      ∧ (t.dies.getD die .reset).held = none ∧ Untouched s t ∧ n % 4 = 0 ∧ s.cycle.toNat - t0 ≤ n ∧ n < s.cycle.toNat - t0 + 4
      ∧ (∀ b, b / 64 = s.dev → b % 64 / 8 = die → (lookup s.bands b).isSome = true → t.band b = { s.band b with hold := (s.band b).hold + n })
      ∧ (∀ b, b / 64 ≠ s.dev ∨ b % 64 / 8 ≠ die → t.band b = s.band b)
      ∧ ∀ w, (w.rank / 1024 = s.dev ∧ w.rank / 128 % 8 = die → (lookup s.cores w.rank).isSome = true →
            t.thAt w = { s.thAt w with task := (s.thAt w).task.map (fun k => { k with since := k.since + n }) })
          ∧ (¬ (w.rank / 1024 = s.dev ∧ w.rank / 128 % 8 = die) → t.thAt w = s.thAt w)))

/-- R188, R365, R389, R390: package reset returns every package field to its reset value, and the bring-up steps run only in
their order, each leaving behind what R390 says. R292, R364-R366, R368: a partition is created of resources that exist and
belong to no other, and its cores leave band reset with the system core in supervisor code at slot 0; its removal takes its
cores' tasks, whose weights return, and gates its bands. -/
def Obligations.BringUpAndPartitions : Prop :=
  ((∀ s : State, ∃ t, exec .packageReset s = .next t ∧ t.cycle = 0 ∧ t.parts = [] ∧ t.hqg = [] ∧ t.pgrant = .replicate 16 0 ∧ t.bringUp = 0
    ∧ (∀ b, (t.band b).power = 2) ∧ (∀ r, t.core r = .reset) ∧ Untouched s t)
  ∧ (∀ (s : State) a dev gens l, ∀ k ∈ ([(.monitorBoot, 0), (.ucieTraining a, 1), (.vaultTest l, 2),
      (.cufflinkNegotiation dev gens, 3), (.hostEnumeration, 4)] : List (Instr × Nat)), s.bringUp ≠ k.2 → exec k.1 s = .next s)
  ∧ (∀ s : State, s.bringUp = 0 → ∃ t, exec .monitorBoot s = .next t ∧ t.bringUp = 1 ∧ t.pgrant = .replicate 16 0 ∧ t.hqg = []
    ∧ (∀ b, (t.band b).power = 2) ∧ Untouched s t)
  ∧ (∀ (s : State) a, s.bringUp = 1 → ∃ t, exec (.ucieTraining a) s = .next t ∧ t.bringUp = 2 ∧ t.cores = s.cores ∧ t.mem = s.mem
    ∧ ∀ d, d < 8 → t.dies.getD d .reset = { s.dies.getD d .reset with absent := nbit a d })
  ∧ (∀ s : State, s.bringUp = 2 →
    (∃ t, exec (.vaultTest []) s = .next t ∧ t.bringUp = 3 ∧ (∀ r off, r < 65536 → off < 2 ^ 30 → t.byteAt (vaultLoc r off) = 0)
      ∧ (∀ l : Loc, 2 ^ 47 ≤ l.key → t.byteAt l = s.byteAt l) ∧ t.cores = s.cores)
    ∧ (∀ r row k, row < 2 ^ 19 → k < 64 → sparesIn (vaultAt s r) (row / 0x4000) < 63 → ∃ t, exec (.vaultTest [(r, row, k)]) s = .next t
      ∧ (vaultAt t r).repairs = (row, k) :: (vaultAt s r).repairs ∧ t.bringUp = 3 ∧ ∀ w, t.thAt w = s.thAt w))
  ∧ (∀ (s : State) dev gens, s.bringUp = 3 → ∃ t, exec (.cufflinkNegotiation dev gens) s = .next t ∧ t.bringUp = 4 ∧ t.dev = dev % 64
    ∧ t.mem = s.mem ∧ ∀ l, l < 12 → t.links.getD l .reset = (if gens.getD l 0 = 3 then { gen := 3, rate := 224, up := true }
        else if gens.getD l 0 = 2 then { gen := 2, rate := 112, up := true } else { gen := 0, rate := 0, up := false }))
  ∧ (∀ s : State, s.bringUp = 4 → ∃ t, exec .hostEnumeration s = .next t ∧ t = { s with ports := t.ports, bringUp := 5 }
    ∧ ∀ k, k < 2 → portAt t k = { portAt s k with enumerated := decide ((portAt s k).ver ≠ 0) }))
  ∧ ((∀ (s : State) (x : PartSpec),
    ((16 ≤ x.id ∨ (s.part x.id).isSome = true ∨ x.bands = [] ∨ (∃ b ∈ x.bands, 64 ≤ b) ∨ (∃ b ∈ x.bands, ∃ y ∈ s.parts, b ∈ y.2.spec.bands)
        ∨ (∃ e ∈ x.engines, (s.engine e).part ≠ none) ∨ (∃ q ∈ x.queues, (s.queue q.1).bound ≠ none) ∨ s.bringUp < 5) →
      exec (.partitionCreation x) s = .next s)
    ∧ (s.specOk x = true → ∃ t y, exec (.partitionCreation x) s = .next t ∧ lookup t.parts x.id = some y ∧ y.spec = x ∧ y.faultTail = 0
      ∧ t.cycle = s.cycle
      ∧ (∀ r, Within s x.bands r → (t.band (r / 16)).power = 0 ∧ (t.band (r / 16)).glove.toList.all (·.isNone) = true
          ∧ (t.core r).partid = word (x.id + if r = x.sys then 16 else 0) ∧ (t.core r).ready = [] ∧ (t.core r).parked = [] ∧ (t.core r).tlb = []
          ∧ (∀ n, n < 4 → (r ≠ x.sys ∨ n ≠ 0) → t.thAt (slotAt r n) = Thread.reset n)
          ∧ (t.core r).log = (s.core r).log ∧ (t.core r).vault.repairs = (s.core r).vault.repairs)
      ∧ ((t.thAt (slotAt x.sys 0)).pc = x.pc ∧ (t.thAt (slotAt x.sys 0)).mode = 1 ∧ (t.thAt (slotAt x.sys 0)).occ = .occupied)
      ∧ (∀ e ∈ x.engines, (t.engine e).part = some x.id)
      ∧ (∀ q ∈ x.queues, (t.queue q.1).bound = some x.id ∧ (t.queue q.1).recs = [])
      ∧ (∀ j, x.counterBase ≤ j → j < x.counterBase + x.counterCount → lookup t.joins j = none)
      ∧ (∀ r, ¬ Within s x.bands r → r ≠ x.sys → t.core r = s.core r)))
  ∧ (∀ (s : State) (p : Nat) (x : Partition) (bands : List Nat), s.part p = some x → (∀ b ∈ x.spec.bands, b < 64) →
    ∃ t gone, exec (.partitionRemoval p bands) s = .next t
      ∧ gone = (if x.spec.sys / 16 % 64 ∈ bands then x.spec.bands else x.spec.bands.filter (fun b => bands.contains b))
      ∧ (∀ b ∈ gone, t.band (s.dev * 64 + b) = .reset)
      ∧ (∀ r, Within s gone r → (t.core r).ready = [] ∧ (t.core r).parked = [] ∧ (t.core r).redbuf = []
          ∧ ∀ n, n < 4 → (t.thAt (slotAt r n)).occ = .empty ∧ (t.thAt (slotAt r n)).task = none)
      ∧ (∀ r, Within s gone r → ∀ n, n < 4 → ∀ k, (s.thAt (slotAt r n)).task = some k → 0 < k.weight → Msg.weight k.launch k.weight ∈ t.msgs)
      ∧ (x.spec.sys / 16 % 64 ∈ bands → lookup t.parts p = none ∧ ∀ e ∈ x.spec.engines, (t.engine e).part = none ∧ (t.engine e).active = none)
      ∧ (x.spec.sys / 16 % 64 ∉ bands → ∃ y, lookup t.parts p = some y ∧ y.spec.bands = x.spec.bands.filter (fun b => !bands.contains b))))

/-! ### Steps, words, memory -/

namespace Sys2Proof.Claims

/-- Nothing stands between a thread and its next instruction: the agenda is empty, no unit has the turn, the slot is
granted and has an instruction to try, no event waits at its boundary, nothing is replayed or outstanding, no register is
pending, and no token or register carries an error (R20, R22, R26, R160, R301, R305, R352). -/
structure Runs (s : State) (g : Nat × Vector Nat 4) : Prop where
  agenda : s.agenda = []
  turn : s.unitTurn = false
  granted : s.granted = some g
  tries : s.canTry s.turn = true
  boundary : s.turn.slot ≠ 4 → s.th.boundaryDue = false
  replay : s.th.replay = none
  outst : s.th.outst = []
  pend : s.th.pend = 0
  tokErr : s.th.tokErr = 0
  tokUnc : s.th.tokUnc = 0
  badRegs : s.th.badRegs = []

/-- The place of the word at the pc, where nothing delays or disturbs its fetch: a core's scratchpad, a page of the core's
own vault that its TLB holds with X, or the instruction store of an agent (R186, R278). -/
def FetchesAt (s : State) (l : Loc) : Prop :=
  s.th.pc.v.toNat % 4 = 0 ∧ l.home = s.turn.rank ∧
  ((s.turn.slot ≠ 4 ∧ s.th.pc.sb.toNat ≤ 0xF0 ∧ Placed s s.th.pc 4 .fetch l ∧ Quiet s l 4
      ∧ (s.core l.home).weakScratch = [] ∧ (s.core l.home).vault.weakGranules = [])
    ∨ (s.turn.slot = 4 ∧ s.th.pc.sb = 0xF0 ∧ s.th.pc.v.toNat + 4 ≤ 0x8000
      ∧ l = { region := .agentCode, home := s.turn.rank, off := s.th.pc.v.toNat }))

/-- What a step adds after an instruction: the windows before it count it, a replay moves on. -/
def followed (w : Turn) (i : Instr) (t0 : Thread) : Result → Result
  | .next u => .next (u.modThAt w (Thread.afterInstr i t0))
  | .fault f => .fault f
  | .refused r => .refused r

/-- What a step adds at the end of a turn: the turn stays with the thread that issued until the next choice, and the slots of
its core that were not ready lose what R21 had counted for them. -/
def endsTurn (w : Turn) (g : Nat × Vector Nat 4) (idle : List (Fin 5)) : Result → Result
  | .next u => .next (State.endIssue { u with turn := w } g idle)
  | .fault f => .fault f
  | .refused r => .refused r

end Sys2Proof.Claims

/-- A step runs the decoded instruction (R154, R156, R158, R186, R278): where the four bytes at the pc decode to `i`, the
step is `exec i` on the state with its clock and the bands advanced, followed by what the windows and the turn record; where
they decode to nothing, it is the illegal-instruction exception; an event of the agenda that need not wait is `exec` of it.
The advance of the clock is the model's choice (DESIGN CHOICE, log entry 2), and so is the agenda (DESIGN CHOICE, log entry
63). -/
def Obligations.StepRunsDecoded : Prop :=
  (∀ (s : State) (g : Nat × Vector Nat 4) (l : Loc) (i : Instr), Runs s.elapsed g → FetchesAt s.elapsed l →
    decodeNat (s.elapsed.peek l 4) = .ok i → (s.elapsed.turn.slot = 4 → agentRuns i = true) →
    step s = endsTurn s.turn g (s.elapsed.notReady exec) (followed s.turn i s.elapsed.th (exec i s.elapsed)))
  ∧ (∀ (s : State) (g : Nat × Vector Nat 4) (l : Loc) (e : Reject), Runs s.elapsed g → FetchesAt s.elapsed l →
    decodeNat (s.elapsed.peek l 4) = .error e →
    step s = endsTurn s.turn g (s.elapsed.notReady exec) (execIllegalInstruction (BitVec.ofNat 32 (s.elapsed.peek l 4)) s.elapsed))
  ∧ (∀ (s : State) (i : Instr) (rest : List Instr), s.agenda = i :: rest → hasWord i = false →
    s.elapsed.inputWaits i = false → step s = exec i { s.elapsed with agenda := rest })

/-- Words written out from the encoding tables decode to their instructions, and words with a field out of its range do not
decode (R154-R157). -/
def Obligations.DecodesWritten : Prop :=
  decodeNat 0x0040210E = .ok (.paddi { d := 4, a := 4, imm := 64 })
  ∧ decodeNat 0xFF831610 = .ok (.ld { d := 24, a := 2, size := 3, sx := false, off := 0xFF8 })
  ∧ decodeNat 0x22262E01 = .ok (.div { d := 24, a := 5, b := 6, lk := 2 })
  ∧ decodeNat 0x1A831221 = .ok (.vqfma { vd := 8, va := 2, vb := 3, et := 4, msk := 1, md := 0 })
  ∧ decodeNat 0x330940B8 = .ok (.tld { q := 2, a := 8, t := 9, cnt := 3, lk := 3 })
  ∧ decodeNat 0x410040B2 = .ok (.mmac { x := 2, y := 8, z := 0, fl := 1, lk := 4 })
  ∧ decodeNat 0x01094873 = .error .formatCheck
  ∧ decodeNat 0x20015279 = .error .formatCheck
  ∧ decodeNat 0 = .error .illegalMajor

/-- The encoding is a bijection between words that decode and well-formed instructions that have a word (R154-R157): every
operand at every value comes back from the four bytes of the word in memory order, and a word that decodes is the word of
what it decodes to. -/
def Obligations.RoundTrip : Prop :=
  (∀ (i : Instr) (rest : List Byte), hasWord i = true → WellFormed i = true →
    decodeBytes (wordBytes (encodeNat i) ++ rest) = .ok (i, rest))
  ∧ ∀ (w : Nat) (i : Instr), w < 2 ^ 32 → decodeNat w = .ok i → hasWord i = true ∧ WellFormed i = true ∧ encodeNat i = w

/-- Every step keeps the canonical form of memory: addresses rise, and no listed byte is one that an unlisted address reads
as. -/
def Obligations.InvariantKept : Prop := ∀ s t : State, Inv s → step s = .next t → Inv t

/-- Reset leaves what the field maps give (R389): memory in canonical form, CYCLE, the grants and the LTOL registers zero,
no partition, and in every core and slot SRSEED and SPKEY at their reset values, WD 12 in every BMASK, SLOT in THSTAT, and
the other special and exception registers zero. A word placed for the next fetch keeps the form of memory. -/
def Obligations.ResetLeaves : Prop :=
  Inv State.reset ∧ (∀ n w : Nat, Inv (State.reset.withFetchWord n w))
  ∧ State.reset.cycle = 0 ∧ (∀ k : Fin 16, State.reset.pgrant[k] = 0 ∧ State.reset.ltol[k] = 0) ∧ State.reset.parts = []
  ∧ ∀ r : Nat, (State.reset.core r).spkey = 0x1CF0 ∧ (∀ k : Fin 8, (State.reset.core r).bmask[k] = 0xC000000000)
    ∧ (State.reset.core r).tvec = 0 ∧ (State.reset.core r).ptbase = 0 ∧ (State.reset.core r).ctxbase = 0
    ∧ (State.reset.core r).asid = 0 ∧ (State.reset.core r).partid = 0
    ∧ ∀ n : Fin 4, ∀ t, t = State.reset.thAt { rank := r, slot := Fin.castSucc n } →
        t.srseed = 0x5A17C0DE00000001 ∧ t.fpctl = 0 ∧ t.warn = 0 ∧ t.evctl = 0 ∧ t.domid = 0 ∧ t.errinj = 0 ∧ t.tidbase = 0
        ∧ t.tidlim = 0 ∧ t.tcause = 0 ∧ t.tval = 0 ∧ t.tepc = 0 ∧ t.tscratch = 0 ∧ t.ien = 0 ∧ t.ipend = 0 ∧ t.dirty = 0
        ∧ t.thstat = word (4 * n.val)

/-- R57: SRSEED is 0x5A17_C0DE_0000_0001 after reset; it is read and written in every mode, and a write of 0 stores the
reset value, by `crwr` and by `crxch` alike. -/
def Obligations.SeedRegister : Prop :=
  (∀ w : Turn, (State.reset.thAt w).srseed = 0x5A17C0DE00000001)
  ∧ (∀ (f : FmtC) (s : State), f.num = 0x005 → ∃ t, exec (.crrd f) s = .next t ∧ t.th.get f.d = held f.d (.int s.th.srseed)
      ∧ t.th.srseed = s.th.srseed)
  ∧ (∀ (f : FmtC) (s : State) (i : Instr), f.num = 0x005 → i = .crwr f ∨ i = .crxch f → ∃ t, exec i s = .next t
      ∧ t.th.srseed = (if s.th.val f.a = 0 then 0x5A17C0DE00000001 else s.th.val f.a)
      ∧ (i = .crxch f → t.th.get f.d = held f.d (.int s.th.srseed)) ∧ (i = .crwr f → ∀ r, t.th.get r = s.th.get r))
end

