-- ==== Sys2Proof/Laws/State.lean ====
section
/-!
SUPPORT. What each update of the state leaves: one lemma per field per update, true by `rfl`, so that no proof unfolds a
record update; then what the accessors of maps, cores and threads answer after an update.
-/

namespace Sys2Proof.Machine

/-! ### The fields of the state under each update -/
section
variable (s : State) (r : Nat) (c : Core)
@[simp] theorem State.setCore_mem : (s.setCore r c).mem = s.mem := rfl
@[simp] theorem State.setCore_bands : (s.setCore r c).bands = s.bands := rfl
@[simp] theorem State.setCore_dies : (s.setCore r c).dies = s.dies := rfl
@[simp] theorem State.setCore_cycle : (s.setCore r c).cycle = s.cycle := rfl
@[simp] theorem State.setCore_tick : (s.setCore r c).tick = s.tick := rfl
@[simp] theorem State.setCore_turn : (s.setCore r c).turn = s.turn := rfl
@[simp] theorem State.setCore_granted : (s.setCore r c).granted = s.granted := rfl
@[simp] theorem State.setCore_unitTurn : (s.setCore r c).unitTurn = s.unitTurn := rfl
@[simp] theorem State.setCore_cursor : (s.setCore r c).cursor = s.cursor := rfl
@[simp] theorem State.setCore_dev : (s.setCore r c).dev = s.dev := rfl
@[simp] theorem State.setCore_monitor : (s.setCore r c).monitor = s.monitor := rfl
@[simp] theorem State.setCore_agenda : (s.setCore r c).agenda = s.agenda := rfl
@[simp] theorem State.setCore_bringUp : (s.setCore r c).bringUp = s.bringUp := rfl
@[simp] theorem State.setCore_parts : (s.setCore r c).parts = s.parts := rfl
@[simp] theorem State.setCore_pgrant : (s.setCore r c).pgrant = s.pgrant := rfl
@[simp] theorem State.setCore_hqg : (s.setCore r c).hqg = s.hqg := rfl
@[simp] theorem State.setCore_queues : (s.setCore r c).queues = s.queues := rfl
@[simp] theorem State.setCore_joins : (s.setCore r c).joins = s.joins := rfl
@[simp] theorem State.setCore_terms : (s.setCore r c).terms = s.terms := rfl
@[simp] theorem State.setCore_nextTerm : (s.setCore r c).nextTerm = s.nextTerm := rfl
@[simp] theorem State.setCore_gangs : (s.setCore r c).gangs = s.gangs := rfl
@[simp] theorem State.setCore_engines : (s.setCore r c).engines = s.engines := rfl
@[simp] theorem State.setCore_statuses : (s.setCore r c).statuses = s.statuses := rfl
@[simp] theorem State.setCore_msgs : (s.setCore r c).msgs = s.msgs := rfl
@[simp] theorem State.setCore_nets : (s.setCore r c).nets = s.nets := rfl
@[simp] theorem State.setCore_colls : (s.setCore r c).colls = s.colls := rfl
@[simp] theorem State.setCore_redundants : (s.setCore r c).redundants = s.redundants := rfl
@[simp] theorem State.setCore_rollbackDue : (s.setCore r c).rollbackDue = s.rollbackDue := rfl
@[simp] theorem State.setCore_links : (s.setCore r c).links = s.links := rfl
@[simp] theorem State.setCore_tiers : (s.setCore r c).tiers = s.tiers := rfl
@[simp] theorem State.setCore_ports : (s.setCore r c).ports = s.ports := rfl
@[simp] theorem State.setCore_ltol : (s.setCore r c).ltol = s.ltol := rfl
@[simp] theorem State.setCore_fabric : (s.setCore r c).fabric = s.fabric := rfl
@[simp] theorem State.setCore_standby : (s.setCore r c).standby = s.standby := rfl
@[simp] theorem State.setCore_peers : (s.setCore r c).peers = s.peers := rfl
@[simp] theorem State.setCore_tierChecks : (s.setCore r c).tierChecks = s.tierChecks := rfl
@[simp] theorem State.setCore_heldOrder : (s.setCore r c).heldOrder = s.heldOrder := rfl
@[simp] theorem State.setCore_resolves : (s.setCore r c).resolves = s.resolves := rfl
end

section
variable (s : State) (r : Nat) (f : Core → Core)
@[simp] theorem State.modCore_mem : (s.modCore r f).mem = s.mem := rfl
@[simp] theorem State.modCore_bands : (s.modCore r f).bands = s.bands := rfl
@[simp] theorem State.modCore_dies : (s.modCore r f).dies = s.dies := rfl
@[simp] theorem State.modCore_cycle : (s.modCore r f).cycle = s.cycle := rfl
@[simp] theorem State.modCore_tick : (s.modCore r f).tick = s.tick := rfl
@[simp] theorem State.modCore_turn : (s.modCore r f).turn = s.turn := rfl
@[simp] theorem State.modCore_granted : (s.modCore r f).granted = s.granted := rfl
@[simp] theorem State.modCore_unitTurn : (s.modCore r f).unitTurn = s.unitTurn := rfl
@[simp] theorem State.modCore_cursor : (s.modCore r f).cursor = s.cursor := rfl
@[simp] theorem State.modCore_dev : (s.modCore r f).dev = s.dev := rfl
@[simp] theorem State.modCore_monitor : (s.modCore r f).monitor = s.monitor := rfl
@[simp] theorem State.modCore_agenda : (s.modCore r f).agenda = s.agenda := rfl
@[simp] theorem State.modCore_bringUp : (s.modCore r f).bringUp = s.bringUp := rfl
@[simp] theorem State.modCore_parts : (s.modCore r f).parts = s.parts := rfl
@[simp] theorem State.modCore_pgrant : (s.modCore r f).pgrant = s.pgrant := rfl
@[simp] theorem State.modCore_hqg : (s.modCore r f).hqg = s.hqg := rfl
@[simp] theorem State.modCore_queues : (s.modCore r f).queues = s.queues := rfl
@[simp] theorem State.modCore_joins : (s.modCore r f).joins = s.joins := rfl
@[simp] theorem State.modCore_terms : (s.modCore r f).terms = s.terms := rfl
@[simp] theorem State.modCore_nextTerm : (s.modCore r f).nextTerm = s.nextTerm := rfl
@[simp] theorem State.modCore_gangs : (s.modCore r f).gangs = s.gangs := rfl
@[simp] theorem State.modCore_engines : (s.modCore r f).engines = s.engines := rfl
@[simp] theorem State.modCore_statuses : (s.modCore r f).statuses = s.statuses := rfl
@[simp] theorem State.modCore_msgs : (s.modCore r f).msgs = s.msgs := rfl
@[simp] theorem State.modCore_nets : (s.modCore r f).nets = s.nets := rfl
@[simp] theorem State.modCore_colls : (s.modCore r f).colls = s.colls := rfl
@[simp] theorem State.modCore_redundants : (s.modCore r f).redundants = s.redundants := rfl
@[simp] theorem State.modCore_rollbackDue : (s.modCore r f).rollbackDue = s.rollbackDue := rfl
@[simp] theorem State.modCore_links : (s.modCore r f).links = s.links := rfl
@[simp] theorem State.modCore_tiers : (s.modCore r f).tiers = s.tiers := rfl
@[simp] theorem State.modCore_ports : (s.modCore r f).ports = s.ports := rfl
@[simp] theorem State.modCore_ltol : (s.modCore r f).ltol = s.ltol := rfl
@[simp] theorem State.modCore_fabric : (s.modCore r f).fabric = s.fabric := rfl
@[simp] theorem State.modCore_standby : (s.modCore r f).standby = s.standby := rfl
@[simp] theorem State.modCore_peers : (s.modCore r f).peers = s.peers := rfl
@[simp] theorem State.modCore_tierChecks : (s.modCore r f).tierChecks = s.tierChecks := rfl
@[simp] theorem State.modCore_heldOrder : (s.modCore r f).heldOrder = s.heldOrder := rfl
@[simp] theorem State.modCore_resolves : (s.modCore r f).resolves = s.resolves := rfl
end

section
variable (s : State) (w : Turn) (t : Thread)
@[simp] theorem State.setThAt_mem : (s.setThAt w t).mem = s.mem := rfl
@[simp] theorem State.setThAt_bands : (s.setThAt w t).bands = s.bands := rfl
@[simp] theorem State.setThAt_dies : (s.setThAt w t).dies = s.dies := rfl
@[simp] theorem State.setThAt_cycle : (s.setThAt w t).cycle = s.cycle := rfl
@[simp] theorem State.setThAt_tick : (s.setThAt w t).tick = s.tick := rfl
@[simp] theorem State.setThAt_turn : (s.setThAt w t).turn = s.turn := rfl
@[simp] theorem State.setThAt_granted : (s.setThAt w t).granted = s.granted := rfl
@[simp] theorem State.setThAt_unitTurn : (s.setThAt w t).unitTurn = s.unitTurn := rfl
@[simp] theorem State.setThAt_cursor : (s.setThAt w t).cursor = s.cursor := rfl
@[simp] theorem State.setThAt_dev : (s.setThAt w t).dev = s.dev := rfl
@[simp] theorem State.setThAt_monitor : (s.setThAt w t).monitor = s.monitor := rfl
@[simp] theorem State.setThAt_agenda : (s.setThAt w t).agenda = s.agenda := rfl
@[simp] theorem State.setThAt_bringUp : (s.setThAt w t).bringUp = s.bringUp := rfl
@[simp] theorem State.setThAt_parts : (s.setThAt w t).parts = s.parts := rfl
@[simp] theorem State.setThAt_pgrant : (s.setThAt w t).pgrant = s.pgrant := rfl
@[simp] theorem State.setThAt_hqg : (s.setThAt w t).hqg = s.hqg := rfl
@[simp] theorem State.setThAt_queues : (s.setThAt w t).queues = s.queues := rfl
@[simp] theorem State.setThAt_joins : (s.setThAt w t).joins = s.joins := rfl
@[simp] theorem State.setThAt_terms : (s.setThAt w t).terms = s.terms := rfl
@[simp] theorem State.setThAt_nextTerm : (s.setThAt w t).nextTerm = s.nextTerm := rfl
@[simp] theorem State.setThAt_gangs : (s.setThAt w t).gangs = s.gangs := rfl
@[simp] theorem State.setThAt_engines : (s.setThAt w t).engines = s.engines := rfl
@[simp] theorem State.setThAt_statuses : (s.setThAt w t).statuses = s.statuses := rfl
@[simp] theorem State.setThAt_msgs : (s.setThAt w t).msgs = s.msgs := rfl
@[simp] theorem State.setThAt_nets : (s.setThAt w t).nets = s.nets := rfl
@[simp] theorem State.setThAt_colls : (s.setThAt w t).colls = s.colls := rfl
@[simp] theorem State.setThAt_redundants : (s.setThAt w t).redundants = s.redundants := rfl
@[simp] theorem State.setThAt_rollbackDue : (s.setThAt w t).rollbackDue = s.rollbackDue := rfl
@[simp] theorem State.setThAt_links : (s.setThAt w t).links = s.links := rfl
@[simp] theorem State.setThAt_tiers : (s.setThAt w t).tiers = s.tiers := rfl
@[simp] theorem State.setThAt_ports : (s.setThAt w t).ports = s.ports := rfl
@[simp] theorem State.setThAt_ltol : (s.setThAt w t).ltol = s.ltol := rfl
@[simp] theorem State.setThAt_fabric : (s.setThAt w t).fabric = s.fabric := rfl
@[simp] theorem State.setThAt_standby : (s.setThAt w t).standby = s.standby := rfl
@[simp] theorem State.setThAt_peers : (s.setThAt w t).peers = s.peers := rfl
@[simp] theorem State.setThAt_tierChecks : (s.setThAt w t).tierChecks = s.tierChecks := rfl
@[simp] theorem State.setThAt_heldOrder : (s.setThAt w t).heldOrder = s.heldOrder := rfl
@[simp] theorem State.setThAt_resolves : (s.setThAt w t).resolves = s.resolves := rfl
end

section
variable (s : State) (w : Turn) (f : Thread → Thread)
@[simp] theorem State.modThAt_mem : (s.modThAt w f).mem = s.mem := rfl
@[simp] theorem State.modThAt_bands : (s.modThAt w f).bands = s.bands := rfl
@[simp] theorem State.modThAt_dies : (s.modThAt w f).dies = s.dies := rfl
@[simp] theorem State.modThAt_cycle : (s.modThAt w f).cycle = s.cycle := rfl
@[simp] theorem State.modThAt_tick : (s.modThAt w f).tick = s.tick := rfl
@[simp] theorem State.modThAt_turn : (s.modThAt w f).turn = s.turn := rfl
@[simp] theorem State.modThAt_granted : (s.modThAt w f).granted = s.granted := rfl
@[simp] theorem State.modThAt_unitTurn : (s.modThAt w f).unitTurn = s.unitTurn := rfl
@[simp] theorem State.modThAt_cursor : (s.modThAt w f).cursor = s.cursor := rfl
@[simp] theorem State.modThAt_dev : (s.modThAt w f).dev = s.dev := rfl
@[simp] theorem State.modThAt_monitor : (s.modThAt w f).monitor = s.monitor := rfl
@[simp] theorem State.modThAt_agenda : (s.modThAt w f).agenda = s.agenda := rfl
@[simp] theorem State.modThAt_bringUp : (s.modThAt w f).bringUp = s.bringUp := rfl
@[simp] theorem State.modThAt_parts : (s.modThAt w f).parts = s.parts := rfl
@[simp] theorem State.modThAt_pgrant : (s.modThAt w f).pgrant = s.pgrant := rfl
@[simp] theorem State.modThAt_hqg : (s.modThAt w f).hqg = s.hqg := rfl
@[simp] theorem State.modThAt_queues : (s.modThAt w f).queues = s.queues := rfl
@[simp] theorem State.modThAt_joins : (s.modThAt w f).joins = s.joins := rfl
@[simp] theorem State.modThAt_terms : (s.modThAt w f).terms = s.terms := rfl
@[simp] theorem State.modThAt_nextTerm : (s.modThAt w f).nextTerm = s.nextTerm := rfl
@[simp] theorem State.modThAt_gangs : (s.modThAt w f).gangs = s.gangs := rfl
@[simp] theorem State.modThAt_engines : (s.modThAt w f).engines = s.engines := rfl
@[simp] theorem State.modThAt_statuses : (s.modThAt w f).statuses = s.statuses := rfl
@[simp] theorem State.modThAt_msgs : (s.modThAt w f).msgs = s.msgs := rfl
@[simp] theorem State.modThAt_nets : (s.modThAt w f).nets = s.nets := rfl
@[simp] theorem State.modThAt_colls : (s.modThAt w f).colls = s.colls := rfl
@[simp] theorem State.modThAt_redundants : (s.modThAt w f).redundants = s.redundants := rfl
@[simp] theorem State.modThAt_rollbackDue : (s.modThAt w f).rollbackDue = s.rollbackDue := rfl
@[simp] theorem State.modThAt_links : (s.modThAt w f).links = s.links := rfl
@[simp] theorem State.modThAt_tiers : (s.modThAt w f).tiers = s.tiers := rfl
@[simp] theorem State.modThAt_ports : (s.modThAt w f).ports = s.ports := rfl
@[simp] theorem State.modThAt_ltol : (s.modThAt w f).ltol = s.ltol := rfl
@[simp] theorem State.modThAt_fabric : (s.modThAt w f).fabric = s.fabric := rfl
@[simp] theorem State.modThAt_standby : (s.modThAt w f).standby = s.standby := rfl
@[simp] theorem State.modThAt_peers : (s.modThAt w f).peers = s.peers := rfl
@[simp] theorem State.modThAt_tierChecks : (s.modThAt w f).tierChecks = s.tierChecks := rfl
@[simp] theorem State.modThAt_heldOrder : (s.modThAt w f).heldOrder = s.heldOrder := rfl
@[simp] theorem State.modThAt_resolves : (s.modThAt w f).resolves = s.resolves := rfl
end

section
variable (s : State) (t : Thread)
@[simp] theorem State.setTh_mem : (s.setTh t).mem = s.mem := rfl
@[simp] theorem State.setTh_bands : (s.setTh t).bands = s.bands := rfl
@[simp] theorem State.setTh_dies : (s.setTh t).dies = s.dies := rfl
@[simp] theorem State.setTh_cycle : (s.setTh t).cycle = s.cycle := rfl
@[simp] theorem State.setTh_tick : (s.setTh t).tick = s.tick := rfl
@[simp] theorem State.setTh_turn : (s.setTh t).turn = s.turn := rfl
@[simp] theorem State.setTh_granted : (s.setTh t).granted = s.granted := rfl
@[simp] theorem State.setTh_unitTurn : (s.setTh t).unitTurn = s.unitTurn := rfl
@[simp] theorem State.setTh_cursor : (s.setTh t).cursor = s.cursor := rfl
@[simp] theorem State.setTh_dev : (s.setTh t).dev = s.dev := rfl
@[simp] theorem State.setTh_monitor : (s.setTh t).monitor = s.monitor := rfl
@[simp] theorem State.setTh_agenda : (s.setTh t).agenda = s.agenda := rfl
@[simp] theorem State.setTh_bringUp : (s.setTh t).bringUp = s.bringUp := rfl
@[simp] theorem State.setTh_parts : (s.setTh t).parts = s.parts := rfl
@[simp] theorem State.setTh_pgrant : (s.setTh t).pgrant = s.pgrant := rfl
@[simp] theorem State.setTh_hqg : (s.setTh t).hqg = s.hqg := rfl
@[simp] theorem State.setTh_queues : (s.setTh t).queues = s.queues := rfl
@[simp] theorem State.setTh_joins : (s.setTh t).joins = s.joins := rfl
@[simp] theorem State.setTh_terms : (s.setTh t).terms = s.terms := rfl
@[simp] theorem State.setTh_nextTerm : (s.setTh t).nextTerm = s.nextTerm := rfl
@[simp] theorem State.setTh_gangs : (s.setTh t).gangs = s.gangs := rfl
@[simp] theorem State.setTh_engines : (s.setTh t).engines = s.engines := rfl
@[simp] theorem State.setTh_statuses : (s.setTh t).statuses = s.statuses := rfl
@[simp] theorem State.setTh_msgs : (s.setTh t).msgs = s.msgs := rfl
@[simp] theorem State.setTh_nets : (s.setTh t).nets = s.nets := rfl
@[simp] theorem State.setTh_colls : (s.setTh t).colls = s.colls := rfl
@[simp] theorem State.setTh_redundants : (s.setTh t).redundants = s.redundants := rfl
@[simp] theorem State.setTh_rollbackDue : (s.setTh t).rollbackDue = s.rollbackDue := rfl
@[simp] theorem State.setTh_links : (s.setTh t).links = s.links := rfl
@[simp] theorem State.setTh_tiers : (s.setTh t).tiers = s.tiers := rfl
@[simp] theorem State.setTh_ports : (s.setTh t).ports = s.ports := rfl
@[simp] theorem State.setTh_ltol : (s.setTh t).ltol = s.ltol := rfl
@[simp] theorem State.setTh_fabric : (s.setTh t).fabric = s.fabric := rfl
@[simp] theorem State.setTh_standby : (s.setTh t).standby = s.standby := rfl
@[simp] theorem State.setTh_peers : (s.setTh t).peers = s.peers := rfl
@[simp] theorem State.setTh_tierChecks : (s.setTh t).tierChecks = s.tierChecks := rfl
@[simp] theorem State.setTh_heldOrder : (s.setTh t).heldOrder = s.heldOrder := rfl
@[simp] theorem State.setTh_resolves : (s.setTh t).resolves = s.resolves := rfl
end

section
variable (s : State) (f : Thread → Thread)
@[simp] theorem State.modTh_mem : (s.modTh f).mem = s.mem := rfl
@[simp] theorem State.modTh_bands : (s.modTh f).bands = s.bands := rfl
@[simp] theorem State.modTh_dies : (s.modTh f).dies = s.dies := rfl
@[simp] theorem State.modTh_cycle : (s.modTh f).cycle = s.cycle := rfl
@[simp] theorem State.modTh_tick : (s.modTh f).tick = s.tick := rfl
@[simp] theorem State.modTh_turn : (s.modTh f).turn = s.turn := rfl
@[simp] theorem State.modTh_granted : (s.modTh f).granted = s.granted := rfl
@[simp] theorem State.modTh_unitTurn : (s.modTh f).unitTurn = s.unitTurn := rfl
@[simp] theorem State.modTh_cursor : (s.modTh f).cursor = s.cursor := rfl
@[simp] theorem State.modTh_dev : (s.modTh f).dev = s.dev := rfl
@[simp] theorem State.modTh_monitor : (s.modTh f).monitor = s.monitor := rfl
@[simp] theorem State.modTh_agenda : (s.modTh f).agenda = s.agenda := rfl
@[simp] theorem State.modTh_bringUp : (s.modTh f).bringUp = s.bringUp := rfl
@[simp] theorem State.modTh_parts : (s.modTh f).parts = s.parts := rfl
@[simp] theorem State.modTh_pgrant : (s.modTh f).pgrant = s.pgrant := rfl
@[simp] theorem State.modTh_hqg : (s.modTh f).hqg = s.hqg := rfl
@[simp] theorem State.modTh_queues : (s.modTh f).queues = s.queues := rfl
@[simp] theorem State.modTh_joins : (s.modTh f).joins = s.joins := rfl
@[simp] theorem State.modTh_terms : (s.modTh f).terms = s.terms := rfl
@[simp] theorem State.modTh_nextTerm : (s.modTh f).nextTerm = s.nextTerm := rfl
@[simp] theorem State.modTh_gangs : (s.modTh f).gangs = s.gangs := rfl
@[simp] theorem State.modTh_engines : (s.modTh f).engines = s.engines := rfl
@[simp] theorem State.modTh_statuses : (s.modTh f).statuses = s.statuses := rfl
@[simp] theorem State.modTh_msgs : (s.modTh f).msgs = s.msgs := rfl
@[simp] theorem State.modTh_nets : (s.modTh f).nets = s.nets := rfl
@[simp] theorem State.modTh_colls : (s.modTh f).colls = s.colls := rfl
@[simp] theorem State.modTh_redundants : (s.modTh f).redundants = s.redundants := rfl
@[simp] theorem State.modTh_rollbackDue : (s.modTh f).rollbackDue = s.rollbackDue := rfl
@[simp] theorem State.modTh_links : (s.modTh f).links = s.links := rfl
@[simp] theorem State.modTh_tiers : (s.modTh f).tiers = s.tiers := rfl
@[simp] theorem State.modTh_ports : (s.modTh f).ports = s.ports := rfl
@[simp] theorem State.modTh_ltol : (s.modTh f).ltol = s.ltol := rfl
@[simp] theorem State.modTh_fabric : (s.modTh f).fabric = s.fabric := rfl
@[simp] theorem State.modTh_standby : (s.modTh f).standby = s.standby := rfl
@[simp] theorem State.modTh_peers : (s.modTh f).peers = s.peers := rfl
@[simp] theorem State.modTh_tierChecks : (s.modTh f).tierChecks = s.tierChecks := rfl
@[simp] theorem State.modTh_heldOrder : (s.modTh f).heldOrder = s.heldOrder := rfl
@[simp] theorem State.modTh_resolves : (s.modTh f).resolves = s.resolves := rfl
end

section
variable (s : State) (f : Core → Core)
@[simp] theorem State.modMe_mem : (s.modMe f).mem = s.mem := rfl
@[simp] theorem State.modMe_bands : (s.modMe f).bands = s.bands := rfl
@[simp] theorem State.modMe_dies : (s.modMe f).dies = s.dies := rfl
@[simp] theorem State.modMe_cycle : (s.modMe f).cycle = s.cycle := rfl
@[simp] theorem State.modMe_tick : (s.modMe f).tick = s.tick := rfl
@[simp] theorem State.modMe_turn : (s.modMe f).turn = s.turn := rfl
@[simp] theorem State.modMe_granted : (s.modMe f).granted = s.granted := rfl
@[simp] theorem State.modMe_unitTurn : (s.modMe f).unitTurn = s.unitTurn := rfl
@[simp] theorem State.modMe_cursor : (s.modMe f).cursor = s.cursor := rfl
@[simp] theorem State.modMe_dev : (s.modMe f).dev = s.dev := rfl
@[simp] theorem State.modMe_monitor : (s.modMe f).monitor = s.monitor := rfl
@[simp] theorem State.modMe_agenda : (s.modMe f).agenda = s.agenda := rfl
@[simp] theorem State.modMe_bringUp : (s.modMe f).bringUp = s.bringUp := rfl
@[simp] theorem State.modMe_parts : (s.modMe f).parts = s.parts := rfl
@[simp] theorem State.modMe_pgrant : (s.modMe f).pgrant = s.pgrant := rfl
@[simp] theorem State.modMe_hqg : (s.modMe f).hqg = s.hqg := rfl
@[simp] theorem State.modMe_queues : (s.modMe f).queues = s.queues := rfl
@[simp] theorem State.modMe_joins : (s.modMe f).joins = s.joins := rfl
@[simp] theorem State.modMe_terms : (s.modMe f).terms = s.terms := rfl
@[simp] theorem State.modMe_nextTerm : (s.modMe f).nextTerm = s.nextTerm := rfl
@[simp] theorem State.modMe_gangs : (s.modMe f).gangs = s.gangs := rfl
@[simp] theorem State.modMe_engines : (s.modMe f).engines = s.engines := rfl
@[simp] theorem State.modMe_statuses : (s.modMe f).statuses = s.statuses := rfl
@[simp] theorem State.modMe_msgs : (s.modMe f).msgs = s.msgs := rfl
@[simp] theorem State.modMe_nets : (s.modMe f).nets = s.nets := rfl
@[simp] theorem State.modMe_colls : (s.modMe f).colls = s.colls := rfl
@[simp] theorem State.modMe_redundants : (s.modMe f).redundants = s.redundants := rfl
@[simp] theorem State.modMe_rollbackDue : (s.modMe f).rollbackDue = s.rollbackDue := rfl
@[simp] theorem State.modMe_links : (s.modMe f).links = s.links := rfl
@[simp] theorem State.modMe_tiers : (s.modMe f).tiers = s.tiers := rfl
@[simp] theorem State.modMe_ports : (s.modMe f).ports = s.ports := rfl
@[simp] theorem State.modMe_ltol : (s.modMe f).ltol = s.ltol := rfl
@[simp] theorem State.modMe_fabric : (s.modMe f).fabric = s.fabric := rfl
@[simp] theorem State.modMe_standby : (s.modMe f).standby = s.standby := rfl
@[simp] theorem State.modMe_peers : (s.modMe f).peers = s.peers := rfl
@[simp] theorem State.modMe_tierChecks : (s.modMe f).tierChecks = s.tierChecks := rfl
@[simp] theorem State.modMe_heldOrder : (s.modMe f).heldOrder = s.heldOrder := rfl
@[simp] theorem State.modMe_resolves : (s.modMe f).resolves = s.resolves := rfl
end

section
variable (s : State) (b : Nat) (x : Band)
@[simp] theorem State.setBand_mem : (s.setBand b x).mem = s.mem := rfl
@[simp] theorem State.setBand_cores : (s.setBand b x).cores = s.cores := rfl
@[simp] theorem State.setBand_dies : (s.setBand b x).dies = s.dies := rfl
@[simp] theorem State.setBand_cycle : (s.setBand b x).cycle = s.cycle := rfl
@[simp] theorem State.setBand_tick : (s.setBand b x).tick = s.tick := rfl
@[simp] theorem State.setBand_turn : (s.setBand b x).turn = s.turn := rfl
@[simp] theorem State.setBand_granted : (s.setBand b x).granted = s.granted := rfl
@[simp] theorem State.setBand_unitTurn : (s.setBand b x).unitTurn = s.unitTurn := rfl
@[simp] theorem State.setBand_cursor : (s.setBand b x).cursor = s.cursor := rfl
@[simp] theorem State.setBand_dev : (s.setBand b x).dev = s.dev := rfl
@[simp] theorem State.setBand_monitor : (s.setBand b x).monitor = s.monitor := rfl
@[simp] theorem State.setBand_agenda : (s.setBand b x).agenda = s.agenda := rfl
@[simp] theorem State.setBand_bringUp : (s.setBand b x).bringUp = s.bringUp := rfl
@[simp] theorem State.setBand_parts : (s.setBand b x).parts = s.parts := rfl
@[simp] theorem State.setBand_pgrant : (s.setBand b x).pgrant = s.pgrant := rfl
@[simp] theorem State.setBand_hqg : (s.setBand b x).hqg = s.hqg := rfl
@[simp] theorem State.setBand_queues : (s.setBand b x).queues = s.queues := rfl
@[simp] theorem State.setBand_joins : (s.setBand b x).joins = s.joins := rfl
@[simp] theorem State.setBand_terms : (s.setBand b x).terms = s.terms := rfl
@[simp] theorem State.setBand_nextTerm : (s.setBand b x).nextTerm = s.nextTerm := rfl
@[simp] theorem State.setBand_gangs : (s.setBand b x).gangs = s.gangs := rfl
@[simp] theorem State.setBand_engines : (s.setBand b x).engines = s.engines := rfl
@[simp] theorem State.setBand_statuses : (s.setBand b x).statuses = s.statuses := rfl
@[simp] theorem State.setBand_msgs : (s.setBand b x).msgs = s.msgs := rfl
@[simp] theorem State.setBand_nets : (s.setBand b x).nets = s.nets := rfl
@[simp] theorem State.setBand_colls : (s.setBand b x).colls = s.colls := rfl
@[simp] theorem State.setBand_redundants : (s.setBand b x).redundants = s.redundants := rfl
@[simp] theorem State.setBand_rollbackDue : (s.setBand b x).rollbackDue = s.rollbackDue := rfl
@[simp] theorem State.setBand_links : (s.setBand b x).links = s.links := rfl
@[simp] theorem State.setBand_tiers : (s.setBand b x).tiers = s.tiers := rfl
@[simp] theorem State.setBand_ports : (s.setBand b x).ports = s.ports := rfl
@[simp] theorem State.setBand_ltol : (s.setBand b x).ltol = s.ltol := rfl
@[simp] theorem State.setBand_fabric : (s.setBand b x).fabric = s.fabric := rfl
@[simp] theorem State.setBand_standby : (s.setBand b x).standby = s.standby := rfl
@[simp] theorem State.setBand_peers : (s.setBand b x).peers = s.peers := rfl
@[simp] theorem State.setBand_tierChecks : (s.setBand b x).tierChecks = s.tierChecks := rfl
@[simp] theorem State.setBand_heldOrder : (s.setBand b x).heldOrder = s.heldOrder := rfl
@[simp] theorem State.setBand_resolves : (s.setBand b x).resolves = s.resolves := rfl
end

section
variable (s : State) (b : Nat) (f : Band → Band)
@[simp] theorem State.modBand_mem : (s.modBand b f).mem = s.mem := rfl
@[simp] theorem State.modBand_cores : (s.modBand b f).cores = s.cores := rfl
@[simp] theorem State.modBand_dies : (s.modBand b f).dies = s.dies := rfl
@[simp] theorem State.modBand_cycle : (s.modBand b f).cycle = s.cycle := rfl
@[simp] theorem State.modBand_tick : (s.modBand b f).tick = s.tick := rfl
@[simp] theorem State.modBand_turn : (s.modBand b f).turn = s.turn := rfl
@[simp] theorem State.modBand_granted : (s.modBand b f).granted = s.granted := rfl
@[simp] theorem State.modBand_unitTurn : (s.modBand b f).unitTurn = s.unitTurn := rfl
@[simp] theorem State.modBand_cursor : (s.modBand b f).cursor = s.cursor := rfl
@[simp] theorem State.modBand_dev : (s.modBand b f).dev = s.dev := rfl
@[simp] theorem State.modBand_monitor : (s.modBand b f).monitor = s.monitor := rfl
@[simp] theorem State.modBand_agenda : (s.modBand b f).agenda = s.agenda := rfl
@[simp] theorem State.modBand_bringUp : (s.modBand b f).bringUp = s.bringUp := rfl
@[simp] theorem State.modBand_parts : (s.modBand b f).parts = s.parts := rfl
@[simp] theorem State.modBand_pgrant : (s.modBand b f).pgrant = s.pgrant := rfl
@[simp] theorem State.modBand_hqg : (s.modBand b f).hqg = s.hqg := rfl
@[simp] theorem State.modBand_queues : (s.modBand b f).queues = s.queues := rfl
@[simp] theorem State.modBand_joins : (s.modBand b f).joins = s.joins := rfl
@[simp] theorem State.modBand_terms : (s.modBand b f).terms = s.terms := rfl
@[simp] theorem State.modBand_nextTerm : (s.modBand b f).nextTerm = s.nextTerm := rfl
@[simp] theorem State.modBand_gangs : (s.modBand b f).gangs = s.gangs := rfl
@[simp] theorem State.modBand_engines : (s.modBand b f).engines = s.engines := rfl
@[simp] theorem State.modBand_statuses : (s.modBand b f).statuses = s.statuses := rfl
@[simp] theorem State.modBand_msgs : (s.modBand b f).msgs = s.msgs := rfl
@[simp] theorem State.modBand_nets : (s.modBand b f).nets = s.nets := rfl
@[simp] theorem State.modBand_colls : (s.modBand b f).colls = s.colls := rfl
@[simp] theorem State.modBand_redundants : (s.modBand b f).redundants = s.redundants := rfl
@[simp] theorem State.modBand_rollbackDue : (s.modBand b f).rollbackDue = s.rollbackDue := rfl
@[simp] theorem State.modBand_links : (s.modBand b f).links = s.links := rfl
@[simp] theorem State.modBand_tiers : (s.modBand b f).tiers = s.tiers := rfl
@[simp] theorem State.modBand_ports : (s.modBand b f).ports = s.ports := rfl
@[simp] theorem State.modBand_ltol : (s.modBand b f).ltol = s.ltol := rfl
@[simp] theorem State.modBand_fabric : (s.modBand b f).fabric = s.fabric := rfl
@[simp] theorem State.modBand_standby : (s.modBand b f).standby = s.standby := rfl
@[simp] theorem State.modBand_peers : (s.modBand b f).peers = s.peers := rfl
@[simp] theorem State.modBand_tierChecks : (s.modBand b f).tierChecks = s.tierChecks := rfl
@[simp] theorem State.modBand_heldOrder : (s.modBand b f).heldOrder = s.heldOrder := rfl
@[simp] theorem State.modBand_resolves : (s.modBand b f).resolves = s.resolves := rfl
end

section
variable (s : State) (q : Nat) (x : WorkQueue)
@[simp] theorem State.setQueue_mem : (s.setQueue q x).mem = s.mem := rfl
@[simp] theorem State.setQueue_cores : (s.setQueue q x).cores = s.cores := rfl
@[simp] theorem State.setQueue_bands : (s.setQueue q x).bands = s.bands := rfl
@[simp] theorem State.setQueue_dies : (s.setQueue q x).dies = s.dies := rfl
@[simp] theorem State.setQueue_cycle : (s.setQueue q x).cycle = s.cycle := rfl
@[simp] theorem State.setQueue_tick : (s.setQueue q x).tick = s.tick := rfl
@[simp] theorem State.setQueue_turn : (s.setQueue q x).turn = s.turn := rfl
@[simp] theorem State.setQueue_granted : (s.setQueue q x).granted = s.granted := rfl
@[simp] theorem State.setQueue_unitTurn : (s.setQueue q x).unitTurn = s.unitTurn := rfl
@[simp] theorem State.setQueue_cursor : (s.setQueue q x).cursor = s.cursor := rfl
@[simp] theorem State.setQueue_dev : (s.setQueue q x).dev = s.dev := rfl
@[simp] theorem State.setQueue_monitor : (s.setQueue q x).monitor = s.monitor := rfl
@[simp] theorem State.setQueue_agenda : (s.setQueue q x).agenda = s.agenda := rfl
@[simp] theorem State.setQueue_bringUp : (s.setQueue q x).bringUp = s.bringUp := rfl
@[simp] theorem State.setQueue_parts : (s.setQueue q x).parts = s.parts := rfl
@[simp] theorem State.setQueue_pgrant : (s.setQueue q x).pgrant = s.pgrant := rfl
@[simp] theorem State.setQueue_hqg : (s.setQueue q x).hqg = s.hqg := rfl
@[simp] theorem State.setQueue_joins : (s.setQueue q x).joins = s.joins := rfl
@[simp] theorem State.setQueue_terms : (s.setQueue q x).terms = s.terms := rfl
@[simp] theorem State.setQueue_nextTerm : (s.setQueue q x).nextTerm = s.nextTerm := rfl
@[simp] theorem State.setQueue_gangs : (s.setQueue q x).gangs = s.gangs := rfl
@[simp] theorem State.setQueue_engines : (s.setQueue q x).engines = s.engines := rfl
@[simp] theorem State.setQueue_statuses : (s.setQueue q x).statuses = s.statuses := rfl
@[simp] theorem State.setQueue_msgs : (s.setQueue q x).msgs = s.msgs := rfl
@[simp] theorem State.setQueue_nets : (s.setQueue q x).nets = s.nets := rfl
@[simp] theorem State.setQueue_colls : (s.setQueue q x).colls = s.colls := rfl
@[simp] theorem State.setQueue_redundants : (s.setQueue q x).redundants = s.redundants := rfl
@[simp] theorem State.setQueue_rollbackDue : (s.setQueue q x).rollbackDue = s.rollbackDue := rfl
@[simp] theorem State.setQueue_links : (s.setQueue q x).links = s.links := rfl
@[simp] theorem State.setQueue_tiers : (s.setQueue q x).tiers = s.tiers := rfl
@[simp] theorem State.setQueue_ports : (s.setQueue q x).ports = s.ports := rfl
@[simp] theorem State.setQueue_ltol : (s.setQueue q x).ltol = s.ltol := rfl
@[simp] theorem State.setQueue_fabric : (s.setQueue q x).fabric = s.fabric := rfl
@[simp] theorem State.setQueue_standby : (s.setQueue q x).standby = s.standby := rfl
@[simp] theorem State.setQueue_peers : (s.setQueue q x).peers = s.peers := rfl
@[simp] theorem State.setQueue_tierChecks : (s.setQueue q x).tierChecks = s.tierChecks := rfl
@[simp] theorem State.setQueue_heldOrder : (s.setQueue q x).heldOrder = s.heldOrder := rfl
@[simp] theorem State.setQueue_resolves : (s.setQueue q x).resolves = s.resolves := rfl
end

section
variable (s : State) (e : Nat) (x : Engine)
@[simp] theorem State.setEngine_mem : (s.setEngine e x).mem = s.mem := rfl
@[simp] theorem State.setEngine_cores : (s.setEngine e x).cores = s.cores := rfl
@[simp] theorem State.setEngine_bands : (s.setEngine e x).bands = s.bands := rfl
@[simp] theorem State.setEngine_dies : (s.setEngine e x).dies = s.dies := rfl
@[simp] theorem State.setEngine_cycle : (s.setEngine e x).cycle = s.cycle := rfl
@[simp] theorem State.setEngine_tick : (s.setEngine e x).tick = s.tick := rfl
@[simp] theorem State.setEngine_turn : (s.setEngine e x).turn = s.turn := rfl
@[simp] theorem State.setEngine_granted : (s.setEngine e x).granted = s.granted := rfl
@[simp] theorem State.setEngine_unitTurn : (s.setEngine e x).unitTurn = s.unitTurn := rfl
@[simp] theorem State.setEngine_cursor : (s.setEngine e x).cursor = s.cursor := rfl
@[simp] theorem State.setEngine_dev : (s.setEngine e x).dev = s.dev := rfl
@[simp] theorem State.setEngine_monitor : (s.setEngine e x).monitor = s.monitor := rfl
@[simp] theorem State.setEngine_agenda : (s.setEngine e x).agenda = s.agenda := rfl
@[simp] theorem State.setEngine_bringUp : (s.setEngine e x).bringUp = s.bringUp := rfl
@[simp] theorem State.setEngine_parts : (s.setEngine e x).parts = s.parts := rfl
@[simp] theorem State.setEngine_pgrant : (s.setEngine e x).pgrant = s.pgrant := rfl
@[simp] theorem State.setEngine_hqg : (s.setEngine e x).hqg = s.hqg := rfl
@[simp] theorem State.setEngine_queues : (s.setEngine e x).queues = s.queues := rfl
@[simp] theorem State.setEngine_joins : (s.setEngine e x).joins = s.joins := rfl
@[simp] theorem State.setEngine_terms : (s.setEngine e x).terms = s.terms := rfl
@[simp] theorem State.setEngine_nextTerm : (s.setEngine e x).nextTerm = s.nextTerm := rfl
@[simp] theorem State.setEngine_gangs : (s.setEngine e x).gangs = s.gangs := rfl
@[simp] theorem State.setEngine_statuses : (s.setEngine e x).statuses = s.statuses := rfl
@[simp] theorem State.setEngine_msgs : (s.setEngine e x).msgs = s.msgs := rfl
@[simp] theorem State.setEngine_nets : (s.setEngine e x).nets = s.nets := rfl
@[simp] theorem State.setEngine_colls : (s.setEngine e x).colls = s.colls := rfl
@[simp] theorem State.setEngine_redundants : (s.setEngine e x).redundants = s.redundants := rfl
@[simp] theorem State.setEngine_rollbackDue : (s.setEngine e x).rollbackDue = s.rollbackDue := rfl
@[simp] theorem State.setEngine_links : (s.setEngine e x).links = s.links := rfl
@[simp] theorem State.setEngine_tiers : (s.setEngine e x).tiers = s.tiers := rfl
@[simp] theorem State.setEngine_ports : (s.setEngine e x).ports = s.ports := rfl
@[simp] theorem State.setEngine_ltol : (s.setEngine e x).ltol = s.ltol := rfl
@[simp] theorem State.setEngine_fabric : (s.setEngine e x).fabric = s.fabric := rfl
@[simp] theorem State.setEngine_standby : (s.setEngine e x).standby = s.standby := rfl
@[simp] theorem State.setEngine_peers : (s.setEngine e x).peers = s.peers := rfl
@[simp] theorem State.setEngine_tierChecks : (s.setEngine e x).tierChecks = s.tierChecks := rfl
@[simp] theorem State.setEngine_heldOrder : (s.setEngine e x).heldOrder = s.heldOrder := rfl
@[simp] theorem State.setEngine_resolves : (s.setEngine e x).resolves = s.resolves := rfl
end

section
variable (s : State) (l : Loc) (n v : Nat)
@[simp] theorem State.poke_cores : (s.poke l n v).cores = s.cores := rfl
@[simp] theorem State.poke_bands : (s.poke l n v).bands = s.bands := rfl
@[simp] theorem State.poke_dies : (s.poke l n v).dies = s.dies := rfl
@[simp] theorem State.poke_cycle : (s.poke l n v).cycle = s.cycle := rfl
@[simp] theorem State.poke_tick : (s.poke l n v).tick = s.tick := rfl
@[simp] theorem State.poke_turn : (s.poke l n v).turn = s.turn := rfl
@[simp] theorem State.poke_granted : (s.poke l n v).granted = s.granted := rfl
@[simp] theorem State.poke_unitTurn : (s.poke l n v).unitTurn = s.unitTurn := rfl
@[simp] theorem State.poke_cursor : (s.poke l n v).cursor = s.cursor := rfl
@[simp] theorem State.poke_dev : (s.poke l n v).dev = s.dev := rfl
@[simp] theorem State.poke_monitor : (s.poke l n v).monitor = s.monitor := rfl
@[simp] theorem State.poke_agenda : (s.poke l n v).agenda = s.agenda := rfl
@[simp] theorem State.poke_bringUp : (s.poke l n v).bringUp = s.bringUp := rfl
@[simp] theorem State.poke_parts : (s.poke l n v).parts = s.parts := rfl
@[simp] theorem State.poke_pgrant : (s.poke l n v).pgrant = s.pgrant := rfl
@[simp] theorem State.poke_hqg : (s.poke l n v).hqg = s.hqg := rfl
@[simp] theorem State.poke_queues : (s.poke l n v).queues = s.queues := rfl
@[simp] theorem State.poke_joins : (s.poke l n v).joins = s.joins := rfl
@[simp] theorem State.poke_terms : (s.poke l n v).terms = s.terms := rfl
@[simp] theorem State.poke_nextTerm : (s.poke l n v).nextTerm = s.nextTerm := rfl
@[simp] theorem State.poke_gangs : (s.poke l n v).gangs = s.gangs := rfl
@[simp] theorem State.poke_engines : (s.poke l n v).engines = s.engines := rfl
@[simp] theorem State.poke_statuses : (s.poke l n v).statuses = s.statuses := rfl
@[simp] theorem State.poke_msgs : (s.poke l n v).msgs = s.msgs := rfl
@[simp] theorem State.poke_nets : (s.poke l n v).nets = s.nets := rfl
@[simp] theorem State.poke_colls : (s.poke l n v).colls = s.colls := rfl
@[simp] theorem State.poke_redundants : (s.poke l n v).redundants = s.redundants := rfl
@[simp] theorem State.poke_rollbackDue : (s.poke l n v).rollbackDue = s.rollbackDue := rfl
@[simp] theorem State.poke_links : (s.poke l n v).links = s.links := rfl
@[simp] theorem State.poke_tiers : (s.poke l n v).tiers = s.tiers := rfl
@[simp] theorem State.poke_ports : (s.poke l n v).ports = s.ports := rfl
@[simp] theorem State.poke_ltol : (s.poke l n v).ltol = s.ltol := rfl
@[simp] theorem State.poke_fabric : (s.poke l n v).fabric = s.fabric := rfl
@[simp] theorem State.poke_standby : (s.poke l n v).standby = s.standby := rfl
@[simp] theorem State.poke_peers : (s.poke l n v).peers = s.peers := rfl
@[simp] theorem State.poke_tierChecks : (s.poke l n v).tierChecks = s.tierChecks := rfl
@[simp] theorem State.poke_heldOrder : (s.poke l n v).heldOrder = s.heldOrder := rfl
@[simp] theorem State.poke_resolves : (s.poke l n v).resolves = s.resolves := rfl
end

section
variable (s : State) (l : Loc) (n : Nat)
@[simp] theorem State.wipe_cores : (s.wipe l n).cores = s.cores := rfl
@[simp] theorem State.wipe_bands : (s.wipe l n).bands = s.bands := rfl
@[simp] theorem State.wipe_dies : (s.wipe l n).dies = s.dies := rfl
@[simp] theorem State.wipe_cycle : (s.wipe l n).cycle = s.cycle := rfl
@[simp] theorem State.wipe_tick : (s.wipe l n).tick = s.tick := rfl
@[simp] theorem State.wipe_turn : (s.wipe l n).turn = s.turn := rfl
@[simp] theorem State.wipe_granted : (s.wipe l n).granted = s.granted := rfl
@[simp] theorem State.wipe_unitTurn : (s.wipe l n).unitTurn = s.unitTurn := rfl
@[simp] theorem State.wipe_cursor : (s.wipe l n).cursor = s.cursor := rfl
@[simp] theorem State.wipe_dev : (s.wipe l n).dev = s.dev := rfl
@[simp] theorem State.wipe_monitor : (s.wipe l n).monitor = s.monitor := rfl
@[simp] theorem State.wipe_agenda : (s.wipe l n).agenda = s.agenda := rfl
@[simp] theorem State.wipe_bringUp : (s.wipe l n).bringUp = s.bringUp := rfl
@[simp] theorem State.wipe_parts : (s.wipe l n).parts = s.parts := rfl
@[simp] theorem State.wipe_pgrant : (s.wipe l n).pgrant = s.pgrant := rfl
@[simp] theorem State.wipe_hqg : (s.wipe l n).hqg = s.hqg := rfl
@[simp] theorem State.wipe_queues : (s.wipe l n).queues = s.queues := rfl
@[simp] theorem State.wipe_joins : (s.wipe l n).joins = s.joins := rfl
@[simp] theorem State.wipe_terms : (s.wipe l n).terms = s.terms := rfl
@[simp] theorem State.wipe_nextTerm : (s.wipe l n).nextTerm = s.nextTerm := rfl
@[simp] theorem State.wipe_gangs : (s.wipe l n).gangs = s.gangs := rfl
@[simp] theorem State.wipe_engines : (s.wipe l n).engines = s.engines := rfl
@[simp] theorem State.wipe_statuses : (s.wipe l n).statuses = s.statuses := rfl
@[simp] theorem State.wipe_msgs : (s.wipe l n).msgs = s.msgs := rfl
@[simp] theorem State.wipe_nets : (s.wipe l n).nets = s.nets := rfl
@[simp] theorem State.wipe_colls : (s.wipe l n).colls = s.colls := rfl
@[simp] theorem State.wipe_redundants : (s.wipe l n).redundants = s.redundants := rfl
@[simp] theorem State.wipe_rollbackDue : (s.wipe l n).rollbackDue = s.rollbackDue := rfl
@[simp] theorem State.wipe_links : (s.wipe l n).links = s.links := rfl
@[simp] theorem State.wipe_tiers : (s.wipe l n).tiers = s.tiers := rfl
@[simp] theorem State.wipe_ports : (s.wipe l n).ports = s.ports := rfl
@[simp] theorem State.wipe_ltol : (s.wipe l n).ltol = s.ltol := rfl
@[simp] theorem State.wipe_fabric : (s.wipe l n).fabric = s.fabric := rfl
@[simp] theorem State.wipe_standby : (s.wipe l n).standby = s.standby := rfl
@[simp] theorem State.wipe_peers : (s.wipe l n).peers = s.peers := rfl
@[simp] theorem State.wipe_tierChecks : (s.wipe l n).tierChecks = s.tierChecks := rfl
@[simp] theorem State.wipe_heldOrder : (s.wipe l n).heldOrder = s.heldOrder := rfl
@[simp] theorem State.wipe_resolves : (s.wipe l n).resolves = s.resolves := rfl
end

/-! ### The fields of a thread under each update -/

/-- What `put` leaves. -/
@[simp] theorem Thread.put_frame (t : Thread) (r : Reg) (p : Ptr) :
    (t.put r p).occ = t.occ ∧ (t.put r p).pc = t.pc ∧ (t.put r p).pend = t.pend ∧ (t.put r p).vregs = t.vregs ∧
    (t.put r p).masks = t.masks ∧ (t.put r p).accs = t.accs ∧ (t.put r p).fpctl = t.fpctl ∧
    (t.put r p).warn = t.warn ∧ (t.put r p).srseed = t.srseed ∧ (t.put r p).evctl = t.evctl ∧
    (t.put r p).domid = t.domid ∧ (t.put r p).errinj = t.errinj ∧ (t.put r p).tidbase = t.tidbase ∧
    (t.put r p).tidlim = t.tidlim ∧ (t.put r p).thstat = t.thstat ∧ (t.put r p).tcause = t.tcause ∧
    (t.put r p).tval = t.tval ∧ (t.put r p).tepc = t.tepc ∧ (t.put r p).tscratch = t.tscratch ∧
    (t.put r p).ien = t.ien ∧ (t.put r p).ipend = t.ipend ∧ (t.put r p).stackRows = t.stackRows ∧
    (t.put r p).missTval = t.missTval ∧ (t.put r p).outst = t.outst ∧ (t.put r p).replay = t.replay ∧
    (t.put r p).resumeTiles = t.resumeTiles ∧ (t.put r p).xferStop = t.xferStop ∧ (t.put r p).thermals = t.thermals ∧ (t.put r p).mon = t.mon ∧
    (t.put r p).monHit = t.monHit ∧ (t.put r p).waitSince = t.waitSince ∧ (t.put r p).monWait = t.monWait ∧
    (t.put r p).stalled = t.stalled ∧ (t.put r p).wfi = t.wfi ∧ (t.put r p).waitTok = t.waitTok ∧
    (t.put r p).preempt = t.preempt ∧ (t.put r p).faultWait = t.faultWait ∧ (t.put r p).topup = t.topup ∧
    (t.put r p).task = t.task ∧ (t.put r p).failing = t.failing ∧ (t.put r p).badRegs = t.badRegs := by
  unfold Thread.put; split <;> simp

/-- What `putInt` leaves. -/
@[simp] theorem Thread.putInt_frame (t : Thread) (r : Reg) (v : Word) :
    (t.putInt r v).occ = t.occ ∧ (t.putInt r v).pc = t.pc ∧ (t.putInt r v).pend = t.pend ∧
    (t.putInt r v).vregs = t.vregs ∧ (t.putInt r v).masks = t.masks ∧ (t.putInt r v).accs = t.accs ∧
    (t.putInt r v).fpctl = t.fpctl ∧ (t.putInt r v).warn = t.warn ∧ (t.putInt r v).srseed = t.srseed ∧
    (t.putInt r v).evctl = t.evctl ∧ (t.putInt r v).domid = t.domid ∧ (t.putInt r v).errinj = t.errinj ∧
    (t.putInt r v).tidbase = t.tidbase ∧ (t.putInt r v).tidlim = t.tidlim ∧ (t.putInt r v).thstat = t.thstat ∧
    (t.putInt r v).tcause = t.tcause ∧ (t.putInt r v).tval = t.tval ∧ (t.putInt r v).tepc = t.tepc ∧
    (t.putInt r v).tscratch = t.tscratch ∧ (t.putInt r v).ien = t.ien ∧ (t.putInt r v).ipend = t.ipend ∧
    (t.putInt r v).stackRows = t.stackRows ∧ (t.putInt r v).missTval = t.missTval ∧
    (t.putInt r v).outst = t.outst ∧ (t.putInt r v).replay = t.replay ∧
    (t.putInt r v).resumeTiles = t.resumeTiles ∧ (t.putInt r v).xferStop = t.xferStop ∧ (t.putInt r v).thermals = t.thermals ∧
    (t.putInt r v).mon = t.mon ∧ (t.putInt r v).monHit = t.monHit ∧ (t.putInt r v).waitSince = t.waitSince ∧
    (t.putInt r v).monWait = t.monWait ∧ (t.putInt r v).stalled = t.stalled ∧ (t.putInt r v).wfi = t.wfi ∧
    (t.putInt r v).waitTok = t.waitTok ∧ (t.putInt r v).preempt = t.preempt ∧
    (t.putInt r v).faultWait = t.faultWait ∧ (t.putInt r v).topup = t.topup ∧ (t.putInt r v).task = t.task ∧
    (t.putInt r v).failing = t.failing ∧ (t.putInt r v).badRegs = t.badRegs := by
  unfold Thread.putInt Thread.put; split <;> simp

/-- What `vput` leaves. -/
@[simp] theorem Thread.vput_frame (t : Thread) (r : Reg) (x : VReg) :
    (t.vput r x).occ = t.occ ∧ (t.vput r x).pc = t.pc ∧ (t.vput r x).regs = t.regs ∧ (t.vput r x).pend = t.pend ∧
    (t.vput r x).tokErr = t.tokErr ∧ (t.vput r x).tokUnc = t.tokUnc ∧ (t.vput r x).masks = t.masks ∧
    (t.vput r x).accs = t.accs ∧ (t.vput r x).fpctl = t.fpctl ∧ (t.vput r x).warn = t.warn ∧
    (t.vput r x).srseed = t.srseed ∧ (t.vput r x).evctl = t.evctl ∧ (t.vput r x).domid = t.domid ∧
    (t.vput r x).errinj = t.errinj ∧ (t.vput r x).tidbase = t.tidbase ∧ (t.vput r x).tidlim = t.tidlim ∧
    (t.vput r x).thstat = t.thstat ∧ (t.vput r x).tcause = t.tcause ∧ (t.vput r x).tval = t.tval ∧
    (t.vput r x).tepc = t.tepc ∧ (t.vput r x).tscratch = t.tscratch ∧ (t.vput r x).ien = t.ien ∧
    (t.vput r x).ipend = t.ipend ∧ (t.vput r x).stackRows = t.stackRows ∧ (t.vput r x).missTval = t.missTval ∧
    (t.vput r x).outst = t.outst ∧ (t.vput r x).replay = t.replay ∧ (t.vput r x).resumeTiles = t.resumeTiles ∧ (t.vput r x).xferStop = t.xferStop ∧
    (t.vput r x).thermals = t.thermals ∧ (t.vput r x).mon = t.mon ∧ (t.vput r x).monHit = t.monHit ∧
    (t.vput r x).waitSince = t.waitSince ∧ (t.vput r x).monWait = t.monWait ∧ (t.vput r x).stalled = t.stalled ∧
    (t.vput r x).wfi = t.wfi ∧ (t.vput r x).waitTok = t.waitTok ∧ (t.vput r x).preempt = t.preempt ∧
    (t.vput r x).faultWait = t.faultWait ∧ (t.vput r x).topup = t.topup ∧ (t.vput r x).task = t.task ∧
    (t.vput r x).failing = t.failing ∧ (t.vput r x).badRegs = t.badRegs := by
  repeat' constructor

/-- What `mput` leaves. -/
@[simp] theorem Thread.mput_frame (t : Thread) (m : Fin 8) (x : MReg) :
    (t.mput m x).occ = t.occ ∧ (t.mput m x).pc = t.pc ∧ (t.mput m x).regs = t.regs ∧ (t.mput m x).pend = t.pend ∧
    (t.mput m x).tokErr = t.tokErr ∧ (t.mput m x).tokUnc = t.tokUnc ∧ (t.mput m x).vregs = t.vregs ∧
    (t.mput m x).accs = t.accs ∧ (t.mput m x).fpctl = t.fpctl ∧ (t.mput m x).srseed = t.srseed ∧
    (t.mput m x).evctl = t.evctl ∧ (t.mput m x).domid = t.domid ∧ (t.mput m x).errinj = t.errinj ∧
    (t.mput m x).tidbase = t.tidbase ∧ (t.mput m x).tidlim = t.tidlim ∧ (t.mput m x).thstat = t.thstat ∧
    (t.mput m x).tcause = t.tcause ∧ (t.mput m x).tval = t.tval ∧ (t.mput m x).tepc = t.tepc ∧
    (t.mput m x).tscratch = t.tscratch ∧ (t.mput m x).ien = t.ien ∧ (t.mput m x).ipend = t.ipend ∧
    (t.mput m x).stackRows = t.stackRows ∧ (t.mput m x).missTval = t.missTval ∧ (t.mput m x).outst = t.outst ∧
    (t.mput m x).replay = t.replay ∧ (t.mput m x).resumeTiles = t.resumeTiles ∧ (t.mput m x).xferStop = t.xferStop ∧
    (t.mput m x).thermals = t.thermals ∧ (t.mput m x).mon = t.mon ∧ (t.mput m x).monHit = t.monHit ∧
    (t.mput m x).waitSince = t.waitSince ∧ (t.mput m x).monWait = t.monWait ∧ (t.mput m x).stalled = t.stalled ∧
    (t.mput m x).wfi = t.wfi ∧ (t.mput m x).waitTok = t.waitTok ∧ (t.mput m x).preempt = t.preempt ∧
    (t.mput m x).faultWait = t.faultWait ∧ (t.mput m x).topup = t.topup ∧ (t.mput m x).task = t.task ∧
    (t.mput m x).failing = t.failing ∧ (t.mput m x).badRegs = t.badRegs := by
  unfold Thread.mput Thread.warnBit Thread.touchC; split <;> simp

/-- What `aput` leaves. -/
@[simp] theorem Thread.aput_frame (t : Thread) (n : Fin 8) (x : Acc) :
    (t.aput n x).occ = t.occ ∧ (t.aput n x).pc = t.pc ∧ (t.aput n x).regs = t.regs ∧ (t.aput n x).pend = t.pend ∧
    (t.aput n x).tokErr = t.tokErr ∧ (t.aput n x).tokUnc = t.tokUnc ∧ (t.aput n x).vregs = t.vregs ∧
    (t.aput n x).masks = t.masks ∧ (t.aput n x).fpctl = t.fpctl ∧ (t.aput n x).warn = t.warn ∧
    (t.aput n x).srseed = t.srseed ∧ (t.aput n x).evctl = t.evctl ∧ (t.aput n x).domid = t.domid ∧
    (t.aput n x).errinj = t.errinj ∧ (t.aput n x).tidbase = t.tidbase ∧ (t.aput n x).tidlim = t.tidlim ∧
    (t.aput n x).thstat = t.thstat ∧ (t.aput n x).tcause = t.tcause ∧ (t.aput n x).tval = t.tval ∧
    (t.aput n x).tepc = t.tepc ∧ (t.aput n x).tscratch = t.tscratch ∧ (t.aput n x).ien = t.ien ∧
    (t.aput n x).ipend = t.ipend ∧ (t.aput n x).stackRows = t.stackRows ∧ (t.aput n x).missTval = t.missTval ∧
    (t.aput n x).outst = t.outst ∧ (t.aput n x).replay = t.replay ∧ (t.aput n x).resumeTiles = t.resumeTiles ∧ (t.aput n x).xferStop = t.xferStop ∧
    (t.aput n x).thermals = t.thermals ∧ (t.aput n x).mon = t.mon ∧ (t.aput n x).monHit = t.monHit ∧
    (t.aput n x).waitSince = t.waitSince ∧ (t.aput n x).monWait = t.monWait ∧ (t.aput n x).stalled = t.stalled ∧
    (t.aput n x).wfi = t.wfi ∧ (t.aput n x).waitTok = t.waitTok ∧ (t.aput n x).preempt = t.preempt ∧
    (t.aput n x).faultWait = t.faultWait ∧ (t.aput n x).topup = t.topup ∧ (t.aput n x).task = t.task ∧
    (t.aput n x).failing = t.failing ∧ (t.aput n x).badRegs = t.badRegs := by
  repeat' constructor

/-- What `touchC` leaves. -/
@[simp] theorem Thread.touchC_frame (t : Thread) :
    (t.touchC).occ = t.occ ∧ (t.touchC).pc = t.pc ∧ (t.touchC).regs = t.regs ∧ (t.touchC).pend = t.pend ∧
    (t.touchC).tokErr = t.tokErr ∧ (t.touchC).tokUnc = t.tokUnc ∧ (t.touchC).vregs = t.vregs ∧
    (t.touchC).masks = t.masks ∧ (t.touchC).accs = t.accs ∧ (t.touchC).fpctl = t.fpctl ∧
    (t.touchC).warn = t.warn ∧ (t.touchC).srseed = t.srseed ∧ (t.touchC).evctl = t.evctl ∧
    (t.touchC).domid = t.domid ∧ (t.touchC).errinj = t.errinj ∧ (t.touchC).tidbase = t.tidbase ∧
    (t.touchC).tidlim = t.tidlim ∧ (t.touchC).thstat = t.thstat ∧ (t.touchC).tcause = t.tcause ∧
    (t.touchC).tval = t.tval ∧ (t.touchC).tepc = t.tepc ∧ (t.touchC).tscratch = t.tscratch ∧
    (t.touchC).ien = t.ien ∧ (t.touchC).ipend = t.ipend ∧ (t.touchC).stackRows = t.stackRows ∧
    (t.touchC).missTval = t.missTval ∧ (t.touchC).outst = t.outst ∧ (t.touchC).replay = t.replay ∧
    (t.touchC).resumeTiles = t.resumeTiles ∧ (t.touchC).xferStop = t.xferStop ∧ (t.touchC).thermals = t.thermals ∧ (t.touchC).mon = t.mon ∧
    (t.touchC).monHit = t.monHit ∧ (t.touchC).waitSince = t.waitSince ∧ (t.touchC).monWait = t.monWait ∧
    (t.touchC).stalled = t.stalled ∧ (t.touchC).wfi = t.wfi ∧ (t.touchC).waitTok = t.waitTok ∧
    (t.touchC).preempt = t.preempt ∧ (t.touchC).faultWait = t.faultWait ∧ (t.touchC).topup = t.topup ∧
    (t.touchC).task = t.task ∧ (t.touchC).failing = t.failing ∧ (t.touchC).badRegs = t.badRegs := by
  repeat' constructor

/-- What `warnBit` leaves. -/
@[simp] theorem Thread.warnBit_frame (t : Thread) (w : Warn) :
    (t.warnBit w).occ = t.occ ∧ (t.warnBit w).pc = t.pc ∧ (t.warnBit w).regs = t.regs ∧
    (t.warnBit w).pend = t.pend ∧ (t.warnBit w).tokErr = t.tokErr ∧ (t.warnBit w).tokUnc = t.tokUnc ∧
    (t.warnBit w).vregs = t.vregs ∧ (t.warnBit w).masks = t.masks ∧ (t.warnBit w).accs = t.accs ∧
    (t.warnBit w).fpctl = t.fpctl ∧ (t.warnBit w).srseed = t.srseed ∧ (t.warnBit w).evctl = t.evctl ∧
    (t.warnBit w).domid = t.domid ∧ (t.warnBit w).errinj = t.errinj ∧ (t.warnBit w).tidbase = t.tidbase ∧
    (t.warnBit w).tidlim = t.tidlim ∧ (t.warnBit w).thstat = t.thstat ∧ (t.warnBit w).tcause = t.tcause ∧
    (t.warnBit w).tval = t.tval ∧ (t.warnBit w).tepc = t.tepc ∧ (t.warnBit w).tscratch = t.tscratch ∧
    (t.warnBit w).ien = t.ien ∧ (t.warnBit w).ipend = t.ipend ∧ (t.warnBit w).stackRows = t.stackRows ∧
    (t.warnBit w).missTval = t.missTval ∧ (t.warnBit w).outst = t.outst ∧ (t.warnBit w).replay = t.replay ∧
    (t.warnBit w).resumeTiles = t.resumeTiles ∧ (t.warnBit w).xferStop = t.xferStop ∧ (t.warnBit w).thermals = t.thermals ∧ (t.warnBit w).mon = t.mon ∧
    (t.warnBit w).monHit = t.monHit ∧ (t.warnBit w).waitSince = t.waitSince ∧ (t.warnBit w).monWait = t.monWait ∧
    (t.warnBit w).stalled = t.stalled ∧ (t.warnBit w).wfi = t.wfi ∧ (t.warnBit w).waitTok = t.waitTok ∧
    (t.warnBit w).preempt = t.preempt ∧ (t.warnBit w).faultWait = t.faultWait ∧ (t.warnBit w).topup = t.topup ∧
    (t.warnBit w).task = t.task ∧ (t.warnBit w).failing = t.failing ∧ (t.warnBit w).badRegs = t.badRegs := by
  repeat' constructor

/-- What `lkIgnored` leaves. -/
@[simp] theorem Thread.lkIgnored_frame (t : Thread) (lk : Fin 16) :
    (t.lkIgnored lk).occ = t.occ ∧ (t.lkIgnored lk).pc = t.pc ∧ (t.lkIgnored lk).regs = t.regs ∧
    (t.lkIgnored lk).pend = t.pend ∧ (t.lkIgnored lk).tokErr = t.tokErr ∧ (t.lkIgnored lk).tokUnc = t.tokUnc ∧
    (t.lkIgnored lk).vregs = t.vregs ∧ (t.lkIgnored lk).masks = t.masks ∧ (t.lkIgnored lk).accs = t.accs ∧
    (t.lkIgnored lk).fpctl = t.fpctl ∧ (t.lkIgnored lk).srseed = t.srseed ∧ (t.lkIgnored lk).evctl = t.evctl ∧
    (t.lkIgnored lk).domid = t.domid ∧ (t.lkIgnored lk).errinj = t.errinj ∧
    (t.lkIgnored lk).tidbase = t.tidbase ∧ (t.lkIgnored lk).tidlim = t.tidlim ∧
    (t.lkIgnored lk).thstat = t.thstat ∧ (t.lkIgnored lk).tcause = t.tcause ∧ (t.lkIgnored lk).tval = t.tval ∧
    (t.lkIgnored lk).tepc = t.tepc ∧ (t.lkIgnored lk).tscratch = t.tscratch ∧ (t.lkIgnored lk).ien = t.ien ∧
    (t.lkIgnored lk).ipend = t.ipend ∧ (t.lkIgnored lk).stackRows = t.stackRows ∧
    (t.lkIgnored lk).missTval = t.missTval ∧ (t.lkIgnored lk).outst = t.outst ∧
    (t.lkIgnored lk).replay = t.replay ∧ (t.lkIgnored lk).resumeTiles = t.resumeTiles ∧ (t.lkIgnored lk).xferStop = t.xferStop ∧
    (t.lkIgnored lk).thermals = t.thermals ∧ (t.lkIgnored lk).mon = t.mon ∧ (t.lkIgnored lk).monHit = t.monHit ∧
    (t.lkIgnored lk).waitSince = t.waitSince ∧ (t.lkIgnored lk).monWait = t.monWait ∧
    (t.lkIgnored lk).stalled = t.stalled ∧ (t.lkIgnored lk).wfi = t.wfi ∧ (t.lkIgnored lk).waitTok = t.waitTok ∧
    (t.lkIgnored lk).preempt = t.preempt ∧ (t.lkIgnored lk).faultWait = t.faultWait ∧
    (t.lkIgnored lk).topup = t.topup ∧ (t.lkIgnored lk).task = t.task ∧ (t.lkIgnored lk).failing = t.failing ∧
    (t.lkIgnored lk).badRegs = t.badRegs := by
  unfold Thread.lkIgnored Thread.warnBit Thread.touchC; split <;> simp

/-- What `next` leaves. -/
@[simp] theorem Thread.next_frame (t : Thread) :
    (t.next).occ = t.occ ∧ (t.next).regs = t.regs ∧ (t.next).pend = t.pend ∧ (t.next).tokErr = t.tokErr ∧
    (t.next).tokUnc = t.tokUnc ∧ (t.next).vregs = t.vregs ∧ (t.next).masks = t.masks ∧ (t.next).accs = t.accs ∧
    (t.next).fpctl = t.fpctl ∧ (t.next).warn = t.warn ∧ (t.next).srseed = t.srseed ∧ (t.next).evctl = t.evctl ∧
    (t.next).domid = t.domid ∧ (t.next).errinj = t.errinj ∧ (t.next).tidbase = t.tidbase ∧
    (t.next).tidlim = t.tidlim ∧ (t.next).thstat = t.thstat ∧ (t.next).tcause = t.tcause ∧
    (t.next).tval = t.tval ∧ (t.next).tepc = t.tepc ∧ (t.next).tscratch = t.tscratch ∧ (t.next).ien = t.ien ∧
    (t.next).ipend = t.ipend ∧ (t.next).dirty = t.dirty ∧ (t.next).stackRows = t.stackRows ∧
    (t.next).missTval = t.missTval ∧ (t.next).outst = t.outst ∧ (t.next).replay = t.replay ∧
    (t.next).resumeTiles = t.resumeTiles ∧ (t.next).xferStop = t.xferStop ∧ (t.next).thermals = t.thermals ∧ (t.next).mon = t.mon ∧
    (t.next).monHit = t.monHit ∧ (t.next).waitSince = t.waitSince ∧ (t.next).monWait = t.monWait ∧
    (t.next).stalled = t.stalled ∧ (t.next).wfi = t.wfi ∧ (t.next).waitTok = t.waitTok ∧
    (t.next).preempt = t.preempt ∧ (t.next).faultWait = t.faultWait ∧ (t.next).topup = t.topup ∧
    (t.next).task = t.task ∧ (t.next).failing = t.failing ∧ (t.next).badRegs = t.badRegs := by
  repeat' constructor

/-- What `issueWaiting` leaves. -/
@[simp] theorem Thread.issueWaiting_frame (t : Thread) (lk : Fin 16) (d : List Res) (w : OutWait) :
    (t.issueWaiting lk d w).occ = t.occ ∧ (t.issueWaiting lk d w).pc = t.pc ∧
    (t.issueWaiting lk d w).regs = t.regs ∧ (t.issueWaiting lk d w).pend = t.pend ∧
    (t.issueWaiting lk d w).tokErr = t.tokErr ∧ (t.issueWaiting lk d w).tokUnc = t.tokUnc ∧
    (t.issueWaiting lk d w).vregs = t.vregs ∧ (t.issueWaiting lk d w).masks = t.masks ∧
    (t.issueWaiting lk d w).accs = t.accs ∧ (t.issueWaiting lk d w).fpctl = t.fpctl ∧
    (t.issueWaiting lk d w).warn = t.warn ∧ (t.issueWaiting lk d w).srseed = t.srseed ∧
    (t.issueWaiting lk d w).evctl = t.evctl ∧ (t.issueWaiting lk d w).domid = t.domid ∧
    (t.issueWaiting lk d w).errinj = t.errinj ∧ (t.issueWaiting lk d w).tidbase = t.tidbase ∧
    (t.issueWaiting lk d w).tidlim = t.tidlim ∧ (t.issueWaiting lk d w).thstat = t.thstat ∧
    (t.issueWaiting lk d w).tcause = t.tcause ∧ (t.issueWaiting lk d w).tval = t.tval ∧
    (t.issueWaiting lk d w).tepc = t.tepc ∧ (t.issueWaiting lk d w).tscratch = t.tscratch ∧
    (t.issueWaiting lk d w).ien = t.ien ∧ (t.issueWaiting lk d w).ipend = t.ipend ∧
    (t.issueWaiting lk d w).dirty = t.dirty ∧ (t.issueWaiting lk d w).stackRows = t.stackRows ∧
    (t.issueWaiting lk d w).missTval = t.missTval ∧ (t.issueWaiting lk d w).replay = t.replay ∧
    (t.issueWaiting lk d w).resumeTiles = t.resumeTiles ∧ (t.issueWaiting lk d w).xferStop = t.xferStop ∧ (t.issueWaiting lk d w).thermals = t.thermals ∧
    (t.issueWaiting lk d w).mon = t.mon ∧ (t.issueWaiting lk d w).monHit = t.monHit ∧
    (t.issueWaiting lk d w).waitSince = t.waitSince ∧ (t.issueWaiting lk d w).monWait = t.monWait ∧
    (t.issueWaiting lk d w).stalled = t.stalled ∧ (t.issueWaiting lk d w).wfi = t.wfi ∧
    (t.issueWaiting lk d w).waitTok = t.waitTok ∧ (t.issueWaiting lk d w).preempt = t.preempt ∧
    (t.issueWaiting lk d w).faultWait = t.faultWait ∧ (t.issueWaiting lk d w).topup = t.topup ∧
    (t.issueWaiting lk d w).task = t.task ∧ (t.issueWaiting lk d w).failing = t.failing ∧
    (t.issueWaiting lk d w).badRegs = t.badRegs := by
  repeat' constructor

/-- What `issueOut` leaves. -/
@[simp] theorem Thread.issueOut_frame (t : Thread) (lk : Fin 16) (d : List Res) :
    (t.issueOut lk d).occ = t.occ ∧ (t.issueOut lk d).pc = t.pc ∧ (t.issueOut lk d).regs = t.regs ∧
    (t.issueOut lk d).pend = t.pend ∧ (t.issueOut lk d).tokErr = t.tokErr ∧ (t.issueOut lk d).tokUnc = t.tokUnc ∧
    (t.issueOut lk d).vregs = t.vregs ∧ (t.issueOut lk d).masks = t.masks ∧ (t.issueOut lk d).accs = t.accs ∧
    (t.issueOut lk d).fpctl = t.fpctl ∧ (t.issueOut lk d).warn = t.warn ∧ (t.issueOut lk d).srseed = t.srseed ∧
    (t.issueOut lk d).evctl = t.evctl ∧ (t.issueOut lk d).domid = t.domid ∧ (t.issueOut lk d).errinj = t.errinj ∧
    (t.issueOut lk d).tidbase = t.tidbase ∧ (t.issueOut lk d).tidlim = t.tidlim ∧
    (t.issueOut lk d).thstat = t.thstat ∧ (t.issueOut lk d).tcause = t.tcause ∧ (t.issueOut lk d).tval = t.tval ∧
    (t.issueOut lk d).tepc = t.tepc ∧ (t.issueOut lk d).tscratch = t.tscratch ∧ (t.issueOut lk d).ien = t.ien ∧
    (t.issueOut lk d).ipend = t.ipend ∧ (t.issueOut lk d).dirty = t.dirty ∧
    (t.issueOut lk d).stackRows = t.stackRows ∧ (t.issueOut lk d).missTval = t.missTval ∧
    (t.issueOut lk d).replay = t.replay ∧ (t.issueOut lk d).resumeTiles = t.resumeTiles ∧ (t.issueOut lk d).xferStop = t.xferStop ∧
    (t.issueOut lk d).thermals = t.thermals ∧ (t.issueOut lk d).mon = t.mon ∧ (t.issueOut lk d).monHit = t.monHit ∧
    (t.issueOut lk d).waitSince = t.waitSince ∧ (t.issueOut lk d).monWait = t.monWait ∧
    (t.issueOut lk d).stalled = t.stalled ∧ (t.issueOut lk d).wfi = t.wfi ∧
    (t.issueOut lk d).waitTok = t.waitTok ∧ (t.issueOut lk d).preempt = t.preempt ∧
    (t.issueOut lk d).faultWait = t.faultWait ∧ (t.issueOut lk d).topup = t.topup ∧
    (t.issueOut lk d).task = t.task ∧ (t.issueOut lk d).failing = t.failing ∧
    (t.issueOut lk d).badRegs = t.badRegs := by
  repeat' constructor

/-- What `issueTrap` leaves. -/
@[simp] theorem Thread.issueTrap_frame (t : Thread) (lk : Fin 16) (d : List Res) (c : Cause) (v : Word) (k : BitVec 4) :
    (t.issueTrap lk d c v k).occ = t.occ ∧ (t.issueTrap lk d c v k).pc = t.pc ∧
    (t.issueTrap lk d c v k).regs = t.regs ∧ (t.issueTrap lk d c v k).pend = t.pend ∧
    (t.issueTrap lk d c v k).tokErr = t.tokErr ∧ (t.issueTrap lk d c v k).tokUnc = t.tokUnc ∧
    (t.issueTrap lk d c v k).vregs = t.vregs ∧ (t.issueTrap lk d c v k).masks = t.masks ∧
    (t.issueTrap lk d c v k).accs = t.accs ∧ (t.issueTrap lk d c v k).fpctl = t.fpctl ∧
    (t.issueTrap lk d c v k).warn = t.warn ∧ (t.issueTrap lk d c v k).srseed = t.srseed ∧
    (t.issueTrap lk d c v k).evctl = t.evctl ∧ (t.issueTrap lk d c v k).domid = t.domid ∧
    (t.issueTrap lk d c v k).errinj = t.errinj ∧ (t.issueTrap lk d c v k).tidbase = t.tidbase ∧
    (t.issueTrap lk d c v k).tidlim = t.tidlim ∧ (t.issueTrap lk d c v k).thstat = t.thstat ∧
    (t.issueTrap lk d c v k).tcause = t.tcause ∧ (t.issueTrap lk d c v k).tval = t.tval ∧
    (t.issueTrap lk d c v k).tepc = t.tepc ∧ (t.issueTrap lk d c v k).tscratch = t.tscratch ∧
    (t.issueTrap lk d c v k).ien = t.ien ∧ (t.issueTrap lk d c v k).ipend = t.ipend ∧
    (t.issueTrap lk d c v k).dirty = t.dirty ∧ (t.issueTrap lk d c v k).stackRows = t.stackRows ∧
    (t.issueTrap lk d c v k).missTval = t.missTval ∧ (t.issueTrap lk d c v k).replay = t.replay ∧
    (t.issueTrap lk d c v k).resumeTiles = t.resumeTiles ∧ (t.issueTrap lk d c v k).xferStop = t.xferStop ∧ (t.issueTrap lk d c v k).thermals = t.thermals ∧
    (t.issueTrap lk d c v k).mon = t.mon ∧ (t.issueTrap lk d c v k).monHit = t.monHit ∧
    (t.issueTrap lk d c v k).waitSince = t.waitSince ∧ (t.issueTrap lk d c v k).monWait = t.monWait ∧
    (t.issueTrap lk d c v k).stalled = t.stalled ∧ (t.issueTrap lk d c v k).wfi = t.wfi ∧
    (t.issueTrap lk d c v k).waitTok = t.waitTok ∧ (t.issueTrap lk d c v k).preempt = t.preempt ∧
    (t.issueTrap lk d c v k).faultWait = t.faultWait ∧ (t.issueTrap lk d c v k).topup = t.topup ∧
    (t.issueTrap lk d c v k).task = t.task ∧ (t.issueTrap lk d c v k).failing = t.failing ∧
    (t.issueTrap lk d c v k).badRegs = t.badRegs := by
  repeat' constructor

/-- What `pending` leaves. -/
@[simp] theorem Thread.pending_frame (t : Thread) (r : Reg) :
    (t.pending r).occ = t.occ ∧ (t.pending r).pc = t.pc ∧ (t.pending r).regs = t.regs ∧
    (t.pending r).vregs = t.vregs ∧ (t.pending r).masks = t.masks ∧ (t.pending r).accs = t.accs ∧
    (t.pending r).fpctl = t.fpctl ∧ (t.pending r).warn = t.warn ∧ (t.pending r).srseed = t.srseed ∧
    (t.pending r).evctl = t.evctl ∧ (t.pending r).domid = t.domid ∧ (t.pending r).errinj = t.errinj ∧
    (t.pending r).tidbase = t.tidbase ∧ (t.pending r).tidlim = t.tidlim ∧ (t.pending r).thstat = t.thstat ∧
    (t.pending r).tcause = t.tcause ∧ (t.pending r).tval = t.tval ∧ (t.pending r).tepc = t.tepc ∧
    (t.pending r).tscratch = t.tscratch ∧ (t.pending r).ien = t.ien ∧ (t.pending r).ipend = t.ipend ∧
    (t.pending r).dirty = t.dirty ∧ (t.pending r).stackRows = t.stackRows ∧ (t.pending r).missTval = t.missTval ∧
    (t.pending r).outst = t.outst ∧ (t.pending r).replay = t.replay ∧ (t.pending r).resumeTiles = t.resumeTiles ∧ (t.pending r).xferStop = t.xferStop ∧
    (t.pending r).thermals = t.thermals ∧ (t.pending r).mon = t.mon ∧ (t.pending r).monHit = t.monHit ∧
    (t.pending r).waitSince = t.waitSince ∧ (t.pending r).monWait = t.monWait ∧
    (t.pending r).stalled = t.stalled ∧ (t.pending r).wfi = t.wfi ∧ (t.pending r).waitTok = t.waitTok ∧
    (t.pending r).preempt = t.preempt ∧ (t.pending r).faultWait = t.faultWait ∧ (t.pending r).topup = t.topup ∧
    (t.pending r).task = t.task ∧ (t.pending r).failing = t.failing ∧ (t.pending r).badRegs = t.badRegs := by
  unfold Thread.pending; split <;> simp

/-- What `raised` leaves. -/
@[simp] theorem Thread.raised_frame (t : Thread) (fl : Flags) :
    (t.raised fl).occ = t.occ ∧ (t.raised fl).pc = t.pc ∧ (t.raised fl).regs = t.regs ∧
    (t.raised fl).pend = t.pend ∧ (t.raised fl).tokErr = t.tokErr ∧ (t.raised fl).tokUnc = t.tokUnc ∧
    (t.raised fl).vregs = t.vregs ∧ (t.raised fl).masks = t.masks ∧ (t.raised fl).accs = t.accs ∧
    (t.raised fl).warn = t.warn ∧ (t.raised fl).srseed = t.srseed ∧ (t.raised fl).evctl = t.evctl ∧
    (t.raised fl).domid = t.domid ∧ (t.raised fl).errinj = t.errinj ∧ (t.raised fl).tidbase = t.tidbase ∧
    (t.raised fl).tidlim = t.tidlim ∧ (t.raised fl).thstat = t.thstat ∧ (t.raised fl).tcause = t.tcause ∧
    (t.raised fl).tval = t.tval ∧ (t.raised fl).tepc = t.tepc ∧ (t.raised fl).tscratch = t.tscratch ∧
    (t.raised fl).ien = t.ien ∧ (t.raised fl).ipend = t.ipend ∧ (t.raised fl).stackRows = t.stackRows ∧
    (t.raised fl).missTval = t.missTval ∧ (t.raised fl).outst = t.outst ∧ (t.raised fl).replay = t.replay ∧
    (t.raised fl).resumeTiles = t.resumeTiles ∧ (t.raised fl).xferStop = t.xferStop ∧ (t.raised fl).thermals = t.thermals ∧ (t.raised fl).mon = t.mon ∧
    (t.raised fl).monHit = t.monHit ∧ (t.raised fl).waitSince = t.waitSince ∧ (t.raised fl).monWait = t.monWait ∧
    (t.raised fl).stalled = t.stalled ∧ (t.raised fl).wfi = t.wfi ∧ (t.raised fl).waitTok = t.waitTok ∧
    (t.raised fl).preempt = t.preempt ∧ (t.raised fl).faultWait = t.faultWait ∧ (t.raised fl).topup = t.topup ∧
    (t.raised fl).task = t.task ∧ (t.raised fl).failing = t.failing ∧ (t.raised fl).badRegs = t.badRegs := by
  unfold Thread.raised Thread.touchC; split <;> simp

/-- What `failWith` leaves. -/
@[simp] theorem Thread.failWith_frame (t : Thread) (c : BitVec 8) :
    (t.failWith c).occ = t.occ ∧ (t.failWith c).pc = t.pc ∧ (t.failWith c).regs = t.regs ∧
    (t.failWith c).pend = t.pend ∧ (t.failWith c).tokErr = t.tokErr ∧ (t.failWith c).tokUnc = t.tokUnc ∧
    (t.failWith c).vregs = t.vregs ∧ (t.failWith c).masks = t.masks ∧ (t.failWith c).accs = t.accs ∧
    (t.failWith c).fpctl = t.fpctl ∧ (t.failWith c).warn = t.warn ∧ (t.failWith c).srseed = t.srseed ∧
    (t.failWith c).evctl = t.evctl ∧ (t.failWith c).domid = t.domid ∧ (t.failWith c).errinj = t.errinj ∧
    (t.failWith c).tidbase = t.tidbase ∧ (t.failWith c).tidlim = t.tidlim ∧ (t.failWith c).thstat = t.thstat ∧
    (t.failWith c).tcause = t.tcause ∧ (t.failWith c).tval = t.tval ∧ (t.failWith c).tepc = t.tepc ∧
    (t.failWith c).tscratch = t.tscratch ∧ (t.failWith c).ien = t.ien ∧ (t.failWith c).ipend = t.ipend ∧
    (t.failWith c).dirty = t.dirty ∧ (t.failWith c).stackRows = t.stackRows ∧
    (t.failWith c).missTval = t.missTval ∧ (t.failWith c).outst = t.outst ∧ (t.failWith c).replay = t.replay ∧
    (t.failWith c).resumeTiles = t.resumeTiles ∧ (t.failWith c).xferStop = t.xferStop ∧ (t.failWith c).thermals = t.thermals ∧
    (t.failWith c).mon = t.mon ∧ (t.failWith c).monHit = t.monHit ∧ (t.failWith c).waitSince = t.waitSince ∧
    (t.failWith c).monWait = t.monWait ∧ (t.failWith c).stalled = t.stalled ∧ (t.failWith c).wfi = t.wfi ∧
    (t.failWith c).waitTok = t.waitTok ∧ (t.failWith c).preempt = t.preempt ∧
    (t.failWith c).faultWait = t.faultWait ∧ (t.failWith c).topup = t.topup ∧ (t.failWith c).task = t.task ∧
    (t.failWith c).badRegs = t.badRegs := by
  repeat' constructor

/-! ### Sparse maps -/

section
variable {α : Type}

@[simp] theorem lookup_insert_self (l : List (Nat × α)) (a : Nat) (v : α) : lookup (insert l a v) a = some v := by
  induction l with
  | nil => simp [insert, lookup]
  | cons x t ih =>
    obtain ⟨k, w⟩ := x
    simp only [insert]
    split
    · simp [lookup]
    · split
      · simp [lookup]
      · rename_i h; simp [lookup, h, ih]

theorem lookup_insert_ne (l : List (Nat × α)) {a b : Nat} (v : α) (h : b ≠ a) : lookup (insert l a v) b = lookup l b := by
  induction l with
  | nil => simp [insert, lookup, h]
  | cons x t ih =>
    obtain ⟨k, w⟩ := x
    simp only [insert]
    split
    · simp [lookup, h]
    · split
      · rename_i e; subst e; simp [lookup, h]
      · simp [lookup, ih]

@[simp] theorem insert_insert (l : List (Nat × α)) (a : Nat) (v w : α) : insert (insert l a v) a w = insert l a w := by
  induction l with
  | nil => simp [insert]
  | cons x t ih =>
    obtain ⟨k, y⟩ := x
    by_cases h1 : a < k
    · simp [insert, h1]
    · by_cases h2 : a = k
      · simp [insert, h2]
      · simp [insert, h1, h2, ih]

end

/-! ### Cores, threads, bands -/

@[simp] theorem State.core_setCore (s : State) (r : Nat) (c : Core) : (s.setCore r c).core r = c := by
  simp [State.core, State.setCore]

theorem State.core_setCore_ne (s : State) {r q : Nat} (c : Core) (h : q ≠ r) : (s.setCore r c).core q = s.core q := by
  simp [State.core, State.setCore, lookup_insert_ne _ _ h]

@[simp] theorem State.setCore_setCore (s : State) (r : Nat) (c d : Core) : (s.setCore r c).setCore r d = s.setCore r d := by
  simp [State.setCore]

@[simp] theorem State.core_modCore (s : State) (r : Nat) (f : Core → Core) : (s.modCore r f).core r = f (s.core r) := by
  simp [State.modCore]

theorem State.core_modCore_ne (s : State) {r q : Nat} (f : Core → Core) (h : q ≠ r) : (s.modCore r f).core q = s.core q := by
  simp [State.modCore, State.core_setCore_ne _ _ h]

theorem State.core_setThAt (s : State) (w : Turn) (t : Thread) :
    (s.setThAt w t).core w.rank = { s.core w.rank with threads := (s.core w.rank).threads.set w.slot t } := by
  simp [State.setThAt]

theorem State.core_setThAt_ne (s : State) {w : Turn} {q : Nat} (t : Thread) (h : q ≠ w.rank) :
    (s.setThAt w t).core q = s.core q := by
  simp [State.setThAt, State.core_modCore_ne _ _ h]

@[simp] theorem State.thAt_setThAt (s : State) (w : Turn) (t : Thread) : (s.setThAt w t).thAt w = t := by
  simp [State.thAt, State.core_setThAt]

theorem State.thAt_setThAt_ne (s : State) {w u : Turn} (t : Thread) (h : u ≠ w) : (s.setThAt w t).thAt u = s.thAt u := by
  by_cases hr : u.rank = w.rank
  · have hs : w.slot.val ≠ u.slot.val := by
      intro e; apply h; cases u; cases w; simp_all [Fin.ext_iff]
    simp [State.thAt, hr, State.core_setThAt, hs]
  · simp [State.thAt, State.core_setThAt_ne _ _ hr]

@[simp] theorem State.setThAt_setThAt (s : State) (w : Turn) (t u : Thread) : (s.setThAt w t).setThAt w u = s.setThAt w u := by
  simp [State.setThAt, State.modCore, Vector.set_set]

@[simp] theorem State.thAt_modThAt (s : State) (w : Turn) (f : Thread → Thread) : (s.modThAt w f).thAt w = f (s.thAt w) := by
  simp [State.modThAt]

@[simp] theorem State.th_setTh (s : State) (t : Thread) : (s.setTh t).th = t := by
  simp [State.setTh, State.th]

@[simp] theorem State.th_modTh (s : State) (f : Thread → Thread) : (s.modTh f).th = f s.th := by
  simp [State.modTh]

@[simp] theorem State.setTh_setTh (s : State) (t u : Thread) : (s.setTh t).setTh u = s.setTh u := by
  simp [State.setTh]

theorem State.modTh_eq (s : State) (f : Thread → Thread) : s.modTh f = s.setTh (f s.th) := rfl

@[simp] theorem State.modTh_setTh (s : State) (t : Thread) (f : Thread → Thread) : (s.setTh t).modTh f = s.setTh (f t) := by
  simp [State.modTh]

@[simp] theorem State.setTh_modTh (s : State) (f : Thread → Thread) (t : Thread) : (s.modTh f).setTh t = s.setTh t := by
  simp [State.modTh]

@[simp] theorem State.modTh_modTh (s : State) (f g : Thread → Thread) : (s.modTh f).modTh g = s.modTh (fun t => g (f t)) := by
  simp [State.modTh]

theorem State.thAt_setTh_ne (s : State) {u : Turn} (t : Thread) (h : u ≠ s.turn) : (s.setTh t).thAt u = s.thAt u :=
  State.thAt_setThAt_ne s t h

@[simp] theorem State.band_setBand (s : State) (b : Nat) (x : Band) : (s.setBand b x).band b = x := by
  simp [State.band, State.setBand]

theorem State.band_setBand_ne (s : State) {b c : Nat} (x : Band) (h : c ≠ b) : (s.setBand b x).band c = s.band c := by
  simp [State.band, State.setBand, lookup_insert_ne _ _ h]

@[simp] theorem State.queue_setQueue (s : State) (q : Nat) (x : WorkQueue) : (s.setQueue q x).queue q = x := by
  simp [State.queue, State.setQueue]

theorem State.queue_setQueue_ne (s : State) {q p : Nat} (x : WorkQueue) (h : p ≠ q) : (s.setQueue q x).queue p = s.queue p := by
  simp [State.queue, State.setQueue, lookup_insert_ne _ _ h]

@[simp] theorem State.engine_setEngine (s : State) (e : Nat) (x : Engine) : (s.setEngine e x).engine e = x := by
  simp [State.engine, State.setEngine]

/-! ### Registers -/

@[simp] theorem Thread.get_zero (t : Thread) : t.get 0 = .zero := rfl

@[simp] theorem Thread.val_zero (t : Thread) : t.val 0 = 0 := rfl

@[simp] theorem Thread.put_zero (t : Thread) (p : Ptr) : t.put 0 p = t := rfl

@[simp] theorem Thread.get_put_self (t : Thread) (r : Reg) (p : Ptr) : (t.put r p).get r = if r = 0 then .zero else p := by
  unfold Thread.put Thread.get
  split <;> simp

theorem Thread.get_put_ne (t : Thread) {r q : Reg} (p : Ptr) (h : q ≠ r) : (t.put r p).get q = t.get q := by
  unfold Thread.put Thread.get
  by_cases hr : r = 0
  · simp [hr]
  · have hv : r.val ≠ q.val := fun e => h (Fin.ext e.symm)
    simp [hr, hv]

theorem Thread.get_congr {t u : Thread} (h : t.regs = u.regs) (r : Reg) : t.get r = u.get r := by
  simp [Thread.get, h]

@[simp] theorem Thread.mget_zero (t : Thread) : t.mget 0 = BitVec.allOnes 1024 := rfl

@[simp] theorem Thread.vget_vput (t : Thread) (r : Reg) (x : VReg) : (t.vput r x).vget r = x := by
  simp [Thread.vget, Thread.vput]

theorem Thread.vget_vput_ne (t : Thread) {r q : Reg} (x : VReg) (h : q ≠ r) : (t.vput r x).vget q = t.vget q := by
  have hv : r.val ≠ q.val := fun e => h (Fin.ext e.symm)
  simp [Thread.vget, Thread.vput, hv]

@[simp] theorem Thread.mget_mput (t : Thread) (m : Fin 8) (x : MReg) :
    (t.mput m x).mget m = if m = 0 then BitVec.allOnes 1024 else x := by
  unfold Thread.mput Thread.mget
  split <;> simp

theorem Thread.mget_mput_ne (t : Thread) {m n : Fin 8} (x : MReg) (h : n ≠ m) : (t.mput m x).mget n = t.mget n := by
  unfold Thread.mput Thread.mget Thread.warnBit Thread.touchC
  by_cases hm : m = 0
  · simp [hm]
  · have hv : m.val ≠ n.val := fun e => h (Fin.ext e.symm)
    simp [hm, hv]

end Sys2Proof.Machine
end

