-- ==== Sys2Proof/Laws/Memory.lean ====
section
/-!
SUPPORT. Memory: a read after a write, what a write leaves alone, and that every operation keeps the canonical form.
-/

namespace Sys2Proof.Machine

/-! ### Reads after writes -/

@[simp] theorem Memory.read_nil (a : Nat) : Memory.read [] a = 0 := rfl

theorem Memory.read_above {m : List Host.Cell} {k a : Nat} (h : Memory.above k m = true) (ha : a ≤ k) :
    Memory.read m a = Memory.unlisted := by
  induction m with
  | nil => rfl
  | cons c t ih =>
    obtain ⟨j, b⟩ := c
    simp only [Memory.above, Bool.and_eq_true, decide_eq_true_eq] at h
    simp [Memory.read, show a ≠ j by omega, ih h.2]

/-- A read of the byte just written, in canonical memory. -/
theorem Memory.read_write_self {m : List Host.Cell} (h : Memory.wf m = true) (a : Nat) (v : Byte) :
    Memory.read (Memory.write m a v) a = v := by
  induction m with
  | nil =>
    simp only [Memory.write]
    split
    · rename_i hv; exact hv.symm
    · simp [Memory.read]
  | cons c t ih =>
    obtain ⟨k, b⟩ := c
    simp only [Memory.wf, Bool.and_eq_true, decide_eq_true_eq] at h
    simp only [Memory.write]
    split
    · rename_i hk
      split
      · rename_i hv
        simp [Memory.read, show a ≠ k by omega, Memory.read_above h.1.2 (by omega : a ≤ k), hv]
      · simp [Memory.read]
    · split
      · rename_i hk; subst hk
        split
        · rename_i hv; rw [hv]; exact Memory.read_above h.1.2 (Nat.le_refl _)
        · simp [Memory.read]
      · rename_i hk
        simp [Memory.read, hk, ih h.2]

/-- A write leaves every other byte alone. -/
theorem Memory.read_write_ne (m : List Host.Cell) {a b : Nat} (v : Byte) (h : b ≠ a) :
    Memory.read (Memory.write m a v) b = Memory.read m b := by
  induction m with
  | nil => simp only [Memory.write]; split <;> simp [Memory.read, h]
  | cons c t ih =>
    obtain ⟨k, x⟩ := c
    simp only [Memory.write]
    split
    · split <;> simp [Memory.read, h]
    · split
      · rename_i hk; subst hk
        split <;> simp [Memory.read, h]
      · simp [Memory.read, ih]

/-! ### The canonical form -/

theorem Memory.above_mono {m : List Host.Cell} {j k : Nat} (h : Memory.above k m = true) (hj : j ≤ k) :
    Memory.above j m = true := by
  induction m with
  | nil => rfl
  | cons c t ih =>
    simp only [Memory.above, Bool.and_eq_true, decide_eq_true_eq] at h ⊢
    exact ⟨by omega, ih h.2⟩

theorem Memory.above_write {m : List Host.Cell} {k a : Nat} (v : Byte) (h : Memory.above k m = true) (ha : k < a) :
    Memory.above k (Memory.write m a v) = true := by
  induction m with
  | nil => simp only [Memory.write]; split <;> simp [Memory.above, ha]
  | cons c t ih =>
    obtain ⟨j, b⟩ := c
    simp only [Memory.above, Bool.and_eq_true, decide_eq_true_eq] at h
    simp only [Memory.write]
    split
    · split <;> simp [Memory.above, h, ha]
    · split
      · split <;> simp [Memory.above, h, ha]
      · simp [Memory.above, h, ih h.2]

/-- A write keeps the canonical form. -/
theorem Memory.wf_write {m : List Host.Cell} (h : Memory.wf m = true) (a : Nat) (v : Byte) :
    Memory.wf (Memory.write m a v) = true := by
  induction m with
  | nil => simp only [Memory.write]; split <;> simp_all [Memory.wf, Memory.above]
  | cons c t ih =>
    obtain ⟨k, b⟩ := c
    simp only [Memory.wf, Bool.and_eq_true, decide_eq_true_eq] at h
    simp only [Memory.write]
    split
    · rename_i hk
      split
      · simp [Memory.wf, h]
      · rename_i hv
        simp [Memory.wf, Memory.above, h, hk, hv, Memory.above_mono h.1.2 (Nat.le_of_lt hk)]
    · split
      · split
        · exact h.2
        · rename_i hk hv; subst hk; simp [Memory.wf, h, hv]
      · rename_i h1 h2
        simp [Memory.wf, h, ih h.2, Memory.above_write v h.1.2 (by omega : k < a)]

theorem Memory.above_filter {m : List Host.Cell} {k : Nat} (p : Host.Cell → Bool) (h : Memory.above k m = true) :
    Memory.above k (m.filter p) = true := by
  induction m with
  | nil => rfl
  | cons c t ih =>
    simp only [Memory.above, Bool.and_eq_true, decide_eq_true_eq] at h
    simp only [List.filter_cons]
    split
    · simp [Memory.above, h, ih h.2]
    · exact ih h.2

/-- Taking cells away keeps the canonical form. -/
theorem Memory.wf_filter {m : List Host.Cell} (p : Host.Cell → Bool) (h : Memory.wf m = true) :
    Memory.wf (m.filter p) = true := by
  induction m with
  | nil => rfl
  | cons c t ih =>
    obtain ⟨k, b⟩ := c
    simp only [Memory.wf, Bool.and_eq_true, decide_eq_true_eq] at h
    simp only [List.filter_cons]
    split
    · simp [Memory.wf, h, ih h.2, Memory.above_filter p h.1.2]
    · exact ih h.2

/-- Storing a number keeps the canonical form. -/
theorem Memory.wf_writeN {m : List Host.Cell} (h : Memory.wf m = true) (a n v : Nat) :
    Memory.wf (Memory.writeN m a n v) = true := by
  induction n generalizing m a v with
  | zero => exact h
  | succ n ih => exact ih (Memory.wf_write h a _) _ _

/-- Zeroing a range keeps the canonical form. -/
theorem Memory.wf_clear {m : List Host.Cell} (h : Memory.wf m = true) (a n : Nat) : Memory.wf (Memory.clear m a n) = true :=
  Memory.wf_filter _ h

theorem Memory.wf_foldl_write {α : Type} (l : List α) (k : α → Nat) (v : α → Byte) {m : List Host.Cell} (h : Memory.wf m = true) :
    Memory.wf (l.foldl (fun m c => Memory.write m (k c) (v c)) m) = true := by
  induction l generalizing m with
  | nil => exact h
  | cons c t ih => exact ih (Memory.wf_write h _ _)

/-- A change of the bank hash keeps the canonical form. -/
theorem Memory.wf_rekey {m : List Host.Cell} (h : Memory.wf m = true) (fixed : Nat → Bool) (base k k' : Nat) :
    Memory.wf (rekey fixed base k k' m) = true :=
  Memory.wf_foldl_write _ _ _ (Memory.wf_filter _ h)

theorem State.wf_poke {s : State} (h : Memory.wf s.mem = true) (l : Loc) (n v : Nat) : Memory.wf (s.poke l n v).mem = true :=
  Memory.wf_writeN h _ _ _

theorem State.wf_wipe {s : State} (h : Memory.wf s.mem = true) (l : Loc) (n : Nat) : Memory.wf (s.wipe l n).mem = true :=
  Memory.wf_clear h _ _

/-! ### Stores of several bytes -/

/-- A store leaves the bytes outside it alone. -/
theorem Memory.read_writeN_out (m : List Host.Cell) {a b n : Nat} (v : Nat) (h : b < a ∨ a + n ≤ b) :
    Memory.read (Memory.writeN m a n v) b = Memory.read m b := by
  induction n generalizing m a v with
  | zero => rfl
  | succ n ih =>
    rw [Memory.writeN, ih _ _ (by omega), Memory.read_write_ne _ _ (by omega)]

/-- Byte i of a store. -/
theorem Memory.read_writeN_in {m : List Host.Cell} (hm : Memory.wf m = true) {a n i : Nat} (v : Nat) (h : i < n) :
    Memory.read (Memory.writeN m a n v) (a + i) = BitVec.ofNat 8 (v / 256 ^ i) := by
  induction n generalizing m a v i with
  | zero => omega
  | succ n ih =>
    rw [Memory.writeN]
    cases i with
    | zero => rw [Memory.read_writeN_out _ _ (by omega)]; simp [Memory.read_write_self hm]
    | succ i =>
      rw [show a + (i + 1) = a + 1 + i by omega, ih (Memory.wf_write hm _ _) _ (by omega)]
      rw [Nat.div_div_eq_div_mul, Nat.pow_succ, Nat.mul_comm]

theorem Memory.readN_congr {m m' : List Host.Cell} (a n : Nat) (h : ∀ i, i < n → Memory.read m (a + i) = Memory.read m' (a + i)) :
    Memory.readN m a n = Memory.readN m' a n := by
  induction n generalizing a with
  | zero => rfl
  | succ n ih =>
    simp only [Memory.readN]
    rw [show Memory.read m a = Memory.read m' a from h 0 (by omega),
      ih (a + 1) (fun i hi => by have := h (i + 1) (by omega); rwa [show a + (i + 1) = a + 1 + i by omega] at this)]

/-- A load of bytes that a store did not touch. -/
theorem Memory.readN_writeN_out (m : List Host.Cell) {a b n k : Nat} (v : Nat) (h : b + k ≤ a ∨ a + n ≤ b) :
    Memory.readN (Memory.writeN m a n v) b k = Memory.readN m b k :=
  Memory.readN_congr _ _ (fun i hi => Memory.read_writeN_out _ _ (by omega))

/-- A load of the bytes just stored. -/
theorem Memory.readN_writeN_self {m : List Host.Cell} (hm : Memory.wf m = true) (a n v : Nat) :
    Memory.readN (Memory.writeN m a n v) a n = v % 256 ^ n := by
  induction n generalizing m a v with
  | zero => simp [Memory.readN, Nat.mod_one]
  | succ n ih =>
    simp only [Memory.readN, Memory.writeN]
    rw [Memory.read_writeN_out _ _ (by omega), Memory.read_write_self hm, ih (Memory.wf_write hm _ _)]
    rw [BitVec.toNat_ofNat, Nat.pow_succ 256 n, Nat.mul_comm (256 ^ n) 256, Nat.mod_mul]

theorem Memory.readN_lt (m : List Host.Cell) (a n : Nat) : Memory.readN m a n < 256 ^ n := by
  induction n generalizing a with
  | zero => simp [Memory.readN]
  | succ n ih =>
    have h1 := (Memory.read m a).isLt
    have h2 := ih (a + 1)
    simp only [Memory.readN]
    rw [Nat.pow_succ]
    omega

@[simp] theorem State.peek_poke_self {s : State} (h : Memory.wf s.mem = true) (l : Loc) (n v : Nat) :
    (s.poke l n v).peek l n = v % 256 ^ n := Memory.readN_writeN_self h _ _ _

theorem State.byteAt_poke_out (s : State) (l k : Loc) (n v : Nat) (h : k.key < l.key ∨ l.key + n ≤ k.key) :
    (s.poke l n v).byteAt k = s.byteAt k := Memory.read_writeN_out _ _ h

@[simp] theorem State.byteAt_setCore (s : State) (r : Nat) (c : Core) (k : Loc) : (s.setCore r c).byteAt k = s.byteAt k := rfl

@[simp] theorem State.byteAt_setTh (s : State) (t : Thread) (k : Loc) : (s.setTh t).byteAt k = s.byteAt k := rfl

@[simp] theorem State.peek_setTh (s : State) (t : Thread) (k : Loc) (n : Nat) : (s.setTh t).peek k n = s.peek k n := rfl

end Sys2Proof.Machine
end

