-- ==== Sys2Proof/Laws/Ops.lean ====
section
/-!
SUPPORT. What the shared operations can do: meanings as state functions, the ends of a meaning, taking an exception and
returning from one, the issue of a long-latency instruction.
-/

namespace Sys2Proof.Machine

/-! ### Bits -/

theorem bit_setBit {w : Nat} (x : BitVec w) (i j : Nat) : bit (setBit x i) j = (bit x j || (decide (j < w) && decide (i = j))) := by
  simp only [bit, setBit, BitVec.getLsbD_or, BitVec.getLsbD_ofNat, Nat.testBit_two_pow]

theorem bit_clearBit {w : Nat} (x : BitVec w) (i j : Nat) : bit (clearBit x i) j = (bit x j && !decide (i = j)) := by
  simp only [bit, clearBit, BitVec.getLsbD_and, BitVec.getLsbD_not, BitVec.getLsbD_ofNat, Nat.testBit_two_pow]
  by_cases h : j < w
  · by_cases e : i = j <;> simp [h, e]
  · simp [BitVec.getLsbD_of_ge x j (by omega)]

@[simp] theorem bit_setBit_ne {w : Nat} (x : BitVec w) {i j : Nat} (h : i ≠ j) : bit (setBit x i) j = bit x j := by
  simp [bit_setBit, h]

@[simp] theorem bit_clearBit_ne {w : Nat} (x : BitVec w) {i j : Nat} (h : i ≠ j) : bit (clearBit x i) j = bit x j := by
  simp [bit_clearBit, h]

/-- A field just written, where it lies within the word. -/
theorem field_withField {w : Nat} (x : BitVec w) {lo n v : Nat} (h : lo + n ≤ w) : field (withField x lo n v) lo n = v % 2 ^ n := by
  have hx : x.toNat / 2 ^ (lo + n) < 2 ^ (w - (lo + n)) := by
    rw [Nat.div_lt_iff_lt_mul (Nat.two_pow_pos _), ← Nat.pow_add, show w - (lo + n) + (lo + n) = w by omega]
    exact x.isLt
  have h1 : x.toNat % 2 ^ lo < 2 ^ lo := Nat.mod_lt _ (Nat.two_pow_pos _)
  have h2 : v % 2 ^ n < 2 ^ n := Nat.mod_lt _ (Nat.two_pow_pos _)
  have e : x.toNat % 2 ^ lo + v % 2 ^ n * 2 ^ lo + x.toNat / 2 ^ (lo + n) * 2 ^ (lo + n)
      = x.toNat % 2 ^ lo + 2 ^ lo * (v % 2 ^ n + 2 ^ n * (x.toNat / 2 ^ (lo + n))) := by
    rw [Nat.pow_add]; ring
  simp only [field, withField, BitVec.toNat_ofNat, e]
  rw [Nat.mod_eq_of_lt (a := _ + _)]
  · rw [Nat.add_mul_div_left _ _ (Nat.two_pow_pos _), Nat.div_eq_of_lt h1, Nat.zero_add, Nat.add_mul_mod_self_left, Nat.mod_mod]
  · calc x.toNat % 2 ^ lo + 2 ^ lo * (v % 2 ^ n + 2 ^ n * (x.toNat / 2 ^ (lo + n)))
        < 2 ^ lo + 2 ^ lo * (v % 2 ^ n + 2 ^ n * (x.toNat / 2 ^ (lo + n))) := by omega
      _ = 2 ^ lo * (1 + v % 2 ^ n + 2 ^ n * (x.toNat / 2 ^ (lo + n))) := by ring
      _ ≤ 2 ^ lo * (2 ^ n * (1 + x.toNat / 2 ^ (lo + n))) := by
          apply Nat.mul_le_mul_left; rw [Nat.mul_add, Nat.mul_one]; omega
      _ ≤ 2 ^ lo * (2 ^ n * 2 ^ (w - (lo + n))) := by
          apply Nat.mul_le_mul_left; apply Nat.mul_le_mul_left; omega
      _ = 2 ^ w := by rw [← Nat.mul_assoc, ← Nat.pow_add, ← Nat.pow_add, show lo + n + (w - (lo + n)) = w by omega]

/-- A write of one field leaves a field beside it alone. -/
theorem field_withField_ne {w : Nat} (x : BitVec w) {lo n v a k : Nat} (h : lo + n ≤ w) (ha : a + k ≤ lo ∨ lo + n ≤ a) :
    field (withField x lo n v) a k = field x a k := by
  have h1 : x.toNat % 2 ^ lo < 2 ^ lo := Nat.mod_lt _ (Nat.two_pow_pos _)
  have h2 : v % 2 ^ n < 2 ^ n := Nat.mod_lt _ (Nat.two_pow_pos _)
  have hx : x.toNat / 2 ^ (lo + n) * 2 ^ (lo + n) ≤ x.toNat := Nat.div_mul_le_self _ _
  have key : (withField x lo n v).toNat = x.toNat % 2 ^ lo + v % 2 ^ n * 2 ^ lo + x.toNat / 2 ^ (lo + n) * 2 ^ (lo + n) := by
    simp only [withField, BitVec.toNat_ofNat]
    apply Nat.mod_eq_of_lt
    have hq : x.toNat / 2 ^ (lo + n) < 2 ^ (w - (lo + n)) := by
      rw [Nat.div_lt_iff_lt_mul (Nat.two_pow_pos _), ← Nat.pow_add, show w - (lo + n) + (lo + n) = w by omega]
      exact x.isLt
    have : x.toNat % 2 ^ lo + v % 2 ^ n * 2 ^ lo < 2 ^ (lo + n) := by
      rw [Nat.pow_add]
      calc x.toNat % 2 ^ lo + v % 2 ^ n * 2 ^ lo < 2 ^ lo + v % 2 ^ n * 2 ^ lo := by omega
        _ = 2 ^ lo * (v % 2 ^ n + 1) := by ring
        _ ≤ 2 ^ lo * 2 ^ n := Nat.mul_le_mul_left _ h2
    calc _ < 2 ^ (lo + n) + x.toNat / 2 ^ (lo + n) * 2 ^ (lo + n) := by omega
      _ = 2 ^ (lo + n) * (x.toNat / 2 ^ (lo + n) + 1) := by ring
      _ ≤ 2 ^ (lo + n) * 2 ^ (w - (lo + n)) := Nat.mul_le_mul_left _ hq
      _ = 2 ^ w := by rw [← Nat.pow_add, show lo + n + (w - (lo + n)) = w by omega]
  apply Nat.eq_of_testBit_eq
  intro i
  simp only [field, Nat.testBit_mod_two_pow, Nat.testBit_div_two_pow]
  by_cases hi : i < k
  · simp only [hi, decide_true, Bool.true_and]
    rw [key]
    rcases ha with ha | ha
    · rw [show x.toNat % 2 ^ lo + v % 2 ^ n * 2 ^ lo + x.toNat / 2 ^ (lo + n) * 2 ^ (lo + n)
        = 2 ^ lo * (v % 2 ^ n + 2 ^ n * (x.toNat / 2 ^ (lo + n))) + x.toNat % 2 ^ lo by rw [Nat.pow_add]; ring]
      rw [Nat.testBit_two_pow_mul_add _ h1]
      simp [show i + a < lo by omega, Nat.testBit_mod_two_pow]
    · have h3 : x.toNat % 2 ^ lo + v % 2 ^ n * 2 ^ lo < 2 ^ (lo + n) := by
        rw [Nat.pow_add]
        calc x.toNat % 2 ^ lo + v % 2 ^ n * 2 ^ lo < 2 ^ lo + v % 2 ^ n * 2 ^ lo := by omega
          _ = 2 ^ lo * (v % 2 ^ n + 1) := by ring
          _ ≤ 2 ^ lo * 2 ^ n := Nat.mul_le_mul_left _ h2
      rw [show x.toNat % 2 ^ lo + v % 2 ^ n * 2 ^ lo + x.toNat / 2 ^ (lo + n) * 2 ^ (lo + n)
        = 2 ^ (lo + n) * (x.toNat / 2 ^ (lo + n)) + (x.toNat % 2 ^ lo + v % 2 ^ n * 2 ^ lo) by ring]
      rw [Nat.testBit_two_pow_mul_add _ h3]
      simp [show ¬ (i + a < lo + n) by omega, Nat.testBit_div_two_pow, show i + a - (lo + n) + (lo + n) = i + a by omega]
  · simp [hi]

/-! ### Meanings as functions of the state -/

section
variable {α β : Type} (s : State)

@[simp] theorem M.pure_apply (a : α) : (pure a : M α) s = .ok a s := rfl

theorem M.bind_apply (x : M α) (f : α → M β) :
    (x >>= f) s = match x s with
      | .ok a t => f a t
      | .error e t => .error e t := by
  show EStateM.bind x f s = _
  unfold EStateM.bind
  cases x s <;> rfl

@[simp] theorem M.get_apply : (get : M State) s = .ok s s := rfl

@[simp] theorem M.set_apply (t : State) : (set t : M Unit) s = .ok () t := rfl

@[simp] theorem M.throw_apply (e : Stop) : (throw e : M α) s = .error e s := rfl

@[simp] theorem upd_apply (f : State → State) : upd f s = .ok () (f s) := rfl

@[simp] theorem updTh_apply (f : Thread → Thread) : updTh f s = .ok () (s.modTh f) := rfl

@[simp] theorem thread_apply : thread s = .ok s.th s := rfl

@[simp] theorem myCore_apply : myCore s = .ok s.me s := rfl

@[simp] theorem raise_apply (c : Cause) (v : Word) (k : BitVec 4) :
    (raise c v k : M α) s = .error (.trap { cause := c, tval := v, kind := k, out := false }) s := rfl

@[simp] theorem stall_apply : (stall : M α) s = .error .stall s := rfl

@[simp] theorem finish_apply : (finish : M α) s = .error .done s := rfl

@[simp] theorem illegal_apply (i : Instr) :
    (illegal i : M α) s = .error (.trap { cause := .illegal, tval := wordVal i, kind := 0, out := false }) s := rfl

theorem M.map_apply (x : M α) (f : α → β) :
    (f <$> x) s = match x s with
      | .ok a t => .ok (f a) t
      | .error e t => .error e t := by
  show EStateM.map f x s = _
  unfold EStateM.map
  cases x s <;> rfl

/-- A choice between meanings, at a state. -/
theorem M.ite_apply (c : Prop) [Decidable c] (x y : M α) : (if c then x else y) s = if c then x s else y s := by
  split <;> rfl

theorem M.bind_ok {x : M α} {f : α → M β} {a : α} {t : State} (h : x s = .ok a t) : (x >>= f) s = f a t := by
  rw [M.bind_apply, h]

end

/-! ### How a meaning ends -/

/-- A meaning that completes: the pc advances. -/
theorem run_ok {m : M Unit} {s t : State} (h : m s = .ok () t) : run m s = .next (t.modTh Thread.next) := by
  simp [run, h]

theorem run_error {m : M Unit} {s t : State} {e : Stop} (h : m s = .error e t) : run m s = stopResult s t e := by
  simp [run, h]

/-- A meaning that ends by itself. -/
theorem run_done {m : M Unit} {s t : State} (h : m s = .error .done t) : run m s = .next t := by
  simp [run, h, stopResult]

/-- A trap at issue with nothing outstanding is taken at once (R302). -/
theorem run_trap {m : M Unit} {s t : State} {x : Trap} (h : m s = .error (.trap x) t) (ho : s.th.outst = []) :
    run m s = .next (t.takeTrap x) := by
  simp [run, h, stopResult, ho]

/-- A stall leaves the instruction the next one. -/
theorem run_stall {m : M Unit} {s t : State} (h : m s = .error .stall t) : run m s = .next (t.modTh Thread.stall) := by
  simp [run, h, stopResult]

/-- Everything that a meaning can answer: a next state, or the fault that it names. -/
theorem run_cases (m : M Unit) (s : State) :
    (∃ t, m s = .ok () t ∧ run m s = .next (t.modTh Thread.next)) ∨ (∃ e t, m s = .error e t ∧ run m s = stopResult s t e) := by
  cases h : m s with
  | ok a t => exact .inl ⟨t, by cases a; rfl, by simp [run, h]⟩
  | error e t => exact .inr ⟨e, t, rfl, by simp [run, h]⟩

/-- What a stop answers, where it is no fault. -/
theorem stopResult_next (s t : State) (e : Stop) (h : ∀ f, e ≠ .fault f) : ∃ u, stopResult s t e = .next u := by
  cases e with
  | trap x => simp only [stopResult]; split <;> exact ⟨_, rfl⟩
  | stall => exact ⟨_, rfl⟩
  | done => exact ⟨_, rfl⟩
  | page ga c k r => simp only [stopResult]; split <;> exact ⟨_, rfl⟩
  | fault f => exact absurd rfl (h f)

/-- A meaning that cannot trap. -/
theorem simple_eq (f : Thread → Thread) (s : State) : simple f s = .next (s.setTh (f s.th).next) := rfl

/-! ### Taking an exception and returning from one (R302, R303) -/

/-- What the entry leaves in a slot. -/
@[simp] theorem Thread.enter_frame (t : Thread) (tvec : Word) (i o : Bool) (k : BitVec 4) (c : Nat) (v : Word) (e : Ptr) (l : BitVec 15) :
    (t.enter tvec i o k c v e l).tepc = e.v ∧ (t.enter tvec i o k c v e l).tval = v
      ∧ (t.enter tvec i o k c v e l).tcause = tcauseWord i o k c ∧ (t.enter tvec i o k c v e l).pc = handlerPc tvec
      ∧ (t.enter tvec i o k c v e l).thstat = thstatEntered t.thstat e.sb l
      ∧ (t.enter tvec i o k c v e l).regs = t.regs ∧ (t.enter tvec i o k c v e l).vregs = t.vregs
      ∧ (t.enter tvec i o k c v e l).masks = t.masks ∧ (t.enter tvec i o k c v e l).accs = t.accs := by
  repeat' constructor

/-- MODE after an entry is supervisor. -/
theorem thstatEntered_mode (w : Word) (sb : BitVec 8) (l : BitVec 15) : field (thstatEntered w sb l) 8 2 = 1 := by
  simp only [thstatEntered]
  rw [field_withField_ne _ (by omega) (by omega), field_withField _ (by omega)]
  rfl

theorem thstatEntered_intrap (w : Word) (sb : BitVec 8) (l : BitVec 15) : field (thstatEntered w sb l) 5 1 = 1 := by
  simp only [thstatEntered]
  rw [field_withField _ (by omega)]
  rfl

theorem thstatEntered_ie (w : Word) (sb : BitVec 8) (l : BitVec 15) : field (thstatEntered w sb l) 6 1 = 0 := by
  simp only [thstatEntered]
  rw [field_withField_ne _ (by omega) (by omega), field_withField_ne _ (by omega) (by omega), field_withField _ (by omega)]
  rfl

theorem thstatEntered_pie (w : Word) (sb : BitVec 8) (l : BitVec 15) : field (thstatEntered w sb l) 7 1 = field w 6 1 := by
  simp only [thstatEntered]
  rw [field_withField_ne _ (by omega) (by omega), field_withField_ne _ (by omega) (by omega), field_withField_ne _ (by omega) (by omega),
    field_withField _ (by omega), field_withField_ne _ (by omega) (by omega), field_withField_ne _ (by omega) (by omega),
    field_withField_ne _ (by omega) (by omega)]
  simp [field]

theorem thstatEntered_pmode (w : Word) (sb : BitVec 8) (l : BitVec 15) : field (thstatEntered w sb l) 10 2 = field w 8 2 := by
  simp only [thstatEntered]
  rw [field_withField_ne _ (by omega) (by omega), field_withField_ne _ (by omega) (by omega), field_withField_ne _ (by omega) (by omega),
    field_withField_ne _ (by omega) (by omega), field_withField _ (by omega), field_withField_ne _ (by omega) (by omega),
    field_withField_ne _ (by omega) (by omega)]
  simp [field]

end Sys2Proof.Machine
end

