-- ==== Sys2Proof/Laws/Frame.lean ====
section
/-!
SUPPORT. What each register operation keeps of a thread, in the terms of `Claims.Keeps`.
-/

namespace Sys2Proof.Machine

/-! ### Reads of registers after an operation that does not write them -/

@[simp] theorem Thread.next_get (t : Thread) (r : Reg) : (t.next).get r = t.get r := rfl
@[simp] theorem Thread.next_val (t : Thread) (r : Reg) : (t.next).val r = t.val r := rfl
@[simp] theorem Thread.next_vget (t : Thread) (r : Reg) : (t.next).vget r = t.vget r := rfl
@[simp] theorem Thread.next_mget (t : Thread) (m : Fin 8) : (t.next).mget m = t.mget m := rfl
@[simp] theorem Thread.touchC_get (t : Thread) (r : Reg) : (t.touchC).get r = t.get r := rfl
@[simp] theorem Thread.touchC_val (t : Thread) (r : Reg) : (t.touchC).val r = t.val r := rfl
@[simp] theorem Thread.touchC_vget (t : Thread) (r : Reg) : (t.touchC).vget r = t.vget r := rfl
@[simp] theorem Thread.touchC_mget (t : Thread) (m : Fin 8) : (t.touchC).mget m = t.mget m := rfl
@[simp] theorem Thread.warnBit_get (t : Thread) (w : Warn) (r : Reg) : (t.warnBit w).get r = t.get r := rfl
@[simp] theorem Thread.warnBit_val (t : Thread) (w : Warn) (r : Reg) : (t.warnBit w).val r = t.val r := rfl
@[simp] theorem Thread.warnBit_vget (t : Thread) (w : Warn) (r : Reg) : (t.warnBit w).vget r = t.vget r := rfl
@[simp] theorem Thread.warnBit_mget (t : Thread) (w : Warn) (m : Fin 8) : (t.warnBit w).mget m = t.mget m := rfl
@[simp] theorem Thread.warnIf_get (t : Thread) (w : Warn) (b : Bool) (r : Reg) : (t.warnIf w b).get r = t.get r := by unfold Thread.warnIf; split <;> rfl
@[simp] theorem Thread.warnIf_val (t : Thread) (w : Warn) (b : Bool) (r : Reg) : (t.warnIf w b).val r = t.val r := by unfold Thread.warnIf; split <;> rfl
@[simp] theorem Thread.warnIf_vget (t : Thread) (w : Warn) (b : Bool) (r : Reg) : (t.warnIf w b).vget r = t.vget r := by unfold Thread.warnIf; split <;> rfl
@[simp] theorem Thread.warnIf_mget (t : Thread) (w : Warn) (b : Bool) (m : Fin 8) : (t.warnIf w b).mget m = t.mget m := by unfold Thread.warnIf; split <;> rfl
@[simp] theorem Thread.lkIgnored_get (t : Thread) (lk : Fin 16) (r : Reg) : (t.lkIgnored lk).get r = t.get r := by unfold Thread.lkIgnored; split <;> rfl
@[simp] theorem Thread.lkIgnored_val (t : Thread) (lk : Fin 16) (r : Reg) : (t.lkIgnored lk).val r = t.val r := by unfold Thread.lkIgnored; split <;> rfl
@[simp] theorem Thread.lkIgnored_vget (t : Thread) (lk : Fin 16) (r : Reg) : (t.lkIgnored lk).vget r = t.vget r := by unfold Thread.lkIgnored; split <;> rfl
@[simp] theorem Thread.lkIgnored_mget (t : Thread) (lk : Fin 16) (m : Fin 8) : (t.lkIgnored lk).mget m = t.mget m := by unfold Thread.lkIgnored; split <;> rfl
@[simp] theorem Thread.raised_get (t : Thread) (fl : Flags) (r : Reg) : (t.raised fl).get r = t.get r := by unfold Thread.raised; split <;> rfl
@[simp] theorem Thread.raised_val (t : Thread) (fl : Flags) (r : Reg) : (t.raised fl).val r = t.val r := by unfold Thread.raised; split <;> rfl
@[simp] theorem Thread.raised_vget (t : Thread) (fl : Flags) (r : Reg) : (t.raised fl).vget r = t.vget r := by unfold Thread.raised; split <;> rfl
@[simp] theorem Thread.raised_mget (t : Thread) (fl : Flags) (m : Fin 8) : (t.raised fl).mget m = t.mget m := by unfold Thread.raised; split <;> rfl
@[simp] theorem Thread.issueWaiting_get (t : Thread) (lk : Fin 16) (d : List Res) (w : OutWait) (r : Reg) : (t.issueWaiting lk d w).get r = t.get r := rfl
@[simp] theorem Thread.issueWaiting_val (t : Thread) (lk : Fin 16) (d : List Res) (w : OutWait) (r : Reg) : (t.issueWaiting lk d w).val r = t.val r := rfl
@[simp] theorem Thread.issueWaiting_vget (t : Thread) (lk : Fin 16) (d : List Res) (w : OutWait) (r : Reg) : (t.issueWaiting lk d w).vget r = t.vget r := rfl
@[simp] theorem Thread.issueWaiting_mget (t : Thread) (lk : Fin 16) (d : List Res) (w : OutWait) (m : Fin 8) : (t.issueWaiting lk d w).mget m = t.mget m := rfl
@[simp] theorem Thread.issueOut_get (t : Thread) (lk : Fin 16) (d : List Res) (r : Reg) : (t.issueOut lk d).get r = t.get r := rfl
@[simp] theorem Thread.issueOut_val (t : Thread) (lk : Fin 16) (d : List Res) (r : Reg) : (t.issueOut lk d).val r = t.val r := rfl
@[simp] theorem Thread.issueOut_vget (t : Thread) (lk : Fin 16) (d : List Res) (r : Reg) : (t.issueOut lk d).vget r = t.vget r := rfl
@[simp] theorem Thread.issueOut_mget (t : Thread) (lk : Fin 16) (d : List Res) (m : Fin 8) : (t.issueOut lk d).mget m = t.mget m := rfl
@[simp] theorem Thread.issueTrap_get (t : Thread) (lk : Fin 16) (d : List Res) (c : Cause) (v : Word) (k : BitVec 4) (r : Reg) : (t.issueTrap lk d c v k).get r = t.get r := rfl
@[simp] theorem Thread.issueTrap_val (t : Thread) (lk : Fin 16) (d : List Res) (c : Cause) (v : Word) (k : BitVec 4) (r : Reg) : (t.issueTrap lk d c v k).val r = t.val r := rfl
@[simp] theorem Thread.issueTrap_vget (t : Thread) (lk : Fin 16) (d : List Res) (c : Cause) (v : Word) (k : BitVec 4) (r : Reg) : (t.issueTrap lk d c v k).vget r = t.vget r := rfl
@[simp] theorem Thread.issueTrap_mget (t : Thread) (lk : Fin 16) (d : List Res) (c : Cause) (v : Word) (k : BitVec 4) (m : Fin 8) : (t.issueTrap lk d c v k).mget m = t.mget m := rfl
@[simp] theorem Thread.draw_get (t : Thread) (r : Reg) : (t.draw.1).get r = t.get r := rfl
@[simp] theorem Thread.draw_val (t : Thread) (r : Reg) : (t.draw.1).val r = t.val r := rfl
@[simp] theorem Thread.draw_vget (t : Thread) (r : Reg) : (t.draw.1).vget r = t.vget r := rfl
@[simp] theorem Thread.draw_mget (t : Thread) (m : Fin 8) : (t.draw.1).mget m = t.mget m := rfl
@[simp] theorem Thread.markStack_get (t : Thread) (ga : Ptr) (r : Reg) : (t.markStack ga).get r = t.get r := by unfold Thread.markStack; split <;> rfl
@[simp] theorem Thread.markStack_val (t : Thread) (ga : Ptr) (r : Reg) : (t.markStack ga).val r = t.val r := by unfold Thread.markStack; split <;> rfl
@[simp] theorem Thread.markStack_vget (t : Thread) (ga : Ptr) (r : Reg) : (t.markStack ga).vget r = t.vget r := by unfold Thread.markStack; split <;> rfl
@[simp] theorem Thread.markStack_mget (t : Thread) (ga : Ptr) (m : Fin 8) : (t.markStack ga).mget m = t.mget m := by unfold Thread.markStack; split <;> rfl
@[simp] theorem Thread.put_vget (t : Thread) (d : Reg) (p : Ptr) (r : Reg) : (t.put d p).vget r = t.vget r := by unfold Thread.put; split <;> rfl
@[simp] theorem Thread.putInt_vget (t : Thread) (d : Reg) (v : Word) (r : Reg) : (t.putInt d v).vget r = t.vget r := Thread.put_vget _ _ _ _
@[simp] theorem Thread.put_mget (t : Thread) (d : Reg) (p : Ptr) (m : Fin 8) : (t.put d p).mget m = t.mget m := by unfold Thread.put; split <;> rfl
@[simp] theorem Thread.putInt_mget (t : Thread) (d : Reg) (v : Word) (m : Fin 8) : (t.putInt d v).mget m = t.mget m := Thread.put_mget _ _ _ _
@[simp] theorem Thread.vput_get (t : Thread) (d : Reg) (y : VReg) (r : Reg) : (t.vput d y).get r = t.get r := rfl
@[simp] theorem Thread.mput_get (t : Thread) (m : Fin 8) (y : MReg) (r : Reg) : (t.mput m y).get r = t.get r := by unfold Thread.mput; split <;> rfl
@[simp] theorem Thread.vput_val (t : Thread) (d : Reg) (y : VReg) (r : Reg) : (t.vput d y).val r = t.val r := rfl
@[simp] theorem Thread.mput_val (t : Thread) (m : Fin 8) (y : MReg) (r : Reg) : (t.mput m y).val r = t.val r := by unfold Thread.mput; split <;> rfl
@[simp] theorem Thread.mput_vget (t : Thread) (m : Fin 8) (y : MReg) (r : Reg) : (t.mput m y).vget r = t.vget r := by unfold Thread.mput; split <;> rfl
@[simp] theorem Thread.vput_mget (t : Thread) (d : Reg) (y : VReg) (m : Fin 8) : (t.vput d y).mget m = t.mget m := rfl

@[simp] theorem Thread.warnIf_pc (t : Thread) (w : Warn) (b : Bool) : (t.warnIf w b).pc = t.pc := by
  unfold Thread.warnIf; split <;> rfl

@[simp] theorem Thread.draw_pc (t : Thread) : t.draw.1.pc = t.pc := rfl

@[simp] theorem Thread.warnIf_outst (t : Thread) (w : Warn) (b : Bool) : (t.warnIf w b).outst = t.outst := by
  unfold Thread.warnIf; split <;> rfl

@[simp] theorem Thread.issueWaiting_outst (t : Thread) (lk : Fin 16) (d : List Res) (w : OutWait) :
    (t.issueWaiting lk d w).outst = t.outst ++ [{ pc := t.pc, lk := lk.val, issued := 0, done := 0, dest := d, trap := none, wait := w }] := rfl

@[simp] theorem Thread.issueOut_outst (t : Thread) (lk : Fin 16) (d : List Res) :
    (t.issueOut lk d).outst = t.outst ++ [{ pc := t.pc, lk := lk.val, issued := 0, done := 0, dest := d, trap := none, wait := .ready }] := rfl

/-- What a register holds after a write of it. -/
theorem Thread.get_put (t : Thread) (r : Reg) (p : Ptr) : (t.put r p).get r = Claims.held r p := Thread.get_put_self t r p

theorem Thread.get_putInt (t : Thread) (r : Reg) (v : Word) : (t.putInt r v).get r = Claims.held r (.int v) := Thread.get_put_self t r _

end Sys2Proof.Machine

namespace Sys2Proof.Claims

open Machine

theorem Keeps.refl (p : Footprint) (a : Thread) : Keeps p a a :=
  { regs := fun _ _ => rfl, tokens := fun _ _ => ⟨rfl, rfl⟩, vregs := fun _ _ => rfl, masks := fun _ _ => rfl,
    warn := fun _ => .inl rfl, fpctl := fun _ => .inl rfl, seed := fun _ => rfl, dirty := fun _ => .inl rfl,
    outst := fun _ => rfl, stack := fun _ => rfl, mon := fun _ => ⟨rfl, rfl⟩, waits := rfl, rest := rfl }

theorem sticky_trans {P : Prop} {a b c : Bool} (h : b = a ∨ (P ∧ b = true)) (k : c = b ∨ (P ∧ c = true)) :
    c = a ∨ (P ∧ c = true) := by
  rcases k with k | k
  · rw [k]; exact h
  · exact .inr k

theorem Keeps.trans {p : Footprint} {a b c : Thread} (h : Keeps p a b) (k : Keeps p b c) : Keeps p a c :=
  { regs := fun r hr => (k.regs r hr).trans (h.regs r hr)
    tokens := fun r hr => ⟨((k.tokens r hr).1).trans (h.tokens r hr).1, ((k.tokens r hr).2).trans (h.tokens r hr).2⟩
    vregs := fun r hr => (k.vregs r hr).trans (h.vregs r hr)
    masks := fun r hr => (k.masks r hr).trans (h.masks r hr)
    warn := fun i => sticky_trans (h.warn i) (k.warn i)
    fpctl := fun i => by
      have := sticky_trans (P := p.flags = true ∧ 8 ≤ i ∧ i < 13) (by simpa [and_assoc] using h.fpctl i)
        (by simpa [and_assoc] using k.fpctl i)
      simpa [and_assoc] using this
    seed := fun hs => (k.seed hs).trans (h.seed hs)
    dirty := fun i => sticky_trans (h.dirty i) (k.dirty i)
    outst := fun ho => (k.outst ho).trans (h.outst ho)
    stack := fun ho => (k.stack ho).trans (h.stack ho)
    mon := fun ho => ⟨(k.mon ho).1.trans (h.mon ho).1, (k.mon ho).2.trans (h.mon ho).2⟩
    waits := k.waits.trans h.waits
    rest := by rw [k.rest, h.rest] }

theorem bit_setBit_sticky {w : Nat} (x : BitVec w) (i j : Nat) :
    bit (setBit x i) j = bit x j ∨ (i = j ∧ bit (setBit x i) j = true) := by
  by_cases h : i = j
  · subst h
    by_cases hw : i < w
    · right; simp [bit_setBit, hw]
    · left; simp [bit_setBit, hw]
  · left; simp [h]

variable {p : Footprint} {a t : Thread}

theorem Keeps.next : Keeps p t t.next :=
  { Keeps.refl p t with rest := rfl }

theorem Keeps.put {r : Reg} {x : Ptr} (h : r ∈ p.regs) : Keeps p t (t.put r x) := by
  by_cases hr : r = 0
  · subst hr; exact Keeps.refl _ _
  · have e : t.put r x = { t with regs := t.regs.set r x, dirty := setBit t.dirty 17, tokErr := clearBit t.tokErr r.val,
                                  tokUnc := clearBit t.tokUnc r.val } := by simp [Thread.put, hr]
    have hd : p.dirties 17 = true := by
      cases hp : p.regs with
      | nil => simp [hp] at h
      | cons _ _ => simp [Footprint.dirties, hp]
    exact
      { Keeps.refl p t with
        regs := fun q hq => Thread.get_put_ne _ _ (fun e => hq (e ▸ h))
        tokens := fun q hq => by
          have hv : r.val ≠ q.val := fun e => hq (Fin.ext e ▸ h)
          simp [e, hv]
        vregs := fun q _ => by rw [e]; rfl
        masks := fun q _ => by rw [e]; rfl
        warn := fun i => by rw [e]; exact .inl rfl
        fpctl := fun i => by rw [e]; exact .inl rfl
        seed := fun _ => by rw [e]
        outst := fun _ => by rw [e]
        stack := fun _ => by rw [e]
        mon := fun _ => by rw [e]; exact ⟨rfl, rfl⟩
        waits := by rw [e]
        dirty := fun i => by
          rw [e]
          rcases bit_setBit_sticky t.dirty 17 i with h | ⟨h1, h2⟩
          · exact .inl h
          · exact .inr ⟨h1 ▸ hd, h2⟩
        rest := by rw [e] }

theorem Keeps.putInt {r : Reg} {x : Word} (h : r ∈ p.regs) : Keeps p t (t.putInt r x) := Keeps.put h

theorem Keeps.warnBit {w : Warn} (h : w ∈ p.warn) : Keeps p t (t.warnBit w) := by
  have hd : p.dirties 18 = true := by
    cases hp : p.warn with
    | nil => simp [hp] at h
    | cons _ _ => simp [Footprint.dirties, hp]
  exact
    { Keeps.refl p t with
      warn := fun i => by
        rcases bit_setBit_sticky t.warn w.bit i with e | ⟨e1, e2⟩
        · exact .inl e
        · exact .inr ⟨List.mem_map.2 ⟨w, h, e1⟩, e2⟩
      dirty := fun i => by
        rcases bit_setBit_sticky t.dirty 18 i with e | ⟨e1, e2⟩
        · exact .inl e
        · exact .inr ⟨e1 ▸ hd, e2⟩
      rest := rfl }

theorem Keeps.warnIf {w : Warn} {b : Bool} (h : w ∈ p.warn) : Keeps p t (t.warnIf w b) := by
  unfold Thread.warnIf; split
  · exact Keeps.warnBit h
  · exact Keeps.refl _ _

theorem Keeps.lkIgnored {lk : Fin 16} (h : Warn.lkig ∈ p.warn) : Keeps p t (t.lkIgnored lk) := by
  unfold Thread.lkIgnored; split
  · exact Keeps.refl _ _
  · exact Keeps.warnBit h

theorem Keeps.vput {r : Reg} {x : VReg} (h : r ∈ p.vregs) : Keeps p t (t.vput r x) := by
  have hd : p.dirties (r.val / 4) = true := by
    simp only [Footprint.dirties, Bool.or_eq_true, List.any_eq_true]
    exact .inr ⟨r, h, by simp⟩
  exact
    { Keeps.refl p t with
      vregs := fun q hq => Thread.vget_vput_ne _ _ (fun e => hq (e ▸ h))
      dirty := fun i => by
        rcases bit_setBit_sticky t.dirty (r.val / 4) i with e | ⟨e1, e2⟩
        · exact .inl e
        · exact .inr ⟨e1 ▸ hd, e2⟩
      rest := rfl }

theorem Keeps.mput {m : Fin 8} {x : MReg} (h : m ∈ p.masks) (hw : Warn.fmt ∈ p.warn) : Keeps p t (t.mput m x) := by
  by_cases hm : m = 0
  · subst hm; exact Keeps.warnBit hw
  · have e : t.mput m x = { t with masks := t.masks.set m x, dirty := setBit t.dirty 16 } := by simp [Thread.mput, hm]
    have hd : p.dirties 16 = true := by
      cases hp : p.masks with
      | nil => simp [hp] at h
      | cons _ _ => simp [Footprint.dirties, hp]
    exact
      { Keeps.refl p t with
        regs := fun q _ => by rw [e]; rfl
        tokens := fun q _ => by rw [e]; exact ⟨rfl, rfl⟩
        vregs := fun q _ => by rw [e]; rfl
        masks := fun q hq => Thread.mget_mput_ne _ _ (fun e => hq (e ▸ h))
        warn := fun i => by rw [e]; exact .inl rfl
        fpctl := fun i => by rw [e]; exact .inl rfl
        seed := fun _ => by rw [e]
        outst := fun _ => by rw [e]
        stack := fun _ => by rw [e]
        mon := fun _ => by rw [e]; exact ⟨rfl, rfl⟩
        waits := by rw [e]
        dirty := fun i => by
          rw [e]
          rcases bit_setBit_sticky t.dirty 16 i with h | ⟨h1, h2⟩
          · exact .inl h
          · exact .inr ⟨h1 ▸ hd, h2⟩
        rest := by rw [e] }

theorem Keeps.issueWaiting {lk : Fin 16} {d : List Res} {w : OutWait} (h : p.outst = true) : Keeps p t (t.issueWaiting lk d w) :=
  { Keeps.refl p t with outst := fun e => by simp [h] at e, rest := rfl }

theorem Keeps.issueOut {lk : Fin 16} {d : List Res} (h : p.outst = true) : Keeps p t (t.issueOut lk d) := Keeps.issueWaiting h

theorem Keeps.issueTrap {lk : Fin 16} {d : List Res} {c : Cause} {v : Word} {k : BitVec 4} (h : p.outst = true) :
    Keeps p t (t.issueTrap lk d c v k) :=
  { Keeps.refl p t with outst := fun e => by simp [h] at e, rest := rfl }

/-- The flags lie in bits 8-12. -/
theorem flag_place {n i : Nat} (h : n < 32) (hb : (n * 256).testBit i = true) : 8 ≤ i ∧ i < 13 := by
  constructor
  · by_contra hc
    rw [show n * 256 = 2 ^ 8 * n by omega, Nat.testBit_two_pow_mul, decide_eq_false hc] at hb
    simp at hb
  · by_contra hc
    have : n * 256 < 2 ^ i := lt_of_lt_of_le (by omega : n * 256 < 2 ^ 13) (Nat.pow_le_pow_right (by decide) (by omega))
    simp [Nat.testBit_lt_two_pow this] at hb

theorem Keeps.raised {fl : Flags} (h : p.flags = true) : Keeps p t (t.raised fl) := by
  unfold Thread.raised; split
  · exact Keeps.refl _ _
  · have hd : p.dirties 18 = true := by simp [Footprint.dirties, h]
    exact
      { Keeps.refl p t with
        fpctl := fun i => by
          have e : bit (t.fpctl ||| word (fl % 32 * 256)) i = (bit t.fpctl i || (decide (i < 64) && (fl % 32 * 256).testBit i)) := by
            simp [bit, word, BitVec.getLsbD_or, BitVec.getLsbD_ofNat]
          show bit (t.fpctl ||| word (fl % 32 * 256)) i = _ ∨ _
          by_cases hb : (fl % 32 * 256).testBit i = true
          · right
            obtain ⟨hlo, hhi⟩ := flag_place (Nat.mod_lt fl (by decide)) hb
            refine ⟨h, hlo, hhi, ?_⟩
            show bit (t.fpctl ||| word (fl % 32 * 256)) i = true
            rw [e, hb]; simp; omega
          · left; rw [e]; simp [hb]
        dirty := fun i => by
          rcases bit_setBit_sticky t.dirty 18 i with e | ⟨e1, e2⟩
          · exact .inl e
          · exact .inr ⟨e1 ▸ hd, e2⟩
        rest := rfl }

theorem Keeps.reseeded {x : Word} (h : p.seed = true) : Keeps p t (Thread.touchC { t with srseed := x }) := by
  have hd : p.dirties 18 = true := by simp [Footprint.dirties, h]
  exact
    { Keeps.refl p t with
      seed := fun e => by simp [h] at e
      dirty := fun i => by
        rcases bit_setBit_sticky t.dirty 18 i with e | ⟨e1, e2⟩
        · exact .inl e
        · exact .inr ⟨e1 ▸ hd, e2⟩
      rest := rfl }

theorem Keeps.markStack {ga : Ptr} (h : p.stack = true) : Keeps p t (t.markStack ga) := by
  unfold Thread.markStack; split
  · have hd : p.dirties 19 = true := by simp [Footprint.dirties, h]
    exact
      { Keeps.refl p t with
        stack := fun e => by simp [h] at e
        dirty := fun i => by
          rcases bit_setBit_sticky t.dirty 19 i with e | ⟨e1, e2⟩
          · exact .inl e
          · exact .inr ⟨e1 ▸ hd, e2⟩
        rest := rfl }
  · exact Keeps.refl _ _

theorem Keeps.met {b : Bool} {w : Option MonWait} (h : p.mon = true) (hw : w.map unseen = t.monWait.map unseen) :
    Keeps p t { t with monHit := b, monWait := w } :=
  { Keeps.refl p t with mon := fun e => by simp [h] at e, waits := hw, rest := rfl }

theorem Keeps.draw (h : p.seed = true) : Keeps p t t.draw.1 := Keeps.reseeded h

theorem Alone.setTh (s : State) (t : Thread) : Alone s (s.setTh t) := by
  refine ⟨by simp, fun l => rfl⟩

theorem Completes.setTh {p : Footprint} {s : State} {t : Thread} (h : Keeps p s.th t) (hp : t.pc = s.th.pc) :
    Completes p s (s.setTh t.next) :=
  { alone := Alone.setTh _ _, keeps := by simpa using h.trans Keeps.next, pc := by simp [Thread.next, hp] }

end Sys2Proof.Claims
end

