-- ==== Sys2Proof/Laws/Alu.lean ====
section
/-!
SUPPORT. Integer arithmetic: what each shape of meaning leaves, and the shift, count and comparison helpers as numbers.
-/

namespace Sys2Proof.Machine

open Claims

/-! ### The shapes -/

theorem lkIgnored_keeps {p : Footprint} (lk : Fin 16) (t : Thread) (h : lk ≠ 0 → Warn.lkig ∈ p.warn) : Keeps p t (t.lkIgnored lk) := by
  unfold Thread.lkIgnored; split
  · exact Keeps.refl _ _
  · rename_i h1; exact Keeps.warnBit (h h1)

/-- An F-A member that completes in the issue pipeline. -/
theorem aluOp_spec (g : Word → Word → Word) (f : FmtA) (s : State) : ∃ t, aluOp g f s = .next t
    ∧ Completes { regs := [f.d], warn := if f.lk = 0 then [] else [.lkig] } s t
    ∧ t.th.get f.d = held f.d (.int (g (s.th.val f.a) (s.th.val f.b))) := by
  refine ⟨_, rfl, Completes.setTh ((lkIgnored_keeps f.lk _ (fun h => by simp [h])).trans (Keeps.putInt (by simp))) (by simp), ?_⟩
  simp [Thread.get_putInt]

/-- An F-I member that writes an integer. -/
theorem immOp_spec (g : Word → Word → Word) (f : FmtI) (s : State) : ∃ t, immOp g f s = .next t
    ∧ Completes { regs := [f.d] } s t ∧ t.th.get f.d = held f.d (.int (g (s.th.val f.a) (sext f.imm))) := by
  refine ⟨_, rfl, Completes.setTh (Keeps.putInt (by simp)) (by simp), ?_⟩
  simp [Thread.get_putInt]

/-- A shift by a constant. -/
theorem shiftOp_spec (g : Word → Word → Word) (f : FmtSh) (s : State) : ∃ t, shiftOp g f s = .next t
    ∧ Completes { regs := [f.d] } s t ∧ t.th.get f.d = held f.d (.int (g (s.th.val f.a) (word f.sh.val))) := by
  refine ⟨_, rfl, Completes.setTh (Keeps.putInt (by simp)) (by simp), ?_⟩
  simp [Thread.get_putInt]

/-- A pointer member. -/
theorem ptrOp_spec (g : Ptr → Ptr → Ptr) (f : FmtA) (s : State) : ∃ t, ptrOp g f s = .next t
    ∧ Completes { regs := [f.d], warn := if f.lk = 0 then [] else [.lkig] } s t
    ∧ t.th.get f.d = held f.d (g (s.th.get f.a) (s.th.get f.b)) := by
  refine ⟨_, rfl, Completes.setTh ((lkIgnored_keeps f.lk _ (fun h => by simp [h])).trans (Keeps.put (by simp))) (by simp), ?_⟩
  simp [held]

/-- A member of the divide class: it writes d and is outstanding. -/
theorem divideOp_spec (g : Word → Word → Word) (f : FmtA) (s : State) : ∃ t, divideOp g f s = .next t
    ∧ Completes { regs := [f.d], outst := true } s t
    ∧ t.th.get f.d = held f.d (.int (g (s.th.val f.a) (s.th.val f.b)))
    ∧ t.th.outst = s.th.outst ++ [{ pc := s.th.pc, lk := f.lk.val, issued := 0, done := 0, dest := [.s f.d], trap := none,
                                    wait := .ready }] := by
  refine ⟨_, rfl, Completes.setTh ((Keeps.putInt (by simp)).trans (Keeps.issueOut rfl)) (by simp), ?_, ?_⟩
  · simp [Thread.get_putInt]
  · simp

/-! ### The helpers as numbers -/

theorem shiftLeft_word (a : Word) (n : Nat) : a <<< n = word (a.toNat * 2 ^ n) := by
  apply BitVec.eq_of_toNat_eq; simp [word, BitVec.toNat_shiftLeft, Nat.shiftLeft_eq]

theorem shiftRight_word (a : Word) (n : Nat) : a >>> n = word (a.toNat / 2 ^ n) := by
  apply BitVec.eq_of_toNat_eq
  simp [word, BitVec.toNat_ushiftRight, Nat.shiftRight_eq_div_pow]
  exact (Nat.mod_eq_of_lt (lt_of_le_of_lt (Nat.div_le_self _ _) a.isLt)).symm

theorem sshiftRight_ofInt (a : Word) (n : Nat) : a.sshiftRight n = BitVec.ofInt 64 (a.toInt / 2 ^ n) := by
  unfold BitVec.sshiftRight; rw [Int.shiftRight_eq_div_pow]; norm_cast

theorem shiftLeft_eq (a b : Word) : shiftLeft a b = if b.toNat < 64 then word (a.toNat * 2 ^ b.toNat) else 0 := by
  unfold shiftLeft
  split
  · rw [Nat.min_eq_left (by omega), shiftLeft_word]
  · rw [Nat.min_eq_right (by omega)]; simp

theorem shiftRight_eq (a b : Word) : shiftRight a b = word (a.toNat / 2 ^ b.toNat) := by
  unfold shiftRight
  by_cases h : b.toNat < 64
  · rw [Nat.min_eq_left (by omega), shiftRight_word]
  · rw [Nat.min_eq_right (by omega), Nat.div_eq_of_lt]
    · apply BitVec.eq_of_toNat_eq; simp [word, Nat.shiftRight_eq_div_pow]; exact a.isLt
    · exact lt_of_lt_of_le a.isLt (Nat.pow_le_pow_right (by omega) (by omega))

theorem shiftArith_eq (a b : Word) : shiftArith a b = BitVec.ofInt 64 (a.toInt / 2 ^ b.toNat) := by
  unfold shiftArith
  rw [sshiftRight_ofInt]
  by_cases h : b.toNat < 63
  · rw [Nat.min_eq_left (by omega)]
  · rw [Nat.min_eq_right (by omega)]
    have h1 := BitVec.toInt_lt (x := a); have h2 := BitVec.le_toInt (x := a)
    have e : (2 : Int) ^ b.toNat ≥ 2 ^ 63 := by exact_mod_cast Nat.pow_le_pow_right (by omega) (by omega : 63 ≤ b.toNat)
    congr 1
    generalize (2 : Int) ^ b.toNat = P at *
    by_cases hn : a.toInt < 0
    · rw [Int.ediv_eq_neg_one_of_neg_of_le hn (by simp at *; omega), Int.ediv_eq_neg_one_of_neg_of_le hn (by simp at *; omega)]
    · rw [Int.ediv_eq_zero_of_lt (by omega) (by simp at *; omega), Int.ediv_eq_zero_of_lt (by omega) (by simp at *; omega)]

theorem flagWord_eq (b : Bool) : flagWord b = if b = true then 1 else 0 := rfl

theorem countOnes_eq (n x : Nat) : countOnes n x = ((List.range n).map x.testBit).count true := by
  induction n generalizing x with
  | zero => rfl
  | succ n ih =>
    rw [countOnes, List.range_succ_eq_map, List.map_cons, List.map_map, List.count_cons, ih]
    have e : (x.testBit ∘ Nat.succ) = (x / 2).testBit := by funext i; simp [Nat.testBit_succ]
    rw [e]
    rcases Nat.mod_two_eq_zero_or_one x with h | h <;> simp [Nat.testBit_zero, h]; omega

theorem trailingZeros_eq (n x : Nat) : trailingZeros n x = (((List.range n).map x.testBit).takeWhile (fun b => !b)).length := by
  induction n generalizing x with
  | zero => rfl
  | succ n ih =>
    rw [trailingZeros, List.range_succ_eq_map, List.map_cons, List.map_map, List.takeWhile_cons, ih]
    have e : (x.testBit ∘ Nat.succ) = (x / 2).testBit := by funext i; simp [Nat.testBit_succ]
    rw [e]
    rcases Nat.mod_two_eq_zero_or_one x with h | h <;> simp [Nat.testBit_zero, h]; omega

/-- The bits of a number below 2^n from the top down to its highest one. -/
theorem leading_eq (n x : Nat) (h : x < 2 ^ n) :
    (((List.range n).map (fun i => x.testBit (n - 1 - i))).takeWhile (fun b => !b)).length = if x = 0 then n else n - 1 - Nat.log2 x := by
  induction n with
  | zero => simp at h; simp [h]
  | succ n ih =>
    rw [List.range_succ_eq_map, List.map_cons, List.map_map, List.takeWhile_cons]
    by_cases hx : x < 2 ^ n
    · have hb : x.testBit (n + 1 - 1 - 0) = false := Nat.testBit_lt_two_pow (by simpa using hx)
      have e : ((fun i => x.testBit (n + 1 - 1 - i)) ∘ Nat.succ) = fun i => x.testBit (n - 1 - i) := by
        funext i; simp; congr 1; omega
      rw [hb, e]; simp only [Bool.not_false, if_true, List.length_cons, ih hx]
      by_cases h0 : x = 0
      · simp [h0]
      · have := (Nat.log2_lt h0).2 hx
        simp [h0]; omega
    · have h0 : x ≠ 0 := by have := Nat.two_pow_pos n; omega
      have hl : Nat.log2 x = n := by
        apply le_antisymm
        · have := (Nat.log2_lt h0).2 h; omega
        · exact (Nat.le_log2 h0).2 (by omega)
      have hb : x.testBit n = true := by
        have e := Nat.testBit_two_pow_add_eq (x - 2 ^ n) n
        rw [show 2 ^ n + (x - 2 ^ n) = x by omega] at e
        rw [e, Nat.testBit_lt_two_pow]; rfl
        rw [Nat.pow_succ] at h; omega
      simp [hb, h0, hl]

end Sys2Proof.Machine
end

