-- ==== Sys2Proof/Laws/Trap.lean ====
section
/-!
SUPPORT. Taking a trap at the issuing thread, in the terms of `Claims.TrapEntry`, and the flags of an instruction that rounds.
-/

namespace Sys2Proof.Machine

open Claims

/-! ### Entry (R302) -/

/-- A trap taken at a state that differs from `s` in the issuing thread only; the flags it raises are set. -/
theorem takeTrap_entry {p : Footprint} {s t' : State} (h : MayTrap s) (htu' : t'.turn = s.turn) (ht' : ∀ x, t'.setTh x = s.setTh x)
    (hk' : Keeps p s.th t'.th) (hpc' : t'.th.pc = s.th.pc) (c : Cause) (v : Word) (k : BitVec 4) (fl : Flags := 0)
    (hf : fl = 0 ∨ p.flags = true) :
    TrapEntry p s (t'.takeTrap { cause := c, tval := v, kind := k, out := false, flags := fl }) c v k.toNat := by
  have key : ∃ t : State, t'.modTh (·.raised fl) = t ∧ t.turn = s.turn ∧ (∀ x, t.setTh x = s.setTh x) ∧ Keeps p s.th t.th
      ∧ t.th.pc = s.th.pc := by
    refine ⟨_, rfl, htu', fun x => by simp [State.modTh_eq, ht'], ?_, by simp [hpc']⟩
    rw [State.th_modTh]
    rcases hf with rfl | hf
    · exact hk'
    · exact hk'.trans (Keeps.raised hf)
  obtain ⟨t, hmod, htu, ht, hk, hpc⟩ := key
  have hst : t.th.thstat = s.th.thstat := by rw [hk.rest]
  have hrep : t.th.replay = none := by rw [hk.rest]; exact h.replay
  have hmode : t.th.mode = s.th.mode := by simp [Thread.mode, hst]
  have hcore : (t.core t.turn.rank).tvec = s.me.tvec := by
    have e := congrArg (fun u => (State.core u s.turn.rank).tvec) (ht t.th)
    simp only [State.setTh, htu, State.core_setThAt] at e
    rw [htu]; exact e
  have e : t'.takeTrap { cause := c, tval := v, kind := k, out := false, flags := fl } =
      s.setTh (t.th.enter s.me.tvec false false k c.code v s.th.pc 0) := by
    unfold State.takeTrap
    dsimp only
    rw [hmod, if_neg (by rw [htu]; exact h.slot), hrep]
    simp only [State.enterAt]
    show (if t.th.mode = 2 then _ else _) = _
    rw [if_neg (by rw [hmode]; exact h.mode)]
    show (if bit t.th.thstat 5 = true then _ else _) = _
    rw [if_neg (by rw [hst, h.intrap]; simp)]
    rw [hcore, hpc]
    exact ht _
  rw [e]
  constructor
  · exact Alone.setTh _ _
  · simp [Thread.enter]
  · simp only [State.th_setTh, Thread.enter, thstatEntered]
    repeat rw [field_withField_ne _ (by omega) (by omega)]
    rw [field_withField _ (by omega)]
    exact Nat.mod_eq_of_lt s.th.pc.sb.isLt
  · simp only [State.th_setTh, Thread.enter, tcauseWord]
    simp [ofBool]
    cases c <;> simp [Cause.code]
  · simp [Thread.enter]
  · simp only [State.th_setTh, Thread.enter, thstatEntered_pmode, hst]
  · simp only [State.th_setTh, Thread.enter, thstatEntered_pie, hst]
  · simp only [State.th_setTh, Thread.enter, thstatEntered_ie]
  · simp only [State.th_setTh, Thread.mode, Thread.enter, thstatEntered_mode]
  · simp only [State.th_setTh, Thread.enter, thstatEntered_intrap]
  · simp only [State.th_setTh, Thread.enter, thstatEntered, hst]
    constructor
    · repeat rw [field_withField_ne _ (by omega) (by omega)]
    · repeat rw [field_withField_ne _ (by omega) (by omega)]
  · simp [Thread.enter, handlerPc, Nat.mul_comm]
  · rw [State.th_setTh]
    exact { regs := hk.regs, tokens := hk.tokens, vregs := hk.vregs, masks := hk.masks, warn := hk.warn, fpctl := hk.fpctl,
            seed := hk.seed, dirty := hk.dirty, outst := hk.outst, stack := hk.stack, mon := fun e => ⟨(hk.mon e).1, rfl⟩, waits := rfl,
            rest := by simp only [Thread.enter]; rw [hk.rest] }

/-- A meaning that traps with the state as it was. -/
theorem trap_entry {s : State} (h : MayTrap s) {m : M Unit} {c : Cause} {v : Word} {k : BitVec 4}
    (hm : m s = .error (.trap { cause := c, tval := v, kind := k, out := false }) s) :
    ∃ t, run m s = .next t ∧ TrapEntry {} s t c v k.toNat :=
  ⟨_, run_trap hm h.outst, takeTrap_entry h rfl (fun _ => rfl) (Keeps.refl _ _) rfl c v k 0 (.inl rfl)⟩

/-! ### Flags (R58, R59) -/

/-- Bits 16 and up of FPCTL are not flags. -/
theorem raised_fpctl_bit (t : Thread) (fl : Flags) {i : Nat} (h : i < 8 ∨ 13 ≤ i) : bit (t.raised fl).fpctl i = bit t.fpctl i := by
  unfold Thread.raised; split
  · rfl
  · have e : bit (t.fpctl ||| word (fl % 32 * 256)) i = (bit t.fpctl i || (decide (i < 64) && (fl % 32 * 256).testBit i)) := by
      simp [bit, word, BitVec.getLsbD_or, BitVec.getLsbD_ofNat]
    show bit (t.fpctl ||| word (fl % 32 * 256)) i = _
    rw [e]
    by_cases hb : (fl % 32 * 256).testBit i = true
    · have := flag_place (Nat.mod_lt fl (by decide)) hb; omega
    · simp [hb]

theorem field_testBit {w : Nat} (x : BitVec w) (lo n i : Nat) : (field x lo n).testBit i = (decide (i < n) && bit x (lo + i)) := by
  simp only [field, Nat.testBit_mod_two_pow, Nat.testBit_div_two_pow, bit, BitVec.getLsbD, Nat.add_comm]

/-- The trap enables after flags have been raised. -/
@[simp] theorem raised_enables (t : Thread) (fl : Flags) : field (t.raised fl).fpctl 16 5 = field t.fpctl 16 5 := by
  apply Nat.eq_of_testBit_eq
  intro i
  rw [field_testBit, field_testBit, raised_fpctl_bit _ _ (by omega)]

theorem raised_flagged (t : Thread) (fl : Flags) : Flagged t (t.raised fl) fl := by
  intro i hi
  unfold Thread.raised; split
  · rename_i h; rw [h]; simp [nbit]
  · show bit (t.fpctl ||| word (fl % 32 * 256)) (8 + i) = _
    have e : bit (t.fpctl ||| word (fl % 32 * 256)) (8 + i) = (bit t.fpctl (8 + i) || (decide (8 + i < 64) && (fl % 32 * 256).testBit (8 + i))) := by
      simp [bit, word, BitVec.getLsbD_or, BitVec.getLsbD_ofNat]
    have k : ∀ n : Nat, (n % 32 * 256).testBit (8 + i) = n.testBit i := fun n => by
      rw [show n % 32 * 256 = 2 ^ 8 * (n % 2 ^ 5) by omega, Nat.testBit_two_pow_mul, Nat.testBit_mod_two_pow]
      simp [hi]
    rw [e, k]
    simp [nbit, show 8 + i < 64 by omega]

theorem not_traps_of_untrapped {t : Thread} {fl : Flags} (h : Untrapped t fl) : (t.raised fl).fpTraps fl = false := by
  unfold Untrapped at h
  simp [Thread.fpTraps, h]

theorem traps_of_not_untrapped {t : Thread} {fl : Flags} (h : ¬ Untrapped t fl) : (t.raised fl).fpTraps fl = true := by
  unfold Untrapped at h
  have : field t.fpctl 16 5 ≠ 0 := fun e => h (by rw [e]; simp)
  simp [Thread.fpTraps, h, this]

/-- The destination is written where no enabled flag was raised. -/
theorem fpWrite_ok {fl : Flags} {s : State} (w : Thread → Thread) (h : Untrapped s.th fl) :
    fpWrite fl w s = .ok () (s.setTh (w (s.th.raised fl))) := by
  simp [fpWrite, M.bind_apply, not_traps_of_untrapped h, State.modTh_eq]

/-- FPX; taking it sets the flags. -/
theorem fpWrite_trap {fl : Flags} {s : State} (w : Thread → Thread) (h : ¬ Untrapped s.th fl) :
    fpWrite fl w s = .error (.trap { cause := .fpx, tval := word fl, kind := 0, out := false, flags := fl }) s := by
  simp [fpWrite, M.bind_apply, traps_of_not_untrapped h]

/-- A long-latency instruction that rounds, where no enabled flag was raised. -/
theorem fpIssue_ok {t : Thread} {fl : Flags} (lk : Fin 16) (d : List Res) (w : Thread → Thread) (h : Untrapped t fl) :
    t.fpIssue lk d fl w = (w (t.raised fl)).issueOut lk d := by
  simp [Thread.fpIssue, not_traps_of_untrapped h]

theorem effMode_dyn (t : Thread) : t.effMode 7 false = (scalarMode t, decide (t.rm = 5)) := by
  unfold Thread.effMode scalarMode
  by_cases h : t.rm = 5 <;> simp [h]

@[simp] theorem fpctl_warnBit (t : Thread) (w : Warn) : (t.warnBit w).fpctl = t.fpctl := rfl

@[simp] theorem fpctl_warnIf (t : Thread) (w : Warn) (b : Bool) : (t.warnIf w b).fpctl = t.fpctl := by
  unfold Thread.warnIf; split <;> rfl

@[simp] theorem fpctl_lkIgnored (t : Thread) (lk : Fin 16) : (t.lkIgnored lk).fpctl = t.fpctl := by
  unfold Thread.lkIgnored; split <;> rfl

theorem warnIf_bit (t : Thread) (w : Warn) (h : w.bit < 64) : bit (t.warnIf w true).warn w.bit = true := by
  simp [Thread.warnIf, Thread.warnBit, Thread.touchC, bit_setBit, h]

end Sys2Proof.Machine
end

