-- ==== Sys2Proof/Laws/Access.lean ====
section
/-!
SUPPORT. Accesses of the issuing thread where the checks pass and nothing delays them: the place, the bytes delivered, the
bytes stored, and what stays.
-/

namespace Sys2Proof.Machine

open Claims

/-! ### Checks and places (R78, R94) -/

theorem align_of_dvd {ga : Ptr} {align : Nat} (h : ga.v.toNat % align = 0) : ¬ ga.v.toNat % align ≠ 0 := by simp [h]

/-- The checks before translation, where they pass. -/
theorem precheck_ok {s : State} {ga : Ptr} {n align : Nat} {k : BitVec 4} (hc : s.spaceCheck ga n = none) (h4 : ga.sb ≠ 0xF4)
    (ha : ga.v.toNat % align = 0) : precheck ga n align k s = .ok () s := by
  simp only [precheck, M.bind_apply, M.get_apply, hc]
  rw [if_neg (fun e => h4 e.1), if_neg (by simp [ha])]
  rfl

/-- An access to a local space whose checks pass. -/
theorem resolve_local {s : State} {ga : Ptr} {n align : Nat} {acc : Access} (hc : s.spaceCheck ga n = none) (h4 : ga.sb ≠ 0xF4)
    (hl : ¬ ga.sb.toNat < 0xF0) (ha : ga.v.toNat % align = 0) : resolve ga n align acc s = .ok (s.localPlace ga) s := by
  unfold resolve
  rw [M.bind_ok _ (precheck_ok hc h4 ha), if_neg hl]
  rfl

/-- An access whose checks pass: its place, and the state as it was. -/
theorem resolve_placed {s : State} {ga : Ptr} {n align : Nat} {acc : Access} {l : Loc} (h : Placed s ga n acc l)
    (ha : ga.v.toNat % align = 0) : resolve ga n align acc s = .ok l s := by
  rcases h with ⟨h1, h2, h3, h4⟩ | ⟨h1, h2, h3, h4⟩ | ⟨h1, h2, h3, h4⟩ | ⟨h1, h2, h3, h4, h5, h6⟩ | ⟨h1, h2, h3, h4⟩ |
    ⟨h1, h2, e, h3, h4, h5, h6, h7⟩
  · have hs : s.turn.slot.val ≠ 4 := fun e => h2 (Fin.ext e)
    rw [resolve_local (by simp [State.spaceCheck, State.gaCheck, State.viewer, h1, h3, hs]) (by simp [h1]) (by simp [h1]) ha]
    simp [State.localPlace, placeLocal, State.viewer, h1, h4, hs]
  · rw [resolve_local (by simp [State.spaceCheck, State.gaCheck, State.viewer, h1, h2, h3]) (by simp [h1]) (by simp [h1]) ha]
    simp [State.localPlace, placeLocal, State.viewer, h1, h2, h4]
  · have hs : s.turn.slot.val ≠ 4 := fun e => h2 (Fin.ext e)
    rw [resolve_local (by simp [State.spaceCheck, State.gaCheck, State.viewer, h1, h3, hs]) (by simp [h1]) (by simp [h1]) ha]
    simp [State.localPlace, placeLocal, State.viewer, h1, h4]
  · have hs : s.turn.slot.val ≠ 4 := fun e => h2 (Fin.ext e)
    simp only [show (2 : Nat) ^ 48 = 281474976710656 by rfl] at h3 h4 h5 h6
    have h4' : ¬ 3407872 < ga.v.toNat % 281474976710656 + n := by omega
    rw [resolve_local (by simp [State.spaceCheck, State.gaCheck, State.viewer, h1, h3, h4', h5, hs]) (by simp [h1]) (by simp [h1]) ha]
    simp [State.localPlace, placeLocal, h1, h6]
  · rw [resolve_local (by simp [State.spaceCheck, State.gaCheck, State.viewer, h1, h2, h3]) (by simp [h1]) (by simp [h1]) ha]
    simp [State.localPlace, placeLocal, State.viewer, h1, h4]
  · have hc : s.spaceCheck ga n = none := by
      unfold State.spaceCheck State.gaCheck
      split <;> rename_i hsb <;> first | (rw [hsb] at h1; omega) | skip
      rw [if_neg (by omega)]
    have h4b : ga.sb ≠ 244#8 := fun e => by rw [e] at h1; simp at h1
    have hd : (dirties acc && !bit e.leaf 58) = false := by
      cases hx : dirties acc with
      | false => rfl
      | true => simp [h5 hx]
    unfold resolve
    rw [M.bind_ok _ (precheck_ok hc h4b ha), if_pos (by omega)]
    have he : s.heldEntry s.turn.rank (decide (s.turn.slot = 4)) (vpnOf ga) (field s.me.asid 0 16) = some e := by
      unfold State.heldEntry
      by_cases hs : s.turn.slot = 4
      · rw [if_pos hs] at h3; simp only [hs, decide_true, if_true]; exact h3
      · rw [if_neg hs] at h3; simp only [hs, decide_false, Bool.false_eq_true, if_false]
        rw [show List.find? _ (s.core s.turn.rank).utlb = some e from h3]
    have hp : s.promote s.turn.rank (decide (s.turn.slot = 4)) e = s := by
      unfold State.promote
      by_cases hs : s.turn.slot = 4
      · simp [hs]
      · rw [if_neg hs] at h3
        have hc := List.mem_of_find?_eq_some h3
        rw [if_pos]
        simp only [hs, decide_false, Bool.false_or, List.contains_iff_mem]
        exact hc
    have hx : s.entryFor s.turn.rank (decide (s.turn.slot = 4)) (field s.me.asid 0 16) s.me.ptbase (vpnOf ga) = .ok (e, none) := by
      simp [State.entryFor, he]
    simp only [translate, M.bind_apply, M.get_apply, M.pure_apply, M.ite_apply, upd_apply, h2, hx, hp, h4, hd, ← h6, h7, Bool.not_true,
      Bool.false_eq_true, if_false]

/-! ### Performance (R89, R90, R96, R111) -/

section
variable {s : State} {l : Loc} {n : Nat}

@[simp] theorem State.sent_mem (s : State) (r : Nat) (d : Word) : (s.sent r d).mem = s.mem := rfl
@[simp] theorem State.received_mem (s : State) (r : Nat) (d : Word) : (s.received r d).mem = s.mem := rfl

@[simp] theorem State.th_sent (s : State) (r : Nat) (d : Word) : (s.sent r d).th = s.th := by
  unfold State.th State.sent State.thAt
  by_cases h : s.turn.rank = r
  · subst h; simp
  · simp [State.core_modCore_ne _ _ h]

@[simp] theorem State.th_received (s : State) (r : Nat) (d : Word) : (s.received r d).th = s.th := by
  unfold State.th State.received State.thAt
  by_cases h : s.turn.rank = r
  · subst h; simp
  · simp [State.core_modCore_ne _ _ h]

@[simp] theorem State.turn_sent (s : State) (r : Nat) (d : Word) : (s.sent r d).turn = s.turn := rfl
@[simp] theorem State.turn_received (s : State) (r : Nat) (d : Word) : (s.received r d).turn = s.turn := rfl

/-- What an access to a home leaves of the state: the messages that it counts are all it changes. -/
structure Visited (s t : State) (home : Nat) : Prop where
  th : t.th = s.th
  mem : t.mem = s.mem
  turn : t.turn = s.turn
  core : ∀ r, (t.core r).vault = (s.core r).vault ∧ (t.core r).badScratch = (s.core r).badScratch
    ∧ (t.core r).weakScratch = (s.core r).weakScratch ∧ (t.core r).mitten = (s.core r).mitten
    ∧ (t.core r).ranges = (s.core r).ranges ∧ (t.core r).redbuf = (s.core r).redbuf
  bands : t.bands = s.bands
  tiers : t.tiers = s.tiers
  checks : t.tierChecks = s.tierChecks
  own : home = s.turn.rank → t = s

theorem Visited.refl (s : State) (home : Nat) : Visited s s home :=
  { th := rfl, mem := rfl, turn := rfl, core := fun _ => ⟨rfl, rfl, rfl, rfl, rfl, rfl⟩, bands := rfl, tiers := rfl, checks := rfl,
    own := fun _ => rfl }

theorem Visited.pairing {t : State} {home : Nat} (h : Visited s t home) (r : Nat) : t.pairing r = s.pairing r := by
  simp [State.pairing, State.band, h.bands]

theorem Visited.fixedLoc {t : State} {home : Nat} (h : Visited s t home) (l : Loc) : t.fixedLoc l = s.fixedLoc l := by
  simp [State.fixedLoc, State.fixedAt, h.pairing, Core.fixedOffset, h.core]

theorem Visited.unreadable {t : State} {home : Nat} (h : Visited s t home) (l : Loc) (n : Nat) : t.unreadable l n = s.unreadable l n := by
  have h1 : t.zeroMapped l = s.zeroMapped l := by simp [State.zeroMapped, h.core]
  have h2 : t.fixedAt l.home l.off = s.fixedAt l.home l.off := by simp [State.fixedAt, h.pairing, Core.fixedOffset, h.core]
  have h3 : t.tierFails l.key n = s.tierFails l.key n := by
    have e : t.tierCheck = s.tierCheck := by funext b; simp only [State.tierCheck, h.mem]
    unfold State.tierFails; rw [e, h.checks]
  unfold State.unreadable
  rw [h1, h2, h3, h.tiers, (h.core _).1, (h.core _).2.1]

theorem Visited.freePairEntry {t : State} {home : Nat} (h : Visited s t home) (r o : Nat) : t.freePairEntry r o = s.freePairEntry r o := by
  simp [State.freePairEntry, h.pairing, h.core]

/-- A read delivers the same where the pair buffer and memory are the same. -/
theorem look_congr {s t : State} {l : Loc} {n : Nat} (hp : t.pairing l.home = s.pairing l.home)
    (hm : (t.core l.home).mitten = (s.core l.home).mitten) (h : t.mem = s.mem) : t.look l n = s.look l n := by
  have e : ∀ o k, t.pairBytes l.home o k = s.pairBytes l.home o k := fun o k => by
    induction k generalizing o with
    | zero => rfl
    | succ k ih =>
      have hf : t.freePairEntry l.home o = s.freePairEntry l.home o := by simp only [State.freePairEntry, hp, hm]
      simp only [State.pairBytes, hf, State.byteAt, h, ih]
  simp only [State.look, hp, e, State.peek, h]

theorem core_sent_fields (s : State) (q r : Nat) (d : Word) : ((s.sent q d).core r).vault = (s.core r).vault
    ∧ ((s.sent q d).core r).badScratch = (s.core r).badScratch ∧ ((s.sent q d).core r).weakScratch = (s.core r).weakScratch
    ∧ ((s.sent q d).core r).mitten = (s.core r).mitten ∧ ((s.sent q d).core r).ranges = (s.core r).ranges
    ∧ ((s.sent q d).core r).redbuf = (s.core r).redbuf := by
  unfold State.sent
  by_cases h : r = q
  · subst h; simp
  · simp [State.core_modCore_ne _ _ h]

theorem core_received_fields (s : State) (q r : Nat) (d : Word) : ((s.received q d).core r).vault = (s.core r).vault
    ∧ ((s.received q d).core r).badScratch = (s.core r).badScratch ∧ ((s.received q d).core r).weakScratch = (s.core r).weakScratch
    ∧ ((s.received q d).core r).mitten = (s.core r).mitten ∧ ((s.received q d).core r).ranges = (s.core r).ranges
    ∧ ((s.received q d).core r).redbuf = (s.core r).redbuf := by
  unfold State.received
  by_cases h : r = q
  · subst h; simp
  · simp [State.core_modCore_ne _ _ h]

theorem mem_insert_cores {α : Type} {m : List (Nat × α)} {k : Nat} {v : α} {p : Nat × α} (h : p ∈ insert m k v) : p ∈ m ∨ p = (k, v) := by
  induction m with
  | nil => simp [insert] at h; exact .inr h
  | cons c t ih =>
    obtain ⟨j, w⟩ := c
    simp only [insert] at h
    split at h
    · simp at h; rcases h with h | h | h <;> simp [h]
    · split at h
      · simp at h; rcases h with h | h <;> simp [h]
      · simp at h; rcases h with h | h
        · simp [h]
        · rcases ih h with h | h <;> simp [h]

theorem mem_of_lookup {α : Type} {m : List (Nat × α)} {k : Nat} {v : α} (h : lookup m k = some v) : (k, v) ∈ m := by
  induction m with
  | nil => simp [lookup] at h
  | cons c t ih =>
    obtain ⟨j, w⟩ := c
    simp only [lookup] at h
    split at h
    · rename_i e; simp at h; simp [e, h]
    · simp [ih h]

/-- Whether some core buffers a reduction that a test accepts, after a change of a core that keeps its buffer. -/
theorem redbuf_modCore (s : State) (r : Nat) (f : Core → Core) (hf : (f (s.core r)).redbuf = (s.core r).redbuf)
    {P : RedEntry → Prop} (h : ∀ p ∈ s.cores, ∀ e ∈ p.2.redbuf, P e) : ∀ p ∈ (s.modCore r f).cores, ∀ e ∈ p.2.redbuf, P e := by
  intro p hp e he
  rcases mem_insert_cores hp with hp | hp
  · exact h p hp e he
  · subst hp
    simp only [hf] at he
    unfold State.core at he
    cases hl : lookup s.cores r with
    | none => simp [hl, Core.reset] at he
    | some c => simp [hl] at he; exact h _ (mem_of_lookup hl) e he

theorem recall_none (s : State) (l : Loc) (n : Nat)
    (h : ∀ p ∈ s.cores, ∀ e ∈ p.2.redbuf, e.loc.granule < l.key / 64 ∨ (l.key + n - 1) / 64 < e.loc.granule) : s.recall l n = s := by
  unfold State.recall
  dsimp only
  rw [List.filter_eq_nil_iff.2]
  · rfl
  · intro p hp hany
    simp only [List.any_eq_true, Bool.and_eq_true, decide_eq_true_eq] at hany
    obtain ⟨e, he, h1, h2⟩ := hany
    rcases h p hp e he with h | h <;> omega

theorem core_served_fields (s : State) (w : Turn) (q r : Nat) : ((s.served w q).core r).vault = (s.core r).vault
    ∧ ((s.served w q).core r).badScratch = (s.core r).badScratch ∧ ((s.served w q).core r).weakScratch = (s.core r).weakScratch
    ∧ ((s.served w q).core r).mitten = (s.core r).mitten ∧ ((s.served w q).core r).ranges = (s.core r).ranges
    ∧ ((s.served w q).core r).redbuf = (s.core r).redbuf := by
  unfold State.served
  by_cases h : r = q
  · subst h; simp
  · simp [State.core_modCore_ne _ _ h]

@[simp] theorem State.th_served (s : State) (w : Turn) (r : Nat) : (s.served w r).th = s.th := by
  unfold State.th State.served State.thAt
  by_cases h : s.turn.rank = r
  · subst h; simp
  · simp [State.core_modCore_ne _ _ h]

/-- A read waits for no more than a write does (R342). -/
theorem meets_read {s : State} {a : Bool} {l : Loc} (h : s.meets a l = .nothing) (r : Bool) : s.meets a l r = .nothing := by
  cases r with
  | false => exact h
  | true =>
    unfold State.meets at h ⊢
    split at h
    · exact absurd h (by decide)
    · rename_i hp
      rw [if_neg hp]
      by_cases hz : (true && s.zeroMapped l) = true
      · rw [if_pos hz]
      · rw [if_neg hz]
        rw [if_neg (by simp)] at h
        exact h

/-- An access that nothing delays is admitted. -/
theorem admitPiece_quiet (h : Quiet s l n) (ga : Ptr) (k : BitVec 4) (r : Bool) : admitPiece ga l k r s = .ok () s := by
  have hb : s.heldBefore s.turn l = false := by simp [State.heldBefore, h.held]
  by_cases hr : l.home = s.turn.rank
  · have hm := meets_read h.meets r
    simp only [hr, decide_true, Bool.and_true] at hm
    simp only [admitPiece, M.bind_apply, M.get_apply, M.ite_apply, M.pure_apply, h.still, hb, hr, ne_eq, not_true_eq_false, decide_false,
      Bool.false_and, Bool.false_eq_true, if_false, Bool.not_false, Bool.and_true, hm]
  · obtain ⟨h1, h2, h3⟩ := h.remote hr
    have hm := meets_read h.meets r
    simp only [hr, decide_false, Bool.and_false] at hm
    simp only [admitPiece, M.bind_apply, M.get_apply, M.ite_apply, M.pure_apply, h.still, hb, hr, h1, h2, h3, ne_eq, not_false_eq_true, decide_true,
      Bool.not_true, Bool.and_false, Bool.false_eq_true, if_false, hm]

/-- What an access that has arrived leaves (R111: nothing is recalled). -/
theorem arrived_quiet (h : Quiet s l n) : Visited s (s.arrived l n) l.home := by
  unfold State.arrived
  by_cases hr : l.home = s.turn.rank
  · simp only [hr, ne_eq, not_true_eq_false, if_false, h.held, if_true]
    rw [recall_none _ _ _ h.reds]
    exact Visited.refl _ _
  · simp only [ne_eq, hr, not_false_eq_true, if_true]
    have hh : ((s.roundTrip l.home).served s.turn l.home).heldOrder = [] := h.held
    rw [if_pos hh]
    have hred : ∀ p ∈ ((s.roundTrip l.home).served s.turn l.home).cores, ∀ e ∈ p.2.redbuf,
        e.loc.granule < l.key / 64 ∨ (l.key + n - 1) / 64 < e.loc.granule := by
      unfold State.served State.roundTrip State.received State.sent
      exact redbuf_modCore _ _ _ (by rfl) (redbuf_modCore _ _ _ (by rfl) (redbuf_modCore _ _ _ (by rfl) (redbuf_modCore _ _ _ (by rfl)
        (redbuf_modCore _ _ _ (by rfl) h.reds))))
    rw [recall_none _ _ _ hred]
    refine { th := by simp [State.roundTrip], mem := rfl, turn := rfl, core := fun r => ?_, bands := rfl, tiers := rfl, checks := rfl,
             own := fun e => absurd e hr }
    simp [State.roundTrip, core_served_fields, core_sent_fields, core_received_fields]

/-- An access that nothing delays is performed at once. -/
theorem arrive_quiet (h : Quiet s l n) (ga : Ptr) (k : BitVec 4) (r : Bool) : arrive ga l n k r s = .ok () (s.arrived l n) := by
  unfold arrive
  rw [M.bind_ok _ (admitPiece_quiet h ga k r)]
  rfl

/-! ### Reads -/

@[simp] theorem State.th_corrected (s : State) (l : Loc) (n : Nat) : (s.corrected l n).th = s.th := by
  have key : ∀ (r : Nat) (f : Core → Core), (∀ c, (f c).threads = c.threads) → (s.modCore r f).th = s.th := by
    intro r f hf
    unfold State.th State.thAt
    by_cases h : s.turn.rank = r
    · subst h; simp [hf]
    · simp [State.core_modCore_ne _ _ h]
  unfold State.corrected
  split
  · dsimp only; split
    · rfl
    · exact key _ _ (fun _ => rfl)
  · dsimp only; split
    · rfl
    · exact key _ _ (fun _ => rfl)
  · rfl

@[simp] theorem State.mem_corrected (s : State) (l : Loc) (n : Nat) : (s.corrected l n).mem = s.mem := by
  unfold State.corrected
  split
  · dsimp only; split <;> rfl
  · dsimp only; split <;> rfl
  · rfl

@[simp] theorem State.turn_corrected (s : State) (l : Loc) (n : Nat) : (s.corrected l n).turn = s.turn := by
  unfold State.corrected
  split
  · dsimp only; split <;> rfl
  · dsimp only; split <;> rfl
  · rfl

theorem State.corrected_none (s : State) (l : Loc) (n : Nat) (h1 : (s.core l.home).vault.weakGranules = [])
    (h2 : (s.core l.home).weakScratch = []) : s.corrected l n = s := by
  unfold State.corrected
  split <;> simp [h1, h2]

theorem pairBuffer_corrected (s : State) (l : Loc) (n r : Nat) : (s.corrected l n).pairing r = s.pairing r
    ∧ ((s.corrected l n).core r).mitten = (s.core r).mitten := by
  have key : ∀ (q : Nat) (f : Core → Core), (∀ c, (f c).mitten = c.mitten) → (s.modCore q f).pairing r = s.pairing r
      ∧ ((s.modCore q f).core r).mitten = (s.core r).mitten := by
    intro q f hf
    refine ⟨rfl, ?_⟩
    by_cases h : r = q
    · subst h; simp [hf]
    · simp [State.core_modCore_ne _ _ h]
  unfold State.corrected
  split
  · dsimp only; split
    · exact ⟨rfl, rfl⟩
    · exact key _ _ (fun _ => rfl)
  · dsimp only; split
    · exact ⟨rfl, rfl⟩
    · exact key _ _ (fun _ => rfl)
  · exact ⟨rfl, rfl⟩

theorem injects_unarmed {t : Thread} (h : bit t.errinj 31 = false) (k : Nat) : t.injects k = (false, t) := by
  simp [Thread.injects, h]

theorem injected_unarmed {s : State} (h : bit s.th.errinj 31 = false) (k : Nat) : injected k s = .ok false (s.setTh s.th) := by
  simp only [injected, M.bind_apply, thread_apply, injects_unarmed h, updTh_apply, State.modTh_eq, M.pure_apply]

theorem visited_setTh {t : State} {home : Nat} (h : Visited s t home) : Visited (s.setTh s.th) (t.setTh t.th) home := by
  have hv : ∀ (u : State) (r : Nat), ((u.setTh u.th).core r).vault = (u.core r).vault ∧ ((u.setTh u.th).core r).badScratch = (u.core r).badScratch
      ∧ ((u.setTh u.th).core r).weakScratch = (u.core r).weakScratch ∧ ((u.setTh u.th).core r).mitten = (u.core r).mitten
      ∧ ((u.setTh u.th).core r).ranges = (u.core r).ranges ∧ ((u.setTh u.th).core r).redbuf = (u.core r).redbuf := by
    intro u r
    unfold State.setTh
    by_cases e : r = u.turn.rank
    · subst e; simp [State.core_setThAt]
    · simp [State.core_setThAt_ne _ _ e]
  refine { th := by simp [h.th], mem := h.mem, turn := h.turn, core := fun r => ?_, bands := h.bands, tiers := h.tiers, checks := h.checks,
           own := fun e => by rw [h.own e] }
  obtain ⟨a1, a2, a3, a4, a5, a6⟩ := hv t r
  obtain ⟨b1, b2, b3, b4, b5, b6⟩ := hv s r
  obtain ⟨c1, c2, c3, c4, c5, c6⟩ := h.core r
  exact ⟨by rw [a1, b1, c1], by rw [a2, b2, c2], by rw [a3, b3, c3], by rw [a4, b4, c4], by rw [a5, b5, c5], by rw [a6, b6, c6]⟩

/-- A read delivers the bytes of its place after the access has arrived. -/
theorem look_visited {t : State} {home : Nat} (h : Visited s t home) (hf : s.look l n = s.peek l n) :
    (t.corrected l n).look l n = s.peek l n := by
  obtain ⟨h1, h2⟩ := pairBuffer_corrected t l n l.home
  rw [← hf]
  exact look_congr (by rw [h1, h.pairing]) (by rw [h2]; exact (h.core _).2.2.2.1) (by simp [h.mem])

/-- A read that nothing delays delivers the bytes of its place and changes no byte. -/
theorem readNow_quiet (h : Quiet s l n) (ga : Ptr) (k : BitVec 4) : ∃ t, readNow ga l n k s = .ok (s.peek l n) t
    ∧ t.th = s.th ∧ t.mem = s.mem ∧ t.turn = s.turn
    ∧ (l.home = s.turn.rank → (s.core l.home).vault.weakGranules = [] → (s.core l.home).weakScratch = [] →
        ∀ x, t.setTh x = s.setTh x) := by
  have hv := arrived_quiet h
  generalize ht : s.arrived l n = t at hv
  have he : bit t.th.errinj 31 = false := by rw [hv.th]; exact h.uninjected
  by_cases ho : (decide (l.region = .vault) && decide (l.home = t.turn.rank)) = true
  · have hhome : l.home = s.turn.rank := by
      simp only [Bool.and_eq_true, decide_eq_true_eq, hv.turn] at ho; exact ho.2
    have e := hv.own hhome
    subst e
    have hw : Visited t (t.setTh t.th) (t.turn.rank + 1) :=
      { th := by simp, mem := rfl, turn := rfl, bands := rfl, tiers := rfl, checks := rfl, own := fun e => by omega
        core := fun r => by
          unfold State.setTh
          by_cases e : r = t.turn.rank
          · subst e; simp [State.core_setThAt]
          · simp [State.core_setThAt_ne _ _ e] }
    have hu : (t.setTh t.th).unreadable l n = false := by rw [hw.unreadable]; exact h.readable
    refine ⟨(t.setTh t.th).corrected l n, ?_, by simp, by simp, by simp, fun _ w1 w2 x => ?_⟩
    · have he2 : bit (t.setTh t.th).th.errinj 31 = false := by simpa using he
      simp only [readNow, M.bind_apply, M.ite_apply, M.get_apply, M.pure_apply, upd_apply, ht, ho, if_true, injected_unarmed he,
        injected_unarmed he2, State.th_setTh, State.setTh_setTh, hu, Bool.or_false, Bool.false_eq_true, if_false,
        look_visited hw h.matched]
    · rw [State.corrected_none _ _ _ (by rw [(hw.core _).1]; exact w1) (by rw [(hw.core _).2.2.1]; exact w2)]
      simp
  · have hu : t.unreadable l n = false := by rw [hv.unreadable]; exact h.readable
    refine ⟨t.corrected l n, ?_, by simp [hv.th], by simp [hv.mem], by simp [hv.turn], fun hh w1 w2 x => ?_⟩
    · simp only [readNow, M.bind_apply, M.ite_apply, M.get_apply, M.pure_apply, upd_apply, ht, ho, hu, Bool.or_false, Bool.false_eq_true,
        if_false, look_visited hv h.matched]
    · have e := hv.own hh
      subst e
      rw [State.corrected_none _ _ _ w1 w2]

/-- The same for a read that is admitted first. -/
theorem readAt_quiet (h : Quiet s l n) (ga : Ptr) (k : BitVec 4) : ∃ t, readAt ga l n k s = .ok (s.peek l n) t
    ∧ t.th = s.th ∧ t.mem = s.mem ∧ t.turn = s.turn
    ∧ (l.home = s.turn.rank → (s.core l.home).vault.weakGranules = [] → (s.core l.home).weakScratch = [] →
        ∀ x, t.setTh x = s.setTh x) := by
  unfold readAt
  rw [M.bind_ok _ (admitPiece_quiet h ga k true)]
  exact readNow_quiet h ga k

/-! ### Writes -/

theorem lookup_map {α : Type} (m : List (Nat × α)) (f : α → α) (k : Nat) :
    lookup (m.map (fun p => (p.1, f p.2))) k = (lookup m k).map f := by
  induction m with
  | nil => rfl
  | cons c t ih =>
    obtain ⟨j, w⟩ := c
    simp only [List.map_cons, lookup]
    split
    · simp
    · exact ih

/-- A thread whose armed monitor may have been met: what it waits for has been seen or not (R275, R276). -/
def Woken (a b : Thread) : Prop := ∃ h w, b = { a with monHit := h, monWait := w } ∧ w.map unseen = a.monWait.map unseen

theorem Woken.refl (a : Thread) : Woken a a := ⟨a.monHit, a.monWait, rfl, rfl⟩

theorem unseen_compare (w : MonWait) (d v : Word) : unseen (w.compare d v) = unseen w := by
  unfold MonWait.compare; split <;> rfl

theorem woken_meet (lo hi : Nat) (f : Loc → Word) (t : Thread) : Woken t (t.meet lo hi f) := by
  unfold Thread.meet
  split
  · split
    · refine ⟨true, _, rfl, ?_⟩
      cases t.monWait with
      | none => rfl
      | some w => simp [unseen_compare]
    · exact Woken.refl t
  · exact Woken.refl t

theorem Keeps.woken {p : Footprint} {a b : Thread} (h : p.mon = true) (k : Woken a b) : Keeps p a b := by
  obtain ⟨x, w, rfl, hw⟩ := k
  exact Keeps.met h hw

/-- A wake changes no more of a core than what monitors of its threads have met. -/
theorem core_wake (s : State) (l : Loc) (n : Nat) (r : Nat) : ∃ g : Thread → Thread, (∀ t, Woken t (g t))
    ∧ (s.wake l n).core r = { s.core r with threads := (s.core r).threads.map g } := by
  have self : ∃ g : Thread → Thread, (∀ t, Woken t (g t)) ∧ s.core r = { s.core r with threads := (s.core r).threads.map g } :=
    ⟨id, fun t => Woken.refl t, by simp⟩
  unfold State.wake
  dsimp only
  split
  · cases h : lookup s.cores r with
    | none =>
      obtain ⟨g, h1, h2⟩ := self
      refine ⟨g, h1, ?_⟩
      rw [← h2]
      show (lookup (s.cores.map (fun p => (p.1, Core.meet _ _ _ p.2))) r).getD .reset = (lookup s.cores r).getD .reset
      rw [lookup_map, h]; rfl
    | some c =>
      refine ⟨Thread.meet (l.key / 64) ((l.key + n - 1) / 64) s.wordAt, fun t => woken_meet _ _ _ t, ?_⟩
      show (lookup (s.cores.map (fun p => (p.1, Core.meet _ _ _ p.2))) r).getD .reset = _
      rw [lookup_map, State.core, h]; rfl
  · exact self

theorem thAt_wake (s : State) (l : Loc) (n : Nat) (w : Turn) : Woken (s.thAt w) ((s.wake l n).thAt w) := by
  obtain ⟨g, h1, h2⟩ := core_wake s l n w.rank
  unfold State.thAt
  rw [h2]
  simp only [Fin.getElem_fin, Vector.getElem_map]
  exact h1 _

@[simp] theorem State.wake_mem (s : State) (l : Loc) (n : Nat) : (s.wake l n).mem = s.mem := by
  unfold State.wake; dsimp only; split <;> rfl

@[simp] theorem State.wake_turn (s : State) (l : Loc) (n : Nat) : (s.wake l n).turn = s.turn := by
  unfold State.wake; dsimp only; split <;> rfl

theorem th_modCore (s : State) (r : Nat) (f : Core → Core) (hf : ∀ c, (f c).threads = c.threads) : (s.modCore r f).th = s.th := by
  unfold State.th State.thAt
  by_cases h : s.turn.rank = r
  · subst h; simp [hf]
  · simp [State.core_modCore_ne _ _ h]

/-- What follows the bytes of a store leaves memory and the issuing thread. -/
theorem noteResolve_frame (s : State) (home off n v : Nat) : (s.noteResolve home off n v).mem = s.mem
    ∧ (s.noteResolve home off n v).turn = s.turn ∧ (s.noteResolve home off n v).th = s.th := by
  unfold State.noteResolve
  split
  · exact ⟨rfl, rfl, rfl⟩
  · split <;> exact ⟨rfl, rfl, rfl⟩

theorem th_poke (s : State) (l : Loc) (n v : Nat) : (s.poke l n v).th = s.th := rfl

/-- A store on no checkpoint domain's behalf to a frame that is not zero-mapped: its bytes change and no others. -/
theorem store_plain (s : State) (b : Behalf) (l : Loc) (n v : Nat) (hb : b.dom = none)
    (hz : l.region = .vault → (s.core l.home).vault.zero.find? (fun z => decide (z.1 = l.off / 0x10000)) = none) :
    (s.store b l n v).mem = Memory.writeN s.mem l.key n v ∧ (s.store b l n v).turn = s.turn ∧ Woken s.th (s.store b l n v).th := by
  have fin : ∀ u : State, u.th = s.th → u.turn = s.turn → u.mem = Memory.writeN s.mem l.key n v →
      (u.wake l n).mem = Memory.writeN s.mem l.key n v ∧ (u.wake l n).turn = s.turn ∧ Woken s.th (u.wake l n).th := by
    intro u h1 h2 h3
    refine ⟨by simp [h3], by simp [h2], ?_⟩
    have e := thAt_wake u l n u.turn
    rw [show u.thAt u.turn = s.th from h1] at e
    simpa [State.th] using e
  unfold State.store
  cases hr : l.region with
  | vault =>
    have hj : s.journal b l.home (rowOf l.off) = s := by simp [State.journal, hb]
    have hu : s.unzero l.home (l.off / 0x10000) = s := by simp [State.unzero, hz hr]
    simp only [hj, hu]
    obtain ⟨h1, h2, h3⟩ := noteResolve_frame ((s.modCore l.home fun c => { c with vault := c.vault.noteWrite l.off n }).poke l n v) l.home l.off n v
    exact fin _ (h3.trans ((th_poke _ _ _ _).trans (th_modCore _ _ _ (fun _ => rfl)))) h2 h1
  | scratch => exact fin _ ((th_poke _ _ _ _).trans (th_modCore _ _ _ (fun _ => rfl))) rfl rfl
  | agentData => exact fin _ rfl rfl rfl
  | agentCode => exact fin _ rfl rfl rfl
  | control => exact fin _ rfl rfl rfl
  | tier2 p => exact fin _ rfl rfl rfl
  | host p => exact fin _ rfl rfl rfl

/-- A write that nothing delays passes the checks at its home. -/
theorem admitWrite_quiet (h : Quiet s l n) (hw : PlainWrite s l n) (ga : Ptr) (k : BitVec 4) : admitWrite ga l n k s = .ok () s := by
  simp only [admitWrite, M.bind_apply, M.get_apply, M.ite_apply, M.pure_apply, hw.unread, Bool.false_eq_true, if_false,
    admitPiece_quiet h ga k false, hw.free]

/-- A write that nothing delays stores its bytes and no others. -/
theorem writeAt_quiet (h : Quiet s l n) (hw : PlainWrite s l n) (hc : l.region ≠ .control) (ga : Ptr) (v : Nat) (k : BitVec 4) :
    ∃ t, writeAt ga l n v k s = .ok () t
    ∧ t.mem = Memory.writeN s.mem l.key n v ∧ t.turn = s.turn ∧ t.th.pc = s.th.pc
    ∧ Keeps { stack := true, mon := true } s.th t.th := by
  have hv := arrived_quiet h
  have htab : l.builtIn = false := by
    by_cases hr : l.region = .agentData
    · rcases hw.table hr with e | e
      · simp [Loc.builtIn, show ¬ 63488 ≤ l.off by omega]
      · simp [Loc.builtIn, show ¬ l.off < 63744 by omega]
    · simp [Loc.builtIn, hr]
  unfold writeAt
  rw [M.bind_ok _ (admitWrite_quiet h hw ga k)]
  generalize ht : s.arrived l n = t at hv
  have hz : l.region = .vault → (t.core l.home).vault.zero.find? (fun z => decide (z.1 = l.off / 0x10000)) = none := fun e => by
    rw [(hv.core _).1]; exact hw.mapped e
  obtain ⟨h1, h2, h3⟩ := store_plain t t.behalf l n v (by simp [State.behalf, hv.th, hw.plain]) hz
  have hx : writeNow ga l n v s = .ok () ((t.store t.behalf l n v).modTh (·.markStack ga)) := by
    simp only [writeNow, M.bind_apply, upd_apply, updTh_apply, ht, State.write, hc, if_false, htab, Bool.false_eq_true]
  refine ⟨_, hx, by simp [h1, hv.mem], by simp [h2, hv.turn], ?_, ?_⟩ <;> rw [hv.th] at h3
  · obtain ⟨a, b, h3, -⟩ := h3
    simp only [State.th_modTh, h3]
    unfold Thread.markStack; split <;> rfl
  · rw [State.th_modTh]
    exact (Keeps.woken rfl h3).trans (Keeps.markStack rfl)

theorem placed_notControl {ga : Ptr} {acc : Access} (h : Placed s ga n acc l) : l.region ≠ .control := by
  rcases h with ⟨_, _, _, h⟩ | ⟨_, _, _, h⟩ | ⟨_, _, _, h⟩ | ⟨_, _, _, _, _, h⟩ | ⟨_, _, _, h⟩ | ⟨_, _, e, _, _, _, h, _⟩ <;> subst h
  all_goals first
    | (simp [scratchLoc, vaultLoc]; done)
    | (unfold placeOf; dsimp only; split <;> simp [vaultLoc])

/-- A load whose checks pass. -/
theorem loadData_quiet {ga : Ptr} {align : Nat} {acc : Access} (hp : Placed s ga n acc l) (ha : ga.v.toNat % align = 0) (h : Quiet s l n) :
    ∃ t, loadData ga n align acc s = .ok (s.peek l n) t ∧ t.th = s.th ∧ t.mem = s.mem ∧ t.turn = s.turn
    ∧ (l.home = s.turn.rank → (s.core l.home).vault.weakGranules = [] → (s.core l.home).weakScratch = [] →
        ∀ x, t.setTh x = s.setTh x) := by
  obtain ⟨t, h1, h2⟩ := readAt_quiet h ga (BitVec.ofNat 4 (accessKind acc))
  refine ⟨t, ?_, h2⟩
  have hc := placed_notControl hp
  unfold loadData
  rw [M.bind_ok _ (resolve_placed hp ha)]
  cases hr : l.region with
  | control => exact absurd hr hc
  | vault => exact h1
  | scratch => exact h1
  | agentData => exact h1
  | agentCode => exact h1
  | tier2 p => exact h1
  | host p => exact h1

/-- A store whose checks pass. -/
theorem storeData_quiet {ga : Ptr} {align v : Nat} {acc : Access} (hp : Placed s ga n acc l) (ha : ga.v.toNat % align = 0) (h : Quiet s l n)
    (hw : PlainWrite s l n) : ∃ t, storeData ga n align v acc s = .ok () t
    ∧ t.mem = Memory.writeN s.mem l.key n v ∧ t.turn = s.turn ∧ t.th.pc = s.th.pc
    ∧ Keeps { stack := true, mon := true } s.th t.th := by
  obtain ⟨t, h1, h2⟩ := writeAt_quiet h hw (placed_notControl hp) ga v (BitVec.ofNat 4 (accessKind acc))
  refine ⟨t, ?_, h2⟩
  have hc := placed_notControl hp
  unfold storeData
  rw [M.bind_ok _ (resolve_placed hp ha)]
  cases hr : l.region with
  | control => exact absurd hr hc
  | vault => exact h1
  | scratch => exact h1
  | agentData => exact h1
  | agentCode => exact h1
  | tier2 p => exact h1
  | host p => exact h1

end

end Sys2Proof.Machine
end

