-- ==== Sys2Proof/Laws/Encoding.lean ====
section
/-!
SUPPORT. What a word holds: the fields of a format back from the bits that they give, format by format, and the decoder's arm
for each major opcode.
-/

namespace Sys2Proof

/-! ### The formats of R155: major opcode, minor value, fields, and the bits that a format check reads -/

theorem FmtI.at_word (f : FmtI) (m : Nat) (hm : m < 64) :
    ∀ w, w = m + f.bits → w % 64 = m
      ∧ FmtI.ofNat w = f
      ∧ w < 2 ^ 32 := by
  rintro _ rfl
  obtain ⟨imm, ⟨a, ha⟩, ⟨d, hd⟩⟩ := f
  have himm := imm.isLt
  simp only [FmtI.bits, FmtI.ofNat, Fin.ofNat, FmtI.mk.injEq, Fin.mk.injEq, ← BitVec.toNat_inj, BitVec.toNat_ofNat]
  omega

theorem FmtU.at_word (f : FmtU) (m : Nat) (hm : m < 64) :
    ∀ w, w = m + f.bits → w % 64 = m
      ∧ FmtU.ofNat w = f
      ∧ w < 2 ^ 32 := by
  rintro _ rfl
  obtain ⟨imm, ⟨d, hd⟩⟩ := f
  have himm := imm.isLt
  simp only [FmtU.bits, FmtU.ofNat, Fin.ofNat, FmtU.mk.injEq, Fin.mk.injEq, ← BitVec.toNat_inj, BitVec.toNat_ofNat]
  omega

theorem FmtSh.at_word (f : FmtSh) (m : Nat) (hm : m < 64) :
    ∀ w, w = m + f.bits → w % 64 = m
      ∧ FmtSh.ofNat w = f
      ∧ w / 0x400000 = 0
      ∧ w < 2 ^ 32 := by
  rintro _ rfl
  obtain ⟨⟨sh, hsh⟩, ⟨a, ha⟩, ⟨d, hd⟩⟩ := f
  simp only [FmtSh.bits, FmtSh.ofNat, Fin.ofNat, FmtSh.mk.injEq, Fin.mk.injEq]
  omega

theorem FmtB.at_word (f : FmtB) (m : Nat) (hm : m < 64) :
    ∀ w, w = m + f.bits → w % 64 = m
      ∧ FmtB.ofNat w = f
      ∧ w < 2 ^ 32 := by
  rintro _ rfl
  obtain ⟨off, ⟨b, hb⟩, ⟨a, ha⟩⟩ := f
  have hoff := off.isLt
  simp only [FmtB.bits, FmtB.ofNat, Fin.ofNat, FmtB.mk.injEq, Fin.mk.injEq, ← BitVec.toNat_inj, BitVec.toNat_ofNat]
  omega

theorem FmtJ.at_word (f : FmtJ) (m : Nat) (hm : m < 64) :
    ∀ w, w = m + f.bits → w % 64 = m
      ∧ FmtJ.ofNat w = f
      ∧ w < 2 ^ 32 := by
  rintro _ rfl
  obtain ⟨off, ⟨d, hd⟩⟩ := f
  have hoff := off.isLt
  simp only [FmtJ.bits, FmtJ.ofNat, Fin.ofNat, FmtJ.mk.injEq, Fin.mk.injEq, ← BitVec.toNat_inj, BitVec.toNat_ofNat]
  omega

theorem FmtM.at_word (f : FmtM) (m : Nat) (hm : m < 64) :
    ∀ w, w = m + f.bits → w % 64 = m
      ∧ FmtM.ofNat w = f
      ∧ w / 0x10000 % 8 = f.size.val
      ∧ w < 2 ^ 32 := by
  rintro _ rfl
  obtain ⟨off, sx, ⟨size, hsize⟩, ⟨a, ha⟩, ⟨d, hd⟩⟩ := f
  have hoff := off.isLt
  cases sx <;> simp only [FmtM.bits, FmtM.ofNat, Fin.ofNat, FmtM.mk.injEq, Fin.mk.injEq, ← BitVec.toNat_inj, BitVec.toNat_ofNat, Bool.false_eq_true, reduceIte, decide_eq_true_eq, decide_eq_false_iff_not] <;> omega

theorem FmtC.at_word (f : FmtC) (m : Nat) (hm : m < 64) :
    ∀ w, w = m + f.bits → w % 64 = m
      ∧ FmtC.ofNat w = f
      ∧ w / 0x10000000 = 0
      ∧ w < 2 ^ 32 := by
  rintro _ rfl
  obtain ⟨num, ⟨a, ha⟩, ⟨d, hd⟩⟩ := f
  have hnum := num.isLt
  simp only [FmtC.bits, FmtC.ofNat, Fin.ofNat, FmtC.mk.injEq, Fin.mk.injEq, ← BitVec.toNat_inj, BitVec.toNat_ofNat]
  omega

theorem FmtVcvt.at_word (f : FmtVcvt) (m : Nat) (hm : m < 64) :
    ∀ w, w = m + f.bits → w % 64 = m
      ∧ FmtVcvt.ofNat w = f
      ∧ w < 2 ^ 32 := by
  rintro _ rfl
  obtain ⟨⟨md, hmd⟩, ⟨msk, hmsk⟩, ⟨rm, hrm⟩, ⟨et, het⟩, sat, ⟨det, hdet⟩, ⟨va, hva⟩, ⟨vd, hvd⟩⟩ := f
  cases sat <;> simp only [FmtVcvt.bits, FmtVcvt.ofNat, Fin.ofNat, FmtVcvt.mk.injEq, Fin.mk.injEq, Bool.false_eq_true, reduceIte, decide_eq_true_eq, decide_eq_false_iff_not] <;> omega

theorem FmtA.at_word (f : FmtA) (m o : Nat) (hm : m < 64) (ho : o < 128) :
    ∀ w, w = m + 0x200000 * o + f.bits → w % 64 = m
      ∧ w / 0x200000 % 128 = o
      ∧ FmtA.ofNat w = f
      ∧ w < 2 ^ 32 := by
  rintro _ rfl
  obtain ⟨⟨lk, hlk⟩, ⟨b, hb⟩, ⟨a, ha⟩, ⟨d, hd⟩⟩ := f
  simp only [FmtA.bits, FmtA.ofNat, Fin.ofNat, FmtA.mk.injEq, Fin.mk.injEq]
  omega

theorem FmtF.at_word (f : FmtF) (m o : Nat) (hm : m < 64) (ho : o < 32) :
    ∀ w, w = m + 0x200000 * o + f.bits → w % 64 = m
      ∧ w / 0x200000 % 32 = o
      ∧ FmtF.ofNat w = f
      ∧ w < 2 ^ 32 := by
  rintro _ rfl
  obtain ⟨⟨lk, hlk⟩, ⟨fmt, hfmt⟩, ⟨b, hb⟩, ⟨a, ha⟩, ⟨d, hd⟩⟩ := f
  simp only [FmtF.bits, FmtF.ofNat, Fin.ofNat, FmtF.mk.injEq, Fin.mk.injEq]
  omega

theorem FmtAm.at_word (f : FmtAm) (m o : Nat) (hm : m < 64) (ho : o < 16) :
    ∀ w, w = m + 0x200000 * o + f.bits → w % 64 = m
      ∧ w / 0x200000 % 16 = o
      ∧ FmtAm.ofNat w = f
      ∧ w / 0x2000000 % 4 = f.width.val
      ∧ w < 2 ^ 32 := by
  rintro _ rfl
  obtain ⟨⟨lk, hlk⟩, ord, ⟨width, hwidth⟩, ⟨b, hb⟩, ⟨a, ha⟩, ⟨d, hd⟩⟩ := f
  cases ord <;> simp only [FmtAm.bits, FmtAm.ofNat, Fin.ofNat, FmtAm.mk.injEq, Fin.mk.injEq, Bool.false_eq_true, reduceIte, decide_eq_true_eq, decide_eq_false_iff_not] <;> omega

theorem FmtV.at_word (f : FmtV) (m o : Nat) (hm : m < 64) (ho : o < 8) :
    ∀ w, w = m + 0x2000000 * o + f.bits → w % 64 = m
      ∧ w / 0x2000000 % 8 = o
      ∧ FmtV.ofNat w = f
      ∧ w < 2 ^ 32 := by
  rintro _ rfl
  obtain ⟨⟨md, hmd⟩, ⟨msk, hmsk⟩, ⟨et, het⟩, ⟨vb, hvb⟩, ⟨va, hva⟩, ⟨vd, hvd⟩⟩ := f
  simp only [FmtV.bits, FmtV.ofNat, Fin.ofNat, FmtV.mk.injEq, Fin.mk.injEq]
  omega

theorem FmtVl.at_word (f : FmtVl) (m o : Nat) (hm : m < 64) (ho : o < 8) :
    ∀ w, w = m + 0x2000000 * o + f.bits → w % 64 = m
      ∧ w / 0x2000000 % 8 = o
      ∧ FmtVl.ofNat w = f
      ∧ w < 2 ^ 32 := by
  rintro _ rfl
  obtain ⟨⟨lk, hlk⟩, ⟨et, het⟩, ⟨vb, hvb⟩, ⟨va, hva⟩, ⟨vd, hvd⟩⟩ := f
  simp only [FmtVl.bits, FmtVl.ofNat, Fin.ofNat, FmtVl.mk.injEq, Fin.mk.injEq]
  omega

theorem FmtNet.at_word (f : FmtNet) (m o : Nat) (hm : m < 64) (ho : o < 8) :
    ∀ w, w = m + 0x2000000 * o + f.bits → w % 64 = m
      ∧ w / 0x2000000 % 8 = o
      ∧ FmtNet.ofNat w = f
      ∧ w / 0x100000 % 2 = 0
      ∧ w < 2 ^ 32 := by
  rintro _ rfl
  obtain ⟨⟨lk, hlk⟩, ⟨et, het⟩, ⟨op, hop⟩, ⟨tree, htree⟩, ⟨va, hva⟩, ⟨vd, hvd⟩⟩ := f
  simp only [FmtNet.bits, FmtNet.ofNat, Fin.ofNat, FmtNet.mk.injEq, Fin.mk.injEq]
  omega

theorem FmtX.at_word (f : FmtX) (m o : Nat) (hm : m < 64) (ho : o < 8) :
    ∀ w, w = m + 0x200000 * o + f.bits → w % 64 = m
      ∧ w / 0x200000 % 8 = o
      ∧ FmtX.ofNat w = f
      ∧ w / 0x40 % 32 = f.x.val
      ∧ w / 0x800 % 32 = f.y.val
      ∧ w / 0x10000 % 32 = f.z.val
      ∧ w / 0x1000000 % 2 = f.fl.val % 2
      ∧ w / 0x1000000 % 4 = f.fl.val % 4
      ∧ w < 2 ^ 32 := by
  rintro _ rfl
  obtain ⟨⟨lk, hlk⟩, ⟨fl, hfl⟩, ⟨z, hz⟩, ⟨y, hy⟩, ⟨x, hx⟩⟩ := f
  simp only [FmtX.bits, FmtX.ofNat, Fin.ofNat, FmtX.mk.injEq, Fin.mk.injEq]
  omega

theorem FmtT.at_word (f : FmtT) (m o : Nat) (hm : m < 64) (ho : o < 8) :
    ∀ w, w = m + 0x200000 * o + f.bits → w % 64 = m
      ∧ w / 0x200000 % 8 = o
      ∧ FmtT.ofNat w = f
      ∧ w / 0x40 % 32 = f.q.val
      ∧ w < 2 ^ 32 := by
  rintro _ rfl
  obtain ⟨⟨lk, hlk⟩, ⟨cnt, hcnt⟩, ⟨t, ht⟩, ⟨a, ha⟩, ⟨q, hq⟩⟩ := f
  simp only [FmtT.bits, FmtT.ofNat, Fin.ofNat, FmtT.mk.injEq, Fin.mk.injEq]
  omega

theorem FmtRpc.at_word (f : FmtRpc) (m o : Nat) (hm : m < 64) (ho : o < 8) :
    ∀ w, w = m + 0x800000 * o + f.bits → w % 64 = m
      ∧ w / 0x800000 % 8 = o
      ∧ FmtRpc.ofNat w = f
      ∧ w / 0x4000000 % 4 = 0
      ∧ w / 0x10000 % 128 = 0
      ∧ w < 2 ^ 32 := by
  rintro _ rfl
  obtain ⟨⟨lk, hlk⟩, ⟨a, ha⟩, ⟨t, ht⟩⟩ := f
  simp only [FmtRpc.bits, FmtRpc.ofNat, Fin.ofNat, FmtRpc.mk.injEq, Fin.mk.injEq]
  omega

theorem FmtE.at_word (f : FmtE) (m o : Nat) (hm : m < 64) (ho : o < 8) :
    ∀ w, w = m + 0x800000 * o + f.bits → w % 64 = m
      ∧ w / 0x800000 % 8 = o
      ∧ FmtE.ofNat w = f
      ∧ w / 0x4000000 % 4 = 0
      ∧ w / 0x10000 % 128 = f.engine.val
      ∧ w < 2 ^ 32 := by
  rintro _ rfl
  obtain ⟨⟨lk, hlk⟩, ⟨engine, hengine⟩, ⟨a, ha⟩, ⟨t, ht⟩⟩ := f
  simp only [FmtE.bits, FmtE.ofNat, Fin.ofNat, FmtE.mk.injEq, Fin.mk.injEq]
  omega

theorem FmtS.at_word (f : FmtS) (m o : Nat) (hm : m < 64) (ho : o < 8) :
    ∀ w, w = m + 0x80000 * o + f.bits → w % 64 = m
      ∧ w / 0x80000 % 8 = o
      ∧ FmtS.ofNat w = f
      ∧ w / 0x2000000 = 0
      ∧ w < 2 ^ 32 := by
  rintro _ rfl
  obtain ⟨⟨scope, hscope⟩, ⟨tag, htag⟩, ⟨a, ha⟩, ⟨d, hd⟩⟩ := f
  simp only [FmtS.bits, FmtS.ofNat, Fin.ofNat, FmtS.mk.injEq, Fin.mk.injEq]
  omega

theorem FmtP.at_word (f : FmtP) (m o : Nat) (hm : m < 64) (ho : o < 8) :
    ∀ w, w = m + 0x80000 * o + f.bits → w % 64 = m
      ∧ w / 0x80000 % 8 = o
      ∧ FmtP.ofNat w = f
      ∧ w < 2 ^ 32 := by
  rintro _ rfl
  obtain ⟨imm, ⟨port, hport⟩, ⟨reg, hreg⟩⟩ := f
  have himm := imm.isLt
  simp only [FmtP.bits, FmtP.ofNat, Fin.ofNat, FmtP.mk.injEq, Fin.mk.injEq, ← BitVec.toNat_inj, BitVec.toNat_ofNat]
  omega

theorem FmtTrap.at_trap (f : FmtTrap)  :
    ∀ w, w = 0x1F + f.bits → w % 64 = 31
      ∧ w / 0x200000 % 128 = 0
      ∧ w / 0x40 % 32 = 0
      ∧ FmtTrap.ofNat w = f
      ∧ w < 2 ^ 32 := by
  rintro _ rfl
  obtain ⟨⟨lk, hlk⟩, n⟩ := f
  have hn := n.isLt
  simp only [FmtTrap.bits, FmtTrap.ofNat, Fin.ofNat, FmtTrap.mk.injEq, Fin.mk.injEq, ← BitVec.toNat_inj, BitVec.toNat_ofNat]
  omega

theorem FmtTrap.at_trapBrk (f : FmtTrap)  :
    ∀ w, w = 0x5F + f.bits → w % 64 = 31
      ∧ w / 0x200000 % 128 = 0
      ∧ w / 0x40 % 32 = 1
      ∧ FmtTrap.ofNat w = f
      ∧ w < 2 ^ 32 := by
  rintro _ rfl
  obtain ⟨⟨lk, hlk⟩, n⟩ := f
  have hn := n.isLt
  simp only [FmtTrap.bits, FmtTrap.ofNat, Fin.ofNat, FmtTrap.mk.injEq, Fin.mk.injEq, ← BitVec.toNat_inj, BitVec.toNat_ofNat]
  omega

theorem FmtPark.at_park (f : FmtPark)  :
    ∀ w, w = 0xA0001F + f.bits → w % 64 = 31
      ∧ w / 0x200000 % 128 = 5
      ∧ w / 0x10000 % 32 = 0
      ∧ FmtPark.ofNat w = f
      ∧ w < 2 ^ 32 := by
  rintro _ rfl
  obtain ⟨⟨lk, hlk⟩, ⟨a, ha⟩, ⟨d, hd⟩⟩ := f
  simp only [FmtPark.bits, FmtPark.ofNat, Fin.ofNat, FmtPark.mk.injEq, Fin.mk.injEq]
  omega

theorem FmtPark.at_parkMig (f : FmtPark)  :
    ∀ w, w = 0xA1001F + f.bits → w % 64 = 31
      ∧ w / 0x200000 % 128 = 5
      ∧ w / 0x10000 % 32 = 1
      ∧ FmtPark.ofNat w = f
      ∧ w < 2 ^ 32 := by
  rintro _ rfl
  obtain ⟨⟨lk, hlk⟩, ⟨a, ha⟩, ⟨d, hd⟩⟩ := f
  simp only [FmtPark.bits, FmtPark.ofNat, Fin.ofNat, FmtPark.mk.injEq, Fin.mk.injEq]
  omega

/-! ### The major opcodes of R157 -/

theorem decode_major_1 {w : Nat} (h : w % 64 = 1) :
    decodeNat w = (decodeAlu w) := by
  unfold decodeNat
  rw [h]
  rfl

theorem decode_major_2 {w : Nat} (h : w % 64 = 2) :
    decodeNat w = (.ok (.addi (.ofNat w))) := by
  unfold decodeNat
  rw [h]
  rfl

theorem decode_major_3 {w : Nat} (h : w % 64 = 3) :
    decodeNat w = (.ok (.andi (.ofNat w))) := by
  unfold decodeNat
  rw [h]
  rfl

theorem decode_major_4 {w : Nat} (h : w % 64 = 4) :
    decodeNat w = (.ok (.ori (.ofNat w))) := by
  unfold decodeNat
  rw [h]
  rfl

theorem decode_major_5 {w : Nat} (h : w % 64 = 5) :
    decodeNat w = (.ok (.xori (.ofNat w))) := by
  unfold decodeNat
  rw [h]
  rfl

theorem decode_major_6 {w : Nat} (h : w % 64 = 6) :
    decodeNat w = (.ok (.slti (.ofNat w))) := by
  unfold decodeNat
  rw [h]
  rfl

theorem decode_major_7 {w : Nat} (h : w % 64 = 7) :
    decodeNat w = (.ok (.sltiu (.ofNat w))) := by
  unfold decodeNat
  rw [h]
  rfl

theorem decode_major_8 {w : Nat} (h : w % 64 = 8) :
    decodeNat w = (.ok (.lui (.ofNat w))) := by
  unfold decodeNat
  rw [h]
  rfl

theorem decode_major_9 {w : Nat} (h : w % 64 = 9) :
    decodeNat w = (.ok (.lsi (.ofNat w))) := by
  unfold decodeNat
  rw [h]
  rfl

theorem decode_major_10 {w : Nat} (h : w % 64 = 10) :
    decodeNat w = (if w / 0x400000 = 0 then .ok (.slli (.ofNat w)) else .error .formatCheck) := by
  unfold decodeNat
  rw [h]
  rfl

theorem decode_major_11 {w : Nat} (h : w % 64 = 11) :
    decodeNat w = (if w / 0x400000 = 0 then .ok (.srli (.ofNat w)) else .error .formatCheck) := by
  unfold decodeNat
  rw [h]
  rfl

theorem decode_major_12 {w : Nat} (h : w % 64 = 12) :
    decodeNat w = (if w / 0x400000 = 0 then .ok (.srai (.ofNat w)) else .error .formatCheck) := by
  unfold decodeNat
  rw [h]
  rfl

theorem decode_major_13 {w : Nat} (h : w % 64 = 13) :
    decodeNat w = (decodePtr w) := by
  unfold decodeNat
  rw [h]
  rfl

theorem decode_major_14 {w : Nat} (h : w % 64 = 14) :
    decodeNat w = (.ok (.paddi (.ofNat w))) := by
  unfold decodeNat
  rw [h]
  rfl

theorem decode_major_15 {w : Nat} (h : w % 64 = 15) :
    decodeNat w = (decodeFpu w) := by
  unfold decodeNat
  rw [h]
  rfl

theorem decode_major_16 {w : Nat} (h : w % 64 = 16) :
    decodeNat w = (if w / 0x10000 % 8 ≤ 4 then .ok (.ld (.ofNat w)) else .error .formatCheck) := by
  unfold decodeNat
  rw [h]
  rfl

theorem decode_major_17 {w : Nat} (h : w % 64 = 17) :
    decodeNat w = (if w / 0x10000 % 8 ≤ 4 then .ok (.st (.ofNat w)) else .error .formatCheck) := by
  unfold decodeNat
  rw [h]
  rfl

theorem decode_major_18 {w : Nat} (h : w % 64 = 18) :
    decodeNat w = (if w / 0x2000000 % 4 ≤ 1 then decodeAmo w else .error .formatCheck) := by
  unfold decodeNat
  rw [h]
  rfl

theorem decode_major_19 {w : Nat} (h : w % 64 = 19) :
    decodeNat w = (if w / 0x2000000 % 4 ≤ 1 then decodeRed w else .error .formatCheck) := by
  unfold decodeNat
  rw [h]
  rfl

theorem decode_major_20 {w : Nat} (h : w % 64 = 20) :
    decodeNat w = (.ok (.beq (.ofNat w))) := by
  unfold decodeNat
  rw [h]
  rfl

theorem decode_major_21 {w : Nat} (h : w % 64 = 21) :
    decodeNat w = (.ok (.bne (.ofNat w))) := by
  unfold decodeNat
  rw [h]
  rfl

theorem decode_major_22 {w : Nat} (h : w % 64 = 22) :
    decodeNat w = (.ok (.blt (.ofNat w))) := by
  unfold decodeNat
  rw [h]
  rfl

theorem decode_major_23 {w : Nat} (h : w % 64 = 23) :
    decodeNat w = (.ok (.bge (.ofNat w))) := by
  unfold decodeNat
  rw [h]
  rfl

theorem decode_major_24 {w : Nat} (h : w % 64 = 24) :
    decodeNat w = (.ok (.bltu (.ofNat w))) := by
  unfold decodeNat
  rw [h]
  rfl

theorem decode_major_25 {w : Nat} (h : w % 64 = 25) :
    decodeNat w = (.ok (.bgeu (.ofNat w))) := by
  unfold decodeNat
  rw [h]
  rfl

theorem decode_major_26 {w : Nat} (h : w % 64 = 26) :
    decodeNat w = (.ok (.jal (.ofNat w))) := by
  unfold decodeNat
  rw [h]
  rfl

theorem decode_major_27 {w : Nat} (h : w % 64 = 27) :
    decodeNat w = (.ok (.jalr (.ofNat w))) := by
  unfold decodeNat
  rw [h]
  rfl

theorem decode_major_28 {w : Nat} (h : w % 64 = 28) :
    decodeNat w = (if w / 0x10000000 = 0 then .ok (.crrd (.ofNat w)) else .error .formatCheck) := by
  unfold decodeNat
  rw [h]
  rfl

theorem decode_major_29 {w : Nat} (h : w % 64 = 29) :
    decodeNat w = (if w / 0x10000000 = 0 then .ok (.crwr (.ofNat w)) else .error .formatCheck) := by
  unfold decodeNat
  rw [h]
  rfl

theorem decode_major_30 {w : Nat} (h : w % 64 = 30) :
    decodeNat w = (if w / 0x10000000 = 0 then .ok (.crxch (.ofNat w)) else .error .formatCheck) := by
  unfold decodeNat
  rw [h]
  rfl

theorem decode_major_31 {w : Nat} (h : w % 64 = 31) :
    decodeNat w = (decodeSys w) := by
  unfold decodeNat
  rw [h]
  rfl

theorem decode_major_32 {w : Nat} (h : w % 64 = 32) :
    decodeNat w = (decodeVbasic w) := by
  unfold decodeNat
  rw [h]
  rfl

theorem decode_major_33 {w : Nat} (h : w % 64 = 33) :
    decodeNat w = (decodeVmac w) := by
  unfold decodeNat
  rw [h]
  rfl

theorem decode_major_34 {w : Nat} (h : w % 64 = 34) :
    decodeNat w = (decodeVbit w) := by
  unfold decodeNat
  rw [h]
  rfl

theorem decode_major_35 {w : Nat} (h : w % 64 = 35) :
    decodeNat w = (decodeVcmp w) := by
  unfold decodeNat
  rw [h]
  rfl

theorem decode_major_36 {w : Nat} (h : w % 64 = 36) :
    decodeNat w = (decodeVmask w) := by
  unfold decodeNat
  rw [h]
  rfl

theorem decode_major_37 {w : Nat} (h : w % 64 = 37) :
    decodeNat w = (.ok (.vcvt (.ofNat w))) := by
  unfold decodeNat
  rw [h]
  rfl

theorem decode_major_38 {w : Nat} (h : w % 64 = 38) :
    decodeNat w = (decodeVquant w) := by
  unfold decodeNat
  rw [h]
  rfl

theorem decode_major_39 {w : Nat} (h : w % 64 = 39) :
    decodeNat w = (decodeVsfn w) := by
  unfold decodeNat
  rw [h]
  rfl

theorem decode_major_40 {w : Nat} (h : w % 64 = 40) :
    decodeNat w = (decodeVperm w) := by
  unfold decodeNat
  rw [h]
  rfl

theorem decode_major_41 {w : Nat} (h : w % 64 = 41) :
    decodeNat w = (decodeVred w) := by
  unfold decodeNat
  rw [h]
  rfl

theorem decode_major_42 {w : Nat} (h : w % 64 = 42) :
    decodeNat w = (decodeVnet w) := by
  unfold decodeNat
  rw [h]
  rfl

theorem decode_major_43 {w : Nat} (h : w % 64 = 43) :
    decodeNat w = (decodeVld w) := by
  unfold decodeNat
  rw [h]
  rfl

theorem decode_major_44 {w : Nat} (h : w % 64 = 44) :
    decodeNat w = (decodeVst w) := by
  unfold decodeNat
  rw [h]
  rfl

theorem decode_major_45 {w : Nat} (h : w % 64 = 45) :
    decodeNat w = (decodeVmov w) := by
  unfold decodeNat
  rw [h]
  rfl

theorem decode_major_48 {w : Nat} (h : w % 64 = 48) :
    decodeNat w = (decodeTensor w) := by
  unfold decodeNat
  rw [h]
  rfl

theorem decode_major_49 {w : Nat} (h : w % 64 = 49) :
    decodeNat w = (decodeStationary w) := by
  unfold decodeNat
  rw [h]
  rfl

theorem decode_major_50 {w : Nat} (h : w % 64 = 50) :
    decodeNat w = (decodeMatrix w) := by
  unfold decodeNat
  rw [h]
  rfl

theorem decode_major_51 {w : Nat} (h : w % 64 = 51) :
    decodeNat w = (decodeAccumulator w) := by
  unfold decodeNat
  rw [h]
  rfl

theorem decode_major_52 {w : Nat} (h : w % 64 = 52) :
    decodeNat w = (decodeQueue w) := by
  unfold decodeNat
  rw [h]
  rfl

theorem decode_major_53 {w : Nat} (h : w % 64 = 53) :
    decodeNat w = (decodeBand w) := by
  unfold decodeNat
  rw [h]
  rfl

theorem decode_major_54 {w : Nat} (h : w % 64 = 54) :
    decodeNat w = (decodePair w) := by
  unfold decodeNat
  rw [h]
  rfl

theorem decode_major_56 {w : Nat} (h : w % 64 = 56) :
    decodeNat w = (if w / 0x40 % 32 < 8 then decodeTile w else .error .formatCheck) := by
  unfold decodeNat
  rw [h]
  rfl

theorem decode_major_57 {w : Nat} (h : w % 64 = 57) :
    decodeNat w = (if w / 0x4000000 % 4 = 0 ∧ w / 0x10000 % 128 = 0 then decodeRpc w else .error .formatCheck) := by
  unfold decodeNat
  rw [h]
  rfl

theorem decode_major_58 {w : Nat} (h : w % 64 = 58) :
    decodeNat w = (if w / 0x4000000 % 4 = 0 ∧ (w / 0x10000 % 128 < 96 ∨ w / 0x10000 % 128 = 127) then decodeEngine w else .error .formatCheck) := by
  unfold decodeNat
  rw [h]
  rfl

theorem decode_major_59 {w : Nat} (h : w % 64 = 59) :
    decodeNat w = (if w / 0x2000000 = 0 then decodeSync w else .error .formatCheck) := by
  unfold decodeNat
  rw [h]
  rfl

theorem decode_major_60 {w : Nat} (h : w % 64 = 60) :
    decodeNat w = (if w / 0x2000000 = 0 then decodeMonitor w else .error .formatCheck) := by
  unfold decodeNat
  rw [h]
  rfl

theorem decode_major_61 {w : Nat} (h : w % 64 = 61) :
    decodeNat w = (decodeAgent w) := by
  unfold decodeNat
  rw [h]
  rfl

end Sys2Proof
end

