-- ==== Sys2Proof/Laws/PerInstr.lean ====
section
/-!
SUPPORT. Per instruction: the word of a well-formed instruction decodes to it. An event of the opcode table has no word.
-/

namespace Sys2Proof.Laws.Encoding

/-- The word of an instruction has 32 bits, and the decoder reads the instruction back with every operand (R154-R157). -/
def Statement (i : Instr) : Prop :=
  hasWord i = true → WellFormed i = true → decodeNat (encodeNat i) = .ok i ∧ encodeNat i < 2 ^ 32

theorem add (f : FmtA) : Statement (.add f) := by
  intro _ hw
  show decodeNat (1 + f.bits) = _ ∧ 1 + f.bits < _
  obtain ⟨h1, h2, h3, h4⟩ := f.at_word 1 0 (by decide) (by decide) (1 + f.bits) rfl
  refine ⟨?_, h4⟩
  rw [decode_major_1 h1]
  delta decodeAlu
  rw [h2]
  exact congrArg (fun x => Except.ok (Instr.add x)) h3

theorem sub (f : FmtA) : Statement (.sub f) := by
  intro _ hw
  show decodeNat (0x200001 + f.bits) = _ ∧ 0x200001 + f.bits < _
  obtain ⟨h1, h2, h3, h4⟩ := f.at_word 1 1 (by decide) (by decide) (0x200001 + f.bits) rfl
  refine ⟨?_, h4⟩
  rw [decode_major_1 h1]
  delta decodeAlu
  rw [h2]
  exact congrArg (fun x => Except.ok (Instr.sub x)) h3

theorem and (f : FmtA) : Statement (.and f) := by
  intro _ hw
  show decodeNat (0x400001 + f.bits) = _ ∧ 0x400001 + f.bits < _
  obtain ⟨h1, h2, h3, h4⟩ := f.at_word 1 2 (by decide) (by decide) (0x400001 + f.bits) rfl
  refine ⟨?_, h4⟩
  rw [decode_major_1 h1]
  delta decodeAlu
  rw [h2]
  exact congrArg (fun x => Except.ok (Instr.and x)) h3

theorem or (f : FmtA) : Statement (.or f) := by
  intro _ hw
  show decodeNat (0x600001 + f.bits) = _ ∧ 0x600001 + f.bits < _
  obtain ⟨h1, h2, h3, h4⟩ := f.at_word 1 3 (by decide) (by decide) (0x600001 + f.bits) rfl
  refine ⟨?_, h4⟩
  rw [decode_major_1 h1]
  delta decodeAlu
  rw [h2]
  exact congrArg (fun x => Except.ok (Instr.or x)) h3

theorem xor (f : FmtA) : Statement (.xor f) := by
  intro _ hw
  show decodeNat (0x800001 + f.bits) = _ ∧ 0x800001 + f.bits < _
  obtain ⟨h1, h2, h3, h4⟩ := f.at_word 1 4 (by decide) (by decide) (0x800001 + f.bits) rfl
  refine ⟨?_, h4⟩
  rw [decode_major_1 h1]
  delta decodeAlu
  rw [h2]
  exact congrArg (fun x => Except.ok (Instr.xor x)) h3

theorem sll (f : FmtA) : Statement (.sll f) := by
  intro _ hw
  show decodeNat (0xA00001 + f.bits) = _ ∧ 0xA00001 + f.bits < _
  obtain ⟨h1, h2, h3, h4⟩ := f.at_word 1 5 (by decide) (by decide) (0xA00001 + f.bits) rfl
  refine ⟨?_, h4⟩
  rw [decode_major_1 h1]
  delta decodeAlu
  rw [h2]
  exact congrArg (fun x => Except.ok (Instr.sll x)) h3

theorem srl (f : FmtA) : Statement (.srl f) := by
  intro _ hw
  show decodeNat (0xC00001 + f.bits) = _ ∧ 0xC00001 + f.bits < _
  obtain ⟨h1, h2, h3, h4⟩ := f.at_word 1 6 (by decide) (by decide) (0xC00001 + f.bits) rfl
  refine ⟨?_, h4⟩
  rw [decode_major_1 h1]
  delta decodeAlu
  rw [h2]
  exact congrArg (fun x => Except.ok (Instr.srl x)) h3

theorem sra (f : FmtA) : Statement (.sra f) := by
  intro _ hw
  show decodeNat (0xE00001 + f.bits) = _ ∧ 0xE00001 + f.bits < _
  obtain ⟨h1, h2, h3, h4⟩ := f.at_word 1 7 (by decide) (by decide) (0xE00001 + f.bits) rfl
  refine ⟨?_, h4⟩
  rw [decode_major_1 h1]
  delta decodeAlu
  rw [h2]
  exact congrArg (fun x => Except.ok (Instr.sra x)) h3

theorem slt (f : FmtA) : Statement (.slt f) := by
  intro _ hw
  show decodeNat (0x1000001 + f.bits) = _ ∧ 0x1000001 + f.bits < _
  obtain ⟨h1, h2, h3, h4⟩ := f.at_word 1 8 (by decide) (by decide) (0x1000001 + f.bits) rfl
  refine ⟨?_, h4⟩
  rw [decode_major_1 h1]
  delta decodeAlu
  rw [h2]
  exact congrArg (fun x => Except.ok (Instr.slt x)) h3

theorem sltu (f : FmtA) : Statement (.sltu f) := by
  intro _ hw
  show decodeNat (0x1200001 + f.bits) = _ ∧ 0x1200001 + f.bits < _
  obtain ⟨h1, h2, h3, h4⟩ := f.at_word 1 9 (by decide) (by decide) (0x1200001 + f.bits) rfl
  refine ⟨?_, h4⟩
  rw [decode_major_1 h1]
  delta decodeAlu
  rw [h2]
  exact congrArg (fun x => Except.ok (Instr.sltu x)) h3

theorem min (f : FmtA) : Statement (.min f) := by
  intro _ hw
  show decodeNat (0x1400001 + f.bits) = _ ∧ 0x1400001 + f.bits < _
  obtain ⟨h1, h2, h3, h4⟩ := f.at_word 1 10 (by decide) (by decide) (0x1400001 + f.bits) rfl
  refine ⟨?_, h4⟩
  rw [decode_major_1 h1]
  delta decodeAlu
  rw [h2]
  exact congrArg (fun x => Except.ok (Instr.min x)) h3

theorem max (f : FmtA) : Statement (.max f) := by
  intro _ hw
  show decodeNat (0x1600001 + f.bits) = _ ∧ 0x1600001 + f.bits < _
  obtain ⟨h1, h2, h3, h4⟩ := f.at_word 1 11 (by decide) (by decide) (0x1600001 + f.bits) rfl
  refine ⟨?_, h4⟩
  rw [decode_major_1 h1]
  delta decodeAlu
  rw [h2]
  exact congrArg (fun x => Except.ok (Instr.max x)) h3

theorem minu (f : FmtA) : Statement (.minu f) := by
  intro _ hw
  show decodeNat (0x1800001 + f.bits) = _ ∧ 0x1800001 + f.bits < _
  obtain ⟨h1, h2, h3, h4⟩ := f.at_word 1 12 (by decide) (by decide) (0x1800001 + f.bits) rfl
  refine ⟨?_, h4⟩
  rw [decode_major_1 h1]
  delta decodeAlu
  rw [h2]
  exact congrArg (fun x => Except.ok (Instr.minu x)) h3

theorem maxu (f : FmtA) : Statement (.maxu f) := by
  intro _ hw
  show decodeNat (0x1A00001 + f.bits) = _ ∧ 0x1A00001 + f.bits < _
  obtain ⟨h1, h2, h3, h4⟩ := f.at_word 1 13 (by decide) (by decide) (0x1A00001 + f.bits) rfl
  refine ⟨?_, h4⟩
  rw [decode_major_1 h1]
  delta decodeAlu
  rw [h2]
  exact congrArg (fun x => Except.ok (Instr.maxu x)) h3

theorem mul (f : FmtA) : Statement (.mul f) := by
  intro _ hw
  show decodeNat (0x1C00001 + f.bits) = _ ∧ 0x1C00001 + f.bits < _
  obtain ⟨h1, h2, h3, h4⟩ := f.at_word 1 14 (by decide) (by decide) (0x1C00001 + f.bits) rfl
  refine ⟨?_, h4⟩
  rw [decode_major_1 h1]
  delta decodeAlu
  rw [h2]
  exact congrArg (fun x => Except.ok (Instr.mul x)) h3

theorem mulh (f : FmtA) : Statement (.mulh f) := by
  intro _ hw
  show decodeNat (0x1E00001 + f.bits) = _ ∧ 0x1E00001 + f.bits < _
  obtain ⟨h1, h2, h3, h4⟩ := f.at_word 1 15 (by decide) (by decide) (0x1E00001 + f.bits) rfl
  refine ⟨?_, h4⟩
  rw [decode_major_1 h1]
  delta decodeAlu
  rw [h2]
  exact congrArg (fun x => Except.ok (Instr.mulh x)) h3

theorem mulhu (f : FmtA) : Statement (.mulhu f) := by
  intro _ hw
  show decodeNat (0x2000001 + f.bits) = _ ∧ 0x2000001 + f.bits < _
  obtain ⟨h1, h2, h3, h4⟩ := f.at_word 1 16 (by decide) (by decide) (0x2000001 + f.bits) rfl
  refine ⟨?_, h4⟩
  rw [decode_major_1 h1]
  delta decodeAlu
  rw [h2]
  exact congrArg (fun x => Except.ok (Instr.mulhu x)) h3

theorem div (f : FmtA) : Statement (.div f) := by
  intro _ hw
  show decodeNat (0x2200001 + f.bits) = _ ∧ 0x2200001 + f.bits < _
  obtain ⟨h1, h2, h3, h4⟩ := f.at_word 1 17 (by decide) (by decide) (0x2200001 + f.bits) rfl
  refine ⟨?_, h4⟩
  rw [decode_major_1 h1]
  delta decodeAlu
  rw [h2]
  exact congrArg (fun x => Except.ok (Instr.div x)) h3

theorem divu (f : FmtA) : Statement (.divu f) := by
  intro _ hw
  show decodeNat (0x2400001 + f.bits) = _ ∧ 0x2400001 + f.bits < _
  obtain ⟨h1, h2, h3, h4⟩ := f.at_word 1 18 (by decide) (by decide) (0x2400001 + f.bits) rfl
  refine ⟨?_, h4⟩
  rw [decode_major_1 h1]
  delta decodeAlu
  rw [h2]
  exact congrArg (fun x => Except.ok (Instr.divu x)) h3

theorem rem (f : FmtA) : Statement (.rem f) := by
  intro _ hw
  show decodeNat (0x2600001 + f.bits) = _ ∧ 0x2600001 + f.bits < _
  obtain ⟨h1, h2, h3, h4⟩ := f.at_word 1 19 (by decide) (by decide) (0x2600001 + f.bits) rfl
  refine ⟨?_, h4⟩
  rw [decode_major_1 h1]
  delta decodeAlu
  rw [h2]
  exact congrArg (fun x => Except.ok (Instr.rem x)) h3

theorem remu (f : FmtA) : Statement (.remu f) := by
  intro _ hw
  show decodeNat (0x2800001 + f.bits) = _ ∧ 0x2800001 + f.bits < _
  obtain ⟨h1, h2, h3, h4⟩ := f.at_word 1 20 (by decide) (by decide) (0x2800001 + f.bits) rfl
  refine ⟨?_, h4⟩
  rw [decode_major_1 h1]
  delta decodeAlu
  rw [h2]
  exact congrArg (fun x => Except.ok (Instr.remu x)) h3

theorem clz (f : FmtA) : Statement (.clz f) := by
  intro _ hw
  show decodeNat (0x2A00001 + f.bits) = _ ∧ 0x2A00001 + f.bits < _
  obtain ⟨h1, h2, h3, h4⟩ := f.at_word 1 21 (by decide) (by decide) (0x2A00001 + f.bits) rfl
  refine ⟨?_, h4⟩
  rw [decode_major_1 h1]
  delta decodeAlu
  rw [h2]
  exact congrArg (fun x => Except.ok (Instr.clz x)) h3

theorem ctz (f : FmtA) : Statement (.ctz f) := by
  intro _ hw
  show decodeNat (0x2C00001 + f.bits) = _ ∧ 0x2C00001 + f.bits < _
  obtain ⟨h1, h2, h3, h4⟩ := f.at_word 1 22 (by decide) (by decide) (0x2C00001 + f.bits) rfl
  refine ⟨?_, h4⟩
  rw [decode_major_1 h1]
  delta decodeAlu
  rw [h2]
  exact congrArg (fun x => Except.ok (Instr.ctz x)) h3

theorem popc (f : FmtA) : Statement (.popc f) := by
  intro _ hw
  show decodeNat (0x2E00001 + f.bits) = _ ∧ 0x2E00001 + f.bits < _
  obtain ⟨h1, h2, h3, h4⟩ := f.at_word 1 23 (by decide) (by decide) (0x2E00001 + f.bits) rfl
  refine ⟨?_, h4⟩
  rw [decode_major_1 h1]
  delta decodeAlu
  rw [h2]
  exact congrArg (fun x => Except.ok (Instr.popc x)) h3

theorem addi (f : FmtI) : Statement (.addi f) := by
  intro _ hw
  show decodeNat (2 + f.bits) = _ ∧ 2 + f.bits < _
  obtain ⟨h1, h2, h3⟩ := f.at_word 2 (by decide) (2 + f.bits) rfl
  refine ⟨?_, h3⟩
  rw [decode_major_2 h1]
  rw [h2]

theorem andi (f : FmtI) : Statement (.andi f) := by
  intro _ hw
  show decodeNat (3 + f.bits) = _ ∧ 3 + f.bits < _
  obtain ⟨h1, h2, h3⟩ := f.at_word 3 (by decide) (3 + f.bits) rfl
  refine ⟨?_, h3⟩
  rw [decode_major_3 h1]
  rw [h2]

theorem ori (f : FmtI) : Statement (.ori f) := by
  intro _ hw
  show decodeNat (4 + f.bits) = _ ∧ 4 + f.bits < _
  obtain ⟨h1, h2, h3⟩ := f.at_word 4 (by decide) (4 + f.bits) rfl
  refine ⟨?_, h3⟩
  rw [decode_major_4 h1]
  rw [h2]

theorem xori (f : FmtI) : Statement (.xori f) := by
  intro _ hw
  show decodeNat (5 + f.bits) = _ ∧ 5 + f.bits < _
  obtain ⟨h1, h2, h3⟩ := f.at_word 5 (by decide) (5 + f.bits) rfl
  refine ⟨?_, h3⟩
  rw [decode_major_5 h1]
  rw [h2]

theorem slti (f : FmtI) : Statement (.slti f) := by
  intro _ hw
  show decodeNat (6 + f.bits) = _ ∧ 6 + f.bits < _
  obtain ⟨h1, h2, h3⟩ := f.at_word 6 (by decide) (6 + f.bits) rfl
  refine ⟨?_, h3⟩
  rw [decode_major_6 h1]
  rw [h2]

theorem sltiu (f : FmtI) : Statement (.sltiu f) := by
  intro _ hw
  show decodeNat (7 + f.bits) = _ ∧ 7 + f.bits < _
  obtain ⟨h1, h2, h3⟩ := f.at_word 7 (by decide) (7 + f.bits) rfl
  refine ⟨?_, h3⟩
  rw [decode_major_7 h1]
  rw [h2]

theorem lui (f : FmtU) : Statement (.lui f) := by
  intro _ hw
  show decodeNat (8 + f.bits) = _ ∧ 8 + f.bits < _
  obtain ⟨h1, h2, h3⟩ := f.at_word 8 (by decide) (8 + f.bits) rfl
  refine ⟨?_, h3⟩
  rw [decode_major_8 h1]
  rw [h2]

theorem lsi (f : FmtU) : Statement (.lsi f) := by
  intro _ hw
  show decodeNat (9 + f.bits) = _ ∧ 9 + f.bits < _
  obtain ⟨h1, h2, h3⟩ := f.at_word 9 (by decide) (9 + f.bits) rfl
  refine ⟨?_, h3⟩
  rw [decode_major_9 h1]
  rw [h2]

theorem slli (f : FmtSh) : Statement (.slli f) := by
  intro _ hw
  show decodeNat (0xA + f.bits) = _ ∧ 0xA + f.bits < _
  obtain ⟨h1, h2, h3, h4⟩ := f.at_word 10 (by decide) (0xA + f.bits) rfl
  refine ⟨?_, h4⟩
  rw [decode_major_10 h1]
  rw [if_pos (by omega)]
  rw [h2]

theorem srli (f : FmtSh) : Statement (.srli f) := by
  intro _ hw
  show decodeNat (0xB + f.bits) = _ ∧ 0xB + f.bits < _
  obtain ⟨h1, h2, h3, h4⟩ := f.at_word 11 (by decide) (0xB + f.bits) rfl
  refine ⟨?_, h4⟩
  rw [decode_major_11 h1]
  rw [if_pos (by omega)]
  rw [h2]

theorem srai (f : FmtSh) : Statement (.srai f) := by
  intro _ hw
  show decodeNat (0xC + f.bits) = _ ∧ 0xC + f.bits < _
  obtain ⟨h1, h2, h3, h4⟩ := f.at_word 12 (by decide) (0xC + f.bits) rfl
  refine ⟨?_, h4⟩
  rw [decode_major_12 h1]
  rw [if_pos (by omega)]
  rw [h2]

theorem pmk (f : FmtA) : Statement (.pmk f) := by
  intro _ hw
  show decodeNat (0xD + f.bits) = _ ∧ 0xD + f.bits < _
  obtain ⟨h1, h2, h3, h4⟩ := f.at_word 13 0 (by decide) (by decide) (0xD + f.bits) rfl
  refine ⟨?_, h4⟩
  rw [decode_major_13 h1]
  delta decodePtr
  rw [h2]
  exact congrArg (fun x => Except.ok (Instr.pmk x)) h3

theorem padd (f : FmtA) : Statement (.padd f) := by
  intro _ hw
  show decodeNat (0x20000D + f.bits) = _ ∧ 0x20000D + f.bits < _
  obtain ⟨h1, h2, h3, h4⟩ := f.at_word 13 1 (by decide) (by decide) (0x20000D + f.bits) rfl
  refine ⟨?_, h4⟩
  rw [decode_major_13 h1]
  delta decodePtr
  rw [h2]
  exact congrArg (fun x => Except.ok (Instr.padd x)) h3

theorem ptag (f : FmtA) : Statement (.ptag f) := by
  intro _ hw
  show decodeNat (0x40000D + f.bits) = _ ∧ 0x40000D + f.bits < _
  obtain ⟨h1, h2, h3, h4⟩ := f.at_word 13 2 (by decide) (by decide) (0x40000D + f.bits) rfl
  refine ⟨?_, h4⟩
  rw [decode_major_13 h1]
  delta decodePtr
  rw [h2]
  exact congrArg (fun x => Except.ok (Instr.ptag x)) h3

theorem pclr (f : FmtA) : Statement (.pclr f) := by
  intro _ hw
  show decodeNat (0x60000D + f.bits) = _ ∧ 0x60000D + f.bits < _
  obtain ⟨h1, h2, h3, h4⟩ := f.at_word 13 3 (by decide) (by decide) (0x60000D + f.bits) rfl
  refine ⟨?_, h4⟩
  rw [decode_major_13 h1]
  delta decodePtr
  rw [h2]
  exact congrArg (fun x => Except.ok (Instr.pclr x)) h3

theorem prank (f : FmtA) : Statement (.prank f) := by
  intro _ hw
  show decodeNat (0x80000D + f.bits) = _ ∧ 0x80000D + f.bits < _
  obtain ⟨h1, h2, h3, h4⟩ := f.at_word 13 4 (by decide) (by decide) (0x80000D + f.bits) rfl
  refine ⟨?_, h4⟩
  rw [decode_major_13 h1]
  delta decodePtr
  rw [h2]
  exact congrArg (fun x => Except.ok (Instr.prank x)) h3

theorem pchk (f : FmtA) : Statement (.pchk f) := by
  intro _ hw
  show decodeNat (0xA0000D + f.bits) = _ ∧ 0xA0000D + f.bits < _
  obtain ⟨h1, h2, h3, h4⟩ := f.at_word 13 5 (by decide) (by decide) (0xA0000D + f.bits) rfl
  refine ⟨?_, h4⟩
  rw [decode_major_13 h1]
  delta decodePtr
  rw [h2]
  exact congrArg (fun x => Except.ok (Instr.pchk x)) h3

theorem paddi (f : FmtI) : Statement (.paddi f) := by
  intro _ hw
  show decodeNat (0xE + f.bits) = _ ∧ 0xE + f.bits < _
  obtain ⟨h1, h2, h3⟩ := f.at_word 14 (by decide) (0xE + f.bits) rfl
  refine ⟨?_, h3⟩
  rw [decode_major_14 h1]
  rw [h2]

theorem fadd (f : FmtF) : Statement (.fadd f) := by
  intro _ hw
  show decodeNat (0xF + f.bits) = _ ∧ 0xF + f.bits < _
  obtain ⟨h1, h2, h3, h4⟩ := f.at_word 15 0 (by decide) (by decide) (0xF + f.bits) rfl
  refine ⟨?_, h4⟩
  rw [decode_major_15 h1]
  delta decodeFpu
  rw [h2]
  exact congrArg (fun x => Except.ok (Instr.fadd x)) h3

theorem fsub (f : FmtF) : Statement (.fsub f) := by
  intro _ hw
  show decodeNat (0x20000F + f.bits) = _ ∧ 0x20000F + f.bits < _
  obtain ⟨h1, h2, h3, h4⟩ := f.at_word 15 1 (by decide) (by decide) (0x20000F + f.bits) rfl
  refine ⟨?_, h4⟩
  rw [decode_major_15 h1]
  delta decodeFpu
  rw [h2]
  exact congrArg (fun x => Except.ok (Instr.fsub x)) h3

theorem fmul (f : FmtF) : Statement (.fmul f) := by
  intro _ hw
  show decodeNat (0x40000F + f.bits) = _ ∧ 0x40000F + f.bits < _
  obtain ⟨h1, h2, h3, h4⟩ := f.at_word 15 2 (by decide) (by decide) (0x40000F + f.bits) rfl
  refine ⟨?_, h4⟩
  rw [decode_major_15 h1]
  delta decodeFpu
  rw [h2]
  exact congrArg (fun x => Except.ok (Instr.fmul x)) h3

theorem fdiv (f : FmtF) : Statement (.fdiv f) := by
  intro _ hw
  show decodeNat (0x60000F + f.bits) = _ ∧ 0x60000F + f.bits < _
  obtain ⟨h1, h2, h3, h4⟩ := f.at_word 15 3 (by decide) (by decide) (0x60000F + f.bits) rfl
  refine ⟨?_, h4⟩
  rw [decode_major_15 h1]
  delta decodeFpu
  rw [h2]
  exact congrArg (fun x => Except.ok (Instr.fdiv x)) h3

theorem fsqrt (f : FmtF) : Statement (.fsqrt f) := by
  intro _ hw
  show decodeNat (0x80000F + f.bits) = _ ∧ 0x80000F + f.bits < _
  obtain ⟨h1, h2, h3, h4⟩ := f.at_word 15 4 (by decide) (by decide) (0x80000F + f.bits) rfl
  refine ⟨?_, h4⟩
  rw [decode_major_15 h1]
  delta decodeFpu
  rw [h2]
  exact congrArg (fun x => Except.ok (Instr.fsqrt x)) h3

theorem fmin (f : FmtF) : Statement (.fmin f) := by
  intro _ hw
  show decodeNat (0xA0000F + f.bits) = _ ∧ 0xA0000F + f.bits < _
  obtain ⟨h1, h2, h3, h4⟩ := f.at_word 15 5 (by decide) (by decide) (0xA0000F + f.bits) rfl
  refine ⟨?_, h4⟩
  rw [decode_major_15 h1]
  delta decodeFpu
  rw [h2]
  exact congrArg (fun x => Except.ok (Instr.fmin x)) h3

theorem fmax (f : FmtF) : Statement (.fmax f) := by
  intro _ hw
  show decodeNat (0xC0000F + f.bits) = _ ∧ 0xC0000F + f.bits < _
  obtain ⟨h1, h2, h3, h4⟩ := f.at_word 15 6 (by decide) (by decide) (0xC0000F + f.bits) rfl
  refine ⟨?_, h4⟩
  rw [decode_major_15 h1]
  delta decodeFpu
  rw [h2]
  exact congrArg (fun x => Except.ok (Instr.fmax x)) h3

theorem fmadd (f : FmtF) : Statement (.fmadd f) := by
  intro _ hw
  show decodeNat (0xE0000F + f.bits) = _ ∧ 0xE0000F + f.bits < _
  obtain ⟨h1, h2, h3, h4⟩ := f.at_word 15 7 (by decide) (by decide) (0xE0000F + f.bits) rfl
  refine ⟨?_, h4⟩
  rw [decode_major_15 h1]
  delta decodeFpu
  rw [h2]
  exact congrArg (fun x => Except.ok (Instr.fmadd x)) h3

theorem fmsub (f : FmtF) : Statement (.fmsub f) := by
  intro _ hw
  show decodeNat (0x100000F + f.bits) = _ ∧ 0x100000F + f.bits < _
  obtain ⟨h1, h2, h3, h4⟩ := f.at_word 15 8 (by decide) (by decide) (0x100000F + f.bits) rfl
  refine ⟨?_, h4⟩
  rw [decode_major_15 h1]
  delta decodeFpu
  rw [h2]
  exact congrArg (fun x => Except.ok (Instr.fmsub x)) h3

theorem feq (f : FmtF) : Statement (.feq f) := by
  intro _ hw
  show decodeNat (0x120000F + f.bits) = _ ∧ 0x120000F + f.bits < _
  obtain ⟨h1, h2, h3, h4⟩ := f.at_word 15 9 (by decide) (by decide) (0x120000F + f.bits) rfl
  refine ⟨?_, h4⟩
  rw [decode_major_15 h1]
  delta decodeFpu
  rw [h2]
  exact congrArg (fun x => Except.ok (Instr.feq x)) h3

theorem flt (f : FmtF) : Statement (.flt f) := by
  intro _ hw
  show decodeNat (0x140000F + f.bits) = _ ∧ 0x140000F + f.bits < _
  obtain ⟨h1, h2, h3, h4⟩ := f.at_word 15 10 (by decide) (by decide) (0x140000F + f.bits) rfl
  refine ⟨?_, h4⟩
  rw [decode_major_15 h1]
  delta decodeFpu
  rw [h2]
  exact congrArg (fun x => Except.ok (Instr.flt x)) h3

theorem fle (f : FmtF) : Statement (.fle f) := by
  intro _ hw
  show decodeNat (0x160000F + f.bits) = _ ∧ 0x160000F + f.bits < _
  obtain ⟨h1, h2, h3, h4⟩ := f.at_word 15 11 (by decide) (by decide) (0x160000F + f.bits) rfl
  refine ⟨?_, h4⟩
  rw [decode_major_15 h1]
  delta decodeFpu
  rw [h2]
  exact congrArg (fun x => Except.ok (Instr.fle x)) h3

theorem fclass (f : FmtF) : Statement (.fclass f) := by
  intro _ hw
  show decodeNat (0x180000F + f.bits) = _ ∧ 0x180000F + f.bits < _
  obtain ⟨h1, h2, h3, h4⟩ := f.at_word 15 12 (by decide) (by decide) (0x180000F + f.bits) rfl
  refine ⟨?_, h4⟩
  rw [decode_major_15 h1]
  delta decodeFpu
  rw [h2]
  exact congrArg (fun x => Except.ok (Instr.fclass x)) h3

theorem fcvtf (f : FmtF) : Statement (.fcvtf f) := by
  intro _ hw
  show decodeNat (0x1A0000F + f.bits) = _ ∧ 0x1A0000F + f.bits < _
  obtain ⟨h1, h2, h3, h4⟩ := f.at_word 15 13 (by decide) (by decide) (0x1A0000F + f.bits) rfl
  refine ⟨?_, h4⟩
  rw [decode_major_15 h1]
  delta decodeFpu
  rw [h2]
  exact congrArg (fun x => Except.ok (Instr.fcvtf x)) h3

theorem fcvtfi (f : FmtF) : Statement (.fcvtfi f) := by
  intro _ hw
  show decodeNat (0x1C0000F + f.bits) = _ ∧ 0x1C0000F + f.bits < _
  obtain ⟨h1, h2, h3, h4⟩ := f.at_word 15 14 (by decide) (by decide) (0x1C0000F + f.bits) rfl
  refine ⟨?_, h4⟩
  rw [decode_major_15 h1]
  delta decodeFpu
  rw [h2]
  exact congrArg (fun x => Except.ok (Instr.fcvtfi x)) h3

theorem fcvtif (f : FmtF) : Statement (.fcvtif f) := by
  intro _ hw
  show decodeNat (0x1E0000F + f.bits) = _ ∧ 0x1E0000F + f.bits < _
  obtain ⟨h1, h2, h3, h4⟩ := f.at_word 15 15 (by decide) (by decide) (0x1E0000F + f.bits) rfl
  refine ⟨?_, h4⟩
  rw [decode_major_15 h1]
  delta decodeFpu
  rw [h2]
  exact congrArg (fun x => Except.ok (Instr.fcvtif x)) h3

theorem fsgnj (f : FmtF) : Statement (.fsgnj f) := by
  intro _ hw
  show decodeNat (0x200000F + f.bits) = _ ∧ 0x200000F + f.bits < _
  obtain ⟨h1, h2, h3, h4⟩ := f.at_word 15 16 (by decide) (by decide) (0x200000F + f.bits) rfl
  refine ⟨?_, h4⟩
  rw [decode_major_15 h1]
  delta decodeFpu
  rw [h2]
  exact congrArg (fun x => Except.ok (Instr.fsgnj x)) h3

theorem fsgnjn (f : FmtF) : Statement (.fsgnjn f) := by
  intro _ hw
  show decodeNat (0x220000F + f.bits) = _ ∧ 0x220000F + f.bits < _
  obtain ⟨h1, h2, h3, h4⟩ := f.at_word 15 17 (by decide) (by decide) (0x220000F + f.bits) rfl
  refine ⟨?_, h4⟩
  rw [decode_major_15 h1]
  delta decodeFpu
  rw [h2]
  exact congrArg (fun x => Except.ok (Instr.fsgnjn x)) h3

theorem ld (f : FmtM) : Statement (.ld f) := by
  intro _ hw
  show decodeNat (0x10 + f.bits) = _ ∧ 0x10 + f.bits < _
  obtain ⟨h1, h2, h3, h4⟩ := f.at_word 16 (by decide) (0x10 + f.bits) rfl
  refine ⟨?_, h4⟩
  rw [decode_major_16 h1]
  replace hw : f.size.val ≤ 4 := of_decide_eq_true hw
  rw [if_pos (by omega)]
  rw [h2]

theorem st (f : FmtM) : Statement (.st f) := by
  intro _ hw
  show decodeNat (0x11 + f.bits) = _ ∧ 0x11 + f.bits < _
  obtain ⟨h1, h2, h3, h4⟩ := f.at_word 17 (by decide) (0x11 + f.bits) rfl
  refine ⟨?_, h4⟩
  rw [decode_major_17 h1]
  replace hw : f.size.val ≤ 4 := of_decide_eq_true hw
  rw [if_pos (by omega)]
  rw [h2]

theorem amoSwap (f : FmtAm) : Statement (.amoSwap f) := by
  intro _ hw
  show decodeNat (0x12 + f.bits) = _ ∧ 0x12 + f.bits < _
  obtain ⟨h1, h2, h3, h4, h5⟩ := f.at_word 18 0 (by decide) (by decide) (0x12 + f.bits) rfl
  refine ⟨?_, h5⟩
  rw [decode_major_18 h1]
  replace hw : f.width.val ≤ 1 := of_decide_eq_true hw
  rw [if_pos (by omega)]
  delta decodeAmo
  rw [h2]
  exact congrArg (fun x => Except.ok (Instr.amoSwap x)) h3

theorem amoAdd (f : FmtAm) : Statement (.amoAdd f) := by
  intro _ hw
  show decodeNat (0x200012 + f.bits) = _ ∧ 0x200012 + f.bits < _
  obtain ⟨h1, h2, h3, h4, h5⟩ := f.at_word 18 1 (by decide) (by decide) (0x200012 + f.bits) rfl
  refine ⟨?_, h5⟩
  rw [decode_major_18 h1]
  replace hw : f.width.val ≤ 1 := of_decide_eq_true hw
  rw [if_pos (by omega)]
  delta decodeAmo
  rw [h2]
  exact congrArg (fun x => Except.ok (Instr.amoAdd x)) h3

theorem amoAnd (f : FmtAm) : Statement (.amoAnd f) := by
  intro _ hw
  show decodeNat (0x400012 + f.bits) = _ ∧ 0x400012 + f.bits < _
  obtain ⟨h1, h2, h3, h4, h5⟩ := f.at_word 18 2 (by decide) (by decide) (0x400012 + f.bits) rfl
  refine ⟨?_, h5⟩
  rw [decode_major_18 h1]
  replace hw : f.width.val ≤ 1 := of_decide_eq_true hw
  rw [if_pos (by omega)]
  delta decodeAmo
  rw [h2]
  exact congrArg (fun x => Except.ok (Instr.amoAnd x)) h3

theorem amoOr (f : FmtAm) : Statement (.amoOr f) := by
  intro _ hw
  show decodeNat (0x600012 + f.bits) = _ ∧ 0x600012 + f.bits < _
  obtain ⟨h1, h2, h3, h4, h5⟩ := f.at_word 18 3 (by decide) (by decide) (0x600012 + f.bits) rfl
  refine ⟨?_, h5⟩
  rw [decode_major_18 h1]
  replace hw : f.width.val ≤ 1 := of_decide_eq_true hw
  rw [if_pos (by omega)]
  delta decodeAmo
  rw [h2]
  exact congrArg (fun x => Except.ok (Instr.amoOr x)) h3

theorem amoXor (f : FmtAm) : Statement (.amoXor f) := by
  intro _ hw
  show decodeNat (0x800012 + f.bits) = _ ∧ 0x800012 + f.bits < _
  obtain ⟨h1, h2, h3, h4, h5⟩ := f.at_word 18 4 (by decide) (by decide) (0x800012 + f.bits) rfl
  refine ⟨?_, h5⟩
  rw [decode_major_18 h1]
  replace hw : f.width.val ≤ 1 := of_decide_eq_true hw
  rw [if_pos (by omega)]
  delta decodeAmo
  rw [h2]
  exact congrArg (fun x => Except.ok (Instr.amoXor x)) h3

theorem amoSmin (f : FmtAm) : Statement (.amoSmin f) := by
  intro _ hw
  show decodeNat (0xA00012 + f.bits) = _ ∧ 0xA00012 + f.bits < _
  obtain ⟨h1, h2, h3, h4, h5⟩ := f.at_word 18 5 (by decide) (by decide) (0xA00012 + f.bits) rfl
  refine ⟨?_, h5⟩
  rw [decode_major_18 h1]
  replace hw : f.width.val ≤ 1 := of_decide_eq_true hw
  rw [if_pos (by omega)]
  delta decodeAmo
  rw [h2]
  exact congrArg (fun x => Except.ok (Instr.amoSmin x)) h3

theorem amoSmax (f : FmtAm) : Statement (.amoSmax f) := by
  intro _ hw
  show decodeNat (0xC00012 + f.bits) = _ ∧ 0xC00012 + f.bits < _
  obtain ⟨h1, h2, h3, h4, h5⟩ := f.at_word 18 6 (by decide) (by decide) (0xC00012 + f.bits) rfl
  refine ⟨?_, h5⟩
  rw [decode_major_18 h1]
  replace hw : f.width.val ≤ 1 := of_decide_eq_true hw
  rw [if_pos (by omega)]
  delta decodeAmo
  rw [h2]
  exact congrArg (fun x => Except.ok (Instr.amoSmax x)) h3

theorem amoUmin (f : FmtAm) : Statement (.amoUmin f) := by
  intro _ hw
  show decodeNat (0xE00012 + f.bits) = _ ∧ 0xE00012 + f.bits < _
  obtain ⟨h1, h2, h3, h4, h5⟩ := f.at_word 18 7 (by decide) (by decide) (0xE00012 + f.bits) rfl
  refine ⟨?_, h5⟩
  rw [decode_major_18 h1]
  replace hw : f.width.val ≤ 1 := of_decide_eq_true hw
  rw [if_pos (by omega)]
  delta decodeAmo
  rw [h2]
  exact congrArg (fun x => Except.ok (Instr.amoUmin x)) h3

theorem amoUmax (f : FmtAm) : Statement (.amoUmax f) := by
  intro _ hw
  show decodeNat (0x1000012 + f.bits) = _ ∧ 0x1000012 + f.bits < _
  obtain ⟨h1, h2, h3, h4, h5⟩ := f.at_word 18 8 (by decide) (by decide) (0x1000012 + f.bits) rfl
  refine ⟨?_, h5⟩
  rw [decode_major_18 h1]
  replace hw : f.width.val ≤ 1 := of_decide_eq_true hw
  rw [if_pos (by omega)]
  delta decodeAmo
  rw [h2]
  exact congrArg (fun x => Except.ok (Instr.amoUmax x)) h3

theorem amoCas (f : FmtAm) : Statement (.amoCas f) := by
  intro _ hw
  show decodeNat (0x1200012 + f.bits) = _ ∧ 0x1200012 + f.bits < _
  obtain ⟨h1, h2, h3, h4, h5⟩ := f.at_word 18 9 (by decide) (by decide) (0x1200012 + f.bits) rfl
  refine ⟨?_, h5⟩
  rw [decode_major_18 h1]
  replace hw : f.width.val ≤ 1 := of_decide_eq_true hw
  rw [if_pos (by omega)]
  delta decodeAmo
  rw [h2]
  exact congrArg (fun x => Except.ok (Instr.amoCas x)) h3

theorem amoFadd (f : FmtAm) : Statement (.amoFadd f) := by
  intro _ hw
  show decodeNat (0x1400012 + f.bits) = _ ∧ 0x1400012 + f.bits < _
  obtain ⟨h1, h2, h3, h4, h5⟩ := f.at_word 18 10 (by decide) (by decide) (0x1400012 + f.bits) rfl
  refine ⟨?_, h5⟩
  rw [decode_major_18 h1]
  replace hw : f.width.val ≤ 1 := of_decide_eq_true hw
  rw [if_pos (by omega)]
  delta decodeAmo
  rw [h2]
  exact congrArg (fun x => Except.ok (Instr.amoFadd x)) h3

theorem amoFmin (f : FmtAm) : Statement (.amoFmin f) := by
  intro _ hw
  show decodeNat (0x1600012 + f.bits) = _ ∧ 0x1600012 + f.bits < _
  obtain ⟨h1, h2, h3, h4, h5⟩ := f.at_word 18 11 (by decide) (by decide) (0x1600012 + f.bits) rfl
  refine ⟨?_, h5⟩
  rw [decode_major_18 h1]
  replace hw : f.width.val ≤ 1 := of_decide_eq_true hw
  rw [if_pos (by omega)]
  delta decodeAmo
  rw [h2]
  exact congrArg (fun x => Except.ok (Instr.amoFmin x)) h3

theorem amoFmax (f : FmtAm) : Statement (.amoFmax f) := by
  intro _ hw
  show decodeNat (0x1800012 + f.bits) = _ ∧ 0x1800012 + f.bits < _
  obtain ⟨h1, h2, h3, h4, h5⟩ := f.at_word 18 12 (by decide) (by decide) (0x1800012 + f.bits) rfl
  refine ⟨?_, h5⟩
  rw [decode_major_18 h1]
  replace hw : f.width.val ≤ 1 := of_decide_eq_true hw
  rw [if_pos (by omega)]
  delta decodeAmo
  rw [h2]
  exact congrArg (fun x => Except.ok (Instr.amoFmax x)) h3

theorem redAdd (f : FmtAm) : Statement (.redAdd f) := by
  intro _ hw
  show decodeNat (0x13 + f.bits) = _ ∧ 0x13 + f.bits < _
  obtain ⟨h1, h2, h3, h4, h5⟩ := f.at_word 19 0 (by decide) (by decide) (0x13 + f.bits) rfl
  refine ⟨?_, h5⟩
  rw [decode_major_19 h1]
  replace hw : f.width.val ≤ 1 := of_decide_eq_true hw
  rw [if_pos (by omega)]
  delta decodeRed
  rw [h2]
  exact congrArg (fun x => Except.ok (Instr.redAdd x)) h3

theorem redFadd (f : FmtAm) : Statement (.redFadd f) := by
  intro _ hw
  show decodeNat (0x200013 + f.bits) = _ ∧ 0x200013 + f.bits < _
  obtain ⟨h1, h2, h3, h4, h5⟩ := f.at_word 19 1 (by decide) (by decide) (0x200013 + f.bits) rfl
  refine ⟨?_, h5⟩
  rw [decode_major_19 h1]
  replace hw : f.width.val ≤ 1 := of_decide_eq_true hw
  rw [if_pos (by omega)]
  delta decodeRed
  rw [h2]
  exact congrArg (fun x => Except.ok (Instr.redFadd x)) h3

theorem redSmin (f : FmtAm) : Statement (.redSmin f) := by
  intro _ hw
  show decodeNat (0x400013 + f.bits) = _ ∧ 0x400013 + f.bits < _
  obtain ⟨h1, h2, h3, h4, h5⟩ := f.at_word 19 2 (by decide) (by decide) (0x400013 + f.bits) rfl
  refine ⟨?_, h5⟩
  rw [decode_major_19 h1]
  replace hw : f.width.val ≤ 1 := of_decide_eq_true hw
  rw [if_pos (by omega)]
  delta decodeRed
  rw [h2]
  exact congrArg (fun x => Except.ok (Instr.redSmin x)) h3

theorem redSmax (f : FmtAm) : Statement (.redSmax f) := by
  intro _ hw
  show decodeNat (0x600013 + f.bits) = _ ∧ 0x600013 + f.bits < _
  obtain ⟨h1, h2, h3, h4, h5⟩ := f.at_word 19 3 (by decide) (by decide) (0x600013 + f.bits) rfl
  refine ⟨?_, h5⟩
  rw [decode_major_19 h1]
  replace hw : f.width.val ≤ 1 := of_decide_eq_true hw
  rw [if_pos (by omega)]
  delta decodeRed
  rw [h2]
  exact congrArg (fun x => Except.ok (Instr.redSmax x)) h3

theorem redFmin (f : FmtAm) : Statement (.redFmin f) := by
  intro _ hw
  show decodeNat (0x800013 + f.bits) = _ ∧ 0x800013 + f.bits < _
  obtain ⟨h1, h2, h3, h4, h5⟩ := f.at_word 19 4 (by decide) (by decide) (0x800013 + f.bits) rfl
  refine ⟨?_, h5⟩
  rw [decode_major_19 h1]
  replace hw : f.width.val ≤ 1 := of_decide_eq_true hw
  rw [if_pos (by omega)]
  delta decodeRed
  rw [h2]
  exact congrArg (fun x => Except.ok (Instr.redFmin x)) h3

theorem redFmax (f : FmtAm) : Statement (.redFmax f) := by
  intro _ hw
  show decodeNat (0xA00013 + f.bits) = _ ∧ 0xA00013 + f.bits < _
  obtain ⟨h1, h2, h3, h4, h5⟩ := f.at_word 19 5 (by decide) (by decide) (0xA00013 + f.bits) rfl
  refine ⟨?_, h5⟩
  rw [decode_major_19 h1]
  replace hw : f.width.val ≤ 1 := of_decide_eq_true hw
  rw [if_pos (by omega)]
  delta decodeRed
  rw [h2]
  exact congrArg (fun x => Except.ok (Instr.redFmax x)) h3

theorem beq (f : FmtB) : Statement (.beq f) := by
  intro _ hw
  show decodeNat (0x14 + f.bits) = _ ∧ 0x14 + f.bits < _
  obtain ⟨h1, h2, h3⟩ := f.at_word 20 (by decide) (0x14 + f.bits) rfl
  refine ⟨?_, h3⟩
  rw [decode_major_20 h1]
  rw [h2]

theorem bne (f : FmtB) : Statement (.bne f) := by
  intro _ hw
  show decodeNat (0x15 + f.bits) = _ ∧ 0x15 + f.bits < _
  obtain ⟨h1, h2, h3⟩ := f.at_word 21 (by decide) (0x15 + f.bits) rfl
  refine ⟨?_, h3⟩
  rw [decode_major_21 h1]
  rw [h2]

theorem blt (f : FmtB) : Statement (.blt f) := by
  intro _ hw
  show decodeNat (0x16 + f.bits) = _ ∧ 0x16 + f.bits < _
  obtain ⟨h1, h2, h3⟩ := f.at_word 22 (by decide) (0x16 + f.bits) rfl
  refine ⟨?_, h3⟩
  rw [decode_major_22 h1]
  rw [h2]

theorem bge (f : FmtB) : Statement (.bge f) := by
  intro _ hw
  show decodeNat (0x17 + f.bits) = _ ∧ 0x17 + f.bits < _
  obtain ⟨h1, h2, h3⟩ := f.at_word 23 (by decide) (0x17 + f.bits) rfl
  refine ⟨?_, h3⟩
  rw [decode_major_23 h1]
  rw [h2]

theorem bltu (f : FmtB) : Statement (.bltu f) := by
  intro _ hw
  show decodeNat (0x18 + f.bits) = _ ∧ 0x18 + f.bits < _
  obtain ⟨h1, h2, h3⟩ := f.at_word 24 (by decide) (0x18 + f.bits) rfl
  refine ⟨?_, h3⟩
  rw [decode_major_24 h1]
  rw [h2]

theorem bgeu (f : FmtB) : Statement (.bgeu f) := by
  intro _ hw
  show decodeNat (0x19 + f.bits) = _ ∧ 0x19 + f.bits < _
  obtain ⟨h1, h2, h3⟩ := f.at_word 25 (by decide) (0x19 + f.bits) rfl
  refine ⟨?_, h3⟩
  rw [decode_major_25 h1]
  rw [h2]

theorem jal (f : FmtJ) : Statement (.jal f) := by
  intro _ hw
  show decodeNat (0x1A + f.bits) = _ ∧ 0x1A + f.bits < _
  obtain ⟨h1, h2, h3⟩ := f.at_word 26 (by decide) (0x1A + f.bits) rfl
  refine ⟨?_, h3⟩
  rw [decode_major_26 h1]
  rw [h2]

theorem jalr (f : FmtI) : Statement (.jalr f) := by
  intro _ hw
  show decodeNat (0x1B + f.bits) = _ ∧ 0x1B + f.bits < _
  obtain ⟨h1, h2, h3⟩ := f.at_word 27 (by decide) (0x1B + f.bits) rfl
  refine ⟨?_, h3⟩
  rw [decode_major_27 h1]
  rw [h2]

theorem crrd (f : FmtC) : Statement (.crrd f) := by
  intro _ hw
  show decodeNat (0x1C + f.bits) = _ ∧ 0x1C + f.bits < _
  obtain ⟨h1, h2, h3, h4⟩ := f.at_word 28 (by decide) (0x1C + f.bits) rfl
  refine ⟨?_, h4⟩
  rw [decode_major_28 h1]
  rw [if_pos (by omega)]
  rw [h2]

theorem crwr (f : FmtC) : Statement (.crwr f) := by
  intro _ hw
  show decodeNat (0x1D + f.bits) = _ ∧ 0x1D + f.bits < _
  obtain ⟨h1, h2, h3, h4⟩ := f.at_word 29 (by decide) (0x1D + f.bits) rfl
  refine ⟨?_, h4⟩
  rw [decode_major_29 h1]
  rw [if_pos (by omega)]
  rw [h2]

theorem crxch (f : FmtC) : Statement (.crxch f) := by
  intro _ hw
  show decodeNat (0x1E + f.bits) = _ ∧ 0x1E + f.bits < _
  obtain ⟨h1, h2, h3, h4⟩ := f.at_word 30 (by decide) (0x1E + f.bits) rfl
  refine ⟨?_, h4⟩
  rw [decode_major_30 h1]
  rw [if_pos (by omega)]
  rw [h2]

theorem trap (f : FmtTrap) : Statement (.trap f) := by
  intro _ hw
  show decodeNat (0x1F + f.bits) = _ ∧ 0x1F + f.bits < _
  obtain ⟨h1, h2, h3, h4, h5⟩ := f.at_trap _ rfl
  refine ⟨?_, h5⟩
  rw [decode_major_31 h1]
  delta decodeSys
  rw [h2]
  simp [h3, h4]

theorem trapBrk (f : FmtTrap) : Statement (.trapBrk f) := by
  intro _ hw
  show decodeNat (0x5F + f.bits) = _ ∧ 0x5F + f.bits < _
  obtain ⟨h1, h2, h3, h4, h5⟩ := f.at_trapBrk _ rfl
  refine ⟨?_, h5⟩
  rw [decode_major_31 h1]
  delta decodeSys
  rw [h2]
  simp [h3, h4]

theorem tret (f : FmtA) : Statement (.tret f) := by
  intro _ hw
  show decodeNat (0x20001F + f.bits) = _ ∧ 0x20001F + f.bits < _
  obtain ⟨h1, h2, h3, h4⟩ := f.at_word 31 1 (by decide) (by decide) (0x20001F + f.bits) rfl
  refine ⟨?_, h4⟩
  rw [decode_major_31 h1]
  delta decodeSys
  rw [h2]
  exact congrArg (fun x => Except.ok (Instr.tret x)) h3

theorem fence (f : FmtA) : Statement (.fence f) := by
  intro _ hw
  show decodeNat (0x40001F + f.bits) = _ ∧ 0x40001F + f.bits < _
  obtain ⟨h1, h2, h3, h4⟩ := f.at_word 31 2 (by decide) (by decide) (0x40001F + f.bits) rfl
  refine ⟨?_, h4⟩
  rw [decode_major_31 h1]
  delta decodeSys
  rw [h2]
  exact congrArg (fun x => Except.ok (Instr.fence x)) h3

theorem ifence (f : FmtA) : Statement (.ifence f) := by
  intro _ hw
  show decodeNat (0x60001F + f.bits) = _ ∧ 0x60001F + f.bits < _
  obtain ⟨h1, h2, h3, h4⟩ := f.at_word 31 3 (by decide) (by decide) (0x60001F + f.bits) rfl
  refine ⟨?_, h4⟩
  rw [decode_major_31 h1]
  delta decodeSys
  rw [h2]
  exact congrArg (fun x => Except.ok (Instr.ifence x)) h3

theorem spawn (f : FmtA) : Statement (.spawn f) := by
  intro _ hw
  show decodeNat (0x80001F + f.bits) = _ ∧ 0x80001F + f.bits < _
  obtain ⟨h1, h2, h3, h4⟩ := f.at_word 31 4 (by decide) (by decide) (0x80001F + f.bits) rfl
  refine ⟨?_, h4⟩
  rw [decode_major_31 h1]
  delta decodeSys
  rw [h2]
  exact congrArg (fun x => Except.ok (Instr.spawn x)) h3

theorem park (f : FmtPark) : Statement (.park f) := by
  intro _ hw
  show decodeNat (0xA0001F + f.bits) = _ ∧ 0xA0001F + f.bits < _
  obtain ⟨h1, h2, h3, h4, h5⟩ := f.at_park _ rfl
  refine ⟨?_, h5⟩
  rw [decode_major_31 h1]
  delta decodeSys
  rw [h2]
  simp [h3, h4]

theorem parkMig (f : FmtPark) : Statement (.parkMig f) := by
  intro _ hw
  show decodeNat (0xA1001F + f.bits) = _ ∧ 0xA1001F + f.bits < _
  obtain ⟨h1, h2, h3, h4, h5⟩ := f.at_parkMig _ rfl
  refine ⟨?_, h5⟩
  rw [decode_major_31 h1]
  delta decodeSys
  rw [h2]
  simp [h3, h4]

theorem tend (f : FmtA) : Statement (.tend f) := by
  intro _ hw
  show decodeNat (0xC0001F + f.bits) = _ ∧ 0xC0001F + f.bits < _
  obtain ⟨h1, h2, h3, h4⟩ := f.at_word 31 6 (by decide) (by decide) (0xC0001F + f.bits) rfl
  refine ⟨?_, h4⟩
  rw [decode_major_31 h1]
  delta decodeSys
  rw [h2]
  exact congrArg (fun x => Except.ok (Instr.tend x)) h3

theorem tyield (f : FmtA) : Statement (.tyield f) := by
  intro _ hw
  show decodeNat (0xE0001F + f.bits) = _ ∧ 0xE0001F + f.bits < _
  obtain ⟨h1, h2, h3, h4⟩ := f.at_word 31 7 (by decide) (by decide) (0xE0001F + f.bits) rfl
  refine ⟨?_, h4⟩
  rw [decode_major_31 h1]
  delta decodeSys
  rw [h2]
  exact congrArg (fun x => Except.ok (Instr.tyield x)) h3

theorem rdcyc (f : FmtA) : Statement (.rdcyc f) := by
  intro _ hw
  show decodeNat (0x100001F + f.bits) = _ ∧ 0x100001F + f.bits < _
  obtain ⟨h1, h2, h3, h4⟩ := f.at_word 31 8 (by decide) (by decide) (0x100001F + f.bits) rfl
  refine ⟨?_, h4⟩
  rw [decode_major_31 h1]
  delta decodeSys
  rw [h2]
  exact congrArg (fun x => Except.ok (Instr.rdcyc x)) h3

theorem rank (f : FmtA) : Statement (.rank f) := by
  intro _ hw
  show decodeNat (0x120001F + f.bits) = _ ∧ 0x120001F + f.bits < _
  obtain ⟨h1, h2, h3, h4⟩ := f.at_word 31 9 (by decide) (by decide) (0x120001F + f.bits) rfl
  refine ⟨?_, h4⟩
  rw [decode_major_31 h1]
  delta decodeSys
  rw [h2]
  exact congrArg (fun x => Except.ok (Instr.rank x)) h3

theorem wfi (f : FmtA) : Statement (.wfi f) := by
  intro _ hw
  show decodeNat (0x140001F + f.bits) = _ ∧ 0x140001F + f.bits < _
  obtain ⟨h1, h2, h3, h4⟩ := f.at_word 31 10 (by decide) (by decide) (0x140001F + f.bits) rfl
  refine ⟨?_, h4⟩
  rw [decode_major_31 h1]
  delta decodeSys
  rw [h2]
  exact congrArg (fun x => Except.ok (Instr.wfi x)) h3

theorem vadd (f : FmtV) : Statement (.vadd f) := by
  intro _ hw
  show decodeNat (0x20 + f.bits) = _ ∧ 0x20 + f.bits < _
  obtain ⟨h1, h2, h3, h4⟩ := f.at_word 32 0 (by decide) (by decide) (0x20 + f.bits) rfl
  refine ⟨?_, h4⟩
  rw [decode_major_32 h1]
  delta decodeVbasic
  rw [h2]
  exact congrArg (fun x => Except.ok (Instr.vadd x)) h3

theorem vsub (f : FmtV) : Statement (.vsub f) := by
  intro _ hw
  show decodeNat (0x2000020 + f.bits) = _ ∧ 0x2000020 + f.bits < _
  obtain ⟨h1, h2, h3, h4⟩ := f.at_word 32 1 (by decide) (by decide) (0x2000020 + f.bits) rfl
  refine ⟨?_, h4⟩
  rw [decode_major_32 h1]
  delta decodeVbasic
  rw [h2]
  exact congrArg (fun x => Except.ok (Instr.vsub x)) h3

theorem vmul (f : FmtV) : Statement (.vmul f) := by
  intro _ hw
  show decodeNat (0x4000020 + f.bits) = _ ∧ 0x4000020 + f.bits < _
  obtain ⟨h1, h2, h3, h4⟩ := f.at_word 32 2 (by decide) (by decide) (0x4000020 + f.bits) rfl
  refine ⟨?_, h4⟩
  rw [decode_major_32 h1]
  delta decodeVbasic
  rw [h2]
  exact congrArg (fun x => Except.ok (Instr.vmul x)) h3

theorem vmin (f : FmtV) : Statement (.vmin f) := by
  intro _ hw
  show decodeNat (0x6000020 + f.bits) = _ ∧ 0x6000020 + f.bits < _
  obtain ⟨h1, h2, h3, h4⟩ := f.at_word 32 3 (by decide) (by decide) (0x6000020 + f.bits) rfl
  refine ⟨?_, h4⟩
  rw [decode_major_32 h1]
  delta decodeVbasic
  rw [h2]
  exact congrArg (fun x => Except.ok (Instr.vmin x)) h3

theorem vmax (f : FmtV) : Statement (.vmax f) := by
  intro _ hw
  show decodeNat (0x8000020 + f.bits) = _ ∧ 0x8000020 + f.bits < _
  obtain ⟨h1, h2, h3, h4⟩ := f.at_word 32 4 (by decide) (by decide) (0x8000020 + f.bits) rfl
  refine ⟨?_, h4⟩
  rw [decode_major_32 h1]
  delta decodeVbasic
  rw [h2]
  exact congrArg (fun x => Except.ok (Instr.vmax x)) h3

theorem vabs (f : FmtV) : Statement (.vabs f) := by
  intro _ hw
  show decodeNat (0xA000020 + f.bits) = _ ∧ 0xA000020 + f.bits < _
  obtain ⟨h1, h2, h3, h4⟩ := f.at_word 32 5 (by decide) (by decide) (0xA000020 + f.bits) rfl
  refine ⟨?_, h4⟩
  rw [decode_major_32 h1]
  delta decodeVbasic
  rw [h2]
  exact congrArg (fun x => Except.ok (Instr.vabs x)) h3

theorem vneg (f : FmtV) : Statement (.vneg f) := by
  intro _ hw
  show decodeNat (0xC000020 + f.bits) = _ ∧ 0xC000020 + f.bits < _
  obtain ⟨h1, h2, h3, h4⟩ := f.at_word 32 6 (by decide) (by decide) (0xC000020 + f.bits) rfl
  refine ⟨?_, h4⟩
  rw [decode_major_32 h1]
  delta decodeVbasic
  rw [h2]
  exact congrArg (fun x => Except.ok (Instr.vneg x)) h3

theorem vsgnj (f : FmtV) : Statement (.vsgnj f) := by
  intro _ hw
  show decodeNat (0xE000020 + f.bits) = _ ∧ 0xE000020 + f.bits < _
  obtain ⟨h1, h2, h3, h4⟩ := f.at_word 32 7 (by decide) (by decide) (0xE000020 + f.bits) rfl
  refine ⟨?_, h4⟩
  rw [decode_major_32 h1]
  delta decodeVbasic
  rw [h2]
  exact congrArg (fun x => Except.ok (Instr.vsgnj x)) h3

theorem vfma (f : FmtV) : Statement (.vfma f) := by
  intro _ hw
  show decodeNat (0x21 + f.bits) = _ ∧ 0x21 + f.bits < _
  obtain ⟨h1, h2, h3, h4⟩ := f.at_word 33 0 (by decide) (by decide) (0x21 + f.bits) rfl
  refine ⟨?_, h4⟩
  rw [decode_major_33 h1]
  delta decodeVmac
  rw [h2]
  exact congrArg (fun x => Except.ok (Instr.vfma x)) h3

theorem vfms (f : FmtV) : Statement (.vfms f) := by
  intro _ hw
  show decodeNat (0x2000021 + f.bits) = _ ∧ 0x2000021 + f.bits < _
  obtain ⟨h1, h2, h3, h4⟩ := f.at_word 33 1 (by decide) (by decide) (0x2000021 + f.bits) rfl
  refine ⟨?_, h4⟩
  rw [decode_major_33 h1]
  delta decodeVmac
  rw [h2]
  exact congrArg (fun x => Except.ok (Instr.vfms x)) h3

theorem vfnma (f : FmtV) : Statement (.vfnma f) := by
  intro _ hw
  show decodeNat (0x4000021 + f.bits) = _ ∧ 0x4000021 + f.bits < _
  obtain ⟨h1, h2, h3, h4⟩ := f.at_word 33 2 (by decide) (by decide) (0x4000021 + f.bits) rfl
  refine ⟨?_, h4⟩
  rw [decode_major_33 h1]
  delta decodeVmac
  rw [h2]
  exact congrArg (fun x => Except.ok (Instr.vfnma x)) h3

theorem vwmul (f : FmtV) : Statement (.vwmul f) := by
  intro _ hw
  show decodeNat (0x6000021 + f.bits) = _ ∧ 0x6000021 + f.bits < _
  obtain ⟨h1, h2, h3, h4⟩ := f.at_word 33 3 (by decide) (by decide) (0x6000021 + f.bits) rfl
  refine ⟨?_, h4⟩
  rw [decode_major_33 h1]
  delta decodeVmac
  rw [h2]
  exact congrArg (fun x => Except.ok (Instr.vwmul x)) h3

theorem vwfma (f : FmtV) : Statement (.vwfma f) := by
  intro _ hw
  show decodeNat (0x8000021 + f.bits) = _ ∧ 0x8000021 + f.bits < _
  obtain ⟨h1, h2, h3, h4⟩ := f.at_word 33 4 (by decide) (by decide) (0x8000021 + f.bits) rfl
  refine ⟨?_, h4⟩
  rw [decode_major_33 h1]
  delta decodeVmac
  rw [h2]
  exact congrArg (fun x => Except.ok (Instr.vwfma x)) h3

theorem vqfma (f : FmtV) : Statement (.vqfma f) := by
  intro _ hw
  show decodeNat (0xA000021 + f.bits) = _ ∧ 0xA000021 + f.bits < _
  obtain ⟨h1, h2, h3, h4⟩ := f.at_word 33 5 (by decide) (by decide) (0xA000021 + f.bits) rfl
  refine ⟨?_, h4⟩
  rw [decode_major_33 h1]
  delta decodeVmac
  rw [h2]
  exact congrArg (fun x => Except.ok (Instr.vqfma x)) h3

theorem vdot2 (f : FmtV) : Statement (.vdot2 f) := by
  intro _ hw
  show decodeNat (0xC000021 + f.bits) = _ ∧ 0xC000021 + f.bits < _
  obtain ⟨h1, h2, h3, h4⟩ := f.at_word 33 6 (by decide) (by decide) (0xC000021 + f.bits) rfl
  refine ⟨?_, h4⟩
  rw [decode_major_33 h1]
  delta decodeVmac
  rw [h2]
  exact congrArg (fun x => Except.ok (Instr.vdot2 x)) h3

theorem vdot4 (f : FmtV) : Statement (.vdot4 f) := by
  intro _ hw
  show decodeNat (0xE000021 + f.bits) = _ ∧ 0xE000021 + f.bits < _
  obtain ⟨h1, h2, h3, h4⟩ := f.at_word 33 7 (by decide) (by decide) (0xE000021 + f.bits) rfl
  refine ⟨?_, h4⟩
  rw [decode_major_33 h1]
  delta decodeVmac
  rw [h2]
  exact congrArg (fun x => Except.ok (Instr.vdot4 x)) h3

theorem vand (f : FmtV) : Statement (.vand f) := by
  intro _ hw
  show decodeNat (0x22 + f.bits) = _ ∧ 0x22 + f.bits < _
  obtain ⟨h1, h2, h3, h4⟩ := f.at_word 34 0 (by decide) (by decide) (0x22 + f.bits) rfl
  refine ⟨?_, h4⟩
  rw [decode_major_34 h1]
  delta decodeVbit
  rw [h2]
  exact congrArg (fun x => Except.ok (Instr.vand x)) h3

theorem vor (f : FmtV) : Statement (.vor f) := by
  intro _ hw
  show decodeNat (0x2000022 + f.bits) = _ ∧ 0x2000022 + f.bits < _
  obtain ⟨h1, h2, h3, h4⟩ := f.at_word 34 1 (by decide) (by decide) (0x2000022 + f.bits) rfl
  refine ⟨?_, h4⟩
  rw [decode_major_34 h1]
  delta decodeVbit
  rw [h2]
  exact congrArg (fun x => Except.ok (Instr.vor x)) h3

theorem vxor (f : FmtV) : Statement (.vxor f) := by
  intro _ hw
  show decodeNat (0x4000022 + f.bits) = _ ∧ 0x4000022 + f.bits < _
  obtain ⟨h1, h2, h3, h4⟩ := f.at_word 34 2 (by decide) (by decide) (0x4000022 + f.bits) rfl
  refine ⟨?_, h4⟩
  rw [decode_major_34 h1]
  delta decodeVbit
  rw [h2]
  exact congrArg (fun x => Except.ok (Instr.vxor x)) h3

theorem vsll (f : FmtV) : Statement (.vsll f) := by
  intro _ hw
  show decodeNat (0x6000022 + f.bits) = _ ∧ 0x6000022 + f.bits < _
  obtain ⟨h1, h2, h3, h4⟩ := f.at_word 34 3 (by decide) (by decide) (0x6000022 + f.bits) rfl
  refine ⟨?_, h4⟩
  rw [decode_major_34 h1]
  delta decodeVbit
  rw [h2]
  exact congrArg (fun x => Except.ok (Instr.vsll x)) h3

theorem vsrl (f : FmtV) : Statement (.vsrl f) := by
  intro _ hw
  show decodeNat (0x8000022 + f.bits) = _ ∧ 0x8000022 + f.bits < _
  obtain ⟨h1, h2, h3, h4⟩ := f.at_word 34 4 (by decide) (by decide) (0x8000022 + f.bits) rfl
  refine ⟨?_, h4⟩
  rw [decode_major_34 h1]
  delta decodeVbit
  rw [h2]
  exact congrArg (fun x => Except.ok (Instr.vsrl x)) h3

theorem vsra (f : FmtV) : Statement (.vsra f) := by
  intro _ hw
  show decodeNat (0xA000022 + f.bits) = _ ∧ 0xA000022 + f.bits < _
  obtain ⟨h1, h2, h3, h4⟩ := f.at_word 34 5 (by decide) (by decide) (0xA000022 + f.bits) rfl
  refine ⟨?_, h4⟩
  rw [decode_major_34 h1]
  delta decodeVbit
  rw [h2]
  exact congrArg (fun x => Except.ok (Instr.vsra x)) h3

theorem vadds (f : FmtV) : Statement (.vadds f) := by
  intro _ hw
  show decodeNat (0xC000022 + f.bits) = _ ∧ 0xC000022 + f.bits < _
  obtain ⟨h1, h2, h3, h4⟩ := f.at_word 34 6 (by decide) (by decide) (0xC000022 + f.bits) rfl
  refine ⟨?_, h4⟩
  rw [decode_major_34 h1]
  delta decodeVbit
  rw [h2]
  exact congrArg (fun x => Except.ok (Instr.vadds x)) h3

theorem vsubs (f : FmtV) : Statement (.vsubs f) := by
  intro _ hw
  show decodeNat (0xE000022 + f.bits) = _ ∧ 0xE000022 + f.bits < _
  obtain ⟨h1, h2, h3, h4⟩ := f.at_word 34 7 (by decide) (by decide) (0xE000022 + f.bits) rfl
  refine ⟨?_, h4⟩
  rw [decode_major_34 h1]
  delta decodeVbit
  rw [h2]
  exact congrArg (fun x => Except.ok (Instr.vsubs x)) h3

theorem veq (f : FmtV) : Statement (.veq f) := by
  intro _ hw
  show decodeNat (0x23 + f.bits) = _ ∧ 0x23 + f.bits < _
  obtain ⟨h1, h2, h3, h4⟩ := f.at_word 35 0 (by decide) (by decide) (0x23 + f.bits) rfl
  refine ⟨?_, h4⟩
  rw [decode_major_35 h1]
  delta decodeVcmp
  rw [h2]
  exact congrArg (fun x => Except.ok (Instr.veq x)) h3

theorem vne (f : FmtV) : Statement (.vne f) := by
  intro _ hw
  show decodeNat (0x2000023 + f.bits) = _ ∧ 0x2000023 + f.bits < _
  obtain ⟨h1, h2, h3, h4⟩ := f.at_word 35 1 (by decide) (by decide) (0x2000023 + f.bits) rfl
  refine ⟨?_, h4⟩
  rw [decode_major_35 h1]
  delta decodeVcmp
  rw [h2]
  exact congrArg (fun x => Except.ok (Instr.vne x)) h3

theorem vlt (f : FmtV) : Statement (.vlt f) := by
  intro _ hw
  show decodeNat (0x4000023 + f.bits) = _ ∧ 0x4000023 + f.bits < _
  obtain ⟨h1, h2, h3, h4⟩ := f.at_word 35 2 (by decide) (by decide) (0x4000023 + f.bits) rfl
  refine ⟨?_, h4⟩
  rw [decode_major_35 h1]
  delta decodeVcmp
  rw [h2]
  exact congrArg (fun x => Except.ok (Instr.vlt x)) h3

theorem vle (f : FmtV) : Statement (.vle f) := by
  intro _ hw
  show decodeNat (0x6000023 + f.bits) = _ ∧ 0x6000023 + f.bits < _
  obtain ⟨h1, h2, h3, h4⟩ := f.at_word 35 3 (by decide) (by decide) (0x6000023 + f.bits) rfl
  refine ⟨?_, h4⟩
  rw [decode_major_35 h1]
  delta decodeVcmp
  rw [h2]
  exact congrArg (fun x => Except.ok (Instr.vle x)) h3

theorem vunord (f : FmtV) : Statement (.vunord f) := by
  intro _ hw
  show decodeNat (0x8000023 + f.bits) = _ ∧ 0x8000023 + f.bits < _
  obtain ⟨h1, h2, h3, h4⟩ := f.at_word 35 4 (by decide) (by decide) (0x8000023 + f.bits) rfl
  refine ⟨?_, h4⟩
  rw [decode_major_35 h1]
  delta decodeVcmp
  rw [h2]
  exact congrArg (fun x => Except.ok (Instr.vunord x)) h3

theorem vclass (f : FmtV) : Statement (.vclass f) := by
  intro _ hw
  show decodeNat (0xA000023 + f.bits) = _ ∧ 0xA000023 + f.bits < _
  obtain ⟨h1, h2, h3, h4⟩ := f.at_word 35 5 (by decide) (by decide) (0xA000023 + f.bits) rfl
  refine ⟨?_, h4⟩
  rw [decode_major_35 h1]
  delta decodeVcmp
  rw [h2]
  exact congrArg (fun x => Except.ok (Instr.vclass x)) h3

theorem vsel (f : FmtV) : Statement (.vsel f) := by
  intro _ hw
  show decodeNat (0x24 + f.bits) = _ ∧ 0x24 + f.bits < _
  obtain ⟨h1, h2, h3, h4⟩ := f.at_word 36 0 (by decide) (by decide) (0x24 + f.bits) rfl
  refine ⟨?_, h4⟩
  rw [decode_major_36 h1]
  delta decodeVmask
  rw [h2]
  exact congrArg (fun x => Except.ok (Instr.vsel x)) h3

theorem mand (f : FmtV) : Statement (.mand f) := by
  intro _ hw
  show decodeNat (0x2000024 + f.bits) = _ ∧ 0x2000024 + f.bits < _
  obtain ⟨h1, h2, h3, h4⟩ := f.at_word 36 1 (by decide) (by decide) (0x2000024 + f.bits) rfl
  refine ⟨?_, h4⟩
  rw [decode_major_36 h1]
  delta decodeVmask
  rw [h2]
  exact congrArg (fun x => Except.ok (Instr.mand x)) h3

theorem mor (f : FmtV) : Statement (.mor f) := by
  intro _ hw
  show decodeNat (0x4000024 + f.bits) = _ ∧ 0x4000024 + f.bits < _
  obtain ⟨h1, h2, h3, h4⟩ := f.at_word 36 2 (by decide) (by decide) (0x4000024 + f.bits) rfl
  refine ⟨?_, h4⟩
  rw [decode_major_36 h1]
  delta decodeVmask
  rw [h2]
  exact congrArg (fun x => Except.ok (Instr.mor x)) h3

theorem mxor (f : FmtV) : Statement (.mxor f) := by
  intro _ hw
  show decodeNat (0x6000024 + f.bits) = _ ∧ 0x6000024 + f.bits < _
  obtain ⟨h1, h2, h3, h4⟩ := f.at_word 36 3 (by decide) (by decide) (0x6000024 + f.bits) rfl
  refine ⟨?_, h4⟩
  rw [decode_major_36 h1]
  delta decodeVmask
  rw [h2]
  exact congrArg (fun x => Except.ok (Instr.mxor x)) h3

theorem mnot (f : FmtV) : Statement (.mnot f) := by
  intro _ hw
  show decodeNat (0x8000024 + f.bits) = _ ∧ 0x8000024 + f.bits < _
  obtain ⟨h1, h2, h3, h4⟩ := f.at_word 36 4 (by decide) (by decide) (0x8000024 + f.bits) rfl
  refine ⟨?_, h4⟩
  rw [decode_major_36 h1]
  delta decodeVmask
  rw [h2]
  exact congrArg (fun x => Except.ok (Instr.mnot x)) h3

theorem mpopc (f : FmtV) : Statement (.mpopc f) := by
  intro _ hw
  show decodeNat (0xA000024 + f.bits) = _ ∧ 0xA000024 + f.bits < _
  obtain ⟨h1, h2, h3, h4⟩ := f.at_word 36 5 (by decide) (by decide) (0xA000024 + f.bits) rfl
  refine ⟨?_, h4⟩
  rw [decode_major_36 h1]
  delta decodeVmask
  rw [h2]
  exact congrArg (fun x => Except.ok (Instr.mpopc x)) h3

theorem mfirst (f : FmtV) : Statement (.mfirst f) := by
  intro _ hw
  show decodeNat (0xC000024 + f.bits) = _ ∧ 0xC000024 + f.bits < _
  obtain ⟨h1, h2, h3, h4⟩ := f.at_word 36 6 (by decide) (by decide) (0xC000024 + f.bits) rfl
  refine ⟨?_, h4⟩
  rw [decode_major_36 h1]
  delta decodeVmask
  rw [h2]
  exact congrArg (fun x => Except.ok (Instr.mfirst x)) h3

theorem vcvt (f : FmtVcvt) : Statement (.vcvt f) := by
  intro _ hw
  show decodeNat (0x25 + f.bits) = _ ∧ 0x25 + f.bits < _
  obtain ⟨h1, h2, h3⟩ := f.at_word 37 (by decide) (0x25 + f.bits) rfl
  refine ⟨?_, h3⟩
  rw [decode_major_37 h1]
  rw [h2]

theorem vqnt (f : FmtVl) : Statement (.vqnt f) := by
  intro _ hw
  show decodeNat (0x26 + f.bits) = _ ∧ 0x26 + f.bits < _
  obtain ⟨h1, h2, h3, h4⟩ := f.at_word 38 0 (by decide) (by decide) (0x26 + f.bits) rfl
  refine ⟨?_, h4⟩
  rw [decode_major_38 h1]
  delta decodeVquant
  rw [h2]
  exact congrArg (fun x => Except.ok (Instr.vqnt x)) h3

theorem vdqnt (f : FmtVl) : Statement (.vdqnt f) := by
  intro _ hw
  show decodeNat (0x2000026 + f.bits) = _ ∧ 0x2000026 + f.bits < _
  obtain ⟨h1, h2, h3, h4⟩ := f.at_word 38 1 (by decide) (by decide) (0x2000026 + f.bits) rfl
  refine ⟨?_, h4⟩
  rw [decode_major_38 h1]
  delta decodeVquant
  rw [h2]
  exact congrArg (fun x => Except.ok (Instr.vdqnt x)) h3

theorem vcbdec (f : FmtVl) : Statement (.vcbdec f) := by
  intro _ hw
  show decodeNat (0x4000026 + f.bits) = _ ∧ 0x4000026 + f.bits < _
  obtain ⟨h1, h2, h3, h4⟩ := f.at_word 38 2 (by decide) (by decide) (0x4000026 + f.bits) rfl
  refine ⟨?_, h4⟩
  rw [decode_major_38 h1]
  delta decodeVquant
  rw [h2]
  exact congrArg (fun x => Except.ok (Instr.vcbdec x)) h3

theorem vexp2 (f : FmtVl) : Statement (.vexp2 f) := by
  intro _ hw
  show decodeNat (0x27 + f.bits) = _ ∧ 0x27 + f.bits < _
  obtain ⟨h1, h2, h3, h4⟩ := f.at_word 39 0 (by decide) (by decide) (0x27 + f.bits) rfl
  refine ⟨?_, h4⟩
  rw [decode_major_39 h1]
  delta decodeVsfn
  rw [h2]
  exact congrArg (fun x => Except.ok (Instr.vexp2 x)) h3

theorem vlog2 (f : FmtVl) : Statement (.vlog2 f) := by
  intro _ hw
  show decodeNat (0x2000027 + f.bits) = _ ∧ 0x2000027 + f.bits < _
  obtain ⟨h1, h2, h3, h4⟩ := f.at_word 39 1 (by decide) (by decide) (0x2000027 + f.bits) rfl
  refine ⟨?_, h4⟩
  rw [decode_major_39 h1]
  delta decodeVsfn
  rw [h2]
  exact congrArg (fun x => Except.ok (Instr.vlog2 x)) h3

theorem vrcp (f : FmtVl) : Statement (.vrcp f) := by
  intro _ hw
  show decodeNat (0x4000027 + f.bits) = _ ∧ 0x4000027 + f.bits < _
  obtain ⟨h1, h2, h3, h4⟩ := f.at_word 39 2 (by decide) (by decide) (0x4000027 + f.bits) rfl
  refine ⟨?_, h4⟩
  rw [decode_major_39 h1]
  delta decodeVsfn
  rw [h2]
  exact congrArg (fun x => Except.ok (Instr.vrcp x)) h3

theorem vrsqrt (f : FmtVl) : Statement (.vrsqrt f) := by
  intro _ hw
  show decodeNat (0x6000027 + f.bits) = _ ∧ 0x6000027 + f.bits < _
  obtain ⟨h1, h2, h3, h4⟩ := f.at_word 39 3 (by decide) (by decide) (0x6000027 + f.bits) rfl
  refine ⟨?_, h4⟩
  rw [decode_major_39 h1]
  delta decodeVsfn
  rw [h2]
  exact congrArg (fun x => Except.ok (Instr.vrsqrt x)) h3

theorem vsqrt (f : FmtVl) : Statement (.vsqrt f) := by
  intro _ hw
  show decodeNat (0x8000027 + f.bits) = _ ∧ 0x8000027 + f.bits < _
  obtain ⟨h1, h2, h3, h4⟩ := f.at_word 39 4 (by decide) (by decide) (0x8000027 + f.bits) rfl
  refine ⟨?_, h4⟩
  rw [decode_major_39 h1]
  delta decodeVsfn
  rw [h2]
  exact congrArg (fun x => Except.ok (Instr.vsqrt x)) h3

theorem vdiv (f : FmtVl) : Statement (.vdiv f) := by
  intro _ hw
  show decodeNat (0xA000027 + f.bits) = _ ∧ 0xA000027 + f.bits < _
  obtain ⟨h1, h2, h3, h4⟩ := f.at_word 39 5 (by decide) (by decide) (0xA000027 + f.bits) rfl
  refine ⟨?_, h4⟩
  rw [decode_major_39 h1]
  delta decodeVsfn
  rw [h2]
  exact congrArg (fun x => Except.ok (Instr.vdiv x)) h3

theorem vsinpi (f : FmtVl) : Statement (.vsinpi f) := by
  intro _ hw
  show decodeNat (0xC000027 + f.bits) = _ ∧ 0xC000027 + f.bits < _
  obtain ⟨h1, h2, h3, h4⟩ := f.at_word 39 6 (by decide) (by decide) (0xC000027 + f.bits) rfl
  refine ⟨?_, h4⟩
  rw [decode_major_39 h1]
  delta decodeVsfn
  rw [h2]
  exact congrArg (fun x => Except.ok (Instr.vsinpi x)) h3

theorem vtanh (f : FmtVl) : Statement (.vtanh f) := by
  intro _ hw
  show decodeNat (0xE000027 + f.bits) = _ ∧ 0xE000027 + f.bits < _
  obtain ⟨h1, h2, h3, h4⟩ := f.at_word 39 7 (by decide) (by decide) (0xE000027 + f.bits) rfl
  refine ⟨?_, h4⟩
  rw [decode_major_39 h1]
  delta decodeVsfn
  rw [h2]
  exact congrArg (fun x => Except.ok (Instr.vtanh x)) h3

theorem vperm (f : FmtV) : Statement (.vperm f) := by
  intro _ hw
  show decodeNat (0x28 + f.bits) = _ ∧ 0x28 + f.bits < _
  obtain ⟨h1, h2, h3, h4⟩ := f.at_word 40 0 (by decide) (by decide) (0x28 + f.bits) rfl
  refine ⟨?_, h4⟩
  rw [decode_major_40 h1]
  delta decodeVperm
  rw [h2]
  exact congrArg (fun x => Except.ok (Instr.vperm x)) h3

theorem vslup (f : FmtV) : Statement (.vslup f) := by
  intro _ hw
  show decodeNat (0x2000028 + f.bits) = _ ∧ 0x2000028 + f.bits < _
  obtain ⟨h1, h2, h3, h4⟩ := f.at_word 40 1 (by decide) (by decide) (0x2000028 + f.bits) rfl
  refine ⟨?_, h4⟩
  rw [decode_major_40 h1]
  delta decodeVperm
  rw [h2]
  exact congrArg (fun x => Except.ok (Instr.vslup x)) h3

theorem vsldn (f : FmtV) : Statement (.vsldn f) := by
  intro _ hw
  show decodeNat (0x4000028 + f.bits) = _ ∧ 0x4000028 + f.bits < _
  obtain ⟨h1, h2, h3, h4⟩ := f.at_word 40 2 (by decide) (by decide) (0x4000028 + f.bits) rfl
  refine ⟨?_, h4⟩
  rw [decode_major_40 h1]
  delta decodeVperm
  rw [h2]
  exact congrArg (fun x => Except.ok (Instr.vsldn x)) h3

theorem vbcast (f : FmtV) : Statement (.vbcast f) := by
  intro _ hw
  show decodeNat (0x6000028 + f.bits) = _ ∧ 0x6000028 + f.bits < _
  obtain ⟨h1, h2, h3, h4⟩ := f.at_word 40 3 (by decide) (by decide) (0x6000028 + f.bits) rfl
  refine ⟨?_, h4⟩
  rw [decode_major_40 h1]
  delta decodeVperm
  rw [h2]
  exact congrArg (fun x => Except.ok (Instr.vbcast x)) h3

theorem vcmprs (f : FmtV) : Statement (.vcmprs f) := by
  intro _ hw
  show decodeNat (0x8000028 + f.bits) = _ ∧ 0x8000028 + f.bits < _
  obtain ⟨h1, h2, h3, h4⟩ := f.at_word 40 4 (by decide) (by decide) (0x8000028 + f.bits) rfl
  refine ⟨?_, h4⟩
  rw [decode_major_40 h1]
  delta decodeVperm
  rw [h2]
  exact congrArg (fun x => Except.ok (Instr.vcmprs x)) h3

theorem vexpnd (f : FmtV) : Statement (.vexpnd f) := by
  intro _ hw
  show decodeNat (0xA000028 + f.bits) = _ ∧ 0xA000028 + f.bits < _
  obtain ⟨h1, h2, h3, h4⟩ := f.at_word 40 5 (by decide) (by decide) (0xA000028 + f.bits) rfl
  refine ⟨?_, h4⟩
  rw [decode_major_40 h1]
  delta decodeVperm
  rw [h2]
  exact congrArg (fun x => Except.ok (Instr.vexpnd x)) h3

theorem vzip (f : FmtV) : Statement (.vzip f) := by
  intro _ hw
  show decodeNat (0xC000028 + f.bits) = _ ∧ 0xC000028 + f.bits < _
  obtain ⟨h1, h2, h3, h4⟩ := f.at_word 40 6 (by decide) (by decide) (0xC000028 + f.bits) rfl
  refine ⟨?_, h4⟩
  rw [decode_major_40 h1]
  delta decodeVperm
  rw [h2]
  exact congrArg (fun x => Except.ok (Instr.vzip x)) h3

theorem vunzip (f : FmtV) : Statement (.vunzip f) := by
  intro _ hw
  show decodeNat (0xE000028 + f.bits) = _ ∧ 0xE000028 + f.bits < _
  obtain ⟨h1, h2, h3, h4⟩ := f.at_word 40 7 (by decide) (by decide) (0xE000028 + f.bits) rfl
  refine ⟨?_, h4⟩
  rw [decode_major_40 h1]
  delta decodeVperm
  rw [h2]
  exact congrArg (fun x => Except.ok (Instr.vunzip x)) h3

theorem vrsum (f : FmtVl) : Statement (.vrsum f) := by
  intro _ hw
  show decodeNat (0x29 + f.bits) = _ ∧ 0x29 + f.bits < _
  obtain ⟨h1, h2, h3, h4⟩ := f.at_word 41 0 (by decide) (by decide) (0x29 + f.bits) rfl
  refine ⟨?_, h4⟩
  rw [decode_major_41 h1]
  delta decodeVred
  rw [h2]
  exact congrArg (fun x => Except.ok (Instr.vrsum x)) h3

theorem vrmin (f : FmtVl) : Statement (.vrmin f) := by
  intro _ hw
  show decodeNat (0x2000029 + f.bits) = _ ∧ 0x2000029 + f.bits < _
  obtain ⟨h1, h2, h3, h4⟩ := f.at_word 41 1 (by decide) (by decide) (0x2000029 + f.bits) rfl
  refine ⟨?_, h4⟩
  rw [decode_major_41 h1]
  delta decodeVred
  rw [h2]
  exact congrArg (fun x => Except.ok (Instr.vrmin x)) h3

theorem vrmax (f : FmtVl) : Statement (.vrmax f) := by
  intro _ hw
  show decodeNat (0x4000029 + f.bits) = _ ∧ 0x4000029 + f.bits < _
  obtain ⟨h1, h2, h3, h4⟩ := f.at_word 41 2 (by decide) (by decide) (0x4000029 + f.bits) rfl
  refine ⟨?_, h4⟩
  rw [decode_major_41 h1]
  delta decodeVred
  rw [h2]
  exact congrArg (fun x => Except.ok (Instr.vrmax x)) h3

theorem vscan (f : FmtVl) : Statement (.vscan f) := by
  intro _ hw
  show decodeNat (0x6000029 + f.bits) = _ ∧ 0x6000029 + f.bits < _
  obtain ⟨h1, h2, h3, h4⟩ := f.at_word 41 3 (by decide) (by decide) (0x6000029 + f.bits) rfl
  refine ⟨?_, h4⟩
  rw [decode_major_41 h1]
  delta decodeVred
  rw [h2]
  exact congrArg (fun x => Except.ok (Instr.vscan x)) h3

theorem netred (f : FmtNet) : Statement (.netred f) := by
  intro _ hw
  show decodeNat (0x2A + f.bits) = _ ∧ 0x2A + f.bits < _
  obtain ⟨h1, h2, h3, h4, h5⟩ := f.at_word 42 0 (by decide) (by decide) (0x2A + f.bits) rfl
  refine ⟨?_, h5⟩
  rw [decode_major_42 h1]
  delta decodeVnet
  rw [h2]
  show (if _ then _ else _) = _
  rw [if_pos (by omega)]
  rw [h3]

theorem netbc (f : FmtNet) : Statement (.netbc f) := by
  intro _ hw
  show decodeNat (0x200002A + f.bits) = _ ∧ 0x200002A + f.bits < _
  obtain ⟨h1, h2, h3, h4, h5⟩ := f.at_word 42 1 (by decide) (by decide) (0x200002A + f.bits) rfl
  refine ⟨?_, h5⟩
  rw [decode_major_42 h1]
  delta decodeVnet
  rw [h2]
  show (if _ then _ else _) = _
  rw [if_pos (by omega)]
  rw [h3]

theorem vld (f : FmtVl) : Statement (.vld f) := by
  intro _ hw
  show decodeNat (0x2B + f.bits) = _ ∧ 0x2B + f.bits < _
  obtain ⟨h1, h2, h3, h4⟩ := f.at_word 43 0 (by decide) (by decide) (0x2B + f.bits) rfl
  refine ⟨?_, h4⟩
  rw [decode_major_43 h1]
  delta decodeVld
  rw [h2]
  exact congrArg (fun x => Except.ok (Instr.vld x)) h3

theorem vlds (f : FmtVl) : Statement (.vlds f) := by
  intro _ hw
  show decodeNat (0x200002B + f.bits) = _ ∧ 0x200002B + f.bits < _
  obtain ⟨h1, h2, h3, h4⟩ := f.at_word 43 1 (by decide) (by decide) (0x200002B + f.bits) rfl
  refine ⟨?_, h4⟩
  rw [decode_major_43 h1]
  delta decodeVld
  rw [h2]
  exact congrArg (fun x => Except.ok (Instr.vlds x)) h3

theorem vldx (f : FmtVl) : Statement (.vldx f) := by
  intro _ hw
  show decodeNat (0x400002B + f.bits) = _ ∧ 0x400002B + f.bits < _
  obtain ⟨h1, h2, h3, h4⟩ := f.at_word 43 2 (by decide) (by decide) (0x400002B + f.bits) rfl
  refine ⟨?_, h4⟩
  rw [decode_major_43 h1]
  delta decodeVld
  rw [h2]
  exact congrArg (fun x => Except.ok (Instr.vldx x)) h3

theorem vst (f : FmtVl) : Statement (.vst f) := by
  intro _ hw
  show decodeNat (0x2C + f.bits) = _ ∧ 0x2C + f.bits < _
  obtain ⟨h1, h2, h3, h4⟩ := f.at_word 44 0 (by decide) (by decide) (0x2C + f.bits) rfl
  refine ⟨?_, h4⟩
  rw [decode_major_44 h1]
  delta decodeVst
  rw [h2]
  exact congrArg (fun x => Except.ok (Instr.vst x)) h3

theorem vsts (f : FmtVl) : Statement (.vsts f) := by
  intro _ hw
  show decodeNat (0x200002C + f.bits) = _ ∧ 0x200002C + f.bits < _
  obtain ⟨h1, h2, h3, h4⟩ := f.at_word 44 1 (by decide) (by decide) (0x200002C + f.bits) rfl
  refine ⟨?_, h4⟩
  rw [decode_major_44 h1]
  delta decodeVst
  rw [h2]
  exact congrArg (fun x => Except.ok (Instr.vsts x)) h3

theorem vstx (f : FmtVl) : Statement (.vstx f) := by
  intro _ hw
  show decodeNat (0x400002C + f.bits) = _ ∧ 0x400002C + f.bits < _
  obtain ⟨h1, h2, h3, h4⟩ := f.at_word 44 2 (by decide) (by decide) (0x400002C + f.bits) rfl
  refine ⟨?_, h4⟩
  rw [decode_major_44 h1]
  delta decodeVst
  rw [h2]
  exact congrArg (fun x => Except.ok (Instr.vstx x)) h3

theorem vsplat (f : FmtV) : Statement (.vsplat f) := by
  intro _ hw
  show decodeNat (0x2D + f.bits) = _ ∧ 0x2D + f.bits < _
  obtain ⟨h1, h2, h3, h4⟩ := f.at_word 45 0 (by decide) (by decide) (0x2D + f.bits) rfl
  refine ⟨?_, h4⟩
  rw [decode_major_45 h1]
  delta decodeVmov
  rw [h2]
  exact congrArg (fun x => Except.ok (Instr.vsplat x)) h3

theorem vgetel (f : FmtV) : Statement (.vgetel f) := by
  intro _ hw
  show decodeNat (0x200002D + f.bits) = _ ∧ 0x200002D + f.bits < _
  obtain ⟨h1, h2, h3, h4⟩ := f.at_word 45 1 (by decide) (by decide) (0x200002D + f.bits) rfl
  refine ⟨?_, h4⟩
  rw [decode_major_45 h1]
  delta decodeVmov
  rw [h2]
  exact congrArg (fun x => Except.ok (Instr.vgetel x)) h3

theorem vsetel (f : FmtV) : Statement (.vsetel f) := by
  intro _ hw
  show decodeNat (0x400002D + f.bits) = _ ∧ 0x400002D + f.bits < _
  obtain ⟨h1, h2, h3, h4⟩ := f.at_word 45 2 (by decide) (by decide) (0x400002D + f.bits) rfl
  refine ⟨?_, h4⟩
  rw [decode_major_45 h1]
  delta decodeVmov
  rw [h2]
  exact congrArg (fun x => Except.ok (Instr.vsetel x)) h3

theorem vid (f : FmtV) : Statement (.vid f) := by
  intro _ hw
  show decodeNat (0x600002D + f.bits) = _ ∧ 0x600002D + f.bits < _
  obtain ⟨h1, h2, h3, h4⟩ := f.at_word 45 3 (by decide) (by decide) (0x600002D + f.bits) rfl
  refine ⟨?_, h4⟩
  rw [decode_major_45 h1]
  delta decodeVmov
  rw [h2]
  exact congrArg (fun x => Except.ok (Instr.vid x)) h3

theorem m2v (f : FmtV) : Statement (.m2v f) := by
  intro _ hw
  show decodeNat (0x800002D + f.bits) = _ ∧ 0x800002D + f.bits < _
  obtain ⟨h1, h2, h3, h4⟩ := f.at_word 45 4 (by decide) (by decide) (0x800002D + f.bits) rfl
  refine ⟨?_, h4⟩
  rw [decode_major_45 h1]
  delta decodeVmov
  rw [h2]
  exact congrArg (fun x => Except.ok (Instr.m2v x)) h3

theorem v2m (f : FmtV) : Statement (.v2m f) := by
  intro _ hw
  show decodeNat (0xA00002D + f.bits) = _ ∧ 0xA00002D + f.bits < _
  obtain ⟨h1, h2, h3, h4⟩ := f.at_word 45 5 (by decide) (by decide) (0xA00002D + f.bits) rfl
  refine ⟨?_, h4⟩
  rw [decode_major_45 h1]
  delta decodeVmov
  rw [h2]
  exact congrArg (fun x => Except.ok (Instr.v2m x)) h3

theorem tdef (f : FmtX) : Statement (.tdef f) := by
  intro _ hw
  show decodeNat (0x30 + f.bits) = _ ∧ 0x30 + f.bits < _
  obtain ⟨h1, h2, h3, h4, h5, h6, h7, h8, h9⟩ := f.at_word 48 0 (by decide) (by decide) (0x30 + f.bits) rfl
  refine ⟨?_, h9⟩
  rw [decode_major_48 h1]
  delta decodeTensor
  rw [h2]
  exact congrArg (fun x => Except.ok (Instr.tdef x)) h3

theorem tinv (f : FmtX) : Statement (.tinv f) := by
  intro _ hw
  show decodeNat (0x200030 + f.bits) = _ ∧ 0x200030 + f.bits < _
  obtain ⟨h1, h2, h3, h4, h5, h6, h7, h8, h9⟩ := f.at_word 48 1 (by decide) (by decide) (0x200030 + f.bits) rfl
  refine ⟨?_, h9⟩
  rw [decode_major_48 h1]
  delta decodeTensor
  rw [h2]
  exact congrArg (fun x => Except.ok (Instr.tinv x)) h3

theorem tqry (f : FmtX) : Statement (.tqry f) := by
  intro _ hw
  show decodeNat (0x400030 + f.bits) = _ ∧ 0x400030 + f.bits < _
  obtain ⟨h1, h2, h3, h4, h5, h6, h7, h8, h9⟩ := f.at_word 48 2 (by decide) (by decide) (0x400030 + f.bits) rfl
  refine ⟨?_, h9⟩
  rw [decode_major_48 h1]
  delta decodeTensor
  rw [h2]
  exact congrArg (fun x => Except.ok (Instr.tqry x)) h3

theorem mstat (f : FmtX) : Statement (.mstat f) := by
  intro _ hw
  show decodeNat (0x31 + f.bits) = _ ∧ 0x31 + f.bits < _
  obtain ⟨h1, h2, h3, h4, h5, h6, h7, h8, h9⟩ := f.at_word 49 0 (by decide) (by decide) (0x31 + f.bits) rfl
  refine ⟨?_, h9⟩
  rw [decode_major_49 h1]
  delta decodeStationary
  rw [h2]
  exact congrArg (fun x => Except.ok (Instr.mstat x)) h3

theorem munst (f : FmtX) : Statement (.munst f) := by
  intro _ hw
  show decodeNat (0x200031 + f.bits) = _ ∧ 0x200031 + f.bits < _
  obtain ⟨h1, h2, h3, h4, h5, h6, h7, h8, h9⟩ := f.at_word 49 1 (by decide) (by decide) (0x200031 + f.bits) rfl
  refine ⟨?_, h9⟩
  rw [decode_major_49 h1]
  delta decodeStationary
  rw [h2]
  exact congrArg (fun x => Except.ok (Instr.munst x)) h3

theorem mwr (f : FmtX) : Statement (.mwr f) := by
  intro _ hw
  show decodeNat (0x400031 + f.bits) = _ ∧ 0x400031 + f.bits < _
  obtain ⟨h1, h2, h3, h4, h5, h6, h7, h8, h9⟩ := f.at_word 49 2 (by decide) (by decide) (0x400031 + f.bits) rfl
  refine ⟨?_, h9⟩
  rw [decode_major_49 h1]
  replace hw : f.fl.val % 2 = 1 ∨ f.z.val < 8 :=
    ((Bool.or_eq_true _ _).mp hw).imp of_decide_eq_true of_decide_eq_true
  delta decodeStationary
  rw [h2]
  show (if _ then _ else _) = _
  rw [if_pos (by omega)]
  rw [h3]

theorem mrd (f : FmtX) : Statement (.mrd f) := by
  intro _ hw
  show decodeNat (0x600031 + f.bits) = _ ∧ 0x600031 + f.bits < _
  obtain ⟨h1, h2, h3, h4, h5, h6, h7, h8, h9⟩ := f.at_word 49 3 (by decide) (by decide) (0x600031 + f.bits) rfl
  refine ⟨?_, h9⟩
  rw [decode_major_49 h1]
  replace hw : f.fl.val % 2 = 1 ∨ f.z.val < 8 :=
    ((Bool.or_eq_true _ _).mp hw).imp of_decide_eq_true of_decide_eq_true
  delta decodeStationary
  rw [h2]
  show (if _ then _ else _) = _
  rw [if_pos (by omega)]
  rw [h3]

theorem mmac (f : FmtX) : Statement (.mmac f) := by
  intro _ hw
  show decodeNat (0x32 + f.bits) = _ ∧ 0x32 + f.bits < _
  obtain ⟨h1, h2, h3, h4, h5, h6, h7, h8, h9⟩ := f.at_word 50 0 (by decide) (by decide) (0x32 + f.bits) rfl
  refine ⟨?_, h9⟩
  rw [decode_major_50 h1]
  delta decodeMatrix
  rw [h2]
  exact congrArg (fun x => Except.ok (Instr.mmac x)) h3

theorem mmul (f : FmtX) : Statement (.mmul f) := by
  intro _ hw
  show decodeNat (0x200032 + f.bits) = _ ∧ 0x200032 + f.bits < _
  obtain ⟨h1, h2, h3, h4, h5, h6, h7, h8, h9⟩ := f.at_word 50 1 (by decide) (by decide) (0x200032 + f.bits) rfl
  refine ⟨?_, h9⟩
  rw [decode_major_50 h1]
  delta decodeMatrix
  rw [h2]
  exact congrArg (fun x => Except.ok (Instr.mmul x)) h3

theorem mmacSp (f : FmtX) : Statement (.mmacSp f) := by
  intro _ hw
  show decodeNat (0x400032 + f.bits) = _ ∧ 0x400032 + f.bits < _
  obtain ⟨h1, h2, h3, h4, h5, h6, h7, h8, h9⟩ := f.at_word 50 2 (by decide) (by decide) (0x400032 + f.bits) rfl
  refine ⟨?_, h9⟩
  rw [decode_major_50 h1]
  delta decodeMatrix
  rw [h2]
  exact congrArg (fun x => Except.ok (Instr.mmacSp x)) h3

theorem mgang (f : FmtX) : Statement (.mgang f) := by
  intro _ hw
  show decodeNat (0x600032 + f.bits) = _ ∧ 0x600032 + f.bits < _
  obtain ⟨h1, h2, h3, h4, h5, h6, h7, h8, h9⟩ := f.at_word 50 3 (by decide) (by decide) (0x600032 + f.bits) rfl
  refine ⟨?_, h9⟩
  rw [decode_major_50 h1]
  delta decodeMatrix
  rw [h2]
  exact congrArg (fun x => Except.ok (Instr.mgang x)) h3

theorem mbind (f : FmtX) : Statement (.mbind f) := by
  intro _ hw
  show decodeNat (0x33 + f.bits) = _ ∧ 0x33 + f.bits < _
  obtain ⟨h1, h2, h3, h4, h5, h6, h7, h8, h9⟩ := f.at_word 51 0 (by decide) (by decide) (0x33 + f.bits) rfl
  refine ⟨?_, h9⟩
  rw [decode_major_51 h1]
  replace hw : f.y.val < 8 := of_decide_eq_true hw
  delta decodeAccumulator
  rw [h2]
  show (if _ then _ else _) = _
  rw [if_pos (by omega)]
  rw [h3]

theorem mzero (f : FmtX) : Statement (.mzero f) := by
  intro _ hw
  show decodeNat (0x200033 + f.bits) = _ ∧ 0x200033 + f.bits < _
  obtain ⟨h1, h2, h3, h4, h5, h6, h7, h8, h9⟩ := f.at_word 51 1 (by decide) (by decide) (0x200033 + f.bits) rfl
  refine ⟨?_, h9⟩
  rw [decode_major_51 h1]
  delta decodeAccumulator
  rw [h2]
  exact congrArg (fun x => Except.ok (Instr.mzero x)) h3

theorem mdrain (f : FmtX) : Statement (.mdrain f) := by
  intro _ hw
  show decodeNat (0x400033 + f.bits) = _ ∧ 0x400033 + f.bits < _
  obtain ⟨h1, h2, h3, h4, h5, h6, h7, h8, h9⟩ := f.at_word 51 2 (by decide) (by decide) (0x400033 + f.bits) rfl
  refine ⟨?_, h9⟩
  rw [decode_major_51 h1]
  replace hw : f.fl.val % 4 ≠ 0 ∨ f.z.val < 8 :=
    ((Bool.or_eq_true _ _).mp hw).imp of_decide_eq_true of_decide_eq_true
  delta decodeAccumulator
  rw [h2]
  show (if _ then _ else _) = _
  rw [if_pos (by omega)]
  rw [h3]

theorem mchk (f : FmtX) : Statement (.mchk f) := by
  intro _ hw
  show decodeNat (0x600033 + f.bits) = _ ∧ 0x600033 + f.bits < _
  obtain ⟨h1, h2, h3, h4, h5, h6, h7, h8, h9⟩ := f.at_word 51 3 (by decide) (by decide) (0x600033 + f.bits) rfl
  refine ⟨?_, h9⟩
  rw [decode_major_51 h1]
  delta decodeAccumulator
  rw [h2]
  exact congrArg (fun x => Except.ok (Instr.mchk x)) h3

theorem mfix (f : FmtX) : Statement (.mfix f) := by
  intro _ hw
  show decodeNat (0x800033 + f.bits) = _ ∧ 0x800033 + f.bits < _
  obtain ⟨h1, h2, h3, h4, h5, h6, h7, h8, h9⟩ := f.at_word 51 4 (by decide) (by decide) (0x800033 + f.bits) rfl
  refine ⟨?_, h9⟩
  rw [decode_major_51 h1]
  delta decodeAccumulator
  rw [h2]
  exact congrArg (fun x => Except.ok (Instr.mfix x)) h3

theorem qcfg (f : FmtX) : Statement (.qcfg f) := by
  intro _ hw
  show decodeNat (0x34 + f.bits) = _ ∧ 0x34 + f.bits < _
  obtain ⟨h1, h2, h3, h4, h5, h6, h7, h8, h9⟩ := f.at_word 52 0 (by decide) (by decide) (0x34 + f.bits) rfl
  refine ⟨?_, h9⟩
  rw [decode_major_52 h1]
  replace hw : f.x.val < 8 := of_decide_eq_true hw
  delta decodeQueue
  rw [h2]
  show (if _ then _ else _) = _
  rw [if_pos (by omega)]
  rw [h3]

theorem qhead (f : FmtX) : Statement (.qhead f) := by
  intro _ hw
  show decodeNat (0x200034 + f.bits) = _ ∧ 0x200034 + f.bits < _
  obtain ⟨h1, h2, h3, h4, h5, h6, h7, h8, h9⟩ := f.at_word 52 1 (by decide) (by decide) (0x200034 + f.bits) rfl
  refine ⟨?_, h9⟩
  rw [decode_major_52 h1]
  replace hw : f.y.val < 8 := of_decide_eq_true hw
  delta decodeQueue
  rw [h2]
  show (if _ then _ else _) = _
  rw [if_pos (by omega)]
  rw [h3]

theorem qtail (f : FmtX) : Statement (.qtail f) := by
  intro _ hw
  show decodeNat (0x400034 + f.bits) = _ ∧ 0x400034 + f.bits < _
  obtain ⟨h1, h2, h3, h4, h5, h6, h7, h8, h9⟩ := f.at_word 52 2 (by decide) (by decide) (0x400034 + f.bits) rfl
  refine ⟨?_, h9⟩
  rw [decode_major_52 h1]
  replace hw : f.y.val < 8 := of_decide_eq_true hw
  delta decodeQueue
  rw [h2]
  show (if _ then _ else _) = _
  rw [if_pos (by omega)]
  rw [h3]

theorem qpop (f : FmtX) : Statement (.qpop f) := by
  intro _ hw
  show decodeNat (0x600034 + f.bits) = _ ∧ 0x600034 + f.bits < _
  obtain ⟨h1, h2, h3, h4, h5, h6, h7, h8, h9⟩ := f.at_word 52 3 (by decide) (by decide) (0x600034 + f.bits) rfl
  refine ⟨?_, h9⟩
  rw [decode_major_52 h1]
  replace hw : f.y.val < 8 := of_decide_eq_true hw
  delta decodeQueue
  rw [h2]
  show (if _ then _ else _) = _
  rw [if_pos (by omega)]
  rw [h3]

theorem qpush (f : FmtX) : Statement (.qpush f) := by
  intro _ hw
  show decodeNat (0x800034 + f.bits) = _ ∧ 0x800034 + f.bits < _
  obtain ⟨h1, h2, h3, h4, h5, h6, h7, h8, h9⟩ := f.at_word 52 4 (by decide) (by decide) (0x800034 + f.bits) rfl
  refine ⟨?_, h9⟩
  rw [decode_major_52 h1]
  replace hw : f.x.val < 8 := of_decide_eq_true hw
  delta decodeQueue
  rw [h2]
  show (if _ then _ else _) = _
  rw [if_pos (by omega)]
  rw [h3]

theorem binj (f : FmtX) : Statement (.binj f) := by
  intro _ hw
  show decodeNat (0x35 + f.bits) = _ ∧ 0x35 + f.bits < _
  obtain ⟨h1, h2, h3, h4, h5, h6, h7, h8, h9⟩ := f.at_word 53 0 (by decide) (by decide) (0x35 + f.bits) rfl
  refine ⟨?_, h9⟩
  rw [decode_major_53 h1]
  delta decodeBand
  rw [h2]
  exact congrArg (fun x => Except.ok (Instr.binj x)) h3

theorem bset (f : FmtX) : Statement (.bset f) := by
  intro _ hw
  show decodeNat (0x200035 + f.bits) = _ ∧ 0x200035 + f.bits < _
  obtain ⟨h1, h2, h3, h4, h5, h6, h7, h8, h9⟩ := f.at_word 53 1 (by decide) (by decide) (0x200035 + f.bits) rfl
  refine ⟨?_, h9⟩
  rw [decode_major_53 h1]
  delta decodeBand
  rw [h2]
  exact congrArg (fun x => Except.ok (Instr.bset x)) h3

theorem bclr (f : FmtX) : Statement (.bclr f) := by
  intro _ hw
  show decodeNat (0x400035 + f.bits) = _ ∧ 0x400035 + f.bits < _
  obtain ⟨h1, h2, h3, h4, h5, h6, h7, h8, h9⟩ := f.at_word 53 2 (by decide) (by decide) (0x400035 + f.bits) rfl
  refine ⟨?_, h9⟩
  rw [decode_major_53 h1]
  delta decodeBand
  rw [h2]
  exact congrArg (fun x => Except.ok (Instr.bclr x)) h3

theorem bmiss (f : FmtX) : Statement (.bmiss f) := by
  intro _ hw
  show decodeNat (0x600035 + f.bits) = _ ∧ 0x600035 + f.bits < _
  obtain ⟨h1, h2, h3, h4, h5, h6, h7, h8, h9⟩ := f.at_word 53 3 (by decide) (by decide) (0x600035 + f.bits) rfl
  refine ⟨?_, h9⟩
  rw [decode_major_53 h1]
  delta decodeBand
  rw [h2]
  exact congrArg (fun x => Except.ok (Instr.bmiss x)) h3

theorem bstat (f : FmtX) : Statement (.bstat f) := by
  intro _ hw
  show decodeNat (0x800035 + f.bits) = _ ∧ 0x800035 + f.bits < _
  obtain ⟨h1, h2, h3, h4, h5, h6, h7, h8, h9⟩ := f.at_word 53 4 (by decide) (by decide) (0x800035 + f.bits) rfl
  refine ⟨?_, h9⟩
  rw [decode_major_53 h1]
  delta decodeBand
  rw [h2]
  exact congrArg (fun x => Except.ok (Instr.bstat x)) h3

theorem pget (f : FmtX) : Statement (.pget f) := by
  intro _ hw
  show decodeNat (0x36 + f.bits) = _ ∧ 0x36 + f.bits < _
  obtain ⟨h1, h2, h3, h4, h5, h6, h7, h8, h9⟩ := f.at_word 54 0 (by decide) (by decide) (0x36 + f.bits) rfl
  refine ⟨?_, h9⟩
  rw [decode_major_54 h1]
  delta decodePair
  rw [h2]
  exact congrArg (fun x => Except.ok (Instr.pget x)) h3

theorem prel (f : FmtX) : Statement (.prel f) := by
  intro _ hw
  show decodeNat (0x200036 + f.bits) = _ ∧ 0x200036 + f.bits < _
  obtain ⟨h1, h2, h3, h4, h5, h6, h7, h8, h9⟩ := f.at_word 54 1 (by decide) (by decide) (0x200036 + f.bits) rfl
  refine ⟨?_, h9⟩
  rw [decode_major_54 h1]
  delta decodePair
  rw [h2]
  exact congrArg (fun x => Except.ok (Instr.prel x)) h3

theorem tld (f : FmtT) : Statement (.tld f) := by
  intro _ hw
  show decodeNat (0x38 + f.bits) = _ ∧ 0x38 + f.bits < _
  obtain ⟨h1, h2, h3, h4, h5⟩ := f.at_word 56 0 (by decide) (by decide) (0x38 + f.bits) rfl
  refine ⟨?_, h5⟩
  rw [decode_major_56 h1]
  replace hw : f.q.val < 8 := of_decide_eq_true hw
  rw [if_pos (by omega)]
  delta decodeTile
  rw [h2]
  exact congrArg (fun x => Except.ok (Instr.tld x)) h3

theorem tst (f : FmtT) : Statement (.tst f) := by
  intro _ hw
  show decodeNat (0x200038 + f.bits) = _ ∧ 0x200038 + f.bits < _
  obtain ⟨h1, h2, h3, h4, h5⟩ := f.at_word 56 1 (by decide) (by decide) (0x200038 + f.bits) rfl
  refine ⟨?_, h5⟩
  rw [decode_major_56 h1]
  replace hw : f.q.val < 8 := of_decide_eq_true hw
  rw [if_pos (by omega)]
  delta decodeTile
  rw [h2]
  exact congrArg (fun x => Except.ok (Instr.tst x)) h3

theorem ract (f : FmtT) : Statement (.ract f) := by
  intro _ hw
  show decodeNat (0x400038 + f.bits) = _ ∧ 0x400038 + f.bits < _
  obtain ⟨h1, h2, h3, h4, h5⟩ := f.at_word 56 2 (by decide) (by decide) (0x400038 + f.bits) rfl
  refine ⟨?_, h5⟩
  rw [decode_major_56 h1]
  replace hw : f.q.val < 8 := of_decide_eq_true hw
  rw [if_pos (by omega)]
  delta decodeTile
  rw [h2]
  exact congrArg (fun x => Except.ok (Instr.ract x)) h3

theorem rpre (f : FmtT) : Statement (.rpre f) := by
  intro _ hw
  show decodeNat (0x600038 + f.bits) = _ ∧ 0x600038 + f.bits < _
  obtain ⟨h1, h2, h3, h4, h5⟩ := f.at_word 56 3 (by decide) (by decide) (0x600038 + f.bits) rfl
  refine ⟨?_, h5⟩
  rw [decode_major_56 h1]
  replace hw : f.q.val < 8 := of_decide_eq_true hw
  rw [if_pos (by omega)]
  delta decodeTile
  rw [h2]
  exact congrArg (fun x => Except.ok (Instr.rpre x)) h3

theorem discard (f : FmtT) : Statement (.discard f) := by
  intro _ hw
  show decodeNat (0x800038 + f.bits) = _ ∧ 0x800038 + f.bits < _
  obtain ⟨h1, h2, h3, h4, h5⟩ := f.at_word 56 4 (by decide) (by decide) (0x800038 + f.bits) rfl
  refine ⟨?_, h5⟩
  rw [decode_major_56 h1]
  replace hw : f.q.val < 8 := of_decide_eq_true hw
  rw [if_pos (by omega)]
  delta decodeTile
  rw [h2]
  exact congrArg (fun x => Except.ok (Instr.discard x)) h3

theorem rcall (f : FmtRpc) : Statement (.rcall f) := by
  intro _ hw
  show decodeNat (0x39 + f.bits) = _ ∧ 0x39 + f.bits < _
  obtain ⟨h1, h2, h3, h4, h5, h6⟩ := f.at_word 57 0 (by decide) (by decide) (0x39 + f.bits) rfl
  refine ⟨?_, h6⟩
  rw [decode_major_57 h1]
  rw [if_pos (by omega)]
  delta decodeRpc
  rw [h2]
  exact congrArg (fun x => Except.ok (Instr.rcall x)) h3

theorem rcallp (f : FmtRpc) : Statement (.rcallp f) := by
  intro _ hw
  show decodeNat (0x800039 + f.bits) = _ ∧ 0x800039 + f.bits < _
  obtain ⟨h1, h2, h3, h4, h5, h6⟩ := f.at_word 57 1 (by decide) (by decide) (0x800039 + f.bits) rfl
  refine ⟨?_, h6⟩
  rw [decode_major_57 h1]
  rw [if_pos (by omega)]
  delta decodeRpc
  rw [h2]
  exact congrArg (fun x => Except.ok (Instr.rcallp x)) h3

theorem ecmd (f : FmtE) : Statement (.ecmd f) := by
  intro _ hw
  show decodeNat (0x3A + f.bits) = _ ∧ 0x3A + f.bits < _
  obtain ⟨h1, h2, h3, h4, h5, h6⟩ := f.at_word 58 0 (by decide) (by decide) (0x3A + f.bits) rfl
  refine ⟨?_, h6⟩
  rw [decode_major_58 h1]
  replace hw : f.engine.val < 96 ∨ f.engine.val = 127 := of_decide_eq_true hw
  rw [if_pos (by omega)]
  delta decodeEngine
  rw [h2]
  exact congrArg (fun x => Except.ok (Instr.ecmd x)) h3

theorem eqry (f : FmtE) : Statement (.eqry f) := by
  intro _ hw
  show decodeNat (0x80003A + f.bits) = _ ∧ 0x80003A + f.bits < _
  obtain ⟨h1, h2, h3, h4, h5, h6⟩ := f.at_word 58 1 (by decide) (by decide) (0x80003A + f.bits) rfl
  refine ⟨?_, h6⟩
  rw [decode_major_58 h1]
  replace hw : f.engine.val < 96 ∨ f.engine.val = 127 := of_decide_eq_true hw
  rw [if_pos (by omega)]
  delta decodeEngine
  rw [h2]
  exact congrArg (fun x => Except.ok (Instr.eqry x)) h3

theorem ecan (f : FmtE) : Statement (.ecan f) := by
  intro _ hw
  show decodeNat (0x100003A + f.bits) = _ ∧ 0x100003A + f.bits < _
  obtain ⟨h1, h2, h3, h4, h5, h6⟩ := f.at_word 58 2 (by decide) (by decide) (0x100003A + f.bits) rfl
  refine ⟨?_, h6⟩
  rw [decode_major_58 h1]
  replace hw : f.engine.val < 96 ∨ f.engine.val = 127 := of_decide_eq_true hw
  rw [if_pos (by omega)]
  delta decodeEngine
  rw [h2]
  exact congrArg (fun x => Except.ok (Instr.ecan x)) h3

theorem barr (f : FmtS) : Statement (.barr f) := by
  intro _ hw
  show decodeNat (0x3B + f.bits) = _ ∧ 0x3B + f.bits < _
  obtain ⟨h1, h2, h3, h4, h5⟩ := f.at_word 59 0 (by decide) (by decide) (0x3B + f.bits) rfl
  refine ⟨?_, h5⟩
  rw [decode_major_59 h1]
  rw [if_pos (by omega)]
  delta decodeSync
  rw [h2]
  exact congrArg (fun x => Except.ok (Instr.barr x)) h3

theorem bwait (f : FmtS) : Statement (.bwait f) := by
  intro _ hw
  show decodeNat (0x8003B + f.bits) = _ ∧ 0x8003B + f.bits < _
  obtain ⟨h1, h2, h3, h4, h5⟩ := f.at_word 59 1 (by decide) (by decide) (0x8003B + f.bits) rfl
  refine ⟨?_, h5⟩
  rw [decode_major_59 h1]
  rw [if_pos (by omega)]
  delta decodeSync
  rw [h2]
  exact congrArg (fun x => Except.ok (Instr.bwait x)) h3

theorem bmask (f : FmtS) : Statement (.bmask f) := by
  intro _ hw
  show decodeNat (0x10003B + f.bits) = _ ∧ 0x10003B + f.bits < _
  obtain ⟨h1, h2, h3, h4, h5⟩ := f.at_word 59 2 (by decide) (by decide) (0x10003B + f.bits) rfl
  refine ⟨?_, h5⟩
  rw [decode_major_59 h1]
  rw [if_pos (by omega)]
  delta decodeSync
  rw [h2]
  exact congrArg (fun x => Except.ok (Instr.bmask x)) h3

theorem prst (f : FmtS) : Statement (.prst f) := by
  intro _ hw
  show decodeNat (0x18003B + f.bits) = _ ∧ 0x18003B + f.bits < _
  obtain ⟨h1, h2, h3, h4, h5⟩ := f.at_word 59 3 (by decide) (by decide) (0x18003B + f.bits) rfl
  refine ⟨?_, h5⟩
  rw [decode_major_59 h1]
  rw [if_pos (by omega)]
  delta decodeSync
  rw [h2]
  exact congrArg (fun x => Except.ok (Instr.prst x)) h3

theorem pwait (f : FmtS) : Statement (.pwait f) := by
  intro _ hw
  show decodeNat (0x20003B + f.bits) = _ ∧ 0x20003B + f.bits < _
  obtain ⟨h1, h2, h3, h4, h5⟩ := f.at_word 59 4 (by decide) (by decide) (0x20003B + f.bits) rfl
  refine ⟨?_, h5⟩
  rw [decode_major_59 h1]
  rw [if_pos (by omega)]
  delta decodeSync
  rw [h2]
  exact congrArg (fun x => Except.ok (Instr.pwait x)) h3

theorem sstep (f : FmtS) : Statement (.sstep f) := by
  intro _ hw
  show decodeNat (0x28003B + f.bits) = _ ∧ 0x28003B + f.bits < _
  obtain ⟨h1, h2, h3, h4, h5⟩ := f.at_word 59 5 (by decide) (by decide) (0x28003B + f.bits) rfl
  refine ⟨?_, h5⟩
  rw [decode_major_59 h1]
  rw [if_pos (by omega)]
  delta decodeSync
  rw [h2]
  exact congrArg (fun x => Except.ok (Instr.sstep x)) h3

theorem monArm (f : FmtS) : Statement (.monArm f) := by
  intro _ hw
  show decodeNat (0x3C + f.bits) = _ ∧ 0x3C + f.bits < _
  obtain ⟨h1, h2, h3, h4, h5⟩ := f.at_word 60 0 (by decide) (by decide) (0x3C + f.bits) rfl
  refine ⟨?_, h5⟩
  rw [decode_major_60 h1]
  rw [if_pos (by omega)]
  delta decodeMonitor
  rw [h2]
  exact congrArg (fun x => Except.ok (Instr.monArm x)) h3

theorem monWait (f : FmtS) : Statement (.monWait f) := by
  intro _ hw
  show decodeNat (0x8003C + f.bits) = _ ∧ 0x8003C + f.bits < _
  obtain ⟨h1, h2, h3, h4, h5⟩ := f.at_word 60 1 (by decide) (by decide) (0x8003C + f.bits) rfl
  refine ⟨?_, h5⟩
  rw [decode_major_60 h1]
  rw [if_pos (by omega)]
  delta decodeMonitor
  rw [h2]
  exact congrArg (fun x => Except.ok (Instr.monWait x)) h3

theorem monWaitne (f : FmtS) : Statement (.monWaitne f) := by
  intro _ hw
  show decodeNat (0x10003C + f.bits) = _ ∧ 0x10003C + f.bits < _
  obtain ⟨h1, h2, h3, h4, h5⟩ := f.at_word 60 2 (by decide) (by decide) (0x10003C + f.bits) rfl
  refine ⟨?_, h5⟩
  rw [decode_major_60 h1]
  rw [if_pos (by omega)]
  delta decodeMonitor
  rw [h2]
  exact congrArg (fun x => Except.ok (Instr.monWaitne x)) h3

theorem mvp (f : FmtP) : Statement (.mvp f) := by
  intro _ hw
  show decodeNat (0x3D + f.bits) = _ ∧ 0x3D + f.bits < _
  obtain ⟨h1, h2, h3, h4⟩ := f.at_word 61 0 (by decide) (by decide) (0x3D + f.bits) rfl
  refine ⟨?_, h4⟩
  rw [decode_major_61 h1]
  delta decodeAgent
  rw [h2]
  exact congrArg (fun x => Except.ok (Instr.mvp x)) h3

theorem mvr (f : FmtP) : Statement (.mvr f) := by
  intro _ hw
  show decodeNat (0x8003D + f.bits) = _ ∧ 0x8003D + f.bits < _
  obtain ⟨h1, h2, h3, h4⟩ := f.at_word 61 1 (by decide) (by decide) (0x8003D + f.bits) rfl
  refine ⟨?_, h4⟩
  rw [decode_major_61 h1]
  delta decodeAgent
  rw [h2]
  exact congrArg (fun x => Except.ok (Instr.mvr x)) h3

theorem mvi (f : FmtP) : Statement (.mvi f) := by
  intro _ hw
  show decodeNat (0x10003D + f.bits) = _ ∧ 0x10003D + f.bits < _
  obtain ⟨h1, h2, h3, h4⟩ := f.at_word 61 2 (by decide) (by decide) (0x10003D + f.bits) rfl
  refine ⟨?_, h4⟩
  rw [decode_major_61 h1]
  delta decodeAgent
  rw [h2]
  exact congrArg (fun x => Except.ok (Instr.mvi x)) h3

theorem trig (f : FmtP) : Statement (.trig f) := by
  intro _ hw
  show decodeNat (0x18003D + f.bits) = _ ∧ 0x18003D + f.bits < _
  obtain ⟨h1, h2, h3, h4⟩ := f.at_word 61 3 (by decide) (by decide) (0x18003D + f.bits) rfl
  refine ⟨?_, h4⟩
  rw [decode_major_61 h1]
  delta decodeAgent
  rw [h2]
  exact congrArg (fun x => Except.ok (Instr.trig x)) h3

theorem abank (f : FmtP) : Statement (.abank f) := by
  intro _ hw
  show decodeNat (0x20003D + f.bits) = _ ∧ 0x20003D + f.bits < _
  obtain ⟨h1, h2, h3, h4⟩ := f.at_word 61 4 (by decide) (by decide) (0x20003D + f.bits) rfl
  refine ⟨?_, h4⟩
  rw [decode_major_61 h1]
  delta decodeAgent
  rw [h2]
  exact congrArg (fun x => Except.ok (Instr.abank x)) h3

theorem areply (f : FmtP) : Statement (.areply f) := by
  intro _ hw
  show decodeNat (0x28003D + f.bits) = _ ∧ 0x28003D + f.bits < _
  obtain ⟨h1, h2, h3, h4⟩ := f.at_word 61 5 (by decide) (by decide) (0x28003D + f.bits) rfl
  refine ⟨?_, h4⟩
  rw [decode_major_61 h1]
  delta decodeAgent
  rw [h2]
  exact congrArg (fun x => Except.ok (Instr.areply x)) h3

theorem anext (f : FmtP) : Statement (.anext f) := by
  intro _ hw
  show decodeNat (0x30003D + f.bits) = _ ∧ 0x30003D + f.bits < _
  obtain ⟨h1, h2, h3, h4⟩ := f.at_word 61 6 (by decide) (by decide) (0x30003D + f.bits) rfl
  refine ⟨?_, h4⟩
  rw [decode_major_61 h1]
  delta decodeAgent
  rw [h2]
  exact congrArg (fun x => Except.ok (Instr.anext x)) h3

theorem cmdCopy (e : Nat) : Statement (.cmdCopy e) := fun h => nomatch (show false = true from h)

theorem cmdCopy2d (e : Nat) : Statement (.cmdCopy2d e) := fun h => nomatch (show false = true from h)

theorem cmdGather (e : Nat) : Statement (.cmdGather e) := fun h => nomatch (show false = true from h)

theorem cmdScatter (e : Nat) : Statement (.cmdScatter e) := fun h => nomatch (show false = true from h)

theorem cmdFill (e : Nat) : Statement (.cmdFill e) := fun h => nomatch (show false = true from h)

theorem cmdCollectiveReduce (e : Nat) : Statement (.cmdCollectiveReduce e) := fun h => nomatch (show false = true from h)

theorem cmdPageMigrateMove (e : Nat) : Statement (.cmdPageMigrateMove e) := fun h => nomatch (show false = true from h)

theorem cmdPageMigrateShoot (e : Nat) : Statement (.cmdPageMigrateShoot e) := fun h => nomatch (show false = true from h)

theorem cmdBankMacLaunch (e : Nat) : Statement (.cmdBankMacLaunch e) := fun h => nomatch (show false = true from h)

theorem engineCommandActivate (e : Nat) : Statement (.engineCommandActivate e) := fun h => nomatch (show false = true from h)

theorem enginePage (e : Nat) : Statement (.enginePage e) := fun h => nomatch (show false = true from h)

theorem handlerRead (r : Nat) : Statement (.handlerRead r) := fun h => nomatch (show false = true from h)

theorem handlerWrite (r : Nat) : Statement (.handlerWrite r) := fun h => nomatch (show false = true from h)

theorem handlerElementAtomic (r : Nat) : Statement (.handlerElementAtomic r) := fun h => nomatch (show false = true from h)

theorem handlerTileRead (r : Nat) : Statement (.handlerTileRead r) := fun h => nomatch (show false = true from h)

theorem handlerTileWrite (r : Nat) : Statement (.handlerTileWrite r) := fun h => nomatch (show false = true from h)

theorem handlerTileAdd (r : Nat) : Statement (.handlerTileAdd r) := fun h => nomatch (show false = true from h)

theorem handlerVectorAdd (r : Nat) : Statement (.handlerVectorAdd r) := fun h => nomatch (show false = true from h)

theorem handlerHandOffPush (r : Nat) : Statement (.handlerHandOffPush r) := fun h => nomatch (show false = true from h)

theorem handlerHandOffPop (r : Nat) : Statement (.handlerHandOffPop r) := fun h => nomatch (show false = true from h)

theorem migrateOut (r : Nat) : Statement (.migrateOut r) := fun h => nomatch (show false = true from h)

theorem migrateIn (r : Nat) : Statement (.migrateIn r) := fun h => nomatch (show false = true from h)

theorem handlerRemoteMonitorArm (r : Nat) : Statement (.handlerRemoteMonitorArm r) := fun h => nomatch (show false = true from h)

theorem handlerReductionRecall (r : Nat) : Statement (.handlerReductionRecall r) := fun h => nomatch (show false = true from h)

theorem handlerBankMacLaunch (r : Nat) : Statement (.handlerBankMacLaunch r) := fun h => nomatch (show false = true from h)

theorem loadedHandler (r : Nat) : Statement (.loadedHandler r) := fun h => nomatch (show false = true from h)

theorem mgo (r : Nat) : Statement (.mgo r) := fun h => nomatch (show false = true from h)

theorem agCount (r : Nat) (g : Nat) (v : Word) : Statement (.agCount r g v) := fun h => nomatch (show false = true from h)

theorem mvGo (r : Nat) (v : Word) : Statement (.mvGo r v) := fun h => nomatch (show false = true from h)

theorem cmGo (r : Nat) : Statement (.cmGo r) := fun h => nomatch (show false = true from h)

theorem vDataRead (r : Nat) (d : Reg) : Statement (.vDataRead r d) := fun h => nomatch (show false = true from h)

theorem vDataWrite (r : Nat) (v : Word) : Statement (.vDataWrite r v) := fun h => nomatch (show false = true from h)

theorem bankMacProgramRun (r : Nat) : Statement (.bankMacProgramRun r) := fun h => nomatch (show false = true from h)

theorem bankMacComplete (r : Nat) : Statement (.bankMacComplete r) := fun h => nomatch (show false = true from h)

theorem bankLockExpiry (r : Nat) : Statement (.bankLockExpiry r) := fun h => nomatch (show false = true from h)

theorem issueArbitration (r : Nat) : Statement (.issueArbitration r) := fun h => nomatch (show false = true from h)

theorem priorityAging (r : Nat) (id : Word) : Statement (.priorityAging r id) := fun h => nomatch (show false = true from h)

theorem slotPlacement (r : Nat) (n : Nat) : Statement (.slotPlacement r n) := fun h => nomatch (show false = true from h)

theorem preEmption (r : Nat) (n : Nat) : Statement (.preEmption r n) := fun h => nomatch (show false = true from h)

theorem gangReservation (g : Nat) (b : Nat) : Statement (.gangReservation g b) := fun h => nomatch (show false = true from h)

theorem gangReservationTimeout (r : Nat) : Statement (.gangReservationTimeout r) := fun h => nomatch (show false = true from h)

theorem gangRelease (g : Nat) : Statement (.gangRelease g) := fun h => nomatch (show false = true from h)

theorem gangBmaskLoadTimeout (r : Nat) (g : Nat) : Statement (.gangBmaskLoadTimeout r g) := fun h => nomatch (show false = true from h)

theorem trapEntry (r : Nat) (n : Nat) (c : Cause) (v : Word) : Statement (.trapEntry r n c v) := fun h => nomatch (show false = true from h)

theorem interruptEntry (r : Nat) (n : Nat) : Statement (.interruptEntry r n) := fun h => nomatch (show false = true from h)

theorem wfiWake (r : Nat) (n : Nat) : Statement (.wfiWake r n) := fun h => nomatch (show false = true from h)

theorem taskWatchdogExpiry (r : Nat) (n : Nat) : Statement (.taskWatchdogExpiry r n) := fun h => nomatch (show false = true from h)

theorem taskFailureRemoval (r : Nat) (n : Nat) : Statement (.taskFailureRemoval r n) := fun h => nomatch (show false = true from h)

theorem tokenStatusWrite : Statement (.tokenStatusWrite) := fun h => nomatch (show false = true from h)

theorem statusUndeliverable : Statement (.statusUndeliverable) := fun h => nomatch (show false = true from h)

theorem spawnTopupAck (r : Nat) (n : Nat) : Statement (.spawnTopupAck r n) := fun h => nomatch (show false = true from h)

theorem topupMessage : Statement (.topupMessage) := fun h => nomatch (show false = true from h)

theorem weightReturn : Statement (.weightReturn) := fun h => nomatch (show false = true from h)

theorem joinSignal (j : Nat) : Statement (.joinSignal j) := fun h => nomatch (show false = true from h)

theorem joinFailure (j : Nat) (c : Cause) : Statement (.joinFailure j c) := fun h => nomatch (show false = true from h)

theorem dispatch (p : Nat) : Statement (.dispatch p) := fun h => nomatch (show false = true from h)

theorem lrec (port : Nat) (q : Nat) (off : Nat) (size : Nat) (rec : BitVec 512) : Statement (.lrec port q off size rec) := fun h => nomatch (show false = true from h)

theorem qctlResume (port : Nat) (q : Nat) : Statement (.qctlResume port q) := fun h => nomatch (show false = true from h)

theorem qctlFlush (port : Nat) (q : Nat) : Statement (.qctlFlush port q) := fun h => nomatch (show false = true from h)

theorem qctlClearDrops (port : Nat) (q : Nat) : Statement (.qctlClearDrops port q) := fun h => nomatch (show false = true from h)

theorem joinCounterWrite (port : Nat) (j : Nat) (v : Word) : Statement (.joinCounterWrite port j v) := fun h => nomatch (show false = true from h)

theorem hostDoorbell (port : Nat) (p : Nat) (v : Word) : Statement (.hostDoorbell port p v) := fun h => nomatch (show false = true from h)

theorem vaultWindowRead (port : Nat) (r : Nat) (off : Nat) : Statement (.vaultWindowRead port r off) := fun h => nomatch (show false = true from h)

theorem vaultWindowWrite (port : Nat) (r : Nat) (off : Nat) (v : Word) : Statement (.vaultWindowWrite port r off v) := fun h => nomatch (show false = true from h)

theorem ltolWrite (port : Nat) (p : Nat) (v : Word) : Statement (.ltolWrite port p v) := fun h => nomatch (show false = true from h)

theorem redundantCompare (l : Nat) : Statement (.redundantCompare l) := fun h => nomatch (show false = true from h)

theorem matrixOpStart (r : Nat) (m : Nat) : Statement (.matrixOpStart r m) := fun h => nomatch (show false = true from h)

theorem matrixOpComplete (r : Nat) (m : Nat) : Statement (.matrixOpComplete r m) := fun h => nomatch (show false = true from h)

theorem tileTransferTile (r : Nat) : Statement (.tileTransferTile r) := fun h => nomatch (show false = true from h)

theorem bankRefresh (r : Nat) (bank : Nat) : Statement (.bankRefresh r bank) := fun h => nomatch (show false = true from h)

theorem bankRefreshEnd (r : Nat) (bank : Nat) : Statement (.bankRefreshEnd r bank) := fun h => nomatch (show false = true from h)

theorem testerBurst (r : Nat) (bank : Nat) (row : Nat) (weak : Bool) : Statement (.testerBurst r bank row weak) := fun h => nomatch (show false = true from h)

theorem testerBurstAbort (r : Nat) : Statement (.testerBurstAbort r) := fun h => nomatch (show false = true from h)

theorem rowRepair (r : Nat) (row : Nat) : Statement (.rowRepair r row) := fun h => nomatch (show false = true from h)

theorem vaultThrottleChange (r : Nat) (lvl : Nat) : Statement (.vaultThrottleChange r lvl) := fun h => nomatch (show false = true from h)

theorem coreThrottleRaise (die : Nat) : Statement (.coreThrottleRaise die) := fun h => nomatch (show false = true from h)

theorem coreThrottleLower (die : Nat) : Statement (.coreThrottleLower die) := fun h => nomatch (show false = true from h)

theorem bandStep (b : Nat) : Statement (.bandStep b) := fun h => nomatch (show false = true from h)

theorem bandInjection (r : Nat) (fam : Family) : Statement (.bandInjection r fam) := fun h => nomatch (show false = true from h)

theorem injectionClaim (r : Nat) (fam : Family) : Statement (.injectionClaim r fam) := fun h => nomatch (show false = true from h)

theorem retireNotice : Statement (.retireNotice) := fun h => nomatch (show false = true from h)

theorem ejectionMessage : Statement (.ejectionMessage) := fun h => nomatch (show false = true from h)

theorem ejectionWriteComplete : Statement (.ejectionWriteComplete) := fun h => nomatch (show false = true from h)

theorem probeCircuit (r : Nat) (tag : Nat) : Statement (.probeCircuit r tag) := fun h => nomatch (show false = true from h)

theorem barrierPhaseComplete (r : Nat) (tag : Nat) : Statement (.barrierPhaseComplete r tag) := fun h => nomatch (show false = true from h)

theorem barrierWatchdogExpiry (r : Nat) (n : Nat) : Statement (.barrierWatchdogExpiry r n) := fun h => nomatch (show false = true from h)

theorem rollback (dom : Word) : Statement (.rollback dom) := fun h => nomatch (show false = true from h)

theorem monitorWake (r : Nat) (n : Nat) : Statement (.monitorWake r n) := fun h => nomatch (show false = true from h)

theorem monitorTimeout (r : Nat) (n : Nat) : Statement (.monitorTimeout r n) := fun h => nomatch (show false = true from h)

theorem netredRoundComplete (tree : Nat) : Statement (.netredRoundComplete tree) := fun h => nomatch (show false = true from h)

theorem reductionFlush (r : Nat) : Statement (.reductionFlush r) := fun h => nomatch (show false = true from h)

theorem reductionRecall (r : Nat) (granule : Nat) : Statement (.reductionRecall r granule) := fun h => nomatch (show false = true from h)

theorem pageWalk (r : Nat) (n : Nat) (ga : Ptr) (acc : Access) : Statement (.pageWalk r n ga acc) := fun h => nomatch (show false = true from h)

theorem setDirty (r : Nat) (off : Nat) : Statement (.setDirty r off) := fun h => nomatch (show false = true from h)

theorem faultResolve (p : Nat) (k : Nat) : Statement (.faultResolve p k) := fun h => nomatch (show false = true from h)

theorem shootdownReceipt (r : Nat) : Statement (.shootdownReceipt r) := fun h => nomatch (show false = true from h)

theorem shootdownAck (e : Nat) : Statement (.shootdownAck e) := fun h => nomatch (show false = true from h)

theorem redirectNotice (r : Nat) : Statement (.redirectNotice r) := fun h => nomatch (show false = true from h)

theorem discardAtHome : Statement (.discardAtHome) := fun h => nomatch (show false = true from h)

theorem srseedWrite (r : Nat) (n : Nat) (v : Word) : Statement (.srseedWrite r n v) := fun h => nomatch (show false = true from h)

theorem fpctlWrite (r : Nat) (n : Nat) (v : Word) : Statement (.fpctlWrite r n v) := fun h => nomatch (show false = true from h)

theorem bmaskWrite (r : Nat) (tag : Nat) (v : Word) : Statement (.bmaskWrite r tag v) := fun h => nomatch (show false = true from h)

theorem ptbaseWrite (r : Nat) (v : Word) : Statement (.ptbaseWrite r v) := fun h => nomatch (show false = true from h)

theorem errinjWrite (r : Nat) (n : Nat) (v : Word) : Statement (.errinjWrite r n v) := fun h => nomatch (show false = true from h)

theorem spkeyWrite (r : Nat) (v : Word) : Statement (.spkeyWrite r v) := fun h => nomatch (show false = true from h)

theorem hqgWrite (q : Nat) (v : Word) : Statement (.hqgWrite q v) := fun h => nomatch (show false = true from h)

theorem slotDoorbell (r : Nat) (n : Nat) (v : Word) : Statement (.slotDoorbell r n v) := fun h => nomatch (show false = true from h)

theorem registerWrite (r : Nat) (n : Nat) (num : Nat) (v : Word) : Statement (.registerWrite r n num v) := fun h => nomatch (show false = true from h)

theorem powerStateEntry (b : Nat) (lvl : Nat) : Statement (.powerStateEntry b lvl) := fun h => nomatch (show false = true from h)

theorem wakeEvent (b : Nat) : Statement (.wakeEvent b) := fun h => nomatch (show false = true from h)

theorem wakeComplete (b : Nat) : Statement (.wakeComplete b) := fun h => nomatch (show false = true from h)

theorem thermalHold (die : Nat) : Statement (.thermalHold die) := fun h => nomatch (show false = true from h)

theorem thermalHoldRelease (die : Nat) : Statement (.thermalHoldRelease die) := fun h => nomatch (show false = true from h)

theorem linkRateLower (l : Nat) : Statement (.linkRateLower l) := fun h => nomatch (show false = true from h)

theorem linkDown (l : Nat) : Statement (.linkDown l) := fun h => nomatch (show false = true from h)

theorem packageReset : Statement (.packageReset) := fun h => nomatch (show false = true from h)

theorem hostPortReset (port : Nat) : Statement (.hostPortReset port) := fun h => nomatch (show false = true from h)

theorem monitorBoot : Statement (.monitorBoot) := fun h => nomatch (show false = true from h)

theorem ucieTraining (absent : Nat) : Statement (.ucieTraining absent) := fun h => nomatch (show false = true from h)

theorem vaultTest (repairs : List (Nat × Nat × Nat)) : Statement (.vaultTest repairs) := fun h => nomatch (show false = true from h)

theorem cufflinkNegotiation (dev : Nat) (gens : List Nat) : Statement (.cufflinkNegotiation dev gens) := fun h => nomatch (show false = true from h)

theorem hostEnumeration : Statement (.hostEnumeration) := fun h => nomatch (show false = true from h)

theorem partitionCreation (spec : PartSpec) : Statement (.partitionCreation spec) := fun h => nomatch (show false = true from h)

theorem partitionRemoval (p : Nat) (bands : List Nat) : Statement (.partitionRemoval p bands) := fun h => nomatch (show false = true from h)

theorem outstandingInstructionComplete (r : Nat) (n : Nat) : Statement (.outstandingInstructionComplete r n) := fun h => nomatch (show false = true from h)

theorem illegalInstruction (w : BitVec 32) : Statement (.illegalInstruction w) := fun h => nomatch (show false = true from h)

theorem heldRequestResend (r : Nat) : Statement (.heldRequestResend r) := fun h => nomatch (show false = true from h)

theorem testerBurstEnd (r : Nat) : Statement (.testerBurstEnd r) := fun h => nomatch (show false = true from h)

theorem agentUnitComplete (r : Nat) (u : AgentUnit) : Statement (.agentUnitComplete r u) := fun h => nomatch (show false = true from h)

theorem linkRetrain (l : Nat) (rate : Nat) : Statement (.linkRetrain l rate) := fun h => nomatch (show false = true from h)

theorem hostPortTraining (port : Nat) (ver : Nat) : Statement (.hostPortTraining port ver) := fun h => nomatch (show false = true from h)

theorem secondTierPortDown (port : Nat) : Statement (.secondTierPortDown port) := fun h => nomatch (show false = true from h)

theorem secondTierPortUp (port : Nat) (ver : Nat) : Statement (.secondTierPortUp port ver) := fun h => nomatch (show false = true from h)

end Sys2Proof.Laws.Encoding
end

