-- ==== Sys2Proof/Tests/Slice0.lean ====
section
/-!
SUPPORT. Tests: ill-formed terms that the check refuses, words written out from the encoding tables, small steps with results
taken from the spec's text, and, for every statement with hypotheses, states and operands that meet them.
-/

namespace Sys2Proof.Tests

open Sys2Proof Sys2Proof.Machine Sys2Proof.Claims

set_option Elab.async false

/-! ### Words written out from the opcode table and the formats of R155: every constructor that has a word -/

theorem test_decode_registers_1 :
    decodeNat 0x90075601 = .ok (.add { d := 24, a := 10, b := 7, lk := 9 })
    ∧ decodeNat 0x90275601 = .ok (.sub { d := 24, a := 10, b := 7, lk := 9 })
    ∧ decodeNat 0x90475601 = .ok (.and { d := 24, a := 10, b := 7, lk := 9 })
    ∧ decodeNat 0x90675601 = .ok (.or { d := 24, a := 10, b := 7, lk := 9 })
    ∧ decodeNat 0x90875601 = .ok (.xor { d := 24, a := 10, b := 7, lk := 9 })
    ∧ decodeNat 0x90A75601 = .ok (.sll { d := 24, a := 10, b := 7, lk := 9 })
    ∧ decodeNat 0x90C75601 = .ok (.srl { d := 24, a := 10, b := 7, lk := 9 })
    ∧ decodeNat 0x90E75601 = .ok (.sra { d := 24, a := 10, b := 7, lk := 9 })
    ∧ decodeNat 0x91075601 = .ok (.slt { d := 24, a := 10, b := 7, lk := 9 })
    ∧ decodeNat 0x91275601 = .ok (.sltu { d := 24, a := 10, b := 7, lk := 9 })
    ∧ decodeNat 0x91475601 = .ok (.min { d := 24, a := 10, b := 7, lk := 9 })
    ∧ decodeNat 0x91675601 = .ok (.max { d := 24, a := 10, b := 7, lk := 9 })
    ∧ decodeNat 0x91875601 = .ok (.minu { d := 24, a := 10, b := 7, lk := 9 }) := by decide +kernel

theorem test_decode_registers_2 :
    decodeNat 0x91A75601 = .ok (.maxu { d := 24, a := 10, b := 7, lk := 9 })
    ∧ decodeNat 0x91C75601 = .ok (.mul { d := 24, a := 10, b := 7, lk := 9 })
    ∧ decodeNat 0x91E75601 = .ok (.mulh { d := 24, a := 10, b := 7, lk := 9 })
    ∧ decodeNat 0x92075601 = .ok (.mulhu { d := 24, a := 10, b := 7, lk := 9 })
    ∧ decodeNat 0x92275601 = .ok (.div { d := 24, a := 10, b := 7, lk := 9 })
    ∧ decodeNat 0x92475601 = .ok (.divu { d := 24, a := 10, b := 7, lk := 9 })
    ∧ decodeNat 0x92675601 = .ok (.rem { d := 24, a := 10, b := 7, lk := 9 })
    ∧ decodeNat 0x92875601 = .ok (.remu { d := 24, a := 10, b := 7, lk := 9 })
    ∧ decodeNat 0x92A75601 = .ok (.clz { d := 24, a := 10, b := 7, lk := 9 })
    ∧ decodeNat 0x92C75601 = .ok (.ctz { d := 24, a := 10, b := 7, lk := 9 })
    ∧ decodeNat 0x92E75601 = .ok (.popc { d := 24, a := 10, b := 7, lk := 9 })
    ∧ decodeNat 0x9007560D = .ok (.pmk { d := 24, a := 10, b := 7, lk := 9 })
    ∧ decodeNat 0x9027560D = .ok (.padd { d := 24, a := 10, b := 7, lk := 9 }) := by decide +kernel

theorem test_decode_registers_3 :
    decodeNat 0x9047560D = .ok (.ptag { d := 24, a := 10, b := 7, lk := 9 })
    ∧ decodeNat 0x9067560D = .ok (.pclr { d := 24, a := 10, b := 7, lk := 9 })
    ∧ decodeNat 0x9087560D = .ok (.prank { d := 24, a := 10, b := 7, lk := 9 })
    ∧ decodeNat 0x90A7560D = .ok (.pchk { d := 24, a := 10, b := 7, lk := 9 })
    ∧ decodeNat 0x9027561F = .ok (.tret { d := 24, a := 10, b := 7, lk := 9 })
    ∧ decodeNat 0x9047561F = .ok (.fence { d := 24, a := 10, b := 7, lk := 9 })
    ∧ decodeNat 0x9067561F = .ok (.ifence { d := 24, a := 10, b := 7, lk := 9 })
    ∧ decodeNat 0x9087561F = .ok (.spawn { d := 24, a := 10, b := 7, lk := 9 })
    ∧ decodeNat 0x90C7561F = .ok (.tend { d := 24, a := 10, b := 7, lk := 9 })
    ∧ decodeNat 0x90E7561F = .ok (.tyield { d := 24, a := 10, b := 7, lk := 9 })
    ∧ decodeNat 0x9107561F = .ok (.rdcyc { d := 24, a := 10, b := 7, lk := 9 })
    ∧ decodeNat 0x9127561F = .ok (.rank { d := 24, a := 10, b := 7, lk := 9 })
    ∧ decodeNat 0x9147561F = .ok (.wfi { d := 24, a := 10, b := 7, lk := 9 }) := by decide +kernel

theorem test_decode_immediates :
    decodeNat 0x80015602 = .ok (.addi { d := 24, a := 10, imm := 0x8001 })
    ∧ decodeNat 0x80015603 = .ok (.andi { d := 24, a := 10, imm := 0x8001 })
    ∧ decodeNat 0x80015604 = .ok (.ori { d := 24, a := 10, imm := 0x8001 })
    ∧ decodeNat 0x80015605 = .ok (.xori { d := 24, a := 10, imm := 0x8001 })
    ∧ decodeNat 0x80015606 = .ok (.slti { d := 24, a := 10, imm := 0x8001 })
    ∧ decodeNat 0x80015607 = .ok (.sltiu { d := 24, a := 10, imm := 0x8001 })
    ∧ decodeNat 0x8001560E = .ok (.paddi { d := 24, a := 10, imm := 0x8001 })
    ∧ decodeNat 0x8001561B = .ok (.jalr { d := 24, a := 10, imm := 0x8001 }) := by decide +kernel

theorem test_decode_upper :
    decodeNat 0x80000E08 = .ok (.lui { d := 24, imm := 0x100001 })
    ∧ decodeNat 0x80000E09 = .ok (.lsi { d := 24, imm := 0x100001 }) := by decide +kernel

theorem test_decode_shifts :
    decodeNat 0x0025560A = .ok (.slli { d := 24, a := 10, sh := 37 })
    ∧ decodeNat 0x0025560B = .ok (.srli { d := 24, a := 10, sh := 37 })
    ∧ decodeNat 0x0025560C = .ok (.srai { d := 24, a := 10, sh := 37 }) := by decide +kernel

theorem test_decode_fpu_1 :
    decodeNat 0x9807560F = .ok (.fadd { d := 24, a := 10, b := 7, fmt := 2, lk := 9 })
    ∧ decodeNat 0x9827560F = .ok (.fsub { d := 24, a := 10, b := 7, fmt := 2, lk := 9 })
    ∧ decodeNat 0x9847560F = .ok (.fmul { d := 24, a := 10, b := 7, fmt := 2, lk := 9 })
    ∧ decodeNat 0x9867560F = .ok (.fdiv { d := 24, a := 10, b := 7, fmt := 2, lk := 9 })
    ∧ decodeNat 0x9887560F = .ok (.fsqrt { d := 24, a := 10, b := 7, fmt := 2, lk := 9 })
    ∧ decodeNat 0x98A7560F = .ok (.fmin { d := 24, a := 10, b := 7, fmt := 2, lk := 9 })
    ∧ decodeNat 0x98C7560F = .ok (.fmax { d := 24, a := 10, b := 7, fmt := 2, lk := 9 })
    ∧ decodeNat 0x98E7560F = .ok (.fmadd { d := 24, a := 10, b := 7, fmt := 2, lk := 9 })
    ∧ decodeNat 0x9907560F = .ok (.fmsub { d := 24, a := 10, b := 7, fmt := 2, lk := 9 })
    ∧ decodeNat 0x9927560F = .ok (.feq { d := 24, a := 10, b := 7, fmt := 2, lk := 9 })
    ∧ decodeNat 0x9947560F = .ok (.flt { d := 24, a := 10, b := 7, fmt := 2, lk := 9 })
    ∧ decodeNat 0x9967560F = .ok (.fle { d := 24, a := 10, b := 7, fmt := 2, lk := 9 })
    ∧ decodeNat 0x9987560F = .ok (.fclass { d := 24, a := 10, b := 7, fmt := 2, lk := 9 }) := by decide +kernel

theorem test_decode_fpu_2 :
    decodeNat 0x99A7560F = .ok (.fcvtf { d := 24, a := 10, b := 7, fmt := 2, lk := 9 })
    ∧ decodeNat 0x99C7560F = .ok (.fcvtfi { d := 24, a := 10, b := 7, fmt := 2, lk := 9 })
    ∧ decodeNat 0x99E7560F = .ok (.fcvtif { d := 24, a := 10, b := 7, fmt := 2, lk := 9 })
    ∧ decodeNat 0x9A07560F = .ok (.fsgnj { d := 24, a := 10, b := 7, fmt := 2, lk := 9 })
    ∧ decodeNat 0x9A27560F = .ok (.fsgnjn { d := 24, a := 10, b := 7, fmt := 2, lk := 9 }) := by decide +kernel

theorem test_decode_memory :
    decodeNat 0x800C5610 = .ok (.ld { d := 24, a := 10, size := 4, sx := true, off := 0x800 })
    ∧ decodeNat 0x800C5611 = .ok (.st { d := 24, a := 10, size := 4, sx := true, off := 0x800 }) := by decide +kernel

theorem test_decode_atomics_1 :
    decodeNat 0x9A075612 = .ok (.amoSwap { d := 24, a := 10, b := 7, width := 1, ord := true, lk := 9 })
    ∧ decodeNat 0x9A275612 = .ok (.amoAdd { d := 24, a := 10, b := 7, width := 1, ord := true, lk := 9 })
    ∧ decodeNat 0x9A475612 = .ok (.amoAnd { d := 24, a := 10, b := 7, width := 1, ord := true, lk := 9 })
    ∧ decodeNat 0x9A675612 = .ok (.amoOr { d := 24, a := 10, b := 7, width := 1, ord := true, lk := 9 })
    ∧ decodeNat 0x9A875612 = .ok (.amoXor { d := 24, a := 10, b := 7, width := 1, ord := true, lk := 9 })
    ∧ decodeNat 0x9AA75612 = .ok (.amoSmin { d := 24, a := 10, b := 7, width := 1, ord := true, lk := 9 })
    ∧ decodeNat 0x9AC75612 = .ok (.amoSmax { d := 24, a := 10, b := 7, width := 1, ord := true, lk := 9 })
    ∧ decodeNat 0x9AE75612 = .ok (.amoUmin { d := 24, a := 10, b := 7, width := 1, ord := true, lk := 9 })
    ∧ decodeNat 0x9B075612 = .ok (.amoUmax { d := 24, a := 10, b := 7, width := 1, ord := true, lk := 9 })
    ∧ decodeNat 0x9B275612 = .ok (.amoCas { d := 24, a := 10, b := 7, width := 1, ord := true, lk := 9 })
    ∧ decodeNat 0x9B475612 = .ok (.amoFadd { d := 24, a := 10, b := 7, width := 1, ord := true, lk := 9 })
    ∧ decodeNat 0x9B675612 = .ok (.amoFmin { d := 24, a := 10, b := 7, width := 1, ord := true, lk := 9 })
    ∧ decodeNat 0x9B875612 = .ok (.amoFmax { d := 24, a := 10, b := 7, width := 1, ord := true, lk := 9 }) := by decide +kernel

theorem test_decode_atomics_2 :
    decodeNat 0x9A075613 = .ok (.redAdd { d := 24, a := 10, b := 7, width := 1, ord := true, lk := 9 })
    ∧ decodeNat 0x9A275613 = .ok (.redFadd { d := 24, a := 10, b := 7, width := 1, ord := true, lk := 9 })
    ∧ decodeNat 0x9A475613 = .ok (.redSmin { d := 24, a := 10, b := 7, width := 1, ord := true, lk := 9 })
    ∧ decodeNat 0x9A675613 = .ok (.redSmax { d := 24, a := 10, b := 7, width := 1, ord := true, lk := 9 })
    ∧ decodeNat 0x9A875613 = .ok (.redFmin { d := 24, a := 10, b := 7, width := 1, ord := true, lk := 9 })
    ∧ decodeNat 0x9AA75613 = .ok (.redFmax { d := 24, a := 10, b := 7, width := 1, ord := true, lk := 9 }) := by decide +kernel

theorem test_decode_branches :
    decodeNat 0xFFFE3A94 = .ok (.beq { a := 10, b := 7, off := 0xFFFE })
    ∧ decodeNat 0xFFFE3A95 = .ok (.bne { a := 10, b := 7, off := 0xFFFE })
    ∧ decodeNat 0xFFFE3A96 = .ok (.blt { a := 10, b := 7, off := 0xFFFE })
    ∧ decodeNat 0xFFFE3A97 = .ok (.bge { a := 10, b := 7, off := 0xFFFE })
    ∧ decodeNat 0xFFFE3A98 = .ok (.bltu { a := 10, b := 7, off := 0xFFFE })
    ∧ decodeNat 0xFFFE3A99 = .ok (.bgeu { a := 10, b := 7, off := 0xFFFE }) := by decide +kernel

theorem test_decode_jal :
    decodeNat 0xFFFFFE1A = .ok (.jal { d := 24, off := 0x1FFFFF }) := by decide +kernel

theorem test_decode_control_registers :
    decodeNat 0x0107561C = .ok (.crrd { d := 24, a := 10, num := 0x107 })
    ∧ decodeNat 0x0107561D = .ok (.crwr { d := 24, a := 10, num := 0x107 })
    ∧ decodeNat 0x0107561E = .ok (.crxch { d := 24, a := 10, num := 0x107 }) := by decide +kernel

theorem test_decode_trap :
    decodeNat 0x9015281F = .ok (.trap { n := 0x2A5, lk := 9 })
    ∧ decodeNat 0x9015285F = .ok (.trapBrk { n := 0x2A5, lk := 9 }) := by decide +kernel

theorem test_decode_park :
    decodeNat 0x90A0561F = .ok (.park { d := 24, a := 10, lk := 9 })
    ∧ decodeNat 0x90A1561F = .ok (.parkMig { d := 24, a := 10, lk := 9 }) := by decide +kernel

theorem test_decode_vectors_1 :
    decodeNat 0x60BE88E0 = .ok (.vadd { vd := 3, va := 17, vb := 30, et := 5, msk := 2, md := 1 })
    ∧ decodeNat 0x62BE88E0 = .ok (.vsub { vd := 3, va := 17, vb := 30, et := 5, msk := 2, md := 1 })
    ∧ decodeNat 0x64BE88E0 = .ok (.vmul { vd := 3, va := 17, vb := 30, et := 5, msk := 2, md := 1 })
    ∧ decodeNat 0x66BE88E0 = .ok (.vmin { vd := 3, va := 17, vb := 30, et := 5, msk := 2, md := 1 })
    ∧ decodeNat 0x68BE88E0 = .ok (.vmax { vd := 3, va := 17, vb := 30, et := 5, msk := 2, md := 1 })
    ∧ decodeNat 0x6ABE88E0 = .ok (.vabs { vd := 3, va := 17, vb := 30, et := 5, msk := 2, md := 1 })
    ∧ decodeNat 0x6CBE88E0 = .ok (.vneg { vd := 3, va := 17, vb := 30, et := 5, msk := 2, md := 1 })
    ∧ decodeNat 0x6EBE88E0 = .ok (.vsgnj { vd := 3, va := 17, vb := 30, et := 5, msk := 2, md := 1 })
    ∧ decodeNat 0x60BE88E1 = .ok (.vfma { vd := 3, va := 17, vb := 30, et := 5, msk := 2, md := 1 })
    ∧ decodeNat 0x62BE88E1 = .ok (.vfms { vd := 3, va := 17, vb := 30, et := 5, msk := 2, md := 1 })
    ∧ decodeNat 0x64BE88E1 = .ok (.vfnma { vd := 3, va := 17, vb := 30, et := 5, msk := 2, md := 1 })
    ∧ decodeNat 0x66BE88E1 = .ok (.vwmul { vd := 3, va := 17, vb := 30, et := 5, msk := 2, md := 1 })
    ∧ decodeNat 0x68BE88E1 = .ok (.vwfma { vd := 3, va := 17, vb := 30, et := 5, msk := 2, md := 1 }) := by decide +kernel

theorem test_decode_vectors_2 :
    decodeNat 0x6ABE88E1 = .ok (.vqfma { vd := 3, va := 17, vb := 30, et := 5, msk := 2, md := 1 })
    ∧ decodeNat 0x6CBE88E1 = .ok (.vdot2 { vd := 3, va := 17, vb := 30, et := 5, msk := 2, md := 1 })
    ∧ decodeNat 0x6EBE88E1 = .ok (.vdot4 { vd := 3, va := 17, vb := 30, et := 5, msk := 2, md := 1 })
    ∧ decodeNat 0x60BE88E2 = .ok (.vand { vd := 3, va := 17, vb := 30, et := 5, msk := 2, md := 1 })
    ∧ decodeNat 0x62BE88E2 = .ok (.vor { vd := 3, va := 17, vb := 30, et := 5, msk := 2, md := 1 })
    ∧ decodeNat 0x64BE88E2 = .ok (.vxor { vd := 3, va := 17, vb := 30, et := 5, msk := 2, md := 1 })
    ∧ decodeNat 0x66BE88E2 = .ok (.vsll { vd := 3, va := 17, vb := 30, et := 5, msk := 2, md := 1 })
    ∧ decodeNat 0x68BE88E2 = .ok (.vsrl { vd := 3, va := 17, vb := 30, et := 5, msk := 2, md := 1 })
    ∧ decodeNat 0x6ABE88E2 = .ok (.vsra { vd := 3, va := 17, vb := 30, et := 5, msk := 2, md := 1 })
    ∧ decodeNat 0x6CBE88E2 = .ok (.vadds { vd := 3, va := 17, vb := 30, et := 5, msk := 2, md := 1 })
    ∧ decodeNat 0x6EBE88E2 = .ok (.vsubs { vd := 3, va := 17, vb := 30, et := 5, msk := 2, md := 1 })
    ∧ decodeNat 0x60BE88E3 = .ok (.veq { vd := 3, va := 17, vb := 30, et := 5, msk := 2, md := 1 })
    ∧ decodeNat 0x62BE88E3 = .ok (.vne { vd := 3, va := 17, vb := 30, et := 5, msk := 2, md := 1 }) := by decide +kernel

theorem test_decode_vectors_3 :
    decodeNat 0x64BE88E3 = .ok (.vlt { vd := 3, va := 17, vb := 30, et := 5, msk := 2, md := 1 })
    ∧ decodeNat 0x66BE88E3 = .ok (.vle { vd := 3, va := 17, vb := 30, et := 5, msk := 2, md := 1 })
    ∧ decodeNat 0x68BE88E3 = .ok (.vunord { vd := 3, va := 17, vb := 30, et := 5, msk := 2, md := 1 })
    ∧ decodeNat 0x6ABE88E3 = .ok (.vclass { vd := 3, va := 17, vb := 30, et := 5, msk := 2, md := 1 })
    ∧ decodeNat 0x60BE88E4 = .ok (.vsel { vd := 3, va := 17, vb := 30, et := 5, msk := 2, md := 1 })
    ∧ decodeNat 0x62BE88E4 = .ok (.mand { vd := 3, va := 17, vb := 30, et := 5, msk := 2, md := 1 })
    ∧ decodeNat 0x64BE88E4 = .ok (.mor { vd := 3, va := 17, vb := 30, et := 5, msk := 2, md := 1 })
    ∧ decodeNat 0x66BE88E4 = .ok (.mxor { vd := 3, va := 17, vb := 30, et := 5, msk := 2, md := 1 })
    ∧ decodeNat 0x68BE88E4 = .ok (.mnot { vd := 3, va := 17, vb := 30, et := 5, msk := 2, md := 1 })
    ∧ decodeNat 0x6ABE88E4 = .ok (.mpopc { vd := 3, va := 17, vb := 30, et := 5, msk := 2, md := 1 })
    ∧ decodeNat 0x6CBE88E4 = .ok (.mfirst { vd := 3, va := 17, vb := 30, et := 5, msk := 2, md := 1 })
    ∧ decodeNat 0x60BE88E8 = .ok (.vperm { vd := 3, va := 17, vb := 30, et := 5, msk := 2, md := 1 })
    ∧ decodeNat 0x62BE88E8 = .ok (.vslup { vd := 3, va := 17, vb := 30, et := 5, msk := 2, md := 1 }) := by decide +kernel

theorem test_decode_vectors_4 :
    decodeNat 0x64BE88E8 = .ok (.vsldn { vd := 3, va := 17, vb := 30, et := 5, msk := 2, md := 1 })
    ∧ decodeNat 0x66BE88E8 = .ok (.vbcast { vd := 3, va := 17, vb := 30, et := 5, msk := 2, md := 1 })
    ∧ decodeNat 0x68BE88E8 = .ok (.vcmprs { vd := 3, va := 17, vb := 30, et := 5, msk := 2, md := 1 })
    ∧ decodeNat 0x6ABE88E8 = .ok (.vexpnd { vd := 3, va := 17, vb := 30, et := 5, msk := 2, md := 1 })
    ∧ decodeNat 0x6CBE88E8 = .ok (.vzip { vd := 3, va := 17, vb := 30, et := 5, msk := 2, md := 1 })
    ∧ decodeNat 0x6EBE88E8 = .ok (.vunzip { vd := 3, va := 17, vb := 30, et := 5, msk := 2, md := 1 })
    ∧ decodeNat 0x60BE88ED = .ok (.vsplat { vd := 3, va := 17, vb := 30, et := 5, msk := 2, md := 1 })
    ∧ decodeNat 0x62BE88ED = .ok (.vgetel { vd := 3, va := 17, vb := 30, et := 5, msk := 2, md := 1 })
    ∧ decodeNat 0x64BE88ED = .ok (.vsetel { vd := 3, va := 17, vb := 30, et := 5, msk := 2, md := 1 })
    ∧ decodeNat 0x66BE88ED = .ok (.vid { vd := 3, va := 17, vb := 30, et := 5, msk := 2, md := 1 })
    ∧ decodeNat 0x68BE88ED = .ok (.m2v { vd := 3, va := 17, vb := 30, et := 5, msk := 2, md := 1 })
    ∧ decodeNat 0x6ABE88ED = .ok (.v2m { vd := 3, va := 17, vb := 30, et := 5, msk := 2, md := 1 }) := by decide +kernel

theorem test_decode_vcvt :
    decodeNat 0x6CB988E5 = .ok (.vcvt { vd := 3, va := 17, det := 9, sat := true, et := 5, rm := 6, msk := 2, md := 1 }) := by decide +kernel

theorem test_decode_long_vectors_1 :
    decodeNat 0x90BE88E6 = .ok (.vqnt { vd := 3, va := 17, vb := 30, et := 5, lk := 9 })
    ∧ decodeNat 0x92BE88E6 = .ok (.vdqnt { vd := 3, va := 17, vb := 30, et := 5, lk := 9 })
    ∧ decodeNat 0x94BE88E6 = .ok (.vcbdec { vd := 3, va := 17, vb := 30, et := 5, lk := 9 })
    ∧ decodeNat 0x90BE88E7 = .ok (.vexp2 { vd := 3, va := 17, vb := 30, et := 5, lk := 9 })
    ∧ decodeNat 0x92BE88E7 = .ok (.vlog2 { vd := 3, va := 17, vb := 30, et := 5, lk := 9 })
    ∧ decodeNat 0x94BE88E7 = .ok (.vrcp { vd := 3, va := 17, vb := 30, et := 5, lk := 9 })
    ∧ decodeNat 0x96BE88E7 = .ok (.vrsqrt { vd := 3, va := 17, vb := 30, et := 5, lk := 9 })
    ∧ decodeNat 0x98BE88E7 = .ok (.vsqrt { vd := 3, va := 17, vb := 30, et := 5, lk := 9 })
    ∧ decodeNat 0x9ABE88E7 = .ok (.vdiv { vd := 3, va := 17, vb := 30, et := 5, lk := 9 })
    ∧ decodeNat 0x9CBE88E7 = .ok (.vsinpi { vd := 3, va := 17, vb := 30, et := 5, lk := 9 })
    ∧ decodeNat 0x9EBE88E7 = .ok (.vtanh { vd := 3, va := 17, vb := 30, et := 5, lk := 9 })
    ∧ decodeNat 0x90BE88E9 = .ok (.vrsum { vd := 3, va := 17, vb := 30, et := 5, lk := 9 })
    ∧ decodeNat 0x92BE88E9 = .ok (.vrmin { vd := 3, va := 17, vb := 30, et := 5, lk := 9 }) := by decide +kernel

theorem test_decode_long_vectors_2 :
    decodeNat 0x94BE88E9 = .ok (.vrmax { vd := 3, va := 17, vb := 30, et := 5, lk := 9 })
    ∧ decodeNat 0x96BE88E9 = .ok (.vscan { vd := 3, va := 17, vb := 30, et := 5, lk := 9 })
    ∧ decodeNat 0x90BE88EB = .ok (.vld { vd := 3, va := 17, vb := 30, et := 5, lk := 9 })
    ∧ decodeNat 0x92BE88EB = .ok (.vlds { vd := 3, va := 17, vb := 30, et := 5, lk := 9 })
    ∧ decodeNat 0x94BE88EB = .ok (.vldx { vd := 3, va := 17, vb := 30, et := 5, lk := 9 })
    ∧ decodeNat 0x90BE88EC = .ok (.vst { vd := 3, va := 17, vb := 30, et := 5, lk := 9 })
    ∧ decodeNat 0x92BE88EC = .ok (.vsts { vd := 3, va := 17, vb := 30, et := 5, lk := 9 })
    ∧ decodeNat 0x94BE88EC = .ok (.vstx { vd := 3, va := 17, vb := 30, et := 5, lk := 9 }) := by decide +kernel

theorem test_decode_network :
    decodeNat 0x90A688EA = .ok (.netred { vd := 3, va := 17, tree := 2, op := 1, et := 5, lk := 9 })
    ∧ decodeNat 0x92A688EA = .ok (.netbc { vd := 3, va := 17, tree := 2, op := 1, et := 5, lk := 9 }) := by decide +kernel

theorem test_decode_matrix_and_band_1 :
    decodeNat 0x910329B0 = .ok (.tdef { x := 6, y := 5, z := 3, fl := 1, lk := 9 })
    ∧ decodeNat 0x912329B0 = .ok (.tinv { x := 6, y := 5, z := 3, fl := 1, lk := 9 })
    ∧ decodeNat 0x914329B0 = .ok (.tqry { x := 6, y := 5, z := 3, fl := 1, lk := 9 })
    ∧ decodeNat 0x910329B1 = .ok (.mstat { x := 6, y := 5, z := 3, fl := 1, lk := 9 })
    ∧ decodeNat 0x912329B1 = .ok (.munst { x := 6, y := 5, z := 3, fl := 1, lk := 9 })
    ∧ decodeNat 0x914329B1 = .ok (.mwr { x := 6, y := 5, z := 3, fl := 1, lk := 9 })
    ∧ decodeNat 0x916329B1 = .ok (.mrd { x := 6, y := 5, z := 3, fl := 1, lk := 9 })
    ∧ decodeNat 0x910329B2 = .ok (.mmac { x := 6, y := 5, z := 3, fl := 1, lk := 9 })
    ∧ decodeNat 0x912329B2 = .ok (.mmul { x := 6, y := 5, z := 3, fl := 1, lk := 9 })
    ∧ decodeNat 0x914329B2 = .ok (.mmacSp { x := 6, y := 5, z := 3, fl := 1, lk := 9 })
    ∧ decodeNat 0x916329B2 = .ok (.mgang { x := 6, y := 5, z := 3, fl := 1, lk := 9 })
    ∧ decodeNat 0x910329B3 = .ok (.mbind { x := 6, y := 5, z := 3, fl := 1, lk := 9 })
    ∧ decodeNat 0x912329B3 = .ok (.mzero { x := 6, y := 5, z := 3, fl := 1, lk := 9 }) := by decide +kernel

theorem test_decode_matrix_and_band_2 :
    decodeNat 0x914329B3 = .ok (.mdrain { x := 6, y := 5, z := 3, fl := 1, lk := 9 })
    ∧ decodeNat 0x916329B3 = .ok (.mchk { x := 6, y := 5, z := 3, fl := 1, lk := 9 })
    ∧ decodeNat 0x918329B3 = .ok (.mfix { x := 6, y := 5, z := 3, fl := 1, lk := 9 })
    ∧ decodeNat 0x910329B4 = .ok (.qcfg { x := 6, y := 5, z := 3, fl := 1, lk := 9 })
    ∧ decodeNat 0x912329B4 = .ok (.qhead { x := 6, y := 5, z := 3, fl := 1, lk := 9 })
    ∧ decodeNat 0x914329B4 = .ok (.qtail { x := 6, y := 5, z := 3, fl := 1, lk := 9 })
    ∧ decodeNat 0x916329B4 = .ok (.qpop { x := 6, y := 5, z := 3, fl := 1, lk := 9 })
    ∧ decodeNat 0x918329B4 = .ok (.qpush { x := 6, y := 5, z := 3, fl := 1, lk := 9 })
    ∧ decodeNat 0x910329B5 = .ok (.binj { x := 6, y := 5, z := 3, fl := 1, lk := 9 })
    ∧ decodeNat 0x912329B5 = .ok (.bset { x := 6, y := 5, z := 3, fl := 1, lk := 9 })
    ∧ decodeNat 0x914329B5 = .ok (.bclr { x := 6, y := 5, z := 3, fl := 1, lk := 9 })
    ∧ decodeNat 0x916329B5 = .ok (.bmiss { x := 6, y := 5, z := 3, fl := 1, lk := 9 })
    ∧ decodeNat 0x918329B5 = .ok (.bstat { x := 6, y := 5, z := 3, fl := 1, lk := 9 }) := by decide +kernel

theorem test_decode_matrix_and_band_3 :
    decodeNat 0x910329B6 = .ok (.pget { x := 6, y := 5, z := 3, fl := 1, lk := 9 })
    ∧ decodeNat 0x912329B6 = .ok (.prel { x := 6, y := 5, z := 3, fl := 1, lk := 9 }) := by decide +kernel

theorem test_decode_tiles :
    decodeNat 0x9E095178 = .ok (.tld { q := 5, a := 10, t := 9, cnt := 14, lk := 9 })
    ∧ decodeNat 0x9E295178 = .ok (.tst { q := 5, a := 10, t := 9, cnt := 14, lk := 9 })
    ∧ decodeNat 0x9E495178 = .ok (.ract { q := 5, a := 10, t := 9, cnt := 14, lk := 9 })
    ∧ decodeNat 0x9E695178 = .ok (.rpre { q := 5, a := 10, t := 9, cnt := 14, lk := 9 })
    ∧ decodeNat 0x9E895178 = .ok (.discard { q := 5, a := 10, t := 9, cnt := 14, lk := 9 }) := by decide +kernel

theorem test_decode_rpc :
    decodeNat 0x90005279 = .ok (.rcall { t := 9, a := 10, lk := 9 })
    ∧ decodeNat 0x90805279 = .ok (.rcallp { t := 9, a := 10, lk := 9 }) := by decide +kernel

theorem test_decode_engines :
    decodeNat 0x905F527A = .ok (.ecmd { t := 9, a := 10, engine := 95, lk := 9 })
    ∧ decodeNat 0x90DF527A = .ok (.eqry { t := 9, a := 10, engine := 95, lk := 9 })
    ∧ decodeNat 0x915F527A = .ok (.ecan { t := 9, a := 10, engine := 95, lk := 9 }) := by decide +kernel

theorem test_decode_sync :
    decodeNat 0x00C5563B = .ok (.barr { d := 24, a := 10, tag := 5, scope := 3 })
    ∧ decodeNat 0x00CD563B = .ok (.bwait { d := 24, a := 10, tag := 5, scope := 3 })
    ∧ decodeNat 0x00D5563B = .ok (.bmask { d := 24, a := 10, tag := 5, scope := 3 })
    ∧ decodeNat 0x00DD563B = .ok (.prst { d := 24, a := 10, tag := 5, scope := 3 })
    ∧ decodeNat 0x00E5563B = .ok (.pwait { d := 24, a := 10, tag := 5, scope := 3 })
    ∧ decodeNat 0x00ED563B = .ok (.sstep { d := 24, a := 10, tag := 5, scope := 3 })
    ∧ decodeNat 0x00C5563C = .ok (.monArm { d := 24, a := 10, tag := 5, scope := 3 })
    ∧ decodeNat 0x00CD563C = .ok (.monWait { d := 24, a := 10, tag := 5, scope := 3 })
    ∧ decodeNat 0x00D5563C = .ok (.monWaitne { d := 24, a := 10, tag := 5, scope := 3 }) := by decide +kernel

theorem test_decode_agent :
    decodeNat 0xB0451D7D = .ok (.mvp { reg := 21, port := 163, imm := 0x2C1 })
    ∧ decodeNat 0xB04D1D7D = .ok (.mvr { reg := 21, port := 163, imm := 0x2C1 })
    ∧ decodeNat 0xB0551D7D = .ok (.mvi { reg := 21, port := 163, imm := 0x2C1 })
    ∧ decodeNat 0xB05D1D7D = .ok (.trig { reg := 21, port := 163, imm := 0x2C1 })
    ∧ decodeNat 0xB0651D7D = .ok (.abank { reg := 21, port := 163, imm := 0x2C1 })
    ∧ decodeNat 0xB06D1D7D = .ok (.areply { reg := 21, port := 163, imm := 0x2C1 })
    ∧ decodeNat 0xB0751D7D = .ok (.anext { reg := 21, port := 163, imm := 0x2C1 }) := by decide +kernel

/-! ### Ill-formed terms, one for each check of `WellFormed` -/

theorem test_ill_formed_sizes_refused :
    WellFormed (.ld { d := 1, a := 2, size := 5, sx := false, off := 0 }) = false
    ∧ WellFormed (.st { d := 1, a := 2, size := 7, sx := false, off := 0 }) = false
    ∧ WellFormed (.amoSwap { d := 1, a := 2, b := 3, width := 2, ord := false, lk := 0 }) = false
    ∧ WellFormed (.redFmax { d := 1, a := 2, b := 3, width := 3, ord := true, lk := 0 }) = false := by decide +kernel

theorem test_ill_formed_queues_refused :
    WellFormed (.mwr { x := 0, y := 0, z := 8, fl := 0, lk := 0 }) = false
    ∧ WellFormed (.mrd { x := 0, y := 0, z := 31, fl := 2, lk := 0 }) = false
    ∧ WellFormed (.mwr { x := 0, y := 0, z := 8, fl := 1, lk := 0 }) = true
    ∧ WellFormed (.mbind { x := 0, y := 8, z := 0, fl := 0, lk := 0 }) = false
    ∧ WellFormed (.mdrain { x := 0, y := 0, z := 9, fl := 0, lk := 0 }) = false
    ∧ WellFormed (.mdrain { x := 0, y := 0, z := 9, fl := 1, lk := 0 }) = true
    ∧ WellFormed (.qcfg { x := 8, y := 0, z := 0, fl := 0, lk := 0 }) = false
    ∧ WellFormed (.qhead { x := 0, y := 8, z := 0, fl := 0, lk := 0 }) = false
    ∧ WellFormed (.qtail { x := 0, y := 16, z := 0, fl := 0, lk := 0 }) = false
    ∧ WellFormed (.qpop { x := 0, y := 24, z := 0, fl := 0, lk := 0 }) = false
    ∧ WellFormed (.qpush { x := 9, y := 0, z := 0, fl := 0, lk := 0 }) = false
    ∧ WellFormed (.tld { q := 8, a := 0, t := 0, cnt := 0, lk := 0 }) = false
    ∧ WellFormed (.discard { q := 31, a := 0, t := 0, cnt := 0, lk := 0 }) = false := by decide +kernel

theorem test_ill_formed_engines_refused :
    WellFormed (.ecmd { t := 1, a := 2, engine := 96, lk := 0 }) = false
    ∧ WellFormed (.eqry { t := 1, a := 2, engine := 126, lk := 0 }) = false
    ∧ WellFormed (.ecan { t := 1, a := 2, engine := 127, lk := 0 }) = true
    ∧ WellFormed (.cmdCopy 96) = false ∧ WellFormed (.enginePage 96) = false
    ∧ WellFormed (.shootdownAck 96) = false := by decide +kernel

theorem test_ill_formed_places_refused :
    WellFormed (.handlerRead 65536) = false ∧ WellFormed (.slotPlacement 0 4) = false
    ∧ WellFormed (.preEmption 65536 0) = false ∧ WellFormed (.gangReservation 0 64) = false
    ∧ WellFormed (.bandStep 64) = false ∧ WellFormed (.bankRefresh 0 32) = false
    ∧ WellFormed (.rowRepair 0 524288) = false ∧ WellFormed (.matrixOpStart 0 32) = false
    ∧ WellFormed (.vaultThrottleChange 0 3) = false ∧ WellFormed (.coreThrottleRaise 8) = false
    ∧ WellFormed (.thermalHold 8) = false ∧ WellFormed (.probeCircuit 0 8) = false
    ∧ WellFormed (.netredRoundComplete 4) = false ∧ WellFormed (.powerStateEntry 0 5) = false := by decide +kernel

theorem test_ill_formed_package_events_refused :
    WellFormed (.dispatch 16) = false ∧ WellFormed (.joinSignal 16384) = false
    ∧ WellFormed (.qctlResume 2 0) = false ∧ WellFormed (.qctlFlush 0 4096) = false
    ∧ WellFormed (.joinCounterWrite 0 16384 0) = false ∧ WellFormed (.hostPortReset 2) = false
    ∧ WellFormed (.hqgWrite 256 0) = false ∧ WellFormed (.registerWrite 0 0 4096 0) = false
    ∧ WellFormed (.bmaskWrite 0 8 0) = false ∧ WellFormed (.linkDown 12) = false
    ∧ WellFormed (.secondTierPortDown 8) = false ∧ WellFormed (.partitionRemoval 16 []) = false
    ∧ WellFormed (.ltolWrite 0 16 0) = false := by decide +kernel

/-- Words of major opcodes and minors outside R157, and format checks of R156. -/
theorem test_words_refused :
    decodeNat 0x00000000 = .error .illegalMajor ∧ decodeNat 0xFFFFFFFF = .error .illegalMajor
    ∧ decodeNat 0x0000002E = .error .reservedMajor ∧ decodeNat 0x0000003E = .error .reservedMajor
    ∧ decodeNat (0x01 + 24 * 0x200000) = .error .reservedMinor ∧ decodeNat (0x3D + 7 * 0x80000) = .error .reservedMinor
    ∧ decodeNat 0x00400 = .error .illegalMajor ∧ decodeNat (0x0A + 0x400000) = .error .formatCheck
    ∧ decodeNat (0x10 + 5 * 0x10000) = .error .formatCheck ∧ decodeNat (0x12 + 2 * 0x2000000) = .error .formatCheck
    ∧ decodeNat (0x3A + 96 * 0x10000) = .error .formatCheck ∧ decodeNat (0x1C + 0x10000000) = .error .formatCheck
    ∧ decodeNat (0x38 + 8 * 0x40) = .error .formatCheck ∧ decodeBytes [0x01, 0x02, 0x03] = .error .truncated := by
  decide +kernel

/-! ### A small state: core 0 awake, its slot 0 in supervisor mode with its pc in the scratchpad -/

def base : State := State.reset.placeWord 0

/-- The base state with other values of scalar registers. -/
def withRegs (l : List (Reg × Ptr)) : State := base.modTh (fun t => l.foldl (fun t p => t.put p.1 p.2) t)

def user (s : State) : State := s.modTh (fun t => { t with thstat := withField t.thstat 8 2 0 })

theorem base_mayTrap : MayTrap base := by constructor <;> decide +kernel

theorem user_mayTrap : MayTrap (user base) ∧ (user base).supervisor = false :=
  ⟨by constructor <;> decide +kernel, by decide +kernel⟩

theorem base_inv : Inv base := by show Memory.wf _; decide +kernel

/-! ### Integer, branch and exception statements: states and operands that meet their hypotheses -/

theorem witness_ImmediateMembers : ∃ (f : FmtI) (s t u : State), f.imm = 0xFFFF ∧ f.d ≠ 0 ∧ exec (.andi f) s = .next t
    ∧ exec (.sltiu f) s = .next u :=
  ⟨{ d := 4, a := 5, imm := 0xFFFF }, base, _, _, rfl, by decide, rfl, rfl⟩

theorem witness_PointerMembers_spaces : ∃ (f : FmtA) (s : State), (s.th.get f.a).sb = 0xF0 ∧ s.turn.slot ≠ 4
    ∧ (s.th.get f.a).v.toNat = 0x340000 :=
  ⟨{ d := 4, a := 5, b := 0, lk := 0 }, withRegs [(5, { sb := 0xF0, v := 0x340000 })], by decide +kernel⟩

theorem witness_PointerMembers_global : ((withRegs [(5, { sb := 0xEF, v := 7 })]).th.get 5).sb.toNat < 0xF0
    ∧ 0xF5 ≤ ((withRegs [(5, { sb := 0xF5, v := 7 })]).th.get 5).sb.toNat := by decide +kernel

theorem witness_PointerMembers_user :
    let s := user (withRegs [(5, { sb := 0xF3, v := 7 })])
    ((s.th.get 5).sb = 0xF3 ∨ (s.th.get 5).sb = 0xF4) ∧ s.supervisor = false := by decide +kernel

theorem witness_TrapsEnter : MayTrap base := base_mayTrap

theorem witness_TretReturns : base.turn.slot ≠ 4 ∧ base.th.mode = 1 ∧ bit base.th.tcause 12 = false := by decide +kernel

theorem witness_PrivilegedSysTraps : MayTrap (user base) ∧ (user base).supervisor = false := user_mayTrap

/-! ### Scalar floating point -/

/-- 1.0 and 2^-60 in FP64: the sum is inexact. -/
def fpState (fpctl : Word) : State :=
  (withRegs [(5, .int 0x3FF0000000000000), (6, .int 0x3C30000000000000)]).modTh (fun t => { t with fpctl := fpctl })

def fpForm : FmtF := { d := 4, a := 5, b := 6, fmt := 0, lk := 0 }

theorem witness_ScalarFpRounds : ∀ e ∈ fpRoundTable, ∃ r, r = rounded (fpFmt fpForm) (scalarMode (fpState 5).th)
    (e.2 (fpFmt fpForm) (scalarMode (fpState 5).th) (fpOperand (fpFmt fpForm) ((fpState 5).th.val 5))
      (fpOperand (fpFmt fpForm) ((fpState 5).th.val 6)) (fpOperand (fpFmt fpForm) ((fpState 5).th.val 4)))
    ∧ Untrapped (fpState 5).th r.2 ∧ (fpState 5).th.rm = 5 := by
  intro e he
  refine ⟨_, rfl, ?_, by decide +kernel⟩
  unfold Untrapped
  revert e
  decide +kernel

theorem witness_ScalarFpPlain : ∀ e ∈ fpPlainTable, ∃ r, r = e.2 (fpFmt fpForm) (fpOperand (fpFmt fpForm) ((fpState 0).th.val 5))
    (fpOperand (fpFmt fpForm) ((fpState 0).th.val 6)) ∧ Untrapped (fpState 0).th r.2 := by
  intro e he
  refine ⟨_, rfl, ?_⟩
  unfold Untrapped
  revert e
  decide +kernel

theorem witness_ScalarFpDivides : fpForm.fmt.val < 2
    ∧ (∃ r, r = (fpFmt fpForm).div (scalarMode (fpState 0).th) ((fpFmt fpForm).value (fpOperand (fpFmt fpForm) ((fpState 0).th.val 5)))
        ((fpFmt fpForm).value (fpOperand (fpFmt fpForm) ((fpState 0).th.val 6))) ∧ Untrapped (fpState 0).th r.2)
    ∧ (∃ r, r = (fpFmt fpForm).sqrt (scalarMode (fpState 0).th) ((fpFmt fpForm).value (fpOperand (fpFmt fpForm) ((fpState 0).th.val 5)))
        ∧ Untrapped (fpState 0).th r.2) := by
  refine ⟨by decide +kernel, ⟨_, rfl, ?_⟩, _, rfl, ?_⟩ <;> (unfold Untrapped; decide +kernel)

/-- Codes 3 and 4 of b are the last with a conversion and the first without. -/
theorem witness_ScalarConversions : ∃ f g : FmtF, f.b.val < 4 ∧ 4 ≤ g.b.val ∧ base.th.rm ≠ 5 ∧ f.b = 3 ∧ g.b = 4
    ∧ (∃ r, r = (fpFmt f).convert base.th.rm false ((fpFmt { f with fmt := Fin.ofNat 4 f.b.val }).value
          (fpOperand (fpFmt { f with fmt := Fin.ofNat 4 f.b.val }) (base.th.val f.a))) 0 ∧ Untrapped base.th r.2)
    ∧ (∃ r, r = toInteger base.th.rm (kindRange f.b).1 (kindRange f.b).2 ((fpFmt f).value (fpOperand (fpFmt f) (base.th.val f.a))) 0
        ∧ Untrapped base.th r.2)
    ∧ (∃ r, r = (fpFmt f).convert base.th.rm false (Machine.Num.ofInt (0 : Int)) 0 ∧ Untrapped base.th r.2) ∧ MayTrap base := by
  refine ⟨{ d := 4, a := 5, b := 3, fmt := 1, lk := 0 }, { d := 4, a := 5, b := 4, fmt := 1, lk := 0 }, by decide, by decide,
    by decide +kernel, rfl, rfl, ⟨_, rfl, ?_⟩, ⟨_, rfl, ?_⟩, ⟨_, rfl, ?_⟩, base_mayTrap⟩ <;> (unfold Untrapped; decide +kernel)

/-- NX enabled in FPCTL[20]. -/
theorem witness_ScalarFpx : ∃ r, r = rounded (fpFmt fpForm) (scalarMode (fpState 0x1F0000).th)
    (Machine.Num.add (scalarMode (fpState 0x1F0000).th == 3)
      ((fpFmt fpForm).value (fpOperand (fpFmt fpForm) ((fpState 0x1F0000).th.val 5)))
      ((fpFmt fpForm).value (fpOperand (fpFmt fpForm) ((fpState 0x1F0000).th.val 6))))
    ∧ ¬ Untrapped (fpState 0x1F0000).th r.2 ∧ MayTrap (fpState 0x1F0000) := by
  refine ⟨_, rfl, ?_, by constructor <;> decide +kernel⟩
  unfold Untrapped
  decide +kernel

/-! ### Accesses -/

/-- s5 holds a pointer. -/
def pointing (p : Ptr) : State := withRegs [(5, p)]

def sp (o : Nat) : Ptr := { sb := 0xF0, v := word o }

theorem pointing_quiet : Quiet (pointing (sp 0x1000)) (scratchLoc 0 0x1000) 8 := by constructor <;> decide +kernel

theorem pointing_plain : PlainWrite (pointing (sp 0x1000)) (scratchLoc 0 0x1000) 8 := by constructor <;> decide +kernel

theorem witness_LoadsDeliver : ∃ (f : FmtM) (s : State) (l : Loc), f.wf = true ∧ Inv s
    ∧ Placed s (accessGa f s.th) (widthOf f.size.val) .load l ∧ (accessGa f s.th).v.toNat % widthOf f.size.val = 0
    ∧ Quiet s l (widthOf f.size.val) ∧ l.home = s.turn.rank ∧ (s.core l.home).vault.weakGranules = []
    ∧ (s.core l.home).weakScratch = [] :=
  ⟨{ d := 24, a := 5, size := 3, sx := false, off := 0 }, pointing (sp 0x1000), scratchLoc 0 0x1000, rfl,
    by show Memory.wf _; decide +kernel, .inl (by decide +kernel), by decide +kernel, pointing_quiet, by decide +kernel⟩

/-- The same in the agent's data store, in the stack, in the core's own vault and at a page that the TLB holds with D set. -/
theorem witness_Placed_others :
    Placed { base with turn := { rank := 0, slot := 4 } } (sp 0x8000) 8 .load { region := .agentData, home := 0, off := 0x8000 }
    ∧ Placed base { sb := 0xF1, v := 0x3FFFF8 } 8 .store (vaultLoc 0 (stackBase 0 + 0x3FFFF8))
    ∧ Placed base { sb := 0xF3, v := 0x3FFFFFF8 } 8 .load (vaultLoc 0 0x3FFFFFF8)
    ∧ Placed (base.modMe (fun c => { c with ptbase := 1, utlb := [{ vpn := 5, sz := 0, asid := 0, leaf := 0x84F0000000000007, home := 0, off := 0 }] }))
        { sb := 0, v := 0x50010 } 8 .store (vaultLoc 0 0x70010) := by
  refine ⟨.inr (.inl (by decide +kernel)), .inr (.inr (.inl (by decide +kernel))),
    .inr (.inr (.inr (.inr (.inl (by decide +kernel))))), .inr (.inr (.inr (.inr (.inr ⟨by decide +kernel, by decide +kernel, _, rfl, ?_⟩))))⟩
  decide +kernel

theorem witness_StoresStore : ∃ (f : FmtM) (s : State) (l : Loc), f.wf = true ∧ Inv s
    ∧ Placed s (accessGa f s.th) (widthOf f.size.val) .store l ∧ (accessGa f s.th).v.toNat % widthOf f.size.val = 0
    ∧ Quiet s l (widthOf f.size.val) ∧ PlainWrite s l (widthOf f.size.val) :=
  ⟨{ d := 24, a := 5, size := 3, sx := false, off := 0 }, pointing (sp 0x1000), scratchLoc 0 0x1000, rfl,
    by show Memory.wf _; decide +kernel, .inl (by decide +kernel), by decide +kernel, pointing_quiet, pointing_plain⟩

theorem witness_AccessTraps_aperture : ∃ (f : FmtM) (s : State), f.wf = true ∧ MayTrap s ∧ (accessGa f s.th).sb = 0xF0
    ∧ (accessGa f s.th).v.toNat + widthOf f.size.val = 0x340001 :=
  ⟨{ d := 24, a := 5, size := 0, sx := false, off := 0 }, pointing (sp 0x340000), rfl, by constructor <;> decide +kernel,
    by decide +kernel, by decide +kernel⟩

theorem witness_AccessTraps_misalign : ∃ (f : FmtM) (s : State), f.wf = true ∧ MayTrap s ∧ (accessGa f s.th).sb = 0xF0
    ∧ (accessGa f s.th).v.toNat + widthOf f.size.val = 0x33FFFF ∧ (accessGa f s.th).v.toNat % widthOf f.size.val ≠ 0 :=
  ⟨{ d := 24, a := 5, size := 3, sx := false, off := 0 }, pointing (sp 0x33FFF7), rfl, by constructor <;> decide +kernel,
    by decide +kernel, by decide +kernel, by decide +kernel⟩

theorem witness_AccessTraps_atomic : ∃ (f : FmtAm) (s : State), f.wf = true ∧ MayTrap s ∧ (s.th.get f.a).sb = 0xF0
    ∧ (s.th.get f.a).v.toNat + amoBytes f ≤ 0x340000 ∧ (s.th.get f.a).v.toNat % amoBytes f ≠ 0 :=
  ⟨{ d := 24, a := 5, b := 6, width := 0, ord := false, lk := 0 }, pointing (sp 0x33FFFA), rfl, by constructor <;> decide +kernel,
    by decide +kernel⟩

/-- A stationary range over positions 0 and 1. -/
def fixedState : State :=
  (pointing (sp 0)).modMe (fun c => { c with ranges := [{ tid := 1, p0 := 0, count := 2, dom := 0 }] })

theorem witness_StationaryWritesTrap : MayTrap fixedState ∧ fixedState.fixedLoc (scratchLoc 0 0) = true
    ∧ (∃ f : FmtM, f.wf = true ∧ accessGa f fixedState.th = { sb := 0xF0, v := word 0 } ∧ 0 % widthOf f.size.val = 0
      ∧ Quiet fixedState (scratchLoc 0 0) (widthOf f.size.val) ∧ fixedState.readFirst (scratchLoc 0 0) (widthOf f.size.val) = false)
    ∧ ∃ f : FmtAm, f.wf = true ∧ fixedState.th.get f.a = { sb := 0xF0, v := word 0 } ∧ 0 % amoBytes f = 0 := by
  refine ⟨by constructor <;> decide +kernel, by decide +kernel,
    ⟨{ d := 24, a := 5, size := 3, sx := false, off := 0 }, rfl, by decide +kernel, rfl, by constructor <;> decide +kernel, by decide +kernel⟩,
    { d := 24, a := 5, b := 6, width := 1, ord := false, lk := 0 }, rfl, by decide +kernel, rfl⟩

/-- A deferred reduction to the vault of core 1. -/
def awayRed : RedEntry := { ga := { sb := 0, v := 0 }, loc := vaultLoc 1 0, op := 0, width := 8, val := 1, last := 0, nv := [] }

theorem witness_AtomicsUpdate : ∃ (f : FmtAm) (s : State) (l : Loc), f.wf = true ∧ Inv s
    ∧ Placed s (s.th.get f.a) (amoBytes f) .atomic l ∧ (s.th.get f.a).v.toNat % amoBytes f = 0 ∧ Quiet s l (amoBytes f)
    ∧ PlainWrite s l (amoBytes f) ∧ s.peek l (amoBytes f) ≠ ((s.th.val 7).toNat % 256 ^ amoBytes f) ∧ f.ord = true
    ∧ (∃ x ∈ s.me.redbuf, homeScope s.turn.rank (s.th.get f.a) l < homeScope s.turn.rank x.ga x.loc) :=
  ⟨{ d := 7, a := 5, b := 6, width := 1, ord := true, lk := 0 }, (withRegs [(5, sp 0x1000), (7, .int 9)]).modMe (fun c => { c with redbuf := [awayRed] }), scratchLoc 0 0x1000, rfl,
    by show Memory.wf _; decide +kernel, .inl (by decide +kernel), by decide +kernel, by constructor <;> decide +kernel,
    by constructor <;> decide +kernel, by decide +kernel, rfl, awayRed, by decide +kernel⟩

theorem witness_ReductionsDefer : ∃ (f : FmtAm) (s : State) (l : Loc), f.wf = true ∧ s.turn.slot ≠ 4
    ∧ Placed s (s.th.get f.a) (amoBytes f) .atomic l ∧ (s.th.get f.a).v.toNat % amoBytes f = 0 ∧ l.home / 1024 = s.dev
    ∧ s.me.redbuf.length < 64 ∧ (∀ x ∈ s.me.redbuf, x.loc.key + x.width ≤ l.key ∨ l.key + amoBytes f ≤ x.loc.key)
    ∧ f.ord = true :=
  ⟨{ d := 0, a := 5, b := 6, width := 1, ord := true, lk := 0 }, pointing (sp 0x1000), scratchLoc 0 0x1000, rfl,
    by decide +kernel, .inl (by decide +kernel), by decide +kernel⟩

/-! ### Control registers -/

/-- A form of a control-register member that names a register number. -/
def crForm (n : Nat) : FmtC := { d := 4, a := 5, num := BitVec.ofNat 12 n }

/-- Every register of the table, with ERRINJ granted. -/
def granted0 : State := { base with pgrant := base.pgrant.setIfInBounds 0 0x11 }

theorem witness_CrReads_CrWrites : ∀ e ∈ crTable, (crForm e.1).num.toNat = e.1 ∧ MayUse granted0 e.1 false ∧ MayUse granted0 e.1 true
    ∧ Writable e.1 (granted0.th.val 5) := by
  intro e he
  refine ⟨by revert e; decide +kernel, ?_, ?_, by unfold Writable; revert e; decide +kernel⟩
  all_goals
    unfold MayUse
    by_cases h : e.1 = 9
    · rw [if_pos h]; exact ⟨0, by decide +kernel⟩
    · rw [if_neg h]; revert e; decide +kernel

/-- The widest illegal and the least replaced values of the special cases: RM 6, PMODE 2, SB 0xF1, SPAN 6. -/
theorem witness_CrSpecialValues :
    6 ≤ field (0x6 : Word) 0 3 ∧ 2 ≤ field (0x800 : Word) 10 2 ∧ 0xF0 < field (0xF100000000000000 : Word) 56 8
    ∧ ((withRegs [(5, .int 0xF100000000060806)]).th.val 5 = 0xF100000000060806) ∧ base.supervisor = true
    ∧ (∀ k : Fin 8, base.me.ac[k] ≤ base.me.pc[k]) ∧ (crForm 0x010).num.toNat = 0x010 + (0 : Fin 8).val
    ∧ (crForm 0x017).num.toNat = 0x010 + (7 : Fin 8).val ∧ (crForm 0x10A).num = 0x10A ∧ base.partOf base.turn.rank = some 0 := by
  decide +kernel

theorem witness_CrTraps : MayTrap base ∧ MayTrap (user base) ∧ (user base).supervisor = false
    ∧ (∀ p, base.partOf base.turn.rank = some p → bit (base.grant p) 0 = false)
    ∧ (0x200 ≤ (crForm 0x200).num.toNat) ∧ (0x00A ≤ (crForm 0x00F).num.toNat ∧ (crForm 0x00F).num.toNat < 0x010) := by
  refine ⟨base_mayTrap, user_mayTrap.1, user_mayTrap.2, ?_, by decide, by decide⟩
  intro p h
  have h0 : base.partOf base.turn.rank = some 0 := by decide +kernel
  rw [h0] at h
  cases h
  decide +kernel

theorem witness_RegisterEvents :
    (∃ w : Turn, w = { rank := 0, slot := Fin.ofNat 5 3 }) ∧ granted0.partOf 0 = some 0 ∧ bit (granted0.grant 0) 0 = true
    ∧ (∀ k : Fin 8, (granted0.core 0).ac[k] ≤ (granted0.core 0).pc[k]) ∧ 255 < 256
    ∧ bit ((lookup granted0.hqg 255).getD 0) 0 = false
    ∧ bit ((lookup ({ granted0 with hqg := [(255, 1)] } : State).hqg 255).getD 0) 0 = true
    ∧ field (granted0.core 0).spkey 0 16 = (0x1CF0 : Word).toNat % 2 ^ 16 := by
  refine ⟨⟨_, rfl⟩, by decide +kernel⟩

/-! ### The sys group -/

/-- A task of the highest priority, with weight `w`. -/
def someTask (w : Nat) : Task :=
  { id := 0x1, pc := .zero, prio := 7, aged := 0, mig := false, gang := false, matched := false, frame := false, parked := false,
    live := 0, arg := 0, weight := w, join := 0, domain := 0, origin := 0, parkTok := 0, launch := 0, regs := [], src := .launch,
    s5 := 0, s6 := 0, s7 := 0, evctl := 0, srseed := 1, tidbase := 0, tidlim := 0, wdog := 0, ran := 0, since := 0, mitten := none,
    gangOf := none, copy := none, wait := .none, mon := none, bound := none, tiles := 0, stopped := false, replay := none, pend := 0,
    tokErr := 0, tokUnc := 0, kidWdog := 0, probe := 0 }

/-- The base state with a task in the slot that issues. -/
def tasked (w : Nat) : State := base.modTh (fun t => { t with task := some (someTask w) })

theorem witness_SysMembersComplete : base.supervisor = true ∧ base.turn.slot ≠ 4
    ∧ ({ base with turn := { rank := 0, slot := 4 } } : State).supervisor = true := by decide +kernel

theorem witness_FencesComplete : base.me.redbuf = [] := by decide +kernel

/-- A deferred addition of 5 to the last double word of the scratchpad. -/
def deferred : RedEntry := { ga := sp 0x33FFF8, loc := scratchLoc 0 0x33FFF8, op := 0, width := 8, val := 5, last := 0, nv := [] }

theorem witness_FenceFlushes : ∃ (f : FmtA) (s : State), Inv s ∧ s.me.redbuf = [deferred]
    ∧ deferred.loc = scratchLoc s.turn.rank deferred.loc.off ∧ deferred.loc.off + 8 = 0x340000 ∧ deferred.ga.sb = 0xF0
    ∧ deferred.op = 0 ∧ deferred.width = 8 ∧ 1 ≤ f.b.val % 8 ∧ s.fixedLoc deferred.loc = false
    ∧ s.look deferred.loc 8 = s.peek deferred.loc 8 ∧ s.me.agent.moving = none ∧ s.me.agent.redirects = [] :=
  ⟨{ d := 0, a := 0, b := 1, lk := 0 }, base.modMe (fun c => { c with redbuf := [deferred] }),
    by show Memory.wf _; decide +kernel, by decide +kernel⟩

theorem witness_SpawnCreates : ∃ (f : FmtA) (s : State) (k : Task), s.th.task = some k ∧ (s.th.get f.a).v.toNat % 4 = 0
    ∧ k.weight = 2 ∧ s.me.ready.length < 64
    ∧ ((List.range 32).filter (fun n => n ≠ 0 && (s.th.val f.d).getLsbD n)).length = 16 :=
  ⟨{ d := 6, a := 5, b := 7, lk := 0 }, (tasked 2).modTh (fun t => (t.put 5 (sp 0x400)).put 6 (.int 0x1FFFF)), someTask 2,
    by decide +kernel⟩

theorem witness_SpawnHeld : ((pointing (sp 2)).th.get 5).v.toNat % 4 ≠ 0 ∧ MayTrap (pointing (sp 2))
    ∧ (tasked 1).th.task = some (someTask 1) ∧ (someTask 1).weight = 1 ∧ ((tasked 1).th.get 5).v.toNat % 4 = 0
    ∧ (tasked 1).me.ready.length < 64 :=
  ⟨by decide +kernel, by constructor <;> decide +kernel, by decide +kernel⟩

theorem witness_ParkLeaves : ∃ (f : FmtPark) (s : State) (k : Task), bit base.th.pend f.a.val = false ∧ bit s.th.pend f.a.val = true
    ∧ s.th.task = some k ∧ f.a ≠ 0 ∧ s.holdsState s.turn = false ∧ f.lk = 0 ∧ s.th.val f.d = 0 :=
  ⟨{ d := 6, a := 9, lk := 0 }, (tasked 2).modTh (fun t => { t with pend := 0x200 }), someTask 2, by decide +kernel⟩

theorem witness_TendEnds : ∃ (s u : State) (k : Task), s.th.task = some k ∧ bit s.th.thstat 12 = false ∧ s.th.pend ≠ 0
    ∧ u.th.task = some k ∧ bit u.th.thstat 12 = false ∧ u.th.pend = 0 ∧ u.me.redbuf = [] ∧ 0 < k.weight ∧ u.me.frames = []
    ∧ u.me.mitten = .replicate 4 none :=
  ⟨(tasked 1).modTh (fun t => { t with pend := 0x200 }), tasked 1, someTask 1, by decide +kernel⟩

theorem witness_TyieldYields : ∃ (s u : State) (k x : Task), s.th.task = some k ∧ (∀ y ∈ s.me.ready, y.eff < k.eff)
    ∧ u.th.task = some k ∧ u.me.ready = [x] ∧ k.eff ≤ x.eff ∧ 0 < field u.me.ctxbase 0 16 ∧ u.me.frames = [] :=
  ⟨(tasked 1).modMe (fun c => { c with ready := [{ someTask 1 with prio := 6 }] }),
    (tasked 1).modMe (fun c => { c with ready := [someTask 3], ctxbase := 1 }), someTask 1, someTask 3, by decide +kernel⟩

/-! ### Vectors -/

/-- With no enable bit set nothing traps. -/
theorem untrapped_of (t : Thread) (fl : Flags) (h : field t.fpctl 16 5 = 0) : Untrapped t fl := by
  unfold Untrapped
  rw [h]
  exact Nat.and_zero fl

theorem base_untrapped (fl : Flags) : Untrapped base.th fl := untrapped_of _ _ (by decide +kernel)

def vForm (et : Fin 16) : FmtV := { vd := 8, va := 2, vb := 3, et := et, msk := 1, md := 0 }

def vlForm (et : Fin 16) (vb : Reg) : FmtVl := { vd := 8, va := 2, vb := vb, et := et, lk := 0 }

theorem witness_VectorElementwise : ∀ e ∈ vectorTable, ∃ (f : FmtV) (fl : Flags), f.et.val ∈ e.2.1
    ∧ fl = orFlags (elemType f.et).count (active base.th f.msk) (fun i => (elemResult e.2.2 f base.th i).2) ∧ Untrapped base.th fl := by
  intro e he
  have h : ∃ n : Fin 16, n.val ∈ e.2.1 := by revert e; decide +kernel
  obtain ⟨n, hn⟩ := h
  exact ⟨vForm n, _, hn, rfl, base_untrapped _⟩

theorem witness_VectorTypesTrap : MayTrap base ∧ ∃ e ∈ typedTable, (vForm 6).et.val ∉ e.2 :=
  ⟨base_mayTrap, by decide +kernel⟩

theorem witness_VectorWidening : ∀ e ∈ wideTable, ∀ d ∈ e.2.2.1, ∃ (f : FmtV) (base' : Nat) (res : Nat → Nat × Flags) (fl : Flags),
    f.et.val = d.1 ∧ base' = f.vd.val - f.vd.val % e.2.1
    ∧ (∀ i, res i = wideResult (elemType f.et) d.2 e.2.2.2
      (if (elemType f.et).isFloat then mdRounding base.th f.md else 0) (!(elemType f.et).isFloat && decide (f.md.val % 2 = 1))
      ((elemType f.et).elem (base.th.vget f.va) i) ((elemType f.et).elem (base.th.vget f.vb) i) (groupElem base.th d.2 base' e.2.1 i))
    ∧ fl = orFlags (elemType f.et).count (active base.th f.msk) (fun i => (res i).2) ∧ Untrapped base.th fl ∧ f.vd.val % e.2.1 ≠ 0 := by
  intro e he d hd
  have h0 : ∀ e ∈ wideTable, ∀ d ∈ e.2.2.1, d.1 < 16 ∧ 9 % e.2.1 ≠ 0 := by decide +kernel
  have h := h0 e he d hd
  exact ⟨{ vForm ⟨d.1, h.1⟩ with vd := 9 }, _, _, _, rfl, rfl, fun _ => rfl, rfl, base_untrapped _, h.2⟩

theorem witness_VectorDots : ∀ e ∈ dotTable, ∀ d ∈ e.2.2, ∃ (f : FmtV) (fl : Flags), f.et.val = d.1
    ∧ fl = orFlags 128 (active base.th f.msk) (fun i => (dotResult e.2.1 d.2 f base.th i).2) ∧ Untrapped base.th fl := by
  intro e he d hd
  have h0 : ∀ e ∈ dotTable, ∀ d ∈ e.2.2, d.1 < 16 := by decide +kernel
  have h := h0 e he d hd
  exact ⟨vForm ⟨d.1, h⟩, _, rfl, rfl, base_untrapped _⟩

theorem witness_VectorCompares : (∀ e ∈ compareTable, ∃ (f : FmtV) (fl : Flags), f.et.val ∈ e.2.1 ∧ maskNo f.vd ≠ 0
      ∧ fl = orFlags (elemType f.et).count (active base.th f.msk) (fun i => (compareResult e.2.2 f base.th i).2) ∧ Untrapped base.th fl)
    ∧ ∃ (f : FmtV) (F : Fmt), elemType f.et = .float F ∧ maskNo f.vd ≠ 0 := by
  refine ⟨?_, { vForm 1 with vd := 9 }, f32, by decide +kernel, by decide +kernel⟩
  intro e he
  have h : (vForm 1).et.val ∈ e.2.1 := by revert e; decide +kernel
  exact ⟨{ vForm 1 with vd := 9 }, _, h, by decide +kernel, rfl, base_untrapped _⟩

/-- vd[2:0] names m1 and m0. -/
theorem witness_MasksAndSelection : maskNo ({ vForm 1 with vd := 9 } : FmtV).vd ≠ 0 ∧ maskNo (vForm 1).vd = 0 := by decide +kernel

theorem witness_PermutesAndMoves : (vForm 1).et.val ∈ etF ++ etI := by decide +kernel

/-! ### Converters and functions -/

theorem witness_VectorConverts : ∃ (f : FmtVcvt) (src dst : ElemType) (k base' : Nat) (res : Nat → Nat × Flags) (fl : Flags),
    src = elemType f.et ∧ dst = elemType f.det ∧ src ≠ dst ∧ f.et ≠ 14 ∧ f.det ≠ 14 ∧ src.count = 4 * dst.count
    ∧ k = cvtRatio src dst ∧ base' = f.vd.val - f.vd.val % k
    ∧ (∀ i, res i = convResult src dst (cvtMode f base.th) f.sat
      (if cvtMode f base.th = 5 then drawAt base.th (active base.th f.msk) i else 0) (src.elem (base.th.vget f.va) i))
    ∧ fl = orFlags src.count (active base.th f.msk) (fun i => (res i).2) ∧ Untrapped base.th fl ∧ cvtMode f base.th = 5 :=
  ⟨{ vd := 9, va := 2, det := 1, sat := false, et := 4, rm := 5, msk := 1, md := 0 }, _, _, _, _, _, _, rfl, rfl, by decide +kernel,
    by decide, by decide, by decide +kernel, rfl, rfl, fun _ => rfl, rfl, base_untrapped _, by decide +kernel⟩

/-- A type to itself; cb2; and the first ratio beyond 4. -/
theorem witness_VectorConverts_others : ∃ f g h : FmtVcvt, f.et = f.det ∧ f.et ≠ 14 ∧ g.et = 14
    ∧ (elemType h.et).count = 8 * (elemType h.det).count ∧ 4 * (elemType h.det).count < (elemType h.et).count ∧ MayTrap base :=
  ⟨{ vd := 9, va := 2, det := 1, sat := false, et := 1, rm := 0, msk := 0, md := 0 },
    { vd := 9, va := 2, det := 1, sat := false, et := 14, rm := 0, msk := 0, md := 0 },
    { vd := 9, va := 2, det := 1, sat := false, et := 8, rm := 0, msk := 0, md := 0 }, rfl, by decide, rfl, by decide +kernel,
    by decide +kernel, base_mayTrap⟩

theorem witness_quantCode : QuantCode (vlForm 4 0) f32 32 true ∧ QuantCode (vlForm 4 1) f32 32 false
    ∧ QuantCode (vlForm 13 20) f16 256 false := by
  refine ⟨?_, ?_, ?_⟩ <;> (unfold QuantCode; decide +kernel)

theorem witness_QuantisationMembers_vqnt : ∃ (f : FmtVl) (w : Fmt) (b : Nat) (mx : Bool) (ty : ElemType) (n : Nat) (fl : Flags),
    QuantCode f w b mx ∧ ty = elemType f.et ∧ n = 4096 / w.width
    ∧ fl = orFlags n (fun _ => true) (fun i => ((blockAt ty w b mx base.th (base.th.vget f.va) (i / b)).1.getD (i % b) (0, 0)).2)
    ∧ Untrapped base.th fl :=
  ⟨vlForm 4 0, f32, 32, true, _, _, _, witness_quantCode.1, rfl, rfl, rfl, base_untrapped _⟩

/-- The zero vector has E8M0 scales 2^-127, and an FP32 scale of zero, which has no value. -/
theorem witness_QuantisationMembers_vdqnt : ∃ (sc : Nat → Machine.Num) (res : Nat → Nat × Flags) (fl : Flags),
    QuantCode (vlForm 4 0) f32 32 true ∧ (∀ j, j < 128 / 32 → scaleValue true (scaleBits (base.th.vget 2) true j) = some (sc j))
    ∧ (∀ i, res i = rounded f32 (wideMode base.th)
        (Machine.Num.mul (narrowValue (elemType 4) ((elemType 4).elem (base.th.vget 2) i)) (sc (i / 32))))
    ∧ fl = orFlags 128 (fun _ => true) (fun i => (res i).2) ∧ Untrapped base.th fl
    ∧ QuantCode (vlForm 4 1) f32 32 false ∧ scaleValue false (scaleBits (base.th.vget 2) false 0) = none :=
  ⟨fun _ => .fin false 1 (-127), _, _, witness_quantCode.1, by decide +kernel, fun _ => rfl, rfl, base_untrapped _,
    witness_quantCode.2.1, by decide +kernel⟩

/-- `vcbdec` without scales, and with one FP32 scale for each block (1.0 in the first word past the codes). -/
theorem witness_QuantisationMembers_vcbdec : ∃ (f : FmtVl) (w : Fmt) (n : Nat) (sc : Nat → Machine.Num) (res : Nat → Nat × Flags)
    (fl : Flags) (table : Nat), ((f.vb.val / 8, w) ∈ ([(0, f32), (1, bf16), (2, f16)] : List (Nat × Fmt))) ∧ f.et = 14
    ∧ n = 4096 / w.width
    ∧ table = (if f.vb.val / 4 % 2 = 1 then (base.th.vget 30).toNat + (base.th.vget 31).toNat * 2 ^ 4096 else pack 32 resetCodebook)
    ∧ (∀ i, i < n → some (sc i) = if f.vb.val % 4 = 0 then some (.fin false 1 0)
        else scaleValue false (scaleBits (base.th.vget f.va) false (i / (32 * 2 ^ (f.vb.val % 4 - 1)))))
    ∧ (∀ i, res i = rounded w (wideMode base.th)
      (Machine.Num.mul (codeWeight table (ElemType.cb2.elem (base.th.vget f.va) (i / 8)) (i % 8)) (sc i)))
    ∧ fl = orFlags n (fun _ => true) (fun i => (res i).2) ∧ Untrapped base.th fl :=
  ⟨vlForm 14 4, f32, _, fun _ => .fin false 1 0, _, _, _, by decide +kernel, rfl, rfl, rfl, fun _ _ => rfl, fun _ => rfl, rfl,
    base_untrapped _⟩

theorem witness_SpecialFunctions : ∀ e ∈ functionTable, (∃ (f : FmtVl) (F : Fmt) (fl : Flags), f.et.val < 4 ∧ elemType f.et = .float F
      ∧ F = f64 ∧ fl = orFlags (4096 / F.width) (fun _ => true) (fun i => (functionResult e.2 F f base.th i).2) ∧ Untrapped base.th fl)
    ∧ 4 ≤ (vlForm 4 0).et.val ∧ MayTrap base := by
  intro e _
  exact ⟨⟨vlForm 0 3, f64, _, by decide, by decide +kernel, rfl, rfl, base_untrapped _⟩, by decide, base_mayTrap⟩

/-- vb names m0, all ones, or m1, which holds zero. -/
theorem witness_VectorReductions : (vlForm 1 0).et.val ∈ etF ++ etI
    ∧ (∃ r, r = halvingSum (elemType 1) (vredMode base.th) (Nat.log2 (elemType 1).count) (taking (vlForm 1 0) base.th)
      ∧ Untrapped base.th r.2)
    ∧ ((List.range (elemType 1).count).filter (vredMask (vlForm 1 1) base.th)).map ((elemType 1).elem (base.th.vget 2)) = []
    ∧ (∃ x xs r, ((List.range (elemType 1).count).filter (vredMask (vlForm 1 0) base.th)).map ((elemType 1).elem (base.th.vget 2)) = x :: xs
      ∧ r = xs.foldl (fun p y => ((extremeOf (elemType 1) false p.1 y).1, p.2 ||| (extremeOf (elemType 1) false p.1 y).2))
        (extremeOf (elemType 1) false x x) ∧ Untrapped base.th r.2)
    ∧ ∃ fl, fl = orFlags (elemType 1).count (fun _ => true) (fun i => (prefixSum (elemType 1) (vredMode base.th) (taking (vlForm 1 0) base.th) i).2)
      ∧ Untrapped base.th fl := by
  refine ⟨by decide +kernel, ⟨_, rfl, base_untrapped _⟩, by decide +kernel, ⟨0, .replicate 127 0, _, by decide +kernel, rfl, base_untrapped _⟩,
    _, rfl, base_untrapped _⟩

/-! ### Vector memory -/

/-- The parts of `Quiet` and `PlainWrite` in core 0's scratchpad that do not depend on the offset. -/
theorem quiet_scratch (s : State) (o n : Nat) (h1 : (s.core 0).agent.moving = none) (h2 : s.heldOrder = [] ∧ s.turn.rank = 0)
    (h3 : (s.band 0).power = 0) (h4 : s.dieHeld 0 = false) (h5 : ∀ p ∈ s.cores, p.2.redbuf = []) (h6 : (s.core 0).badScratch = [])
    (h7 : s.pairing 0 = false) (h8 : s.th.errinj = 0) : Quiet s (scratchLoc 0 o) n where
  still := by unfold State.migrating; simp only [scratchLoc]; rw [h1]
  held := h2.1
  remote := fun h => absurd h2.2.symm h
  meets := by unfold State.meets; simp [scratchLoc, h3, h4]
  reds := fun p hp e he => by rw [h5 p hp] at he; cases he
  readable := by unfold State.unreadable; simp [scratchLoc, h6]
  matched := by unfold State.look; simp [scratchLoc, h7]
  uninjected := by rw [h8]; decide

theorem plain_scratch (s : State) (o n : Nat) (h1 : (s.core 0).ranges = []) (h2 : s.pairing 0 = false) (h3 : s.th.domid = 0)
    (h4 : s.me.mops = []) : PlainWrite s (scratchLoc 0 o) n where
  table := fun h => by cases h
  free := by unfold State.fixedLoc State.fixedAt Core.fixedOffset; simp [scratchLoc, h1, h2]
  unread := by unfold State.readFirst; rw [h4]; simp
  plain := by rw [h3]; decide
  mapped := fun h => by cases h

theorem pointing_quiet_at (p : Ptr) (o n : Nat) : Quiet (pointing p) (scratchLoc 0 o) n := by
  refine quiet_scratch _ _ _ rfl ⟨rfl, rfl⟩ rfl rfl ?_ rfl rfl rfl
  intro q hq
  have h : (pointing p).cores = [(0, (pointing p).core 0)] := rfl
  rw [h, List.mem_singleton] at hq
  subst hq
  rfl

theorem pointing_plain_at (p : Ptr) (o n : Nat) : PlainWrite (pointing p) (scratchLoc 0 o) n :=
  plain_scratch _ _ _ rfl rfl rfl rfl

theorem pointing_inv (p : Ptr) : Inv (pointing p) := base_inv

/-- The last 512 bytes of the scratchpad. -/
theorem witness_VectorContiguous : ∃ (f : FmtVl) (s : State) (ty : ElemType) (l : Loc) (n : Nat), ty = elemType f.et
    ∧ n = ty.count * ty.memBits / 8 ∧ Inv s ∧ (s.th.get f.va).sb = 0xF0 ∧ s.turn.slot ≠ 4 ∧ (s.th.get f.va).v.toNat + n = 0x340000
    ∧ (s.th.get f.va).v.toNat % elemBytes ty = 0 ∧ l = scratchLoc s.turn.rank (s.th.get f.va).v.toNat ∧ QuietRange s l n
    ∧ PlainRange s l n :=
  ⟨{ vlForm 1 0 with va := 5 }, pointing (sp 0x33FE00), _, _, 512, rfl, by decide +kernel, pointing_inv _, by decide +kernel,
    by decide +kernel, by decide +kernel, by decide +kernel, rfl, fun o k _ _ => pointing_quiet_at _ _ _, fun o k _ _ => pointing_plain_at _ _ _⟩

/-- Strides of 8 from 0x1000, and indices all zero: every element at one place. -/
def strideState : State := withRegs [(5, sp 0x1000), (3, .int 8)]

theorem strideState_quiet (o n : Nat) : Quiet strideState (scratchLoc 0 o) n := by
  refine quiet_scratch _ _ _ rfl ⟨rfl, rfl⟩ rfl rfl ?_ rfl rfl rfl
  intro q hq
  have h : strideState.cores = [(0, strideState.core 0)] := rfl
  rw [h, List.mem_singleton] at hq
  subst hq
  rfl

theorem witness_VectorStridedIndexed : ∀ e ∈ addressTable, ∃ (f : FmtVl) (l : Nat → Loc), f.et.val ∈ e.2.2.1 ∧ Inv strideState
    ∧ (∀ i, i < (elemType f.et).count → Placed strideState (e.2.2.2 f strideState.th i) (elemBytes (elemType f.et)) .load (l i)
      ∧ Placed strideState (e.2.2.2 f strideState.th i) (elemBytes (elemType f.et)) .store (l i)
      ∧ (e.2.2.2 f strideState.th i).v.toNat % elemBytes (elemType f.et) = 0 ∧ Quiet strideState (l i) (elemBytes (elemType f.et))
      ∧ (strideState.core (l i).home).vault.weakGranules = [] ∧ PlainWrite strideState (l i) (elemBytes (elemType f.et)))
    ∧ (vlForm 6 0).et.val ∉ e.2.2.1 ∧ MayTrap strideState := by
  intro e he
  have h0 : ∀ e ∈ addressTable, ∀ i, i < 128 →
      (e.2.2.2 { vlForm 1 3 with va := 5 } strideState.th i).sb = 0xF0
      ∧ (e.2.2.2 { vlForm 1 3 with va := 5 } strideState.th i).v.toNat + 4 ≤ 0x340000
      ∧ (e.2.2.2 { vlForm 1 3 with va := 5 } strideState.th i).v.toNat % 4 = 0 := by decide +kernel
  refine ⟨{ vlForm 1 3 with va := 5 }, fun i => scratchLoc 0 (e.2.2.2 { vlForm 1 3 with va := 5 } strideState.th i).v.toNat,
    by revert e; decide +kernel, base_inv, ?_, by revert e; decide +kernel, by constructor <;> decide +kernel⟩
  intro i hi
  have h := h0 e he i hi
  exact ⟨.inl ⟨h.1, by decide +kernel, h.2.1, rfl⟩, .inl ⟨h.1, by decide +kernel, h.2.1, rfl⟩, h.2.2, strideState_quiet _ _, rfl,
    plain_scratch _ _ _ rfl rfl rfl rfl⟩

/-- A first element at an odd address. -/
theorem witness_VectorStridedIndexed_misaligned : ∀ e ∈ addressTable, ∃ (f : FmtVl) (s : State), f.et.val ∈ e.2.2.1 ∧ MayTrap s
    ∧ (s.th.get f.va).sb = 0xF0 ∧ (e.2.2.2 f s.th 0).v.toNat + elemBytes (elemType f.et) ≤ 0x340000
    ∧ (e.2.2.2 f s.th 0).v.toNat % elemBytes (elemType f.et) ≠ 0 := by
  intro e he
  exact ⟨{ vlForm 1 3 with va := 5 }, pointing (sp 0x33FFFB), by revert e; decide +kernel, by constructor <;> decide +kernel,
    by decide +kernel, by revert e; decide +kernel, by revert e; decide +kernel⟩

/-! ### Networks -/

/-- Cores 0 and 1 in tree 2: core 0 its crown, core 1 its child. -/
def treeWords : Word × Word := (0x30000, 0x10000)

def treeState : State :=
  (base.modCore 0 (fun c => { c with trees := c.trees.setIfInBounds 2 treeWords.1 })).modCore 1
    (fun c => { c with trees := c.trees.setIfInBounds 2 treeWords.2 })

def contribution (rank : Nat) (bcast : Bool) : Contribution :=
  { id := rank, tree := 2, round := 0, rank := rank, slot := 0, bcast := bcast, et := 1, op := 0, val := 0, vd := 3, since := 0,
    cfg := [(0, treeWords.1), (1, treeWords.2)], sent := false, dom := 0 }

theorem witness_NetworkJoins : ∀ e ∈ netTable, ∃ f : FmtNet, netLegal f e.2 ∧ bit (treeState.me.trees.getD f.tree.val 0) 16 = true
    ∧ treeState.trafficHeld treeState.turn.rank treeState.domain = false ∧ bit (base.me.trees.getD f.tree.val 0) 16 = false
    ∧ MayTrap base ∧ ∃ g : FmtNet, ¬ netLegal g e.2 := by
  intro e he
  refine ⟨{ vd := 3, va := 2, tree := 2, op := 2, et := 1, lk := 0 }, ?_, by decide +kernel, by decide +kernel, by decide +kernel,
    base_mayTrap, { vd := 3, va := 2, tree := 2, op := 2, et := 4, lk := 0 }, ?_⟩ <;>
  (unfold netLegal; revert e; decide +kernel)

theorem witness_NetworkRounds : ∀ b : Bool,
    PairRound { treeState with nets := [contribution 0 b, contribution 1 b] } (contribution 0 b) (contribution 1 b) treeWords.1 treeWords.2
    ∧ (contribution 0 b).et < 16 ∧ (contribution 0 b).op < 3 ∧ (contribution 0 b).bcast = b := by
  intro b
  cases b <;> exact ⟨by constructor <;> decide +kernel, by decide, by decide, rfl⟩

/-! ### Tensors, tiles and operand queues -/

/-- A valid descriptor with one block a row and no bitmap. -/
def desc (et kind : Nat) : BitVec 512 := BitVec.ofNat 512 (1 + et * 2 ^ 8 + kind * 2 ^ 16 + 2 ^ 32 + 2 ^ 48 + (2 ^ 64 - 1) * 2 ^ 128)

/-- A tensor table at 0x10000 of the scratchpad with tids 1 and 2 defined. -/
def tableState (et : Nat) (l : List (Reg × Ptr)) : State :=
  (((withRegs l).modTh (fun t => { t with tidbase := 0xF000000000010000, tidlim := 8 })).poke (scratchLoc 0 0x10040) 64
    (desc et 0).toNat).poke (scratchLoc 0 0x10080) 64 (desc et 0).toNat

def entryLoc (tid : Nat) : Loc := scratchLoc 0 (0x10000 + 64 * tid)

def xForm (x y z : Reg) (fl : Fin 16) : FmtX := { x := x, y := y, z := z, fl := fl, lk := 0 }

/-- s5 names tid 3, which has no entry, s6 points at the descriptor of tid 1. -/
def tdefState : State := tableState 12 [(5, .int 3), (6, sp 0x10040)]

/-- The entry of tid 3, all zeros. -/
theorem tdef_entry : Entry tdefState 3 (entryLoc 3) 0 := by
  constructor
  · decide +kernel
  · exact .inl (by decide +kernel)
  · constructor <;> decide +kernel
  · decide +kernel
  · decide +kernel
  · decide +kernel

theorem witness_TensorTable_tdef : ∃ (f : FmtX) (s : State) (ly lt : Loc) (d e : BitVec 512), Inv s ∧ Entry s (tidIn s.th f.x) lt e ∧ Placed s (s.th.get f.y) 64 .load ly
    ∧ (s.th.get f.y).v.toNat % 64 = 0 ∧ Quiet s ly 64 ∧ (s.core ly.home).vault.weakGranules = [] ∧ s.peek ly 64 = d.toNat
    ∧ s.me.rangeOf (tidIn s.th f.x) = none ∧ descReason d = 0
    ∧ Placed s (tableGa s.th.tidbase (tidIn s.th f.x)) 64 .store lt ∧ PlainWrite s lt 64 :=
  ⟨xForm 5 6 0 0, tdefState, entryLoc 1, entryLoc 3, desc 12 0, 0, by show Memory.wf _; decide +kernel, tdef_entry, .inl (by decide +kernel),
    by decide +kernel, by constructor <;> decide +kernel, by decide +kernel, by decide +kernel, by decide +kernel,
    by decide +kernel, .inl (by decide +kernel), by constructor <;> decide +kernel⟩

/-- The same source holding zeros: no block a row, reason 4. -/
theorem witness_TensorTable_invalid : ∃ (f : FmtX) (s : State) (ly lt : Loc) (d e : BitVec 512), Inv s ∧ Entry s (tidIn s.th f.x) lt e
    ∧ Placed s (s.th.get f.y) 64 .load ly
    ∧ (s.th.get f.y).v.toNat % 64 = 0 ∧ Quiet s ly 64 ∧ s.peek ly 64 = d.toNat ∧ s.me.rangeOf (tidIn s.th f.x) = none ∧ descReason d ≠ 0
    ∧ MayTrap s ∧ s.me.weakScratch = [] ∧ (s.core ly.home).vault.weakGranules = [] ∧ ly.home = s.turn.rank ∧ lt.home = s.turn.rank := by
  refine ⟨xForm 5 6 0 0, tableState 12 [(5, .int 3), (6, sp 0x20000)], scratchLoc 0 0x20000, entryLoc 3, 0, 0, by show Memory.wf _; decide +kernel,
    ?_, .inl (by decide +kernel), by decide +kernel, by constructor <;> decide +kernel, by decide +kernel, by decide +kernel,
    by decide +kernel, by constructor <;> decide +kernel, by decide +kernel⟩
  constructor
  · decide +kernel
  · exact .inl (by decide +kernel)
  · constructor <;> decide +kernel
  · decide +kernel
  · decide +kernel
  · decide +kernel

/-- tids 0 and 8 with TIDLIM 8, and tid 7 with a stationary range. -/
theorem witness_TensorTable_traps :
    tidIn (tableState 12 []).th 5 = 0 ∧ (tableState 12 [(5, .int 8)]).th.tidlim.toNat ≤ tidIn (tableState 12 [(5, .int 8)]).th 5
    ∧ (∃ (s : State) (l : Loc) (d : BitVec 512), s.me.rangeOf (tidIn s.th 5) ≠ none ∧ Entry s (tidIn s.th 5) l d ∧ l.home = s.turn.rank
      ∧ s.me.weakScratch = [] ∧ MayTrap s)
    ∧ MayTrap (tableState 12 []) := by
  refine ⟨by decide +kernel, by decide +kernel, ⟨(tableState 12 [(5, .int 7)]).modMe
    (fun c => { c with ranges := [{ tid := 7, p0 := 0, count := 1, dom := 0 }] }), entryLoc 7, 0, by decide +kernel, ?_, by decide +kernel,
    by decide +kernel, by constructor <;> decide +kernel⟩, by constructor <;> decide +kernel⟩
  constructor
  · decide +kernel
  · exact .inl (by decide +kernel)
  · constructor <;> decide +kernel
  · decide +kernel
  · decide +kernel
  · decide +kernel

def tinvState : State := tableState 12 [(5, .int 1)]

theorem tinv_entry : Entry tinvState 1 (entryLoc 1) (desc 12 0) := by
  constructor
  · decide +kernel
  · exact .inl (by decide +kernel)
  · constructor <;> decide +kernel
  · decide +kernel
  · decide +kernel
  · decide +kernel

theorem witness_TensorTable_entries : ∃ (f : FmtX) (s : State) (l : Loc) (d : BitVec 512), Inv s ∧ Entry s (tidIn s.th f.x) l d
    ∧ Entry s (tidIn s.th f.y) l d ∧ f.z.val = 8
    ∧ s.me.rangeOf (tidIn s.th f.x) = none ∧ Placed s (tableGa s.th.tidbase (tidIn s.th f.x)) 1 .store l ∧ Quiet s l 1
    ∧ PlainWrite s l 1 :=
  ⟨xForm 5 5 8 0, tinvState, entryLoc 1, desc 12 0, by show Memory.wf _; decide +kernel, tinv_entry, tinv_entry, rfl, by decide +kernel,
    .inl (by decide +kernel), by constructor <;> decide +kernel, by constructor <;> decide +kernel⟩

/-- s5 names tid 1, s6 points at the last position, s7 holds 1. -/
def mstatState : State := tableState 12 [(5, .int 1), (6, sp 0x2FF800), (7, .int 1)]

theorem mstat_entry : Entry mstatState 1 (entryLoc 1) (desc 12 0) := by
  constructor
  · decide +kernel
  · exact .inl (by decide +kernel)
  · constructor <;> decide +kernel
  · decide +kernel
  · decide +kernel
  · decide +kernel

theorem witness_StationaryTiles_mstat : ∃ (f : FmtX) (s : State) (l : Loc) (d : BitVec 512) (p0 n : Nat), Inv s
    ∧ Entry s (tidIn s.th f.x) l d ∧ bit d 0 = true ∧ (s.th.get f.y) = { sb := 0xF0, v := word (p0 * 0x800) }
    ∧ n = (s.th.val f.z).toNat ∧ 0 < n ∧ p0 + n = 1536 ∧ (∀ p, p0 ≤ p → p < p0 + n → s.fixedAt s.turn.rank (p * 0x800) = false)
    ∧ s.me.rangeOf (tidIn s.th f.x) = none ∧ NoReds s ∧ (∀ p, p0 ≤ p → p < p0 + n → s.badTileScale s.turn.rank d p0 p = none) := by
  refine ⟨xForm 5 6 7 0, mstatState, entryLoc 1, desc 12 0, 1535, 1, by show Memory.wf _; decide +kernel, mstat_entry, by decide +kernel,
    by decide +kernel, by decide +kernel, by decide, by decide, ?_, by decide +kernel, by unfold NoReds; decide +kernel, ?_⟩
  all_goals
    intro p h1 h2
    have : p = 1535 := by omega
    subst this
    decide +kernel

/-- tid 1 holds positions 4 and 5; s6 names its first tile, s7 points at a tile; q0 holds one tile. -/
def rangedState : State :=
  (tableState 12 [(5, .int 1), (7, sp 0x300000)]).modMe (fun c => { c with
    ranges := [{ tid := 1, p0 := 4, count := 2, dom := 0 }],
    queues := c.queues.setIfInBounds 0 { cfg := true, base := 0x310000, cap := 8, tid := 2, head := 0, count := 1, resv := [], pops := [], dom := 0 } })

theorem ranged_entry : Entry rangedState 1 (entryLoc 1) (desc 12 0) := by
  constructor
  · decide +kernel
  · exact .inl (by decide +kernel)
  · constructor <;> decide +kernel
  · decide +kernel
  · decide +kernel
  · decide +kernel

theorem witness_StationaryTiles_munst : ∃ (f : FmtX) (s : State) (l : Loc) (d : BitVec 512) (g : StatRange), Inv s
    ∧ Entry s (tidIn s.th f.x) l d
    ∧ s.me.rangeOf (tidIn s.th f.x) = some g ∧ s.me.mops = [] ∧ MayTrap mstatState ∧ Entry mstatState (tidIn mstatState.th f.x) l d
    ∧ l.home = mstatState.turn.rank ∧ mstatState.me.weakScratch = [] ∧ mstatState.me.rangeOf (tidIn mstatState.th f.x) = none :=
  ⟨xForm 5 6 7 0, rangedState, entryLoc 1, desc 12 0, { tid := 1, p0 := 4, count := 2, dom := 0 }, by show Memory.wf _; decide +kernel,
    ranged_entry, by decide +kernel, by decide +kernel, by constructor <;> decide +kernel, mstat_entry, by decide +kernel⟩

theorem ranged_named : TileNamed rangedState.me (desc 12 0) 1 0 4 0 :=
  ⟨{ tid := 1, p0 := 4, count := 2, dom := 0 }, 0, by decide +kernel⟩

theorem ranged_tileGa : TileGa rangedState (rangedState.th.get 7) (scratchLoc 0 0x300000) := by
  constructor
  · decide +kernel
  · decide +kernel
  · constructor <;> decide +kernel

theorem witness_StationaryTiles_tiles : ∃ (f g : FmtX) (s : State) (l : Loc) (d : BitVec 512) (p q : Nat), Inv s
    ∧ Entry s (tidIn s.th f.x) l d ∧ bit d 0 = true ∧ TileNamed s.me d (tidIn s.th f.x) (s.th.val f.y) p q
    ∧ p < (if s.pairing s.turn.rank then 1532 else 1536) ∧ s.th.mittenTid (tidIn s.th f.x) = false ∧ NoReds s ∧ s.me.mops = []
    ∧ nbit f.fl.val 0 = true ∧ (∃ ls, TileGa s (s.th.get f.z) ls ∧ PlainWrite s ls 0x800)
    ∧ nbit g.fl.val 0 = false ∧ g.z.val < 8 ∧ (s.me.queue g.z.val).cfg = true ∧ (s.me.queue g.z.val).pops = []
    ∧ 0 < (s.me.queue g.z.val).count
    ∧ HasRoom (s.me.queue g.z.val) :=
  ⟨xForm 5 0 7 1, xForm 5 0 0 0, rangedState, entryLoc 1, desc 12 0, 4, 0, by show Memory.wf _; decide +kernel, ranged_entry,
    by decide +kernel, ranged_named, by decide +kernel, by decide +kernel, by unfold NoReds; decide +kernel, by decide +kernel, by decide +kernel,
    ⟨_, ranged_tileGa, by constructor <;> decide +kernel⟩, by decide +kernel, by decide +kernel, by decide +kernel, by decide +kernel,
    by decide +kernel, by unfold HasRoom; decide +kernel⟩

/-- A `mwr` to position 4 from the queue's tile, read and waiting. -/
def writeOp : MatOp :=
  { id := 5, slot := 0, acc := 0, kind := .write, aDesc := desc 12 0, wDesc := desc 12 0, wTid := 1, mit := none, pos := 4, quarter := 0,
    index := 0, queue := 0, seq := 0, pop := true, qd := 0, record := none, sent := false, bar := none, dead := none, executing := false,
    read := true,
    args := some { a := 3, w := 0, aScale := 0, wScale := 0, aMap := 0, wMap := 0, wsum := [], aBook := 0, wBook := 0 } }

def writeState : State := rangedState.modMe (fun c => { c with
  mops := [writeOp]
  queues := c.queues.setIfInBounds 0
    { cfg := true, base := 0x310000, cap := 8, tid := 2, head := 0, count := 1, resv := [], pops := [(5, false)], dom := 0 } })

theorem witness_StationaryTiles_write : ∃ (s : State) (r mac : Nat) (m : MatOp) (g : MatArgs) (p0 : Nat), Inv s ∧ NoReds s
    ∧ (s.core r).macroHead mac = some m ∧ m.kind = .write ∧ m.executing = false ∧ m.dead = none ∧ m.read = true ∧ m.args = some g
    ∧ m.pos < 1536 ∧ p0 = ((s.core r).rangeOf m.wTid).elim 0 StatRange.p0 ∧ s.badOperand r m = none
    ∧ s.badTileScale r m.wDesc p0 m.pos = none ∧ ckptDom (s.thAt { rank := r, slot := m.slot }).domid = false ∧ m.pop = true
    ∧ ((s.core r).queue m.queue).pops = [(m.id, false)] ∧ m.queue < (s.core r).queues.size :=
  ⟨writeState, 0, 0, writeOp, _, 4, by show Memory.wf _; decide +kernel, by unfold NoReds; decide +kernel, by decide +kernel, rfl, rfl, rfl, rfl, rfl,
    by decide +kernel⟩

/-- A queue of 64 tiles up to the end of the scratchpad, and of 1 tile from the start of staging. -/
theorem witness_OperandQueues_qcfg : ∃ (f : FmtX) (s : State), f.x.val = 7 ∧ (s.th.get f.y).sb = 0xF0
    ∧ (s.th.get f.y).v.toNat % 0x800 = 0 ∧ (s.th.val f.z).toNat % 128 = 64 ∧ 0x300000 ≤ (s.th.get f.y).v.toNat
    ∧ (s.th.get f.y).v.toNat + (s.th.val f.z).toNat % 128 * 0x800 = (if s.pairing s.turn.rank then 0x33E000 else 0x340000)
    ∧ s.me.queueBusy f.x.val = false :=
  ⟨xForm 7 6 5 0, withRegs [(6, sp 0x320000), (5, .int 0x240)], by decide +kernel⟩

theorem witness_OperandQueues : ∃ (f g : FmtX) (s : State) (l : Loc), Inv s ∧ f.y.val < 8 ∧ (s.me.queue f.y.val).cfg = true
    ∧ s.me.queueBusy f.y.val = false ∧ (s.th.val f.z).toNat % 128 ≤ (s.me.queue f.y.val).cap
    ∧ (s.th.val f.z).toNat % 128 = (s.me.queue f.y.val).count
    ∧ g.x.val < 8 ∧ HasRoom (s.me.queue g.x.val) ∧ TileGa s (s.th.get g.y) l
    ∧ NoReds s ∧ s.me.mops = [] ∧ MayTrap base ∧ (base.me.queue 7).cfg = false :=
  ⟨xForm 4 0 5 0, xForm 0 7 0 0, rangedState, _, by show Memory.wf _; decide +kernel, by decide +kernel, by decide +kernel,
    by decide +kernel, by decide +kernel, by decide +kernel, by decide, by unfold HasRoom; decide +kernel, ranged_tileGa,
    by unfold NoReds; decide +kernel, by decide +kernel, base_mayTrap,
    by decide +kernel⟩

/-! ### Matrix operations -/

/-- Accumulator 2 bound to q0 and tid 1 in class 1 (INT32), sealed with checksums or not. -/
def bindWord (chk ctrap : Bool) : Word := word (2 ^ 23 + ofBool chk * 2 ^ 22 + ofBool ctrap * 2 ^ 21 + 1 * 2 ^ 8 + 1)

def accState (chk ctrap : Bool) (f : Acc → Acc) : State :=
  rangedState.modTh (fun t => { t with accs := t.accs.setIfInBounds 2 (f { Acc.zero with bind := bindWord chk ctrap }) })

def matState : State := accState false false id

theorem mat_entry (tid : Nat) (h : tid = 1 ∨ tid = 2) : Entry matState tid (entryLoc tid) (desc 12 0) := by
  rcases h with rfl | rfl <;>
  · constructor
    · decide +kernel
    · exact .inl (by decide +kernel)
    · constructor <;> decide +kernel
    · decide +kernel
    · decide +kernel
    · decide +kernel

theorem mat_ready (kind : MatKind) (h : kind ≠ .sparse) :
    MatrixReady matState 2 kind 0 (entryLoc 1) (entryLoc 2) (desc 12 0) (desc 12 0) 4 0 where
  bound := by decide +kernel
  even := by decide +kernel
  queue := by decide +kernel
  weights := ⟨mat_entry 1 (.inl rfl), by decide +kernel⟩
  actives := ⟨mat_entry 2 (.inr rfl), by decide +kernel⟩
  types := by decide +kernel
  kinds := by decide +kernel
  maps := fun hk => absurd hk h
  tile := ⟨{ tid := 1, p0 := 4, count := 2, dom := 0 }, 0, by decide +kernel⟩
  room := by decide +kernel

theorem witness_MatrixIssue_products : ∃ (f : FmtX) (s : State) (n : Fin 8) (lw la : Loc) (w a : BitVec 512) (p q : Nat), Inv s ∧ NoReds s
    ∧ names f.x n ∧ MatrixReady s n .mac (s.th.val f.y) lw la w a p q ∧ MatrixReady s n .mul (s.th.val f.y) lw la w a p q :=
  ⟨xForm 2 0 0 1, matState, 2, _, _, _, _, _, _, by show Memory.wf _; decide +kernel, by unfold NoReds; decide +kernel, rfl, mat_ready .mac (by decide),
    mat_ready .mul (by decide)⟩

/-- A gang task off position 0 would need a queue with room; q0 has room in any case. -/
theorem witness_MatrixIssue_gang : ∃ (f : FmtX) (s : State) (n : Fin 8) (k : Task), Inv s ∧ NoReds s ∧ names f.x n ∧ s.th.task = some k
    ∧ k.gang = true ∧ (s.th.get f.z).sb = 0xF0 ∧ (s.th.get f.z).v.toNat % 16 = 0 ∧ (s.th.get f.z).v.toNat + 16 ≤ 0x340000
    ∧ s.fixedAt s.turn.rank (s.th.get f.z).v.toNat = false ∧ HasRoom (s.me.queue (field (s.th.acc n).bind 16 3)) :=
  ⟨xForm 2 0 7 0, matState.modTh (fun t => { t with task := some { someTask 2 with gang := true } }), 2, { someTask 2 with gang := true },
    by show Memory.wf _; decide +kernel, by unfold NoReds; decide +kernel, rfl, by decide +kernel, rfl, by decide +kernel, by decide +kernel, by decide +kernel,
    by decide +kernel, by unfold HasRoom; decide +kernel⟩

/-- Field 8 and the unbound accumulator 7. -/
theorem witness_MatrixIssue_traps : MayTrap base ∧ 8 ≤ (xForm 8 0 0 0).x.val ∧ names (xForm 7 0 0 0).x 7 ∧ bit (base.th.acc 7).bind 23 = false :=
  ⟨base_mayTrap, by decide, rfl, by decide +kernel⟩

/-- An operation of macro 0 with zero operands. -/
def someOp (executing : Bool) : MatOp :=
  { id := 5, slot := 0, acc := 2, kind := .mac, aDesc := desc 12 0, wDesc := desc 12 0, wTid := 1, mit := none, pos := 4, quarter := 0,
    index := 0, queue := 0, seq := 0, pop := true, qd := 0, record := none, sent := false, bar := none, dead := none,
    executing := executing, read := true, args := some { a := 3, w := 2, aScale := 0, wScale := 0, aMap := 0, wMap := 0, wsum := [], aBook := 0, wBook := 0 } }

def opState (executing : Bool) : State :=
  (accState true false id).modMe (fun c => { c with
    mops := [someOp executing]
    queues := c.queues.setIfInBounds 0 { c.queues.getD 0 { cfg := true, base := 0x310000, cap := 8, tid := 2, head := 0, count := 1, resv := [], pops := [], dom := 0 } with pops := [(5, false)] } })

theorem witness_MatrixRuns_start : ∃ g, Lone (opState false) 0 0 (someOp false) g ∧ (someOp false).executing = false
    ∧ descKind (someOp false).aDesc = 0 ∧ descKind (someOp false).wDesc = 0
    ∧ (opState false).unreadable (scratchLoc 0 (((opState false).core 0).queue 0 |>.tileOff 0)) 0x800 = false
    ∧ (((opState false).core 0).queue 0).pops = [(5, false)] := by
  refine ⟨{ a := 3, w := 2, aScale := 0, wScale := 0, aMap := 0, wMap := 0, wsum := [], aBook := 0, wBook := 0 }, ?_, rfl, by decide +kernel,
    by decide +kernel, by decide +kernel, by decide +kernel⟩
  constructor
  · decide +kernel
  · decide +kernel
  · exact .inl rfl
  · exact ⟨rfl, rfl⟩
  · decide +kernel

theorem witness_MatrixRuns_complete : ∃ (g : MatArgs) (a : Thread), Lone (opState true) 0 0 (someOp true) g ∧ (someOp true).executing = true
    ∧ a = (opState true).thAt { rank := 0, slot := 0 } ∧ bit a.errinj 31 = false ∧ field (a.acc 2).bind 0 2 = 1
    ∧ a.inPair 2 = false ∧ bit (a.acc 2).bind 22 = true := by
  refine ⟨{ a := 3, w := 2, aScale := 0, wScale := 0, aMap := 0, wMap := 0, wsum := [], aBook := 0, wBook := 0 }, _, ?_, rfl, rfl,
    by decide +kernel⟩
  constructor
  · decide +kernel
  · decide +kernel
  · exact .inl rfl
  · exact ⟨rfl, rfl⟩
  · decide +kernel

/-- A pair in class 2, FP64. -/
theorem witness_MatrixRuns_pair : ∃ a : Thread, a.inPair 2 = true ∧ field (a.acc 2).bind 0 2 = 2 ∧ (2 : Fin 8).val % 2 = 0 :=
  ⟨(base.modTh (fun t => { t with accs := t.accs.setIfInBounds 2 { Acc.zero with bind := word (2 ^ 23 + 2) } })).th, by decide +kernel⟩

/-- An INT8 tensor, so that the class is INT32; q0 configured with tid 2 of the same type. -/
theorem witness_AccumulatorMembers_mbind : ∃ (f : FmtX) (n : Fin 8) (l : Loc) (w : BitVec 512) (aKind cls : Nat), Inv matState
    ∧ names f.x n ∧ f.y.val < 8 ∧ nbit f.fl.val 2 = false ∧ matState.accBusy n = false ∧ matState.accBusy (evenOf n) = false ∧ matState.accBusy (oddOf n) = false
    ∧ Entry matState (tidIn matState.th f.z) l w ∧ bit w 0 = true ∧ field w 8 4 ∉ [9, 10, 11, 15]
    ∧ ((field w 8 4 = 12 ∨ field w 8 4 = 13) ∧ (matState.me.queue f.y.val).cfg = true →
      ∃ la a, Entry matState (matState.me.queue f.y.val).tid la a ∧ aKind = field a 16 3)
    ∧ cls = boundClass w aKind ∧ (field w 16 3 = 3 → cls ≠ 1) ∧ cls = 1 :=
  ⟨xForm 3 0 5 1, 3, entryLoc 1, desc 12 0, 0, 1, by show Memory.wf _; decide +kernel, rfl, by decide, by decide +kernel, by decide +kernel,
    by decide +kernel, by decide +kernel, mat_entry 1 (.inl rfl), by decide +kernel, by decide +kernel,
    fun _ => ⟨_, _, mat_entry 2 (.inr rfl), by decide +kernel⟩, by decide +kernel, by decide +kernel, rfl⟩

/-- FP64 binds a pair: an odd accumulator falls to the even one, and q7 is not configured. -/
theorem witness_AccumulatorMembers_pair : ∃ (s : State) (w : BitVec 512), Entry s (tidIn s.th 5) (entryLoc 1) w ∧ boundClass w 0 = 2
    ∧ evenOf 3 ≠ 3 ∧ s.accBusy 3 = false ∧ s.accBusy (evenOf 3) = false ∧ bit w 0 = true ∧ (s.me.queue 7).cfg = false := by
  refine ⟨tableState 0 [(5, .int 1)], desc 0 0, ?_, by decide +kernel, by decide +kernel, by decide +kernel, by decide +kernel, by decide +kernel⟩
  constructor
  · decide +kernel
  · exact .inl (by decide +kernel)
  · constructor <;> decide +kernel
  · decide +kernel
  · decide +kernel
  · decide +kernel

theorem witness_AccumulatorMembers_mzero_mfix : names (xForm 2 0 0 0).x 2 ∧ matState.accBusy 2 = false
    ∧ bit (matState.th.acc 2).bind 23 = true ∧ nbit (xForm 2 0 0 0).fl.val 0 = false := ⟨rfl, by decide +kernel⟩

/-- The accumulator's 1024 zero elements against checksums of 1 in the rows and columns given. -/
def checked (ctrap : Bool) (rows cols : Nat) : State :=
  accState true ctrap (fun a => { a with cr := BitVec.ofNat 2048 cols, cc := BitVec.ofNat 2048 rows })

def failures (s : State) : List Nat × List Nat :=
  (failingRows (s.th.acc 2) (s.th.accElems 2 1), failingCols (s.th.acc 2) (s.th.accElems 2 1))

theorem witness_AccumulatorMembers_mchk : names (xForm 4 2 0 0).y 2 ∧ matState.accBusy 2 = false ∧ bit (matState.th.acc 2).bind 22 = false
    ∧ bit ((checked false 0 0).th.acc 2).bind 22 = true ∧ failures (checked false 0 0) = ([], []) ∧ (checked false 0 0).rollbackDue = [] :=
  ⟨rfl, by decide +kernel⟩

/-- Two failing rows and no failing column: an uncorrectable check, with CTRAP clear and set. -/
theorem witness_AccumulatorMembers_mchk_fails : ∀ b : Bool, bit ((checked b (1 + 2 ^ 64) 0).th.acc 2).bind 22 = true
    ∧ bit ((checked b (1 + 2 ^ 64) 0).th.acc 2).bind 21 = b ∧ failures (checked b (1 + 2 ^ 64) 0) = ([0, 1], [])
    ∧ (checked b (1 + 2 ^ 64) 0).rollbackDue = [] ∧ ckptDom (checked b (1 + 2 ^ 64) 0).th.domid = false := by decide +kernel

/-- One failing row and one failing column: element 0 is 1 after the correction. -/
theorem witness_AccumulatorMembers_mchk_corrects : ∃ (s : State) (l : List Nat), l = s.th.accElems 2 1 ∧ bit (s.th.acc 2).bind 22 = true
    ∧ field (s.th.acc 2).bind 0 2 = 1 ∧ failingRows (s.th.acc 2) l = [0] ∧ failingCols (s.th.acc 2) l = [0]
    ∧ failingRows (s.th.acc 2) (l.set 0 (corrected (s.th.acc 2) 1 l 0 0)) = []
    ∧ failingCols (s.th.acc 2) (l.set 0 (corrected (s.th.acc 2) 1 l 0 0)) = [] :=
  ⟨checked false 1 1, _, rfl, by decide +kernel⟩

/-- The same without a stationary range. -/
def drainState : State := matState.modMe (fun c => { c with ranges := [] })

def matRes (f : FmtX) (k : Nat) : Nat × Flags :=
  drainResult 1 (.float f64) (drainMode (drainState.th.val f.x) drainState.th) (bit (drainState.th.val f.x) 7) (.fin false 1 0)
    (if drainMode (drainState.th.val f.x) drainState.th = 5 then (Nat.iterate srNext (k + 1) drainState.th.srseed).toNat / 2 ^ 32 else 0)
    (accElem drainState.th 2 1 k)

theorem drain_drains (f : FmtX) (h : f = xForm 4 2 0 0 ∨ f = xForm 4 2 7 1 ∨ f = xForm 4 2 0 2) :
    ∃ res fl, Drains drainState f 2 (.float f64) res fl ∧ Untrapped drainState.th fl := by
  refine ⟨matRes f, orFlags 1024 (fun _ => true) (fun k => (matRes f k).2) ||| (if bit (drainState.th.acc 2).bind 20 then flagNX else 0), ?_,
    untrapped_of _ _ (by decide +kernel)⟩
  have h1 : field (drainState.th.acc 2).bind 0 2 = 1 := by decide +kernel
  constructor
  · rcases h with rfl | rfl | rfl <;> rfl
  · unfold NoReds; decide +kernel
  · decide +kernel
  · rcases h with rfl | rfl | rfl <;> decide +kernel
  · refine ⟨fun _ => .fin false 1 0, .inl ⟨.inr h1, fun _ => rfl⟩, ?_⟩
    intro k
    rw [h1]
    rfl
  · rfl

theorem drainState_quiet (o n : Nat) : Quiet drainState (scratchLoc 0 o) n := by
  refine quiet_scratch _ _ _ rfl ⟨rfl, rfl⟩ rfl rfl ?_ rfl rfl rfl
  intro q hq
  have h : drainState.cores = [(0, drainState.core 0)] := rfl
  rw [h, List.mem_singleton] at hq
  subst hq
  rfl

/-- An FP64 drain of 8 KiB into the scratchpad, and into registers 0-15. -/
theorem witness_MatrixDrain : (∃ res fl, Drains drainState (xForm 4 2 7 1) 2 (.float f64) res fl ∧ Untrapped drainState.th fl)
    ∧ (∃ res fl, Drains drainState (xForm 4 2 0 2) 2 (.float f64) res fl ∧ Untrapped drainState.th fl) ∧ Inv drainState
    ∧ (drainState.th.get 7).sb = 0xF0 ∧ drainState.turn.slot ≠ 4 ∧ (drainState.th.get 7).v.toNat % 64 = 0
    ∧ (drainState.th.get 7).v.toNat + 128 * 64 ≤ 0x340000 ∧ QuietRange drainState (scratchLoc 0 (drainState.th.get 7).v.toNat) (128 * 64)
    ∧ PlainRange drainState (scratchLoc 0 (drainState.th.get 7).v.toNat) (128 * 64) ∧ (xForm 4 2 0 2).z.val + 64 / 4 ≤ 32 :=
  ⟨drain_drains _ (.inr (.inl rfl)), drain_drains _ (.inr (.inr rfl)), by show Memory.wf _; decide +kernel, by decide +kernel, by decide +kernel,
    by decide +kernel, by decide +kernel, fun _ _ _ _ => drainState_quiet _ _, fun _ _ _ _ => plain_scratch _ _ _ rfl rfl rfl rfl, by decide⟩

/-- q0 holds one tile and has room for the four of an FP64 drain. -/
theorem witness_MatrixDrain_queue : ∃ res fl, Drains drainState (xForm 4 2 0 0) 2 (.float f64) res fl ∧ Untrapped drainState.th fl
    ∧ (xForm 4 2 0 0).fl.val % 4 = 0 ∧ (drainState.me.queue 0).count + (64 + 15) / 16 ≤ (drainState.me.queue 0).cap
    ∧ (drainState.me.queue 0).cfg = true ∧ (drainState.me.queue 0).resv = []
    ∧ 0x300000 ≤ (drainState.me.queue 0).base ∧ (drainState.me.queue 0).base + (drainState.me.queue 0).cap * 0x800 ≤ 0x340000 := by
  obtain ⟨res, fl, h1, h2⟩ := drain_drains _ (.inl rfl)
  exact ⟨res, fl, h1, h2, by decide +kernel⟩

/-! ### Bands -/

/-- An installed set with its missed-encounter region in vault 0. -/
def someSet (faulted : Bool) : PairSet :=
  { pc := sp 0x400, prio := 3, cwTid := 1, ccwTid := 2, accRule := 0, domain := 0, argBase := 0, ejBase := 0,
    regions := [(0, 0, 0), (0, 0, 0x10000)], evctl := 0, srseed := 1, tidbase := 0, tidlim := 8, launch := 0, wdog := 0, faulted := faulted }

def withSet (s : State) (faulted : Bool) : State := s.modBand 0 (fun z => { z with glove := z.glove.setIfInBounds 0 (some (someSet faulted)) })

/-- s5 points at a tile of zeros, s6 at a descriptor with a lap limit of 1 for set 0. -/
def injectState : State := (withRegs [(5, sp 0x300000), (6, sp 0x301000)]).poke (scratchLoc 0 0x301021) 1 0x10

theorem inject_bytes (s : State) (h : s = injectState ∨ s = withSet injectState false ∨ s = withSet injectState true) :
    ScratchBytes s (s.th.get 5) 0x800 0 ∧ ScratchBytes s (s.th.get 6) 64 (0x10 * 256 ^ 0x21) ∧ s.me.sstep = [] ∧ s.turn.slot ≠ 4
    ∧ MayTrap s := by
  rcases h with rfl | rfl | rfl <;>
  exact ⟨⟨by decide +kernel, by decide +kernel, by decide +kernel, by constructor <;> decide +kernel, by decide +kernel, by decide +kernel⟩,
    ⟨by decide +kernel, by decide +kernel, by decide +kernel, by constructor <;> decide +kernel, by decide +kernel, by decide +kernel⟩,
    by decide +kernel, by decide +kernel, by constructor <;> decide +kernel⟩

theorem witness_BandInjects : byteField (0x10 * 256 ^ 0x21) 0x21 1 % 8 = 0 ∧ byteField (0x10 * 256 ^ 0x21) 0x21 1 / 16 % 8 = 1
    ∧ (∀ b : Bool, ((withSet injectState b).band 0).glove.getD 0 none = some (someSet b))
    ∧ (injectState.band 0).glove.getD 0 none = none := by decide +kernel

/-- A page table of core 0: nodes at 0x20000, 0x40000, 0x60000 and 0x80000 of its vault; page k lies at its core's vault, 32 pages. -/
def tableCells : List (Nat × Nat) :=
  [(0x20000, 0x800C000000000002), (0x40000, 0x800C000000000003), (0x60000, 0x800C000000000004)]
    ++ (List.range 32).map (fun k => (0x80000 + 8 * k, 0x86F0000000000000 + k / 2 * 2 ^ 27 + k % 2 + 0x100))

def pagedState (l : List (Reg × Ptr)) : State :=
  tableCells.foldl (fun s c => s.poke (vaultLoc 0 c.1) 8 c.2) ((withRegs l).modMe (fun c => { c with ptbase := 0x20001 }))

/-- s7 points at a descriptor of zeros: pc 0, EJBASE 0. -/
theorem witness_BandMembers_bset : ∃ (f : FmtX) (s : State) (d n : Nat), ScratchBytes s (s.th.get f.z) 32 d ∧ s.turn.slot ≠ 4
    ∧ n = (s.th.val f.y).toNat % 8 ∧ byteField d 0 8 % 4 = 0 ∧ byteField d 0x18 8 % 0x20000 = 0
    ∧ s.regionWaits s.turn.rank (word (byteField d 0x18 8)) = none
    ∧ ∃ l, s.bsetCheck n (byteField d 0 8) (byteField d 0x18 8) = .ok l ∧ l.length = 32 := by
  refine ⟨xForm 4 0 7 0, pagedState [(7, sp 0x300000)], 0, 0,
    ⟨by decide +kernel, by decide +kernel, by decide +kernel, by constructor <;> decide +kernel, by decide +kernel, by decide +kernel⟩,
    by decide +kernel, by decide +kernel, by decide +kernel, by decide +kernel, by decide +kernel, ?_⟩
  have h : ∃ l, (pagedState [(7, sp 0x300000)]).bsetCheck 0 0 0 = .ok l ∧ l.length = 32 := by
    have h1 : (match (pagedState [(7, sp 0x300000)]).bsetCheck 0 0 0 with | .ok l => decide (l.length = 32) | .error _ => false) = true := by
      decide +kernel
    revert h1
    cases (pagedState [(7, sp 0x300000)]).bsetCheck 0 0 0 with
    | ok l => exact fun h1 => ⟨l, rfl, of_decide_eq_true h1⟩
    | error e => exact fun h1 => by cases h1
  simpa [byteField] using h

/-- A pc of 2, and a set that is installed already. -/
theorem witness_BandMembers_bset_refused : byteField 2 0 8 % 4 ≠ 0
    ∧ ScratchBytes ((withRegs [(7, sp 0x300000)]).poke (scratchLoc 0 0x300000) 1 2) (sp 0x300000) 32 2
    ∧ ScratchBytes (withSet base false) (sp 0x300000) 32 0 ∧ ((withSet base false).band 0).glove.getD 0 none ≠ none :=
  ⟨by decide +kernel,
    ⟨by decide +kernel, by decide +kernel, by decide +kernel, by constructor <;> decide +kernel, by decide +kernel, by decide +kernel⟩,
    ⟨by decide +kernel, by decide +kernel, by decide +kernel, by constructor <;> decide +kernel, by decide +kernel, by decide +kernel⟩,
    by decide +kernel⟩

theorem witness_BandMembers_bclr : (base.band 0).glove.getD 0 none = none
    ∧ ((withSet base true).band 0).glove.getD 0 none = some (someSet true) ∧ (someSet true).faulted = true
    ∧ ((withSet base false).band 0).glove.getD 0 none = some (someSet false) ∧ ((withSet base false).band 0).quiet = true ∧ ¬ Black (withSet base false) (someSet false) 0
    ∧ (∀ p, p < 16 → ((withSet base false).core p).inj.getD 0 0
        = ((withSet base false).core p).ret.getD 0 0 + ((withSet base false).core p).ej.getD 0 0) := by unfold Black; decide +kernel

theorem witness_BandMembers_bmiss_bstat : nbit (xForm 4 0 0 1).fl.val 0 = true ∧ nbit (xForm 4 0 0 0).fl.val 0 = false ∧ base.me.missLog = []
    ∧ (base.modMe (fun c => { c with missLog := [9] })).me.missLog = [9] ∧ base.me.meqCount.getD 0 0 < 2 ^ 32
    ∧ 6 < (xForm 4 0 7 0).z.val ∧ (xForm 4 0 4 0).z.val = 4 := by decide +kernel

/-- An entry of zeros whose status is not zero: no check of its payload. s5 points at 4 KiB of the scratchpad. -/
def missState : State :=
  ((withSet (pointing (sp 0x300000)) false).modMe (fun c => { c with meqCount := c.meqCount.setIfInBounds 0 1 })).poke (vaultLoc 0 0x840) 1 1

theorem miss_quiet (o n : Nat) (h : o + n ≤ 0x1000) : Quiet missState (scratchLoc 0 (0x300000 + o)) n where
  still := rfl
  held := rfl
  remote := fun h => absurd rfl h
  meets := by
    unfold State.meets
    have h1 : (missState.band 0).power = 0 := rfl
    have h2 : missState.dieHeld 0 = false := rfl
    simp [scratchLoc, h1, h2]
  reds := by
    intro q hq
    have h : missState.cores = [(0, missState.core 0)] := rfl
    rw [h, List.mem_singleton] at hq
    subst hq
    intro e he
    cases he
  readable := by
    unfold State.unreadable
    have h1 : (missState.core 0).badScratch = [] := rfl
    simp [scratchLoc, h1]
  matched := by
    unfold State.look
    have h2 : ¬ 0x33E000 < 0x300000 + o + n := by omega
    simp [scratchLoc, h2]
  uninjected := by decide +kernel

theorem miss_plain (o n : Nat) (h : o + n ≤ 0x1000) : PlainWrite missState (scratchLoc 0 (0x300000 + o)) n where
  table := fun h => by cases h
  free := by
    unfold State.fixedLoc State.fixedAt Core.fixedOffset
    have h1 : (missState.core 0).ranges = [] := rfl
    have h2 : ¬ 0x33E000 ≤ 0x300000 + o := by omega
    have h3 : ¬ 0x300000 + o < 0x300000 := by omega
    simp [scratchLoc, h1, h2]
  unread := by
    unfold State.readFirst
    have h1 : missState.me.mops = [] := rfl
    rw [h1]
    simp
  plain := by decide +kernel
  mapped := fun h => by cases h

theorem witness_BandMembers_pget : ∃ (f : FmtX) (s : State) (n : Nat) (g : PairSet) (l d : Loc) (v : Nat), Inv s
    ∧ (s.band (s.turn.rank / 16)).glove.getD n none = some g ∧ 0 < s.me.meqCount.getD n 0 ∧ n < 8
    ∧ g.entry (s.turn.rank % 16) (s.me.meqHead.getD n 0) = some l ∧ l.region = .vault ∧ l.home = s.turn.rank ∧ (s.core l.home).vault.weakGranules = []
    ∧ Quiet s l 0x800 ∧ Quiet s { l with off := l.off + 0x800 } 0x800
    ∧ (s.th.get f.z).sb = 0xF0 ∧ s.turn.slot ≠ 4 ∧ (s.th.get f.z).v.toNat % 64 = 0 ∧ (s.th.get f.z).v.toNat + 0x1000 ≤ 0x340000
    ∧ d = scratchLoc s.turn.rank (s.th.get f.z).v.toNat ∧ QuietRange s d 0x1000 ∧ PlainRange s d 0x1000
    ∧ v = s.peek l 0x1000 ∧ byteField v 0x840 8 % 256 ≠ 0 := by
  refine ⟨xForm 4 0 5 0, missState, 0, someSet false, vaultLoc 0 0, scratchLoc 0 0x300000, _, by show Memory.wf _; decide +kernel,
    by decide +kernel, by decide +kernel, by decide, by decide +kernel, rfl, by decide +kernel, by decide +kernel, by constructor <;> decide +kernel,
    by constructor <;> decide +kernel, by decide +kernel, by decide +kernel, by decide +kernel, by decide +kernel, by decide +kernel, ?_, ?_,
    rfl, by decide +kernel⟩
  · exact fun o k _ h => miss_quiet o k h
  · exact fun o k _ h => miss_plain o k h

/-- The head is empty, or no set is installed. -/
theorem witness_BandMembers_pget_none : (base.band 0).glove.getD 0 none = none ∧ base.me.meqCount.getD 0 0 = 0 := by decide +kernel

def mittenState : State :=
  (base.modTh (fun t => { t with task := some { someTask 0 with mitten := some 3 } })).modMe (fun c => { c with
    mitten := c.mitten.setIfInBounds 3 (some { task := 1, set := 0, i := 0, j := 0, wsum := [] }) })

theorem witness_BandMembers_prel : base.th.task = none ∧ mittenState.th.task = some { someTask 0 with mitten := some 3 }
    ∧ mittenState.me.mitten.getD 3 none = some { task := 1, set := 0, i := 0, j := 0, wsum := [] } ∧ (someTask 0).id = 1
    ∧ mittenState.me.mops = [] := by decide +kernel

/-- A tile of zeros of set 0 from position `orig`, with two partners left. -/
def someTile (chk : BitVec 32) (orig : Nat) (fam : Family) : Tile :=
  { payload := 0, pmask := 3, chk := chk, tid := 1, idx := 0, orig := orig, lapLim := 1, lapCnt := 0, set := 0,
    fam := fam, bcast := false, hecc := 0, copy1 := 0, copy2 := 0, weak := false, bad := false, inj := false, held := false, dom := 0 }

/-- A clockwise tile at position 15, and at the cycle before clockwise tiles move. -/
theorem witness_BandEvents_step : ∃ (s : State) (z : Band), z = s.band 0 ∧ z.glove = .replicate 8 none ∧ (z.cycle + 2) % 4 = 0
    ∧ (z.ring .cw).getD 15 none = some (someTile 0 0 .cw)
    ∧ ∀ p, p < 16 → ∀ x ∈ ((z.ring .cw).getD p none).toList, Plain p x :=
  ⟨base.modBand 0 (fun z => { z with cycle := 2, cw := z.cw.setIfInBounds 15 (some (someTile 0 0 .cw)) }), _, rfl, by unfold Plain; decide +kernel⟩

theorem crcBit_lt (c : Nat) (h : c < 2 ^ 32) : crcBit c < 2 ^ 32 := by
  unfold crcBit
  split
  · exact Nat.xor_lt_two_pow (by omega) (by decide)
  · omega

theorem crcByte_lt (c b : Nat) (hc : c < 2 ^ 32) (hb : b < 256) : crcByte c b < 2 ^ 32 := by
  have h : ∀ (l : List Nat) (c : Nat), c < 2 ^ 32 → l.foldl (fun c _ => crcBit c) c < 2 ^ 32 := by
    intro l
    induction l with
    | nil => exact fun c h => h
    | cons x l ih => exact fun c h => ih _ (crcBit_lt c h)
  exact h _ _ (Nat.xor_lt_two_pow hc (by omega))

theorem crc32c_lt (n v : Nat) : crc32c n v < 2 ^ 32 := by
  have h : ∀ (n v c : Nat), c < 2 ^ 32 → crcBytes n v c < 2 ^ 32 := by
    intro n
    induction n with
    | zero => exact fun v c h => h
    | succ n ih => exact fun v c h => ih _ _ (crcByte_lt c _ h (by omega))
  exact Nat.xor_lt_two_pow (h n v _ (by decide)) (by decide)

theorem ofNat_self (k : Nat) (h : k < 2 ^ 32) : decide (k = (BitVec.ofNat 32 k).toNat) = true := by
  rw [BitVec.toNat_ofNat, Nat.mod_eq_of_lt h]
  exact decide_eq_true rfl

/-- A tile whose check value is that of its payload. -/
theorem intact_tile (o : Nat) (fam : Family) : (someTile (BitVec.ofNat 32 (crc32c 2048 0)) o fam).intact = true :=
  ofNat_self (crc32c 2048 0) (crc32c_lt 2048 0)

def injection (chk : BitVec 32) : Injection := { id := 1, pos := 0, tile := someTile chk 0 .cw, slot := 0, since := 0, claim := false }

def partner (chk : BitVec 32) : Tile := { someTile chk 1 .ccw with idx := 1 }

theorem partner_intact : (partner (BitVec.ofNat 32 (crc32c 2048 0))).intact = true := intact_tile 1 .ccw

def meetState (chk : BitVec 32) : State :=
  (withSet base false).modBand 0 (fun z => { z with free := [0], pend := [injection chk], ccw := z.ccw.setIfInBounds 0 (some (partner chk)) })

theorem witness_BandEvents_injection : ∃ (s : State) (z : Band) (g : PairSet) (x : Injection) (y : Tile), z = s.band 0 ∧ z.pend = [x]
    ∧ z.cycle % 4 = 0 ∧ 0 ∈ z.free ∧ (z.ring .cw).getD 0 none = none ∧ z.glove.getD 0 none = some g ∧ g.faulted = false
    ∧ z.ccw.getD 0 none = some y ∧ y.bcast = false ∧ y.set = 0 ∧ x.tile.pmask.getLsbD y.idx = true ∧ x.tile.bcast = false
    ∧ x.since ≤ z.cycle ∧ x.tile.set < 8 ∧ y.pmask.getLsbD x.tile.idx = true ∧ x.tile.intact = true ∧ y.intact = true ∧ x.tile.fam = .cw ∧ x.pos = 0
    ∧ (s.core 0).mitten.getD 0 none = none ∧ (s.core 0).ready = [] ∧ Inv s :=
  ⟨meetState _, _, someSet false, injection _, partner (BitVec.ofNat 32 (crc32c 2048 0)), rfl, rfl, rfl, List.mem_singleton.mpr rfl, rfl, rfl,
    rfl, rfl, rfl, rfl, rfl, rfl, Nat.le_refl 0, by decide, rfl, intact_tile 0 .cw, partner_intact, rfl, rfl, rfl, rfl, base_inv⟩

/-- With no set the tile only enters; a claim after 64 band cycles. -/
theorem witness_BandEvents_claim : ∃ s : State, (s.band 0).pend = [injection 0] ∧ (s.band 0).glove.getD 0 none = none
    ∧ (injection 0).pos = 0 % 16 ∧ (injection 0).claim = false ∧ (injection 0).since + 64 = (s.band 0).cycle ∧ (s.band 0).cycle % 4 = 0 :=
  ⟨base.modBand 0 (fun z => { z with pend := [injection 0], cycle := 64 }), by decide +kernel⟩

def ejection : Ejection := { tile := someTile 0 0 .cw, cause := 1, place := 3, waiting := false }

theorem witness_BandEvents_messages : ∃ (z w : Band) (s u v : State), s.bands = [(0, z)] ∧ z.retire = [(15, 7, 0)] ∧ u.bands = [(0, w)]
    ∧ w.eject = [ejection] ∧ w.writing = [] ∧ (u.core 0).meqCount.getD 0 0 < 32 ∧ v = withSet (base.modBand 0 (fun z => { z with writing := [ejection] })) false
    ∧ (v.band 0).writing = [ejection] ∧ (v.band 0).glove.getD 0 none = some (someSet false)
    ∧ (someSet false).entry 0 (((v.core 0).meqHead.getD 0 0 + (v.core 0).meqCount.getD 0 0) % 32) = some (vaultLoc 0 0)
    ∧ (vaultLoc 0 0).off % 0x1000 = 0 ∧ ejection.waiting = false ∧ v.meets false (vaultLoc 0 0) = .nothing ∧ (∀ p ∈ v.cores, p.2.redbuf = []) ∧ Inv v :=
  ⟨{ Band.reset with retire := [(15, 7, 0)] }, { Band.reset with eject := [ejection] },
    { base with bands := [(0, { Band.reset with retire := [(15, 7, 0)] })] }, { base with bands := [(0, { Band.reset with eject := [ejection] })] }, _,
    rfl, rfl, rfl, rfl, rfl, by decide +kernel, rfl, by decide +kernel, by decide +kernel, by decide +kernel, by decide, rfl, by decide +kernel,
    by decide +kernel, base_inv⟩

/-! ### Tile transfers -/

def tForm (q a t : Reg) (cnt : Fin 16) : FmtT := { q := q, a := a, t := t, cnt := cnt, lk := 0 }

def oneTile (resv : List Bool) : OpQueue :=
  { cfg := true, base := 0x310000, cap := 8, tid := 2, head := 0, count := 1, resv := resv, pops := [], dom := 0 }

/-- s5 points at the first tile of the own vault; q0 is configured with 8 slots and one tile. -/
def transferState : State :=
  (withRegs [(5, { sb := 0xF3, v := 0 })]).modMe (fun c => { c with queues := c.queues.setIfInBounds 0 (oneTile []) })

theorem witness_TileTransfers : ∃ (f : FmtT) (s : State) (q : OpQueue) (offs : List Nat), f.q.val < 8 ∧ s.th.resumeTiles = 0
    ∧ q = s.me.queue f.q.val ∧ q.cfg = true ∧ f.cnt.val + 1 ≤ q.cap ∧ (s.th.get f.a).v.toNat % 0x800 = 0 ∧ s.turn.slot ≠ 4
    ∧ TilesAt s (s.th.get f.a) .tileRead (f.cnt.val + 1) offs ∧ TilesAt s (s.th.get f.a) .tileWrite (f.cnt.val + 1) offs
    ∧ q.count + q.resv.length + f.cnt.val + 1 = q.cap ∧ MayTrap s := by
  refine ⟨tForm 0 5 9 6, transferState, _, (List.range 7).map (· * 0x800), by decide, by decide +kernel, rfl, by decide +kernel, by decide +kernel,
    by decide +kernel, by decide +kernel, ⟨by decide +kernel, ?_⟩, ⟨by decide +kernel, ?_⟩, by decide +kernel, by constructor <;> decide +kernel⟩ <;>
  · intro k hk
    refine .inr (.inr (.inr (.inr (.inl ⟨rfl, by decide +kernel, ?_, ?_⟩))))
    · revert k
      decide +kernel
    · revert k
      decide +kernel

/-- An unconfigured queue, a count beyond the capacity, and an address in the scratchpad. -/
theorem witness_TileTransfers_traps : (base.me.queue 7).cfg = false ∧ (transferState.me.queue 0).cap < (tForm 0 5 9 8).cnt.val + 1
    ∧ ((transferState.modTh (fun t => t.put 5 (sp 0x33F800))).th.get 5).sb = 0xF0
    ∧ ((transferState.modTh (fun t => t.put 5 (sp 0x33F800))).th.get 5).v.toNat % 0x800 = 0
    ∧ ((transferState.modTh (fun t => t.put 5 (sp 0x33F800))).th.get 5).v.toNat + 0x800 = 0x340000
    ∧ MayTrap base ∧ MayTrap transferState :=
  ⟨by decide +kernel, by decide +kernel, by decide +kernel, by decide +kernel, by decide +kernel, base_mayTrap, by constructor <;> decide +kernel⟩

def lastTile : TileXfer :=
  { id := 1, slot := 0, task := 0, store := false, queue := 0, seq := 1, ga := { sb := 0xF3, v := 0 }, offs := [0], n := 1, done := 0, tok := 9,
    held := false, evctl := 0, dom := 0 }

theorem witness_RowsAndDiscards_tile : ∃ (s : State) (q : OpQueue), (s.core 0).xfers = [lastTile] ∧ q = (s.core 0).queue 0 ∧ q.cfg = true
    ∧ q.resv = [false] ∧ lastTile.seq = q.head + q.count ∧ 0 < q.cap ∧ 0x300000 ≤ q.base ∧ q.base + q.cap * 0x800 ≤ 0x340000 ∧ Inv s
    ∧ Settled s 0 (vaultLoc 0 0) ∧ s.meets false (vaultLoc 0 0) = .nothing ∧ s.unreadable (vaultLoc 0 0) 0x800 = false ∧ (s.core 0).vault.badCheck = []
    ∧ bit (s.thAt { rank := 0, slot := lastTile.slot }).errinj 31 = false ∧ (∀ p ∈ s.cores, p.2.redbuf = []) :=
  ⟨transferState.modMe (fun c => { c with xfers := [lastTile], queues := c.queues.setIfInBounds 0 (oneTile [false]) }), _, by decide +kernel, rfl,
    by decide +kernel, by decide +kernel, by decide +kernel, by decide +kernel, by decide +kernel, by decide +kernel, base_inv, by unfold Settled; decide +kernel, by decide +kernel,
    by decide +kernel, by decide +kernel, by decide +kernel, by decide +kernel⟩

theorem witness_RowsAndDiscards_rows : ∃ (f : FmtT) (l : Loc), f.q.val < 8 ∧ Placed transferState (transferState.th.get f.a) 1 .tileRead l
    ∧ l.region = .vault ∧ l.home = transferState.turn.rank ∧ transferState.migrating l = false ∧ transferState.meets false l = .nothing :=
  ⟨tForm 0 5 0 0, vaultLoc 0 0, by decide, .inr (.inr (.inr (.inr (.inl (by decide +kernel))))), by decide +kernel⟩

/-- Page 5 of global space in the TLB with W; s5 points at it. -/
def discardState : State :=
  (pointing { sb := 0, v := 0x50000 }).modMe (fun c => { c with ptbase := 1, utlb := [{ vpn := 5, sz := 0, asid := 0, leaf := 0x84F0000000000007, home := 0, off := 0x70000 }] })

theorem witness_RowsAndDiscards_discard : ∃ (f : FmtT) (ls : Nat → Loc), f.q.val < 8 ∧ (discardState.th.get f.a).sb.toNat < 0xF0
    ∧ (discardState.th.get f.a).v.toNat % 0x10000 = 0
    ∧ (∀ k, k ≤ f.cnt.val → Placed discardState { (discardState.th.get f.a) with v := (discardState.th.get f.a).v + word (k * 0x10000) }
        0x10000 .discard (ls k))
    ∧ 0xF0 ≤ ((pointing (sp 0)).th.get f.a).sb.toNat ∧ MayTrap (pointing (sp 0)) := by
  refine ⟨tForm 0 5 9 0, fun _ => vaultLoc 0 0x70000, by decide, by decide +kernel, by decide +kernel, ?_, by decide +kernel,
    by constructor <;> decide +kernel⟩
  intro k hk
  have : k = 0 := Nat.le_zero.mp hk
  subst this
  exact .inr (.inr (.inr (.inr (.inr ⟨by decide +kernel, by decide +kernel, { vpn := 5, sz := 0, asid := 0, leaf := 0x84F0000000000007, home := 0, off := 0x70000 },
    by decide +kernel⟩))))

def discardMsg : Msg := .discard 0 [(vaultLoc 0 0x70000, 0, 0x80028)]
  { rank := 0, slot := 0, task := 0, reg := 9, value := 0, lost := false, credit := false, recov := false, dom := 0 }

theorem witness_RowsAndDiscards_home : ∃ (s : State) (l : Loc) (st : Status) (h o : Nat), Inv s ∧ s.msgs = [.discard 0 [(l, h, o)] st]
    ∧ s.pageFree l = true ∧ Settled s st.rank l ∧ s.discardRuns l h o = true ∧ l.region = .vault ∧ (∀ p ∈ s.cores, p.2.redbuf = []) ∧ ckptDom st.dom = false ∧ o + 8 ≤ 0x40000000
    ∧ l.off < 0x40000000
    ∧ ((vaultLoc h o).key + 8 ≤ { l with off := l.off / 0x10000 * 0x10000 }.key
      ∨ { l with off := l.off / 0x10000 * 0x10000 }.key + 0x10000 ≤ (vaultLoc h o).key) :=
  ⟨{ base with msgs := [discardMsg] }, vaultLoc 0 0x70000, _, 0, 0x80028, base_inv, rfl, by unfold Settled; decide +kernel⟩

/-! ### Remote procedure calls -/

def rForm (a t : Reg) : FmtRpc := { a := a, t := t, lk := 0 }

/-- A call block at 0x2000 for handler `h`, with `alen` argument bytes, target 0xF3:0x4000 and the result buffer at 0x300000. -/
def callBytes (h alen rbuf : Nat) : Nat :=
  h + alen * 2 ^ 16 + 0x4000 * 2 ^ 64 + 0xF3 * 2 ^ 128 + rbuf * 2 ^ 192

def callState (b : Nat) : State := ((tasked 0).modTh (fun t => t.put 5 (sp 0x2000))).poke (scratchLoc 0 0x2000) 64 b

/-- Handler 0 without arguments, handler 1 with 256 bytes of them, and handler 4 with its row at the last place. -/
theorem call_block (b args : Nat) (h : (b = callBytes 0 0 0x33FFC0 ∧ args = 0) ∨ (b = callBytes 1 256 0 ∧ args = 0)
    ∨ (b = callBytes 4 0 0x33F800 ∧ args = 0)) :
    CallBlock (callState b) ((callState b).th.get 5) b args 0 (vaultLoc 0 0x4000) := by
  rcases h with ⟨rfl, rfl⟩ | ⟨rfl, rfl⟩ | ⟨rfl, rfl⟩ <;>
  · constructor
    · exact ⟨by decide +kernel, by decide +kernel, by decide +kernel, by constructor <;> decide +kernel, by decide +kernel, by decide +kernel⟩
    · decide +kernel
    · decide +kernel
    · decide +kernel
    · first
      | exact (if_pos (by decide +kernel)).mpr rfl
      | exact (if_neg (by decide +kernel)).mpr ⟨by constructor <;> decide +kernel, by decide +kernel⟩
    · first
      | exact (if_neg (by decide +kernel)).mpr rfl
      | exact (if_pos (by decide +kernel)).mpr ⟨by constructor <;> decide +kernel, by decide +kernel⟩
    · exact .inr (.inr (.inr (.inr (.inl (by decide +kernel)))))
    · decide +kernel

theorem witness_RpcCalls : ∃ (f : FmtRpc) (s : State) (b args : Nat) (l : Loc) (k : Task), CallBlock s (s.th.get f.a) b args 0 l
    ∧ s.th.task = some k ∧ f.t ≠ 0 ∧ s.th.outst = [] ∧ s.holdsState s.turn = false ∧ byteField b 0x38 4 = 0 :=
  ⟨rForm 5 9, callState (callBytes 0 0 0x33FFC0), _, 0, _, someTask 0, call_block _ _ (.inl ⟨rfl, rfl⟩), by decide +kernel, by decide,
    by decide +kernel⟩

/-- A block in the own vault, one off a multiple of 64 and one at the end of the scratchpad, and 264 argument bytes. -/
theorem witness_RpcCalls_traps : MayTrap (pointing { sb := 0xF3, v := 0 }) ∧ ((pointing { sb := 0xF3, v := 0 }).th.get 5).sb ≠ 0xF0
    ∧ MayTrap (pointing (sp 0x33FFB8)) ∧ ((pointing (sp 0x33FFB8)).th.get 5).v.toNat + 64 ≤ 0x340000
    ∧ ((pointing (sp 0x33FFB8)).th.get 5).v.toNat % 64 ≠ 0 ∧ MayTrap (callState (callBytes 1 264 0))
    ∧ ScratchBytes (callState (callBytes 1 264 0)) ((callState (callBytes 1 264 0)).th.get 5) 64 (callBytes 1 264 0)
    ∧ 256 < byteField (callBytes 1 264 0) 2 2 :=
  ⟨by constructor <;> decide +kernel, by decide +kernel, by constructor <;> decide +kernel, by decide +kernel, by decide +kernel,
    by constructor <;> decide +kernel,
    ⟨by decide +kernel, by decide +kernel, by decide +kernel, by constructor <;> decide +kernel, by decide +kernel, by decide +kernel⟩,
    by decide +kernel⟩

/-- A request of slot 0 of core 0 for handler `h`, with its buffer at 0x300000. -/
def request (h alen rlen : Nat) (l : Loc) (op0 : Word) : Rpc :=
  { h := h, alen := alen, rlen := rlen, tgt := { sb := 0xF3, v := word l.off }, loc := l, op0 := op0, op1 := 1, rbuf := 0x300000, rank := 0,
    slot := 0, reg := 9, task := 0, seq := 0, args := 3, row := 0, priv := true, part := 0, domain := 0, engine := none, asid := 0,
    stale := false, inj := none, cfl := 0, pad := 0, glob := false }

def served (rq : Rpc) : State := base.modAgent 0 (fun a => { a with requests := [rq] })

/-- Handlers and sizes at the clauses' bounds: the handler, its argument and result bytes, OP0, and the target bytes, their
alignment and the bytes returned. -/
def servedTable : List (Nat × Nat × Nat × Word × Nat × Nat × Nat) :=
  [(0, 0, 1, 0, 1, 1, 1), (0, 0, 256, 0, 256, 8, 256), (1, 4, 0, 0, 4, 4, 0), (1, 256, 0, 0, 256, 8, 0), (2, 0, 8, 0x0C, 4, 4, 8),
    (2, 8, 8, 0x19, 8, 8, 8), (3, 0, 0, 0, 0x800, 0x800, 0x800), (4, 0, 0, 0, 0x800, 0x800, 0), (5, 0, 0, 0, 0x800, 0x800, 0),
    (5, 0, 0, 1, 0x800, 0x800, 0), (6, 8, 8, 0, 8, 4, 8), (6, 256, 256, 0, 256, 4, 256), (11, 0, 0, 0, 8, 1, 0), (12, 0, 0, 0, 8, 1, 0)]

theorem witness_HandlersServe : ∀ e ∈ servedTable, ∃ (s : State) (rq : Rpc), Inv s ∧ Serves s 0 e.1 rq
    ∧ (rq.alen, rq.rlen, rq.op0) = (e.2.1, e.2.2.1, e.2.2.2.1) ∧ Sound s rq e.2.2.2.2.1
    ∧ Ranged s rq e.2.2.2.2.1 e.2.2.2.2.2.1 e.2.2.2.2.2.2 ∧ (s.core 0).vault.badCheck = [] := by
  intro e he
  refine ⟨served (request e.1 e.2.1 e.2.2.1 (vaultLoc 0 0x10000) e.2.2.2.1), request e.1 e.2.1 e.2.2.1 (vaultLoc 0 0x10000) e.2.2.2.1,
    base_inv, ?_, rfl, ?_, ?_, ?_⟩
  all_goals
    simp only [servedTable, List.mem_cons, List.not_mem_nil, or_false] at he
    rcases he with rfl | rfl | rfl | rfl | rfl | rfl | rfl | rfl | rfl | rfl | rfl | rfl | rfl | rfl
  all_goals first
    | exact ⟨⟨by decide +kernel, by decide +kernel⟩, by decide +kernel, by decide +kernel, by decide +kernel, fun _ => by decide +kernel⟩
    | (unfold Ranged; decide +kernel)
    | (constructor <;> decide +kernel)

theorem witness_HandlersServe_operations : (amoTable[12]?).isSome = true ∧ field (0x0C : Word) 0 4 = 12 ∧ bit (0x0C : Word) 4 = false
    ∧ (amoTable[9]?).isSome = true ∧ field (0x19 : Word) 0 4 = 9 ∧ bit (0x19 : Word) 4 = true := by decide +kernel

/-- Tile handlers off a tile, and no bytes asked for. -/
theorem witness_HandlersServe_refused : ∀ h ∈ [0, 1, 3, 4, 5], ∃ (s : State) (rq : Rpc), Inv s ∧ Serves s 0 h rq
    ∧ rq.loc.off % 0x800 ≠ 0 ∧ rq.rlen = 0 ∧ rq.alen = 0 := by
  intro h hh
  refine ⟨served (request h 0 0 (vaultLoc 0 0x107F8) 0), request h 0 0 (vaultLoc 0 0x107F8) 0, base_inv, ?_, (by decide : 0x107F8 % 0x800 ≠ 0), rfl, rfl⟩
  simp only [List.mem_cons, List.not_mem_nil, or_false] at hh
  rcases hh with rfl | rfl | rfl | rfl | rfl <;> (constructor <;> decide +kernel)

/-- The first hand-off frame granted to partition 0 for pushes and pops at core 0, with COUNT `n`; the rest of its head is zero. -/
def handOffState (h n : Nat) : State :=
  { (served (request h 8 8 (vaultLoc 0 0x3E000000) 0)).poke (vaultLoc 0 0x3E000002) 1 n with hqg := [(0, 0x100010001)] }

/-- A queue with its oldest message of 8 bytes, one full and one empty. -/
theorem witness_HandOffsAndLoaded_queues : ∀ h ∈ [7, 8], ∀ n ∈ [0, 1, 239, 240], ∃ rq, Inv (handOffState h n) ∧ Serves (handOffState h n) 0 h rq
    ∧ rq.alen = 8 ∧ HandOff (handOffState h n) 0 rq (if h = 7 then 32 else 16) ∧ frameByte (handOffState h n) rq.loc 2 1 = n
    ∧ (handOffState h n).fixedBuffer rq.rank rq.rbuf 8 = false := by
  intro h hh n hn
  refine ⟨request h 8 8 (vaultLoc 0 0x3E000000) 0, ?_⟩
  simp only [List.mem_cons, List.not_mem_nil, or_false] at hh hn
  rcases hh with rfl | rfl <;> rcases hn with rfl | rfl | rfl | rfl <;>
  exact ⟨by show Memory.wf _; decide +kernel, by constructor <;> decide +kernel, rfl,
    ⟨by decide +kernel, ⟨0x100010001, by decide +kernel⟩, by decide +kernel, by decide +kernel⟩, by decide +kernel, by decide +kernel⟩

/-- Handlers 32 and 255, with entry 0x8000 and without one. -/
theorem witness_HandOffsAndLoaded_loaded : ∀ h ∈ [32, 255], ∀ e ∈ [0x8000, 2 ^ 64 - 1], ∃ (s : State) (rq : Rpc), Inv s ∧ 32 ≤ rq.h
    ∧ Serves s 0 rq.h rq ∧ s.peek { region := .agentData, home := 0, off := 0xF800 + 8 * rq.h } 8 = e := by
  intro h hh e he
  refine ⟨(served (request h 8 8 (vaultLoc 0 0x10000) 0)).poke { region := .agentData, home := 0, off := 0xF800 + 8 * h } 8 e,
    request h 8 8 (vaultLoc 0 0x10000) 0, ?_⟩
  simp only [List.mem_cons, List.not_mem_nil, or_false] at hh he
  rcases hh with rfl | rfl <;> rcases he with rfl | rfl <;>
  exact ⟨by show Memory.wf _; decide +kernel, by decide, by constructor <;> decide +kernel, by decide +kernel⟩

/-- 256 cycles after a request came back. -/
theorem witness_HandOffsAndLoaded_resend : ∃ (s : State) (rq : Rpc), (s.agent 0).resend = [(0, rq)] ∧ 0 + 256 = s.cycle.toNat
    ∧ s.migrating rq.loc = false ∧ s.redirected rq.part rq.loc = none :=
  ⟨{ base.modAgent 0 (fun a => { a with resend := [(0, request 0 0 8 (vaultLoc 0 0x10000) 0)] }) with cycle := 256 }, _, rfl,
    by decide +kernel⟩
/-! ### Copy engines -/

def eForm (e : Fin 128) : FmtE := { lk := 0, engine := e, a := 5, t := 9 }

/-- A command from 0x30000 to 0x20000 of the scratchpad. -/
def cmdWord (code rows cols stride extra : Nat) : Nat :=
  stride + cols * 2 ^ 16 + rows * 2 ^ 32 + 0x20000 * 2 ^ 48 + 0xF0 * 2 ^ 112 + 0x30000 * 2 ^ 120 + 0xF0 * 2 ^ 184 + code * 2 ^ 248 + extra

def someCmd (w rank : Nat) (idx : List Nat) : Cmd :=
  { word := BitVec.ofNat 256 w, rank := rank, slot := 0, task := 0, tok := 9, domain := 0, priv := true, ptbase := 0, asid := 0, cursor := 0,
    idx := idx, parkedOn := none, cancel := false, bad := none, shot := false, pending := [], held := [] }

def engineOf0 (x : Engine) (s : State) : State := s.setEngine 0 { x with part := some 0 }

/-- s5 points at a command word; engines 0 and 95 belong to partition 0. -/
def engineState (w : Nat) : State :=
  (((pointing (sp 0x1000)).poke (scratchLoc 0 0x1000) 32 w).setEngine 95 { Engine.reset with part := some 0 }).setEngine 0
    { Engine.reset with part := some 0 }

theorem engine_bytes (w : Nat) (h : w ∈ [cmdWord 1 0 1 0 0, cmdWord 8 0 0 0 0, cmdWord 6 0 1 0 (2 * 2 ^ 220 + 10 * 2 ^ 216), cmdWord 9 0 0 0 0, 0]) :
    ScratchBytes (engineState w) ((engineState w).th.get 5) 32 w := by
  simp only [List.mem_cons, List.not_mem_nil, or_false] at h
  rcases h with rfl | rfl | rfl | rfl | rfl <;>
  exact ⟨by decide +kernel, by decide +kernel, by decide +kernel, by constructor <;> decide +kernel, by decide +kernel, by decide +kernel⟩

theorem witness_EngineWords : ∀ n ∈ [0, 95, 127], ∀ w ∈ [cmdWord 1 0 1 0 0, cmdWord 8 0 0 0 0, cmdWord 6 0 1 0 (2 * 2 ^ 220 + 10 * 2 ^ 216)],
    ∃ e, EngineNamed (engineState w) (eForm n).engine e
    ∧ (engineState w).turn.slot ≠ 4 ∧ ScratchBytes (engineState w) ((engineState w).th.get (eForm n).a) 32 w
    ∧ Accepted (engineState w) (BitVec.ofNat 256 w) ∧ (engineState w).trafficHeld (engineState w).turn.rank (engineState w).domain = false
    ∧ (engineState w).me.redbuf = [] ∧ ((engineState w).engine e).parked = [] ∧ ((engineState w).engine e).queue = []
    ∧ ((engineState w).engine e).shadow = none := by
  intro n hn w hw
  refine ⟨if n = 127 then 0 else n.val, ?_, ?_, engine_bytes w ?_, ?_⟩
  · unfold EngineNamed; revert w; revert n; decide +kernel
  · revert w; decide +kernel
  · simp only [List.mem_cons, List.not_mem_nil, or_false] at hw ⊢
    tauto
  · unfold Accepted; revert w; revert n; decide +kernel

/-- Codes 0 and 9, code 7 in user mode, and an engine of no partition. -/
theorem witness_EngineWords_traps : (∀ w ∈ [0, cmdWord 9 0 0 0 0], MayTrap (engineState w)
      ∧ (field (BitVec.ofNat 256 w) 248 8 = 0 ∨ 8 < field (BitVec.ofNat 256 w) 248 8))
    ∧ MayTrap (user (engineState (cmdWord 7 0 0 0 0))) ∧ field (BitVec.ofNat 256 (cmdWord 7 0 0 0 0)) 248 8 = 7
    ∧ (user (engineState (cmdWord 7 0 0 0 0))).supervisor = false
    ∧ ScratchBytes (user (engineState (cmdWord 7 0 0 0 0))) (sp 0x1000) 32 (cmdWord 7 0 0 0 0)
    ∧ (eForm 1).engine.val < 96 ∧ base.ownsEngine base.turn.rank (eForm 1).engine.val = false := by
  refine ⟨?_, by constructor <;> decide +kernel, by decide +kernel, by decide +kernel, ?_, by decide, by decide +kernel⟩
  · intro w hw
    simp only [List.mem_cons, List.not_mem_nil, or_false] at hw
    rcases hw with rfl | rfl <;> exact ⟨by constructor <;> decide +kernel, by decide +kernel⟩
  · exact ⟨by decide +kernel, by decide +kernel, by decide +kernel, by constructor <;> decide +kernel, by decide +kernel, by decide +kernel⟩

def waitingCmd : State := engineOf0 { Engine.reset with shadow := some (someCmd (cmdWord 1 0 1 0 0) 0 []) } base

theorem witness_EngineWords_ecan : EngineNamed waitingCmd (eForm 0).engine 0
    ∧ (∃ c, (waitingCmd.engine 0).shadow = some c ∧ (waitingCmd.engine 0).active = none ∧ (waitingCmd.engine 0).queue = []
      ∧ (waitingCmd.engine 0).parked = [] ∧ c.rank = waitingCmd.turn.rank ∧ c.slot = waitingCmd.turn.slot
      ∧ c.task = waitingCmd.th.taskId ∧ c.tok = (eForm 0).t ∧ c.cursor = 0)
    ∧ EngineNamed (engineOf0 Engine.reset base) (eForm 0).engine 0 ∧ (engineOf0 Engine.reset base).statuses = []
    ∧ (engineOf0 Engine.reset base).engine 0 = { Engine.reset with part := some 0 } :=
  ⟨.inl (by decide +kernel), ⟨someCmd (cmdWord 1 0 1 0 0) 0 [], by decide +kernel⟩, .inl (by decide +kernel), by decide +kernel⟩

theorem witness_EngineCommands_activate : ∃ a b : Cmd, ∃ s t u : State,
    ((s.engine 0).active = none ∧ (s.engine 0).shadow = some a ∧ (s.engine 0).queue = [b])
    ∧ ((t.engine 0).active = none ∧ (t.engine 0).shadow = some a ∧ (t.engine 0).queue = [])
    ∧ (u.engine 0).active = some a ∧ (u.engine 0).shadow = none ∧ (u.engine 0).queue = [b] :=
  ⟨someCmd (cmdWord 1 0 1 0 0) 0 [], someCmd (cmdWord 5 0 1 0 0) 0 [],
    engineOf0 { Engine.reset with shadow := some (someCmd (cmdWord 1 0 1 0 0) 0 []), queue := [someCmd (cmdWord 5 0 1 0 0) 0 []] } base,
    waitingCmd,
    engineOf0 { Engine.reset with active := some (someCmd (cmdWord 1 0 1 0 0) 0 []), queue := [someCmd (cmdWord 5 0 1 0 0) 0 []] } base,
    by decide +kernel⟩

/-- One row of 64 bytes, two rows of 16 bytes gathered and scattered by stride and by list, and a fill. -/
def pagedCmds : List (Nat × Cmd) :=
  [(1, someCmd (cmdWord 1 0 1 0 0) 0 []), (2, someCmd (cmdWord 2 2 2 3 0) 0 []), (2, someCmd (cmdWord 2 2 2 3 (2 ^ 240)) 0 []),
    (3, someCmd (cmdWord 3 2 2 0 0) 0 [4, 1]), (4, someCmd (cmdWord 4 2 2 0 0) 0 [4, 1]), (5, someCmd (cmdWord 5 0 1 0 0) 0 [])]

def running (c : Cmd) : State := engineOf0 { Engine.reset with active := some c } base

theorem base_open (c : Cmd) : Open (running c) 0 := ⟨rfl, rfl, rfl, ⟨rfl, rfl⟩, by intro p hp; cases hp with | head => rfl | tail _ h => cases h⟩

theorem witness_EngineCommands_pages : ∀ e ∈ pagedCmds, Inv (running e.2) ∧ Fits (running e.2) 0 e.2 ∧ field e.2.word 248 8 = e.1 := by
  intro e he
  refine ⟨base_inv, ?_, by revert e; decide +kernel⟩
  have h : runCount e.2 < 3 := by revert e; decide +kernel
  constructor
  · revert e; decide +kernel
  · revert e; decide +kernel
  · revert e; decide +kernel
  · revert e; decide +kernel
  · revert e; decide +kernel
  · intro i hi
    have : i < 3 := by omega
    revert i; revert e; decide +kernel
  · refine ⟨2, ?_⟩
    intro i hi
    have : i < 3 := by omega
    revert i; revert e; decide +kernel
  · intro i j hi hj
    have key : ∀ e ∈ pagedCmds, ∀ i, i < 3 → ∀ j, j < 3 → i < runCount e.2 → j < runCount e.2 → i < j →
        dstOff e.2 i + runLen e.2 ≤ dstOff e.2 j ∨ dstOff e.2 j + runLen e.2 ≤ dstOff e.2 i := by decide +kernel
    have key' : ∀ e ∈ pagedCmds, ∀ i, i < 3 → ∀ j, j < 3 → i < runCount e.2 → j < runCount e.2 → field e.2.word 248 8 ≠ 5 →
        e.2.dst.v.toNat + dstOff e.2 i + runLen e.2 ≤ e.2.src.v.toNat + srcOff e.2 j
          ∨ e.2.src.v.toNat + srcOff e.2 j + runLen e.2 ≤ e.2.dst.v.toNat + dstOff e.2 i := by decide +kernel
    exact ⟨key e he i (by omega) j (by omega) hi hj, key' e he i (by omega) j (by omega) hi hj⟩
  · have hr : e.2.rank = 0 := by revert e; decide +kernel
    rw [hr]
    exact base_open e.2
  · intro m hm
    cases hm

/-- A launch at 0xF3:0x10000. -/
theorem witness_EngineCommands_launch : ∃ (s : State) (c : Cmd), (s.engine 0).active = some c ∧ field c.word 248 8 = 8 ∧ c.shot = false
    ∧ c.cancel = false ∧ c.src.sb = 0xF3 ∧ c.priv = true ∧ c.src.v.toNat + 1 ≤ 0x40000000 ∧ (s.core c.rank).agent.moving = none
    ∧ (s.core c.rank).agent.redirects = [] :=
  ⟨running (someCmd (8 * 2 ^ 248 + 0x10000 * 2 ^ 120 + 0xF3 * 2 ^ 184) 0 []), _, rfl, by decide +kernel⟩

/-- Collectives of one row of 128 bytes in tree 2: a sum of FP32 and a copy. -/
def collWords : List Nat := [cmdWord 6 0 2 0 (2 * 2 ^ 240), cmdWord 1 0 2 0 (2 * 2 ^ 240 + 2 ^ 247)]

def collState (w : Nat) (joined : List CollMember) : State :=
  { (treeState.setEngine 0 { Engine.reset with active := some (someCmd w 0 []) }).setEngine 1
      { Engine.reset with active := some (someCmd w 1 []) } with
    colls := joined, bands := base.bands }

def member (e : Nat) : CollMember := { tree := 2, engine := e, rank := e, since := 0, cfg := [(0, treeWords.1), (1, treeWords.2)], pages := [] }

theorem coll_open (w : Nat) (l : List CollMember) (r : Nat) (h : r < 2) : Open (collState w l) r := by
  have hr : r = 0 ∨ r = 1 := by omega
  rcases hr with rfl | rfl <;>
  exact ⟨rfl, rfl, rfl, ⟨rfl, rfl⟩, by intro p hp; cases hp with | head => rfl | tail _ h => cases h with | head => rfl | tail _ h => cases h⟩

theorem witness_CollectiveCommands_join : ∀ w ∈ collWords, ((collState w []).engine 0).active = some (someCmd w 0 [])
    ∧ (field (someCmd w 0 []).word 248 8 = 6 ∨ (field (someCmd w 0 []).word 248 8 = 1 ∧ bit (someCmd w 0 []).word 247 = true))
    ∧ 0 < runLen (someCmd w 0 []) ∧ (someCmd w 0 []).src = sp 0x30000 ∧ (someCmd w 0 []).dst = sp 0x20000
    ∧ 0x30000 + runLen (someCmd w 0 []) ≤ 0x340000 ∧ Open (collState w []) 0 ∧ (collState w []).colls = []
    ∧ field (someCmd w 0 []).word 240 2 = 2 ∧ (lookup ((collState w []).treeMembers 0 2) 0).isSome = true := by
  intro w hw
  refine ⟨rfl, ?_, ?_, ?_, ?_, ?_, coll_open w [] 0 (by decide), rfl, ?_, ?_⟩ <;> (revert w; decide +kernel)

theorem witness_CollectiveCommands_pair : ∀ w ∈ collWords, Inv (collState w [member 0, member 1])
    ∧ PairColl (collState w [member 0, member 1]) (member 0) (member 1) (someCmd w 0 []) (someCmd w 1 []) treeWords.1 treeWords.2 128 := by
  intro w hw
  refine ⟨base_inv, ?_⟩
  constructor
  · exact .inl rfl
  · revert w; decide +kernel
  · decide +kernel
  · exact ⟨rfl, rfl⟩
  · exact ⟨fun _ _ => rfl, rfl, rfl, rfl⟩
  · exact ⟨rfl, rfl, (by decide : (0 : Fin 5) ≠ 4), (by decide : (0 : Fin 5) ≠ 4)⟩
  · revert w; decide +kernel
  · revert w; decide +kernel
  · exact ⟨coll_open w _ 0 (by decide), coll_open w _ 1 (by decide)⟩
  · exact Nat.zero_le _
/-! ### Barriers, probes, supersteps and monitors -/

def sForm (tag : Fin 8) : FmtS := { scope := 7, tag := tag, a := 5, d := 4 }

/-- Core 0 alone on tag 7, with AC = 5 and PC as given. -/
def spanState (w : Word) (pc : Nat) (f : Core → Core) : State :=
  base.modMe (fun c => f { c with bmask := c.bmask.setIfInBounds 7 w, ac := c.ac.setIfInBounds 7 5,
                                  pc := c.pc.setIfInBounds 7 (BitVec.ofNat 32 pc) })

def syncState : Nat → (Core → Core) → State := spanState 0xC000010000

def entered (task : Word) (terminated done : Bool) (target : Nat) : Participant :=
  { slot := 0, task := task, tag := 7, dom := 0, target := target, terminated := terminated, done := done }

theorem witness_SyncWords : Free (syncState 5 id) 7 ∧ pcOf (syncState 4 id).me 7 < acOf (syncState 4 id).me 7
    ∧ field ((syncState 4 id).me.bmask.getD 7 0) 16 3 ≠ 0 ∧ (syncState 4 id).me.probeRun = none
    ∧ (syncState 4 (fun c => { c with probeRun := some (7, 0) })).me.probeRun ≠ none ∧ (syncState 4 id).me.sstep = []
    ∧ (∀ d : Bool, ∃ p, (syncState 4 (fun c => { c with sstep := [entered (syncState 4 id).th.taskId true d 5] })).me.sstep = [p]
      ∧ domKey p.dom = domKey base.th.domid ∧ p.task = (syncState 4 id).th.taskId ∧ p.slot = base.turn.slot ∧ p.done = d)
    ∧ field (base.me.bmask.getD 7 0) 16 3 = 0 ∧ MayTrap base := by
  refine ⟨by constructor <;> decide +kernel, by decide +kernel, by decide +kernel, by decide +kernel, by decide +kernel, by decide +kernel,
    ?_, by decide +kernel, base_mayTrap⟩
  intro d
  exact ⟨entered (syncState 4 id).th.taskId true d 5, rfl, (by decide +kernel : domKey 0 = domKey base.th.domid), rfl, rfl, rfl⟩

theorem witness_SyncEvents_phase : field (((syncState 4 id).core 0).bmask.getD 7 0) 16 3 ≠ 0 ∧ (syncState 4 id).groupOf 0 7 = [0]
    ∧ (∀ m ∈ (syncState 4 id).groupOf 0 7, pcOf ((syncState 4 id).core m) 7 < acOf ((syncState 4 id).core m) 7)
    ∧ (∀ m ∈ (syncState 4 id).groupOf 0 7, ((syncState 4 id).core m).sstep = [])
    ∧ (∃ s : State, s.groupOf 0 7 = [0] ∧ (s.core 0).sstep = [entered 0 true false 5] ∧ pcOf (s.core 0) 7 < acOf (s.core 0) 7
      ∧ (entered 0 true false 5).target = (acOf (s.core 0) 7).toNat) := by
  refine ⟨by decide +kernel, by decide +kernel, by decide +kernel, by decide +kernel,
    syncState 4 (fun c => { c with sstep := [entered 0 true false 5] }), by decide +kernel⟩

/-- A circuit that runs, and a participant whose circuits go on, with B set and not. -/
theorem witness_SyncEvents_circuit : (∃ s : State, (s.core 0).probeRun = some (7, 0) ∧ s.groupOf 0 7 = [0])
    ∧ (∀ b ∈ [[], [(0 : Word)]], ∃ (s : State) (p : Participant), (s.core 0).probeRun = none ∧ s.groupOf 0 7 = [0] ∧ (s.core 0).sstep = [p]
      ∧ p.tag = 7 ∧ p.terminated = false ∧ p.done = false ∧ p.target = 0 ∧ ¬ pcOf (s.core 0) 7 < acOf (s.core 0) 7 ∧ (s.core 0).msgB = b
      ∧ domKey p.dom = 0 ∧ s.dAt 0 p.dom = 0) := by
  refine ⟨⟨syncState 5 (fun c => { c with probeRun := some (7, 0) }), by decide +kernel⟩, ?_⟩
  intro b hb
  refine ⟨syncState 5 (fun c => { c with sstep := [entered 0 false false 0], msgB := b }), entered 0 false false 0, ?_⟩
  simp only [List.mem_cons, List.not_mem_nil, or_false] at hb
  rcases hb with rfl | rfl <;> decide +kernel

/-- Cores 0 and 1 on tag 7; core 1 has not arrived, and core 0 waits beyond WD = 12. -/
theorem witness_SyncEvents_watchdog : ∃ (s : State) (a : Thread), a = s.thAt { rank := 0, slot := Fin.ofNat 5 0 } ∧ a.waitSince = some (0, 7)
    ∧ 0 + 2 ^ (field ((s.core 0).bmask.getD 7 0) 36 4 + 12) + 1 = s.cycle.toNat ∧ a.outst = [] ∧ a.mode ≠ 2 ∧ bit a.thstat 5 = false
    ∧ a.replay = none ∧ (∃ m ∈ s.groupOf 0 7, ¬ pcOf (s.core m) 7 < acOf (s.core m) 7) ∧ (s.core 0).sstep = []
    ∧ pcOf (s.core 0) 7 < acOf (s.core 0) 7 :=
  ⟨{ ((spanState 0xC000020000 4 id).modCore 1 (fun c => { c with
      bmask := c.bmask.setIfInBounds 7 0xC000020000 })).modTh (fun t => { t with waitSince := some (0, 7) }) with cycle := 0x1000001 },
    _, rfl, by decide +kernel, by decide +kernel, by decide +kernel, by decide +kernel, by decide +kernel, by decide +kernel,
    by decide +kernel, by decide +kernel, by decide +kernel⟩

/-- Arming at the last granule of the own scratchpad and in the vault of the core itself. -/
theorem witness_MonitorsWait_arm : (∃ (f : FmtS) (s : State) (l : Loc), Placed s (s.th.get f.a) 1 .load l ∧ Quiet s l 1 ∧ l.off = 0x33FFFF)
    ∧ (∃ (f : FmtS) (s : State) (l : Loc), Placed s (s.th.get f.a) 8 .load l ∧ (s.th.get f.a).v.toNat % 8 = 0 ∧ Quiet s l 8
      ∧ l.region = .vault ∧ word (s.peek l 8) ≠ s.th.val f.d)
    ∧ (∃ (f : FmtS) (s : State) (l : Loc), Placed s (s.th.get f.a) 8 .load l ∧ (s.th.get f.a).v.toNat % 8 = 0 ∧ Quiet s l 8
      ∧ l.region = .vault ∧ word (s.peek l 8) = s.th.val f.d ∧ s.th.ipend &&& s.th.ien = 0 ∧ s.th.preempt = false) :=
  ⟨⟨sForm 0, pointing (sp 0x33FFFF), scratchLoc 0 0x33FFFF, .inl (by decide +kernel), by constructor <;> decide +kernel, rfl⟩,
    ⟨sForm 0, withRegs [(5, { sb := 0xF3, v := 0x8000 }), (4, .int 1)], vaultLoc 0 0x8000, .inr (.inr (.inr (.inr (.inl (by decide +kernel))))),
      by decide +kernel, by constructor <;> decide +kernel, rfl, by decide +kernel⟩,
    ⟨sForm 0, pointing { sb := 0xF3, v := 0x8000 }, vaultLoc 0 0x8000, .inr (.inr (.inr (.inr (.inl (by decide +kernel))))),
      by decide +kernel, by constructor <;> decide +kernel, rfl, by decide +kernel⟩⟩

def someMon : Mon := { ga := { sb := 0xF3, v := 0x8000 }, loc := vaultLoc 0 0x8000 }

def armed (hit ne : Bool) (v : Option Word) : State :=
  (withRegs []).modTh (fun t => { t with mon := some someMon, monHit := hit, monWait := some { d := 4, ends := 0, ne := ne, seen := v } })

/-- No address armed, one that has been written, and one that has not; and the waits they leave. -/
theorem witness_MonitorsWait_waits : base.th.mon = none
    ∧ (∀ hit : Bool, (armed hit false none).th.mon ≠ none ∧ (armed hit false none).th.monHit = hit ∧ (armed hit false none).th.preempt = false
      ∧ (armed hit false none).th.ipend &&& (armed hit false none).th.ien = 0)
    ∧ (∀ hit ne : Bool, ∀ v ∈ [none, some (1 : Word)], ∃ (a : Thread) (m : MonWait) (x : Mon), a = (armed hit ne v).thAt { rank := 0, slot := Fin.ofNat 5 0 }
      ∧ a.monWait = some m ∧ a.mon = some x ∧ a.outst = [] ∧ a.replay = none ∧ a.monHit = hit ∧ m.ne = ne ∧ m.seen = v ∧ m.ends ≤ (armed hit ne v).cycle.toNat) := by
  refine ⟨by decide +kernel, by decide +kernel, ?_⟩
  intro hit ne v hv
  refine ⟨_, { d := 4, ends := 0, ne := ne, seen := v }, someMon, rfl, ?_⟩
  simp only [List.mem_cons, List.not_mem_nil, or_false] at hv
  rcases hv with rfl | rfl <;> (revert hit ne; decide +kernel)
/-- A write of the armed granule's first byte meets a wait of each kind. -/
theorem witness_MonitorsWait_writes : ∃ (s : State) (l : Loc) (n : Nat) (m : MonWait) (x : Mon), (s.thAt s.turn).monWait = some m
    ∧ (s.thAt s.turn).mon = some x ∧ m.ne = true ∧ m.seen = none ∧ l.key / 64 ≤ x.loc.granule ∧ x.loc.granule ≤ (l.key + n - 1) / 64 :=
  ⟨armed false true none, vaultLoc 0 0x8000, 1, { d := 4, ends := 0, ne := true, seen := none }, someMon, by decide +kernel⟩

/-! ### Vault agents -/

def pForm (port : Fin 256) : FmtP := { imm := 1, port := port, reg := 5 }

/-- The agent of core 0 issues; its register s5 holds `v`. -/
def agentState (v : Word) (f : Agent → Agent) : State :=
  ({ base.modAgent 0 f with turn := { rank := 0, slot := 4 } } : State).modTh (fun t => t.put 5 (.int v))

theorem witness_AgentPorts_writes : OnAgent (agentState 16 id) ∧ (∀ e ∈ portTable, ∃ f : FmtP, f.port.val = e.1)
    ∧ (pForm 0x1E).port.val = 0x12 + 4 * 3 ∧ (agentState 16 id).me.agent.agBusy.getD 3 false = false
    ∧ (agentState 16 (fun a => { a with agBusy := a.agBusy.setIfInBounds 3 true })).me.agent.agBusy.getD 3 false = true
    ∧ (agentState 16 id).me.agent.mvBusy = false ∧ ((agentState 16 id).th.val 5).toNat = 16 ∧ ((pForm 0x22).imm.signExtend 64).toNat = 1
    ∧ (agentState 16 id).me.agent.cmBusy = false := by
  refine ⟨rfl, ?_, by decide +kernel⟩
  intro e he
  refine ⟨pForm (Fin.ofNat 256 e.1), ?_⟩
  simp only [portTable, List.mem_cons, List.not_mem_nil, or_false] at he
  rcases he with rfl | rfl | rfl | rfl | rfl | rfl <;> rfl

/-- The generator with addresses left and without, units idle and busy, the last bank and a bank that a program holds. -/
theorem witness_AgentPorts_reads : (agentState 0 id).me.agent.mac = none ∧ (agentState 0 id).me.agent.agLeft.getD 0 0 = 0
    ∧ (agentState 0 (fun a => { a with agLeft := a.agLeft.setIfInBounds 0 1 })).me.agent.agLeft.getD 0 0 ≠ 0
    ∧ (∀ b : Bool, (agentState 0 (fun a => { a with mvBusy := b, cmBusy := b })).me.agent.mvBusy = b
      ∧ (agentState 0 (fun a => { a with mvBusy := b, cmBusy := b })).me.agent.cmBusy = b)
    ∧ field ((agentState 0x80000000 id).th.val 5) 0 32 ≠ 0 ∧ bankList (field ((agentState 0x80000000 id).th.val 5) 0 32) = [31]
    ∧ (agentState 0x80000000 id).me.vault.locks = [] ∧ field ((agentState 0 id).th.val 5) 0 32 = 0 ∧ MayTrap base :=
  ⟨by decide +kernel, by decide +kernel, by decide +kernel, by decide +kernel, by decide +kernel, by decide +kernel, by decide +kernel,
    by decide +kernel, base_mayTrap⟩

/-- The vault port at its last double word. -/
theorem witness_AgentHandlers_port : ∃ (f : FmtP) (s : State) (l : Loc), OnAgent s ∧ Inv s ∧ f.port.val = 0x31 ∧ s.me.agent.vOff.toNat % 8 = 0
    ∧ s.me.agent.vOff.toNat + 8 = 0x40000000 ∧ l = vaultLoc s.turn.rank s.me.agent.vOff.toNat ∧ Quiet s l 8 ∧ PlainWrite s l 8 := by
  refine ⟨pForm 0x31, agentState 0 (fun a => { a with vOff := 0x3FFFFFF8 }), vaultLoc 0 0x3FFFFFF8, rfl, base_inv, rfl, by decide +kernel,
    by decide +kernel, rfl, by constructor <;> decide +kernel, ?_⟩
  exact ⟨(fun h => nomatch h), by decide +kernel, by decide +kernel, by decide +kernel, fun _ => by decide +kernel⟩

theorem witness_AgentHandlers_reply : ∀ b : Bool, ∃ (s : State) (rq : Rpc), OnAgent s ∧ Inv s ∧ NoReds s ∧ s.me.agent.current = some rq ∧ rq.engine = none
    ∧ rq.rlen = 256 ∧ s.fixedBuffer rq.rank rq.rbuf rq.rlen = false ∧ rq.rank < 65536 ∧ rq.rbuf + rq.rlen ≤ 0x340000 ∧ s.turn.rank < 65536
    ∧ s.me.agent.replied = b ∧ s.th.outst = [] ∧ s.th.replay = none := by
  intro b
  refine ⟨agentState 0 (fun a => { a with current := some (request 32 0 256 (vaultLoc 0 0x10000) 0), replied := b }), _, rfl, base_inv, by unfold NoReds; revert b; decide +kernel, rfl, rfl, rfl,
    ?_⟩
  revert b
  decide +kernel

/-- Units of the agent: the mover's last row and one before it, between the first and the last row of the vault. -/
def unitsState (rows : Nat) : State :=
  { base.modAgent 0 (fun a => { a with
      mvBusy := true, mvRows := rows, mvSrc := 0x7FFFF, mvDst := 0, cmBusy := true, cmRow := 0x7FFFF, cmVal := 0, locks := [31],
      agBusy := a.agBusy.setIfInBounds 3 true }) with cycle := 8 }

theorem witness_AgentUnits : (base.agent 0).agBusy.getD 3 false = false ∧ (base.agent 0).mvBusy = false ∧ (16 : Word).toNat = 16
    ∧ (base.agent 0).cmBusy = false
    ∧ ∀ n ∈ [1, 2], Inv (unitsState n) ∧ (∀ p ∈ (unitsState n).cores, p.2.redbuf = []) ∧ ((unitsState n).agent 0).agBusy.getD 3 false = true
      ∧ ((unitsState n).agent 0).mvBusy = true ∧ ((unitsState n).agent 0).mvRows = n
      ∧ RowFree (unitsState n) 0 ((unitsState n).agent 0).mvSrc.toNat ∧ RowFree (unitsState n) 0 ((unitsState n).agent 0).mvDst.toNat
      ∧ ((unitsState n).agent 0).cmBusy = true ∧ RowFree (unitsState n) 0 ((unitsState n).agent 0).cmRow.toNat
      ∧ ((unitsState n).agent 0).locks ≠ [] ∧ ((unitsState n).agent 0).lockEnd ≤ (unitsState n).cycle.toNat
      ∧ ((unitsState n).agent 0).mac = none ∧ rowBank ((unitsState n).agent 0).mvSrc ∈ ((unitsState n).agent 0).locks := by
  refine ⟨by decide +kernel, by decide +kernel, by decide, by decide +kernel, ?_⟩
  intro n hn
  simp only [List.mem_cons, List.not_mem_nil, or_false] at hn
  rcases hn with rfl | rfl <;>
  exact ⟨base_inv, by decide +kernel, by decide +kernel, by decide +kernel, rfl, by constructor <;> decide +kernel,
    by constructor <;> decide +kernel, by decide +kernel, by constructor <;> decide +kernel, by decide +kernel⟩

/-- The last place that the vault port reaches. -/
theorem witness_AgentUnits_port : ∃ (s : State) (l : Loc), Inv s ∧ (∀ p ∈ s.cores, p.2.redbuf = []) ∧ (s.agent 0).vOff.toNat % 8 = 0
    ∧ (s.agent 0).vOff.toNat + 8 = 0x40000000 ∧ l = vaultLoc 0 (s.agent 0).vOff.toNat ∧ s.meets true l = .nothing
    ∧ s.unreadable l 8 = false ∧ (s.core 0).vault.zero.find? (fun z => decide (z.1 = (s.agent 0).vOff.toNat / 0x10000)) = none :=
  ⟨base.modAgent 0 (fun a => { a with vOff := 0x3FFFFFF8 }), vaultLoc 0 0x3FFFFFF8, base_inv, by decide +kernel⟩

/-- One operation in bank 0 on rows 0x20, 0x40 and 0x60. -/
def macBlock (opc n et len : Nat) : Nat :=
  1 + et * 2 ^ 16 + 2 ^ 32 + len * 2 ^ 64 + (opc + n * 2 ^ 8 + 0x20 * 2 ^ 32 + 0x40 * 2 ^ 64 + 0x60 * 2 ^ 96) * 2 ^ 512

/-- Additions on one row of f32, copies on 16 rows of bf16, and fused operations on two rows within and beyond their length. -/
def macTable : List (Nat × Nat × Nat × Nat) := [(0, 1, 1, 1), (3, 16, 2, 4096), (2, 2, 1, 64), (1, 2, 2, 32)]

theorem mac_block : ∀ e ∈ macTable, OneOp (macBlock e.1 e.2.1 e.2.2.1 e.2.2.2) e.2.2.1 e.2.2.2 1 e.1 e.2.1 0x20 0x40 0x60 := by
  intro e he
  constructor <;> (revert e; decide +kernel)

def program (x k ends : Nat) (locked expired : Bool) (reply : Option Rpc) : MacProgram :=
  { block := x, ga := { sb := 0xF3, v := 0x10000 }, reply := reply, flag := none, record := none, locked := locked, ends := ends, rows := [k],
    hit := [], expired := expired, poison := [], banks := 0, inj := none }

def macState (cycle : Nat) (p : Option MacProgram) : State := { base.modAgent 0 (fun a => { a with mac := p }) with cycle := word cycle }

theorem witness_BankMacPrograms_launch : ∀ e ∈ macTable, ∃ (s : State) (rq : Rpc), Serves s 0 13 rq ∧ (s.agent 0).mac = none
    ∧ rq.loc.region = .vault ∧ rq.loc.off % 64 = 0 ∧ s.peek rq.loc 80 = macBlock e.1 e.2.1 e.2.2.1 e.2.2.2 ∧ s.unreadable rq.loc 80 = false
    ∧ rq.inj = none := by
  intro e he
  refine ⟨(served (request 13 0 0 (vaultLoc 0 0x10000) 0)).poke (vaultLoc 0 0x10000) 80 (macBlock e.1 e.2.1 e.2.2.1 e.2.2.2),
    request 13 0 0 (vaultLoc 0 0x10000) 0, ?_⟩
  simp only [macTable, List.mem_cons, List.not_mem_nil, or_false] at he
  rcases he with rfl | rfl | rfl | rfl <;> exact ⟨by constructor <;> decide +kernel, by decide +kernel⟩

/-- A block at the end of the data store, and a block of zeros. -/
theorem witness_BankMacPrograms_mgo : (∃ (s : State) (l : Loc) (f : FmtP), (s.agent 0).mac = none
      ∧ l = { region := .agentData, home := 0, off := (s.agent 0).mprog.toNat } ∧ l.off % 64 = 0 ∧ l.off + 80 ≤ 0x10000
      ∧ s.peek l 80 = macBlock 0 1 1 1 ∧ OnAgent s ∧ s.turn.rank = 0 ∧ f.port.val = 1)
    ∧ ∃ (s : State) (rq : Rpc), Serves s 0 13 rq ∧ (s.agent 0).mac = none ∧ rq.loc.region = .vault ∧ rq.loc.off % 64 = 0
      ∧ s.unreadable rq.loc 64 = false ∧ s.peek rq.loc 2 = 0 :=
  ⟨⟨(agentState 0 (fun a => { a with mprog := 0xFF80 })).poke { region := .agentData, home := 0, off := 0xFF80 } 80 (macBlock 0 1 1 1),
      { region := .agentData, home := 0, off := 0xFF80 }, pForm 1, by decide +kernel, by decide +kernel, by decide +kernel, by decide +kernel,
      by decide +kernel, rfl, rfl, rfl⟩,
    served (request 13 0 0 (vaultLoc 0 0x10000) 0), request 13 0 0 (vaultLoc 0 0x10000) 0, by constructor <;> decide +kernel,
    by decide +kernel⟩

/-- A program before its locks, at its first and its last row within its length, at a row beyond it, at its end, and expired. -/
theorem witness_BankMacPrograms_run :
    (∀ c ∈ [(0, 0, false, false), (256, 0, true, false), (512, 1, true, false), (512, 2, true, false), (512, 1, true, true)],
      ∀ b : Bool, ∃ p, ((macState c.1 (some (program (macBlock 2 2 1 64) c.2.1 512 c.2.2.1 c.2.2.2
          (if b then some (request 13 0 0 (vaultLoc 0 0x10000) 0) else none)))).agent 0).mac = some p
        ∧ Clean p (macBlock 2 2 1 64) c.2.1 ∧ p.locked = c.2.2.1 ∧ p.expired = c.2.2.2 ∧ p.ends = 512)
    ∧ (0 + 1) * rowCycles 1 ≤ 8 * 64 ∧ 512 + (0 + 1) * rowCycles 1 ≤ 256 + 8 * 64
    ∧ (1 + 1) * rowCycles 1 ≤ 8 * 64 ∧ 512 + (1 + 1) * rowCycles 1 ≤ 512 + 8 * 64
    ∧ (∃ p, ((macState 256 (some (program (macBlock 1 2 2 32) 1 256 true false none))).agent 0).mac = some p ∧ Clean p (macBlock 1 2 2 32) 1
      ∧ 8 * 32 < (1 + 1) * rowCycles 2 ∧ p.ends ≤ (macState 256 none).cycle.toNat)
    ∧ Inv (macState 256 none) ∧ (∀ p ∈ (macState 256 none).cores, p.2.redbuf = []) ∧ ((macState 256 none).core 0).vault = Vault.reset
    ∧ ((macState 256 none).agent 0).locks = [] := by
  refine ⟨?_, by decide, by decide, by decide, by decide, ⟨_, rfl, ⟨⟨rfl, rfl, rfl, rfl, rfl, rfl⟩, rfl, rfl⟩, by decide, by decide +kernel⟩,
    base_inv, by decide +kernel, by decide +kernel, by decide +kernel⟩
  intro c hc b
  exact ⟨_, rfl, ⟨⟨rfl, rfl, rfl, rfl, rfl, rfl⟩, rfl, rfl⟩, rfl, rfl, rfl⟩
/-! ### Tokens and tasks -/

def someStatus (task : Word) (lost credit : Bool) : Status :=
  { rank := 0, slot := 0, task := task, reg := 9, value := 4, lost := lost, credit := credit, recov := false, dom := 0 }

/-- A task parked on s9 in the parked list of core 0. -/
def parkedTask : Task := { someTask 1 with parked := true, live := 0x200, regs := [.zero], wait := .token 9, parkTok := 9, pend := 0x200 }

theorem witness_TokenStatuses : (∀ b : Bool, ∃ (s : State) (x : Status) (w : Turn), s.statuses = [x] ∧ x.lost = false
      ∧ s.seatOf x = some (.slot w) ∧ bit (s.thAt w).errinj 31 = false ∧ x.credit = b)
    ∧ (∃ (s : State) (x : Status) (r : Nat) (k : Task) (c : Core), s.statuses = [x] ∧ x.lost = false ∧ s.cores = [(r, c)] ∧ c.parked = [k]
      ∧ c.ready = [] ∧ c.frames = [] ∧ s.seatOf x = some (.parked r k) ∧ k.wait = .token x.reg ∧ x.reg ≠ 0
      ∧ k.live.toNat = 2 ^ x.reg.val ∧ k.regs.length = 1 ∧ k.mig = false ∧ k.frame = false ∧ (s.band (r / 16)).power = 0)
    ∧ ∃ (s : State) (x : Status) (w : Turn), s.statuses = [x] ∧ x.lost = true ∧ s.seatOf x = some (.slot w) := by
  refine ⟨?_, ⟨{ base.modMe (fun c => { c with parked := [parkedTask] }) with statuses := [someStatus 1 false true] }, someStatus 1 false true, 0,
    parkedTask, _, rfl, rfl, rfl, rfl, rfl, rfl, by decide +kernel, rfl, by decide, rfl, rfl, rfl, rfl, rfl⟩, ?_⟩
  · intro b
    exact ⟨{ base with statuses := [someStatus 0 false b] }, _, { rank := 0, slot := 0 }, rfl, rfl, rfl,
      (by decide +kernel : bit (base.thAt { rank := 0, slot := 0 }).errinj 31 = false), rfl⟩
  · exact ⟨{ base with statuses := [someStatus 0 true false] }, _, { rank := 0, slot := 0 }, rfl, rfl, rfl⟩

/-- Slot 3 of core 0 is empty, and a task waits. -/
theorem witness_TaskEvents_placement : ∃ (s : State) (k : Task), (s.core 0).ready = [k] ∧ (s.thAt (slotAt 0 3)).occ = .empty
    ∧ s.runtimeSlot 0 3 = false ∧ (s.band 0).resv = none ∧ (s.band 0).power = 0 ∧ (s.core 0).parked = [] ∧ k.frame = false ∧ k.live = 0
    ∧ k.bound = none ∧ k.src ≠ .resume :=
  ⟨base.modMe (fun c => { c with ready := [someTask 1] }), someTask 1, by decide +kernel⟩

/-- A task of priority 6 is promoted once 2^20 cycles have passed. -/
theorem witness_TaskEvents_aging : ∃ (s : State) (k : Task), (s.core 0).ready = [k] ∧ k.since + 2 ^ 20 * (k.aged + 1) = s.cycle.toNat
    ∧ min 7 (k.prio + k.aged) = 6 :=
  ⟨{ base.modMe (fun c => { c with ready := [{ someTask 1 with prio := 6 }] }) with cycle := 0x100000 }, _, rfl, by decide +kernel, rfl⟩

/-- A task of user mode in slot 3. -/
def slotTask (f : Thread → Thread) : State := base.modThAt (slotAt 0 3) (fun t => f { t with task := some (someTask 1), occ := .occupied })

theorem witness_TaskEvents_preEmption : ∃ (s : State) (k : Task), Leaves (s.thAt (slotAt 0 3)) k ∧ (s.core 0).frames = []
    ∧ 0 < field (s.core 0).ctxbase 0 16 ∧ (s.core 0).ready = [] ∧ (s.thAt (slotAt 0 3)).dirty = 0 :=
  ⟨(slotTask (fun t => { t with preempt := true })).modMe (fun c => { c with ctxbase := 1 }), someTask 1, by constructor <;> decide +kernel,
    by decide +kernel⟩

theorem witness_TaskEvents_watchdog : ∃ (s : State) (k : Task), (s.thAt (slotAt 0 3)).task = some k ∧ k.wdog ≠ 0
    ∧ k.wdog * 2 ^ 16 + 1 = k.ran + (s.cycle.toNat - k.since) ∧ (s.thAt (slotAt 0 3)).outst = [] ∧ (s.thAt (slotAt 0 3)).failing = none :=
  ⟨{ slotTask (fun t => { t with task := some { someTask 1 with wdog := 1 } }) with cycle := 0x10001 }, { someTask 1 with wdog := 1 },
    by decide +kernel⟩

def someTerm : Term := { outw := 1, signal := 0x8005, queue := 0, part := 0, failed := false, cause := 0, copy := none }

theorem witness_TaskEvents_failure : (∃ (s : State) (k : Task) (m : Term), (s.thAt (slotAt 0 3)).failing = some 0x01
      ∧ (s.thAt (slotAt 0 3)).task = some k ∧ k.wait ≠ .failed ∧ lookup s.terms k.launch = some m ∧ m.copy = none ∧ m.failed = false
      ∧ bit m.signal 15 = true ∧ (∀ y ∈ s.msgs, y.forJoin (field m.signal 0 14) = false) ∧ (s.queue m.queue).frozen = false
      ∧ (s.queue m.queue).bound = none ∧ Inv s ∧ ∃ x, s.part m.part = some x ∧ (s.core x.spec.sys).vault.zero = [])
    ∧ ∃ (s : State) (k : Task), (s.thAt (slotAt 0 3)).failing = some 0x01 ∧ (s.thAt (slotAt 0 3)).task = some k ∧ k.wait = .failed
      ∧ (s.thAt (slotAt 0 3)).outst = [] ∧ (s.thAt (slotAt 0 3)).pend = 0 ∧ (s.core 0).redbuf = [] ∧ (s.core 0).frames = []
      ∧ (s.core 0).mitten = .replicate 4 none ∧ 0 < k.weight := by
  refine ⟨⟨{ slotTask (fun t => { t with failing := some 0x01 }) with terms := [(0, someTerm)] }, someTask 1, someTerm, by decide +kernel,
    by decide +kernel, by decide +kernel, by decide +kernel, by decide +kernel, by decide +kernel, by decide +kernel, by decide +kernel,
    by decide +kernel, by decide +kernel, base_inv, placedPartition, by decide +kernel⟩,
    slotTask (fun t => { t with failing := some 0x01, task := some { someTask 1 with wait := .failed } }), _, rfl, rfl, rfl, ?_⟩
  decide +kernel

def slotThread (f : Thread → Thread) : State := base.modThAt (slotAt 0 3) (fun t => f { t with occ := .occupied })

/-- A slot outside a handler and in one, and enabled interrupts 0 and 5. -/
theorem witness_SlotEntries_entry : (∀ b : Bool, ∃ s : State, (s.thAt (slotAt 0 3)).occ = .occupied ∧ (s.thAt (slotAt 0 3)).outst = []
      ∧ (s.thAt (slotAt 0 3)).replay = none ∧ bit (s.thAt (slotAt 0 3)).thstat 5 = b ∧ (s.thAt (slotAt 0 3)).failing = none
      ∧ (s.thAt (slotAt 0 3)).mode ≠ 2)
    ∧ (∀ i ∈ [0, 5], ∃ (s : State) (a : Thread), a = s.thAt (slotAt 0 3) ∧ a.failing = none ∧ a.mode ≠ 2 ∧ a.occ = .occupied ∧ a.outst = []
      ∧ a.replay = none ∧ a.resumeTiles = 0 ∧ a.thermals = [] ∧ bit a.thstat 6 = true ∧ bit (a.ipend &&& a.ien) i = true
      ∧ (∀ j, j < i → bit (a.ipend &&& a.ien) j = false))
    ∧ ∃ s : State, (s.thAt (slotAt 0 3)).wfi = true ∧ (s.thAt (slotAt 0 3)).ipend &&& (s.thAt (slotAt 0 3)).ien ≠ 0 := by
  refine ⟨?_, ?_, ⟨slotThread (fun t => { t with wfi := true, ipend := 0x20, ien := 0x20 }), by decide +kernel⟩⟩
  · intro b
    refine ⟨slotThread (fun t => { t with thstat := word (ofBool b * 32) }), ?_⟩
    revert b
    decide +kernel
  · intro i hi
    refine ⟨slotThread (fun t => { t with thstat := 0x40, ipend := word (2 ^ i), ien := 0x3F }), _, rfl, ?_⟩
    revert i
    decide +kernel

def someOutst (trap : Option Trap) : Outst := { pc := sp 0x400, lk := 2, issued := 1, done := 1, dest := [.s 4], trap := trap, wait := .ready }

theorem witness_SlotEntries_outstanding : ∀ x ∈ [none, some { cause := .uncorr, tval := 8, kind := 1, out := true }],
    ∃ (s : State) (a : Thread) (o : Outst), a = s.thAt (slotAt 0 3) ∧ a.failing = none ∧ a.mode ≠ 2 ∧ a.outst = [o] ∧ o.wait = .ready ∧ o.trap = x
      ∧ a.replay = none ∧ bit a.thstat 5 = false := by
  intro x hx
  refine ⟨slotThread (fun t => { t with outst := [someOutst x] }), _, someOutst x, rfl, rfl, ?_, rfl, rfl, rfl, rfl, ?_⟩
  · simp only [List.mem_cons, List.not_mem_nil, or_false] at hx
    rcases hx with rfl | rfl <;> decide +kernel
  · simp only [List.mem_cons, List.not_mem_nil, or_false] at hx
    rcases hx with rfl | rfl <;> decide +kernel

theorem witness_IllegalWords : MayTrap base := base_mayTrap
/-! ### Gangs and launches -/

/-- A record of zeros but for its priority of 7 and what a test adds. -/
def someRecord (extra : Nat) : BitVec 512 := BitVec.ofNat 512 (7 * 256 ^ 9 + extra)

def someGang (reserved : List Nat) (loadAt : Option Nat) : Gang :=
  { record := someRecord 0, launch := 0, part := 0, bands := [0], reserved := reserved, placed := false, loadAt := loadAt }

theorem witness_GangEvents_reservation : ∃ s : State, lookup s.gangs 0 = some (someGang [] none)
    ∧ (someGang [] none).bands.find? (fun y => !(someGang [] none).reserved.contains y) = some 0 ∧ (s.band 0).resv = none :=
  ⟨{ base with gangs := [(0, someGang [] none)] }, by decide +kernel⟩

def slotPrio (n : Nat) : Task := { someTask 1 with id := word (n + 1), prio := 7 - n }

/-- Core 1 of a reserved band with four tasks; the one in slot 3 has the lowest priority. -/
def lateState : State :=
  { ((List.range 4).foldl (fun s n => s.modThAt (slotAt 1 n) (fun t => { t with occ := .occupied, task := some (slotPrio n) }))
      (base.modBand 0 (fun z => { z with resv := some 0 }))) with gangs := [(0, someGang [0] none)], cycle := 0x10000 }

theorem witness_GangEvents_timeout : lookup lateState.gangs 0 = some (someGang [0] none) ∧ (lateState.band 0).resv = some 0
    ∧ (lateState.band 0).resvAt + 2 ^ 16 = lateState.cycle.toNat ∧ lateState.runtimeSlot 1 0 = false
    ∧ (∀ n, n < 4 → (lateState.thAt (slotAt 1 n)).occ = .occupied ∧ (lateState.thAt (slotAt 1 n)).preempt = false
      ∧ (lateState.thAt (slotAt 1 n)).task = some (slotPrio n) ∧ (slotPrio n).gang = false ∧ (n ≠ 3 → (slotPrio 3).eff < (slotPrio n).eff))
    ∧ (slotPrio 3).eff ≤ recBytes (someGang [0] none).record 9 1 % 8 := by decide +kernel

def gangTask (n : Nat) : Task := { someTask 1 with id := word (n + 1), gang := true, src := .gang, gangOf := some (0, n), wait := .gang 0 }

def waitingGang : State :=
  { (base.modCore 0 (fun c => { c with parked := [gangTask 0] })).modCore 1 (fun c => { c with parked := [gangTask 1] }) with
    gangs := [(0, someGang [0] none)] }

theorem witness_GangEvents_release : Complete waitingGang 0 (someGang [0] none) ∧ Members waitingGang 0 [(0, gangTask 0), (1, gangTask 1)] := by
  refine ⟨⟨by decide +kernel, by decide +kernel, ?_, by decide +kernel⟩, ⟨by decide +kernel, ?_, by decide +kernel⟩⟩
  · intro p hp n k m hk
    have h : ∀ p ∈ waitingGang.cores, ∀ n : Fin 5, p.2.threads[n].task = none := by decide +kernel
    rw [h p hp n] at hk
    cases hk
  · intro m hm
    refine ⟨1, ?_⟩
    revert m
    decide +kernel

/-- A gang on tag 7. -/
def taggedGang : Gang := { someGang [0] (some 0) with record := someRecord (7 * 256 ^ 0xE) }

/-- Slot 0 of core 0 waits on the gang's tag beyond WD = 12; core 1, the other member of the group, has not arrived. -/
theorem witness_GangEvents_load : ∃ (s : State) (a : Thread), lookup s.gangs 0 = some taggedGang ∧ 0 ∈ coresOf taggedGang
    ∧ a = s.thAt (slotAt 0 0) ∧ tagOf taggedGang = 7 ∧ pcOf (s.core 0) 7 < acOf (s.core 0) 7 ∧ (s.core 0).sstep = []
    ∧ (∃ k ∈ s.groupOf 0 7, ¬ pcOf (s.core k) 7 < acOf (s.core k) 7)
    ∧ 0 + 2 ^ (field ((s.core 0).bmask.getD 7 0) 36 4 + 12) + 1 = s.cycle.toNat ∧ a.waitSince = some (0, 7)
    ∧ (∀ k, k < 4 → k ≠ 0 → (s.thAt (slotAt 0 k)).waitSince = none) ∧ a.outst = [] ∧ a.mode ≠ 2 ∧ a.replay = none ∧ bit a.thstat 5 = false :=
  ⟨{ ((spanState 0xC000020000 4 id).modCore 1 (fun c => { c with
      bmask := c.bmask.setIfInBounds 7 0xC000020000 })).modTh (fun t => { t with waitSince := some (0, 7) }) with
      gangs := [(0, taggedGang)], cycle := 0x1000001 }, _, by decide +kernel, by decide +kernel, rfl, by decide +kernel, by decide +kernel,
    by decide +kernel, by decide +kernel, by decide +kernel, by decide +kernel, by decide +kernel⟩

/-- Queue 0 of partition 0, granted to host port 0; it holds the records given. -/
def queueState (recs : List (BitVec 512)) (frozen : Bool) : State :=
  { base with queues := [(0, { WorkQueue.reset with bound := some 0, recs := recs, frozen := frozen })], pgrant := base.pgrant.setIfInBounds 0 2 }

theorem witness_QueueEvents : (∀ port ∈ [0, 2], ∀ n ∈ [0, 15], ∀ b : Bool, PortReaches (queueState (List.replicate n 0) b) port 0
      ∧ ((queueState (List.replicate n 0) b).queue 0).recs.length < 16 + ((queueState (List.replicate n 0) b).queue 0).ovcap
      ∧ ((queueState (List.replicate n 0) b).queue 0).frozen = b)
    ∧ 16 + ((queueState (List.replicate 16 0) false).queue 0).ovcap ≤ ((queueState (List.replicate 16 0) false).queue 0).recs.length
    ∧ (∀ rec ∈ [someRecord 0, someRecord (0x8005 * 256 ^ 0x1C)], ((queueState [rec] true).queue 0).recs = [rec]
      ∧ ((queueState [rec] true).queue 0).frozen = true ∧ (2 ^ 15 ≤ recBytes rec 0x1C 2 ↔ rec ≠ someRecord 0)) := by
  refine ⟨?_, by decide +kernel, ?_⟩
  · intro port hp n hn b
    refine ⟨?_, ?_, rfl⟩
    · have h : ∀ port ∈ [0, 2], port = 2 ∨ bit ((base.pgrant.setIfInBounds 0 2).getD 0 0) (1 + port) = true := by decide +kernel
      exact (h port hp).imp id (fun h => ⟨0, rfl, h⟩)
    · show (List.replicate n (0 : BitVec 512)).length < 16 + 0
      rw [List.length_replicate]
      revert n
      decide
  · intro rec hr
    simp only [List.mem_cons, List.not_mem_nil, or_false] at hr
    rcases hr with rfl | rfl <;> decide +kernel

/-- The seventeenth record lies at the start of the overflow region. -/
theorem witness_QueueEvents_overflow : ∃ (s : State) (y : Partition), (s.queue 0).bound = some 0 ∧ s.part 0 = some y
    ∧ lookup y.spec.overflow 0 = some 0x2000000 ∧ (s.queue 0).recs.length = 16 ∧ 16 < 16 + (s.queue 0).ovcap ∧ Inv s :=
  ⟨{ base with
      queues := [(0, { WorkQueue.reset with bound := some 0, recs := List.replicate 16 0, ovcap := 1 })]
      parts := [(0, { placedPartition with spec := { placedPartition.spec with overflow := [(0, 0x2000000)] } })] }, _, rfl, rfl,
    by decide +kernel, by decide +kernel, by decide +kernel, base_inv⟩

/-- The one counter of a partition. -/
theorem witness_QueueEvents_counter : ∃ (s : State) (y : Partition), s.parts = [(0, y)] ∧ y.spec.counterBase = 7 ∧ y.spec.counterCount = 1
    ∧ bit (s.grant 0) 2 = true :=
  ⟨{ base with parts := [(0, { placedPartition with spec := { placedPartition.spec with counterBase := 7, counterCount := 1 } })],
               pgrant := base.pgrant.setIfInBounds 0 4 }, _, rfl, rfl, rfl, by decide +kernel⟩

/-- A launch with a signal that is owed the weight 3, which comes back in part and whole. -/
theorem witness_TerminationEvents : ∀ w ∈ [2, 3], ∃ (s : State) (m : Term), s.msgs = [.weight 0 w] ∧ lookup s.terms 0 = some m ∧ m.copy = none
    ∧ (w < m.outw ↔ w = 2) ∧ (m.outw = w ↔ w = 3) ∧ (s.terms.map (·.1)).Nodup ∧ bit m.signal 15 = true := by
  intro w hw
  refine ⟨{ base with msgs := [.weight 0 w], terms := [(0, { someTerm with outw := 3 })] }, { someTerm with outw := 3 }, rfl, rfl, rfl, ?_⟩
  revert w
  decide +kernel

theorem witness_TerminationEvents_messages : (∃ s : State, s.msgs = [.signal 5]) ∧ (∃ s : State, s.msgs = [.failure 5 (BitVec.ofNat 8 (Cause.code .illegal))])
    ∧ (∀ b : Bool, ∃ s : State, bit ((lookup s.joins 5).getD 0) 63 = b ∧ s.msgs = [.failure 5 (BitVec.ofNat 8 (Cause.code .illegal))])
 := by
  refine ⟨⟨{ base with msgs := [.signal 5] }, rfl⟩, ⟨{ base with msgs := [.failure 5 _] }, rfl⟩, ?_⟩
  intro b
  refine ⟨{ base with msgs := [.failure 5 _], joins := [(5, word (ofBool b * 2 ^ 63))] }, ?_, rfl⟩
  revert b
  decide +kernel

theorem witness_TopupEvents : (∃ (s : State) (w : Turn) (m : Term) (x : Partition), s.msgs = [.topup 0 w] ∧ lookup s.terms 0 = some m ∧ Inv s
      ∧ s.part m.part = some x ∧ (s.core x.spec.sys).vault.zero = [])
    ∧ ∃ (s : State) (k : Task), s.msgs = [.topupAck (slotAt 0 3)] ∧ (s.thAt (slotAt 0 3)).task = some k :=
  ⟨⟨{ base with msgs := [.topup 0 (slotAt 0 3)], terms := [(0, someTerm)] }, _, someTerm, placedPartition, rfl, rfl, base_inv, by decide +kernel⟩,
    ⟨{ slotTask id with msgs := [.topupAck (slotAt 0 3)] }, someTask 1, rfl, by decide +kernel⟩⟩

def dispatchState (rec : BitVec 512) : State :=
  { base with
    queues := [(0, { WorkQueue.reset with bound := some 0, recs := [rec] })]
    parts := [(0, { placedPartition with spec := { placedPartition.spec with pool := 1 } })] }

/-- A record for core 15, the last of its band, and a record of a kind that is none. -/
theorem witness_DispatchEvents : (∃ (s : State) (x : Partition) (y : WorkQueue) (rec : BitVec 512), lookup s.parts 0 = some x ∧ x.next ≤ s.cycle.toNat
      ∧ s.queues = [(0, y)] ∧ y.bound = some 0 ∧ y.frozen = false ∧ y.redundant = false ∧ y.recs = [rec] ∧ SingleRecord s x rec 15 ∧ s.terms = []
      ∧ 0 < x.spec.pool ∧ (s.core 15).ready = [] ∧ (s.band (15 / 16)).power = 0)
    ∧ (dispatchState (someRecord (0xFF * 256 ^ 0x3F))).queues.map (·.1) = [0] ∧ recBytes (someRecord (0xFF * 256 ^ 0x3F)) 0x3F 1 ≠ 0
    ∧ recBytes (someRecord (0xFF * 256 ^ 0x3F)) 0x1C 2 < 2 ^ 15 := by
  refine ⟨⟨dispatchState (someRecord (15 * 256 ^ 0xC)), _, _, someRecord (15 * 256 ^ 0xC), rfl, by decide +kernel, rfl, rfl, rfl, rfl, rfl, ?_,
    by decide +kernel⟩, by decide +kernel⟩
  constructor <;> decide +kernel

/-- Two copies that have ended; their images are the first rows of page 0 and OUT is page 1; the table holds no other page. -/
def someCopies : Redundant :=
  { record := someRecord 0, queue := 0, part := 0, block := BitVec.ofNat 512 (0x10000 + 0x800 * 256 ^ 0x20), blockLoc := vaultLoc 0 0x3000000,
    terms := [], failedCopies := [], cores := [0, 1] }

/-- A partition with room for the record of a third copy. -/
def copiesPart : Partition := { placedPartition with spec := { placedPartition.spec with pool := 2 } }

def copiesState (v : Nat) : State :=
  { (((tableCells.take 5).foldl (fun s c => s.poke (vaultLoc 0 c.1) 8 c.2) (base.modMe (fun c => { c with ptbase := 0x20001 }))).poke
      (vaultLoc 0 0x1000800) 8 v) with
    parts := [(0, copiesPart)]
    redundants := [(0, someCopies)] }

theorem copies_two (v : Nat) (hv : v = 0 ∨ v = 1) :
    TwoCopies (copiesState v) 0 someCopies copiesPart (vaultLoc 0 0x1000000) (vaultLoc 0 0x1000800) (vaultLoc 0 0x1010000) := by
  constructor
  · exact ⟨rfl, rfl⟩
  · decide +kernel
  · decide +kernel
  · rcases hv with rfl | rfl <;> decide +kernel
  · decide +kernel
  · rcases hv with rfl | rfl <;> decide +kernel
  · rcases hv with rfl | rfl <;> decide +kernel
  · decide +kernel

theorem witness_DispatchEvents_copies : ∀ v ∈ [0, 1], Inv (copiesState v)
    ∧ TwoCopies (copiesState v) 0 someCopies copiesPart (vaultLoc 0 0x1000000) (vaultLoc 0 0x1000800) (vaultLoc 0 0x1010000)
    ∧ ((copiesState v).peek (vaultLoc 0 0x1000000) 0x800 = (copiesState v).peek (vaultLoc 0 0x1000800) 0x800 ↔ v = 0)
    ∧ (copiesState v).freeTerms someCopies.part copiesPart ≠ 0 := by
  intro v hv
  have h : v = 0 ∨ v = 1 := by revert v; decide
  refine ⟨?_, copies_two v h, ?_, ?_⟩
  · show Memory.wf _
    rcases h with rfl | rfl <;> decide +kernel
  · rcases h with rfl | rfl <;> decide +kernel
  · rcases h with rfl | rfl <;> decide +kernel
/-! ### Hosts, links and recovery -/

/-- Partition 0 granted as `w` says. -/
def hostState (w : Word) : State := { base with pgrant := base.pgrant.setIfInBounds 0 w }

theorem witness_HostEvents_doorbell : ¬ HostMay (hostState 2) 1 0 ∧ ¬ HostMay (hostState 2) 2 0
    ∧ ∃ x, HostMay (hostState 4) 1 0 ∧ (hostState 4).part 0 = some x ∧ Inv (hostState 4) ∧ (∀ y ∈ (hostState 4).cores, y.2.redbuf = [])
      ∧ ((hostState 4).core x.spec.sys).vault.zero = [] :=
  ⟨by unfold HostMay; decide +kernel, by unfold HostMay; decide +kernel, placedPartition, by unfold HostMay; decide +kernel, rfl, base_inv,
    by decide +kernel, by decide +kernel⟩

/-- The last double word of the window, lost or not, and an access beyond the window and one without a grant. -/
theorem witness_HostEvents_window : ∀ b : Bool, ∃ s : State, Windowed s 0 0 0x3DFFFFF8 ∧ s.unreadable (vaultLoc 0 0x3DFFFFF8) 8 = b ∧ Inv s
    ∧ (hostState 2).partOf 0 = some 0 ∧ bit ((hostState 2).grant 0) 3 = false ∧ base.partOf 16 = none := by
  intro b
  refine ⟨(hostState 8).modMe (fun c => { c with vault := { c.vault with badGranules := if b then [0x3DFFFFF8 / 64] else [] } }), ?_, ?_, base_inv,
    by decide +kernel⟩
  · cases b <;> exact ⟨by decide, ⟨0, by decide +kernel⟩, by decide, by decide +kernel, by decide +kernel, by decide +kernel⟩
  · cases b <;> decide +kernel

/-- A partition with a page of the second tier, granted to both ports; links 0 and 11 up at a generation and rate. -/
def linkState (gen rate : Nat) (both : Bool) : State :=
  { base with
    parts := [(0, { placedPartition with spec := { placedPartition.spec with tierFrames := 1 } })]
    pgrant := base.pgrant.setIfInBounds 0 6
    tiers := base.tiers.setIfInBounds 7 2
    fabric := true
    links := (base.links.setIfInBounds 0 { gen := gen, rate := rate, up := true }).setIfInBounds 11 { gen := gen, rate := rate, up := both } }

theorem witness_LinkEvents : ∃ x, (linkState 3 56 true).parts = [(0, x)] ∧ 0 < x.spec.tierFrames
    ∧ (∀ port, port < 2 → bit ((linkState 3 56 true).grant x.spec.id) (1 + port) = true) ∧ 4 ∉ [5, 6, 7, 0x20, 0x30]
    ∧ 2 ≤ (linkState 3 56 true).tiers.getD 7 0 ∧ (∀ e ∈ [(3, 224), (3, 168), (3, 112), (2, 112), (3, 56), (2, 56)], ∀ b : Bool,
      (linkState e.1 e.2 b).links.getD 0 .reset = { gen := e.1, rate := e.2, up := true }
      ∧ ((linkState e.1 e.2 b).links.getD 11 .reset).up = b) := by
  refine ⟨_, rfl, by decide +kernel, by decide +kernel, by decide, by decide +kernel, by decide +kernel⟩

/-- The last link goes while core 1024, of another package, holds a request from this one. -/
theorem witness_LinkEvents_last : ∃ (s : State) (x : Partition) (c : Core) (rq : Rpc), s.parts = [(0, x)] ∧ s.links.getD 0 .reset = { gen := 2, rate := 56, up := true }
    ∧ (∀ m, m < 12 → m ≠ 0 → (s.links.getD m .reset).up = false) ∧ x.spec.sys / 1024 = s.dev
    ∧ s.cores.filter (fun y => decide (y.1 / 1024 ≠ s.dev) && decide (y.1 < 65536)) = [(1024, c)] ∧ s.core 1024 = c ∧ c.agent.requests = [rq]
    ∧ c.agent.current = none ∧ rq.rank / 1024 = s.dev ∧ rq.engine = none :=
  ⟨(linkState 2 56 false).modAgent 1024 (fun a => { a with requests := [request 0 0 8 (vaultLoc 1024 0) 0] }), _, _,
    request 0 0 8 (vaultLoc 1024 0) 0, rfl, by decide +kernel, by decide +kernel, by decide +kernel, rfl, by decide +kernel, rfl,
    by decide +kernel⟩

/-- A deferred operation on 8 bytes of 3 in the last double word of the own vault: each sum and each order. -/
def deferring (op width : Nat) : State :=
  base.modMe (fun c => { c with redbuf := [{ ga := { sb := 0xF3, v := 0x3FFFFFF8 }, loc := vaultLoc 0 0x3FFFFFF8, op := op, width := width, val := 3, last := 0, nv := [] }] })

theorem witness_RecoveryEvents_reductions : ∀ e ∈ ([(0, Instr.amoAdd), (1, .amoFadd), (2, .amoSmin), (3, .amoSmax), (4, .amoFmin), (5, .amoFmax)]
      : List (Nat × (FmtAm → Instr))), ∀ w ∈ [4, 8], ∃ (x : RedEntry) (a : (FmtAm → Instr) × (Nat → Nat → Nat → Nat → Option Nat × Bool)) (v : Nat) (nv : Bool),
    Inv (deferring e.1 w) ∧ ((deferring e.1 w).core 0).redbuf = [x] ∧ Settled (deferring e.1 w) 0 x.loc ∧ x.nv = []
    ∧ x.loc.region ≠ .control ∧ x.loc.builtIn = false ∧ (deferring e.1 w).fixedLoc x.loc = false
    ∧ (deferring e.1 w).look x.loc x.width = (deferring e.1 w).peek x.loc x.width
    ∧ ((deferring e.1 w).core 0).vault.zero = [] ∧ ckptDom ((deferring e.1 w).thAt { rank := 0, slot := x.last }).domid = false ∧ x.width = w ∧ x.op = e.1
    ∧ a ∈ amoTable ∧ (∀ f, a.1 f = e.2 f) ∧ a.2 w ((deferring e.1 w).peek x.loc w) (x.val % 256 ^ w) 0 = (some v, nv) ∧ x.val < 256 ^ w
    ∧ x.loc = vaultLoc 0 (0xFFFFFF % 2 ^ 24 * 64 + x.loc.off % 64) := by
  intro e he w hw
  simp only [List.mem_cons, List.not_mem_nil, or_false] at he hw
  rcases he with rfl | rfl | rfl | rfl | rfl | rfl <;> rcases hw with rfl | rfl <;>
  first
  | exact ⟨_, (amoTable[1]), _, _, base_inv, rfl, by unfold Settled; decide +kernel, rfl, by decide, by decide +kernel, by decide +kernel, by decide +kernel,
      by decide +kernel, by decide +kernel, rfl, rfl, List.getElem_mem _, fun _ => rfl, rfl, by decide, by decide +kernel⟩
  | exact ⟨_, (amoTable[10]), _, _, base_inv, rfl, by unfold Settled; decide +kernel, rfl, by decide, by decide +kernel, by decide +kernel, by decide +kernel,
      by decide +kernel, by decide +kernel, rfl, rfl, List.getElem_mem _, fun _ => rfl, rfl, by decide, by decide +kernel⟩
  | exact ⟨_, (amoTable[5]), _, _, base_inv, rfl, by unfold Settled; decide +kernel, rfl, by decide, by decide +kernel, by decide +kernel, by decide +kernel,
      by decide +kernel, by decide +kernel, rfl, rfl, List.getElem_mem _, fun _ => rfl, rfl, by decide, by decide +kernel⟩
  | exact ⟨_, (amoTable[6]), _, _, base_inv, rfl, by unfold Settled; decide +kernel, rfl, by decide, by decide +kernel, by decide +kernel, by decide +kernel,
      by decide +kernel, by decide +kernel, rfl, rfl, List.getElem_mem _, fun _ => rfl, rfl, by decide, by decide +kernel⟩
  | exact ⟨_, (amoTable[11]), _, _, base_inv, rfl, by unfold Settled; decide +kernel, rfl, by decide, by decide +kernel, by decide +kernel, by decide +kernel,
      by decide +kernel, by decide +kernel, rfl, rfl, List.getElem_mem _, fun _ => rfl, rfl, by decide, by decide +kernel⟩
  | exact ⟨_, (amoTable[12]), _, _, base_inv, rfl, by unfold Settled; decide +kernel, rfl, by decide, by decide +kernel, by decide +kernel, by decide +kernel,
      by decide +kernel, by decide +kernel, rfl, rfl, List.getElem_mem _, fun _ => rfl, rfl, by decide, by decide +kernel⟩

/-- An image of domain 8 (CKPT, tag 0) of core 0, whose group on tag 0 is itself. -/
def someImage (count : Nat) : CkptImage :=
  { dom := 8, cells := [(0x33FFFF, 1)], stackCells := [[(0x3FFFFF, 2)], [], [], []], frames := [], threads := Core.reset.threads, ready := [], parked := [],
    queues := Core.reset.queues, ranges := [], mitten := Core.reset.mitten, wsum := [], sstepn := 3, count := count }

def someRow : JournalRow := { dom := 8, row := 0x7BFFF, old := 5, cv := true }

def rollState (images : List CkptImage) : State :=
  { base.modCore 0 (fun c => { c with
      bmask := c.bmask.setIfInBounds 0 0xC000010000, ckpt := images, vault := { c.vault with journal := [someRow] },
      threads := c.threads.setIfInBounds 1 { Thread.reset 1 with occ := .occupied, domid := 8, task := some { someTask 1 with domain := 8 } } }) with
    turn := { rank := 0, slot := 1 }, rollbackDue := [8] }.modThAt { rank := 0, slot := 0 } (fun t => { t with occ := .empty })

theorem witness_RecoveryEvents_rollback : Inv (rollState [someImage 1]) ∧ Restorable (rollState [someImage 1]) 8 0 (someImage 1) someRow := by
  refine ⟨base_inv, ⟨by decide +kernel, by decide +kernel, by decide +kernel, by decide +kernel, by decide +kernel, by decide +kernel, by decide +kernel⟩⟩

/-- No image, and one that has been rolled back to twice. -/
theorem witness_RecoveryEvents_fails : ∀ l ∈ [[], [someImage 2]], (8 : Word) ∈ (rollState l).rollbackDue ∧ (rollState l).rollbackReady 8 = true
    ∧ (rollState l).domainMembers 8 = [0] ∧ ((rollState l).core 0).ckpt = l
    ∧ (∃ k, ((rollState l).thAt (slotAt 0 1)).task = some k ∧ k.inDomain 8 = true) ∧ ((rollState l).thAt (slotAt 0 1)).failing = none := by
  intro l hl
  simp only [List.mem_cons, List.not_mem_nil, or_false] at hl
  rcases hl with rfl | rfl <;>
  exact ⟨by decide +kernel, by decide +kernel, by decide +kernel, by decide +kernel, ⟨{ someTask 1 with domain := 8 }, by decide +kernel⟩, by decide +kernel⟩
/-! ### Translation and paging -/

def walkHome (_ : Nat) : Nat := 0

def walkOff (k : Nat) : Nat := [0x80000, 0x60000, 0x40000, 0x20000].getD k 0

/-- Page 0 through nodes of core 0, with leaf `e`. -/
def walkState (e : Nat) : State :=
  ([(0x20000, 0x800C000000000002), (0x40000, 0x800C000000000003), (0x60000, 0x800C000000000004), (0x80000, e)] : List (Nat × Nat)).foldl
    (fun s c => s.poke (vaultLoc 0 c.1) 8 c.2) (base.modMe (fun c => { c with ptbase := 0x20001 }))

def fullLeaf : Nat := 0x84F0000000000100

theorem walk_chain (e : Nat) (h : e ∈ [fullLeaf, 0x8000000000000100]) :
    Chain (walkState e) 0 0x20001 0 walkHome walkOff (word ((walkState e).peek (vaultLoc 0 0x80000) 8)) := by
  simp only [List.mem_cons, List.not_mem_nil, or_false] at h
  rcases h with rfl | rfl <;>
  · refine ⟨by decide +kernel, by decide +kernel, ?_, by decide +kernel, by decide +kernel, by decide +kernel⟩
    intro k hk w hw
    subst hw
    revert k
    decide +kernel

theorem walk_walks (s : State) (r : Nat) (a : Thread) (h1 : a.occ = .occupied ∧ a.outst = [] ∧ a.failing = none ∧ a.faultWait = none)
    (h2 : (s.core r).utlb = [] ∧ (s.core r).tlb = [] ∧ (s.core r).wcache = []) : Walks s r a .zero := ⟨by decide, h1, h2⟩

theorem witness_PagingEvents_walk : ∃ (ga : Ptr) (s : State) (a : Thread) (h o : Nat → Nat) (e : Word), a = s.thAt (slotAt 0 0) ∧ Inv s ∧ Walks s 0 a ga
    ∧ Chain s 0 (s.core 0).ptbase (vpnOf ga) h o e ∧ permits e .store (decide (a.mode ≠ 0)) = true :=
  ⟨.zero, walkState fullLeaf, _, walkHome, walkOff, _, rfl, by show Memory.wf _; decide +kernel,
    walk_walks _ _ _ (by decide +kernel) (by decide +kernel), walk_chain fullLeaf (by decide), by decide +kernel⟩

/-- Translation off, an entry that is not valid, and a leaf without W. -/
theorem witness_PagingEvents_fails : ∃ s u v : State, WalkFails s 0 .zero .store true 5 4 ∧ WalkFails u 0 .zero .store true 5 0
    ∧ WalkFails v 0 .zero .store true 6 1 ∧ ∀ x ∈ [s, u, v], Inv x ∧ Walks x 0 (x.thAt (slotAt 0 0)) .zero ∧ (x.thAt (slotAt 0 0)).mode ≠ 0
      ∧ x.partOf 0 = some 0 ∧ x.part 0 = some placedPartition ∧ x.peek ((faultSlot placedPartition 0).plus 0x1E) 1 = 0
      ∧ (x.core 0).vault.zero = [] ∧ (x.thAt (slotAt 0 0)).task = none := by
  refine ⟨base, base.modMe (fun c => { c with ptbase := 0x20001 }), walkState 0x8000000000000100, .inl (by decide +kernel), .inr (.inl (by decide +kernel)),
    .inr (.inr ⟨rfl, rfl, walkHome, walkOff, _, walk_chain _ (by decide), by decide +kernel⟩), ?_⟩
  intro x hx
  simp only [List.mem_cons, List.not_mem_nil, or_false] at hx
  rcases hx with rfl | rfl | rfl <;>
  exact ⟨by show Memory.wf _; decide +kernel, walk_walks _ _ _ (by decide +kernel) (by decide +kernel), by decide +kernel, by decide +kernel, rfl,
    by decide +kernel, by decide +kernel, by decide +kernel⟩

/-- The same failure of a task on core 1, whose frames lie below the context area's end. -/
theorem witness_PagingEvents_parks : ∃ (s : State) (a : Thread) (k : Task), a = s.thAt (slotAt 1 3) ∧ Inv s ∧ Walks s 1 a .zero ∧ s.partOf 1 = some 0
    ∧ s.part 0 = some placedPartition ∧ s.peek ((faultSlot placedPartition 0).plus 0x1E) 1 = 0
    ∧ WalkFails s 1 .zero .load (decide (a.mode ≠ 0)) 5 4 ∧ a.task = some k ∧ (s.core 1).frames = [] ∧ 0 < field (s.core 1).ctxbase 0 16 ∧ a.dirty = 0
    ∧ 1 ≠ placedPartition.spec.sys ∧ (s.core 1).vault.zero = [] ∧ field (s.core 1).ctxbase 16 14 * 0x10000 + 0x410000 = 0x3F000000 :=
  ⟨(base.modThAt (slotAt 1 3) (fun t => { t with occ := .occupied, task := some (someTask 1) })).modCore 1 (fun c => { c with ctxbase := 0x3EBF0001 }), _,
    someTask 1, rfl, base_inv, walk_walks _ _ _ (by decide +kernel) (by decide +kernel), by decide +kernel, rfl, by decide +kernel,
    .inl (by decide +kernel), by decide +kernel⟩

/-- Entry 0 of the fault queue, resolved as 1 or 2 for a fault of code 6; a task is parked on it, or slot 0 waits for it. -/
def faultState (res : Nat) (parked : Bool) : State :=
  (((if parked then base.modMe (fun c => { c with parked := [{ someTask 1 with wait := .fault 0 0, frame := true }] })
    else base.modTh (fun t => { t with faultWait := some (0, 0) })).poke (vaultLoc 0 9) 1 6).poke (vaultLoc 0 0x1E) 1 1).poke (vaultLoc 0 0x1F) 1 res

theorem witness_PagingEvents_resolved : ∀ res ∈ [1, 2], ∀ b : Bool, ∃ (x : Partition) (c : Core), Inv (faultState res b) ∧ (faultState res b).part 0 = some x
    ∧ Resolved (faultState res b) 0 x 0 res 0 c ∧ (faultState res b).peek ((faultSlot x 0).plus 9) 1 = 6
    ∧ (b = true → (∃ y, c.parked = [y] ∧ y.wait = .fault 0 0) ∧ ∀ n : Fin 5, c.threads[n].faultWait = none)
    ∧ (b = false → c.parked = [] ∧ ((faultState res b).thAt (slotAt 0 0)).faultWait = some (0, 0)
      ∧ ∀ m, m < 4 → m ≠ 0 → ((faultState res b).thAt (slotAt 0 m)).faultWait = none) := by
  intro res hr b
  simp only [List.mem_cons, List.not_mem_nil, or_false] at hr
  rcases hr with rfl | rfl <;> cases b <;>
  · refine ⟨placedPartition, _, by show Memory.wf _; decide +kernel, rfl,
      ⟨(fun _ h => nomatch h), by decide +kernel, ⟨rfl, by decide +kernel, by decide +kernel, by decide +kernel⟩, by decide +kernel⟩, by decide +kernel, ?_, ?_⟩
    · intro h
      first
      | exact absurd h (by decide)
      | exact ⟨⟨_, rfl, rfl⟩, by decide +kernel⟩
    · intro h
      first
      | exact absurd h (by decide)
      | exact ⟨rfl, by decide +kernel⟩

/-- A page command of engine 0 on `n` pages from page 0, with the placement of home 1, frame 5. -/
def pageCmd (op n : Nat) : Cmd :=
  { someCmd (7 * 2 ^ 248 + op * 2 ^ 240 + n * 2 ^ 32 + (2 ^ 27 + 5) * 2 ^ 48) 0 [] with ptbase := 0x20001 }

theorem witness_PageMoves_send : (∃ (s : State) (h o : Nat → Nat) (w : Word), PageCmd s 0 (pageCmd 0 1) false ∧ (pageCmd 0 1).shot = false
      ∧ Chain s (pageCmd 0 1).rank (pageCmd 0 1).ptbase (vpnOf (pageCmd 0 1).src) h o w ∧ (s.agent (field w 27 16)).moving = none
      ∧ (s.agent (field w 27 16)).redirects = [])
    ∧ ∃ (s : State) (c : Cmd), PageCmd s 0 c false ∧ c.shot = false ∧ bit c.ptbase 0 = false := by
  have hc : ∀ h, Chain (walkState fullLeaf) 0 h 0 walkHome walkOff (word ((walkState fullLeaf).peek (vaultLoc 0 0x80000) 8)) →
      Chain (engineOf0 { Engine.reset with active := some (pageCmd 0 1) } (walkState fullLeaf)) 0 h 0 walkHome walkOff
        (word ((walkState fullLeaf).peek (vaultLoc 0 0x80000) 8)) := fun _ h => ⟨h.on, h.root, h.down, h.leaf, h.formed, h.still⟩
  refine ⟨⟨engineOf0 { Engine.reset with active := some (pageCmd 0 1) } (walkState fullLeaf), walkHome, walkOff,
    word ((walkState fullLeaf).peek (vaultLoc 0 0x80000) 8), ⟨by decide +kernel, by decide +kernel, by decide +kernel⟩, rfl, ?_, by decide +kernel⟩,
    engineOf0 { Engine.reset with active := some { pageCmd 0 1 with ptbase := 0 } } base, { pageCmd 0 1 with ptbase := 0 },
    ⟨by decide +kernel, by decide +kernel, by decide +kernel⟩, rfl, by decide +kernel⟩
  have h0 : vpnOf (pageCmd 0 1).src = 0 := by decide +kernel
  rw [h0]
  exact hc _ (walk_chain fullLeaf (by decide))

/-- A request for the page at frame 0x100 of core 0, for placement `op0`. -/
def moveRequest (op0 : Word) : Rpc := { request 9 0 0 (vaultLoc 0 0x1000000) op0 with op1 := 0x80000 }

def moveState (op0 : Word) (leaf : Nat) (f : Core → Core) : State :=
  ((walkState leaf).modAgent 0 (fun a => { a with requests := [moveRequest op0] })).modCore 0 f

def fullRedirects : List (Nat × Redirect) := (List.range 32).map (fun i => (i, { place := 0, frames := 1, vpn := i + 9, asid := 0 }))

/-- To another home; with a use in flight, a leaf that moves, a full table, the place it has, and TIER 3. -/
theorem witness_PageMoves_asked : ∀ e ∈ ([(2 ^ 27 + 5, fullLeaf, 0), (2 ^ 27 + 5, fullLeaf, 1), (2 ^ 27 + 5, fullLeaf + 2 ^ 60, 2), (2 ^ 27 + 5, fullLeaf, 3),
      (0x100, fullLeaf, 4), (3 * 2 ^ 61, fullLeaf, 5)] : List (Nat × Nat × Nat)),
    ∃ (s : State) (rq : Rpc) (w : Word), Inv s ∧ MoveAsked s 0 rq (vaultLoc 0 0x80000) w
      ∧ (e.2.2 = 1 → lookup (s.core 0).vault.inflight (rq.loc.off / 0x10000) = some 1)
      ∧ (e.2.2 ≠ 1 → lookup (s.core 0).vault.inflight (rq.loc.off / 0x10000) = none)
      ∧ (e.2.2 = 2 → bit w 60 = true) ∧ (e.2.2 = 3 → 32 ≤ (s.agent 0).redirects.length ∧ bit w 63 = true ∧ bit w 60 = false ∧ field w 27 16 = 0
        ∧ s.reaches 0 (field rq.op1 48 16) = true)
      ∧ (e.2.2 = 4 → Movable s 0 rq w ∧ SamePlace rq.op0 w) ∧ (e.2.2 = 5 → Movable s 0 rq w ∧ field rq.op0 61 2 = 3)
      ∧ (e.2.2 = 0 → Movable s 0 rq w ∧ field rq.op0 61 2 = 0 ∧ field rq.op0 0 27 < 0x3E00 ∧ s.reaches 0 (field rq.op0 27 16) = true
        ∧ ¬ SamePlace rq.op0 w) := by
  intro e he
  refine ⟨moveState (word e.1) e.2.1 (fun c => { c with
      vault := { c.vault with inflight := if e.2.2 = 1 then [(0x100, 1)] else [] }
      agent := { c.agent with redirects := if e.2.2 = 3 then fullRedirects else [] } }), moveRequest (word e.1), word e.2.1, ?_⟩
  simp only [List.mem_cons, List.not_mem_nil, or_false] at he
  rcases he with rfl | rfl | rfl | rfl | rfl | rfl <;>
  refine ⟨by show Memory.wf _; decide +kernel, ⟨by constructor <;> decide +kernel, by decide +kernel, by decide +kernel⟩, ?_, ?_, ?_, ?_, ?_, ?_, ?_⟩ <;>
  intro h <;>
  first
  | exact absurd h (by decide)
  | decide +kernel
  | exact ⟨⟨by decide +kernel, by decide +kernel, by decide +kernel⟩, by unfold SamePlace; decide +kernel⟩
  | exact ⟨⟨by decide +kernel, by decide +kernel, by decide +kernel⟩, by decide +kernel⟩
  | exact ⟨⟨by decide +kernel, by decide +kernel, by decide +kernel⟩, by decide +kernel, by decide +kernel, by decide +kernel,
      by unfold SamePlace; decide +kernel⟩

/-- A move of frame 0x100 to home 1, frame 5, after `rows` rows. -/
def someMove (rows : Nat) : Moving :=
  { rq := moveRequest (word (2 ^ 27 + 5)), frame := 0x100, frames := 1, leafHome := 0, leafOff := 0x80000, place := word (2 ^ 27 + 5), rows := rows, moved := rows }

def movingState (rows : Nat) : State := (walkState (fullLeaf + 2 ^ 60)).modAgent 0 (fun a => { a with moving := some (someMove rows) })

theorem witness_PageMoves_end : Inv (movingState 32) ∧ ((movingState 32).agent 0).moving = some (someMove 32) ∧ (someMove 32).frames = 1
    ∧ ((movingState 32).agent 0).held = [] ∧ (someMove 32).rq.engine = none ∧ (someMove 32).moved < 2 ^ 32 :=
  ⟨by show Memory.wf _; decide +kernel, by decide +kernel⟩

theorem witness_PageMoves_rows : ∀ n ∈ [0, 31], ∃ (a b : Loc), Inv (movingState n) ∧ (movingState n).movingTo 1 = some 0
    ∧ ((movingState n).agent 0).moving = some (someMove n) ∧ (someMove n).rq.loc.region = .vault ∧ field (someMove n).place 61 2 = 0
    ∧ (someMove n).frame < 2 ^ 14 ∧ a = vaultLoc (someMove n).rq.loc.home ((someMove n).frame * 0x10000 + (someMove n).rows * 0x800)
    ∧ b = vaultLoc (field (someMove n).place 27 16) (field (someMove n).place 0 27 * 0x10000 + (someMove n).rows * 0x800)
    ∧ (movingState n).meets true a = .nothing ∧ (movingState n).meets false b = .nothing ∧ (movingState n).unreadable a 0x800 = false
    ∧ ((movingState n).core a.home).vault.zero = [] ∧ ((movingState n).core b.home).vault.zero = [] ∧ (∀ p ∈ (movingState n).cores, p.2.redbuf = []) := by
  intro n hn
  simp only [List.mem_cons, List.not_mem_nil, or_false] at hn
  rcases hn with rfl | rfl <;> exact ⟨_, _, by show Memory.wf _; decide +kernel, by decide +kernel, rfl, rfl, by decide +kernel, by decide, rfl, rfl,
    by decide +kernel⟩

theorem witness_PageMoves_refused : ∃ (s : State) (rq : Rpc), Serves s 0 10 rq ∧ s.movingTo 0 = none ∧ rq.priv = true :=
  ⟨served (request 10 0 0 (vaultLoc 0 0x10000) 0), request 10 0 0 (vaultLoc 0 0x10000) 0, by constructor <;> decide +kernel, by decide +kernel, rfl⟩

/-- A notice for page 5 at a TLB that holds page 5 or page 6. -/
theorem witness_PageMoves_notice : ∀ v ∈ [5, 6], ∃ (s : State) (y : TlbEntry), s.msgs = [.redirect 0 5 1 0 (word (2 ^ 27 + 5))] ∧ (s.core 0).tlb = [y]
    ∧ y.sz = 0 ∧ y.vpn = v ∧ y.asid = 0 := by
  intro v hv
  exact ⟨{ base.modMe (fun c => { c with tlb := [{ vpn := v, sz := 0, asid := 0, leaf := word fullLeaf, home := 0, off := 0 }] }) with
      msgs := [.redirect 0 5 1 0 (word (2 ^ 27 + 5))] }, { vpn := v, sz := 0, asid := 0, leaf := word fullLeaf, home := 0, off := 0 }, rfl, rfl, rfl, rfl, rfl⟩

theorem witness_Shootdowns : (∀ n ∈ [0, 1], ∃ (s : State) (x : Partition), PageCmd s 0 (pageCmd 1 n) true ∧ (pageCmd 1 n).shot = false
      ∧ field (pageCmd 1 n).word 32 16 = n ∧ (s.engine 0).part = some 0 ∧ s.part 0 = some x ∧ ∀ b ∈ x.spec.bands, b < 64)
    ∧ (∀ b : Bool, ∃ (s : State) (c : Cmd) (x : Engine), PageCmd s 0 c true ∧ s.engines = [(0, x)] ∧ c.pending = [(0, b)] ∧ (s.core 0).redbuf = []
      ∧ (s.core 0).xfers = [] ∧ s.msgs = [] ∧ (s.agent 0).current = none ∧ (s.agent 0).moving = none ∧ (s.agent 0).mac = none
      ∧ (∀ q ∈ (s.agent 0).requests ++ (s.agent 0).held ++ (s.agent 0).resend.map (·.2), q.stale = false))
    ∧ ∃ (s : State) (c : Cmd) (x : Partition), PageCmd s 0 c true ∧ c.shot = true ∧ c.pending = [] ∧ s.colls = [] ∧ (s.engine 0).part = some 0 ∧ s.part 0 = some x := by
  refine ⟨?_, ?_, ⟨engineOf0 { Engine.reset with active := some { pageCmd 1 1 with shot := true } } base, { pageCmd 1 1 with shot := true }, placedPartition,
    ⟨by decide +kernel, by decide +kernel, by decide +kernel⟩, by decide +kernel⟩⟩
  · intro n hn
    refine ⟨engineOf0 { Engine.reset with active := some (pageCmd 1 n) } base, placedPartition, ?_⟩
    simp only [List.mem_cons, List.not_mem_nil, or_false] at hn
    rcases hn with rfl | rfl <;> exact ⟨⟨by decide +kernel, by decide +kernel, by decide +kernel⟩, by decide +kernel⟩
  · intro b
    refine ⟨engineOf0 { Engine.reset with active := some { pageCmd 1 1 with shot := true, pending := [(0, b)] } } base,
      { pageCmd 1 1 with shot := true, pending := [(0, b)] }, { Engine.reset with active := some { pageCmd 1 1 with shot := true, pending := [(0, b)] }, part := some 0 }, ?_⟩
    cases b <;> exact ⟨⟨by decide +kernel, by decide +kernel, by decide +kernel⟩, by decide +kernel⟩
/-! ### Issue, the vault's DRAM, throttling, power and bring-up -/

/-- All four slots of core 0 can issue; slot 2 has been passed over `n` times. -/
def fourReady (n : Nat) : State :=
  ((List.range 4).foldl (fun s n => s.modThAt (slotAt 0 n) (fun t => t.standing (sp 0x400))) base).modMe
    (fun c => { c with passed := c.passed.setIfInBounds 2 n, rrp := 1 })

theorem witness_ArbitrationPicks : Picked (fourReady 64) 0 2 ∧ Picked (fourReady 63) 0 1 ∧ ∃ s : State, ∀ n, n < 4 → ¬ Ready s 0 n := by
  refine ⟨?_, ?_, { base.modThAt (slotAt 0 0) (fun t => { t with occ := .empty }) with agenda := [] }, ?_⟩
  · unfold Picked Ready; decide +kernel
  · unfold Picked Ready; decide +kernel
  · unfold Ready; decide +kernel

/-- A vault with a burst, a waiting row, a marked row in bank 0, and as many repairs in bank 31 as given. -/
def dramState (n : Nat) (weak : Bool) : State :=
  base.modMe (fun c => { c with vault := { c.vault with
    burst := some { bank := 0, row := 9, weak := weak }, waiting := [3], marked := [5]
    repairs := (List.range n).map (fun i => (0x7C000 + i, i)) } })

theorem witness_DramEvents : Awake base 0 ∧ (vaultAt base 0).burst = none ∧ (vaultAt base 0).refreshing = [] ∧ (0x7FFFF / 0x4000 = 31)
    ∧ (vaultAt (dramState 0 true) 0).waiting ≠ [] ∧ (∀ b : Bool, (vaultAt (dramState 0 b) 0).burst = some { bank := 0, row := 9, weak := b })
    ∧ sparesIn (vaultAt (dramState 0 true) 0) (9 / 0x4000) < 64 ∧ (vaultAt (dramState 0 true) 0).exhausted 9 = false
    ∧ (∀ n ∈ [63, 64], 0x7FFFF ∉ (vaultAt (dramState n true) 0).marked ∧ (vaultAt (dramState n true) 0).exhausted 0x7FFFF = false
      ∧ sparesIn (vaultAt (dramState n true) 0) (0x7FFFF / 0x4000) = n)
    ∧ 5 ∈ (vaultAt (dramState 0 true) 0).marked := by
  refine ⟨⟨by decide +kernel, by decide +kernel⟩, by decide +kernel⟩

theorem witness_ThrottleEvents : (∀ lvl ∈ [1, 2], (vaultAt base 0).level ≠ lvl) ∧ (vaultAt (base.modMe (fun c => { c with
    vault := { c.vault with level := 2 } })) 0).level ≠ 0 := by decide +kernel

/-- Partition 0 with a tolerance and band 0 in a power state. -/
def powerState (tol power : Nat) (waking : Bool) : State :=
  { (base.modTh (fun t => { t with occ := .empty })).modBand 0 (fun z => { z with power := power, waking := waking }) with
    ltol := base.ltol.setIfInBounds 0 (word tol) }

/-- Tolerances at the wake times of the states 1 and 4, and below that of state 1. -/
theorem witness_PowerEvents : OnePart (powerState 50 0 false) 0 placedPartition 0
    ∧ (∀ e ∈ [(1, 50), (1, 4999), (2, 5000), (3, 200000), (4, 20000000)], wakeTime e.1 ≤ tolerance (powerState e.2 0 false) 0
      ∧ (e.1 < 4 → tolerance (powerState e.2 0 false) 0 < wakeTime (e.1 + 1)) ∧ ((powerState e.2 0 false).band 0).power < e.1
      ∧ ((powerState e.2 0 false).band 0).waking = false ∧ (powerState e.2 0 false).bandIdle 0 = true ∧ (powerState e.2 0 false).bandFlushed 0 = true
      ∧ (powerState e.2 0 false).dev * 64 = 0 ∧ placedPartition.spec.bands = [0])
    ∧ tolerance (powerState 0 0 false) 0 = 0 ∧ base.bandIdle 0 = false
    ∧ (∀ n ∈ [1, 2, 4], ((powerState 50 n true).band 0).power = n ∧ ((powerState 50 n true).band 0).waking = true
      ∧ (powerState 50 n true).dieHeld 0 = false ∧ (powerState 50 n true).partOf 0 = some 0) := by
  refine ⟨⟨⟨rfl, by decide +kernel⟩⟩, ?_, by decide +kernel, by decide +kernel, ?_⟩
  · intro e he
    simp only [List.mem_cons, List.not_mem_nil, or_false] at he
    rcases he with rfl | rfl | rfl | rfl | rfl <;> decide +kernel
  · intro n hn
    simp only [List.mem_cons, List.not_mem_nil, or_false] at hn
    rcases hn with rfl | rfl | rfl <;> decide +kernel

theorem witness_ThermalHolds : ∃ s : State, (s.dies.getD 0 .reset).held = some 0 ∧ 0 ≤ s.cycle.toNat ∧ s.cycle.toNat = 7
    ∧ (lookup s.bands 0).isSome = true ∧ (lookup s.cores 0).isSome = true :=
  ⟨{ base with dies := base.dies.setIfInBounds 0 { Die.reset with held := some 0 }, cycle := 7 }, by decide +kernel⟩

/-- Each step of the bring-up at its turn, and off it. -/
theorem witness_BringUpSteps : ∀ n : Nat, ∃ s : State, s.bringUp = n := fun n => ⟨{ base with bringUp := n }, rfl⟩

theorem witness_BringUpSteps_repair : sparesIn (vaultAt (dramState 62 false) 0) (0x7FFFF / 0x4000) < 63 := by decide +kernel

/-- The resources of partition 3: band 63, system core 1023, the last engine, queue and counter. -/
def someSpec : PartSpec :=
  { placedPartition.spec with
    id := 3, bands := [63], sys := 1023, engines := [95], queues := [(4095, 65535)], overflow := [(4095, 0x3DC00040)], pool := 1, poolOff := 0x3DFFFFE0, counterBase := 16383, counterCount := 1, faultK := 6,
    faultOff := 0x3E000000 - 0x800, mailbox := 0x3FFFFFF8 }

theorem witness_PartitionEvents_creation : ({ base with bringUp := 5 } : State).specOk someSpec = true
    ∧ (base.part 0).isSome = true ∧ 16 ≤ ({ someSpec with id := 16 } : PartSpec).id ∧ (∃ b ∈ [64], 64 ≤ b) ∧ ({ base with bringUp := 4 } : State).bringUp < 5 := by
  decide +kernel

/-- Band 0 goes with its system core and without it, while a task holds weight. -/
theorem witness_PartitionEvents_removal : ∃ (s : State) (x : Partition) (k : Task), s.part 0 = some x ∧ (∀ b ∈ x.spec.bands, b < 64)
    ∧ x.spec.sys / 16 % 64 ∈ [0] ∧ x.spec.sys / 16 % 64 ∉ [1] ∧ (s.thAt (slotAt 0 3)).task = some k ∧ 0 < k.weight :=
  ⟨slotTask id, placedPartition, someTask 1, rfl, by decide +kernel⟩

/-! ### Steps -/

/-- An `addi`-like word at the pc of the base state, and one that does not decode. -/
theorem witness_StepRunsDecoded : ∀ w ∈ [0x0040210E, 0], Runs (State.reset.withFetchWord 32 w).elapsed (0, .replicate 4 0)
    ∧ FetchesAt (State.reset.withFetchWord 32 w).elapsed (scratchLoc 0 0x310000)
    ∧ (State.reset.withFetchWord 32 w).elapsed.peek (scratchLoc 0 0x310000) 4 = w := by
  intro w hw
  simp only [List.mem_cons, List.not_mem_nil, or_false] at hw
  rcases hw with rfl | rfl <;>
  exact ⟨by constructor <;> decide +kernel, ⟨by decide +kernel, by decide +kernel, .inl ⟨by decide +kernel, by decide +kernel, .inl (by decide +kernel),
    by constructor <;> decide +kernel, by decide +kernel, by decide +kernel⟩⟩, by decide +kernel⟩

/-- The word `mvi 0x23, 5` in the instruction store of the agent of core 0. -/
theorem witness_StepRunsDecoded_agent : ∃ (s : State) (i : Instr), s = State.reset.withFetchWord 32 0x0151183D ∧ Runs s.elapsed (0, .replicate 4 0)
    ∧ FetchesAt s.elapsed { region := .agentCode, home := 0, off := 0 } ∧ s.elapsed.turn.slot = 4
    ∧ decodeNat (s.elapsed.peek { region := .agentCode, home := 0, off := 0 } 4) = .ok i ∧ agentRuns i = true :=
  ⟨_, .mvi { imm := 5, port := 0x23, reg := 0 }, rfl, by constructor <;> decide +kernel,
    ⟨by decide +kernel, by decide +kernel, .inr (by decide +kernel)⟩, by decide +kernel, by decide +kernel, by decide +kernel⟩

theorem witness_StepRunsDecoded_agenda : ∃ (s : State) (i : Instr), s.agenda = [i] ∧ hasWord i = false ∧ s.elapsed.inputWaits i = false :=
  ⟨{ State.reset with agenda := [.coreThrottleRaise 0] }, _, rfl, rfl, by decide +kernel⟩

theorem witness_RoundTrip : ∃ i : Instr, hasWord i = true ∧ WellFormed i = true ∧ decodeNat 0x0040210E = .ok i :=
  ⟨.paddi { d := 4, a := 4, imm := 64 }, by decide +kernel⟩

theorem witness_InvariantKept : Inv State.reset ∧ Inv base := ⟨by show Memory.wf _; decide +kernel, base_inv⟩

theorem witness_InvariantKept_step : ∃ t, step base = .next t := by
  have h : (match step base with | .next _ => true | _ => false) = true := by decide +kernel
  revert h
  cases step base with
  | next t => exact fun _ => ⟨t, rfl⟩
  | fault f => exact fun h => by cases h
  | refused r => exact fun h => by cases h

theorem witness_SeedRegister : (crForm 5).num = 0x005 ∧ base.th.val (crForm 5).a = 0 ∧ (withRegs [(5, .int 9)]).th.val (crForm 5).a ≠ 0 := by decide +kernel
/-! ### Single steps with results from the spec's text -/

/-- The thread after an instruction. -/
def ran (i : Instr) (s : State) : Thread :=
  match exec i s with
  | .next t => t.th
  | _ => Thread.reset 0

def aForm (d a b : Reg) : FmtA := { d := d, a := a, b := b, lk := 0 }

def fForm (d a b : Reg) (fmt : Fin 4) : FmtF := { d := d, a := a, b := b, fmt := fmt, lk := 0 }

/-- The example of R80. -/
theorem test_prank : ((ran (.prank (aForm 4 5 6)) (withRegs [(5, sp 0x18040), (6, .int 0x293)])).get 4) = { sb := 0xF2, v := 0x0293000000018040 } := by
  decide +kernel

/-- The sum of a pointer never carries into its space byte (R76, R178). -/
theorem test_paddi_wraps : (ran (.paddi { d := 4, a := 5, imm := 1 }) (withRegs [(5, { sb := 3, v := 0xFFFFFFFFFFFFFFFF })])).get 4 = { sb := 3, v := 0 } := by
  decide +kernel

/-- The example after R181. -/
theorem test_fcvtfi_i32 :
    let t := ran (.fcvtfi (fForm 4 5 2 0)) (withRegs [(5, .int 0xC270000000000000)])
    t.get 4 = .int 0xFFFFFFFF80000000 ∧ bit t.fpctl 12 = true := by decide +kernel

theorem test_fcvtif_bf16 :
    let t := ran (.fcvtif (fForm 4 5 1 2)) (withRegs [(5, .int 257)])
    t.get 4 = .int 0x4380 ∧ bit t.fpctl 8 = true := by decide +kernel

/-- The example after R180. -/
theorem test_fclass_subnormal : (ran (.fclass (fForm 4 5 0 1)) (withRegs [(5, .int 0x80000001)])).get 4 = .int 0x0C20 := by decide +kernel

/-- The two test values of R346. -/
theorem test_crc_zeros : crc32c 32 0 = 0x8A9136AA := by decide +kernel

theorem test_crc_ones : crc32c 32 (2 ^ 256 - 1) = 0x62A8AB43 := by decide +kernel

/-- The example after R187: every warning comes back, and all are clear. -/
theorem test_crxch_warn :
    let t := ran (.crxch { d := 24, a := 25, num := 0x002 }) ((withRegs [(25, .int 0x7F)]).modTh (fun t => { t with warn := 0x7F }))
    t.get 24 = .int 0x7F ∧ t.warn = 0 := by decide +kernel

/-- A write of 0 stores the generator's reset value (R57). -/
theorem test_srseed_zero : (ran (.crwr { d := 0, a := 0, num := 0x005 }) (base.modTh (fun t => { t with srseed := 9 }))).srseed = 0x5A17C0DE00000001 := by
  decide +kernel

/-- The example after R53: code 0x09A5 with scale 2.0. -/
theorem test_codebook_code : (List.range 8).map (fun e => codeWeight (resetCodebook.zipIdx.foldl (fun a x => a + x.1 * 2 ^ (32 * x.2)) 0) 0x09A5 e)
    = [.fin true 1 (-2), .fin false 1 (-2), .fin true 0 (-2), .fin false 0 (-2), .fin false 0 (-2), .fin true 0 (-2), .fin false 0 (-2), .fin true 0 (-2)] := by
  decide +kernel

theorem test_codebook_entries : resetCodebook.length = 256 ∧ resetCodebook.getD 0 9 = 0 ∧ resetCodebook.getD 8 0 = 0x10000000
    ∧ resetCodebook.getD 9 0 = 0x11 ∧ resetCodebook.getD 93 0 = 2 := by decide +kernel

/-- FP32 1 + 3 x 2^-10 under SR to BF16 (the example after R56): f = 0x60000000. -/
theorem test_stochastic_rounding : (bf16.convert 5 false (f32.value 0x3F806000) 0x5FFFFFFF).1 = 0x3F81
    ∧ (bf16.convert 5 false (f32.value 0x3F806000) 0x60000000).1 = 0x3F80 := by decide +kernel

/-- The elements of the example after R66, in the registers of the example after R212. -/
def quantState : State := base.modTh (fun t => { t with
  vregs := t.vregs.set 12 (BitVec.ofNat 4096 (0x3F800000 + 0xC0400000 * 2 ^ 32 + 0x43480000 * 2 ^ 64 + 0x3DCCCCCD * 2 ^ 96)) })

theorem test_vqnt_example :
    let t := ran (.vqnt { vd := 10, va := 12, vb := 0, et := 4, lk := 0 }) quantState
    t.vget 10 = BitVec.ofNat 4096 (0x257CCC40 + 0x7F7F7F7E * 2 ^ (8 * 480)) ∧ field t.fpctl 8 5 = 1 := by decide +kernel

theorem test_vdqnt_example :
    (ran (.vdqnt { vd := 14, va := 10, vb := 0, et := 4, lk := 0 }) (base.modTh (fun t => { t with
      vregs := t.vregs.set 10 (BitVec.ofNat 4096 (0x257CCC40 + 0x7F7F7F7E * 2 ^ (8 * 480))) }))).vget 14
    = BitVec.ofNat 4096 (0x3F800000 + 0xC0400000 * 2 ^ 32 + 0x43400000 * 2 ^ 64 + 0x3DD00000 * 2 ^ 96) := by decide +kernel

/-- The page number of the example after R330. -/
theorem test_vpn : vpnOf { sb := 0, v := 0x0000004000012345 } = 0x400001 := by decide +kernel

/-- A division by zero and the most negative number by -1 (R174). -/
theorem test_div_corners : (ran (.div (aForm 4 5 6)) (withRegs [(5, .int 7)])).get 4 = .int 0x7FFFFFFFFFFFFFFF
    ∧ (ran (.div (aForm 4 5 6)) (withRegs [(5, .int 0x8000000000000000), (6, .int 0xFFFFFFFFFFFFFFFF)])).get 4 = .int 0x7FFFFFFFFFFFFFFF := by
  decide +kernel

/-- A load sign-extends, and a doubleword at an odd place traps with its address (R182, R78). -/
theorem test_load_signed : (ran (.ld { d := 4, a := 5, size := 0, sx := true, off := 0 }) ((pointing (sp 0x1000)).poke (scratchLoc 0 0x1000) 1 0x80)).get 4
    = .int 0xFFFFFFFFFFFFFF80 := by decide +kernel

theorem test_load_misaligned :
    let t := ran (.ld { d := 4, a := 5, size := 3, sx := false, off := 1 }) (pointing (sp 0x1000))
    t.tval = 0x1001 ∧ t.get 4 = .zero ∧ t.mode = 1 ∧ bit t.thstat 5 = true := by decide +kernel

/-- A return clears INTRAP and restores the mode of the trapped code (R190, R303). -/
theorem test_tret_mode :
    let t := ran (.tret (aForm 0 0 0)) (base.modTh (fun t => { t with thstat := withField (withField t.thstat 5 1 1) 10 2 0, tepc := 0x400 }))
    t.mode = 0 ∧ bit t.thstat 5 = false ∧ t.pc.v = 0x400 := by decide +kernel
end Sys2Proof.Tests
end

section
/-!
The tensor table and stationary tiles (R223-R232).

A read of memory changes only what this file collects in `Core.marked`, so that what an access asks of its state (`Quiet`,
`PlainWrite`, `Placed`) still holds for the accesses that follow it in the same instruction.
-/

namespace Sys2Proof.Machine

open Claims

/-! ### What a read leaves -/

/-- The core `a`, with the message counts, corrected errors and served callers of `b`. -/
def Core.marked (a b : Core) : Core :=
  { a with
    msgD := b.msgD, msgB := b.msgB, log := b.log, weakScratch := b.weakScratch
    vault := { a.vault with weakGranules := b.vault.weakGranules, correctedReads := b.vault.correctedReads }
    agent := { a.agent with lastBand := b.agent.lastBand, callers := b.agent.callers } }

/-- A read changes no more of a core than its marks, and leaves no new caller or correctable error. -/
structure CoreRead (a b : Core) : Prop where
  same : b = a.marked b
  callers : a.agent.callers = [] → b.agent.callers = []
  granules : a.vault.weakGranules = [] → b.vault.weakGranules = []
  scratch : a.weakScratch = [] → b.weakScratch = []

theorem CoreRead.refl (a : Core) : CoreRead a a := ⟨rfl, id, id, id⟩

theorem CoreRead.trans {a b c : Core} (h : CoreRead a b) (k : CoreRead b c) : CoreRead a c :=
  { same := by rw [k.same, h.same]; rfl
    callers := k.callers ∘ h.callers
    granules := k.granules ∘ h.granules
    scratch := k.scratch ∘ h.scratch }

/-- What reads at a home leave: the cores keep all but their marks, and only the agent of that home has served a caller. -/
structure ReadLeaves (home : Nat) (s t : State) : Prop where
  rest : t = { s with cores := t.cores }
  core : ∀ r, CoreRead (s.core r) (t.core r)
  agent : ∀ r, r ≠ home → (t.core r).agent = (s.core r).agent
  reds : ∀ P : RedEntry → Prop, (∀ p ∈ s.cores, ∀ e ∈ p.2.redbuf, P e) → ∀ p ∈ t.cores, ∀ e ∈ p.2.redbuf, P e

namespace ReadLeaves

theorem refl (home : Nat) (s : State) : ReadLeaves home s s := ⟨rfl, fun _ => .refl _, fun _ _ => rfl, fun _ h => h⟩

theorem trans {home : Nat} {s t u : State} (h : ReadLeaves home s t) (k : ReadLeaves home t u) : ReadLeaves home s u :=
  { rest := by rw [k.rest, h.rest]
    core := fun r => (h.core r).trans (k.core r)
    agent := fun r hr => (k.agent r hr).trans (h.agent r hr)
    reds := fun P hP => k.reds P (h.reds P hP) }

theorem modCore {home : Nat} (s : State) (r : Nat) (f : Core → Core) (hf : CoreRead (s.core r) (f (s.core r)))
    (ha : r ≠ home → (f (s.core r)).agent = (s.core r).agent) : ReadLeaves home s (s.modCore r f) where
  rest := rfl
  core := fun q => by
    by_cases e : q = r
    · subst e; simpa using hf
    · rw [State.core_modCore_ne _ _ e]; exact .refl _
  agent := fun q hq => by
    by_cases e : q = r
    · subst e; simpa using ha hq
    · rw [State.core_modCore_ne _ _ e]
  reds := fun P hP => redbuf_modCore s r f (by rw [hf.same]; rfl) hP

variable {home : Nat} {s t : State}

theorem sent (r : Nat) (d : Word) : ReadLeaves home s (s.sent r d) :=
  modCore s r _ ⟨rfl, id, id, id⟩ (fun _ => rfl)

theorem received (r : Nat) (d : Word) : ReadLeaves home s (s.received r d) :=
  modCore s r _ ⟨rfl, id, id, id⟩ (fun _ => rfl)

theorem served (w : Turn) : ReadLeaves home s (s.served w home) :=
  modCore s home _ ⟨rfl, fun h => by simp [h], id, id⟩ (fun h => absurd rfl h)

theorem setTh_th : ReadLeaves home s (s.setTh s.th) := by
  have hset : (s.me.threads.set s.turn.slot s.th) = s.me.threads := by
    simp [State.th, State.thAt, State.me]
  refine modCore s s.turn.rank (fun c => { c with threads := c.threads.set s.turn.slot s.th }) ?_ (fun _ => rfl)
  show CoreRead s.me { s.me with threads := s.me.threads.set s.turn.slot s.th }
  rw [hset]
  exact .refl _

theorem corrected (l : Loc) (n : Nat) : ReadLeaves home s (s.corrected l n) := by
  unfold State.corrected
  split
  · dsimp only
    split
    · exact .refl _ _
    · exact modCore s _ _ ⟨rfl, id, fun h => by simp [h], id⟩ (fun _ => rfl)
  · dsimp only
    split
    · exact .refl _ _
    · exact modCore s _ _ ⟨rfl, id, id, fun h => by simp [h]⟩ (fun _ => rfl)
  · exact .refl _ _

/-- An access that arrives where nothing delays it (R95, R96). -/
theorem arrived {l : Loc} {n : Nat} (h : Quiet s l n) : ReadLeaves l.home s (s.arrived l n) := by
  unfold State.arrived
  by_cases hr : l.home = s.turn.rank
  · simp only [hr, ne_eq, not_true_eq_false, if_false, h.held, if_true]
    rw [recall_none _ _ _ h.reds]
    exact .refl _ _
  · have hv : ReadLeaves l.home s ((s.roundTrip l.home).served s.turn l.home) := by
      unfold State.roundTrip
      exact ((((sent _ _).trans (received _ _)).trans (sent _ _)).trans (received _ _)).trans (served _)
    have hheld : ((s.roundTrip l.home).served s.turn l.home).heldOrder = [] := h.held
    simp only [ne_eq, hr, not_false_eq_true, if_true, hheld]
    rw [recall_none _ _ _ (hv.reds _ h.reds)]
    exact hv

/-! What follows from it for the parts of the state that accesses ask of. -/

section
variable (h : ReadLeaves home s t)
include h

theorem turn : t.turn = s.turn := by rw [h.rest]
theorem mem : t.mem = s.mem := by rw [h.rest]
theorem heldOrder : t.heldOrder = s.heldOrder := by rw [h.rest]
theorem pairing : t.pairing = s.pairing := by rw [h.rest]; rfl

/-- Anything read of a core but its marks. -/
theorem field {α : Type} (g : Core → α) (hg : ∀ a b : Core, g (a.marked b) = g a) (r : Nat) : g (t.core r) = g (s.core r) := by
  rw [(h.core r).same, hg]

/-- The same for the issuing core. -/
theorem fieldMe {α : Type} (g : Core → α) (hg : ∀ a b : Core, g (a.marked b) = g a) : g t.me = g s.me := by
  unfold State.me; rw [h.turn, h.field g hg]

theorem thAt : t.thAt = s.thAt := funext fun w => by
  unfold State.thAt; rw [h.field Core.threads (fun _ _ => rfl)]

theorem th : t.th = s.th := by unfold State.th; rw [h.thAt, h.turn]

theorem peek : t.peek = s.peek := funext fun l => funext fun n => by unfold State.peek; rw [h.mem]

theorem look : t.look = s.look := funext fun l => funext fun n =>
  look_congr (by rw [h.pairing]) (h.field Core.mitten (fun _ _ => rfl) _) h.mem

theorem fixedAt : t.fixedAt = s.fixedAt := funext fun r => funext fun o => by
  simp only [State.fixedAt, Core.fixedOffset, h.pairing, h.field Core.ranges (fun _ _ => rfl)]

theorem fixedLoc : t.fixedLoc = s.fixedLoc := funext fun l => by simp only [State.fixedLoc, h.fixedAt]

theorem zeroMapped : t.zeroMapped = s.zeroMapped := funext fun l => by
  simp only [State.zeroMapped, h.field (fun c => c.vault.zero) (fun _ _ => rfl)]

theorem tierFails : t.tierFails = s.tierFails := by
  have hcheck : t.tierCheck = s.tierCheck := funext fun b => by simp only [State.tierCheck, h.mem]
  have hstored : t.tierChecks = s.tierChecks := by rw [h.rest]
  funext k n
  simp only [State.tierFails, hcheck, hstored]

theorem unreadable : t.unreadable = s.unreadable := by
  have htiers : t.tiers = s.tiers := by rw [h.rest]
  funext l n
  simp only [State.unreadable, h.zeroMapped, h.fixedAt, h.tierFails, htiers, h.field (fun c => c.vault.badGranules) (fun _ _ => rfl),
    h.field Core.badScratch (fun _ _ => rfl)]

theorem migrating : t.migrating = s.migrating := funext fun l => by
  simp only [State.migrating, h.field (fun c => c.agent.moving) (fun _ _ => rfl)]

theorem dieHeld : t.dieHeld = s.dieHeld := by rw [h.rest]; rfl

theorem band : t.band = s.band := by rw [h.rest]; rfl

theorem meets (a : Bool) (l : Loc) : t.meets a l = s.meets a l := by
  simp only [State.meets, h.zeroMapped, h.dieHeld, h.band, h.field (fun c => c.vault.marked) (fun _ _ => rfl),
    h.field (fun c => c.vault.refreshing) (fun _ _ => rfl), h.field (fun c => c.vault.locks) (fun _ _ => rfl),
    h.field (fun c => c.agent.locks) (fun _ _ => rfl), h.field (fun c => c.vault.burst) (fun _ _ => rfl)]

theorem homeReached (r : Nat) (l : Loc) : t.homeReached r l = s.homeReached r l := by rw [h.rest]; rfl

theorem domain : t.domain = s.domain := by simp only [State.domain, h.th]

theorem trafficHeld : t.trafficHeld = s.trafficHeld := funext fun r => funext fun d => by
  simp only [State.trafficHeld, h.field Core.sstep (fun _ _ => rfl)]

/-- Another home's turn comes to an implicit RPC as before; so does the home's own where nothing but it asks for its agent. -/
theorem callerWaits {r : Nat} (hr : r = home → (s.core r).agent.requests = [] ∧ (s.core r).agent.callers = []) {w : Turn}
    (hw : s.callerWaits w r = false) : t.callerWaits w r = false := by
  have hwaits : t.waitsAt = s.waitsAt := funext fun w => funext fun pc => by
    simp only [State.waitsAt, h.thAt, h.band, h.dieHeld]
  by_cases e : r = home
  · obtain ⟨hreq, hcall⟩ := hr e
    have hreq' : (t.core r).agent.requests = [] := (h.field (fun c => c.agent.requests) (fun _ _ => rfl) r).trans hreq
    have hcall' := (h.core r).callers hcall
    simp only [State.callerWaits, State.firstCaller, hreq, hcall, hreq', hcall', List.any_nil, List.foldl_nil, Bool.or_false,
      h.field (fun c => c.agent.current) (fun _ _ => rfl), h.field (fun c => c.agent.moving) (fun _ _ => rfl)] at hw ⊢
    exact hw
  · simpa only [State.callerWaits, State.firstCaller, h.agent r e, hwaits, h.trafficHeld, h.thAt] using hw

theorem quiet {l : Loc} {n : Nat} (hq : Quiet s l n)
    (hr : l.home = home → (s.core l.home).agent.requests = [] ∧ (s.core l.home).agent.callers = []) : Quiet t l n where
  still := by rw [h.migrating]; exact hq.still
  held := by rw [h.heldOrder]; exact hq.held
  remote := by
    rw [h.turn, h.homeReached, h.trafficHeld, h.domain]
    intro e
    obtain ⟨h1, h2, h3⟩ := hq.remote e
    exact ⟨h1, h2, h.callerWaits hr h3⟩
  meets := by rw [h.turn, h.meets]; exact hq.meets
  reds := h.reds _ hq.reds
  readable := by rw [h.unreadable]; exact hq.readable
  matched := by rw [h.look, h.peek]; exact hq.matched
  uninjected := by rw [h.th]; exact hq.uninjected

theorem readFirst (l : Loc) (n : Nat) : t.readFirst l n = s.readFirst l n := by
  simp only [State.readFirst, h.turn, h.fieldMe Core.mops (fun _ _ => rfl), h.fieldMe Core.queues (fun _ _ => rfl)]

theorem plainWrite {l : Loc} {n : Nat} (hw : PlainWrite s l n) : PlainWrite t l n where
  table := hw.table
  free := by rw [h.fixedLoc]; exact hw.free
  unread := by rw [h.readFirst]; exact hw.unread
  plain := by rw [h.th]; exact hw.plain
  mapped := by rw [h.field (fun c => c.vault.zero) (fun _ _ => rfl)]; exact hw.mapped

theorem redirected (p : Nat) (l : Loc) : t.redirected p l = s.redirected p l := by
  have key : ∀ n l, t.redirectedFrom p n l = s.redirectedFrom p n l := by
    intro n
    induction n with
    | zero => intro l; rfl
    | succ n ih =>
      intro l
      simp only [State.redirectedFrom, h.field (fun c => c.agent.redirects) (fun _ _ => rfl), ih]
  exact key _ _

theorem placed {ga : Ptr} {n : Nat} {acc : Access} {l : Loc} (hp : Placed s ga n acc l) : Placed t ga n acc l := by
  have hcore : t.isCore = s.isCore := by rw [h.rest]; rfl
  have hreach : t.reaches = s.reaches := by rw [h.rest]; rfl
  have hpart : t.partOf = s.partOf := by rw [h.rest]; rfl
  have hsup : t.supervisor = s.supervisor := by simp only [State.supervisor, h.turn, h.th]
  unfold Placed at hp ⊢
  rw [h.turn, hcore, hreach, hpart, hsup, h.fieldMe Core.ptbase (fun _ _ => rfl), h.fieldMe Core.asid (fun _ _ => rfl),
    h.fieldMe Core.utlb (fun _ _ => rfl), h.fieldMe (fun c => c.agent.tlb) (fun _ _ => rfl)]
  simpa only [h.redirected] using hp

end

/-- A read that is performed where nothing delays it. -/
theorem readNow {l : Loc} {n : Nat} (h : Quiet s l n) {ga : Ptr} {k : BitVec 4} {x : Nat}
    (hr : Machine.readNow ga l n k s = .ok x t) : ReadLeaves l.home s t := by
  have hv := arrived h
  have hun : bit (s.arrived l n).th.errinj 31 = false := by rw [hv.th]; exact h.uninjected
  have hre : (s.arrived l n).unreadable l n = false := by rw [hv.unreadable]; exact h.readable
  generalize hu : s.arrived l n = u at hv hun hre
  have hre' : (u.setTh u.th).unreadable l n = false := by
    rw [(setTh_th (home := l.home)).unreadable]; exact hre
  have hun' : bit (u.setTh u.th).th.errinj 31 = false := by rw [State.th_setTh]; exact hun
  by_cases ho : (decide (l.region = .vault) && decide (l.home = u.turn.rank)) = true
  · simp only [Machine.readNow, M.bind_apply, M.ite_apply, M.get_apply, M.pure_apply, upd_apply, hu, ho, if_true, injected_unarmed hun,
      injected_unarmed hun', State.th_setTh, State.setTh_setTh, hre', Bool.or_false, Bool.false_eq_true, if_false] at hr
    cases hr
    exact (hv.trans setTh_th).trans (corrected _ _)
  · simp only [Machine.readNow, M.bind_apply, M.ite_apply, M.get_apply, M.pure_apply, upd_apply, hu, ho, hre, Bool.or_false,
      Bool.false_eq_true, if_false] at hr
    cases hr
    exact hv.trans (corrected _ _)

end ReadLeaves

end Sys2Proof.Machine
end

section
namespace Sys2Proof.Claims

open Machine

theorem Keeps.withOutst {p : Footprint} {a b : Thread} (h : Keeps p a b) : Keeps { p with outst := true } a b :=
  { regs := h.regs, tokens := h.tokens, vregs := h.vregs, masks := h.masks, warn := h.warn, fpctl := h.fpctl, seed := h.seed,
    dirty := h.dirty, outst := fun e => by simp at e, stack := h.stack, mon := h.mon, waits := h.waits, rest := h.rest }

end Sys2Proof.Claims

namespace Sys2Proof.Machine

open Claims

/-! ### Loads and the entries of the tensor table (R223) -/

section
variable {s : State} {l : Loc} {n : Nat}

/-- A read that nothing delays, and what it leaves; without correctable errors at its own home, all but the thread. -/
theorem readAt_leaves (h : Quiet s l n) (ga : Ptr) (k : BitVec 4) : ∃ t, readAt ga l n k s = .ok (s.peek l n) t ∧ ReadLeaves l.home s t
    ∧ (l.home = s.turn.rank → (s.core l.home).vault.weakGranules = [] → (s.core l.home).weakScratch = [] → ∀ x, t.setTh x = s.setTh x) := by
  obtain ⟨t, hr, -, -, -, hown⟩ := readAt_quiet h ga k
  refine ⟨t, hr, ?_, hown⟩
  unfold readAt at hr
  rw [M.bind_ok _ (admitPiece_quiet h ga k true)] at hr
  exact ReadLeaves.readNow h hr

/-- The same for a load whose checks pass. -/
theorem loadData_leaves {ga : Ptr} {align : Nat} {acc : Access} (hp : Placed s ga n acc l) (ha : ga.v.toNat % align = 0) (h : Quiet s l n) :
    ∃ t, loadData ga n align acc s = .ok (s.peek l n) t ∧ ReadLeaves l.home s t
    ∧ (l.home = s.turn.rank → (s.core l.home).vault.weakGranules = [] → (s.core l.home).weakScratch = [] → ∀ x, t.setTh x = s.setTh x) := by
  obtain ⟨t, hr, hl⟩ := readAt_leaves h ga (BitVec.ofNat 4 (accessKind acc))
  refine ⟨t, ?_, hl⟩
  have hc := placed_notControl hp
  unfold loadData
  rw [M.bind_ok _ (resolve_placed hp ha)]
  cases hreg : l.region with
  | control => exact absurd hreg hc
  | _ => exact hr

theorem tableGa_aligned (tb : Word) (tid : Nat) : (tableGa tb tid).v.toNat % 64 = 0 := by
  simp only [tableGa, word, BitVec.toNat_ofNat]
  omega

theorem checkTid_ok {tid : Nat} (h : 0 < tid ∧ tid < s.th.tidlim.toNat) : checkTid tid s = .ok () s := by
  have hn : ¬ (tid = 0 ∨ s.th.tidlim.toNat ≤ tid) := by omega
  simp only [checkTid, M.bind_apply, thread_apply, if_neg hn, M.pure_apply]

/-- The entry of a tid is read, and what that leaves. -/
theorem snapshot_ok {tid : Nat} {d : BitVec 512} (h : Entry s tid l d) : ∃ t, snapshot tid s = .ok d t ∧ ReadLeaves l.home s t
    ∧ (l.home = s.turn.rank → s.me.weakScratch = [] → ∀ x, t.setTh x = s.setTh x) := by
  obtain ⟨t, hr, hl, hown⟩ := loadData_leaves h.placed (tableGa_aligned _ _) h.quiet
  refine ⟨t, ?_, hl, fun e hw => hown e h.steady (by rw [e]; exact hw)⟩
  have hd : BitVec.ofNat 512 (s.peek l 64) = d := by rw [h.bytes]; simp
  simp only [snapshot, M.bind_apply, checkTid_ok h.named, thread_apply, hr, M.pure_apply, hd]

theorem validSnapshot_ok {tid : Nat} {d : BitVec 512} (h : Entry s tid l d) (hv : bit d 0 = true) :
    ∃ t, validSnapshot tid s = .ok d t ∧ ReadLeaves l.home s t := by
  obtain ⟨t, hs, hl, -⟩ := snapshot_ok h
  exact ⟨t, by simp [validSnapshot, M.bind_apply, hs, descV, hv], hl⟩

theorem snapshot_badTid {tid : Nat} (h : tid = 0 ∨ s.th.tidlim.toNat ≤ tid) :
    snapshot tid s = .error (.trap { cause := .aperture, tval := word tid, kind := 0, out := false }) s := by
  simp only [snapshot, checkTid, M.bind_apply, thread_apply, if_pos h, raise_apply]

theorem tidOf_val (t : Thread) (r : Reg) : tidOf (t.val r) = tidIn t r := by
  simp [tidOf, field, tidIn]

theorem checkNoRange_none {tid : Nat} (h : s.me.rangeOf tid = none) : checkNoRange tid s = .ok () s := by
  simp [checkNoRange, M.bind_apply, h]

theorem checkNoRange_some {tid : Nat} (h : s.me.rangeOf tid ≠ none) :
    checkNoRange tid s = .error (.trap { cause := .statWr, tval := word tid, kind := 0, out := false }) s := by
  simp [checkNoRange, M.bind_apply, Option.isSome_iff_ne_none.2 h]

theorem ReadLeaves.rangeOf {home : Nat} {t : State} (h : ReadLeaves home s t) (tid : Nat) : t.me.rangeOf tid = s.me.rangeOf tid :=
  h.fieldMe (fun c => c.rangeOf tid) (fun _ _ => rfl)

end

/-! ### How an instruction of this group ends -/

/-- A trap at a state that differs from the first in the issuing thread's state alone. -/
theorem trap_entry_of_setTh {s t : State} (h : MayTrap s) {m : M Unit} {c : Cause} {v : Word} (htu : t.turn = s.turn) (hth : t.th = s.th)
    (ht : ∀ x, t.setTh x = s.setTh x) (hm : m s = .error (.trap { cause := c, tval := v, kind := 0, out := false }) t) :
    ∃ u, run m s = .next u ∧ TrapEntry {} s u c v 0 :=
  ⟨_, run_trap hm h.outst, takeTrap_entry h htu ht (by rw [hth]; exact Keeps.refl _ _) (by rw [hth]) c v 0 0 (.inl rfl)⟩

/-- What a long-latency instruction leaves of its thread, which is `x` when it is issued. -/
theorem issued_end {p : Footprint} {s t : State} {x : Thread} {lk : Fin 16} {dest : List Res} {w : OutWait} (hk : Keeps p s.th x)
    (hout : p.outst = false) (hpc : x.pc = s.th.pc) :
    Issued s ((t.setTh (x.issueWaiting lk dest w)).modTh Thread.next) lk dest
      ∧ Keeps { p with outst := true } s.th ((t.setTh (x.issueWaiting lk dest w)).modTh Thread.next).th
      ∧ ((t.setTh (x.issueWaiting lk dest w)).modTh Thread.next).th.pc = s.th.pc.add 4 := by
  rw [Issued, State.modTh_setTh, State.th_setTh, ← hk.outst hout, ← hpc]
  exact ⟨⟨_, rfl, rfl, rfl, rfl, rfl⟩, (hk.withOutst.trans (Keeps.issueWaiting rfl)).trans Keeps.next, rfl⟩

theorem stored_writeN {s t : State} {l : Loc} {n v : Nat} (hw : Inv s) (h : t.mem = Memory.writeN s.mem l.key n v) : Stored s t l n v :=
  ⟨by rw [State.peek, h, Memory.readN_writeN_self hw], fun k hk => by rw [State.byteAt, h, Memory.read_writeN_out _ _ hk]; rfl⟩

theorem untouched_of_mem {s t : State} (h : t.mem = s.mem) : Untouched s t := fun k => by rw [State.byteAt, h]; rfl

/-! ### tdef, tinv and tqry (R227, R228) -/

theorem field_low_clearBit_zero (d : BitVec 512) : field (clearBit d 0) 0 8 = d.toNat % 256 / 2 * 2 := by
  apply Nat.eq_of_testBit_eq
  intro i
  rw [field_testBit, bit_clearBit, show d.toNat % 256 / 2 * 2 = d.toNat % 2 ^ 8 / 2 ^ 1 * 2 ^ 1 by rfl, Nat.testBit_mul_two_pow,
    Nat.testBit_div_two_pow, Nat.testBit_mod_two_pow]
  cases i with
  | zero => simp
  | succ i => simp [bit, BitVec.getLsbD]

section
variable {s : State} {f : FmtX}

theorem execTdef_stores {ly lt : Loc} {d e : BitVec 512} (hinv : Inv s) (he : Entry s (tidIn s.th f.x) lt e)
    (hp : Placed s (s.th.get f.y) 64 .load ly) (ha : (s.th.get f.y).v.toNat % 64 = 0) (hq : Quiet s ly 64) (hd : s.peek ly 64 = d.toNat)
    (hn : s.me.rangeOf (tidIn s.th f.x) = none) (hr : descReason d = 0)
    (hps : Placed s (tableGa s.th.tidbase (tidIn s.th f.x)) 64 .store lt) (hw : PlainWrite s lt 64) :
    ∃ t, exec (.tdef f) s = .next t ∧ Stored s t lt 64 (setBit (d &&& descriptorFields) 0).toNat ∧ Issued s t f.lk []
      ∧ Keeps { outst := true, stack := true, mon := true } s.th t.th ∧ t.th.pc = s.th.pc.add 4 := by
  obtain ⟨t1, hs1, hl1, -⟩ := snapshot_ok he
  obtain ⟨t2, hs2, hl2, -⟩ := loadData_leaves (hl1.placed hp) ha (hl1.quiet hq fun e => e ▸ he.calm)
  rw [hl1.peek, hd] at hs2
  have hcalm : (t1.core lt.home).agent.requests = [] ∧ (t1.core lt.home).agent.callers = [] :=
    ⟨(hl1.field (fun c => c.agent.requests) (fun _ _ => rfl) _).trans he.calm.1, (hl1.core _).callers he.calm.2⟩
  have hquiet : Quiet t2 lt 64 := hl2.quiet (hl1.quiet he.quiet fun _ => he.calm) fun _ => hcalm
  obtain ⟨t3, hs3, hmem, -, hpc, hk⟩ := storeData_quiet (v := (setBit (d &&& descMask) 0).toNat) (hl2.placed (hl1.placed hps))
    (tableGa_aligned _ _) hquiet (hl2.plainWrite (hl1.plainWrite hw))
  rw [hl2.mem, hl1.mem] at hmem
  rw [hl2.th, hl1.th] at hpc hk
  have hrun : exec (.tdef f) s = .next ((t3.setTh (t3.th.issueWaiting f.lk [] .ready)).modTh Thread.next) := by
    refine run_ok (m := _) ?_
    simp only [M.bind_apply, M.ite_apply, thread_apply, tidOf_val, hs1, checkNoRange_none ((hl1.rangeOf _).trans hn), hs2, BitVec.ofNat_toNat,
      BitVec.setWidth_eq, hr, ne_eq, not_true_eq_false, if_false, hs3, updTh_apply]
    rfl
  exact ⟨_, hrun, stored_writeN hinv hmem, issued_end hk rfl hpc⟩

theorem execTdef_invalid {ly lt : Loc} {d e : BitVec 512} (h : MayTrap s) (he : Entry s (tidIn s.th f.x) lt e)
    (hp : Placed s (s.th.get f.y) 64 .load ly) (ha : (s.th.get f.y).v.toNat % 64 = 0) (hq : Quiet s ly 64)
    (hw : (s.core ly.home).vault.weakGranules = []) (hd : s.peek ly 64 = d.toNat) (hn : s.me.rangeOf (tidIn s.th f.x) = none)
    (hr : descReason d ≠ 0) (hs : s.me.weakScratch = []) (hly : ly.home = s.turn.rank) (hlt : lt.home = s.turn.rank) :
    ∃ t, exec (.tdef f) s = .next t ∧ TrapEntry {} s t .illegal (word (tidIn s.th f.x + descReason d * 0x100)) 0 := by
  obtain ⟨t1, hs1, hl1, hown1⟩ := snapshot_ok he
  obtain ⟨t2, hs2, hl2, hown2⟩ := loadData_leaves (hl1.placed hp) ha (hl1.quiet hq fun e => e ▸ he.calm)
  rw [hl1.peek, hd] at hs2
  have hset : ∀ x, t2.setTh x = s.setTh x := fun x =>
    (hown2 (hly.trans (congrArg Turn.rank hl1.turn.symm)) ((hl1.core _).granules hw) ((hl1.core _).scratch (by rw [hly]; exact hs)) x).trans
      (hown1 hlt hs x)
  refine trap_entry_of_setTh (m := _) h (hl2.turn.trans hl1.turn) (hl2.th.trans hl1.th) hset ?_
  simp only [M.bind_apply, M.ite_apply, thread_apply, tidOf_val, hs1, checkNoRange_none ((hl1.rangeOf _).trans hn), hs2, BitVec.ofNat_toNat,
    BitVec.setWidth_eq, hr, ne_eq, not_false_eq_true, if_true, raise_apply]

/-- A tid that is 0 or not below TIDLIM (R223). -/
theorem badTid_traps (h : MayTrap s) (ht : tidIn s.th f.x = 0 ∨ s.th.tidlim.toNat ≤ tidIn s.th f.x) :
    ∀ c ∈ ([.tdef, .tinv, .mstat, .munst] : List (FmtX → Instr)),
      ∃ t, exec (c f) s = .next t ∧ TrapEntry {} s t .aperture (word (tidIn s.th f.x)) 0 := by
  intro c hc
  simp only [List.mem_cons, List.not_mem_nil, or_false] at hc
  have hs := snapshot_badTid (s := s) ht
  rcases hc with rfl | rfl | rfl | rfl
  all_goals
    refine trap_entry (m := _) (k := 0) h ?_
    simp only [validSnapshot, M.bind_apply, thread_apply, tidOf_val, hs]

/-- A tid with a stationary range (R227). -/
theorem rangedTid_traps {l : Loc} {d : BitVec 512} (h : MayTrap s) (he : Entry s (tidIn s.th f.x) l d) (hl : l.home = s.turn.rank)
    (hs : s.me.weakScratch = []) (hr : s.me.rangeOf (tidIn s.th f.x) ≠ none) :
    ∀ c ∈ ([.tdef, .tinv] : List (FmtX → Instr)), ∃ t, exec (c f) s = .next t ∧ TrapEntry {} s t .statWr (word (tidIn s.th f.x)) 0 := by
  intro c hc
  simp only [List.mem_cons, List.not_mem_nil, or_false] at hc
  obtain ⟨t1, hs1, hl1, hown⟩ := snapshot_ok he
  have hr1 := checkNoRange_some (s := t1) (by rw [hl1.rangeOf]; exact hr)
  rcases hc with rfl | rfl
  all_goals
    refine trap_entry_of_setTh (m := _) h hl1.turn hl1.th (hown hl hs) ?_
    simp only [M.bind_apply, thread_apply, tidOf_val, hs1, hr1]

theorem execTinv_stores {l : Loc} {d : BitVec 512} (hinv : Inv s) (he : Entry s (tidIn s.th f.x) l d)
    (hn : s.me.rangeOf (tidIn s.th f.x) = none) (hps : Placed s (tableGa s.th.tidbase (tidIn s.th f.x)) 1 .store l) (hq : Quiet s l 1)
    (hw : PlainWrite s l 1) :
    ∃ t, exec (.tinv f) s = .next t ∧ Stored s t l 1 (d.toNat % 256 / 2 * 2) ∧ Issued s t f.lk []
      ∧ Keeps { outst := true, stack := true, mon := true } s.th t.th ∧ t.th.pc = s.th.pc.add 4 := by
  obtain ⟨t1, hs1, hl1, -⟩ := snapshot_ok he
  obtain ⟨t2, hs2, hmem, -, hpc, hk⟩ := storeData_quiet (v := d.toNat % 256 / 2 * 2) (hl1.placed hps) (Nat.mod_one _)
    (hl1.quiet hq fun _ => he.calm) (hl1.plainWrite hw)
  rw [hl1.mem] at hmem
  rw [hl1.th] at hpc hk
  have hrun : exec (.tinv f) s = .next ((t2.setTh (t2.th.issueWaiting f.lk [] .ready)).modTh Thread.next) := by
    refine run_ok (m := _) ?_
    simp only [M.bind_apply, thread_apply, tidOf_val, hs1, checkNoRange_none ((hl1.rangeOf _).trans hn), field_low_clearBit_zero, hs2, updTh_apply]
    rfl
  exact ⟨_, hrun, stored_writeN hinv hmem, issued_end hk rfl hpc⟩

theorem execTqry_reads {l : Loc} {d : BitVec 512} (he : Entry s (tidIn s.th f.y) l d) (hz : f.z.val ≤ 8) :
    ∃ t, exec (.tqry f) s = .next t ∧ Untouched s t ∧ Issued s t f.lk [.s f.x]
      ∧ Keeps { regs := [f.x], outst := true } s.th t.th ∧ t.th.pc = s.th.pc.add 4
      ∧ t.th.get f.x = held f.x (.int (if f.z.val < 8 then word (d.toNat / 2 ^ (64 * f.z.val))
          else match s.me.rangeOf (tidIn s.th f.y) with
            | some g => word (g.p0 + g.count * 0x10000)
            | none => 0)) := by
  obtain ⟨t1, hs1, hl1, -⟩ := snapshot_ok he
  generalize hv : word (if f.z.val < 8 then Machine.field d (64 * f.z.val) 64
    else match s.me.rangeOf (tidIn s.th f.y) with
      | some g => g.p0 + g.count * 0x10000
      | none => 0) = v
  have hrun : exec (.tqry f) s = .next ((t1.setTh ((s.th.putInt f.x v).issueWaiting f.lk [.s f.x] .ready)).modTh Thread.next) := by
    refine run_ok (m := _) ?_
    simp only [M.bind_apply, M.ite_apply, thread_apply, myCore_apply, tidOf_val, hs1, hl1.rangeOf, show ¬ 8 < f.z.val by omega, if_false,
      updTh_apply, State.modTh_eq, hl1.th, ← hv]
    rfl
  obtain ⟨hi, hk, hpc⟩ := issued_end (s := s) (t := t1) (lk := f.lk) (dest := [.s f.x]) (w := .ready)
    (Keeps.putInt (p := { regs := [f.x] }) (t := s.th) (x := v) (List.mem_singleton_self _)) rfl (by simp)
  refine ⟨_, hrun, untouched_of_mem hl1.mem, hi, hk, hpc, ?_⟩
  rw [State.modTh_setTh, State.th_setTh]
  show (s.th.putInt f.x v).get f.x = _
  rw [Thread.get_putInt, ← hv]
  congr 2
  split
  · simp [word, Machine.field, ← BitVec.toNat_inj]
  · cases s.me.rangeOf (tidIn s.th f.y) <;> rfl

end

end Sys2Proof.Machine
end

section
namespace Sys2Proof.Machine

open Claims

/-! ### Deferred reductions, weight sums and the issuing core -/

section
variable {s t : State}

theorem recall_noReds (h : NoReds s) (l : Loc) (n : Nat) : s.recall l n = s :=
  recall_none s l n fun p hp e he => by rw [h p hp] at he; exact absurd he List.not_mem_nil

theorem recallAll_noReds (h : NoReds s) (l : List (Loc × Nat)) : s.recallAll l = s := by
  unfold State.recallAll
  induction l with
  | nil => rfl
  | cons x l ih =>
    rw [List.foldl_cons, recall_noReds h, ite_self]
    exact ih

theorem noReds_iff : NoReds s ↔ ∀ p ∈ s.cores, ∀ e ∈ p.2.redbuf, False := by
  simp only [NoReds, List.eq_nil_iff_forall_not_mem]

theorem ReadLeaves.noReds {home : Nat} (h : ReadLeaves home s t) (hr : NoReds s) : NoReds t :=
  noReds_iff.2 (h.reds _ (noReds_iff.1 hr))

theorem noReds_modCore (hr : NoReds s) (r : Nat) (f : Core → Core) (hf : (f (s.core r)).redbuf = (s.core r).redbuf) :
    NoReds (s.modCore r f) :=
  noReds_iff.2 (redbuf_modCore s r f hf (noReds_iff.1 hr))

theorem State.me_setTh (s : State) (x : Thread) : (s.setTh x).me = { s.me with threads := s.me.threads.set s.turn.slot x } :=
  State.core_setThAt s s.turn x

@[simp] theorem State.me_modMe (s : State) (f : Core → Core) : (s.modMe f).me = f s.me := State.core_modCore s s.turn.rank f

theorem badTileScale_congr (h : t.look = s.look) : t.badTileScale = s.badTileScale := by
  funext r d p0 p
  simp only [State.badTileScale, State.record, h]

theorem tileWsums_congr (hl : t.look = s.look) (hp : t.peek = s.peek) : t.tileWsums = s.tileWsums := by
  funext r d p0 p
  simp only [State.tileWsums, State.record, State.book, hl, hp]

/-- The weight sums of two tiles under one key are those of one tile. -/
theorem tileWsums_functional {r : Nat} {d : Desc} {p0 p p' : Nat} {x y : Nat × List Word} (hx : x ∈ s.tileWsums r d p0 p)
    (hy : y ∈ s.tileWsums r d p0 p') (he : y.1 = x.1) : y.2 = x.2 := by
  simp only [State.tileWsums, List.mem_map, List.mem_range] at hx hy
  obtain ⟨q, hq, rfl⟩ := hx
  obtain ⟨q', hq', rfl⟩ := hy
  have h4 : quarters d ≤ 4 := by unfold quarters; split <;> decide
  dsimp only at he
  obtain ⟨rfl, rfl⟩ : p' = p ∧ q' = q := by omega
  rfl

/-- Weight sums that do not contradict each other are all found after they have been stored. -/
theorem lookup_putWsums {l new : List (Nat × List Word)} {k : Nat} {v : List Word} (hx : lookup l k = some v ∨ (k, v) ∈ new)
    (hf : ∀ y ∈ new, y.1 = k → y.2 = v) : lookup (putWsums l new) k = some v := by
  induction new generalizing l with
  | nil => simpa [putWsums] using hx
  | cons y r ih =>
    refine ih (l := insert l y.1 y.2) ?_ fun z hz => hf z (List.mem_cons_of_mem _ hz)
    by_cases e : y.1 = k
    · left; rw [e, lookup_insert_self, hf y List.mem_cons_self e]
    · rw [lookup_insert_ne _ _ (Ne.symm e)]
      refine hx.imp id fun h => (List.mem_cons.1 h).resolve_left fun e' => e (by rw [← e'])

end

/-! ### mstat and munst (R229, R230) -/

/-- The issuing core with one more stationary range and the weight sums of its tiles. -/
def State.withRange (s : State) (g : StatRange) (d : Desc) : State :=
  s.modMe (fun c => { c with
    ranges := c.ranges ++ [g]
    wsum := putWsums c.wsum ((List.range g.count).map (fun k => s.tileWsums s.turn.rank d g.p0 (g.p0 + k))).flatten })

/-- The issuing core without the range of a tid, which is `g`. -/
def State.withoutRange (s : State) (tid : Nat) (g : StatRange) : State :=
  s.modMe (fun c => { c with
    ranges := c.ranges.filter (fun h => decide (h.tid ≠ tid))
    wsum := c.wsum.filter (fun p => decide (p.1 / 4 < g.p0) || decide (g.p0 + g.count ≤ p.1 / 4)) })

section
variable {s : State} {f : FmtX} {l : Loc} {d : BitVec 512}

theorem withRange_wsum {g : StatRange} {p : Nat} (h : g.p0 ≤ p ∧ p < g.p0 + g.count) :
    ∀ x ∈ s.tileWsums s.turn.rank d g.p0 p, lookup (s.withRange g d).me.wsum x.1 = some x.2 := by
  intro x hx
  rw [State.withRange, State.me_modMe]
  apply lookup_putWsums
  · right
    exact List.mem_flatten.2 ⟨_, List.mem_map.2 ⟨p - g.p0, List.mem_range.2 (by omega), rfl⟩,
      by rw [show g.p0 + (p - g.p0) = p by omega]; exact hx⟩
  · intro y hy
    obtain ⟨_, hm, hy⟩ := List.mem_flatten.1 hy
    obtain ⟨k, -, rfl⟩ := List.mem_map.1 hm
    exact tileWsums_functional hx hy

theorem withRange_th (g : StatRange) : (s.withRange g d).th = s.th := th_modCore _ _ _ fun _ => rfl

theorem execMstat_fixes {p0 n : Nat} (hr : NoReds s) (he : Entry s (tidIn s.th f.x) l d) (hv : bit d 0 = true)
    (hy : s.th.get f.y = { sb := 0xF0, v := word (p0 * 0x800) }) (hn : n = (s.th.val f.z).toNat) (hpos : 0 < n) (hend : p0 + n ≤ 1536)
    (hfree : ∀ p, p0 ≤ p → p < p0 + n → s.fixedAt s.turn.rank (p * 0x800) = false) (hnone : s.me.rangeOf (tidIn s.th f.x) = none)
    (hscale : ∀ p, p0 ≤ p → p < p0 + n → s.badTileScale s.turn.rank d p0 p = none) :
    ∃ t, exec (.mstat f) s = .next t
      ∧ t.me.ranges = s.me.ranges ++ [{ tid := tidIn s.th f.x, p0 := p0, count := n, dom := s.th.domid }]
      ∧ (∀ p, p0 ≤ p → p < p0 + n → ∀ x ∈ s.tileWsums s.turn.rank d p0 p, lookup t.me.wsum x.1 = some x.2)
      ∧ Untouched s t ∧ Issued s t f.lk [] ∧ Keeps { outst := true } s.th t.th ∧ t.th.pc = s.th.pc.add 4 := by
  obtain ⟨t1, hs1, hl1⟩ := validSnapshot_ok he hv
  have hga : (word (p0 * 0x800)).toNat = p0 * 0x800 := by simp only [word, BitVec.toNat_ofNat]; omega
  have hdiv : p0 * 0x800 / 0x800 = p0 := Nat.mul_div_cancel _ (by decide)
  have hstart : ¬ (n = 0 ∨ 1536 ≤ p0) := by omega
  have hfind : (List.range n).find? (fun k => t1.me.fixedOffset (t1.pairing t1.turn.rank) ((p0 + k) * 0x800)) = none := by
    rw [List.find?_eq_none]
    intro k hk
    have hk := hfree (p0 + k) (by omega) (by have := List.mem_range.1 hk; omega)
    rw [← hl1.fixedAt, ← hl1.turn, State.fixedAt, Bool.or_eq_false_iff] at hk
    simpa [State.me] using hk.1
  have hsc : (List.range n).findSome? (fun k => t1.badTileScale t1.turn.rank d p0 (p0 + k)) = none := by
    rw [List.findSome?_eq_none_iff]
    intro k hk
    rw [badTileScale_congr hl1.look, hl1.turn]
    exact hscale _ (by omega) (by have := List.mem_range.1 hk; omega)
  let g : StatRange := { tid := tidIn s.th f.x, p0 := p0, count := n, dom := s.th.domid }
  have hrun : exec (.mstat f) s =
      .next (((t1.withRange g d).setTh ((t1.withRange g d).th.issueWaiting f.lk [] .ready)).modTh Thread.next) := by
    refine run_ok (m := _) ?_
    simp only [M.bind_apply, M.ite_apply, M.get_apply, thread_apply, upd_apply, updTh_apply, tidOf_val, hs1, hy, hga, ← hn,
      recallAll_noReds (hl1.noReds hr), Nat.mul_mod_left, hdiv, hstart, Nat.not_lt.2 hend, ne_eq, not_true_eq_false, if_false, hfind, hsc,
      hl1.rangeOf, hnone, Option.isSome_none, Bool.false_eq_true]
    rfl
  have hth : (t1.withRange g d).th = s.th := (withRange_th g).trans hl1.th
  refine ⟨_, hrun, ?_, ?_, untouched_of_mem hl1.mem, issued_end (p := {}) (by rw [hth]; exact Keeps.refl _ _) rfl (by rw [hth])⟩
  · rw [State.modTh_setTh, State.me_setTh, State.withRange, State.me_modMe, hl1.fieldMe Core.ranges (fun _ _ => rfl)]
  · intro p h1 h2 x hx
    rw [State.modTh_setTh, State.me_setTh]
    rw [← hl1.turn, ← tileWsums_congr hl1.look hl1.peek] at hx
    exact withRange_wsum (g := g) ⟨h1, h2⟩ x hx

theorem withoutRange_th (tid : Nat) (g : StatRange) : (s.withoutRange tid g).th = s.th := th_modCore _ _ _ fun _ => rfl

theorem execMunst_frees {g : StatRange} (he : Entry s (tidIn s.th f.x) l d) (hg : s.me.rangeOf (tidIn s.th f.x) = some g)
    (hm : s.me.mops = []) :
    ∃ t, exec (.munst f) s = .next t ∧ t.me.rangeOf (tidIn s.th f.x) = none ∧ (∀ k, k ≠ tidIn s.th f.x → t.me.rangeOf k = s.me.rangeOf k)
      ∧ Untouched s t ∧ Issued s t f.lk [] ∧ Keeps { outst := true } s.th t.th ∧ t.th.pc = s.th.pc.add 4 := by
  obtain ⟨t1, hs1, hl1, -⟩ := snapshot_ok he
  have hbusy : t1.me.rangeBusy g = false := by
    rw [Core.rangeBusy, hl1.fieldMe Core.mops (fun _ _ => rfl), hm, List.any_nil]
  have hrun : exec (.munst f) s =
      .next (((t1.withoutRange (tidIn s.th f.x) g).setTh ((t1.withoutRange (tidIn s.th f.x) g).th.issueWaiting f.lk [] .ready)).modTh
        Thread.next) := by
    refine run_ok (m := _) ?_
    simp only [M.bind_apply, M.ite_apply, thread_apply, myCore_apply, upd_apply, updTh_apply, tidOf_val, hs1, hl1.rangeOf, hg, hbusy,
      Bool.false_eq_true, if_false]
    rfl
  have hth : (t1.withoutRange (tidIn s.th f.x) g).th = s.th := (withoutRange_th _ g).trans hl1.th
  have hrange : ∀ k, ((t1.withoutRange (tidIn s.th f.x) g).setTh
      ((t1.withoutRange (tidIn s.th f.x) g).th.issueWaiting f.lk [] .ready).next).me.rangeOf k
      = (s.me.ranges.filter (fun h => decide (h.tid ≠ tidIn s.th f.x))).find? (fun h => decide (h.tid = k)) := fun k => by
    rw [State.me_setTh, State.withoutRange, State.me_modMe]
    show (t1.me.ranges.filter _).find? _ = _
    rw [hl1.fieldMe Core.ranges (fun _ _ => rfl)]
  refine ⟨_, hrun, ?_, fun k hk => ?_, untouched_of_mem hl1.mem, issued_end (p := {}) (by rw [hth]; exact Keeps.refl _ _) rfl (by rw [hth])⟩
  · rw [State.modTh_setTh, hrange, List.find?_eq_none]
    intro x hx
    simpa using (List.mem_filter.1 hx).2
  · rw [State.modTh_setTh, hrange, List.find?_filter]
    unfold Core.rangeOf
    congr 1
    funext x
    by_cases e : x.tid = k <;> simp [e, hk]

theorem execMunst_unranged (h : MayTrap s) (he : Entry s (tidIn s.th f.x) l d) (hl : l.home = s.turn.rank) (hs : s.me.weakScratch = [])
    (hn : s.me.rangeOf (tidIn s.th f.x) = none) :
    ∃ t, exec (.munst f) s = .next t ∧ TrapEntry {} s t .aperture (word (tidIn s.th f.x)) 0 := by
  obtain ⟨t1, hs1, hl1, hown⟩ := snapshot_ok he
  refine trap_entry_of_setTh (m := _) h hl1.turn hl1.th (hown hl hs) ?_
  simp only [M.bind_apply, thread_apply, myCore_apply, tidOf_val, hs1, hl1.rangeOf, hn, raise_apply]

end

end Sys2Proof.Machine
end

section
namespace Sys2Proof.Machine

open Claims

/-! ### Tiles of the scratchpad -/

section
variable {s : State} {f : FmtX} {l : Loc} {d : BitVec 512}

/-- A store to a scratchpad, on whosever behalf: its bytes change, and the monitors it wakes (R100, R275). -/
theorem store_scratch (s : State) (b : Behalf) (r o n v : Nat) : (s.store b (scratchLoc r o) n v).mem = Memory.writeN s.mem (scratchLoc r o).key n v
    ∧ (s.store b (scratchLoc r o) n v).turn = s.turn ∧ Woken s.th (s.store b (scratchLoc r o) n v).th :=
  store_plain s noBehalf (scratchLoc r o) n v rfl (fun e => nomatch e)

/-- Of the cores it changes no more than uncorrectable errors and what monitors of threads have met. -/
theorem store_scratch_field {α : Type} (g : Core → α) (hg : ∀ c bad th, g { c with badScratch := bad, threads := th } = g c)
    (s : State) (b : Behalf) (r o n v q : Nat) : g ((s.store b (scratchLoc r o) n v).core q) = g (s.core q) := by
  obtain ⟨k, -, hcore⟩ := core_wake ((s.modCore r (fun c => { c with
    badScratch := c.badScratch.filter (fun u => decide (u * 8 < o) || decide (o + n < u * 8 + 8)) })).poke (scratchLoc r o) n v) (scratchLoc r o) n q
  refine (congrArg g hcore).trans ((hg _ _ _).trans ?_)
  rw [show ∀ (t : State) (l : Loc), (t.poke l n v).core q = t.core q from fun _ _ => rfl]
  by_cases e : q = r
  · subst e
    rw [State.core_modCore]
    exact hg _ _ (s.core q).threads
  · rw [State.core_modCore_ne _ _ e]

theorem write_scratch (s : State) (b : Behalf) (r o n v : Nat) : s.write b (scratchLoc r o) n v = s.store b (scratchLoc r o) n v := rfl

theorem scratchGa_ok {ga : Ptr} {k : BitVec 4} (h : TileGa s ga l) : scratchGa ga 0x800 0x800 k s = .ok ga.v.toNat s := by
  obtain ⟨⟨hsb, hal, hend⟩, -, -⟩ := h
  simp only [scratchGa, hsb, hal, Nat.not_lt.2 hend, ne_eq, not_true_eq_false, if_false, M.pure_apply]

theorem namedTile_ok {tid p q : Nat} {sp : Word} (h : TileNamed s.me d tid sp p q) : ∃ x, namedTile tid d sp s = .ok (x, p, q) s := by
  obtain ⟨g, x, hg, hx, hlt, rfl, rfl⟩ := h
  refine ⟨x, ?_⟩
  have ht : s.me.tileAt d tid sp = some (x, g.p0 + x / quarters d, x % quarters d) := by
    simp only [Core.tileAt, hg, descNblk, ← hx, hlt, if_true]
  simp only [namedTile, M.bind_apply, myCore_apply, ht, M.pure_apply]

theorem ReadLeaves.tileNamed {home : Nat} {t : State} (h : ReadLeaves home s t) {tid p q : Nat} {sp : Word}
    (hn : TileNamed s.me d tid sp p q) : TileNamed t.me d tid sp p q := by
  obtain ⟨g, x, hg, hrest⟩ := hn
  exact ⟨g, x, (h.rangeOf tid).trans hg, hrest⟩

theorem ReadLeaves.tileGa {home : Nat} {t : State} (h : ReadLeaves home s t)
    (hc : l.home = home → (s.core l.home).agent.requests = [] ∧ (s.core l.home).agent.callers = []) {ga : Ptr} (hg : TileGa s ga l) :
    TileGa t ga l :=
  ⟨hg.spot, by rw [h.turn]; exact hg.place, h.quiet hg.quiet hc⟩

/-- A tile position lies below the pair buffer: it reads as it is stored. -/
theorem look_position (s : State) {r p : Nat} (hp : p < 1536) :
    s.look (scratchLoc r (p * 0x800)) 0x800 = s.peek (scratchLoc r (p * 0x800)) 0x800 := by
  unfold State.look
  rw [if_neg]
  rintro ⟨-, h, -⟩
  simp only [scratchLoc] at h
  omega

/-- What the thread stores in its own scratchpad is written at once. -/
theorem writeAt_scratch {ga : Ptr} {n v : Nat} {k : BitVec 4} (hsb : ga.sb = 0xF0) (hq : Quiet s (scratchLoc s.turn.rank ga.v.toNat) n)
    (hw : PlainWrite s (scratchLoc s.turn.rank ga.v.toNat) n) :
    writeAt ga (scratchLoc s.turn.rank ga.v.toNat) n v k s = .ok () ((s.store s.behalf (scratchLoc s.turn.rank ga.v.toNat) n v).setTh
      (s.store s.behalf (scratchLoc s.turn.rank ga.v.toNat) n v).th) := by
  have harr : s.arrived (scratchLoc s.turn.rank ga.v.toNat) n = s := (arrived_quiet hq).own rfl
  have hmark : (fun t : Thread => t.markStack ga) = id := by
    funext t
    simp [Thread.markStack, hsb]
  unfold writeAt
  rw [M.bind_ok _ (admitWrite_quiet hq hw ga k)]
  simp only [writeNow, M.bind_apply, upd_apply, updTh_apply, harr, hmark, write_scratch, State.modTh_eq, id]

/-- Reserved bits of sPos warn, and a store that wakes the thread's monitor shows in it. -/
theorem Woken.warned {a b : Thread} (h : Woken a b) (w : Bool) :
    Keeps { warn := [.fmt], mon := true } a (b.warnIf .fmt w) ∧ (b.warnIf .fmt w).pc = a.pc := by
  refine ⟨(Keeps.woken rfl h).trans (Keeps.warnIf (List.mem_singleton_self _)), ?_⟩
  obtain ⟨hit, m, rfl, -⟩ := h
  exact Thread.warnIf_pc _ _ _

theorem execMrd_stores {p q : Nat} {lz : Loc} (hinv : Inv s) (he : Entry s (tidIn s.th f.x) l d) (hv : bit d 0 = true)
    (hn : TileNamed s.me d (tidIn s.th f.x) (s.th.val f.y) p q) (hp : p < 1536) (hm : s.me.mops = []) (hfl : nbit f.fl.val 0 = true)
    (hz : TileGa s (s.th.get f.z) lz) (hw : PlainWrite s lz 0x800) :
    ∃ t, exec (.mrd f) s = .next t ∧ Stored s t lz 0x800 (s.peek (positionLoc s p) 0x800)
      ∧ Keeps { warn := [.fmt], outst := true, mon := true } s.th t.th ∧ t.th.pc = s.th.pc.add 4 ∧ Issued s t f.lk [] := by
  obtain ⟨t1, hs1, hl1⟩ := validSnapshot_ok he hv
  obtain ⟨x, hx⟩ := namedTile_ok (hl1.tileNamed hn)
  have hz1 := hl1.tileGa (fun e => e ▸ he.calm) hz
  have hga := scratchGa_ok (k := 2) hz1
  have hw1 := hl1.plainWrite hw
  have htile : t1.look (scratchLoc t1.turn.rank (p * 0x800)) 0x800 = s.peek (positionLoc s p) 0x800 := by
    rw [look_position t1 hp, hl1.turn, hl1.peek]; rfl
  have hm1 : t1.me.mops = [] := (hl1.fieldMe Core.mops fun _ _ => rfl).trans hm
  obtain ⟨⟨hsb, -, -⟩, rfl, hq⟩ := hz1
  have hst := writeAt_scratch (v := s.peek (positionLoc s p) 0x800) (k := 2) hsb hq hw1
  obtain ⟨hmem, -, hwoken⟩ := store_scratch t1 t1.behalf t1.turn.rank (s.th.get f.z).v.toNat 0x800 (s.peek (positionLoc s p) 0x800)
  generalize t1.store t1.behalf _ _ _ = t2 at hst hmem hwoken
  have hrun : exec (.mrd f) s =
      .next ((t2.setTh ((t2.th.warnIf .fmt (sposWarn (t2.th.val f.y))).issueWaiting f.lk [] .ready)).modTh Thread.next) := by
    refine run_ok (m := _) ?_
    simp only [M.bind_apply, M.ite_apply, M.get_apply, thread_apply, myCore_apply, updTh_apply, tidOf_val, hfl, hs1, hx, hm1,
      hga, htile, hst, List.any_nil, Bool.not_true, Bool.false_and, Bool.false_eq_true, if_false, if_true, State.modTh_setTh]
    rfl
  rw [hl1.mem] at hmem
  rw [hl1.th] at hwoken
  obtain ⟨hk, hpc⟩ := hwoken.warned (sposWarn (t2.th.val f.y))
  obtain ⟨hi, hke, hpce⟩ := issued_end (t := t2) (lk := f.lk) (dest := []) (w := .ready) hk rfl hpc
  exact ⟨_, hrun, stored_writeN hinv hmem, hke, hpce, hi⟩

end

end Sys2Proof.Machine
end

section
namespace Sys2Proof.Machine

open Claims

/-! ### Operand queues (R129) -/

section
variable {s : State} {f : FmtX} {l : Loc} {d : BitVec 512}

@[simp] theorem Core.queue_setQueue (c : Core) {q : Nat} (x : OpQueue) (h : q < 8) : (c.setQueue q x).queue q = x := by
  simp [Core.queue, Core.setQueue, Vector.getD, h]

theorem OpQueue.settle_one (x : OpQueue) : OpQueue.settle { x with resv := [true] } = { x with count := x.count + 1, resv := [] } := by
  simp [OpQueue.settle]

theorem captureReady_idle {r : Nat} (h : (s.core r).mops = []) : s.captureReady r = s := by
  rw [State.captureReady, h]
  rfl

/-- A queue without reservations gains a tile at its tail. -/
theorem appendTiles_one {b : Behalf} {r q v : Nat} {x : OpQueue} (hr : NoReds s) (hm : (s.core r).mops = []) (hq : q < 8)
    (hx : (s.core r).queue q = x) (hres : x.resv = []) :
    s.appendTiles b r q [v] =
      ((s.reserve r q 1).store b (scratchLoc r (x.tileOff (x.head + x.count))) 0x800 v).modCore r
        (fun c => c.setQueue q { x with count := x.count + 1, resv := [] }) := by
  have hres1 : ((s.reserve r q 1).core r).queue q = { x with resv := [false] } := by
    rw [State.reserve, State.core_modCore, Core.queue_setQueue _ _ hq, hx, hres]
    rfl
  have hr1 : NoReds (s.reserve r q 1) := noReds_modCore hr r _ rfl
  have htail : x.tail = x.head + x.count := by simp [OpQueue.tail, hres]
  have hm2 : ∀ o, (((s.reserve r q 1).store b (scratchLoc r o) 0x800 v).core r).mops = [] := fun o => by
    rw [store_scratch_field Core.mops (fun _ _ _ => rfl), State.reserve, State.core_modCore]
    exact hm
  have hm3 : ∀ o y, ((((s.reserve r q 1).store b (scratchLoc r o) 0x800 v).modCore r (fun c => c.setQueue q y)).core r).mops = [] := fun o y => by
    rw [State.core_modCore]
    exact hm2 o
  have hidx : x.head + x.count - x.head - x.count = 0 := by omega
  simp only [State.appendTiles, State.fillSlot, hx, htail, hres1, OpQueue.tileOff, recall_noReds hr1, hidx, List.set_cons_zero,
    OpQueue.settle_one]
  rw [captureReady_idle (hm3 _ _)]

theorem th_setQueue (s : State) (r q : Nat) (x : OpQueue) : (s.modCore r (fun c => c.setQueue q x)).th = s.th := th_modCore _ _ _ fun _ => rfl

theorem th_reserve (s : State) (r q n : Nat) : (s.reserve r q n).th = s.th := th_modCore _ _ _ fun _ => rfl

/-- What the thread, memory and the queue are after that. -/
theorem appendTiles_one_spec {b : Behalf} {r q v : Nat} {x : OpQueue} (hr : NoReds s) (hm : (s.core r).mops = []) (hq : q < 8)
    (hx : (s.core r).queue q = x) (hres : x.resv = []) : ∃ t, s.appendTiles b r q [v] = t
      ∧ t.mem = Memory.writeN s.mem (scratchLoc r (x.tileOff (x.head + x.count))).key 0x800 v ∧ t.turn = s.turn ∧ Woken s.th t.th
      ∧ (t.core r).queue q = { x with count := x.count + 1, resv := [] } := by
  obtain ⟨hmem, hturn, hwoken⟩ := store_scratch (s.reserve r q 1) b r (x.tileOff (x.head + x.count)) 0x800 v
  rw [th_reserve] at hwoken
  refine ⟨_, appendTiles_one hr hm hq hx hres, hmem, hturn, ?_, ?_⟩
  · rw [th_setQueue]
    exact hwoken
  · rw [State.core_modCore, Core.queue_setQueue _ _ hq]

theorem needQueue_ok {q : Nat} (h : (s.me.queue q).cfg = true) : needQueue q s = .ok (s.me.queue q) s := by
  simp [needQueue, M.bind_apply, h]

theorem execMrd_queues {p q : Nat} (hinv : Inv s) (hr : NoReds s) (he : Entry s (tidIn s.th f.x) l d) (hv : bit d 0 = true)
    (hn : TileNamed s.me d (tidIn s.th f.x) (s.th.val f.y) p q) (hp : p < 1536) (hm : s.me.mops = []) (hfl : nbit f.fl.val 0 = false)
    (hz : f.z.val < 8) (hroom : HasRoom (s.me.queue f.z.val)) :
    ∃ t, exec (.mrd f) s = .next t ∧ Pushed s t f.z.val (s.peek (positionLoc s p) 0x800)
      ∧ Keeps { warn := [.fmt], outst := true, mon := true } s.th t.th ∧ t.th.pc = s.th.pc.add 4 ∧ Issued s t f.lk [.q f.z.val] := by
  obtain ⟨t1, hs1, hl1⟩ := validSnapshot_ok he hv
  obtain ⟨x, hx⟩ := namedTile_ok (hl1.tileNamed hn)
  obtain ⟨hcfg, hres, hcap, -, -⟩ := hroom
  have htile : t1.look (scratchLoc t1.turn.rank (p * 0x800)) 0x800 = s.peek (positionLoc s p) 0x800 := by
    rw [look_position t1 hp, hl1.turn, hl1.peek]; rfl
  have hm1 : t1.me.mops = [] := (hl1.fieldMe Core.mops fun _ _ => rfl).trans hm
  have hqueue : t1.me.queue f.z.val = s.me.queue f.z.val := hl1.fieldMe (fun c => c.queue f.z.val) fun _ _ => rfl
  have hfree : (s.me.queue f.z.val).free ≠ 0 := by simp only [OpQueue.free, hres, List.length_nil]; omega
  obtain ⟨t2, hap, hmem, hturn, hwoken, hq2⟩ := appendTiles_one_spec (b := t1.behalf) (r := t1.turn.rank)
    (v := s.peek (positionLoc s p) 0x800) (hl1.noReds hr) hm1 hz hqueue hres
  have hrun : exec (.mrd f) s =
      .next ((t2.setTh ((t2.th.warnIf .fmt (sposWarn (t2.th.val f.y))).issueWaiting f.lk [.q f.z.val] .ready)).modTh Thread.next) := by
    refine run_ok (m := _) ?_
    simp only [M.bind_apply, M.ite_apply, M.get_apply, thread_apply, myCore_apply, upd_apply, updTh_apply, tidOf_val, hfl, hs1, hx,
      hm1, htile, hqueue, needQueue_ok hcfg, hfree, hap, show ¬ 8 ≤ f.z.val by omega, decide_false, List.any_nil, Bool.not_false, Bool.and_false,
      Bool.false_eq_true, if_false, if_true]
    rfl
  rw [hl1.th] at hwoken
  rw [hl1.mem, hl1.turn] at hmem
  obtain ⟨hk, hpc⟩ := hwoken.warned (sposWarn (t2.th.val f.y))
  obtain ⟨hi, hke, hpce⟩ := issued_end (t := t2) (lk := f.lk) (dest := [.q f.z.val]) (w := .ready) hk rfl hpc
  have hqueue2 : ∀ y, (t2.setTh y).me.queue f.z.val = { s.me.queue f.z.val with count := (s.me.queue f.z.val).count + 1, resv := [] } := fun y => by
    rw [State.me_setTh]
    show t2.me.queue _ = _
    rw [State.me, hturn, hq2]
  refine ⟨_, hrun, ⟨?_, ?_, stored_writeN hinv hmem⟩, hke, hpce, hi⟩
  · rw [State.modTh_setTh, hqueue2]
  · rw [State.modTh_setTh, hqueue2]

end

end Sys2Proof.Machine
end

section
namespace Sys2Proof.Machine

open Claims

/-! ### mwr (R231) -/

/-- The operation that `mwr` queues: the write of position `p`, with the tile that it has read. -/
def mwrOp (s : State) (f : FmtX) (tid : Nat) (d : Desc) (p tile : Nat) : MatOp :=
  { id := s.me.nextId, slot := s.turn.slot, acc := 0, kind := .write, aDesc := 0, wDesc := d, wTid := tid, mit := none, pos := p, quarter := 0,
    index := 0, queue := if nbit f.fl.val 0 then 8 else f.z.val, seq := (s.me.queue f.z.val).assigned,
    pop := !nbit f.fl.val 0 && nbit f.fl.val 1, qd := 0, record := none, sent := false, bar := none, dead := none, executing := false,
    read := nbit f.fl.val 0, args := some { noArgs with a := tile } }

/-- An operation that has read the tile `v`. -/
def MatOp.having (m : MatOp) (v : Nat) : MatOp := { m with read := true, args := some { noArgs with a := v } }

section
variable {s : State} {m : MatOp} {r v : Nat}

theorem captureReady_one (h : (s.core r).mops = [m]) : s.captureReady r = s.captureTile r m := by
  rw [State.captureReady, h]
  rfl

theorem captureTile_read (h : m.read = true) : s.captureTile r m = s := by
  unfold State.captureTile
  dsimp only
  split
  · simp [h]
  · rfl

theorem captureTile_queue (hr : NoReds s) (hm : (s.core r).mops = [m]) (hargs : m.args = some { noArgs with a := 0 }) (hread : m.read = false)
    (hq : ((s.core r).queue m.queue).readable m.seq = true)
    (hv : v = s.look (scratchLoc r (((s.core r).queue m.queue).tileOff m.seq)) 0x800) :
    s.captureTile r m = s.modCore r (fun c => { c with mops := [m.having v] }) := by
  have hmap : (s.core r).mops.map (fun x =>
      if x.id = m.id then { x with read := true, args := some { noArgs with a := v } } else x) = [m.having v] := by
    simp [hm, MatOp.having]
  simp only [State.captureTile, hargs, hread, hq, Bool.not_false, Bool.and_self, if_true, recall_noReds hr, ← hv]
  rw [State.modCore, hmap]
  rfl

/-- The state in which an operation has been queued, and its operand queue has assigned it a tile that it has not yet read. -/
def State.queued (s : State) (m : MatOp) : State :=
  s.modMe (fun c =>
    let q := c.queue m.queue
    let c := { c with nextId := c.nextId + 1, mops := c.mops ++ [m] }
    if m.pop then c.setQueue m.queue { q with pops := q.pops ++ [(m.id, false)] } else c)

theorem queued_mops (h : s.me.mops = []) : (s.queued m).me.mops = [m] := by
  rw [State.queued, State.me_modMe, h]
  dsimp only
  split <;> rfl

theorem queued_field {α : Type} (g : Core → α) (hg : ∀ c i o q, g { c with nextId := i, mops := o, queues := q } = g c) (r : Nat) :
    g ((s.queued m).core r) = g (s.core r) := by
  unfold State.queued State.modMe
  by_cases e : r = s.turn.rank
  · subst e
    rw [State.core_modCore]
    simp only [Core.setQueue]
    split
    · exact hg (s.core s.turn.rank) _ _ _
    · exact hg (s.core s.turn.rank) _ _ (s.core s.turn.rank).queues
  · rw [State.core_modCore_ne _ _ e]

/-- A queue keeps all but its assignments. -/
theorem queued_queue {q : Nat} (hq : q < 8) (hm : m.queue = q) : ∃ l, (s.queued m).me.queue q = { s.me.queue q with pops := l } := by
  subst hm
  rw [State.queued, State.me_modMe]
  dsimp only
  split
  · exact ⟨_, Core.queue_setQueue _ _ hq⟩
  · exact ⟨_, rfl⟩

theorem queued_th : (s.queued m).th = s.th := th_modCore _ _ _ fun c => by
  dsimp only
  split <;> rfl

theorem queued_look : (s.queued m).look = s.look := funext fun _ => funext fun _ =>
  look_congr rfl (queued_field Core.mitten (fun _ _ _ _ => rfl) _) rfl

theorem queued_noReds (hr : NoReds s) : NoReds (s.queued m) := by
  refine noReds_modCore hr _ _ ?_
  dsimp only
  split <;> rfl

theorem enqueueOp_queued : s.enqueueOp m = (s.queued m).captureReady (s.queued m).turn.rank := rfl

theorem mops_th (r : Nat) (o : List MatOp) : (s.modCore r (fun c => { c with mops := o })).th = s.th := th_modCore _ _ _ fun _ => rfl

/-- What queueing an operation leaves of the rest of the state. -/
def Enqueued (s u : State) (m : MatOp) : Prop := u.me.mops = [m] ∧ u.mem = s.mem ∧ u.th = s.th

theorem ReadLeaves.enqueued {home : Nat} {t u : State} (h : ReadLeaves home s t) (hu : Enqueued t u m) : Enqueued s u m := by
  obtain ⟨hops, hmem, hth⟩ := hu
  exact ⟨hops, hmem.trans h.mem, hth.trans h.th⟩

theorem enqueueOp_read (hm : s.me.mops = []) (h : m.read = true) : Enqueued s (s.enqueueOp m) m := by
  rw [enqueueOp_queued, captureReady_one (queued_mops hm), captureTile_read h]
  exact ⟨queued_mops hm, rfl, queued_th⟩

/-- An operation whose queue holds its tile reads it as it is queued. -/
theorem enqueueOp_assigned (hr : NoReds s) (hm : s.me.mops = []) (hargs : m.args = some { noArgs with a := 0 }) (hread : m.read = false)
    (hq : m.queue < 8) (hseq : (s.me.queue m.queue).readable m.seq = true)
    (hv : v = s.look (scratchLoc s.turn.rank ((s.me.queue m.queue).tileOff m.seq)) 0x800) : Enqueued s (s.enqueueOp m) (m.having v) := by
  obtain ⟨pops, hqueue⟩ := queued_queue (s := s) hq rfl
  rw [State.me] at hqueue
  rw [enqueueOp_queued, captureReady_one (queued_mops hm),
    captureTile_queue (v := v) (queued_noReds hr) (queued_mops hm) hargs hread (by rw [hqueue]; exact hseq)
      (by rw [hqueue, queued_look]; exact hv)]
  exact ⟨congrArg Core.mops (State.me_modMe _ _), rfl, (mops_th _ _).trans queued_th⟩

end

section
variable {s : State} {f : FmtX} {l : Loc} {d : BitVec 512} {p q v : Nat}

/-- The source of a `mwr`: the tile at its GA, or the tile at the head of its queue. -/
def MwrSource (s : State) (f : FmtX) (v : Nat) : Prop :=
  (nbit f.fl.val 0 = true ∧ ∃ ls, TileGa s (s.th.get f.z) ls ∧ v = s.peek ls 0x800)
    ∨ (nbit f.fl.val 0 = false ∧ f.z.val < 8 ∧ (s.me.queue f.z.val).cfg = true ∧ (s.me.queue f.z.val).pops = []
      ∧ 0 < (s.me.queue f.z.val).count
      ∧ v = s.look (scratchLoc s.turn.rank ((s.me.queue f.z.val).base + (s.me.queue f.z.val).head % (s.me.queue f.z.val).cap * 0x800)) 0x800)

/-- How a `mwr` that has queued its operation is issued. -/
def State.mwrIssued (u : State) (f : FmtX) (l : Loc) (id : Nat) : State :=
  (u.setTh ((u.th.warnIf .fmt (sposWarn (u.th.val f.y))).issueWaiting f.lk [.mem l.key 0x800] (.op id))).modTh Thread.next

theorem execMwr_enqueues (hr : NoReds s) (he : Entry s (tidIn s.th f.x) l d) (hv : bit d 0 = true)
    (hn : TileNamed s.me d (tidIn s.th f.x) (s.th.val f.y) p q) (hp : p < (if s.pairing s.turn.rank then 1532 else 1536))
    (hmit : s.th.mittenTid (tidIn s.th f.x) = false) (hm : s.me.mops = []) (hsrc : MwrSource s f v) :
    ∃ u m tile, exec (.mwr f) s = .next (u.mwrIssued f (positionLoc s p) m.id)
      ∧ Enqueued s u m ∧ m = (mwrOp s f (tidIn s.th f.x) d p tile).having v := by
  obtain ⟨t1, hs1, hl1⟩ := validSnapshot_ok he hv
  obtain ⟨x, hx⟩ := namedTile_ok (hl1.tileNamed hn)
  have hpair : (s.pairing s.turn.rank && decide (1532 ≤ p)) = false := by
    cases hs : s.pairing s.turn.rank <;> simp [hs] at hp ⊢
    exact hp
  have hm1 : t1.me.mops = [] := (hl1.fieldMe Core.mops fun _ _ => rfl).trans hm
  have hqueue : t1.me.queue f.z.val = s.me.queue f.z.val := hl1.fieldMe (fun c => c.queue f.z.val) fun _ _ => rfl
  have hid : t1.me.nextId = s.me.nextId := hl1.fieldMe Core.nextId fun _ _ => rfl
  rcases hsrc with ⟨hfl, ls, hz, hpeek⟩ | ⟨hfl, hz, hcfg, hpops, hcount, hlook⟩
  · have hz1 := hl1.tileGa (fun e => e ▸ he.calm) hz
    have hga := scratchGa_ok (k := 1) hz1
    obtain ⟨-, rfl, hq⟩ := hz1
    obtain ⟨t2, hrd, hl2, -⟩ := readAt_leaves hq (s.th.get f.z) 1
    rw [hl1.peek, ← hpeek, hl1.turn] at hrd
    have hrun : exec (.mwr f) s = .next ((t2.enqueueOp (mwrOp s f (tidIn s.th f.x) d p v)).mwrIssued f (positionLoc s p) s.me.nextId) := by
      refine run_ok (m := _) ?_
      simp only [M.bind_apply, M.ite_apply, M.get_apply, thread_apply, upd_apply, updTh_apply, tidOf_val, hfl, hs1, hx,
        hmit, hl1.pairing, hl1.turn, hpair, hga, hrd, hqueue, hid, mwrOp, Bool.not_true, Bool.false_and, Bool.false_eq_true, if_false, if_true]
      rfl
    have hread : (mwrOp s f (tidIn s.th f.x) d p v).read = true := hfl
    have hm2 : t2.me.mops = [] := (hl2.fieldMe Core.mops fun _ _ => rfl).trans hm1
    refine ⟨_, _, v, hrun, hl1.enqueued (hl2.enqueued ?_), rfl⟩
    have hself : (mwrOp s f (tidIn s.th f.x) d p v).having v = mwrOp s f (tidIn s.th f.x) d p v := by
      simp only [MatOp.having, mwrOp, hfl]
    rw [hself]
    exact enqueueOp_read hm2 hread
  · have hrun : exec (.mwr f) s = .next ((t1.enqueueOp (mwrOp s f (tidIn s.th f.x) d p 0)).mwrIssued f (positionLoc s p) s.me.nextId) := by
      refine run_ok (m := _) ?_
      simp only [M.bind_apply, M.ite_apply, M.get_apply, M.pure_apply, thread_apply, upd_apply, updTh_apply, tidOf_val, hfl, hs1, hx,
        needQueue_ok hcfg, show ¬ 8 ≤ f.z.val by omega, decide_false, Bool.and_false, Bool.not_false, Bool.true_and,
        hmit, hl1.pairing, hl1.turn, hpair, hqueue, hid, mwrOp, Bool.false_eq_true, if_false, if_true]
      rfl
    have hq : (mwrOp s f (tidIn s.th f.x) d p 0).queue = f.z.val := by simp only [mwrOp, hfl]; rfl
    have hseq : (mwrOp s f (tidIn s.th f.x) d p 0).seq = (s.me.queue f.z.val).head := by simp [mwrOp, OpQueue.assigned, hpops]
    refine ⟨_, _, 0, hrun, hl1.enqueued (enqueueOp_assigned (hl1.noReds hr) hm1 rfl hfl (by rw [hq]; exact hz) ?_ ?_), rfl⟩
    · rw [hq, hseq, hqueue, OpQueue.readable]
      simpa using hcount
    · rw [hq, hseq, hqueue, hl1.look, hl1.turn, hlook]
      rfl

theorem execMwr_waits (hr : NoReds s) (he : Entry s (tidIn s.th f.x) l d) (hv : bit d 0 = true)
    (hn : TileNamed s.me d (tidIn s.th f.x) (s.th.val f.y) p q) (hp : p < (if s.pairing s.turn.rank then 1532 else 1536))
    (hmit : s.th.mittenTid (tidIn s.th f.x) = false) (hm : s.me.mops = []) (hsrc : MwrSource s f v) :
    ∃ t m g, exec (.mwr f) s = .next t ∧ t.me.mops = [m] ∧ m.kind = .write ∧ m.wTid = tidIn s.th f.x ∧ m.wDesc = d ∧ m.pos = p
      ∧ m.read = true ∧ m.args = some g ∧ g.a = v ∧ m.executing = false ∧ m.slot = s.turn.slot
      ∧ (m.pop = true ↔ nbit f.fl.val 0 = false ∧ nbit f.fl.val 1 = true) ∧ Untouched s t
      ∧ Keeps { warn := [.fmt], outst := true } s.th t.th ∧ t.th.pc = s.th.pc.add 4
      ∧ Issued s t f.lk [.mem (positionLoc s p).key 0x800] := by
  obtain ⟨u, m, tile, hrun, ⟨hops, hmem, hth⟩, rfl⟩ := execMwr_enqueues hr he hv hn hp hmit hm hsrc
  have hk : Keeps { warn := [.fmt] } s.th (u.th.warnIf .fmt (sposWarn (u.th.val f.y))) := by
    rw [hth]; exact Keeps.warnIf (List.mem_singleton_self _)
  have hpc : (u.th.warnIf .fmt (sposWarn (u.th.val f.y))).pc = s.th.pc := by rw [Thread.warnIf_pc, hth]
  obtain ⟨hi, hke, hpce⟩ := issued_end (t := u) (lk := f.lk) (dest := [.mem (positionLoc s p).key 0x800])
    (w := .op ((mwrOp s f (tidIn s.th f.x) d p tile).having v).id) hk rfl hpc
  refine ⟨_, (mwrOp s f (tidIn s.th f.x) d p tile).having v, { noArgs with a := v }, hrun, ?_, rfl, rfl, rfl, rfl, rfl, rfl, rfl,
    rfl, rfl, ?_, untouched_of_mem hmem, hke, hpce, hi⟩
  · rw [State.mwrIssued, State.modTh_setTh, State.me_setTh]
    exact hops
  · simp [MatOp.having, mwrOp]

end

end Sys2Proof.Machine
end

section
namespace Sys2Proof.Machine

open Claims

/-! ### The turn of a queued write (R135, R231) -/

section
variable {s : State} {m : MatOp} {r q : Nat}

/-- A tile has retired from a queue of one core, or none has; nothing else of the state has changed. -/
structure Retired (s t : State) (r q n : Nat) : Prop where
  mem : t.mem = s.mem
  count : ((t.core r).queue q).count = ((s.core r).queue q).count - n
  core : ∀ {α : Type} (g : Core → α), (∀ c x, g { c with queues := x } = g c) → g (t.core r) = g (s.core r)

theorem Retired.modQueue {n : Nat} (hq : q < 8) (f : OpQueue → OpQueue) (hf : ∀ x, (f x).count = x.count - n) :
    Retired s (s.modCore r (fun c => c.setQueue q (f (c.queue q)))) r q n where
  mem := rfl
  count := by rw [State.core_modCore, Core.queue_setQueue _ _ hq, hf]
  core := fun g hg => by rw [State.core_modCore]; exact hg (s.core r) _

theorem Retired.trans {t u : State} {n k : Nat} (h : Retired s t r q n) (h' : Retired t u r q k) : Retired s u r q (n + k) where
  mem := h'.mem.trans h.mem
  count := by rw [h'.count, h.count, Nat.sub_sub]
  core := fun g hg => (h'.core g hg).trans (h.core g hg)

/-- A queue after the tile at its head, the only one assigned, has retired. -/
def OpQueue.advanced (x : OpQueue) : OpQueue := { x with head := x.head + 1, count := x.count - 1, pops := [] }

theorem retireOne_read {id : Nat} (h : ((s.core r).queue q).pops = [(id, true)]) :
    s.retireOne r q = s.modCore r (fun c => c.setQueue q (c.queue q).advanced) := by
  have hb : ((s.core r).queue q).backs = 0 := by simp [OpQueue.backs, h, givenBack]
  simp [State.retireOne, hb, h, State.modCore, OpQueue.advanced]

/-- The only tile that a queue has assigned retires when its reader has read it. -/
theorem retire_read {id : Nat} (hq : q < 8) (h : ((s.core r).queue q).pops = [(id, false)]) :
    Retired s (s.retire r q (fun l => l.map (fun p => if p.1 = id then (p.1, true) else p))) r q 1 := by
  have hmark := Retired.modQueue (s := s) (r := r) (n := 0) hq
    (fun x => { x with pops := x.pops.map (fun p => if p.1 = id then (p.1, true) else p) }) fun _ => rfl
  unfold State.retire
  generalize hs1 : s.modCore r _ = s1 at hmark ⊢
  have hp1 : ((s1.core r).queue q).pops = [(id, true)] := by
    rw [← hs1, State.core_modCore, Core.queue_setQueue _ _ hq, h]
    simp
  dsimp only
  rw [hp1, List.foldl_cons, List.foldl_nil, retireOne_read hp1]
  exact (hmark.trans (Retired.modQueue hq OpQueue.advanced fun _ => rfl)).trans (Retired.modQueue (n := 0) hq OpQueue.trim fun _ => rfl)

theorem popRead_retired (h : m.pop = true → ((s.core r).queue m.queue).pops = [(m.id, false)] ∧ m.queue < 8) :
    Retired s (s.popRead r m true) r m.queue (if m.pop then 1 else 0) := by
  unfold State.popRead
  by_cases hp : m.pop = true
  · obtain ⟨hpops, hq⟩ := h hp
    simp only [if_pos hp, if_true]
    exact retire_read hq hpops
  · simp only [if_neg hp]
    exact ⟨rfl, rfl, fun _ _ => rfl⟩

/-- The weight sums of an operation's tile are stored, and the operation leaves. -/
def State.writeEnded (s : State) (r : Nat) (m : MatOp) (p0 : Nat) : State :=
  (s.modCore r (fun c => { c with wsum := putWsums c.wsum (s.tileWsums r m.wDesc p0 m.pos) })).dropOp r m.id

theorem writeEnded_look (p0 : Nat) : (s.writeEnded r m p0).look = s.look := funext fun l => funext fun _ => by
  refine look_congr rfl ?_ rfl
  unfold State.writeEnded State.dropOp
  by_cases e : l.home = r
  · rw [e, State.core_modCore, State.core_modCore]
  · rw [State.core_modCore_ne _ _ e, State.core_modCore_ne _ _ e]

theorem writeEnded_core (p0 : Nat) : (s.writeEnded r m p0).core r =
    { s.core r with
      mops := (s.core r).mops.filter (fun x => decide (x.id ≠ m.id))
      wsum := putWsums (s.core r).wsum (s.tileWsums r m.wDesc p0 m.pos) } := by
  rw [State.writeEnded, State.dropOp, State.core_modCore, State.core_modCore]

theorem writeEnded_wsum (p0 : Nat) : ∀ x ∈ (s.writeEnded r m p0).tileWsums r m.wDesc p0 m.pos,
    lookup ((s.writeEnded r m p0).core r).wsum x.1 = some x.2 := by
  rw [tileWsums_congr (writeEnded_look p0) rfl, writeEnded_core]
  intro x hx
  exact lookup_putWsums (.inr hx) fun y hy => tileWsums_functional hx hy

theorem replaceTile_eq {g : MatArgs} {p0 : Nat} (hr : NoReds s) (hp0 : p0 = ((s.core r).rangeOf m.wTid).elim 0 StatRange.p0)
    (hbad : s.badOperand r m = none) (hscale : s.badTileScale r m.wDesc p0 m.pos = none) :
    ∃ b, s.replaceTile r m g = ((s.popRead r m true).store b (scratchLoc r (m.pos * 0x800)) 0x800 g.a).writeEnded r m p0 := by
  subst hp0
  unfold State.replaceTile
  cases h : (s.core r).rangeOf m.wTid with
  | none =>
    simp only [h, Option.elim_none] at hscale
    simp only [recallAll_noReds hr, hbad, hscale]
    exact ⟨_, rfl⟩
  | some x =>
    simp only [h, Option.elim_some] at hscale
    simp only [recallAll_noReds hr, hbad, hscale]
    exact ⟨_, rfl⟩

/-- A `mwr` replaces its tile and the tile's weight sums together, and leaves the core. -/
theorem replaceTile_writes {g : MatArgs} {p0 : Nat} (hinv : Inv s) (hr : NoReds s) (hp0 : p0 = ((s.core r).rangeOf m.wTid).elim 0 StatRange.p0)
    (hbad : s.badOperand r m = none) (hscale : s.badTileScale r m.wDesc p0 m.pos = none)
    (hpop : m.pop = true → ((s.core r).queue m.queue).pops = [(m.id, false)] ∧ m.queue < 8) :
    Stored s (s.replaceTile r m g) (scratchLoc r (m.pos * 0x800)) 0x800 g.a
      ∧ ((s.replaceTile r m g).core r).mops = (s.core r).mops.filter (fun x => decide (x.id ≠ m.id))
      ∧ (((s.replaceTile r m g).core r).queue m.queue).count = ((s.core r).queue m.queue).count - (if m.pop then 1 else 0)
      ∧ ∀ x ∈ (s.replaceTile r m g).tileWsums r m.wDesc p0 m.pos, lookup ((s.replaceTile r m g).core r).wsum x.1 = some x.2 := by
  obtain ⟨b, he⟩ := replaceTile_eq (g := g) hr hp0 hbad hscale
  have hret := popRead_retired hpop
  obtain ⟨hmem, -, -⟩ := store_scratch (s.popRead r m true) b r (m.pos * 0x800) 0x800 g.a
  have hfield : ∀ {α : Type} (f : Core → α) (_ : ∀ c bad th, f { c with badScratch := bad, threads := th } = f c), _ := fun f hf =>
    store_scratch_field f hf (s.popRead r m true) b r (m.pos * 0x800) 0x800 g.a r
  rw [he]
  generalize (s.popRead r m true).store b _ _ _ = u at hmem hfield
  refine ⟨stored_writeN hinv (hmem.trans (by rw [hret.mem])), ?_, ?_, writeEnded_wsum p0⟩
  · rw [writeEnded_core, hfield Core.mops fun _ _ _ => rfl, hret.core Core.mops fun _ _ => rfl]
  · rw [writeEnded_core]
    exact (congrArg OpQueue.count (hfield (fun c => c.queue m.queue) fun _ _ _ => rfl)).trans hret.count

theorem matrixOpStart_writes {mac : Nat} {g : MatArgs} {p0 : Nat} (hinv : Inv s) (hr : NoReds s) (hhead : (s.core r).macroHead mac = some m)
    (hkind : m.kind = .write) (hex : m.executing = false) (hdead : m.dead = none) (hread : m.read = true) (hargs : m.args = some g)
    (hp0 : p0 = ((s.core r).rangeOf m.wTid).elim 0 StatRange.p0) (hbad : s.badOperand r m = none)
    (hscale : s.badTileScale r m.wDesc p0 m.pos = none)
    (hpop : m.pop = true → ((s.core r).queue m.queue).pops = [(m.id, false)] ∧ m.queue < 8) :
    ∃ t, exec (.matrixOpStart r mac) s = .next t ∧ Stored s t (scratchLoc r (m.pos * 0x800)) 0x800 g.a
      ∧ (t.core r).mops = (s.core r).mops.filter (fun x => decide (x.id ≠ m.id))
      ∧ ((t.core r).queue m.queue).count = ((s.core r).queue m.queue).count - (if m.pop then 1 else 0)
      ∧ ∀ x ∈ t.tileWsums r m.wDesc p0 m.pos, lookup (t.core r).wsum x.1 = some x.2 := by
  refine ⟨s.replaceTile r m g, ?_, replaceTile_writes hinv hr hp0 hbad hscale hpop⟩
  have hgang : MatKind.write.isGang = false := rfl
  show execMatrixOpStart r mac s = _
  simp only [execMatrixOpStart, hhead, hex, hgang, hdead, hargs, hread, hkind, Bool.not_true, Bool.false_and, Bool.false_eq_true, if_false, if_true]

end

end Sys2Proof.Machine
end

section
namespace Sys2Proof.Machine

/-- Settles O24: every clause is the run of its member over a state in which its accesses meet nothing that delays them, so
each is the composition of the entry's read (`snapshot_ok`), of what that read leaves (`ReadLeaves`) and of the member's own
effect. That a `mrd` into memory is outstanding without a destination of R25 is log entry 112 (DEDUCED). -/
theorem tensorsAndTiles : Obligations.TensorsAndTiles := by
  unfold Obligations.TensorsAndTiles
  refine ⟨⟨?tdef, ?traps, ?tinv, ?tqry⟩, ?mstat, ?munst, ?unranged, ?mwr, ?start, ?mrd⟩
  case tdef =>
    intro f s ly lt d e hinv he hp ha hq hw hd hn
    exact ⟨fun hr hps hpw => execTdef_stores hinv he hp ha hq hd hn hr hps hpw,
      fun hr h hs hly hlt => execTdef_invalid h he hp ha hq hw hd hn hr hs hly hlt⟩
  case traps =>
    exact fun f s h => ⟨badTid_traps h, fun l d he hl hs hr => rangedTid_traps h he hl hs hr⟩
  case tinv =>
    exact fun f s l d hinv he hn hps hq hw => execTinv_stores hinv he hn hps hq hw
  case tqry =>
    exact fun f s l d _ he hz => execTqry_reads he hz
  case mstat =>
    exact fun f s l d p0 n _ hr he hv hy hn hpos hend hfree hnone hscale =>
      execMstat_fixes hr he hv hy hn hpos hend hfree hnone hscale
  case munst =>
    exact fun f s l d g _ he hg hm => execMunst_frees he hg hm
  case unranged =>
    exact fun f s l d h he hl hs hn => execMunst_unranged h he hl hs hn
  case mwr =>
    exact fun f s l d p q v _ hr he hv hn hp hmit hm hsrc => execMwr_waits hr he hv hn hp hmit hm hsrc
  case start =>
    exact fun s r mac m g p0 hinv hr hhead hkind hex hdead hread hargs _ hp0 hbad hscale _ hpop =>
      matrixOpStart_writes hinv hr hhead hkind hex hdead hread hargs hp0 hbad hscale hpop
  case mrd =>
    intro f s l d p q hinv hr he hv hn hp hm
    exact ⟨fun hfl lz hz hw => execMrd_stores hinv he hv hn hp hm hfl hz hw,
      fun hfl hz hroom => execMrd_queues hinv hr he hv hn hp hm hfl hz hroom⟩

end Sys2Proof.Machine
end

section
/-!
What the stores of the hardware leave of the cores and their threads, and what tasks that become ready, leave or end do with
them (R29-R34, R306-R309).
-/

namespace Sys2Proof.Machine

open Claims

/-! ### Threads of slots -/

theorem thAt_modCore {s : State} {r : Nat} {f : Core → Core} (hf : (f (s.core r)).threads = (s.core r).threads) (w : Turn) :
    (s.modCore r f).thAt w = s.thAt w := by
  unfold State.thAt
  by_cases h : w.rank = r
  · subst h; simp [hf]
  · rw [State.core_modCore_ne _ _ h]

theorem othersKept_modThAt (s : State) (w : Turn) (f : Thread → Thread) : OthersKept s (s.modThAt w f) w :=
  fun _ hx => State.thAt_setThAt_ne _ _ hx

/-- Of the cores, a thread that is set changes threads alone. -/
theorem core_setThAt_threads (s : State) (w : Turn) (t : Thread) (r : Nat) :
    (s.setThAt w t).core r = { s.core r with threads := ((s.setThAt w t).core r).threads } := by
  by_cases h : r = w.rank
  · subst h; rw [State.core_setThAt]
  · rw [State.setThAt, State.core_modCore_ne _ _ h]

theorem Woken.trans {a b c : Thread} (h : Woken a b) (k : Woken b c) : Woken a c := by
  obtain ⟨h1, m1, rfl, e1⟩ := h
  obtain ⟨h2, m2, rfl, e2⟩ := k
  exact ⟨h2, m2, rfl, e2.trans e1⟩

/-! ### Stores of the hardware (R100, R275) -/

/-- What stores of the hardware into vaults change: bytes, what the vaults keep beside them, the order of the RES stores, and
the monitors that they meet. -/
structure VaultStores (s t : State) : Prop where
  rest : t = { s with mem := t.mem, cores := t.cores, resolves := t.resolves }
  core : ∀ r, t.core r = { s.core r with vault := (t.core r).vault, threads := (t.core r).threads }
  woken : ∀ w, Woken (s.thAt w) (t.thAt w)

namespace VaultStores

variable {s t u : State}

theorem refl (s : State) : VaultStores s s := ⟨rfl, fun _ => rfl, fun _ => .refl _⟩

theorem trans (h : VaultStores s t) (k : VaultStores t u) : VaultStores s u :=
  { rest := by rw [k.rest, h.rest]
    core := fun r => by rw [k.core, h.core]
    woken := fun w => (h.woken w).trans (k.woken w) }

theorem foldl {α : Type} {f : State → α → State} (hf : ∀ s x, VaultStores s (f s x)) (l : List α) (s : State) :
    VaultStores s (l.foldl f s) := by
  induction l generalizing s with
  | nil => exact refl s
  | cons x l ih => exact (hf s x).trans (ih _)

theorem modVault (s : State) (r : Nat) {f : Core → Core} (hf : f (s.core r) = { s.core r with vault := (f (s.core r)).vault }) :
    VaultStores s (s.modCore r f) where
  rest := rfl
  core := fun q => by
    by_cases e : q = r
    · subst e; rw [State.core_modCore, hf]
    · rw [State.core_modCore_ne _ _ e]
  woken := fun w => by rw [thAt_modCore (by rw [hf])]; exact .refl _

theorem bytes (s : State) (m : List Host.Cell) (l : List (Nat × Nat)) : VaultStores s { s with mem := m, resolves := l } :=
  ⟨rfl, fun _ => rfl, fun _ => .refl _⟩

theorem wake (s : State) (l : Loc) (n : Nat) : VaultStores s (s.wake l n) where
  rest := by unfold State.wake; dsimp only; split <;> rfl
  core := fun r => by obtain ⟨g, -, h⟩ := core_wake s l n r; rw [h]
  woken := thAt_wake s l n

theorem unzero (s : State) (r f : Nat) : VaultStores s (s.unzero r f) := by
  unfold State.unzero
  split
  · exact refl s
  · dsimp only
    split
    · exact (bytes s _ _).trans (modVault _ _ rfl)
    · exact modVault _ _ rfl

theorem noteResolve (s : State) (r o n v : Nat) : VaultStores s (s.noteResolve r o n v) := by
  unfold State.noteResolve
  split
  · exact refl s
  · split
    · exact refl s
    · exact bytes s _ _

theorem store (s : State) (r o n v : Nat) : VaultStores s (s.store noBehalf (vaultLoc r o) n v) := by
  have hj : s.journal noBehalf r (rowOf o) = s := rfl
  unfold State.store
  simp only [vaultLoc, hj]
  exact ((unzero s _ _).trans (modVault _ _ rfl)).trans (((bytes _ _ _).trans (noteResolve _ _ _ _ _)).trans (wake _ _ _))

theorem storeAll (s : State) (r base : Nat) (l : List (Nat × Nat × Nat)) : VaultStores s (s.storeAll r base l) :=
  foldl (fun _ _ => store _ _ _ _ _) l s

theorem storeRecords (s : State) (r base : Nat) (l : List Task) : VaultStores s (s.storeRecords r base l) := by
  induction l generalizing s base with
  | nil => exact refl s
  | cons k l ih =>
    unfold State.storeRecords
    exact (storeAll s r base k.recordWrites).trans (ih _ _)

theorem spill (s : State) (r : Nat) : VaultStores s (s.spill r) := storeRecords s r (s.core r).spillBase _

theorem turn (h : VaultStores s t) : t.turn = s.turn := by rw [h.rest]

end VaultStores

/-! ### Deferred reductions at their homes (R111, R184) -/

/-- A core without what stores and deferred reductions at homes change of it. -/
def Core.unstored (c : Core) : Core :=
  { c with threads := Core.reset.threads, vault := .reset, badScratch := [], trees := .replicate 4 0, rounds := .replicate 4 0, redbuf := [] }

/-- What stores and deferred reductions leave, wherever their homes lie. -/
structure HomeWrites (s t : State) : Prop where
  turn : t.turn = s.turn
  cycle : t.cycle = s.cycle
  core : ∀ r, (t.core r).unstored = (s.core r).unstored

namespace HomeWrites

variable {s t u : State}

theorem refl (s : State) : HomeWrites s s := ⟨rfl, rfl, fun _ => rfl⟩

theorem trans (h : HomeWrites s t) (k : HomeWrites t u) : HomeWrites s u :=
  ⟨k.turn.trans h.turn, k.cycle.trans h.cycle, fun r => (k.core r).trans (h.core r)⟩

theorem foldl {α : Type} {f : State → α → State} (hf : ∀ s x, HomeWrites s (f s x)) (l : List α) (s : State) :
    HomeWrites s (l.foldl f s) := by
  induction l generalizing s with
  | nil => exact refl s
  | cons x l ih => exact (hf s x).trans (ih _)

/-- Anything read of a core but what stores change. -/
theorem field (h : HomeWrites s t) {α : Type} (g : Core → α) (hg : ∀ c, g (Core.unstored c) = g c) (r : Nat) :
    g (t.core r) = g (s.core r) := by
  rw [← hg, h.core, hg]

theorem modCore (s : State) (r : Nat) {f : Core → Core} (hf : (f (s.core r)).unstored = (s.core r).unstored) :
    HomeWrites s (s.modCore r f) :=
  ⟨rfl, rfl, fun q => by
    by_cases e : q = r
    · subst e; rw [State.core_modCore, hf]
    · rw [State.core_modCore_ne _ _ e]⟩

theorem modThAt (s : State) (w : Turn) (f : Thread → Thread) : HomeWrites s (s.modThAt w f) := by
  unfold State.modThAt State.setThAt
  exact modCore _ _ rfl

theorem ofVaultStores (h : VaultStores s t) : HomeWrites s t :=
  ⟨h.turn, by rw [h.rest], fun r => by rw [h.core]; rfl⟩

theorem poke (s : State) (l : Loc) (n v : Nat) : HomeWrites s (s.poke l n v) := ⟨rfl, rfl, fun _ => rfl⟩

theorem wake (s : State) (l : Loc) (n : Nat) : HomeWrites s (s.wake l n) := ofVaultStores (.wake s l n)

theorem journal (s : State) (b : Behalf) (r row : Nat) : HomeWrites s (s.journal b r row) := by
  unfold State.journal
  split
  · exact refl s
  · dsimp only
    split
    · exact refl s
    · split <;> exact modCore _ _ rfl

theorem store (s : State) (b : Behalf) (l : Loc) (n v : Nat) : HomeWrites s (s.store b l n v) := by
  unfold State.store
  split
  · exact ((journal s _ _ _).trans (ofVaultStores (.unzero _ _ _))).trans (((modCore _ _ rfl).trans (poke _ _ _ _)).trans
      ((ofVaultStores (.noteResolve _ _ _ _ _)).trans (wake _ _ _)))
  · exact ((modCore _ _ rfl).trans (poke _ _ _ _)).trans (wake _ _ _)
  · exact HomeWrites.trans (t := (s.poke l n v).sealTier l.key n) ⟨rfl, rfl, fun _ => rfl⟩ (wake _ _ _)
  · exact (poke _ _ _ _).trans (wake _ _ _)

theorem wakeBand (s : State) (b : Nat) : HomeWrites s (s.wakeBand b) := by
  unfold State.wakeBand; split
  · exact ⟨rfl, rfl, fun _ => rfl⟩
  · exact refl s

theorem setTree (s : State) (r tree : Nat) (v : Word) : HomeWrites s (s.setTree r tree v) := by
  unfold State.setTree
  exact modCore _ _ rfl

theorem doorbell (s : State) (r : Nat) (n : Fin 5) (v : Word) : HomeWrites s (s.doorbell r n v) := by
  unfold State.doorbell; split
  · exact (wakeBand s _).trans (modThAt _ _ _)
  · exact refl s

theorem controlWrite (s : State) (r o : Nat) (v : Word) : HomeWrites s (s.controlWrite r o v) := by
  unfold State.controlWrite
  refine HomeWrites.trans ?_ (wake _ _ _)
  split
  · exact setTree _ _ _ _
  · split
    · exact doorbell _ _ _ _
    · exact refl s

theorem write (s : State) (b : Behalf) (l : Loc) (n v : Nat) : HomeWrites s (s.write b l n v) := by
  unfold State.write
  split
  · exact controlWrite _ _ _ _
  · split
    · exact refl s
    · exact store _ _ _ _ _

theorem raiseNv (s : State) (w : Turn) (b : Bool) : HomeWrites s (s.raiseNv w b) := by
  unfold State.raiseNv; split
  · exact modThAt _ _ _
  · exact refl s

theorem applyRed (s : State) (r : Nat) (e : RedEntry) : HomeWrites s (s.applyRed r e) := by
  unfold State.applyRed
  dsimp only
  refine (foldl (f := fun s n => s.raiseNv { rank := r, slot := n } true) (fun _ _ => raiseNv _ _ _) e.nv s).trans ?_
  split
  · exact raiseNv _ _ _
  · exact (write _ _ _ _ _).trans (raiseNv _ _ _)

theorem flushRed (s : State) (r : Nat) (p : RedEntry → Bool) : HomeWrites s (s.flushRed r p) := by
  unfold State.flushRed
  exact (modCore _ _ rfl).trans (foldl (fun _ _ => applyRed _ _ _) _ _)

theorem recalled (s : State) (l : Loc) (n : Nat) : HomeWrites s (s.recall l n) := by
  unfold State.recall
  exact foldl (fun _ _ => flushRed _ _ _) _ _

theorem copyRows (s : State) (r src dst : Nat) (l : List Nat) : HomeWrites s (s.copyRows r src dst l) := by
  unfold State.copyRows
  exact foldl (fun _ _ => (recalled _ _ _).trans (store _ _ _ _ _)) _ _

theorem storeAll (s : State) (r base : Nat) (l : List (Nat × Nat × Nat)) : HomeWrites s (s.storeAll r base l) :=
  ofVaultStores (.storeAll s r base l)

end HomeWrites

/-! ### Ready queues (R34, R35) -/

theorem mem_insertReady {l : List Task} {k x : Task} : x ∈ insertReady l k ↔ x = k ∨ x ∈ l := by
  induction l with
  | nil => simp [insertReady]
  | cons y l ih =>
    unfold insertReady
    split
    · simp only [List.mem_cons, ih]; tauto
    · simp

theorem length_insertReady (l : List Task) (k : Task) : (insertReady l k).length = l.length + 1 := by
  induction l with
  | nil => rfl
  | cons y l ih =>
    unfold insertReady
    split <;> simp [ih]

section
variable {s : State} {r : Nat}

theorem setReady_stores (l : List Task) : VaultStores (s.modCore r (fun c => { c with ready := l })) (s.setReady r l) :=
  .spill _ _

/-- A queue that fits into its 64 entries spills nothing. -/
theorem setReady_short {l : List Task} (h : l.length ≤ 64) : s.setReady r l = s.modCore r (fun c => { c with ready := l }) := by
  have hd : ((s.modCore r (fun c => { c with ready := l })).core r).ready.drop 64 = [] := by
    rw [State.core_modCore]
    exact List.drop_eq_nil_of_le h
  unfold State.setReady State.spill
  dsimp only
  rw [hd, List.take_nil]
  rfl

/-- A pre-emption that is asked for changes one bit of one thread. -/
theorem askPreempt_cases (s : State) (r p : Nat) : s.askPreempt r p = s
    ∨ ∃ w : Turn, s.askPreempt r p = s.modThAt w (fun t => { t with preempt := true }) := by
  unfold State.askPreempt
  dsimp only
  split
  · exact .inl rfl
  · split
    · exact .inl rfl
    · split
      · split
        · exact .inr ⟨_, rfl⟩
        · exact .inl rfl
      · exact .inl rfl

theorem askPreempt_writes (s : State) (r p : Nat) : HomeWrites s (s.askPreempt r p) := by
  rcases askPreempt_cases s r p with h | ⟨w, h⟩ <;> rw [h]
  · exact .refl s
  · exact .modThAt s w _

theorem askPreempt_mem (s : State) (r p : Nat) : (s.askPreempt r p).mem = s.mem := by
  rcases askPreempt_cases s r p with h | ⟨w, h⟩ <;> rw [h]
  rfl

theorem askPreempt_thAt (s : State) (r p : Nat) (w : Turn) : ∃ b, (s.askPreempt r p).thAt w = { s.thAt w with preempt := b } := by
  rcases askPreempt_cases s r p with h | ⟨u, h⟩ <;> rw [h]
  · exact ⟨_, rfl⟩
  · by_cases e : w = u
    · subst e; exact ⟨true, State.thAt_modThAt _ _ _⟩
    · exact ⟨_, othersKept_modThAt _ _ _ w e⟩

/-- A task as it enters a ready queue (R34). -/
def State.asReady (s : State) (k : Task) : Task := { k with since := s.cycle.toNat, aged := 0, wait := .none }

theorem makeReady_ready (s : State) (r : Nat) (k : Task) :
    ((s.makeReady r k).core r).ready = insertReady (s.core r).ready (s.asReady k) := by
  rw [State.makeReady, (askPreempt_writes _ _ _).field Core.ready (fun _ => rfl), (setReady_stores _).core, State.core_modCore]
  rfl

theorem makeReady_turn (s : State) (r : Nat) (k : Task) : (s.makeReady r k).turn = s.turn := by
  rw [State.makeReady, (askPreempt_writes _ _ _).turn, (setReady_stores _).turn]
  rfl

/-- Of a thread no more changes than a monitor that is met and a pre-emption that is asked for. -/
theorem makeReady_thAt (s : State) (r : Nat) (k : Task) (w : Turn) :
    ∃ h m b, (s.makeReady r k).thAt w = { s.thAt w with monHit := h, monWait := m, preempt := b } := by
  obtain ⟨b, hb⟩ := askPreempt_thAt (s.setReady r (insertReady (s.core r).ready (s.asReady k))) r (min 7 k.prio) w
  obtain ⟨h, m, hm, -⟩ := (setReady_stores (s := s) (r := r) (insertReady (s.core r).ready (s.asReady k))).woken w
  rw [thAt_modCore rfl] at hm
  exact ⟨h, m, b, hb.trans (by rw [hm])⟩

/-- A queue with room among its 64 entries takes a task without a store. -/
theorem makeReady_short (h : (s.core r).ready.length < 64) (k : Task) : (s.makeReady r k).mem = s.mem
    ∧ ∀ w, ∃ b, (s.makeReady r k).thAt w = { s.thAt w with preempt := b } := by
  have hs := setReady_short (s := s) (r := r) (l := insertReady (s.core r).ready (s.asReady k))
    (by rw [length_insertReady]; exact h)
  refine ⟨(askPreempt_mem _ _ _).trans ?_, fun w => ?_⟩
  · show (s.setReady r (insertReady (s.core r).ready (s.asReady k))).mem = s.mem
    rw [hs]
    rfl
  obtain ⟨b, hb⟩ := askPreempt_thAt (s.setReady r (insertReady (s.core r).ready (s.asReady k))) r (min 7 k.prio) w
  exact ⟨b, hb.trans (by rw [hs, thAt_modCore rfl])⟩

end

/-! ### Leaving a slot with full context (R306, R308) -/

section
variable {s : State} {w : Turn} {k : Task}

/-- The core of a slot with its frame 0 bound to a task. -/
def State.boundFirst (s : State) (r : Nat) (id : Word) : State := s.modCore r (fun c => { c with frames := [(0, id)] })

/-- With no frame bound and one to be had, the first is bound, and its header written. -/
theorem bindFrame_first {r : Nat} (hf : (s.core r).frames = []) (hc : 0 < field (s.core r).ctxbase 0 16) (id : Word) :
    ∃ u, s.bindFrame r id = some (0, u) ∧ VaultStores (s.boundFirst r id) u := by
  have hfree : (s.core r).freeFrame = some 0 := by
    simp [Core.freeFrame, hf, Nat.min_eq_right (Nat.succ_le_of_lt hc), List.range_succ]
  have hbound : s.modCore r (fun c => { c with frames := insert c.frames 0 id }) = s.boundFirst r id := by
    simp [State.modCore, State.boundFirst, hf, insert]
  unfold State.bindFrame
  simp only [Core.frameOf, hf, List.find?_nil, Option.map_none, hfree, hbound]
  exact ⟨_, rfl, .storeAll _ _ _ _⟩

/-- A task leaves with its context. Where it has written no row of its stack, its core and the other threads change no more
than by the stores into its frame. -/
theorem leaveFull_first (ht : (s.thAt w).task = some k) (hf : (s.core w.rank).frames = [])
    (hc : 0 < field (s.core w.rank).ctxbase 0 16) :
    ∃ u y, s.leaveFull w = some (y, u.setThAt w (s.thAt w).emptied) ∧ y.id = k.id ∧ y.pc = (s.thAt w).pc ∧ y.frame = true
      ∧ y.gangOf = k.gangOf ∧ HomeWrites (s.boundFirst w.rank k.id) u
      ∧ ((s.thAt w).dirty = 0 → VaultStores (s.boundFirst w.rank k.id) u) := by
  obtain ⟨u, hu, hv⟩ := bindFrame_first hf hc k.id
  unfold State.leaveFull
  simp only [ht, hu]
  refine ⟨_, _, rfl, rfl, rfl, rfl, rfl, ?_, fun hd => ?_⟩
  · refine (HomeWrites.ofVaultStores hv).trans (HomeWrites.trans ?_ (.storeAll _ _ _ _))
    split
    · exact (HomeWrites.storeAll _ _ _ _).trans (.copyRows _ _ _ _ _)
    · exact .storeAll _ _ _ _
  · have hg : nbit (field (s.thAt w).dirty 0 20) 19 = false := by simp [hd, field, nbit]
    rw [hg]
    exact hv.trans ((VaultStores.storeAll _ _ _ _).trans (.storeAll _ _ _ _))

end

/-! ### The end of a task (R30, R33, R325) -/

section
variable {s : State} {r : Nat}

/-- A fence flushes nothing of an empty buffer. -/
theorem fenceFlush_nil (h : (s.core r).redbuf = []) (scope : Nat) : s.fenceFlush r scope = s.modCore r (fun c => { c with redbuf := [] }) := by
  simp [State.fenceFlush, State.flushRed, h, State.modCore]

theorem unbindFrame_nil (h : (s.core r).frames = []) (id : Word) : s.unbindFrame r id = s := by
  simp [State.unbindFrame, Core.frameOf, h]

theorem freeMitten_none (h : (s.core r).mitten = .replicate 4 none) (id : Word) :
    s.freeMitten r id = s.modCore r (fun c => { c with mitten := .replicate 4 none }) := by
  have hheld : ∀ k, (Vector.replicate 4 (none : Option Mitten)).getD k none = none := fun k => by
    rcases Nat.lt_or_ge k 4 with hk | hk <;> simp [Vector.getD, hk]
  simp [State.freeMitten, h, State.modCore, hheld]

/-- A task in a slot ends: its weight is on its way, its slot is empty, and nothing else changes but its core's buffers. -/
structure TaskEnds (s t : State) (w : Turn) (k : Task) : Prop where
  mem : t.mem = s.mem
  turn : t.turn = s.turn
  msgs : t.msgs = s.msgs ++ [.weight k.launch k.weight]
  ready : (t.core w.rank).ready = (s.core w.rank).ready
  slot : t.thAt w = (s.thAt w).emptied
  others : OthersKept s t w

/-- The end of a task of some weight that holds no frame and no mitten slot, on a core that buffers no reduction. -/
theorem fenceFlush_endTask {w : Turn} {k : Task} (ht : (s.thAt w).task = some k) (hw : 0 < k.weight) (hr : (s.core w.rank).redbuf = [])
    (hf : (s.core w.rank).frames = []) (hm : (s.core w.rank).mitten = .replicate 4 none) :
    TaskEnds s ((s.fenceFlush w.rank 4).endTask w) w k := by
  have hflush := fenceFlush_nil hr 4
  generalize hu : s.modCore w.rank (fun c => { c with redbuf := [] }) = u at hflush
  have hcore : u.core w.rank = { s.core w.rank with redbuf := [] } := by rw [← hu, State.core_modCore]
  have hth : u.thAt = s.thAt := funext fun x => by rw [← hu]; exact thAt_modCore rfl x
  have hend : u.endTask w = (({ u with msgs := u.msgs ++ [.weight k.launch k.weight] } : State).modCore w.rank
      (fun c => { c with mitten := .replicate 4 none })).modThAt w (·.emptied) := by
    unfold State.endTask
    simp only [hth, ht, Nat.ne_of_gt hw, if_false]
    rw [unbindFrame_nil (s := { u with msgs := u.msgs ++ [.weight k.launch k.weight] }) (by show (u.core _).frames = _; rw [hcore]; exact hf),
      freeMitten_none (s := { u with msgs := u.msgs ++ [.weight k.launch k.weight] }) (by show (u.core _).mitten = _; rw [hcore]; exact hm)]
  generalize hv : ({ u with msgs := u.msgs ++ [.weight k.launch k.weight] } : State).modCore w.rank
      (fun c => { c with mitten := .replicate 4 none }) = v at hend
  have hvth : v.thAt = s.thAt := funext fun x => by
    rw [← hv, thAt_modCore rfl]
    exact congrFun hth x
  have hvready : (v.core w.rank).ready = (s.core w.rank).ready := by
    rw [← hv, State.core_modCore]
    show (u.core _).ready = _
    rw [hcore]
  rw [hflush, hend]
  exact
    { mem := by rw [State.modThAt, State.setThAt_mem, ← hv, ← hu]; rfl
      turn := by rw [State.modThAt, State.setThAt_turn, ← hv, ← hu]; rfl
      msgs := by rw [State.modThAt, State.setThAt_msgs, ← hv, ← hu]; rfl
      ready := by rw [← hvready]; exact (HomeWrites.modThAt v w _).field Core.ready (fun _ => rfl) _
      slot := by rw [State.thAt_modThAt, hvth]
      others := fun x hx => by rw [othersKept_modThAt v w _ x hx, hvth] }

end

end Sys2Proof.Machine
end

section
/-! How a task leaves its slot by itself: `park`, `tend` and `tyield` (R31-R33, R193, R194). -/

namespace Sys2Proof.Machine

open Claims

variable {s : State} {k : Task}

/-- The bit of WARN that a member which is not long-latency may set (R25). -/
theorem completes_lkIgnored {lk : Fin 16} : Completes { warn := if lk = 0 then [] else [.lkig] } s
    ((s.modTh (·.lkIgnored lk)).modTh Thread.next) := by
  rw [State.modTh_modTh]
  exact Completes.setTh (lkIgnored_keeps lk _ fun h => by simp [h]) (by simp)

/-! ### park (R31, R32, R193) -/

theorem park_ready {mig : Bool} {f : FmtPark} (hp : bit s.th.pend f.a.val = false) : ∃ t, park mig f s = .next t
    ∧ Completes { warn := if f.lk = 0 then [] else [.lkig] } s t := by
  refine ⟨_, run_ok (t := s.modTh (·.lkIgnored f.lk)) ?_, completes_lkIgnored⟩
  simp only [M.bind_apply, thread_apply, M.ite_apply, hp, Bool.false_eq_true, if_false, updTh_apply]

/-- With no live register asked for, the record holds the token register alone (R28). -/
theorem trimLive_token : ∀ r : Reg, r ≠ 0 → trimLive 0 (some r) = (BitVec.ofNat 32 (2 ^ r.val), false) := by decide

theorem savedRegs_token (t : Thread) : ∀ r : Reg, r ≠ 0 → t.savedRegs (BitVec.ofNat 32 (2 ^ r.val)) = [t.get r] := by
  intro r hr
  have hlist : ∀ r : Reg, r ≠ 0 → (List.range 32).filter (fun n => n ≠ 0 && (BitVec.ofNat 32 (2 ^ r.val)).getLsbD n) = [r.val] := by decide
  rw [Thread.savedRegs, hlist r hr]
  simp [Thread.get, hr, Vector.getD]

/-- The record of a task without vector, mask or accumulator state as `park` leaves it (R31). -/
def State.parkRecord (s : State) (k : Task) (r : Reg) (mig : Bool) : Task :=
  { s.taskOut s.th.next k with live := BitVec.ofNat 32 (2 ^ r.val), regs := [s.th.get r], parked := true, parkTok := r,
                               wait := .token r, frame := false, mig := mig }

theorem leavePark_record {r : Reg} {mig : Bool} (ht : s.th.task = some k) (hs : s.holdsState s.turn = false) (hr : r ≠ 0) :
    (s.modTh Thread.next).leavePark s.turn r (BitVec.ofNat 32 (2 ^ r.val)) mig
      = some (s.parkRecord k r mig, (s.modTh Thread.next).setThAt s.turn s.th.next.emptied) := by
  have hth : (s.modTh Thread.next).thAt s.turn = s.th.next := State.th_modTh s _
  have hhold : (s.modTh Thread.next).holdsState s.turn = false := by
    have hcore := State.core_setThAt s s.turn s.th.next
    rw [← hs]
    simp only [State.holdsState, State.present, hth, show (s.modTh Thread.next).core s.turn.rank = _ from hcore]
    rfl
  have hregs : s.th.next.savedRegs (BitVec.ofNat 32 (2 ^ r.val)) = [s.th.get r] := savedRegs_token _ r hr
  simp only [State.leavePark, hth, hhold, hregs, show s.th.next.task = some k from ht, Bool.false_eq_true, if_false]
  rfl

theorem park_pending {mig : Bool} {f : FmtPark} (hp : bit s.th.pend f.a.val = true) (ht : s.th.task = some k) (ha : f.a ≠ 0)
    (hs : s.holdsState s.turn = false) (hlk : f.lk = 0) (hd : s.th.val f.d = 0) :
    park mig f s = .next (((s.modTh Thread.next).setThAt s.turn s.th.next.emptied).modCore s.turn.rank
      (fun c => { c with parked := c.parked ++ [s.parkRecord k f.a (mig && k.mitten.isNone)] })) := by
  have htrim : trimLive (BitVec.ofNat 32 (s.th.val f.d).toNat) (some f.a) = (BitVec.ofNat 32 (2 ^ f.a.val), false) := by
    rw [hd]; exact trimLive_token f.a ha
  have hnext : (fun t : Thread => ((t.warnIf .mask false).lkIgnored f.lk).next) = Thread.next := by
    funext t; simp [Thread.warnIf, Thread.lkIgnored, hlk]
  have hleave := leavePark_record (mig := mig && k.mitten.isNone) ht hs ha
  refine run_done ?_
  simp only [M.bind_apply, thread_apply, M.ite_apply, hp, if_true, ht, M.get_apply, htrim, hnext]
  rw [show (s.modTh Thread.next).turn = s.turn from rfl, hleave]
  simp only [M.bind_apply, M.set_apply, finish_apply]
  rfl

theorem thAt_parked (s : State) (r : Nat) (x : Task) (w : Turn) :
    (s.modCore r (fun c => { c with parked := c.parked ++ [x] })).thAt w = s.thAt w := thAt_modCore rfl w

/-- The task that `park` takes out of its slot, and the empty slot. -/
theorem park_leaves {mig : Bool} {f : FmtPark} (hp : bit s.th.pend f.a.val = true) (ht : s.th.task = some k) (ha : f.a ≠ 0)
    (hs : s.holdsState s.turn = false) (hlk : f.lk = 0) (hd : s.th.val f.d = 0) :
    ∃ t x, park mig f s = .next t ∧ t.me.parked = s.me.parked ++ [x] ∧ x.id = k.id
      ∧ x.wait = .token f.a ∧ x.parkTok = f.a ∧ x.pc = s.th.pc.add 4 ∧ x.regs = [s.th.get f.a] ∧ x.live.toNat = 2 ^ f.a.val
      ∧ x.weight = k.weight ∧ x.pend = s.th.pend ∧ (x.mig = true ↔ mig = true ∧ k.mitten = none)
      ∧ t.th.occ = .empty ∧ t.th.task = none ∧ t.th.pend = 0 ∧ Untouched s t := by
  refine ⟨_, s.parkRecord k f.a (mig && k.mitten.isNone), park_pending hp ht ha hs hlk hd, ?_, rfl, rfl, rfl, rfl, rfl, ?_, rfl, rfl, ?_, ?_⟩
  · simp [State.me, State.core_setThAt, State.modTh, State.setTh]
  · exact Nat.mod_eq_of_lt (Nat.pow_lt_pow_right (by decide) f.a.isLt)
  · simp [State.parkRecord]
  · have hth := (thAt_parked ((s.modTh Thread.next).setThAt s.turn s.th.next.emptied) s.turn.rank
      (s.parkRecord k f.a (mig && k.mitten.isNone)) s.turn).trans (State.thAt_setThAt _ _ _)
    exact ⟨congrArg Thread.occ hth, congrArg Thread.task hth, congrArg Thread.pend hth, untouched_of_mem rfl⟩

/-! ### tend (R33) -/

theorem execTend_waits {f : FmtA} (ht : s.th.task = some k) (hfail : bit s.th.thstat 12 = false) (hp : s.th.pend ≠ 0) :
    ∃ t, execTend f s = .next t ∧ t.th.pc = s.th.pc ∧ t.th.task = some k ∧ Untouched s t := by
  refine ⟨_, run_stall (t := s) ?_, by rw [State.th_modTh]; rfl, by rw [State.th_modTh]; exact ht, untouched_of_mem rfl⟩
  simp only [M.bind_apply, thread_apply, M.ite_apply, hfail, Bool.false_and, Bool.false_eq_true, if_false, hp, ne_eq, not_false_eq_true, if_true,
    stall_apply]

theorem execTend_ends {f : FmtA} (ht : s.th.task = some k) (hfail : bit s.th.thstat 12 = false) (hp : s.th.pend = 0)
    (hr : s.me.redbuf = []) (hw : 0 < k.weight) (hf : s.me.frames = []) (hm : s.me.mitten = .replicate 4 none) :
    ∃ t, execTend f s = .next t ∧ t.th.task = none ∧ t.th.occ = .empty
      ∧ t.msgs = s.msgs ++ [.weight k.launch k.weight] ∧ t.me.ready = s.me.ready ∧ Untouched s t := by
  have hcore : (s.modTh (·.lkIgnored f.lk)).core s.turn.rank = { s.me with threads := s.me.threads.set s.turn.slot (s.th.lkIgnored f.lk) } :=
    State.core_setThAt s s.turn _
  have hth : (s.modTh (·.lkIgnored f.lk)).thAt s.turn = s.th.lkIgnored f.lk := State.th_modTh s _
  have he := fenceFlush_endTask (s := s.modTh (·.lkIgnored f.lk)) (w := s.turn) (k := k) (by simp [hth, ht])
    hw (by rw [hcore]; exact hr) (by rw [hcore]; exact hf) (by rw [hcore]; exact hm)
  have hslot : (((s.modTh (·.lkIgnored f.lk)).fenceFlush s.turn.rank 4).endTask s.turn).th = (s.th.lkIgnored f.lk).emptied := by
    rw [State.th, he.turn, ← hth]
    exact he.slot
  refine ⟨_, run_done ?_, congrArg Thread.task hslot, congrArg Thread.occ hslot, he.msgs, ?_, untouched_of_mem he.mem⟩
  · simp only [M.bind_apply, thread_apply, M.ite_apply, hfail, Bool.false_and, Bool.false_eq_true, if_false, hp, ne_eq, not_true_eq_false,
      updTh_apply, upd_apply, finish_apply]
    rfl
  · rw [State.me, he.turn]
    exact he.ready.trans (by rw [hcore])

/-! ### tyield (R194) -/

theorem execTyield_stays {f : FmtA} (ht : s.th.task = some k) (h : ∀ x ∈ s.me.ready, x.eff < k.eff) : ∃ t, execTyield f s = .next t
    ∧ Completes { warn := if f.lk = 0 then [] else [.lkig] } s t := by
  refine ⟨_, run_ok (t := s.modTh (·.lkIgnored f.lk)) ?_, completes_lkIgnored⟩
  simp only [M.bind_apply, M.get_apply, updTh_apply, ht]
  cases hl : s.me.ready with
  | nil => rfl
  | cons x l =>
    have hx : ¬ k.eff ≤ x.eff := Nat.not_le.2 (h x (by simp [hl]))
    simp only [M.ite_apply, hx, if_false, M.pure_apply]

theorem execTyield_leaves {f : FmtA} {x : Task} {l : List Task} (ht : s.th.task = some k) (hl : s.me.ready = x :: l) (hx : k.eff ≤ x.eff)
    (hc : 0 < field s.me.ctxbase 0 16) (hf : s.me.frames = []) (hlk : f.lk = 0) :
    ∃ t y, execTyield f s = .next t ∧ y ∈ t.me.ready ∧ t.me.ready.length = s.me.ready.length + 1 ∧ y.id = k.id
        ∧ y.pc = s.th.pc.add 4 ∧ y.frame = true ∧ t.th.task = none ∧ t.th.occ = .empty := by
  have hnext : (s.modTh (·.lkIgnored f.lk)).modTh Thread.next = s.modTh Thread.next := by
    simp [Thread.lkIgnored, hlk, State.modTh_eq]
  have hth : (s.modTh Thread.next).thAt s.turn = s.th.next := State.th_modTh s _
  have hcore : (s.modTh Thread.next).core s.turn.rank = { s.me with threads := s.me.threads.set s.turn.slot s.th.next } :=
    State.core_setThAt s s.turn _
  obtain ⟨u, y, hleave, hid, hpc, hframe, -, hu, -⟩ := leaveFull_first (s := s.modTh Thread.next) (w := s.turn) (k := k)
    (by rw [hth]; exact ht) (by rw [hcore]; exact hf) (by rw [hcore]; exact hc)
  rw [hth] at hleave
  generalize hv : u.setThAt s.turn s.th.next.emptied = v at hleave
  have hturn : v.turn = s.turn := by rw [← hv]; exact hu.turn
  have hready : (v.core s.turn.rank).ready = s.me.ready := by
    rw [← hv, State.core_setThAt]
    refine (hu.field Core.ready (fun _ => rfl) _).trans ?_
    rw [State.boundFirst, State.core_modCore, hcore]
  have hslot : v.thAt s.turn = s.th.next.emptied := by rw [← hv]; exact State.thAt_setThAt _ _ _
  obtain ⟨h, m, b, hthread⟩ := makeReady_thAt v s.turn.rank y s.turn
  have hqueue : (v.makeReady s.turn.rank y).me.ready = insertReady s.me.ready (v.asReady y) := by
    rw [State.me, makeReady_turn, hturn, makeReady_ready, hready]
  have hgone : (v.makeReady s.turn.rank y).th = { s.th.next.emptied with monHit := h, monWait := m, preempt := b } := by
    rw [State.th, makeReady_turn, hturn, hthread, hslot]
  refine ⟨v.makeReady s.turn.rank y, v.asReady y, run_done ?_, ?_, ?_, hid, ?_, hframe, congrArg Thread.task hgone, congrArg Thread.occ hgone⟩
  · simp only [M.bind_apply, M.get_apply, updTh_apply, ht, hl, hx, if_true, hnext]
    rw [show (s.modTh Thread.next).turn = s.turn from rfl, hleave]
    simp only [M.bind_apply, M.set_apply, finish_apply, hturn]
  · rw [hqueue]; exact mem_insertReady.2 (.inl rfl)
  · rw [hqueue]; exact length_insertReady _ _
  · exact hpc.trans (by rw [hth]; rfl)

end Sys2Proof.Machine
end

section
namespace Sys2Proof.Machine

/-- Settles O15: each member is run to the state that it leaves, and what a leave (`leavePark_record`, `leaveFull_first`) or an
end (`fenceFlush_endTask`) keeps of the core and its thread is read off there. -/
theorem tasksLeave : Obligations.TasksLeave := by
  unfold Obligations.TasksLeave
  refine ⟨?park, ?tend, ?tyield⟩
  case park =>
    intro e he f s
    obtain ⟨mig, hexec⟩ : ∃ mig, exec (e.1 f) s = park mig f s ∧ e.2 = mig := by
      simp only [List.mem_cons, List.not_mem_nil, or_false] at he
      rcases he with rfl | rfl <;> exact ⟨_, rfl, rfl⟩
    obtain ⟨hexec, hmig⟩ := hexec
    rw [hexec, hmig]
    exact ⟨park_ready, fun k hp ht ha hs hlk hd => park_leaves hp ht ha hs hlk hd⟩
  case tend =>
    exact fun f s k ht hfail => ⟨fun hp => execTend_waits ht hfail hp, fun hp hr hw hf hm => execTend_ends ht hfail hp hr hw hf hm⟩
  case tyield =>
    exact fun f s k ht => ⟨fun h => execTyield_stays ht h, fun x l hl hx hc hf hlk => execTyield_leaves ht hl hx hc hf hlk⟩

end Sys2Proof.Machine
end

section
/-! `spawn` and its top-ups (R27-R30, R192, R319). -/

namespace Sys2Proof.Machine

open Claims

variable {s : State} {k : Task}

/-! ### The live registers of a child (R28) -/

theorem getLsbD_foldl_setBit {w : Nat} (l : List Nat) (x : BitVec w) {i : Nat} (hi : i < w) :
    (l.foldl setBit x).getLsbD i = (x.getLsbD i || l.contains i) := by
  induction l generalizing x with
  | nil => simp
  | cons n l ih =>
    have hn : (setBit x n).getLsbD i = (x.getLsbD i || decide (n = i)) := by simpa [bit, hi] using bit_setBit x n i
    rw [List.foldl_cons, ih, hn, List.contains_cons, Bool.or_assoc]
    congr 2
    exact decide_eq_decide.2 eq_comm

/-- The registers that a mask names (R28). -/
def namedRegs (v : Word) : List Nat := (List.range 32).filter (fun n => n ≠ 0 && v.getLsbD n)

/-- A mask that names at most 16 registers is trimmed of none. -/
theorem trimLive_few {v : Word} (h : (namedRegs v).length ≤ 16) :
    (trimLive (BitVec.ofNat 32 v.toNat) none).1 = (namedRegs v).foldl setBit 0 := by
  have hwant : (List.range 32).filter (fun n => n ≠ 0
      && ((BitVec.ofNat 32 v.toNat).getLsbD n || decide ((none : Option Reg).map (·.val) = some n))) = namedRegs v :=
    List.filter_congr fun n hn => by
      have hlow : (BitVec.ofNat 32 v.toNat).getLsbD n = v.getLsbD n := by simp [List.mem_range.1 hn]
      rw [hlow]
      simp
  unfold trimLive
  dsimp only
  rw [hwant]
  simp [List.take_of_length_le h]

theorem savedRegs_trimLive (t : Thread) {v : Word} (h : (namedRegs v).length ≤ 16) :
    t.savedRegs (trimLive (BitVec.ofNat 32 v.toNat) none).1 = (namedRegs v).map (fun n => t.regs.getD n .zero) := by
  rw [Thread.savedRegs, trimLive_few h]
  refine congrArg (List.map _) (List.filter_congr fun n hn => ?_)
  rw [getLsbD_foldl_setBit _ _ (List.mem_range.1 hn), List.contains_eq_mem]
  simp only [namedRegs, List.mem_filter, hn, true_and]
  simp

/-! ### spawn (R30, R192) -/

/-- The parent's thread as its child is made. -/
def Thread.spawns (t : Thread) (f : FmtA) : Thread :=
  (t.draw.1.warnIf .mask (trimLive (BitVec.ofNat 32 (t.val f.d).toNat) none).2).lkIgnored f.lk

theorem spawns_frame (t : Thread) (f : FmtA) : (t.spawns f).regs = t.regs ∧ (t.spawns f).pc = t.pc ∧ (t.spawns f).task = t.task
    ∧ (t.spawns f).srseed = srNext t.srseed := by
  unfold Thread.spawns Thread.warnIf
  split <;> simp [Thread.draw, Thread.touchC]

/-- The child of a task, as it is made with half the weight (R27-R29). -/
def State.child (s : State) (f : FmtA) (k : Task) : Task :=
  childTask (s.modTh (·.spawns f)) (some k) (s.th.get f.a) (s.th.val f.b) (trimLive (BitVec.ofNat 32 (s.th.val f.d).toNat) none).1
    (k.weight / 2)

/-- The parent's core and thread, before the child is ready. -/
def State.parted (s : State) (f : FmtA) (k : Task) : State :=
  ((s.modTh (·.spawns f)).modMe (fun c => { c with taskSeq := c.taskSeq + 1 })).modTh
    (fun t => { t with task := t.task.map (fun k' => { k' with weight := k.weight - k.weight / 2 }) })

theorem readyFull_of_short {c : Core} (h : c.ready.length < 64) : c.readyFull = false := by
  simp only [Core.readyFull, decide_eq_false_iff_not]
  omega

theorem execSpawn_makes {f : FmtA} (ht : s.th.task = some k) (ha : (s.th.get f.a).v.toNat % 4 = 0) (hw : 2 ≤ k.weight)
    (hl : s.me.ready.length < 64) :
    execSpawn f s = .next (((s.parted f k).makeReady s.turn.rank (s.child f k)).modTh Thread.next) := by
  have hth : (s.modTh (·.spawns f)).th = s.th.spawns f := State.th_modTh s _
  refine run_ok ?_
  simp only [M.bind_apply, M.get_apply, ha, ne_eq, not_true_eq_false, if_false, readyFull_of_short hl, Bool.false_eq_true, ht,
    show k.weight ≠ 1 by omega, show k.weight ≠ 0 by omega, updTh_apply, upd_apply, M.ite_apply]
  rfl

theorem parted_core (f : FmtA) (k : Task) : ((s.parted f k).core s.turn.rank).ready = s.me.ready := by
  unfold State.parted State.modTh State.setTh State.modMe
  simp [State.core_setThAt, State.me]

theorem nextTaskId_toNat (c : Core) (r : Nat) : (c.nextTaskId r).toNat = r % 2 ^ 16 * 2 ^ 48 + c.taskSeq % 2 ^ 48 := by
  rw [Core.nextTaskId, word, BitVec.toNat_ofNat, Nat.mod_eq_of_lt (by omega)]
  norm_num

theorem thAt_taskSeq (s : State) (w : Turn) : (s.modMe (fun c => { c with taskSeq := c.taskSeq + 1 })).thAt w = s.thAt w :=
  thAt_modCore rfl w

theorem parted_th (f : FmtA) (ht : s.th.task = some k) :
    (s.parted f k).th = { s.th.spawns f with task := some { k with weight := k.weight - k.weight / 2 } } := by
  have hmid : ((s.modTh (·.spawns f)).modMe (fun c => { c with taskSeq := c.taskSeq + 1 })).th = s.th.spawns f :=
    (thAt_taskSeq _ _).trans (State.th_modTh s _)
  obtain ⟨-, -, htask, -⟩ := spawns_frame s.th f
  rw [State.parted, State.th_modTh, hmid, htask, ht]
  rfl

theorem childTask_shares (s : State) (o : Option Task) (target : Ptr) (arg : Word) (live : BitVec 32) (w : Nat) :
    (childTask s o target arg live w).prio = o.elim 7 (·.prio) ∧ (childTask s o target arg live w).join = o.elim 0 (·.join)
      ∧ (childTask s o target arg live w).launch = o.elim 0xFFFFFFFF (·.launch) := by
  cases o <;> exact ⟨rfl, rfl, rfl⟩

theorem childTask_own (s : State) (o : Option Task) (target : Ptr) (arg : Word) (live : BitVec 32) (w : Nat) :
    (childTask s o target arg live w).pc = target ∧ (childTask s o target arg live w).arg = arg ∧ (childTask s o target arg live w).weight = w
      ∧ (childTask s o target arg live w).origin = s.turn.rank % 0x10000
      ∧ (childTask s o target arg live w).id = s.me.nextTaskId s.turn.rank
      ∧ (childTask s o target arg live w).regs = s.th.savedRegs live
      ∧ (childTask s o target arg live w).srseed = s.th.srseed ^^^ spawnSeed := ⟨rfl, rfl, rfl, rfl, rfl, rfl, rfl⟩

theorem child_fields (f : FmtA) (k : Task) (h : (namedRegs (s.th.val f.d)).length ≤ 16) {c : Task} (hc : s.child f k = c) :
    c.pc = s.th.get f.a ∧ c.arg = s.th.val f.b ∧ c.weight = k.weight / 2 ∧ c.prio = k.prio ∧ c.join = k.join ∧ c.launch = k.launch
      ∧ c.origin = s.turn.rank % 2 ^ 16 ∧ c.id.toNat = s.turn.rank % 2 ^ 16 * 2 ^ 48 + s.me.taskSeq % 2 ^ 48
      ∧ c.regs = (namedRegs (s.th.val f.d)).map (fun n => s.th.regs.getD n .zero) ∧ c.srseed = srNext s.th.srseed ^^^ spawnSeed := by
  have hth : (s.modTh (·.spawns f)).th = s.th.spawns f := State.th_modTh s _
  have hseq : (s.modTh (·.spawns f)).me.taskSeq = s.me.taskSeq := by
    have hcore : (s.modTh (·.spawns f)).core s.turn.rank = _ := State.core_setThAt s s.turn (s.th.spawns f)
    show ((s.modTh (·.spawns f)).core s.turn.rank).taskSeq = s.me.taskSeq
    rw [hcore]
    rfl
  obtain ⟨hprio, hjoin, hlaunch⟩ := childTask_shares (s.modTh (·.spawns f)) (some k) (s.th.get f.a) (s.th.val f.b)
    (trimLive (BitVec.ofNat 32 (s.th.val f.d).toNat) none).1 (k.weight / 2)
  obtain ⟨hpc, harg, hweight, horigin, hid, hregs, hseed⟩ := childTask_own (s.modTh (·.spawns f)) (some k) (s.th.get f.a) (s.th.val f.b)
    (trimLive (BitVec.ofNat 32 (s.th.val f.d).toNat) none).1 (k.weight / 2)
  rw [show childTask _ _ _ _ _ _ = c from hc] at hprio hjoin hlaunch hpc harg hweight horigin hid hregs hseed
  obtain ⟨hspawned, -, -, hdrawn⟩ := spawns_frame s.th f
  refine ⟨hpc, harg, hweight, hprio, hjoin, hlaunch, horigin.trans (by norm_num), ?_, ?_, ?_⟩
  · rw [hid, nextTaskId_toNat, hseq]; rfl
  · rw [hregs, hth, savedRegs_trimLive _ h, hspawned]
  · rw [hseed, hth, hdrawn]

/-- The state that `spawn` leaves: the child in the queue, half the weight with the parent. -/
theorem execSpawn_child {f : FmtA} (ht : s.th.task = some k) (ha : (s.th.get f.a).v.toNat % 4 = 0) (hw : 2 ≤ k.weight)
    (hl : s.me.ready.length < 64) :
    ∃ t, execSpawn f s = .next t ∧ t.me.ready = insertReady s.me.ready ((s.parted f k).asReady (s.child f k))
      ∧ t.th.srseed = srNext s.th.srseed ∧ t.th.task = some { k with weight := k.weight - k.weight / 2 } ∧ t.th.regs = s.th.regs
      ∧ t.th.pc = s.th.pc.add 4 ∧ t.mem = s.mem := by
  have hready := parted_core (s := s) f k
  have hqueue := makeReady_ready (s.parted f k) s.turn.rank (s.child f k)
  obtain ⟨hmem, hthread⟩ := makeReady_short (s := s.parted f k) (r := s.turn.rank) (by rw [hready]; exact hl) (s.child f k)
  obtain ⟨b, hb⟩ := hthread s.turn
  rw [show (s.parted f k).thAt s.turn = (s.parted f k).th from rfl, parted_th f ht] at hb
  have hturn := makeReady_turn (s.parted f k) s.turn.rank (s.child f k)
  obtain ⟨hregs, hpc, -, hseed⟩ := spawns_frame s.th f
  have hnext : ((s.parted f k).makeReady s.turn.rank (s.child f k)).th
      = { s.th.spawns f with task := some { k with weight := k.weight - k.weight / 2 }, preempt := b } := by
    rw [State.th, hturn]; exact hb
  have hth := (State.th_modTh ((s.parted f k).makeReady s.turn.rank (s.child f k)) Thread.next).trans (congrArg Thread.next hnext)
  refine ⟨_, execSpawn_makes ht ha hw hl, ?_, by rw [hth]; exact hseed, by rw [hth]; rfl, by rw [hth]; exact hregs,
    by rw [hth]; exact congrArg (Ptr.add · 4) hpc, hmem⟩
  rw [← hready, ← hqueue]
  exact (congrArg Core.ready (State.core_setThAt _ _ _)).trans (by rw [hturn]; rfl)

theorem execSpawn_misaligned {f : FmtA} (ha : (s.th.get f.a).v.toNat % 4 ≠ 0) (hmay : MayTrap s) :
    ∃ t, execSpawn f s = .next t ∧ TrapEntry {} s t .misalign (s.th.val f.a) 0 := by
  refine trap_entry hmay (k := 0) ?_
  simp only [M.bind_apply, M.get_apply, ha, ne_eq, not_false_eq_true, if_true, raise_apply]
  rfl

/-- A parent of weight 1 asks for a top-up, once, and waits (R30). -/
theorem execSpawn_asks {f : FmtA} (ht : s.th.task = some k) (ha : (s.th.get f.a).v.toNat % 4 = 0) (hw : k.weight = 1)
    (hl : s.me.ready.length < 64) :
    ∃ t, execSpawn f s = .next t ∧ t.th.pc = s.th.pc ∧ t.me.ready = s.me.ready ∧ t.th.topup = true
      ∧ t.msgs = (if s.th.topup then s.msgs else s.msgs ++ [.topup k.launch s.turn]) := by
  have hcore (u : State) (f : Thread → Thread) : (u.modTh f).me.ready = u.me.ready := by
    have h : (u.modTh f).core u.turn.rank = _ := State.core_setThAt u u.turn (f u.th)
    show ((u.modTh f).core u.turn.rank).ready = u.me.ready
    rw [h]
    rfl
  cases hasked : s.th.topup with
  | true =>
    refine ⟨_, run_stall (t := s) ?_, by rw [State.th_modTh]; rfl, hcore _ _, by rw [State.th_modTh]; exact hasked, rfl⟩
    simp only [M.bind_apply, M.get_apply, ha, ne_eq, not_true_eq_false, if_false, readyFull_of_short hl, Bool.false_eq_true, ht, hw, if_true,
      hasked, Bool.not_true, stall_apply]
  | false =>
    have hth : (s.modTh (fun t => { t with topup := true })).th = { s.th with topup := true } := State.th_modTh s _
    generalize hu : s.modTh (fun t => { t with topup := true }) = u at hth
    have hready : u.me.ready = s.me.ready := by rw [← hu]; exact hcore _ _
    refine ⟨_, run_stall (t := { u with msgs := u.msgs ++ [.topup k.launch s.turn] }) ?_, ?_, (hcore _ _).trans hready, ?_, ?_⟩
    · simp only [M.bind_apply, M.get_apply, ha, ne_eq, not_true_eq_false, if_false, readyFull_of_short hl, Bool.false_eq_true, ht, hw, if_true,
        hasked, Bool.not_false, updTh_apply, upd_apply, stall_apply, hu]
      rw [hth, ← hu]
      simp only [ht]
      rfl
    · rw [State.th_modTh]
      show u.th.pc = s.th.pc
      rw [hth]
    · rw [State.th_modTh]
      show u.th.topup = true
      rw [hth]
    · rw [← hu]; rfl

/-! ### Top-ups (R30, R319) -/

theorem putTerm_stores (s : State) (n : Nat) (m : Term) :
    VaultStores ({ s with terms := insert s.terms n m } : State) (s.putTerm n m) := by
  unfold State.putTerm
  dsimp only
  split
  · exact .store _ _ _ _ _
  · exact .refl _

/-- A termination record is put into the table, and into the pool by one store of the hardware. -/
theorem putTerm_put (s : State) (n : Nat) (m : Term) : TermPut s (s.putTerm n m) n m := by
  have hstores := putTerm_stores s n m
  refine ⟨?terms, by rw [hstores.rest], fun w => ?calm, fun x hs hx hz => ?pool⟩
  case terms => rw [hstores.rest]; exact lookup_insert_self _ _ _
  case calm =>
    obtain ⟨h, m', hw, he⟩ := hstores.woken w
    exact ⟨h, _, m', hw, he⟩
  case pool =>
    refine stored_writeN (l := termLoc x n) hs ?_
    have hput : s.putTerm n m = ({ s with terms := insert s.terms n m } : State).store noBehalf (termLoc x n) 32 m.bytes := by
      unfold State.putTerm
      dsimp only
      rw [show State.part { s with terms := insert s.terms n m } m.part = some x from hx]
      rfl
    rw [hput]
    exact (store_plain _ noBehalf (termLoc x n) 32 m.bytes rfl fun _ => by
      show (s.core x.spec.sys).vault.zero.find? _ = none
      rw [hz]; rfl).1

theorem execTopupMessage_adds {l : List Msg} {n : Nat} {w : Turn} {m : Term} (hl : s.msgs = .topup n w :: l) (hm : lookup s.terms n = some m) :
    ∃ t, execTopupMessage s = .next t ∧ t.msgs = l ++ [.topupAck w] ∧ TermPut s t n { m with outw := m.outw + 2 ^ 63 } := by
  have hput := putTerm_put { s with msgs := l ++ [.topupAck w] } n { m with outw := m.outw + 2 ^ 63 }
  refine ⟨_, ?_, ?_, hput⟩
  · simp only [execTopupMessage, hl, takeFirst, if_true, hm]
  · rw [(putTerm_stores _ _ _).rest]

/-- A task that has its top-up (R30). -/
def Thread.toppedUp (t : Thread) : Thread :=
  { t with topup := false, task := t.task.map (fun k => { k with weight := k.weight + 2 ^ 63 }) }

theorem execSpawnTopupAck_adds {l : List Msg} {r n : Nat} (hl : s.msgs = .topupAck (slotAt r n) :: l)
    (ht : (s.thAt (slotAt r n)).task = some k) :
    ∃ t, execSpawnTopupAck r n s = .next t ∧ t.msgs = l ∧ OthersKept s t (slotAt r n) ∧ Untouched s t
      ∧ t.thAt (slotAt r n) = { s.thAt (slotAt r n) with topup := false, task := some { k with weight := k.weight + 2 ^ 63 } } := by
  refine ⟨({ s with msgs := l } : State).modThAt (slotAt r n) (·.toppedUp), ?_, rfl, othersKept_modThAt _ _ _,
    untouched_of_mem rfl, (State.thAt_modThAt _ _ _).trans ?_⟩
  · have hw : (⟨r, Fin.ofNat 5 n⟩ : Turn) = slotAt r n := rfl
    simp only [execSpawnTopupAck, hl, hw, takeFirst, decide_true, if_true]
    rfl
  · show (s.thAt (slotAt r n)).toppedUp = _
    rw [Thread.toppedUp, ht]
    rfl

end Sys2Proof.Machine
end

section
namespace Sys2Proof.Machine

/-- Settles O44: `spawn` is run to the state that holds the child (`execSpawn_child`) and to the one that waits
(`execSpawn_asks`); the two messages of a top-up change one record and one task. -/
theorem spawnCreates : Obligations.SpawnCreates := by
  unfold Obligations.SpawnCreates
  refine ⟨?child, fun f s => ⟨?misaligned, ?waits⟩, fun s l => ⟨?message, ?ack⟩⟩
  case child =>
    intro f s k ht ha hw hl hlive
    obtain ⟨t, hrun, hready, hseed, htask, hregs, hpc, hmem⟩ := execSpawn_child (f := f) ht ha hw hl
    obtain ⟨cpc, carg, cweight, cprio, cjoin, claunch, corigin, cid, cregs, cseed⟩ := child_fields f k hlive rfl
    refine ⟨t, (s.parted f k).asReady (s.child f k), hrun, ?_, ?_, fun x hx => ?_, cpc, carg, cweight, cprio, cjoin, claunch, corigin, cid,
      cregs, cseed, hseed, ⟨_, htask, rfl⟩, hregs, hpc, untouched_of_mem hmem⟩
    · rw [hready]; exact mem_insertReady.2 (.inl rfl)
    · rw [hready, length_insertReady]
    · rw [hready]; exact mem_insertReady.2 (.inr hx)
  case misaligned => exact fun ha hmay => execSpawn_misaligned ha hmay
  case waits => exact fun k ht ha hw hl => execSpawn_asks ht ha hw hl
  case message => exact fun n w m hl hm => execTopupMessage_adds hl hm
  case ack => exact fun r n k hn hl ht => execSpawnTopupAck_adds hl ht

end Sys2Proof.Machine
end

section
/-! Tasks are placed, age, are pre-empted, time out and fail (R29, R34, R35, R306-R309, R325, R326). -/

namespace Sys2Proof.Machine

open Claims

variable {s : State} {r n : Nat} {k : Task}

/-! ### Placement (R29, R35) -/

theorem restoreRegs_none (v : Vector Ptr 32) (l : List Ptr) : restoreRegs v 0 l = v := by
  simp [restoreRegs]

theorem thstatPlaced_fields (w : Word) : field (thstatPlaced w) 8 2 = 0 ∧ bit (thstatPlaced w) 5 = false := by
  constructor
  · simp only [thstatPlaced]
    rw [field_withField_ne _ (by omega) (by omega), field_withField _ (by omega)]
    rfl
  · have h := field_testBit (thstatPlaced w) 5 1 0
    rw [thstatPlaced, field_withField _ (by omega)] at h
    simpa [thstatPlaced] using h.symm

theorem takeFirst_none {α : Type} {p : α → Bool} : ∀ {l : List α}, (∀ x ∈ l, p x = false) → takeFirst p l = none
  | [], _ => rfl
  | x :: l, h => by
    simp [takeFirst, h x (by simp), takeFirst_none (fun y hy => h y (List.mem_cons_of_mem x hy))]

/-- Where every parked task waits, none is let into the ready queue. -/
theorem releaseHeld_waiting (h : ∀ y ∈ (s.core r).parked, y.wait ≠ .none) : s.releaseHeld r = s := by
  have hnone : takeFirst (fun (k : Task) => decide (k.wait = .none)) (s.core r).parked = none :=
    takeFirst_none fun y hy => decide_eq_false (h y hy)
  simp only [State.releaseHeld, hnone]
  split <;> rfl

theorem mem_taskSlots (hn : n < 4) (h : s.runtimeSlot r n = false) : (s.taskSlots r).contains (Fin.ofNat 5 n) = true := by
  have hval : (Fin.ofNat 5 n).val = n := Nat.mod_eq_of_lt (by omega)
  simp only [State.taskSlots, List.contains_iff_mem, List.mem_filter, hval, h, Bool.not_false, and_true]
  interval_cases n <;> decide

/-- The thread of a slot that a fresh task enters (R29). -/
theorem placed_begun (a : Thread) (now : Nat) (hl : k.live = 0) (hb : k.bound = none) (hs : k.src ≠ .resume) : Begun k (a.placed k now) := by
  have hregs : (a.placed k now).regs = (((((Vector.replicate 32 Ptr.zero).set 2 stackTop).set 4 (.int k.arg)).set 5 (.int k.s5)).set 6
      (.int k.s6)).set 7 (.int k.s7) := by
    show restoreRegs k.initialRegs k.live k.regs = _
    rw [hl, restoreRegs_none, Task.initialRegs]
    cases hsrc : k.src <;> simp_all
  obtain ⟨hmode, htrap⟩ := thstatPlaced_fields a.thstat
  exact
    { pc := ⟨rfl, rfl, hmode, htrap⟩
      stack := by simp [Thread.get, hregs, stackTop]
      args := by simp [Thread.get, hregs]
      others := fun r h2 hr => by
        have h2' : r.val ≠ 2 := fun h => h2 (Fin.ext h)
        simp [Thread.get, hregs, show 2 ≠ r.val by omega, show 4 ≠ r.val by omega, show 5 ≠ r.val by omega,
          show 6 ≠ r.val by omega, show 7 ≠ r.val by omega]
      vector := ⟨fun r => by simp [Thread.vget, Thread.placed], fun m hm => by simp [Thread.mget, Thread.placed, hm]⟩
      special := ⟨rfl, by simp [Thread.placed, Task.boundWarn, hb], rfl, rfl, BitVec.eq_of_toNat_eq (by simp [Thread.placed, word]), rfl, rfl, rfl⟩
      task := ⟨_, rfl, rfl, rfl⟩ }

theorem execSlotPlacement_begins {l : List Task} (hn : n < 4) (hr : (s.core r).ready = k :: l) (hlen : l.length ≤ 64)
    (hocc : (s.thAt (slotAt r n)).occ = .empty) (hrun : s.runtimeSlot r n = false) (hresv : (s.band (r / 16)).resv = none)
    (hpow : (s.band (r / 16)).power = 0) (hpark : ∀ y ∈ (s.core r).parked, y.wait ≠ .none) (hf : k.frame = false) (hl : k.live = 0)
    (hb : k.bound = none) (hs : k.src ≠ .resume) :
    ∃ t, execSlotPlacement r n s = .next t ∧ (t.core r).ready = l ∧ Begun k (t.thAt (slotAt r n)) ∧ OthersKept s t (slotAt r n)
      ∧ Untouched s t := by
  have hplace : s.placeable r (Fin.ofNat 5 n) = true := by
    simp only [State.placeable, mem_taskSlots hn hrun, show (s.thAt ⟨r, Fin.ofNat 5 n⟩).occ = .empty from hocc, hresv, hpow, hr]
    rfl
  have hth := thAt_modCore (s := s) (r := r) (f := fun c => { c with ready := l }) rfl
  generalize hu : s.modCore r (fun c => { c with ready := l }) = u at hth
  have hset : s.setReady r l = u := (setReady_short hlen).trans hu
  have hplaced : u.placeTask (slotAt r n) k = u.setThAt (slotAt r n) ((s.thAt (slotAt r n)).placed k s.cycle.toNat) := by
    simp only [State.placeTask, hf, Bool.false_eq_true, if_false, hth]
    rw [← hu]; rfl
  generalize hv : u.setThAt (slotAt r n) ((s.thAt (slotAt r n)).placed k s.cycle.toNat) = v at hplaced
  have hcore : v.core r = { s.core r with ready := l, threads := (v.core r).threads } := by
    rw [← hv, core_setThAt_threads, ← hu, State.core_modCore]
  refine ⟨v, ?_, ?_, ?_, ?_, ?_⟩
  · simp only [execSlotPlacement, releaseHeld_waiting hpark, hplace, if_true, hr, hset]
    rw [show (⟨r, Fin.ofNat 5 n⟩ : Turn) = slotAt r n from rfl, hplaced, releaseHeld_waiting]
    rw [hcore]; exact hpark
  · rw [hcore]
  · rw [← hv, State.thAt_setThAt]
    exact placed_begun _ _ hl hb hs
  · intro x hx
    rw [← hv, State.thAt_setThAt_ne _ _ hx, hth]
  · rw [← hv, ← hu]; exact untouched_of_mem rfl

/-! ### Aging (R34) -/

theorem setReady_one (x : Task) : s.setReady r [x] = s.modCore r (fun c => { c with ready := [x] }) := setReady_short (by simp)

theorem execPriorityAging_promotes (hr : (s.core r).ready = [k]) (hd : k.since + 2 ^ 20 * (k.aged + 1) ≤ s.cycle.toNat)
    (hp : min 7 (k.prio + k.aged) < 7) :
    ∃ t, execPriorityAging r k.id s = .next t ∧ (t.core r).ready = [{ k with aged := k.aged + 1 }] ∧ Untouched s t ∧ Calm s t := by
  have hdue : s.agingDue k = true := Bool.and_eq_true_iff.2 ⟨decide_eq_true hd, decide_eq_true hp⟩
  refine ⟨s.modCore r (fun c => { c with ready := [{ k with aged := k.aged + 1 }] }), ?_, by rw [State.core_modCore], untouched_of_mem rfl,
    fun w => ⟨_, _, _, (thAt_modCore rfl w).trans rfl, rfl⟩⟩
  simp only [execPriorityAging, hr, takeFirst, decide_true, if_true, hdue]
  exact congrArg Host.Outcome.next (setReady_one _)

/-! ### Pre-emption (R306, R308, R309) -/

theorem preemptible_of_leaves {w : Turn} (h : Leaves (s.thAt w) k) (hf : (s.core w.rank).frames = [])
    (hc : 0 < field (s.core w.rank).ctxbase 0 16) : s.preemptible w = true := by
  obtain ⟨htask, -, hocc⟩ := h.task
  obtain ⟨hmode, htrap⟩ := h.mode
  obtain ⟨-, hreplay, hfail, hmon, htop, hfault, hpre⟩ := h.idle
  obtain ⟨htherm, hirq⟩ := h.calm
  have hdue : (s.thAt w).boundaryDue = false := by
    simp [Thread.boundaryDue, Thread.nextInterrupt, htherm, hirq, bit]
  obtain ⟨u, hu, -⟩ := bindFrame_first hf hc (s.thAt w).taskId
  simp [State.preemptible, htask, hocc, hmode, htrap, hreplay, hfail, hmon, htop, hfault, hpre, hdue, hu]

theorem execPreEmption_leaves {w : Turn} (hw : w = slotAt r n) (h : Leaves (s.thAt w) k) (hf : (s.core r).frames = [])
    (hc : 0 < field (s.core r).ctxbase 0 16) (hr : (s.core r).ready = []) (hd : (s.thAt w).dirty = 0) :
    ∃ t y, execPreEmption r n s = .next t ∧ (t.thAt w).occ = .empty ∧ (t.thAt w).task = none ∧ (t.core r).ready = [y] ∧ y.id = k.id
      ∧ y.pc = (s.thAt w).pc ∧ y.frame = true ∧ y.wait = .none ∧ (t.core r).frames = [(0, k.id)] ∧ OthersMet s t w := by
  obtain rfl : w.rank = r := by rw [hw]; rfl
  obtain ⟨htask, hgang, -⟩ := h.task
  obtain ⟨hout, -⟩ := h.idle
  obtain ⟨u, y, hleave, hid, hpc, hframe, hyg, -, hstores⟩ := leaveFull_first htask hf hc
  have hv := hstores hd
  have hcore := hv.core w.rank
  rw [State.boundFirst, State.core_modCore] at hcore
  generalize hx : u.setThAt w (s.thAt w).emptied = x at hleave
  have hxcore := core_setThAt_threads u w (s.thAt w).emptied w.rank
  rw [hx, hcore] at hxcore
  have hready : (x.core w.rank).ready = [] := by rw [hxcore]; exact hr
  have hleft : s.preemptNow w = x.modCore w.rank (fun c => { c with ready := [{ y with since := x.cycle.toNat, aged := 0, wait := .none }] }) := by
    simp only [State.preemptNow, hleave, hyg, hgang, hready, insertHead]
    exact setReady_one _
  have hslot : ∀ v, (s.preemptNow w).thAt v = x.thAt v := fun v => by rw [hleft]; exact thAt_modCore rfl v
  have hgone : (s.preemptNow w).thAt w = (s.thAt w).emptied := by rw [hslot, ← hx, State.thAt_setThAt]
  refine ⟨s.preemptNow w, { y with since := x.cycle.toNat, aged := 0, wait := .none }, ?_, congrArg Thread.occ hgone, congrArg Thread.task hgone,
    ?_, hid, hpc, hframe, rfl, ?_, fun v hne => ?_⟩
  · rw [execPreEmption, show (⟨w.rank, Fin.ofNat 5 n⟩ : Turn) = w from hw.symm, State.preemptStep, preemptible_of_leaves h hf hc]
    simp only [hout, Bool.not_true, Bool.false_eq_true, if_false]
    rfl
  · rw [hleft, State.core_modCore]
  · rw [hleft, State.core_modCore, hxcore]
  · obtain ⟨h', m, he, hm⟩ := hv.woken v
    rw [State.boundFirst, thAt_modCore rfl] at he hm
    exact ⟨h', m, by rw [hslot, ← hx, State.thAt_setThAt_ne _ _ hne, he], hm⟩

/-! ### The watchdog (R326) -/

theorem execTaskWatchdogExpiry_fails {w : Turn} (hw : w = slotAt r n) (ht : (s.thAt w).task = some k) (hz : k.wdog ≠ 0)
    (ho : k.wdog * 2 ^ 16 < k.ran + (s.cycle.toNat - k.since)) (hout : (s.thAt w).outst = []) (hf : (s.thAt w).failing = none) :
    ∃ t, execTaskWatchdogExpiry r n s = .next t ∧ t.thAt w = { s.thAt w with failing := some 0x14 } ∧ OthersKept s t w ∧ Untouched s t := by
  have hdue : s.watchdogDue w = true := by
    simp only [State.watchdogDue, State.watchdogOver, ht, hf, hout, Option.isNone_none, decide_eq_true hz, decide_eq_true ho, decide_true,
      Bool.and_self]
  refine ⟨s.modThAt w (·.failWith (Cause.byte .watchdog)), ?_, State.thAt_modThAt _ _ _, othersKept_modThAt _ _ _, untouched_of_mem rfl⟩
  rw [execTaskWatchdogExpiry, show (⟨r, Fin.ofNat 5 n⟩ : Turn) = w from hw.symm]
  simp only [hdue, if_true]

/-! ### Failure (R325) -/

theorem failJoin_quiet {x : BitVec 16} {c : BitVec 8} {j : Nat} (hx : bit x 15 = true) (hj : j = field x 0 14)
    (hm : ∀ y ∈ s.msgs, y.forJoin j = false) :
    s.failJoin x c false = { s with joins := insert s.joins j (counterFail (s.join j) c) } := by
  have hnone : s.msgs.filter (·.forJoin j) = [] := List.filter_eq_nil_iff.2 fun y hy => by simp [hm y hy]
  have hsettle : s.settleJoin j = s := by simp only [State.settleJoin, hnone, if_true]
  simp only [State.failJoin, joinIndex, hx, if_true, ← hj, hsettle, Bool.false_eq_true, if_false]

theorem freezeQueue_unbound {q : Nat} (hz : (s.queue q).frozen = false) (hb : (s.queue q).bound = none) (c : BitVec 8) :
    s.freezeQueue q c = s.setQueue q { s.queue q with frozen := true, fcause := c } := by
  simp only [State.freezeQueue, hz, hb, Bool.false_eq_true, if_false]

theorem queue_putTerm (s : State) (launch : Nat) (m : Term) (q : Nat) : (s.putTerm launch m).queue q = s.queue q := by
  rw [(putTerm_stores s _ _).rest]
  rfl

/-- What the first failure of a launch leaves that no redundant launch made (R318, R319, R325, R327): the poisoned join
counter, the termination record, and the queue that freezes. -/
structure FailureHeard (s t : State) (launch j : Nat) (c : BitVec 8) (m : Term) : Prop where
  join : t.join j = counterFail (s.join j) c
  msgs : t.msgs = s.msgs
  term : lookup t.terms launch = some { m with failed := true, cause := c }
  frozen : (t.queue m.queue).frozen = true ∧ (t.queue m.queue).fcause = c
  woken : ∀ w, Woken (s.thAt w) (t.thAt w)
  pool : ∀ x, Inv s → s.part m.part = some x → (s.core x.spec.sys).vault.zero = [] →
    Stored s t (termLoc x launch) 32 { m with failed := true, cause := c }.bytes

theorem reportFailure_heard {launch j : Nat} {c : BitVec 8} {m : Term} (hl : lookup s.terms launch = some m) (hc : m.copy = none)
    (hf : m.failed = false) (hx : bit m.signal 15 = true) (hj : j = field m.signal 0 14) (hm : ∀ y ∈ s.msgs, y.forJoin j = false)
    (hz : (s.queue m.queue).frozen = false) (hb : (s.queue m.queue).bound = none) :
    FailureHeard s (s.reportFailure launch c) launch j c m := by
  have hrep : s.reportFailure launch c = (({ s with joins := insert s.joins j (counterFail (s.join j) c) } : State).putTerm launch
      { m with failed := true, cause := c }).setQueue m.queue { s.queue m.queue with frozen := true, fcause := c } := by
    simp only [State.reportFailure, hl, hc, hf, Bool.false_eq_true, if_false, failJoin_quiet hx hj hm]
    rw [freezeQueue_unbound (by rw [queue_putTerm]; exact hz) (by rw [queue_putTerm]; exact hb), queue_putTerm]
    rfl
  rw [hrep]
  have hstores := putTerm_stores { s with joins := insert s.joins j (counterFail (s.join j) c) } launch { m with failed := true, cause := c }
  obtain ⟨hterm, -, -, hpool⟩ := putTerm_put { s with joins := insert s.joins j (counterFail (s.join j) c) } launch
    { m with failed := true, cause := c }
  generalize ({ s with joins := insert s.joins j (counterFail (s.join j) c) } : State).putTerm launch { m with failed := true, cause := c } = u
    at hstores hterm hpool ⊢
  exact
    { join := by
        have hjoins : u.joins = insert s.joins j (counterFail (s.join j) c) := by rw [hstores.rest]
        show (lookup u.joins j).getD 0 = _
        rw [hjoins, lookup_insert_self, Option.getD_some]
      msgs := by
        show u.msgs = s.msgs
        rw [hstores.rest]
      term := hterm
      frozen := by rw [State.queue_setQueue]; exact ⟨rfl, rfl⟩
      woken := hstores.woken
      pool := hpool }

/-- The thread of a failing task, as its launch hears of it (R325). -/
def Thread.failed (t : Thread) (k : Task) : Thread :=
  { t with occ := .draining, task := some { k with wait := .failed }, replay := none, monWait := none, waitSince := none }

/-- With nothing outstanding there is no transfer to stop. -/
theorem stopAll_nil {w : Turn} (h : (s.thAt w).outst = []) : ∃ f : Thread → Thread, s.stopAll w = s.modThAt w f
    ∧ ∀ t, (f t).occ = t.occ ∧ (f t).task = t.task := by
  unfold State.stopAll
  rw [h]
  exact ⟨_, rfl, fun _ => ⟨rfl, rfl⟩⟩

theorem removeStep_reports {w : Turn} {c : BitVec 8} (hf : (s.thAt w).failing = some c) (ht : (s.thAt w).task = some k) (hk : k.wait ≠ .failed) :
    s.removeStep w = some (((s.setThAt w ((s.thAt w).failed k)).reportFailure k.launch c).stopAll w) := by
  simp only [State.removeStep, Thread.failed, hf, ht, hk, ne_eq, not_false_eq_true, if_true]

theorem execTaskFailureRemoval_reports {w : Turn} {c : BitVec 8} {m : Term} {x : Partition} {j : Nat} {l : Loc} (hw : w = slotAt r n)
    (hfail : (s.thAt w).failing = some c) (ht : (s.thAt w).task = some k) (hk : k.wait ≠ .failed) (hout : (s.thAt w).outst = [])
    (hl : lookup s.terms k.launch = some m) (hc : m.copy = none) (hf : m.failed = false) (hx : bit m.signal 15 = true)
    (hj : j = field m.signal 0 14) (hm : ∀ y ∈ s.msgs, y.forJoin j = false) (hz : (s.queue m.queue).frozen = false)
    (hb : (s.queue m.queue).bound = none) (hs : Inv s) (hp : s.part m.part = some x) (hv : (s.core x.spec.sys).vault.zero = [])
    (hloc : l = vaultLoc x.spec.sys (x.spec.poolOff + 32 * (k.launch % 2 ^ 32))) :
    ∃ t y, execTaskFailureRemoval r n s = .next t ∧ (t.thAt w).occ = .draining ∧ (t.thAt w).task = some { k with wait := .failed }
      ∧ t.join j = (if bit (s.join j) 63 then s.join j else withField (setBit (s.join j) 63) 40 8 c.toNat) ∧ t.msgs = s.msgs
      ∧ lookup t.terms k.launch = some y ∧ y = { m with failed := true, cause := c } ∧ Stored s t l 32 y.bytes
      ∧ (t.queue m.queue).frozen = true ∧ (t.queue m.queue).fcause = c ∧ OthersMet s t w := by
  have hstep := removeStep_reports hfail ht hk
  obtain ⟨ht0, hothers⟩ : (s.setThAt w ((s.thAt w).failed k)).thAt w = (s.thAt w).failed k ∧ OthersKept s (s.setThAt w ((s.thAt w).failed k)) w :=
    ⟨State.thAt_setThAt _ _ _, fun v hne => State.thAt_setThAt_ne _ _ hne⟩
  have hzero : ((s.setThAt w ((s.thAt w).failed k)).core x.spec.sys).vault.zero = [] := by rw [core_setThAt_threads]; exact hv
  have hheard := reportFailure_heard (s := s.setThAt w ((s.thAt w).failed k)) (launch := k.launch) (c := c) hl hc hf hx hj hm hz hb
  generalize hu : s.setThAt w ((s.thAt w).failed k) = u at hstep ht0 hothers hzero hheard
  generalize u.reportFailure k.launch c = v at hstep hheard
  obtain ⟨g, q, hgq, -⟩ := hheard.woken w
  have hdrained : (v.thAt w).outst = [] ∧ (v.thAt w).occ = .draining ∧ (v.thAt w).task = some { k with wait := .failed } := by
    rw [hgq, ht0]
    exact ⟨hout, rfl, rfl⟩
  obtain ⟨hvout, hvocc, hvtask⟩ := hdrained
  obtain ⟨f, hstop, hfk⟩ := stopAll_nil hvout
  rw [hstop] at hstep
  have hslot : (v.modThAt w f).thAt w = f (v.thAt w) := State.thAt_modThAt _ _ _
  refine ⟨v.modThAt w f, { m with failed := true, cause := c }, ?_, ?_, ?_, ?_, ?_, hheard.term, rfl, ?_, hheard.frozen.1, hheard.frozen.2,
    fun y hne => ?_⟩
  · rw [execTaskFailureRemoval, show (⟨r, Fin.ofNat 5 n⟩ : Turn) = w from hw.symm]
    simp only [hfail, Option.isSome_some, if_true, hstep, Option.getD_some]
  · rw [hslot, (hfk _).1, hvocc]
  · rw [hslot, (hfk _).2, hvtask]
  · refine hheard.join.trans ?_
    rw [← hu]
    rfl
  · refine hheard.msgs.trans ?_
    rw [← hu]
    rfl
  · have hpool := hheard.pool x (by rw [← hu]; exact hs) (by rw [← hu]; exact hp) hzero
    rw [hloc]
    rw [← hu] at hpool
    exact hpool
  · obtain ⟨h', m', he, hm'⟩ := hheard.woken y
    rw [hothers y hne] at he hm'
    exact ⟨h', m', (othersKept_modThAt v w f y hne).trans he, hm'⟩

theorem execTaskFailureRemoval_ends {w : Turn} {c : BitVec 8} (hw : w = slotAt r n) (hfail : (s.thAt w).failing = some c)
    (ht : (s.thAt w).task = some k) (hk : k.wait = .failed) (hout : (s.thAt w).outst = []) (hp : (s.thAt w).pend = 0)
    (hr : (s.core r).redbuf = []) (hf : (s.core r).frames = []) (hm : (s.core r).mitten = .replicate 4 none) (hk0 : 0 < k.weight) :
    ∃ t, execTaskFailureRemoval r n s = .next t ∧ (t.thAt w).occ = .empty ∧ (t.thAt w).task = none
      ∧ t.msgs = s.msgs ++ [.weight k.launch k.weight] ∧ OthersKept s t w ∧ Untouched s t := by
  obtain rfl : w.rank = r := by rw [hw]; rfl
  have hth : (s.modCore w.rank (·.dropParticipant k.id)).thAt = s.thAt := funext fun x => thAt_modCore rfl x
  generalize hu : s.modCore w.rank (·.dropParticipant k.id) = u at hth
  have hcore : u.core w.rank = (s.core w.rank).dropParticipant k.id := by rw [← hu, State.core_modCore]
  have hend := fenceFlush_endTask (s := u) (w := w) (k := k) (by rw [hth]; exact ht) hk0 (by rw [hcore]; exact hr) (by rw [hcore]; exact hf)
    (by rw [hcore]; exact hm)
  have hstep : s.removeStep w = some ((u.fenceFlush w.rank 4).endTask w) := by
    simp only [State.removeStep, hfail, ht, hk, hout, hp, hu, ne_eq, not_true_eq_false, if_false, List.all_nil, decide_true, Bool.and_self, if_true]
  have hslot := hend.slot
  refine ⟨_, ?_, congrArg Thread.occ hslot, congrArg Thread.task hslot, ?_, fun x hx => ?_, untouched_of_mem ?_⟩
  · rw [execTaskFailureRemoval, show (⟨w.rank, Fin.ofNat 5 n⟩ : Turn) = w from hw.symm]
    simp only [hfail, Option.isSome_some, if_true, hstep, Option.getD_some]
  · rw [hend.msgs, ← hu]; rfl
  · rw [hend.others x hx, hth]
  · rw [hend.mem, ← hu]; rfl

end Sys2Proof.Machine
end

section
namespace Sys2Proof.Machine

/-- Settles O41: one lemma per event, each run to the state that it leaves; the leave with context is `leaveFull_first`, the
end of a task `fenceFlush_endTask`, and what a launch hears of a failure `reportFailure_heard`. -/
theorem taskEvents : Obligations.TaskEvents := by
  unfold Obligations.TaskEvents
  intro r n s w k hn hw
  refine ⟨?placement, ?aging, ?preemption, ?watchdog, ?failure, ?removal⟩
  case placement =>
    subst hw
    exact fun l hr hlen hocc hrun hresv hpow hpark hf hl hb hs => execSlotPlacement_begins hn hr hlen hocc hrun hresv hpow hpark hf hl hb hs
  case aging => exact fun hr hd hp => execPriorityAging_promotes hr hd hp
  case preemption => exact fun h hf hc hr hd => execPreEmption_leaves hw h hf hc hr hd
  case watchdog => exact fun ht hz ho hout hf => execTaskWatchdogExpiry_fails hw ht hz ho hout hf
  case failure =>
    exact fun c m x j l hfail ht hk hout hl hc hf hx hj hm hz hb hs hp hv hloc =>
      execTaskFailureRemoval_reports hw hfail ht hk hout hl hc hf hx hj hm hz hb hs hp hv hloc
  case removal => exact fun c hfail ht hk hout hp hr hf hm hk0 => execTaskFailureRemoval_ends hw hfail ht hk hout hp hr hf hm hk0

end Sys2Proof.Machine
end

section
/-! Issue arbitration (R20, R21), the refresh, bursts and repairs of a vault's DRAM (R89-R93, R362), and throttling (R387). -/

namespace Sys2Proof.Machine

open Claims

variable {s : State} {r n : Nat}

/-! ### The slot that issues next (R20, R21) -/

theorem val_ofNat {k : Nat} (h : k < 4) : (Fin.ofNat 5 k).val = k := Nat.mod_eq_of_lt (by omega)

theorem ofNat_val {x : Fin 5} : Fin.ofNat 5 x.val = x := Fin.ext (Nat.mod_eq_of_lt x.isLt)

theorem mem_readySlots {x : Fin 5} : x ∈ s.readySlots r ↔ x.val < 4 ∧ Ready s r x.val := by
  have hfour : ∀ x : Fin 5, x ∈ fourSlots ↔ x.val < 4 := by decide
  simp only [State.readySlots, List.mem_filter, hfour, Ready, slotAt, ofNat_val, Bool.and_eq_true, Bool.not_eq_true']

theorem readySlots_sorted (s : State) (r : Nat) : (s.readySlots r).Pairwise (· < ·) :=
  List.Pairwise.filter _ (by decide)

/-- The least element that satisfies a predicate is the first of a rising list. -/
theorem find?_least {l : List (Fin 5)} (hl : l.Pairwise (· < ·)) {p : Fin 5 → Bool} {x : Fin 5} (hx : x ∈ l) (hp : p x = true)
    (hmin : ∀ k ∈ l, k < x → p k = false) : l.find? p = some x := by
  induction l with
  | nil => cases hx
  | cons y l ih =>
    obtain ⟨hy, hl⟩ := List.pairwise_cons.1 hl
    rcases List.mem_cons.1 hx with rfl | hxl
    · exact List.find?_cons_of_pos hp
    · rw [List.find?_cons_of_neg (by simp [hmin y (by simp) (hy x hxl)])]
      exact ih hl hxl fun k hk => hmin k (List.mem_cons_of_mem y hk)

theorem max?_map_of_greatest {l : List (Fin 5)} {f : Fin 5 → Nat} {x : Fin 5} (hx : x ∈ l) (hmax : ∀ k ∈ l, f k ≤ f x) :
    (l.map f).max? = some (f x) :=
  List.max?_eq_some_iff.2 ⟨List.mem_map_of_mem hx, fun b hb => by
    obtain ⟨k, hk, rfl⟩ := List.mem_map.1 hb
    exact hmax k hk⟩

/-- The first of four searches that finds something. -/
theorem findSome?_four {α : Type} {f : Nat → Option α} {d : Nat} {x : α} (hd : d < 4) (hx : f d = some x) (hn : ∀ i, i < d → f i = none) :
    ([0, 1, 2, 3] : List Nat).findSome? f = some x := by
  interval_cases d <;> simp [hx, hn]

/-- A slot that has been passed 64 times and more goes first, the longest passed before the others (R21). -/
theorem pick_longest (hn : n < 4) (hr : Ready s r n) (hp : 64 ≤ passedOf (s.core r) n) (hmax : ∀ k, k < 4 → Ready s r k →
      passedOf (s.core r) k ≤ passedOf (s.core r) n ∧ (k < n → passedOf (s.core r) k < passedOf (s.core r) n)) :
    s.pick r = some (Fin.ofNat 5 n) := by
  have hmem : Fin.ofNat 5 n ∈ s.readySlots r := mem_readySlots.2 (by rw [val_ofNat hn]; exact ⟨hn, hr⟩)
  have hval : (s.core r).passed.getD (Fin.ofNat 5 n).val 0 = passedOf (s.core r) n := by rw [val_ofNat hn]; rfl
  have hgreatest : (((s.readySlots r).filter (fun k => decide (64 ≤ (s.core r).passed.getD k.val 0))).map
      (fun k => (s.core r).passed.getD k.val 0)).max? = some (passedOf (s.core r) n) := by
    rw [← hval]
    refine max?_map_of_greatest (List.mem_filter.2 ⟨hmem, ?_⟩) fun k hk => ?_
    · rw [hval]; exact decide_eq_true hp
    · obtain ⟨h4, hk⟩ := mem_readySlots.1 (List.mem_filter.1 hk).1
      rw [hval]
      exact (hmax _ h4 hk).1
  unfold State.pick
  simp only [hgreatest]
  refine find?_least (readySlots_sorted s r) hmem (decide_eq_true hval) fun k hk hlt => ?_
  obtain ⟨h4, hk⟩ := mem_readySlots.1 hk
  have hkn : k.val < n := by rw [← val_ofNat hn]; exact hlt
  exact decide_eq_false (Nat.ne_of_lt ((hmax _ h4 hk).2 hkn))

/-- Else the first of the highest priority from Rrp on goes (R21). -/
theorem pick_highest (hn : n < 4) (hr : Ready s r n) (hp : ∀ k, k < 4 → Ready s r k → passedOf (s.core r) k < 64)
    (hmax : ∀ k, k < 4 → Ready s r k → (s.thAt (slotAt r k)).issuePrio ≤ (s.thAt (slotAt r n)).issuePrio
      ∧ ((s.thAt (slotAt r k)).issuePrio = (s.thAt (slotAt r n)).issuePrio → fromRrp (s.core r) n ≤ fromRrp (s.core r) k)) :
    s.pick r = some (Fin.ofNat 5 n) := by
  have hmem : Fin.ofNat 5 n ∈ s.readySlots r := mem_readySlots.2 (by rw [val_ofNat hn]; exact ⟨hn, hr⟩)
  have hnone : (s.readySlots r).filter (fun k => decide (64 ≤ (s.core r).passed.getD k.val 0)) = [] :=
    List.filter_eq_nil_iff.2 fun k hk => by
      obtain ⟨h4, hk⟩ := mem_readySlots.1 hk
      have := hp _ h4 hk
      simpa [passedOf] using this
  have hprio : ((s.readySlots r).map (fun k => (s.thAt { rank := r, slot := k }).issuePrio)).max?
      = some (s.thAt (slotAt r n)).issuePrio :=
    max?_map_of_greatest hmem fun k hk => by
      obtain ⟨h4, hk⟩ := mem_readySlots.1 hk
      have := (hmax _ h4 hk).1
      rwa [slotAt, ofNat_val] at this
  unfold State.pick
  simp only [hnone, List.map_nil, List.max?_nil, hprio]
  have hd : fromRrp (s.core r) n < 4 := Nat.mod_lt _ (by decide)
  refine findSome?_four hd (find?_least (readySlots_sorted s r) hmem ?here fun k _ hlt => ?before) fun i hi => List.find?_eq_none.2 fun k hk => ?nearer
  case here =>
    have hat : (Fin.ofNat 5 n).val = ((s.core r).rrp + fromRrp (s.core r) n) % 4 := by
      rw [val_ofNat hn, fromRrp]; omega
    rw [decide_eq_true hat]
    exact decide_eq_true rfl
  case before =>
    have hkn : k.val < n := by rw [← val_ofNat hn]; exact hlt
    have hne : k.val ≠ ((s.core r).rrp + fromRrp (s.core r) n) % 4 := by rw [fromRrp]; omega
    rw [decide_eq_false hne, Bool.false_and]
  case nearer =>
    obtain ⟨h4, hk⟩ := mem_readySlots.1 hk
    intro hfound
    obtain ⟨hat, hsame⟩ := Bool.and_eq_true_iff.1 hfound
    have hfar := (hmax _ h4 hk).2 (by rw [slotAt, ofNat_val]; exact of_decide_eq_true hsame)
    have hnear : fromRrp (s.core r) k.val = i := by
      rw [fromRrp, of_decide_eq_true hat]; omega
    omega

theorem pick_of_picked (h : Picked s r n) : s.pick r = some (Fin.ofNat 5 n) := by
  obtain ⟨hn, hr, ⟨hp, hmax⟩ | ⟨hp, hmax⟩⟩ := h
  · exact pick_longest hn hr hp hmax
  · exact pick_highest hn hr hp hmax

theorem passedOf_chosen (c : Core) (l : List (Fin 5)) (x : Fin 5) {k : Nat} (hk : k < 4) : passedOf (c.chosen l x) k
    = if k = x.val then 0 else if l.any (fun y => decide (y.val = k)) then passedOf c k + 1 else 0 := by
  simp [passedOf, Core.chosen, Vector.getD, hk]

theorem any_readySlots {k : Nat} (hk : k < 4) : (s.readySlots r).any (fun y => decide (y.val = k)) = true ↔ Ready s r k := by
  rw [List.any_eq_true]
  constructor
  · rintro ⟨y, hy, he⟩
    obtain ⟨-, h⟩ := mem_readySlots.1 hy
    rwa [of_decide_eq_true he] at h
  · exact fun h => ⟨Fin.ofNat 5 k, mem_readySlots.2 (by rw [val_ofNat hk]; exact ⟨hk, h⟩), decide_eq_true (val_ofNat hk)⟩

theorem arbitrateCore_some {x : Fin 5} (h : s.pick r = some x) : s.arbitrateCore r
    = { s.modCore r (fun c => c.chosen (s.readySlots r) x) with
        turn := { rank := r, slot := x }, granted := some ((s.core r).rrp, (s.core r).passed) } := by
  unfold State.arbitrateCore
  rw [h]

theorem arbitrateCore_none (h : s.pick r = none) : s.arbitrateCore r = s.modCore r (fun c => { c.unstall with passed := .replicate 4 0 }) := by
  unfold State.arbitrateCore
  rw [h]

theorem execIssueArbitration_grants (h : Picked s r n) : ∃ t, execIssueArbitration r s = .next t ∧ t.turn = slotAt r n ∧ t.granted.isSome = true
    ∧ (t.core r).rrp = (n + 1) % 4 ∧ passedOf (t.core r) n = 0
    ∧ (∀ k, k < 4 → k ≠ n → (Ready s r k → passedOf (t.core r) k = passedOf (s.core r) k + 1) ∧ (¬ Ready s r k → passedOf (t.core r) k = 0))
    ∧ (∀ w, t.thAt w = s.thAt w) ∧ Untouched s t := by
  obtain ⟨hn, -⟩ := id h
  have hcore : (s.modCore r (fun c => c.chosen (s.readySlots r) (Fin.ofNat 5 n))).core r = (s.core r).chosen (s.readySlots r) (Fin.ofNat 5 n) :=
    State.core_modCore _ _ _
  have hpassed : ∀ k, k < 4 → passedOf ((s.modCore r (fun c => c.chosen (s.readySlots r) (Fin.ofNat 5 n))).core r) k
      = if k = n then 0 else if (s.readySlots r).any (fun y => decide (y.val = k)) then passedOf (s.core r) k + 1 else 0 := fun k hk => by
    rw [hcore, passedOf_chosen _ _ _ hk, val_ofNat hn]
  have hth := thAt_modCore (s := s) (r := r) (f := fun c => c.chosen (s.readySlots r) (Fin.ofNat 5 n)) rfl
  refine ⟨{ s.modCore r (fun c => c.chosen (s.readySlots r) (Fin.ofNat 5 n)) with
      turn := slotAt r n, granted := some ((s.core r).rrp, (s.core r).passed) }, ?_, rfl, rfl, ?_, ?_, fun k hk hkn => ⟨fun hr => ?_, fun hr => ?_⟩,
    hth, untouched_of_mem rfl⟩
  · exact congrArg Host.Outcome.next (arbitrateCore_some (pick_of_picked h))
  · show ((s.modCore r (fun c => c.chosen (s.readySlots r) (Fin.ofNat 5 n))).core r).rrp = (n + 1) % 4
    rw [hcore]
    show ((Fin.ofNat 5 n).val + 1) % 4 = _
    rw [val_ofNat hn]
  · exact (hpassed n hn).trans (if_pos rfl)
  · exact (hpassed k hk).trans (by rw [if_neg hkn, if_pos ((any_readySlots hk).2 hr)])
  · exact (hpassed k hk).trans (by rw [if_neg hkn, if_neg (fun h => hr ((any_readySlots hk).1 h))])

theorem execIssueArbitration_none (h : ∀ n, n < 4 → ¬ Ready s r n) : ∃ t, execIssueArbitration r s = .next t ∧ t.turn = s.turn
    ∧ t.granted = s.granted ∧ (∀ w, w.rank = r → t.thAt w = { s.thAt w with stalled := false }) ∧ (t.core r).rrp = (s.core r).rrp
    ∧ Untouched s t := by
  have hnone : s.readySlots r = [] := List.eq_nil_iff_forall_not_mem.2 fun x hx => by
    obtain ⟨h4, hx⟩ := mem_readySlots.1 hx
    exact h _ h4 hx
  have hpick : s.pick r = none := by
    unfold State.pick
    simp only [hnone, List.filter_nil, List.map_nil, List.max?_nil]
  have hcore : (s.modCore r (fun c => { c.unstall with passed := .replicate 4 0 })).core r
      = { (s.core r).unstall with passed := .replicate 4 0 } := State.core_modCore _ _ _
  refine ⟨s.modCore r (fun c => { c.unstall with passed := .replicate 4 0 }), ?_, rfl, rfl, fun w hw => ?_, by rw [hcore]; rfl,
    untouched_of_mem rfl⟩
  · exact congrArg Host.Outcome.next (arbitrateCore_none hpick)
  · subst hw
    rw [State.thAt, hcore]
    simp [Core.unstall, State.thAt]

/-! ### A vault and its log (R93, R349, R351) -/

theorem vaultOnly_modVault (s : State) (r : Nat) (f : Vault → Vault) : VaultOnly s (s.modVault r f) r :=
  ⟨untouched_of_mem rfl, fun w => ⟨_, (thAt_modCore (f := fun c => { c with vault := f c.vault }) rfl w).trans rfl⟩,
    fun k hk => by rw [State.modVault, State.core_modCore_ne _ _ hk]⟩

theorem vaultAt_modVault (s : State) (r : Nat) (f : Vault → Vault) : vaultAt (s.modVault r f) r = f (vaultAt s r) := by
  rw [vaultAt, State.modVault, State.core_modCore]
  rfl

theorem vaultOnly_trans {s t u : State} (h : VaultOnly s t r) (k : VaultOnly t u r) : VaultOnly s u r := by
  obtain ⟨hmem, hth, hv⟩ := h
  obtain ⟨kmem, kth, kv⟩ := k
  refine ⟨fun l => (kmem l).trans (hmem l), fun w => ?_, fun q hq => (kv q hq).trans (hv q hq)⟩
  obtain ⟨i, hi⟩ := hth w
  obtain ⟨j, hj⟩ := kth w
  exact ⟨j, by rw [hj, hi]⟩

/-- An interrupt that is raised changes pending bits of a thread, and the wake of a band. -/
theorem raiseIrqAt_keeps (s : State) (q b : Nat) : (s.raiseIrqAt q b).mem = s.mem ∧ (∀ w, ∃ i, (s.raiseIrqAt q b).thAt w = { s.thAt w with ipend := i })
    ∧ ∀ k, (s.raiseIrqAt q b).core k = { s.core k with threads := ((s.raiseIrqAt q b).core k).threads } := by
  have hband : ∀ k, (s.wakeBand k).mem = s.mem ∧ (s.wakeBand k).cores = s.cores := fun k => by
    unfold State.wakeBand; split <;> exact ⟨rfl, rfl⟩
  unfold State.raiseIrqAt
  split
  next p _ =>
    unfold State.raiseIrq
    split
    next x _ =>
      obtain ⟨hmem, hcores⟩ := hband (x.spec.sys / 16)
      generalize s.wakeBand (x.spec.sys / 16) = u at hmem hcores
      have hcore : ∀ k, u.core k = s.core k := fun k => by rw [State.core, hcores]; rfl
      have hth : ∀ w, u.thAt w = s.thAt w := fun w => by rw [State.thAt, hcore]; rfl
      refine ⟨hmem, fun w => ?_, fun k => ?_⟩
      · by_cases hw : w = { rank := x.spec.sys, slot := 0 }
        · exact ⟨setBit (s.thAt w).ipend b, by rw [hw, State.thAt_modThAt, hth]⟩
        · exact ⟨_, by rw [othersKept_modThAt _ _ _ _ hw, hth]⟩
      · rw [← hcore, State.modThAt]
        exact core_setThAt_threads _ _ _ _
    next => exact ⟨rfl, fun w => ⟨_, rfl⟩, fun k => rfl⟩
  next => exact ⟨rfl, fun w => ⟨_, rfl⟩, fun k => rfl⟩

/-- The log of a core with an error in it (R351). -/
def Core.logged (c : Core) (now : Word) (rank kind fl : Nat) (addr : Word) (detail : Nat) : Core :=
  { c with log := { c.log with
      nextSeq := c.log.nextSeq + 1,
      entries := ({ seq := c.log.nextSeq, addr := addr, cyc := now, kind := BitVec.ofNat 8 kind, fl := BitVec.ofNat 8 fl,
                    rank := BitVec.ofNat 16 rank, detail := BitVec.ofNat 32 detail } :: c.log.entries).take 126 } }

theorem logError_eq (s : State) (r kind fl : Nat) (addr : Word) (d : Nat) :
    s.logError r kind fl addr d = (s.modCore r (fun c => c.logged s.cycle r kind fl addr d)).raiseIrqAt r 3 := rfl

/-- An error that is logged changes the log of its core and pending interrupts. -/
theorem logError_only (s : State) (r kind fl : Nat) (addr : Word) (d : Nat) : VaultOnly s (s.logError r kind fl addr d) r
    ∧ vaultAt (s.logError r kind fl addr d) r = vaultAt s r ∧ ((s.logError r kind fl addr d).core r).log.rrep = (s.core r).log.rrep
    ∧ ∃ e, ((s.logError r kind fl addr d).core r).log.entries.head? = some e ∧ e.kind = BitVec.ofNat 8 kind := by
  have hth : ∀ w, (s.modCore r (fun c => c.logged s.cycle r kind fl addr d)).thAt w = s.thAt w := thAt_modCore rfl
  have hself : (s.modCore r (fun c => c.logged s.cycle r kind fl addr d)).core r = (s.core r).logged s.cycle r kind fl addr d :=
    State.core_modCore _ _ _
  have hother : ∀ k, k ≠ r → (s.modCore r (fun c => c.logged s.cycle r kind fl addr d)).core k = s.core k := fun k hk =>
    State.core_modCore_ne _ _ hk
  have hmem : (s.modCore r (fun c => c.logged s.cycle r kind fl addr d)).mem = s.mem := rfl
  rw [logError_eq]
  generalize s.modCore r (fun c => c.logged s.cycle r kind fl addr d) = u at *
  obtain ⟨kmem, kth, kcore⟩ := raiseIrqAt_keeps u r 3
  generalize u.raiseIrqAt r 3 = t at *
  have htr := kcore r
  rw [hself] at htr
  refine ⟨⟨untouched_of_mem (kmem.trans hmem), fun w => ?_, fun k hk => ?_⟩, ?_, ?_, ?_⟩
  · obtain ⟨i, hi⟩ := kth w
    exact ⟨i, by rw [hi, hth]⟩
  · rw [kcore, hother k hk]
  · rw [vaultAt, htr]; rfl
  · rw [htr]; rfl
  · rw [htr]; exact ⟨_, rfl, rfl⟩

/-- What keeps an access to an awake vault from being performed, as the vault stands (R89, R90, R93, R362). -/
theorem meets_awake (h : Awake s r) (f : Vault → Vault) (off : Nat) : (s.modVault r f).meets false (vaultLoc r off)
    = (if (f (vaultAt s r)).marked.contains (off / 0x800) then .repair
      else if (f (vaultAt s r)).refreshing.contains (bankAt off) then .refresh
      else if (f (vaultAt s r)).locks.contains (bankAt off) then .waits
      else if (f (vaultAt s r)).burst.isSome then .waits
      else .nothing) := by
  obtain ⟨⟨hpower, hheld⟩, -, -, hagent⟩ := h
  have hcore : (s.modVault r f).core r = { s.core r with vault := f (s.core r).vault } := State.core_modCore _ _ _
  have hrun : ¬ (((s.modVault r f).band (r / 16)).power ≠ 0 ∨ (s.modVault r f).dieHeld r = true) := by
    have hdie : (s.modVault r f).dieHeld r = false := by
      show (decide (r / 1024 = s.dev) && (s.dies.getD (r / 128 % 8) .reset).held.isSome) = false
      rw [hheld]
      simp
    have hband : ((s.modVault r f).band (r / 16)).power = 0 := hpower
    rw [hdie, hband]
    decide
  have hlocks : (s.core r).agent.locks = [] := hagent
  unfold State.meets
  refine (if_neg hrun).trans ((if_neg Bool.false_ne_true).trans ?_)
  simp only [vaultLoc, hlocks, hcore, List.contains_nil, Bool.false_and, Bool.or_false]
  rfl

/-! ### Refresh (R90) -/

theorem mem_addOnce {α : Type} [DecidableEq α] {l : List α} {x y : α} : y ∈ addOnce l x ↔ y = x ∨ y ∈ l := by
  unfold addOnce
  split
  · constructor
    · exact .inr
    · rintro (rfl | h)
      · assumption
      · exact h
  · exact List.mem_cons

/-- A vault with a bank in refresh, and no row of it open. -/
def Vault.refreshed (v : Vault) (bank : Nat) : Vault :=
  { v with refreshing := addOnce v.refreshing bank, openRows := v.openRows.filter (fun row => decide (bankOf row ≠ bank)) }

theorem execBankRefresh_waits {bank : Nat} (hb : bank < 32) : ∃ t, execBankRefresh r bank s = .next t ∧ VaultOnly s t r
    ∧ bank ∈ (vaultAt t r).refreshing ∧ (∀ k, k ≠ bank → (k ∈ (vaultAt t r).refreshing ↔ k ∈ (vaultAt s r).refreshing))
    ∧ (∀ row ∈ (vaultAt t r).openRows, row / 0x4000 ≠ bank ∧ row ∈ (vaultAt s r).openRows)
    ∧ (Awake s r → ∀ off, bankAt off = bank → t.meets false (vaultLoc r off) = .refresh) := by
  have hv := vaultAt_modVault s r (·.refreshed bank)
  refine ⟨s.modVault r (·.refreshed bank), if_neg (by omega), vaultOnly_modVault _ _ _, ?_, fun k hk => ?_, fun row hrow => ?_, fun ha off ho => ?_⟩
  · rw [hv]; exact mem_addOnce.2 (.inl rfl)
  · rw [hv]; exact mem_addOnce.trans (or_iff_right hk)
  · rw [hv] at hrow
    obtain ⟨hopen, hbank⟩ := List.mem_filter.1 hrow
    exact ⟨of_decide_eq_true hbank, hopen⟩
  · obtain ⟨hmarked, -⟩ := ha.free
    have hin : ((vaultAt s r).refreshed bank).refreshing.contains bank = true := List.contains_iff_mem.2 (mem_addOnce.2 (.inl rfl))
    rw [meets_awake ha, ho, show ((vaultAt s r).refreshed bank).marked = [] from hmarked, hin]
    rfl

theorem execBankRefreshEnd_ends (s : State) (r bank : Nat) : ∃ t, execBankRefreshEnd r bank s = .next t ∧ VaultOnly s t r
    ∧ (∀ k, k ∈ (vaultAt t r).refreshing ↔ k ∈ (vaultAt s r).refreshing ∧ k ≠ bank)
    ∧ (Awake s r → (vaultAt s r).burst = none → ∀ off, bankAt off = bank → t.meets false (vaultLoc r off) = .nothing) := by
  have hmem : ∀ k, k ∈ (vaultAt s r).refreshing.filter (fun b => decide (b ≠ bank)) ↔ k ∈ (vaultAt s r).refreshing ∧ k ≠ bank := fun k => by
    rw [List.mem_filter, decide_eq_true_eq]
  refine ⟨_, rfl, vaultOnly_modVault _ _ _, fun k => ?_, fun ha hburst off ho => ?_⟩
  · rw [vaultAt_modVault]; exact hmem k
  · obtain ⟨hmarked, hlocks, -⟩ := ha.free
    have hout : ((vaultAt s r).refreshing.filter (fun b => decide (b ≠ bank))).contains bank = false :=
      Bool.eq_false_iff.2 fun h => ((hmem bank).1 (List.contains_iff_mem.1 h)).2 rfl
    rw [meets_awake ha, ho]
    simp only [hmarked, hlocks, hburst, hout, List.contains_nil, Option.isSome_none, Bool.false_eq_true, if_false]

/-! ### The tester's bursts (R93) -/

theorem execTesterBurst_waits {bank row : Nat} {weak : Bool} (hb : bank < 32) (hrow : row / 0x4000 = bank) (hn : (vaultAt s r).burst = none) :
    ∃ t, execTesterBurst r bank row weak s = .next t ∧ VaultOnly s t r
      ∧ (vaultAt t r).burst = some { bank := bank, row := row, weak := weak }
      ∧ (Awake s r → (vaultAt s r).refreshing = [] → ∀ off, t.meets false (vaultLoc r off) = .waits) := by
  have hgo : ¬ ((s.core r).vault.burst.isSome = true ∨ 32 ≤ bank ∨ bankOf row ≠ bank) := by
    rw [show (s.core r).vault.burst = none from hn, bankOf, hrow]
    simp [hb]
  refine ⟨_, if_neg hgo, vaultOnly_modVault _ _ _, by rw [vaultAt_modVault], fun ha href off => ?_⟩
  obtain ⟨hmarked, hlocks, -⟩ := ha.free
  rw [meets_awake ha]
  simp only [hmarked, hlocks, href, List.contains_nil, Option.isSome_some, Bool.false_eq_true, if_false, if_true]

theorem execTesterBurstAbort_ends (h : (vaultAt s r).waiting ≠ []) : ∃ t, execTesterBurstAbort r s = .next t ∧ VaultOnly s t r
    ∧ (vaultAt t r).burst = none ∧ (vaultAt t r).waiting = [] := by
  refine ⟨_, if_neg h, vaultOnly_modVault _ _ _, ?_, ?_⟩ <;> rw [vaultAt_modVault]

/-! ### Row repair (R362) -/

theorem vaultOnly_refl (s : State) (r : Nat) : VaultOnly s s r := ⟨fun _ => rfl, fun _ => ⟨_, rfl⟩, fun _ _ => rfl⟩

theorem markRepair_only (s : State) (r row : Nat) :
    VaultOnly s (s.markRepair r row) r ∧ (vaultAt (s.markRepair r row) r).burst = (vaultAt s r).burst := by
  unfold State.markRepair
  dsimp only
  split
  · exact ⟨vaultOnly_refl s r, rfl⟩
  · split
    · exact ⟨vaultOnly_modVault _ _ _, by rw [vaultAt_modVault]⟩
    · obtain ⟨honly, hv, -⟩ := logError_only (s.modVault r (fun v => { v with repairs := (row, 64) :: v.repairs })) r 14 0
        (word (row * 0x800)) (bankOf row)
      exact ⟨vaultOnly_trans (vaultOnly_modVault _ _ _) honly, by rw [hv, vaultAt_modVault]⟩

/-- A row of a bank that has a spare left is marked. -/
theorem mem_markRepair {row : Nat} (hr : sparesIn (vaultAt s r) (row / 0x4000) < 64) (he : (vaultAt s r).exhausted row = false) :
    row ∈ (vaultAt (s.markRepair r row) r).marked := by
  unfold State.markRepair
  dsimp only
  split
  next h =>
    rw [show (s.core r).vault.exhausted row = false from he, Bool.or_false] at h
    exact List.contains_iff_mem.1 h
  next =>
    rw [if_pos (show (s.core r).vault.sparesUsed (bankOf row) < 64 from hr), vaultAt_modVault]
    exact mem_addOnce.2 (.inl rfl)

theorem markRepair_fresh {row : Nat} (hm : row ∉ (vaultAt s r).marked) (he : (vaultAt s r).exhausted row = false) : s.markRepair r row
    = if sparesIn (vaultAt s r) (row / 0x4000) < 64 then s.modVault r (fun v => { v with marked := addOnce v.marked row })
      else (s.modVault r (fun v => { v with repairs := (row, 64) :: v.repairs })).logError r 14 0 (word (row * 0x800)) (bankOf row) := by
  have hgo : ¬ (((s.core r).vault.marked.contains row || (s.core r).vault.exhausted row) = true) := by
    rw [show (s.core r).vault.exhausted row = false from he, Bool.or_false, List.contains_iff_mem]
    exact hm
  exact if_neg hgo

theorem execTesterBurstEnd_ends {b : Burst} (h : (vaultAt s r).burst = some b) : ∃ t, execTesterBurstEnd r s = .next t ∧ VaultOnly s t r
    ∧ (vaultAt t r).burst = none ∧ (b.weak = false → (vaultAt t r).marked = (vaultAt s r).marked)
    ∧ (b.weak = true → sparesIn (vaultAt s r) (b.row / 0x4000) < 64 → (vaultAt s r).exhausted b.row = false → b.row ∈ (vaultAt t r).marked) := by
  have honly := vaultOnly_modVault s r (fun v => { v with burst := none, waiting := [] })
  have hv := vaultAt_modVault s r (fun v => { v with burst := none, waiting := [] })
  have hend : execTesterBurstEnd r s = if b.weak = true then .next ((s.modVault r (fun v => { v with burst := none, waiting := [] })).markRepair r b.row)
      else .next (s.modVault r (fun v => { v with burst := none, waiting := [] })) := by
    simp only [execTesterBurstEnd, show (s.core r).vault.burst = some b from h]
  generalize s.modVault r (fun v => { v with burst := none, waiting := [] }) = u at *
  cases hw : b.weak with
  | false =>
    rw [hw] at hend
    exact ⟨u, hend, honly, by rw [hv], fun _ => by rw [hv], fun h => absurd h (by decide)⟩
  | true =>
    obtain ⟨kept, hburst⟩ := markRepair_only u r b.row
    rw [hw] at hend
    refine ⟨u.markRepair r b.row, hend, vaultOnly_trans honly kept, by rw [hburst, hv], fun h => absurd h (by decide), fun _ hs he => mem_markRepair ?_ ?_⟩
    · rw [hv]; exact hs
    · rw [hv]; exact he

theorem execRowRepair_unmarked {row : Nat} (hrow : row < 2 ^ 19) (hm : row ∉ (vaultAt s r).marked) :
    execRowRepair r row s = .next (s.markRepair r row) := by
  have hc : ¬ (s.core r).vault.marked.contains row = true := fun h => hm (List.contains_iff_mem.1 h)
  rw [execRowRepair, if_neg (Nat.not_le.2 hrow), if_neg hc]

theorem execRowRepair_marks {row : Nat} (hrow : row < 2 ^ 19) (hm : row ∉ (vaultAt s r).marked) (he : (vaultAt s r).exhausted row = false)
    (hs : sparesIn (vaultAt s r) (row / 0x4000) < 64) : ∃ t, execRowRepair r row s = .next t ∧ VaultOnly s t r ∧ row ∈ (vaultAt t r).marked
      ∧ (vaultAt t r).repairs = (vaultAt s r).repairs
      ∧ (Awake s r → ∀ off, off / 0x800 = row → t.meets false (vaultLoc r off) = .repair) := by
  have hmark := (markRepair_fresh hm he).trans (if_pos hs)
  have hin : (addOnce (vaultAt s r).marked row).contains row = true := List.contains_iff_mem.2 (mem_addOnce.2 (.inl rfl))
  refine ⟨_, (execRowRepair_unmarked hrow hm).trans (congrArg _ hmark), vaultOnly_modVault _ _ _, ?_, ?_, fun ha off ho => ?_⟩
  · rw [vaultAt_modVault]; exact mem_addOnce.2 (.inl rfl)
  · rw [vaultAt_modVault]
  · rw [meets_awake ha, ho]
    exact if_pos hin

theorem execRowRepair_reports {row : Nat} (hrow : row < 2 ^ 19) (hm : row ∉ (vaultAt s r).marked) (he : (vaultAt s r).exhausted row = false)
    (hs : 64 ≤ sparesIn (vaultAt s r) (row / 0x4000)) : ∃ t, execRowRepair r row s = .next t ∧ VaultOnly s t r
      ∧ (vaultAt t r).marked = (vaultAt s r).marked ∧ LogHead t r 14 ∧ execRowRepair r row t = .next t := by
  have hmark := (markRepair_fresh hm he).trans (if_neg (Nat.not_lt.2 hs))
  have honly := vaultOnly_modVault s r (fun v => { v with repairs := (row, 64) :: v.repairs })
  have hvault := vaultAt_modVault s r (fun v => { v with repairs := (row, 64) :: v.repairs })
  generalize s.modVault r (fun v => { v with repairs := (row, 64) :: v.repairs }) = u at *
  obtain ⟨hlog, hkept, -, e, hhead, hkind⟩ := logError_only u r 14 0 (word (row * 0x800)) (bankOf row)
  generalize u.logError r 14 0 (word (row * 0x800)) (bankOf row) = t at *
  rw [hvault] at hkept
  refine ⟨t, (execRowRepair_unmarked hrow hm).trans (congrArg _ hmark), vaultOnly_trans honly hlog, by rw [hkept], ⟨e, hhead, by rw [hkind]; rfl⟩, ?_⟩
  refine (execRowRepair_unmarked hrow (by rw [hkept]; exact hm)).trans (congrArg _ (if_pos ?_))
  have hdone : (vaultAt t r).exhausted row = true := by rw [hkept]; simp [Vault.exhausted]
  rw [show (t.core r).vault.exhausted row = true from hdone, Bool.or_true]

/-- A vault whose row has moved to a spare (R362). -/
def Vault.repaired (v : Vault) (row : Nat) : Vault :=
  { v with marked := v.marked.filter (fun x => decide (x ≠ row)), repairs := (row, v.sparesUsed (bankOf row)) :: v.repairs,
           weakGranules := v.weakGranules.filter (fun g => decide (g / 32 ≠ row)),
           correctedReads := v.correctedReads.filter (fun x => decide (x.1 ≠ row)), openRows := v.openRows.filter (fun x => decide (x ≠ row)) }

theorem finishRepair_eq {row : Nat} : s.finishRepair r row = ((s.modVault r (·.repaired row)).modCore r
    (fun c => { c with log := { c.log with rrep := saturate32 (c.log.rrep + 1) } })).logError r 3 0 (word (row * 0x800))
      ((63 - (vaultAt s r).sparesUsed (bankOf row)) * 2 ^ 24 + bankOf row) := by
  rfl

theorem execRowRepair_moves {row : Nat} (hrow : row < 2 ^ 19) (hm : row ∈ (vaultAt s r).marked) : ∃ t, execRowRepair r row s = .next t
    ∧ VaultOnly s t r ∧ row ∉ (vaultAt t r).marked
    ∧ (vaultAt t r).repairs = (row, sparesIn (vaultAt s r) (row / 0x4000)) :: (vaultAt s r).repairs ∧ LogHead t r 3
    ∧ (t.core r).log.rrep = min ((s.core r).log.rrep + 1) 0xFFFFFFFF := by
  have honly := vaultOnly_modVault s r (·.repaired row)
  have hvault := vaultAt_modVault s r (·.repaired row)
  have hrrep : ((s.modVault r (·.repaired row)).core r).log = (s.core r).log := by rw [State.modVault, State.core_modCore]
  have hexec : execRowRepair r row s = .next ((((s.modVault r (·.repaired row)).modCore r
      (fun c => { c with log := { c.log with rrep := saturate32 (c.log.rrep + 1) } })).logError r 3 0 (word (row * 0x800))
        ((63 - (vaultAt s r).sparesUsed (bankOf row)) * 2 ^ 24 + bankOf row))) := by
    rw [execRowRepair, if_neg (Nat.not_le.2 hrow), if_pos (show (s.core r).vault.marked.contains row = true from List.contains_iff_mem.2 hm)]
    exact congrArg Host.Outcome.next finishRepair_eq
  generalize s.modVault r (·.repaired row) = u at *
  have hcounted : VaultOnly u (u.modCore r (fun c => { c with log := { c.log with rrep := saturate32 (c.log.rrep + 1) } })) r :=
    ⟨untouched_of_mem rfl, fun w => ⟨_, (thAt_modCore (by rfl) w).trans rfl⟩, fun k hk => by rw [State.core_modCore_ne _ _ hk]⟩
  have hcore : (u.modCore r (fun c => { c with log := { c.log with rrep := saturate32 (c.log.rrep + 1) } })).core r
      = { u.core r with log := { (u.core r).log with rrep := saturate32 ((u.core r).log.rrep + 1) } } := State.core_modCore _ _ _
  generalize u.modCore r (fun c => { c with log := { c.log with rrep := saturate32 (c.log.rrep + 1) } }) = v at *
  obtain ⟨hlog, hkept, hcount, e, hhead, hkind⟩ := logError_only v r 3 0 (word (row * 0x800))
    ((63 - (vaultAt s r).sparesUsed (bankOf row)) * 2 ^ 24 + bankOf row)
  have hv : vaultAt v r = (vaultAt s r).repaired row := by rw [← hvault, vaultAt, hcore]; rfl
  rw [hv] at hkept
  refine ⟨_, hexec, vaultOnly_trans (vaultOnly_trans honly hcounted) hlog, ?_, by rw [hkept]; rfl, ⟨e, hhead, by rw [hkind]; rfl⟩, ?_⟩
  · rw [hkept]
    exact fun h => of_decide_eq_true (List.mem_filter.1 h).2 rfl
  · rw [hcount, hcore, hrrep]
    rfl

/-! ### Throttling (R387) -/

/-- A core whose vault has a new level, which its slots hear of. -/
def Core.throttled (c : Core) (lvl : Nat) : Core :=
  { c with vault := { c.vault with level := lvl }, threads := c.threads.mapIdx (fun i t => if i < 4 then t.throttled lvl else t) }

theorem thAt_throttled (s : State) (lvl : Nat) (w : Turn) : (s.modCore w.rank (·.throttled lvl)).thAt w
    = if w.slot.val < 4 then (s.thAt w).throttled lvl else s.thAt w := by
  rw [State.thAt, State.core_modCore]
  simp [Core.throttled, State.thAt]

theorem execVaultThrottleChange_tells {lvl : Nat} (hl : lvl ≤ 2) (hne : (vaultAt s r).level ≠ lvl) : ∃ t, execVaultThrottleChange r lvl s = .next t
    ∧ (vaultAt t r).level = lvl ∧ Untouched s t ∧ (∀ w, w.rank ≠ r ∨ w.slot = 4 → t.thAt w = s.thAt w)
    ∧ ∀ n, n < 4 → ∃ e d, t.thAt (slotAt r n) = { s.thAt (slotAt r n) with evctl := e, dirty := d, thermals := (s.thAt (slotAt r n)).thermals
          ++ (if bit (s.thAt (slotAt r n)).evctl 2 = true ∧ (s.thAt (slotAt r n)).occ ≠ .empty then [lvl] else []) }
        ∧ (∀ i, bit e i = (bit (s.thAt (slotAt r n)).evctl i || decide (i = 9))) := by
  have hgo : ¬ (2 < lvl ∨ (s.core r).vault.level = lvl) := fun h => h.elim (by omega) hne
  refine ⟨s.modCore r (·.throttled lvl), if_neg hgo, by rw [vaultAt, State.core_modCore]; rfl, untouched_of_mem rfl, fun w hw => ?_, fun n hn => ?_⟩
  · by_cases hr : w.rank = r
    · subst hr
      have hslot : ¬ w.slot.val < 4 := by rw [hw.resolve_left (fun h => h rfl)]; decide
      rw [thAt_throttled, if_neg hslot]
    · rw [State.thAt, State.core_modCore_ne _ _ hr]
      rfl
  · have hth := (thAt_throttled s lvl (slotAt r n)).trans (if_pos (by rw [slotAt, val_ofNat hn]; exact hn))
    refine ⟨setBit (s.thAt (slotAt r n)).evctl 9, setBit (s.thAt (slotAt r n)).dirty 18, hth.trans ?_, fun i => ?_⟩
    · unfold Thread.throttled Thread.touchC
      by_cases h : bit (s.thAt (slotAt r n)).evctl 2 = true ∧ (s.thAt (slotAt r n)).occ ≠ .empty
      · simp [h]
      · simp [h]
    · rw [bit_setBit]
      by_cases h : i = 9
      · simp [h]
      · simp [h, Ne.symm h]

theorem modDie_only {die : Nat} (hd : die < 8) (f : Die → Die) : ∃ t : State, s.modDie die f = t ∧ t = { s with dies := t.dies }
    ∧ t.dies.getD die .reset = f (s.dies.getD die .reset) ∧ ∀ k, k ≠ die → t.dies.getD k .reset = s.dies.getD k .reset := by
  refine ⟨_, rfl, rfl, ?_, fun k hk => ?_⟩
  · simp [State.modDie, Vector.getD, hd]
  · simp [State.modDie, Vector.getD, Array.getD_eq_getD_getElem?, Ne.symm hk]

end Sys2Proof.Machine
end

section
namespace Sys2Proof.Machine

/-- Settles O52: the slot that R21 describes is the one that `State.pick` finds (`pick_of_picked`); refreshes, bursts and repairs
change a vault and its log alone, and what an access then meets is read off there (`meets_awake`). -/
theorem arbitrationAndDram : Obligations.ArbitrationAndDram := by
  unfold Obligations.ArbitrationAndDram
  refine ⟨fun r s => ⟨fun n h => execIssueArbitration_grants h, fun h => execIssueArbitration_none h⟩, ?dram, ?vault, ?die⟩
  case dram =>
    rintro r s v rfl
    refine ⟨fun bank hb => ⟨execBankRefresh_waits hb, execBankRefreshEnd_ends s r bank⟩, fun bank row weak hb hrow hn => execTesterBurst_waits hb hrow hn,
      fun h => execTesterBurstAbort_ends h, fun b h => execTesterBurstEnd_ends h, fun row hrow => ⟨fun hm he => ⟨?_, ?_⟩, ?_⟩⟩
    · exact fun hs => execRowRepair_marks hrow hm he hs
    · exact fun hs => execRowRepair_reports hrow hm he hs
    · exact fun hm => execRowRepair_moves hrow hm
  case vault => exact fun r lvl s hl hne => execVaultThrottleChange_tells hl hne
  case die =>
    intro die s hd c hc
    simp only [List.mem_cons, List.not_mem_nil, or_false] at hc
    rcases hc with rfl | rfl
    all_goals
      obtain ⟨t, ht, hrest, hdie, hothers⟩ := modDie_only (s := s) hd _
      exact ⟨t, congrArg Host.Outcome.next ht, hrest, hdie, hothers⟩

end Sys2Proof.Machine
end

section
/-! A status whose delivery finds another seat once its credit is counted (R114, R259). -/

namespace Sys2Proof.Machine

open Claims

/-- A task of identity 9. -/
def task9 : Task := { childTask State.reset none .zero 0 0 1 with id := 9 }

/-- A core with that task in its slot 0. -/
def core9 : Core := { Core.reset with threads := Core.reset.threads.set 0 { Thread.reset 0 with occ := .occupied, task := some task9 } }

/-- A status for register 5 of the task that returns a credit to core 0. -/
def status9 : Status := { rank := 0, slot := 0, task := 9, reg := 5, value := 1, lost := false, credit := true, recov := false, dom := 0 }

/-- Two cores that hold the same task, with core 1 before core 0 in the map of the cores. -/
def swapped : State := { State.reset with cores := [(1, core9), (0, core9)], statuses := [status9] }

/-- What register 5 of slot 0 of core 1 holds after the delivery. -/
def swappedReg5 : Option Ptr :=
  match exec .tokenStatusWrite swapped with
  | .next t => some ((t.thAt (slotAt 1 0)).get 5)
  | _ => none

/-- The status is for slot 0 of core 1, as the map stands. -/
theorem swapped_seat : swapped.seatOf status9 = some (.slot (slotAt 1 0)) := by decide +kernel

/-- The credit that is counted puts core 0 at the map's head: the status goes to its slot 0, and core 1 never sees it. -/
theorem swapped_missed : swappedReg5 = some .zero := by decide +kernel

end Sys2Proof.Machine
end

section
namespace Sys2Proof.Machine

open Claims

/-- Refutes O42: the statement asks nothing of the order of the core map, and `State.seatOf` answers the first core of the list
that has the task. In `swapped` the keys do not rise, and the return of a credit, which writes the core of its rank by `insert`,
moves that core to the list's head: of two cores that hold the task, the status reaches the other one. A map that `insert`
builds has rising keys; the statement lacks that hypothesis. -/
theorem not_tokensAndSlots : ¬ Obligations.TokensAndSlots := by
  unfold Obligations.TokensAndSlots
  rintro ⟨hstatus, -⟩
  obtain ⟨hdeliver, -⟩ := hstatus swapped status9 [] (slotAt 1 0) rfl
  obtain ⟨t, hrun, -, ⟨hreg, -⟩, -⟩ := hdeliver rfl swapped_seat (by decide +kernel)
  have hmiss := swapped_missed
  rw [swappedReg5, hrun] at hmiss
  have hzero : held 5 (.int 1) = Ptr.zero := hreg.symm.trans (Option.some.inj hmiss)
  exact absurd hzero (by decide)

end Sys2Proof.Machine
end

section
/-!
Control registers: the instructions that read and write them, and the writes that come as events (R57, R58, R187, R269, R293-R298).
-/

namespace Sys2Proof.Machine

open Claims

/-! ### Fields after a write by access codes (R7) -/

theorem bit_fieldWrite (old v rw w1c : Word) (i : Nat) :
    bit (fieldWrite old v rw w1c) i = (((bit old i && !bit rw i) || (bit v i && bit rw i)) && !(bit v i && bit w1c i)) := by
  by_cases h : i < 64
  · simp [fieldWrite, bit, h]
  · simp [bit, BitVec.getLsbD_of_ge _ i (by omega : 64 ≤ i)]

theorem field_eq_of_bits {w k : Nat} {x : BitVec w} {y : BitVec k} {lo n : Nat} (h : ∀ i < n, bit x (lo + i) = bit y (lo + i)) :
    field x lo n = field y lo n := by
  apply Nat.eq_of_testBit_eq
  intro i
  rw [field_testBit, field_testBit]
  by_cases hi : i < n
  · rw [h i hi]
  · simp [hi]

section
variable {old v rw : Word} {lo n : Nat}

/-- A field whose bits are all writable takes the operand's. -/
theorem field_fieldWrite_rw (h : ∀ i < n, bit rw (lo + i) = true) : field (fieldWrite old v rw 0) lo n = field v lo n :=
  field_eq_of_bits fun i hi => by rw [bit_fieldWrite, h i hi]; simp [bit]

/-- A field without a writable bit stays. -/
theorem field_fieldWrite_ro (h : ∀ i < n, bit rw (lo + i) = false) : field (fieldWrite old v rw 0) lo n = field old lo n :=
  field_eq_of_bits fun i hi => by rw [bit_fieldWrite, h i hi]; simp [bit]

theorem bit_fieldWrite_rw {i : Nat} (h : bit rw i = true) : bit (fieldWrite old v rw 0) i = bit v i := by
  rw [bit_fieldWrite, h]; simp [bit]

end

/-! ### A read and a write of a register that the mode may use (R187) -/

section
variable {f : FmtC} {s : State} {r : Cr}

theorem crFind_ok {i : Instr} {b : Bool} (hp : s.crPriv f.num.toNat b = false) (hr : crOf f.num.toNat = some r) :
    crFind i f b s = .ok r s := by
  simp [crFind, M.bind_apply, hp, hr]

theorem execCrrd_ok (hp : s.crPriv f.num.toNat false = false) (hr : crOf f.num.toNat = some r) :
    exec (.crrd f) s = .next ((s.modTh (·.putInt f.d (s.crRead s.turn r))).modTh Thread.next) := by
  refine run_ok ?_
  rw [M.bind_ok _ (crFind_ok hp hr)]
  simp [M.bind_apply]

theorem execCrwr_ok (hp : s.crPriv f.num.toNat true = false) (hr : crOf f.num.toNat = some r) (hw : s.crWaits s.turn r = false) :
    exec (.crwr f) s = .next ((s.crWrite s.turn r (s.th.val f.a)).modTh Thread.next) := by
  refine run_ok ?_
  rw [M.bind_ok _ (crFind_ok hp hr)]
  simp [M.bind_apply, hw]

theorem execCrxch_ok (hp : s.crPriv f.num.toNat true = false) (hr : crOf f.num.toNat = some r) (hw : s.crWaits s.turn r = false) :
    exec (.crxch f) s =
      .next (((s.crWrite s.turn r (s.th.val f.a)).modTh (·.putInt f.d (s.crRead s.turn r))).modTh Thread.next) := by
  refine run_ok ?_
  rw [M.bind_ok _ (crFind_ok hp hr)]
  simp [M.bind_apply, hw]

/-- The registers of a task below 0x100 but for ERRINJ, DOMID, SSTEPN and BMASK are written in every mode (R159). -/
theorem crPriv_below {n : Nat} (b : Bool) (h : n < 7) : s.crPriv n b = false := by
  unfold State.crPriv
  simp [show n ≠ 9 by omega, show ¬ 512 ≤ n by omega, show ¬ 256 ≤ n by omega, show n ≠ 7 by omega, show n ≠ 8 by omega,
    show ¬ 16 ≤ n by omega]

/-- Supervisor mode may use every register below 0x200 but for ERRINJ (R159). -/
theorem crPriv_supervisor {n : Nat} (b : Bool) (hs : s.supervisor = true) (h9 : n ≠ 9) (h : n < 0x200) : s.crPriv n b = false := by
  unfold State.crPriv
  simp [hs, h9, show ¬ 512 ≤ n by omega]

end

/-! ### What a write of a register leaves -/

section
variable {s : State}

/-- A write that changes neither the registers nor the accumulators of the issuing thread. -/
theorem registersKept_modTh {g : Thread → Thread} (hregs : (g s.th).regs = s.th.regs) (hv : (g s.th).vregs = s.th.vregs)
    (hm : (g s.th).masks = s.th.masks) (ha : (g s.th).accs = s.th.accs) : RegistersKept s ((s.modTh g).modTh Thread.next) := by
  rw [State.modTh_modTh]
  refine ⟨fun r => ?_, ?_, ?_, ?_, fun w hw => State.thAt_setThAt_ne _ _ hw⟩
  · rw [State.th_modTh]; exact Thread.get_congr hregs r
  all_goals rw [State.th_modTh]; assumption

theorem me_modTh (g : Thread → Thread) : (s.modTh g).me = { s.me with threads := s.me.threads.set s.turn.slot (g s.th) } :=
  State.core_setThAt _ _ _

theorem me_modMe (g : Core → Core) : (s.modMe g).me = g s.me := State.core_modCore _ _ _

/-- A write that changes no thread of its core. -/
theorem registersKept_modMe {g : Core → Core} (hg : (g s.me).threads = s.me.threads) : RegistersKept s ((s.modMe g).modTh Thread.next) := by
  have hth : ∀ w, (s.modMe g).thAt w = s.thAt w := thAt_modCore hg
  have hcur : (s.modMe g).th = s.th := hth _
  refine ⟨fun r => ?_, ?_, ?_, ?_, fun w hw => (State.thAt_setThAt_ne _ _ hw).trans (hth w)⟩
  all_goals rw [State.th_modTh, hcur]; rfl

end

/-! ### The stored values (R57, R58, R269, R294, R295, R298) -/

theorem fpctlStored_rm (v : Word) : field (fpctlStored v) 0 3 = if field v 0 3 < 6 then field v 0 3 else 0 := by
  have hmask : field (v &&& 0x1F1F07) 0 3 = field v 0 3 := field_eq_of_bits fun i hi => by
    have : bit (0x1F1F07 : Word) (0 + i) = true := by revert i; decide
    simpa [bit, BitVec.getLsbD_and] using fun _ => this
  unfold fpctlStored
  simp only [hmask]
  split
  · exact hmask
  · exact field_withField _ (by decide)

/-- The flags and enables of FPCTL are stored as they are. -/
theorem fpctlStored_field (v : Word) {lo : Nat} (h : lo = 8 ∨ lo = 16) : field (fpctlStored v) lo 5 = field v lo 5 := by
  have hmask : field (v &&& 0x1F1F07) lo 5 = field v lo 5 := field_eq_of_bits fun i hi => by
    have : bit (0x1F1F07 : Word) (lo + i) = true := by rcases h with rfl | rfl <;> (revert i; decide)
    simpa [bit, BitVec.getLsbD_and] using fun _ => this
  unfold fpctlStored
  dsimp only
  split
  · exact hmask
  · rw [field_withField_ne _ (by decide) (by omega), hmask]

theorem thstatStored_pmode (old v : Word) (h : 2 ≤ field v 10 2) : field (thstatStored old v) 10 2 = 1 := by
  unfold thstatStored
  rw [if_neg (by omega), field_fieldWrite_rw (by decide)]
  exact field_withField _ (by decide)

/-- MODE is read-only (R294). -/
theorem thstatStored_mode (old v : Word) : field (thstatStored old v) 8 2 = field old 8 2 := field_fieldWrite_ro (by decide)

theorem tvecStored_sb (old v : Word) (h : 0xF0 < field v 56 8) : field (tvecStored old v) 56 8 = 0xF0 := by
  unfold tvecStored
  rw [if_neg (by omega), field_fieldWrite_rw (by decide)]
  exact field_withField _ (by decide)

theorem tvecStored_address (old v : Word) : field (tvecStored old v) 2 54 = field v 2 54 := by
  unfold tvecStored
  rw [field_fieldWrite_rw (by decide)]
  split
  · rfl
  · exact field_withField_ne _ (by decide) (by decide)

theorem tvecStored_low (old v : Word) : field (tvecStored old v) 0 2 = field old 0 2 := field_fieldWrite_ro (by decide)

/-- What a write of BMASKn stores of its operand: MASK, SPAN where it names one, WD, and zeros elsewhere. -/
theorem bmaskStored_fields (v : Word) : field (bmaskStored v) 0 16 = field v 0 16
    ∧ field (bmaskStored v) 16 3 = (if field v 16 3 < 6 then field v 16 3 else 0) ∧ field (bmaskStored v) 36 4 = field v 36 4
    ∧ field (bmaskStored v) 19 17 = 0 ∧ field (bmaskStored v) 40 24 = 0 := by
  have hspan : field (fieldWrite 0 v 0x000000F00007FFFF 0) 16 3 = field v 16 3 := field_fieldWrite_rw (by decide)
  have hother : ∀ lo n, lo + n ≤ 16 ∨ 19 ≤ lo → field (bmaskStored v) lo n = field (fieldWrite 0 v 0x000000F00007FFFF 0) lo n := by
    intro lo n h
    unfold bmaskStored
    dsimp only
    split
    · rfl
    · exact field_withField_ne _ (by decide) (by omega)
  refine ⟨?_, ?_, ?_, ?_, ?_⟩
  · rw [hother _ _ (by decide), field_fieldWrite_rw (by decide)]
  · unfold bmaskStored
    simp only [hspan]
    split
    · exact hspan
    · exact field_withField _ (by decide)
  · rw [hother _ _ (by decide), field_fieldWrite_rw (by decide)]
  · rw [hother _ _ (by decide), field_fieldWrite_ro (by decide)]; rfl
  · rw [hother _ _ (by decide), field_fieldWrite_ro (by decide)]; rfl

theorem tidlimStored_eq (v : Word) : tidlimStored v = word (min (v.toNat % 512) 256) := by
  simp [tidlimStored, field]

/-! ### Writes of the thread's and the core's registers (R187) -/

section
variable (s : State) (w : Turn) (v : Word)

theorem crWrite_fpctl : s.crWrite w .fpctl v = s.modThAt w (fun t => Thread.touchC
    (Thread.warnIf { t with fpctl := fieldWrite t.fpctl (fpctlStored v) 0x1F1F07 0 } .fmt (!decide (field v 0 3 < 6)))) := by
  show s.modThAt w (fun t => Thread.touchC (if field v 0 3 < 6 then _ else _)) = _
  by_cases h : field v 0 3 < 6 <;> simp only [h, if_true, if_false, decide_true, decide_false] <;> rfl

theorem crWrite_srseed : s.crWrite w .srseed v = s.modThAt w (fun t => Thread.touchC { t with srseed := storedSeed v }) := rfl

theorem crWrite_thstat : s.crWrite w .thstat v = s.modThAt w (fun t => { t with thstat := thstatStored t.thstat v }) := rfl

theorem crWrite_tidlim : s.crWrite w .tidlim v = s.modThAt w (fun t => Thread.touchC { t with tidlim := tidlimStored v }) := rfl

theorem crWrite_errinj : s.crWrite w .errinj v =
    s.modThAt w (fun t => Thread.touchC { t with errinj := fieldWrite t.errinj v 0xFFFFFFFFFF87FFFF 0 }) := rfl

theorem crWrite_tscratch : s.crWrite w .tscratch v = s.modThAt w (fun t => { t with tscratch := v }) := rfl

theorem crWrite_ien : s.crWrite w .ien v = s.modThAt w (fun t => { t with ien := fieldWrite t.ien v 0x3F 0 }) := rfl

theorem crWrite_tvec : s.crWrite w .tvec v = s.modCore w.rank (fun c => { c with tvec := tvecStored c.tvec v }) := rfl

theorem crWrite_bmask (k : Fin 8) : s.crWrite w (.bmask k) v =
    s.modCore w.rank (fun c => { c with bmask := c.bmask.set k (bmaskStored v), ac := c.ac.set k 0, pc := c.pc.set k 0 }) := rfl

theorem crWrite_spkey : s.crWrite w .spkey v = s.setSpkey w.rank (fieldWrite 0 v 0xFFFF 0) := rfl

end

/-- Whether a band may set the checkpoint bit of DOMID: GRANT.CKPT of its partition (R363, R367). -/
def State.ckptGranted (s : State) (rank : Nat) : Bool :=
  match s.partOf rank with
  | some p => bit (s.grant p) 4
  | none => false

theorem crWrite_domid (s : State) (w : Turn) (v : Word) : s.crWrite w .domid v =
    s.modThAt w (fun t => { t with domid := fieldWrite t.domid (if s.ckptGranted w.rank then v else clearBit v 3) 0xFFFF 0 }) := rfl

theorem domidStored_field (old v : Word) (c : Bool) {lo n : Nat} (h : lo + n ≤ 3 ∨ 4 ≤ lo) (hw : lo + n ≤ 16) :
    field (fieldWrite old (if c then v else clearBit v 3) 0xFFFF 0) lo n = field v lo n := by
  rw [field_fieldWrite_rw]
  · cases c
    · exact field_eq_of_bits fun i hi => bit_clearBit_ne _ (by omega)
    · rfl
  · intro i hi
    have : ∀ j < 16, bit (0xFFFF : Word) j = true := by decide
    exact this _ (by omega)

theorem domidStored_ckpt (old v : Word) (c : Bool) :
    bit (fieldWrite old (if c then v else clearBit v 3) 0xFFFF 0) 3 = (bit v 3 && c) := by
  rw [bit_fieldWrite_rw (by decide)]
  cases c <;> simp [bit_clearBit]

/-! ### The translations that go with PTBASE and ASID (R335) -/

/-- A core without its translations that lack G. -/
def Core.globalOnly (c : Core) : Core :=
  { c with utlb := c.utlb.filter (fun t => bit t.leaf 56), tlb := c.tlb.filter (fun t => bit t.leaf 56), wcache := [],
           agent := { c.agent with tlb := c.agent.tlb.filter (fun t => bit t.leaf 56) } }

theorem crWrite_ptbase (s : State) (w : Turn) (v : Word) : s.crWrite w .ptbase v =
    s.modCore w.rank (fun c => { c with ptbase := fieldWrite c.ptbase v 0xFFFF00003FFE0001 0 }.globalOnly) := by
  simp only [State.crWrite, State.dropNonGlobal, State.modCore, State.core_setCore, State.setCore_setCore]
  rfl

theorem crWrite_asid (s : State) (w : Turn) (v : Word) : s.crWrite w .asid v =
    s.modCore w.rank (fun c => { c with asid := fieldWrite c.asid v 0xFFFF 0 }.globalOnly) := by
  simp only [State.crWrite, State.dropNonGlobal, State.modCore, State.core_setCore, State.setCore_setCore]
  rfl

theorem globalOnly_global (c : Core) : (∀ e ∈ c.globalOnly.tlb, bit e.leaf 56 = true) ∧ (∀ e ∈ c.globalOnly.utlb, bit e.leaf 56 = true) :=
  ⟨fun _ he => (List.mem_filter.1 he).2, fun _ he => (List.mem_filter.1 he).2⟩

theorem mem_globalOnly_tlb {c : Core} {e : TlbEntry} (he : e ∈ c.tlb) (hg : bit e.leaf 56 = true) : e ∈ c.globalOnly.tlb :=
  List.mem_filter.2 ⟨he, hg⟩

/-! ### SRSEED (R57) -/

theorem storedSeed_eq (v : Word) : storedSeed v = if v = 0 then 0x5A17C0DE00000001 else v := rfl

theorem thAt_reset_srseed (w : Turn) : (State.reset.thAt w).srseed = seedReset := by
  obtain ⟨r, n⟩ := w
  fin_cases n <;> rfl

theorem crRead_srseed (s : State) : s.crRead s.turn .srseed = s.th.srseed := rfl

end Sys2Proof.Machine
end

section
namespace Sys2Proof.Machine

open Claims

/-- Settles O60: SRSEED lies below the privileged numbers, so `crFind` answers it in every mode, and `crwr` and `crxch` end
with the same write (`execCrwr_ok`, `execCrxch_ok`). -/
theorem seedRegister : Obligations.SeedRegister := by
  unfold Obligations.SeedRegister
  have hnum : ∀ {f : FmtC}, f.num = 0x005 → f.num.toNat = 5 := fun h => by rw [h]; rfl
  refine ⟨thAt_reset_srseed, fun f s hf => ?_, fun f s i hf hi => ?_⟩
  · have hp := crPriv_below (s := s) false (show f.num.toNat < 7 by rw [hnum hf]; decide)
    refine ⟨_, execCrrd_ok hp (r := .srseed) (by rw [hnum hf]; rfl), ?_, ?_⟩
    · simp [Thread.get_putInt, crRead_srseed]
    · simp
  · have hp := crPriv_below (s := s) true (show f.num.toNat < 7 by rw [hnum hf]; decide)
    have hr : crOf f.num.toNat = some .srseed := by rw [hnum hf]; rfl
    have hwrite : s.crWrite s.turn .srseed (s.th.val f.a) =
        s.modTh (fun t => Thread.touchC { t with srseed := storedSeed (s.th.val f.a) }) := crWrite_srseed _ _ _
    rcases hi with rfl | rfl
    · refine ⟨_, execCrwr_ok hp hr rfl, ?_, fun h => (nomatch h), fun _ r => ?_⟩
      · rw [hwrite, State.th_modTh, State.th_modTh]; exact storedSeed_eq _
      · rw [hwrite, State.modTh_modTh, State.th_modTh]; rfl
    · refine ⟨_, execCrxch_ok hp hr rfl, ?_, fun _ => ?_, fun h => nomatch h⟩
      · rw [hwrite, State.modTh_modTh, State.modTh_modTh, State.th_modTh]
        simpa using storedSeed_eq _
      · rw [hwrite]; simp [Thread.get_putInt, crRead_srseed]

end Sys2Proof.Machine
end
section
namespace Sys2Proof.Machine

open Claims

/-! ### `crwr` (R187) -/

/-- The registers of operands of a thread are those of another. -/
structure SameOperands (a b : Thread) : Prop where
  regs : b.regs = a.regs
  vregs : b.vregs = a.vregs
  masks : b.masks = a.masks
  accs : b.accs = a.accs

section
variable {f : FmtC} {s : State} {r : Cr}

/-- `crwr` of a register of the thread. -/
theorem crwr_thread {g : Thread → Thread} (hp : s.crPriv f.num.toNat true = false) (hr : crOf f.num.toNat = some r)
    (hw : s.crWaits s.turn r = false) (hg : s.crWrite s.turn r (s.th.val f.a) = s.modThAt s.turn g) (hsame : SameOperands s.th (g s.th)) :
    ∃ t, exec (.crwr f) s = .next t ∧ t.th = (g s.th).next ∧ RegistersKept s t ∧ Untouched s t := by
  refine ⟨_, execCrwr_ok hp hr hw, ?_, ?_, ?_⟩
  all_goals rw [hg, show s.modThAt s.turn g = s.modTh g from rfl]
  · simp
  · exact registersKept_modTh hsame.regs hsame.vregs hsame.masks hsame.accs
  · exact untouched_of_mem rfl

/-- `crwr` of a register of the core: of the core, only the threads differ from what the write gives. -/
theorem crwr_core {g : Core → Core} (hp : s.crPriv f.num.toNat true = false) (hr : crOf f.num.toNat = some r)
    (hw : s.crWaits s.turn r = false) (hg : s.crWrite s.turn r (s.th.val f.a) = s.modMe g) (hth : (g s.me).threads = s.me.threads) :
    ∃ t, exec (.crwr f) s = .next t ∧ t.me = { g s.me with threads := t.me.threads } ∧ RegistersKept s t ∧ Untouched s t := by
  refine ⟨_, execCrwr_ok hp hr hw, ?_, ?_, ?_⟩
  all_goals rw [hg]
  · rw [me_modTh, me_modMe]
  · exact registersKept_modMe hth
  · exact untouched_of_mem rfl

end

theorem crOf_bmask (k : Fin 8) : crOf (0x010 + k.val) = some (.bmask k) := by
  fin_cases k <;> rfl

end Sys2Proof.Machine
end

section
namespace Sys2Proof.Machine

open Claims

/-- Settles O11: each `crwr` is one write of the thread (`crwr_thread`) or of the core (`crwr_core`), and what it stores is read
off `fpctlStored`, `thstatStored`, `tvecStored`, `bmaskStored` and the write by access codes. -/
theorem controlRegisterEffects : Obligations.ControlRegisterEffects := by
  unfold Obligations.ControlRegisterEffects
  rintro f s v rfl
  have hpriv : ∀ {n : Nat} {b : BitVec 12}, f.num = b → b.toNat = n → n ≠ 9 → n < 0x200 → s.supervisor = true →
      s.crPriv f.num.toNat true = false := fun hb hn h9 hlt hs => by
    rw [hb, hn]; exact crPriv_supervisor _ hs h9 hlt
  have hcr : ∀ {b : BitVec 12} {r : Cr}, f.num = b → crOf b.toNat = some r → crOf f.num.toNat = some r := fun hb h => by rw [hb, h]
  refine ⟨fun hn hrm => ?fpctl, fun hn => ?srseed, fun hn hs hpm => ?thstat, fun hn hs hsb => ?tvec, fun hn hs => ?domid,
    fun hn hs => ?tidlim, fun k hn hs hk => ?bmask, fun hn hs => ?translation⟩
  case fpctl =>
    have hwrite := crWrite_fpctl s s.turn (s.th.val f.a)
    rw [decide_eq_false (by omega)] at hwrite
    obtain ⟨t, he, hth, hkept, hmem⟩ := crwr_thread (crPriv_below true (by rw [hn]; decide)) (hcr hn rfl) rfl hwrite ⟨rfl, rfl, rfl, rfl⟩
    refine ⟨t, he, ?_, ?_, hkept, hmem⟩
    all_goals rw [hth]
    · exact (field_fieldWrite_rw (by decide)).trans ((fpctlStored_rm _).trans (if_neg (by omega)))
    · exact warnIf_bit _ _ (by decide)
  case srseed =>
    obtain ⟨t, he, hth, hkept, hmem⟩ := crwr_thread (crPriv_below true (by rw [hn]; decide)) (hcr hn rfl) rfl (crWrite_srseed _ _ _)
      ⟨rfl, rfl, rfl, rfl⟩
    exact ⟨t, he, by rw [hth]; exact storedSeed_eq _, hkept, hmem⟩
  case thstat =>
    obtain ⟨t, he, hth, hkept, hmem⟩ := crwr_thread (hpriv hn rfl (by decide) (by decide) hs) (hcr hn rfl) rfl (crWrite_thstat _ _ _)
      ⟨rfl, rfl, rfl, rfl⟩
    exact ⟨t, he, by rw [hth]; exact thstatStored_pmode _ _ hpm, by rw [hth]; exact thstatStored_mode _ _, hkept, hmem⟩
  case tvec =>
    obtain ⟨t, he, hme, hkept, hmem⟩ := crwr_core (hpriv hn rfl (by decide) (by decide) hs) (hcr hn rfl) rfl (crWrite_tvec _ _ _) rfl
    refine ⟨t, he, ?_, ?_, ?_, hkept, hmem⟩
    all_goals rw [hme]
    · exact tvecStored_sb _ _ hsb
    · exact tvecStored_address _ _
    · exact tvecStored_low _ _
  case domid =>
    obtain ⟨t, he, hth, hkept, hmem⟩ := crwr_thread (hpriv hn rfl (by decide) (by decide) hs) (hcr hn rfl) rfl (crWrite_domid _ _ _)
      ⟨rfl, rfl, rfl, rfl⟩
    refine ⟨t, he, ?_, ?_, fun p hpart => ?_, hkept, hmem⟩
    all_goals rw [hth]
    · exact domidStored_field _ _ _ (by decide) (by decide)
    · exact domidStored_field _ _ _ (by decide) (by decide)
    · exact (domidStored_ckpt _ _ _).trans (by rw [State.ckptGranted, hpart])
  case tidlim =>
    obtain ⟨t, he, hth, hkept, hmem⟩ := crwr_thread (hpriv hn rfl (by decide) (by decide) hs) (hcr hn rfl) rfl (crWrite_tidlim _ _ _)
      ⟨rfl, rfl, rfl, rfl⟩
    exact ⟨t, he, by rw [hth]; exact tidlimStored_eq _, hkept, hmem⟩
  case bmask =>
    have hp : s.crPriv f.num.toNat true = false := by rw [hn]; exact crPriv_supervisor _ hs (by omega) (by omega)
    have hw : s.crWaits s.turn (.bmask k) = false := decide_eq_false (BitVec.not_lt.2 hk)
    obtain ⟨t, he, hme, hkept, hmem⟩ := crwr_core hp (by rw [hn, crOf_bmask]) hw (crWrite_bmask _ _ _ _) rfl
    obtain ⟨hmask, hspan, hwd, hlow, hhigh⟩ := bmaskStored_fields (s.th.val f.a)
    refine ⟨t, he, ?_⟩
    rw [hme]
    simp [hmask, hspan, hwd, hlow, hhigh, hkept, hmem]
  case translation =>
    obtain ⟨c, htlb, t, he, hme, hkept, hmem⟩ : ∃ c : Core, c.tlb = s.me.tlb ∧ ∃ t, exec (.crwr f) s = .next t
        ∧ t.me = { c.globalOnly with threads := t.me.threads } ∧ RegistersKept s t ∧ Untouched s t := by
      rcases hn with hn | hn
      · have hrun := crwr_core (hpriv hn rfl (by decide) (by decide) hs) (hcr hn rfl) rfl (crWrite_ptbase _ _ _) rfl
        exact ⟨{ s.me with ptbase := fieldWrite s.me.ptbase (s.th.val f.a) 0xFFFF00003FFE0001 0 }, rfl, hrun⟩
      · have hrun := crwr_core (hpriv hn rfl (by decide) (by decide) hs) (hcr hn rfl) rfl (crWrite_asid _ _ _) rfl
        exact ⟨{ s.me with asid := fieldWrite s.me.asid (s.th.val f.a) 0xFFFF 0 }, rfl, hrun⟩
    obtain ⟨hglob, huglob⟩ := globalOnly_global c
    refine ⟨t, he, ?_, ?_, ?_, ?_, hkept, hmem⟩
    all_goals rw [hme]
    · exact hglob
    · exact fun e h hg => mem_globalOnly_tlb (htlb ▸ h) hg
    · exact huglob
    · rfl

end Sys2Proof.Machine
end
section
/-!
The register writes that come as events (R57, R58, R84, R269, R300, R335, R363, R369).
-/

namespace Sys2Proof.Machine

open Claims

/-! ### Memory under a filter of keys, and under writes above a key -/

section
variable {a : Nat} {p : Nat → Bool}

theorem Memory.read_filter_keep (m : List Host.Cell) (h : p a = true) : Memory.read (m.filter (fun c => p c.1)) a = Memory.read m a := by
  induction m with
  | nil => rfl
  | cons c t ih =>
    obtain ⟨k, b⟩ := c
    by_cases hk : a = k
    · subst hk; simp [h, Memory.read]
    · by_cases hp : p k = true <;> simp [hp, hk, Memory.read, ih]

theorem Memory.read_filter_drop (m : List Host.Cell) (h : p a = false) : Memory.read (m.filter (fun c => p c.1)) a = Memory.unlisted := by
  induction m with
  | nil => rfl
  | cons c t ih =>
    obtain ⟨k, b⟩ := c
    by_cases hp : p k = true
    · have hk : a ≠ k := fun e => by rw [← e, h] at hp; exact nomatch hp
      simp [hp, hk, Memory.read, ih]
    · simp [hp, ih]

end

theorem Memory.read_foldl_write_ne {α : Type} (l : List α) (k : α → Nat) (v : α → Byte) (m : List Host.Cell) {a : Nat}
    (h : ∀ c, a ≠ k c) : Memory.read (l.foldl (fun m c => Memory.write m (k c) (v c)) m) a = Memory.read m a := by
  induction l generalizing m with
  | nil => rfl
  | cons c t ih => exact (ih _).trans (Memory.read_write_ne m _ (h c))

/-- A new bank hash moves no byte below the scratchpad. -/
theorem Memory.read_rekey_below (fixed : Nat → Bool) {base a : Nat} (k k' : Nat) (m : List Host.Cell) (h : a < base) :
    Memory.read (rekey fixed base k k' m) a = Memory.read m a := by
  unfold rekey
  rw [Memory.read_foldl_write_ne _ _ _ _ (fun c => by omega)]
  exact Memory.read_filter_keep (p := fun a => !(decide (base ≤ a) && decide (a < base + 0x340000) && !fixed (a - base))) m
    (by simp [show ¬ base ≤ a by omega])

theorem State.byteAt_wipe (s : State) {l k : Loc} {n : Nat} (h : l.key ≤ k.key) (hk : k.key < l.key + n) : (s.wipe l n).byteAt k = 0 :=
  Memory.read_filter_drop (p := fun a => decide (a < l.key) || decide (l.key + n ≤ a)) s.mem (by simp; omega)

/-! ### The event of a register -/

theorem regs_warnIf (t : Thread) (w : Warn) (b : Bool) : (t.warnIf w b).regs = t.regs := by
  unfold Thread.warnIf; split <;> rfl


section
variable {s : State} {r n num : Nat} {v : Word}

theorem registerEvent_ok {c : Cr} (hr : crOf num = some c) (hw : s.crWaits { rank := r, slot := Fin.ofNat 5 n } c = false) :
    registerEvent r n num v s = .next (s.crWrite { rank := r, slot := Fin.ofNat 5 n } c v) := by
  simp only [registerEvent, hr, hw]
  rfl

/-- The event of a register of the thread at a slot. -/
theorem registerEvent_thread {w : Turn} {c : Cr} {g : Thread → Thread} (hw : w = { rank := r, slot := Fin.ofNat 5 n })
    (hr : crOf num = some c) (hwait : s.crWaits w c = false) (hg : s.crWrite w c v = s.modThAt w g) :
    ∃ t, registerEvent r n num v s = .next t ∧ t.thAt w = g (s.thAt w) ∧ Untouched s t := by
  subst hw
  exact ⟨_, registerEvent_ok hr hwait, by rw [hg]; simp, by rw [hg]; exact untouched_of_mem rfl⟩

/-- The event of a register of the core, which the monitor or the scheduler writes as slot 0 would. -/
theorem registerEvent_core {c : Cr} {g : Core → Core} (hr : crOf num = some c) (hwait : s.crWaits { rank := r, slot := 0 } c = false)
    (hg : s.crWrite { rank := r, slot := 0 } c v = s.modCore r g) :
    ∃ t, registerEvent r 0 num v s = .next t ∧ t.core r = g (s.core r) ∧ Untouched s t :=
  ⟨_, registerEvent_ok hr hwait, by rw [show (Fin.ofNat 5 0) = 0 from rfl, hg]; simp,
    by rw [show (Fin.ofNat 5 0) = 0 from rfl, hg]; exact untouched_of_mem rfl⟩

end

/-! ### Doorbells, the bank hash and the queue groups -/

theorem thAt_wakeBand (s : State) (b : Nat) (w : Turn) : (s.wakeBand b).thAt w = s.thAt w := by
  unfold State.wakeBand; split <;> rfl

theorem mem_wakeBand (s : State) (b : Nat) : (s.wakeBand b).mem = s.mem := by
  unfold State.wakeBand; split <;> rfl

theorem thAt_doorbell (s : State) (r : Nat) (n : Fin 5) (v : Word) : ((s.doorbell r n v).thAt { rank := r, slot := n }).ipend =
    if bit v 0 then setBit (s.thAt { rank := r, slot := n }).ipend 0 else (s.thAt { rank := r, slot := n }).ipend := by
  unfold State.doorbell
  split
  · rw [State.thAt_modThAt, thAt_wakeBand]
  · rfl

theorem mem_doorbell (s : State) (r : Nat) (n : Fin 5) (v : Word) : (s.doorbell r n v).mem = s.mem := by
  unfold State.doorbell
  split
  · exact mem_wakeBand _ _
  · rfl

/-- SPKEY keeps the low 16 bits of the operand (R84). -/
theorem fieldWrite_low16 (v : Word) : fieldWrite 0 v 0xFFFF 0 = word (v.toNat % 2 ^ 16) := by
  apply BitVec.eq_of_getLsbD_eq
  intro i hi
  have hmask : (0xFFFF : Word).getLsbD i = decide (i < 16) := by
    have : ∀ j < 64, (0xFFFF : Word).getLsbD j = decide (j < 16) := by decide
    exact this i hi
  have hbit := bit_fieldWrite 0 v 0xFFFF 0 i
  simp only [bit, hmask] at hbit
  rw [hbit, word, BitVec.getLsbD_ofNat, Nat.testBit_mod_two_pow]
  simp [BitVec.getLsbD, hi, Bool.and_comm]

theorem setSpkey_same {s : State} {r : Nat} {k : Word} (h : field (s.core r).spkey 0 16 = k.toNat) :
    s.setSpkey r k = s.modCore r (fun c => { c with spkey := k }) := by
  simp [State.setSpkey, h]

theorem core_setSpkey (s : State) (r : Nat) (k : Word) : (s.setSpkey r k).core r = { s.core r with spkey := k } := by
  unfold State.setSpkey
  dsimp only
  split
  · exact State.core_modCore _ _ _
  · exact State.core_modCore s r (fun c => { c with spkey := k })

/-- A new key moves bytes of the core's scratchpad, and of nothing below the scratchpads. -/
theorem byteAt_setSpkey (s : State) (r : Nat) (k : Word) {l : Loc} (h : l.key < 0x800000000000) :
    (s.setSpkey r k).byteAt l = s.byteAt l := by
  unfold State.setSpkey
  dsimp only
  split
  · rfl
  · exact Memory.read_rekey_below _ _ _ _ (Nat.lt_of_lt_of_le h (Nat.le_add_right _ _))

/-- HQGn as stored: HOLDER is writable while EN is 0 (R369). -/
def hqgStored (old v : Word) : Word := fieldWrite old v (if bit old 0 then 0x0000FFFFFFFF0001 else 0xFFFFFFFFFFFF0001) 0

theorem hqgStored_en (old v : Word) : bit (hqgStored old v) 0 = bit v 0 := by
  unfold hqgStored; split <;> exact bit_fieldWrite_rw (by decide)

theorem hqgStored_field (old v : Word) : field (hqgStored old v) 16 32 = field v 16 32 := by
  unfold hqgStored; split <;> exact field_fieldWrite_rw (by decide)

theorem hqgStored_holder_idle {old : Word} (v : Word) (h : bit old 0 = false) : field (hqgStored old v) 48 16 = field v 48 16 := by
  rw [hqgStored, h]; exact field_fieldWrite_rw (by decide)

theorem hqgStored_holder_enabled {old : Word} (v : Word) (h : bit old 0 = true) :
    field (hqgStored old v) 48 16 = field old 48 16 := by
  rw [hqgStored, h]; exact field_fieldWrite_ro (by decide)

section
variable (s : State) (q : Nat) (v : Word)

theorem setHqg_enabling (h : bit ((lookup s.hqg q).getD 0) 0 = false) (hv : bit v 0 = true) :
    s.setHqg q v = { s with hqg := insert s.hqg q (hqgStored ((lookup s.hqg q).getD 0) v) }.wipe
      (vaultLoc (field v 48 16) (0x3E000000 + q * 0x10000)) 0x10000 := by
  unfold State.setHqg
  dsimp only
  rw [← hqgStored, hqgStored_en, hqgStored_holder_idle v h, if_pos (by rw [h, hv]; rfl)]

theorem setHqg_else (h : bit ((lookup s.hqg q).getD 0) 0 = true ∨ bit v 0 = false) :
    s.setHqg q v = { s with hqg := insert s.hqg q (hqgStored ((lookup s.hqg q).getD 0) v) } := by
  unfold State.setHqg
  dsimp only
  rw [← hqgStored, hqgStored_en, if_neg (by rcases h with h | h <;> rw [h] <;> simp)]

theorem lookup_setHqg : lookup (s.setHqg q v).hqg q = some (hqgStored ((lookup s.hqg q).getD 0) v) := by
  by_cases h : bit ((lookup s.hqg q).getD 0) 0 = true ∨ bit v 0 = false
  · rw [setHqg_else s q v h]; exact lookup_insert_self _ _ _
  · obtain ⟨hoff, hon⟩ := not_or.1 h
    rw [setHqg_enabling s q v (Bool.eq_false_iff.2 hoff) (Bool.of_not_eq_false hon)]; exact lookup_insert_self _ _ _

/-- Enabling a group zeroes its frame (R371). -/
theorem byteAt_setHqg_enabling (h : bit ((lookup s.hqg q).getD 0) 0 = false) (hv : bit v 0 = true) {i : Nat} (hi : i < 0x10000) :
    (s.setHqg q v).byteAt (vaultLoc (field v 48 16) (0x3E000000 + q * 0x10000 + i)) = 0 := by
  rw [setHqg_enabling s q v h hv]
  exact State.byteAt_wipe _ (by simp only [Loc.key, vaultLoc]; omega) (by simp only [Loc.key, vaultLoc]; omega)

end

end Sys2Proof.Machine
end

section
namespace Sys2Proof.Machine

open Claims

/-- Settles O13: an event is one write of the thread at its slot (`registerEvent_thread`) or of the core (`registerEvent_core`),
with the stored values of `crwr`; SPKEY moves bytes of the scratchpad alone (`byteAt_setSpkey`), HQGn zeroes the frame it
enables (`byteAt_setHqg_enabling`). -/
theorem registerEvents : Obligations.RegisterEvents := by
  unfold Obligations.RegisterEvents
  refine ⟨fun r n w v s _ hw => ⟨?srseed, ?fpctl, fun p hp hg => ?errinj, ?doorbell, ?tscratch, ?ien⟩, fun r k v s hk => ?bmask,
    fun r v s => ?ptbase, fun r v s => ?spkey, fun q v s _ => ?hqg⟩
  case srseed =>
    obtain ⟨t, he, hth, hmem⟩ := registerEvent_thread (s := s) (num := 0x005) hw rfl rfl (crWrite_srseed s w v)
    exact ⟨t, he, by rw [hth]; exact storedSeed_eq v, by rw [hth]; rfl, hmem⟩
  case fpctl =>
    obtain ⟨t, he, hth, hmem⟩ := registerEvent_thread (s := s) (num := 0x001) hw rfl rfl (crWrite_fpctl s w v)
    have hfpctl : (t.thAt w).fpctl = fieldWrite (s.thAt w).fpctl (fpctlStored v) 0x1F1F07 0 := by
      rw [hth]; exact fpctl_warnIf _ _ _
    refine ⟨t, he, ?_, ?_, ?_, by rw [hth]; exact regs_warnIf _ _ _, hmem⟩
    all_goals rw [hfpctl]
    · exact (field_fieldWrite_rw (by decide)).trans (fpctlStored_rm v)
    · exact (field_fieldWrite_rw (by decide)).trans (fpctlStored_field v (.inl rfl))
    · exact (field_fieldWrite_rw (by decide)).trans (fpctlStored_field v (.inr rfl))
  case errinj =>
    obtain ⟨t, he, hth, hmem⟩ := registerEvent_thread (s := s) (num := 0x009) hw rfl rfl (crWrite_errinj s w v)
    refine ⟨t, ?_, ?_, ?_, ?_, hmem⟩
    · show execErrinjWrite r n v s = _
      simp [execErrinjWrite, hp, hg, he]
    all_goals rw [hth]
    · exact field_fieldWrite_rw (by decide)
    · exact field_fieldWrite_rw (by decide)
    · rfl
  case doorbell =>
    subst hw
    exact ⟨_, rfl, thAt_doorbell _ _ _ _, untouched_of_mem (mem_doorbell _ _ _ _)⟩
  case tscratch =>
    obtain ⟨t, he, hth, hmem⟩ := registerEvent_thread (s := s) (num := 0x105) hw rfl rfl (crWrite_tscratch s w v)
    exact ⟨t, he, by rw [hth], by rw [hth], hmem⟩
  case ien =>
    obtain ⟨t, he, hth, hmem⟩ := registerEvent_thread (s := s) (num := 0x106) hw rfl rfl (crWrite_ien s w v)
    exact ⟨t, he, by rw [hth]; exact field_fieldWrite_rw (by decide), by rw [hth], hmem⟩
  case bmask =>
    obtain ⟨t, he, hcore, hmem⟩ := registerEvent_core (s := s) (r := r) (v := v) (crOf_bmask k)
      (decide_eq_false (BitVec.not_lt.2 hk)) (crWrite_bmask s _ v k)
    obtain ⟨hmask, hspan, -⟩ := bmaskStored_fields v
    refine ⟨t, he, ?_⟩
    rw [hcore]
    simp only [Fin.getElem_fin, Vector.getElem_set_self, hmask, hspan, true_and]
    exact ⟨fun j hj => Vector.getElem_set_ne _ _ (fun e => hj (Fin.ext e.symm)), hmem⟩
  case ptbase =>
    obtain ⟨t, he, hcore, hmem⟩ := registerEvent_core (s := s) (r := r) (num := 0x10A) rfl rfl (crWrite_ptbase s _ v)
    refine ⟨t, he, ?_, ?_, ?_, ?_, ?_, ?_, hmem⟩
    all_goals rw [hcore]
    · exact field_fieldWrite_rw (by decide)
    · exact field_fieldWrite_rw (by decide)
    · exact bit_fieldWrite_rw (by decide)
    · exact (globalOnly_global _).1
    · exact (globalOnly_global _).2
    · rfl
  case spkey =>
    refine ⟨_, registerEvent_ok (r := r) (n := 0) (num := 0x10C) (c := .spkey) rfl rfl, ?_, fun hsame => ?_, fun k hk => ?_⟩
    all_goals rw [crWrite_spkey]
    · rw [core_setSpkey]; exact fieldWrite_low16 v
    · have hkey : field (s.core r).spkey 0 16 = (fieldWrite 0 v 0xFFFF 0).toNat := by
        rw [fieldWrite_low16, hsame, word, BitVec.toNat_ofNat]; omega
      rw [setSpkey_same hkey]; exact untouched_of_mem rfl
    · exact byteAt_setSpkey _ _ _ hk
  case hqg =>
    exact ⟨_, _, rfl, lookup_setHqg s q v, hqgStored_en _ v, hqgStored_field _ v, hqgStored_holder_idle v, hqgStored_holder_enabled v,
      fun hoff hon i hi => byteAt_setHqg_enabling s q v hoff hon hi, fun h => untouched_of_mem (by rw [setHqg_else s q v (.inl h)])⟩

end Sys2Proof.Machine
end
section
/-!
Scalar floating point: members that round once, members that do not round, and the FPX trap (R59, R179, R180).
-/

namespace Sys2Proof.Machine

open Claims

/-! ### Formats (R47, R179) -/

theorem scalarFmt_eq (f : FmtF) : scalarFmt f.fmt.val = fpFmt f := by
  have h : ∀ c : Fin 4, scalarFmt c.val = if c = 0 then f64 else if c = 1 then f32 else if c = 2 then bf16 else f16 := by
    intro c; fin_cases c <;> rfl
  exact h f.fmt

theorem signInject_eq (inv : Bool) (F : Fmt) (a b : Nat) : signInject inv F a b =
    a % 2 ^ (F.width - 1) + (if inv then 1 - b / 2 ^ (F.width - 1) % 2 else b / 2 ^ (F.width - 1) % 2) * 2 ^ (F.width - 1) := by
  rw [show F.width - 1 = F.eb + F.fb by unfold Fmt.width; omega]; rfl

/-! ### FPCTL under the writes of an fpu member -/

@[simp] theorem fpctl_putInt (t : Thread) (r : Reg) (v : Word) : (t.putInt r v).fpctl = t.fpctl := by
  unfold Thread.putInt Thread.put; split <;> rfl

theorem rm_putInt (t : Thread) (r : Reg) (v : Word) : (t.putInt r v).rm = t.rm := by
  rw [Thread.rm, fpctl_putInt]; rfl

theorem rm_raised (t : Thread) (fl : Flags) : (t.raised fl).rm = t.rm :=
  field_eq_of_bits fun _ hi => raised_fpctl_bit _ _ (by omega)

/-- A bit of WARN that is set stays set. -/
theorem Keeps.warn_sticky {p : Footprint} {a b : Thread} {i : Nat} (h : Keeps p a b) (ha : bit a.warn i = true) : bit b.warn i = true := by
  rcases h.warn i with hsame | ⟨-, hset⟩
  · rw [hsame, ha]
  · exact hset

/-! ### An fpu member that ends -/

/-- The thread after an fpu member: its flags, its destination, WARN.FMT for a mode that it does not honour, and its
lookahead, which is ignored. -/
def fpDone (f : FmtF) (r : Nat × Flags) (t : Thread) : Thread :=
  (((t.raised r.2).putInt f.d (word r.1)).warnIf .fmt (decide (t.rm = 5))).lkIgnored f.lk

section
variable {f : FmtF} {s : State} {r : Nat × Flags}

theorem fpDone_keeps (t : Thread) : Keeps (fpFoot f) t (fpDone f r t) :=
  (Keeps.raised rfl).trans ((Keeps.putInt (by simp [fpFoot])).trans ((Keeps.warnIf (by simp [fpFoot])).trans (Keeps.lkIgnored (by simp [fpFoot]))))

/-- What a member that ends in `fpDone` leaves. -/
theorem fpDone_claims {m : State → Result} (hm : m s = .next ((s.setTh (fpDone f r s.th)).modTh Thread.next)) :
    ∃ t, m s = .next t ∧ Completes (fpFoot f) s t ∧ t.th.get f.d = held f.d (.int (word r.1)) ∧ Flagged s.th t.th r.2
      ∧ (s.th.rm = 5 → bit t.th.warn 2 = true) := by
  refine ⟨_, hm, ?_, ?_, ?_, fun h => ?_⟩
  all_goals simp only [State.modTh_setTh, State.th_setTh]
  · exact Completes.setTh (fpDone_keeps _) (by simp [fpDone])
  · simp [fpDone, Thread.get_putInt]
  · have hfpctl : (fpDone f r s.th).next.fpctl = (s.th.raised r.2).fpctl := by
      show (fpDone f r s.th).fpctl = _
      simp [fpDone]
    intro i hi
    rw [hfpctl]; exact raised_flagged _ _ i hi
  · have hwarn : bit (((s.th.raised r.2).putInt f.d (word r.1)).warnIf .fmt true).warn 2 = true := warnIf_bit _ .fmt (by decide)
    show bit (fpDone f r s.th).warn 2 = true
    rw [fpDone, decide_eq_true h]
    exact Keeps.warn_sticky (Keeps.lkIgnored (p := fpFoot f) (by simp [fpFoot])) hwarn

/-- The operation of a rounding member over the operands and the mode that it has at issue (R55, R179). -/
def roundOf (f : FmtF) (t : Thread) (g : Fmt → Mode → Nat → Nat → Nat → Nat × Flags) : Nat × Flags :=
  g (fpFmt f) (scalarMode t) (fpOperand (fpFmt f) (t.val f.a)) (fpOperand (fpFmt f) (t.val f.b)) (fpOperand (fpFmt f) (t.val f.d))

theorem fpArith_eq (g : Fmt → Mode → Nat → Nat → Nat → Nat × Flags) : fpArith f g s = run (do
    fpWrite (roundOf f s.th g).2 (fun t => t.putInt f.d (word (roundOf f s.th g).1))
    updTh (fun t => (t.warnIf .fmt (decide (s.th.rm = 5))).lkIgnored f.lk)) s := by
  rw [roundOf, ← scalarFmt_eq]
  show run _ s = _
  simp only [run, M.bind_apply, thread_apply, effMode_dyn]
  rfl

theorem fpArith_ok {g : Fmt → Mode → Nat → Nat → Nat → Nat × Flags} (h : Untrapped s.th (roundOf f s.th g).2) :
    fpArith f g s = .next ((s.setTh (fpDone f (roundOf f s.th g) s.th)).modTh Thread.next) := by
  rw [fpArith_eq]
  refine run_ok ?_
  rw [M.bind_ok _ (fpWrite_ok _ h)]
  simp [fpDone]

theorem fpArith_trap {g : Fmt → Mode → Nat → Nat → Nat → Nat × Flags} (h : ¬ Untrapped s.th (roundOf f s.th g).2) (ho : s.th.outst = []) :
    fpArith f g s = .next (s.takeTrap
      { cause := .fpx, tval := word (roundOf f s.th g).2, kind := 0, out := false, flags := (roundOf f s.th g).2 }) := by
  rw [fpArith_eq]
  refine run_trap ?_ ho
  simp [M.bind_apply, fpWrite_trap _ h]

theorem fpPlain_ok {g : Fmt → Nat → Nat → Nat × Flags}
    (hr : g (fpFmt f) (fpOperand (fpFmt f) (s.th.val f.a)) (fpOperand (fpFmt f) (s.th.val f.b)) = r) (h : Untrapped s.th r.2) :
    fpPlain f g s = .next ((s.setTh (fpDone f r s.th)).modTh Thread.next) := by
  subst hr
  rw [← scalarFmt_eq] at h ⊢
  refine run_ok ?_
  rw [M.bind_ok _ (thread_apply s)]
  refine (M.bind_ok _ (fpWrite_ok _ h)).trans ?_
  have hrm : ∀ t : Thread, (t.effMode 7 false).2 = decide (t.rm = 5) := fun t => by rw [effMode_dyn]
  simp [fpDone, hrm, rm_putInt, rm_raised]
  rfl

theorem enterAt_slot {w : Turn} (hm : (s.thAt w).mode ≠ 2) (hi : bit (s.thAt w).thstat 5 = false) (c : Cause) (v : Word) (k : BitVec 4)
    (o : Bool) (epc : Ptr) (lk : BitVec 15) :
    s.enterAt w c v k o epc lk = s.setThAt w ((s.thAt w).enter (s.core w.rank).tvec false o k c.code v epc lk) := by
  simp only [State.enterAt, hi, if_neg hm]
  rfl

/-- Where the trap enters its handler at once, taking it sets the flags that it carries. -/
theorem flagged_takeTrap (h : MayTrap s) (c : Cause) (v : Word) (k : BitVec 4) (fl : Flags) :
    Flagged s.th (s.takeTrap { cause := c, tval := v, kind := k, out := false, flags := fl }).th fl := by
  have hthstat : (s.th.raised fl).thstat = s.th.thstat := by unfold Thread.raised; split <;> rfl
  have hreplay : (s.th.raised fl).replay = none := by
    unfold Thread.raised
    split
    · exact h.replay
    · exact h.replay
  have hmode : (s.modTh (·.raised fl)).th.mode ≠ 2 := by
    rw [State.th_modTh, Thread.mode, hthstat]; exact h.mode
  have hin : bit (s.modTh (·.raised fl)).th.thstat 5 = false := by
    rw [State.th_modTh, hthstat, h.intrap]
  have hnone : (s.modTh (·.raised fl)).th.replay = none := by rw [State.th_modTh]; exact hreplay
  have hfpctl : (s.takeTrap { cause := c, tval := v, kind := k, out := false, flags := fl }).th.fpctl = (s.th.raised fl).fpctl := by
    unfold State.takeTrap
    dsimp only
    rw [if_neg (show (s.modTh (·.raised fl)).turn.slot ≠ 4 from h.slot), hnone]
    dsimp only
    rw [enterAt_slot hmode hin]
    rw [show ∀ x, ((s.modTh (·.raised fl)).setThAt (s.modTh (·.raised fl)).turn x).th = x from fun x => State.thAt_setThAt _ _ x]
    show (s.modTh (·.raised fl)).th.fpctl = _
    rw [State.th_modTh]
  intro i hi
  rw [hfpctl]
  exact raised_flagged _ _ i hi

/-- The trap clause of a rounding member. -/
theorem fpArith_fpx {g : Fmt → Mode → Nat → Nat → Nat → Nat × Flags} (hs : MayTrap s) (h : ¬ Untrapped s.th (roundOf f s.th g).2) :
    ∃ t, fpArith f g s = .next t ∧ TrapEntry { flags := true } s t .fpx (word (roundOf f s.th g).2) 0
      ∧ Flagged s.th t.th (roundOf f s.th g).2 :=
  ⟨_, fpArith_trap h hs.outst, takeTrap_entry hs rfl (fun _ => rfl) (Keeps.refl _ _) rfl _ _ 0 _ (.inr rfl), flagged_takeTrap hs _ _ _ _⟩

end

/-! ### The members -/

/-- A rounding member is `fpArith` of an operation that rounds its exact result. -/
theorem fpRound_member {e : (FmtF → Instr) × Exact} (he : e ∈ fpRoundTable) : ∃ g : Fmt → Mode → Nat → Nat → Nat → Nat × Flags,
    (∀ f s, exec (e.1 f) s = fpArith f g s) ∧ ∀ F m a b d, g F m a b d = rounded F m (e.2 F m a b d) := by
  simp only [fpRoundTable, List.mem_cons, List.not_mem_nil, or_false] at he
  rcases he with rfl | rfl | rfl | rfl | rfl
  · exact ⟨fun F m a b _ => fpAdd F m a b, fun _ _ => rfl, fun _ _ _ _ _ => rfl⟩
  · exact ⟨fun F m a b _ => fpSub F m a b, fun _ _ => rfl, fun _ _ _ _ _ => rfl⟩
  · exact ⟨fun F m a b _ => fpMul F m a b, fun _ _ => rfl, fun _ _ _ _ _ => rfl⟩
  · exact ⟨fun F m a b d => fpFma F false false m a b d, fun _ _ => rfl, fun _ _ _ _ _ => rfl⟩
  · exact ⟨fun F m a b d => fpFma F false true m a b d, fun _ _ => rfl, fun _ _ _ _ _ => rfl⟩

/-- A member that does not round is `fpPlain` of its operation. -/
theorem fpPlain_member {e : (FmtF → Instr) × (Fmt → Nat → Nat → Nat × Flags)} (he : e ∈ fpPlainTable) :
    ∃ g : Fmt → Nat → Nat → Nat × Flags, (∀ f s, exec (e.1 f) s = fpPlain f g s) ∧ ∀ F a b, g F a b = e.2 F a b := by
  simp only [fpPlainTable, List.mem_cons, List.not_mem_nil, or_false] at he
  rcases he with rfl | rfl | rfl | rfl | rfl | rfl | rfl | rfl
  · exact ⟨fun F a b => F.minmax false a b, fun _ _ => rfl, fun _ _ _ => rfl⟩
  · exact ⟨fun F a b => F.minmax true a b, fun _ _ => rfl, fun _ _ _ => rfl⟩
  · exact ⟨fpEq, fun _ _ => rfl, fun F a b => by simp only [fpEq, ofBool]⟩
  · exact ⟨fpOrder false, fun _ _ => rfl, fun F a b => by simp only [fpOrder, ofBool, Bool.false_and, Bool.or_false]⟩
  · exact ⟨fpOrder true, fun _ _ => rfl, fun F a b => by simp only [fpOrder, ofBool, Bool.true_and]⟩
  · exact ⟨fun F a _ => (F.classMask a, 0), fun _ _ => rfl, fun _ _ _ => rfl⟩
  · exact ⟨fun F a b => (signInject false F a b, 0), fun _ _ => rfl, fun F a b => congrArg (·, 0) (signInject_eq _ F a b)⟩
  · exact ⟨fun F a b => (signInject true F a b, 0), fun _ _ => rfl, fun F a b => congrArg (·, 0) (signInject_eq _ F a b)⟩

end Sys2Proof.Machine
end

section
namespace Sys2Proof.Machine

open Claims

/-- Settles O6: a member is `fpArith` or `fpPlain` of its operation (`fpRound_member`, `fpPlain_member`), which end in `fpDone`
where no enabled flag is raised and in `takeTrap` where one is. -/
theorem scalarFpMembers : Obligations.ScalarFpMembers := by
  unfold Obligations.ScalarFpMembers
  refine ⟨fun e he f s r hr hun => ?round, fun e he f s r hr hun => ?plain, fun e he f s r hs hr hun => ?fpx⟩
  case round =>
    obtain ⟨g, hexec, hg⟩ := fpRound_member he
    have hround : roundOf f s.th g = r := (hg _ _ _ _ _).trans hr.symm
    rw [hexec, ← hround]
    exact fpDone_claims (fpArith_ok (hround ▸ hun))
  case plain =>
    obtain ⟨g, hexec, hg⟩ := fpPlain_member he
    rw [hexec]
    exact fpDone_claims (fpPlain_ok ((hg _ _ _).trans hr.symm) hun)
  case fpx =>
    obtain ⟨g, hexec, hg⟩ := fpRound_member he
    have hround : roundOf f s.th g = r := (hg _ _ _ _ _).trans hr.symm
    rw [hexec, ← hround]
    exact fpArith_fpx hs (hround ▸ hun)

end Sys2Proof.Machine
end
section
/-!
Elements of vector registers as functions of their index: registers, masks, merges, groups, and the draws of a conversion
(R44, R48, R56, R195-R198).
-/

namespace Sys2Proof.Machine

open Claims

/-! ### Fields of a number -/

theorem mod_div_mod {N a b : Nat} (p : Nat) (h : a + b ≤ N) : p % 2 ^ N / 2 ^ a % 2 ^ b = p / 2 ^ a % 2 ^ b := by
  apply Nat.eq_of_testBit_eq
  intro i
  simp only [Nat.testBit_mod_two_pow, Nat.testBit_div_two_pow]
  by_cases hi : i < b
  · simp [hi, show i + a < N by omega]
  · simp [hi]

theorem unpack_eq (w n x : Nat) : unpack w n x = (List.range n).map (fun i => x / 2 ^ (w * i) % 2 ^ w) := by
  induction n generalizing x with
  | zero => rfl
  | succ n ih =>
    rw [unpack, ih, List.range_succ_eq_map, List.map_cons, List.map_map]
    congr 1
    · simp
    · refine List.map_congr_left fun i _ => ?_
      rw [Function.comp, Nat.div_div_eq_div_mul, ← Nat.pow_add, Nat.succ_eq_add_one, Nat.mul_add, Nat.mul_one, Nat.add_comm]

theorem pack_lt (w : Nat) (l : List Nat) : pack w l < 2 ^ (w * l.length) := by
  induction l with
  | nil => simp [pack]
  | cons e r ih =>
    have he : e % 2 ^ w < 2 ^ w := Nat.mod_lt _ (Nat.two_pow_pos w)
    calc pack w (e :: r) = e % 2 ^ w + 2 ^ w * pack w r := rfl
      _ < 2 ^ w * (pack w r + 1) := by rw [Nat.mul_add]; omega
      _ ≤ 2 ^ w * 2 ^ (w * r.length) := Nat.mul_le_mul_left _ ih
      _ = 2 ^ (w * (e :: r).length) := by rw [← Nat.pow_add, List.length_cons, Nat.mul_add]; congr 1; omega

theorem pack_field (w : Nat) (l : List Nat) (i : Nat) : pack w l / 2 ^ (w * i) % 2 ^ w = l.getD i 0 % 2 ^ w := by
  induction l generalizing i with
  | nil => simp [pack]
  | cons e r ih =>
    have he : e % 2 ^ w < 2 ^ w := Nat.mod_lt _ (Nat.two_pow_pos w)
    cases i with
    | zero => simp [pack]
    | succ i =>
      have hdrop : pack w (e :: r) / 2 ^ w = pack w r := by
        rw [pack, Nat.add_mul_div_left _ _ (Nat.two_pow_pos w), Nat.div_eq_of_lt he, Nat.zero_add]
      rw [show w * (i + 1) = w + w * i by ring, Nat.pow_add, ← Nat.div_div_eq_div_mul, hdrop, ih]
      rfl

/-! ### Elements of a register -/

section
variable (ty : ElemType)

theorem memBits_le_regBits : ty.memBits ≤ ty.regBits := by
  unfold ElemType.regBits; split <;> omega

theorem elem_fits {i : Nat} (h : i < ty.count) : ty.regBits * i + ty.regBits ≤ 4096 := by
  have hmul : ty.regBits * ty.count ≤ 4096 := Nat.mul_div_le 4096 ty.regBits
  have hle : ty.regBits * (i + 1) ≤ ty.regBits * ty.count := Nat.mul_le_mul_left _ h
  rw [Nat.mul_add, Nat.mul_one] at hle
  exact hle.trans hmul

theorem elems_eq (x : VReg) : ty.elems x = (List.range ty.count).map (ty.elem x) := by
  rw [ElemType.elems, unpack_eq, List.map_map]
  refine List.map_congr_left fun i _ => ?_
  exact Nat.mod_mod_of_dvd _ (Nat.pow_dvd_pow 2 (memBits_le_regBits ty))

/-- Element `i` of a number below 2^4096 as a register holds it. -/
theorem elem_ofNat (p : Nat) {i : Nat} (h : i < ty.count) : ty.elem (BitVec.ofNat 4096 p) i = p / 2 ^ (ty.regBits * i) % 2 ^ ty.memBits := by
  have hfit := elem_fits ty h
  have hle := memBits_le_regBits ty
  rw [ElemType.elem, BitVec.toNat_ofNat, mod_div_mod (N := 4096) _ (by omega)]

theorem pack_elem (l : List Nat) (i : Nat) : pack ty.regBits l / 2 ^ (ty.regBits * i) % 2 ^ ty.memBits = l.getD i 0 % 2 ^ ty.memBits := by
  have hdvd := Nat.pow_dvd_pow 2 (memBits_le_regBits ty)
  rw [← Nat.mod_mod_of_dvd _ hdvd, pack_field, Nat.mod_mod_of_dvd _ hdvd]

theorem elem_reg (l : List Nat) {i : Nat} (h : i < ty.count) : ty.elem (ty.reg l) i = l.getD i 0 % 2 ^ ty.memBits := by
  rw [ElemType.reg, elem_ofNat ty _ h, pack_elem]

theorem elem_mod (x : VReg) (i : Nat) : ty.elem x i % 2 ^ ty.memBits = ty.elem x i := Nat.mod_mod _ _

end

theorem getD_map_range {α : Type} (g : Nat → α) (d : α) {n i : Nat} (h : i < n) : ((List.range n).map g).getD i d = g i := by
  simp [List.getD, h]

theorem getD_map_range_out {α : Type} (g : Nat → α) (d : α) {n i : Nat} (h : n ≤ i) : ((List.range n).map g).getD i d = d := by
  simp [List.getD, h]

/-! ### Masks and merges (R196) -/

theorem maskBits_eq (m : MReg) (n : Nat) : maskBits m n = (List.range n).map m.getLsbD := by
  rw [maskBits, unpack_eq, List.map_map]
  refine List.map_congr_left fun i _ => ?_
  simp [BitVec.getLsbD, Nat.testBit_eq_decide_div_mod_eq]

theorem governing_eq (t : Thread) (msk : Fin 4) (n : Nat) : maskBits (t.governing msk) n = (List.range n).map (active t msk) :=
  maskBits_eq _ _

theorem merged_map {α : Type} (l : List α) (act : α → Bool) (old : α → Nat) (res : α → Nat × Flags) :
    merged (l.map act) (l.map old) (l.map res) =
      (l.map (fun i => if act i then (res i).1 else old i), l.foldr (fun i x => if act i then (res i).2 ||| x else x) 0) := by
  induction l with
  | nil => rfl
  | cons x t ih =>
    simp only [List.map_cons, merged, ih, List.foldr_cons]
    by_cases h : act x <;> simp [h]

/-- Merge masking over the first `n` elements: what each holds, and the flags of the active ones. -/
theorem merged_range (n : Nat) (act : Nat → Bool) (old : Nat → Nat) (res : Nat → Nat × Flags) :
    merged ((List.range n).map act) ((List.range n).map old) ((List.range n).map res) =
      ((List.range n).map (fun i => if act i then (res i).1 else old i), orFlags n act (fun i => (res i).2)) := merged_map _ _ _ _

/-! ### Groups (R197, R198) -/

theorem everyNth_getD {k : Nat} (hk : 0 < k) (r : Nat) (l : List Nat) (q : Nat) : (everyNth k r l).getD q 0 = l.getD (r + k * q) 0 := by
  induction l generalizing r q with
  | nil => cases r <;> simp [everyNth]
  | cons x t ih =>
    cases r with
    | succ r =>
      rw [everyNth, ih, show r + 1 + k * q = (r + k * q) + 1 by omega]
      rfl
    | zero =>
      cases q with
      | zero => rfl
      | succ q =>
        rw [everyNth, show 0 + k * (q + 1) = (k - 1 + k * q) + 1 by rw [Nat.mul_add]; omega, List.getD_cons_succ, List.getD_cons_succ, ih]

theorem groupRegs_length (ty : ElemType) (k : Nat) (l : List Nat) : (groupRegs ty k l).length = k := by simp [groupRegs]

theorem groupRegs_getD (ty : ElemType) {k r : Nat} (h : r < k) (l : List Nat) : (groupRegs ty k l).getD r 0 = ty.reg (everyNth k r l) :=
  getD_map_range _ _ h

theorem groupElems_eq (t : Thread) (ty : ElemType) {k : Nat} (hk : 0 < k) (base n : Nat) :
    groupElems ty k n (t.group base k) = (List.range n).map (groupElem t ty base k) := by
  refine List.map_congr_left fun i _ => ?_
  rw [Thread.group, getD_map_range _ _ (Nat.mod_lt i hk)]
  rfl

/-- A write of a group leaves what a write of a vector register leaves. -/
theorem putGroup_preserves {α : Type} {P : Thread → α} (h : ∀ t r x, P (t.vput r x) = P t) (t : Thread) (base : Nat) (l : List VReg) :
    P (t.putGroup base l) = P t := by
  unfold Thread.putGroup
  induction l.zipIdx generalizing t with
  | nil => rfl
  | cons p r ih => exact (ih _).trans (h _ _ _)

theorem Keeps.putGroup {p : Footprint} {t : Thread} {base : Nat} {l : List VReg} (h : ∀ j < l.length, Fin.ofNat 32 (base + j) ∈ p.vregs) :
    Keeps p t (t.putGroup base l) := by
  have hmem : ∀ x ∈ l.zipIdx, Fin.ofNat 32 (base + x.2) ∈ p.vregs := fun x hx => h _ (List.snd_lt_of_mem_zipIdx hx)
  unfold Thread.putGroup
  revert hmem
  induction l.zipIdx generalizing t with
  | nil => exact fun _ => Keeps.refl _ _
  | cons x r ih =>
    exact fun hmem => (Keeps.vput (hmem x List.mem_cons_self)).trans (ih fun y hy => hmem y (List.mem_cons_of_mem _ hy))

theorem vregs_getD (t : Thread) (r : Reg) : t.vregs.getD r.val 0 = t.vget r := by
  simp [Thread.vget, Vector.getD]

/-- The registers after a list of them is written from the one at `base + n`. -/
theorem vget_writes (base : Nat) (l : List VReg) (n : Nat) (t : Thread) (r : Reg) (h : base + n + l.length ≤ 32) :
    ((l.zipIdx n).foldl (fun t p => t.vput (Fin.ofNat 32 (base + p.2)) p.1) t).vget r =
      if base + n ≤ r.val ∧ r.val < base + n + l.length then l.getD (r.val - (base + n)) 0 else t.vget r := by
  induction l generalizing n t with
  | nil => rw [if_neg (by simp)]; rfl
  | cons x xs ih =>
    rw [List.length_cons] at h ⊢
    rw [List.zipIdx_cons, List.foldl_cons, ih _ _ (by omega)]
    have hval : (Fin.ofNat 32 (base + n)).val = base + n := Nat.mod_eq_of_lt (by omega)
    by_cases hr : r.val = base + n
    · rw [if_neg (by omega), if_pos (by omega), show r = Fin.ofNat 32 (base + n) from Fin.ext (hr.trans hval.symm), Thread.vget_vput, hval]
      simp
    · rw [Thread.vget_vput_ne _ _ (fun e => hr (by rw [e, hval]))]
      by_cases hin : base + n ≤ r.val ∧ r.val < base + n + (xs.length + 1)
      · rw [if_pos (by omega), if_pos hin, show r.val - (base + n) = (r.val - (base + (n + 1))) + 1 by omega, List.getD_cons_succ]
      · rw [if_neg (by omega), if_neg hin]

theorem groupElem_putGroup (t : Thread) (ty : ElemType) {base k i : Nat} {l : List VReg} (hl : l.length = k) (hk : 0 < k) (h : base + k ≤ 32) :
    groupElem (t.putGroup base l) ty base k i = ty.elem (l.getD (i % k) 0) (i / k) := by
  have hi := Nat.mod_lt i hk
  have hreg := vget_writes base l 0 t ⟨base + i % k, by omega⟩ (by omega)
  rw [if_pos (by simp only; omega), ← vregs_getD] at hreg
  rw [groupElem, Thread.putGroup, hreg]
  simp

/-- Element `i` of a group that holds a list in source order. -/
theorem groupElem_groupRegs (t : Thread) (ty : ElemType) {base k i : Nat} (l : List Nat) (hk : 0 < k) (h : base + k ≤ 32) (hi : i / k < ty.count) :
    groupElem (t.putGroup base (groupRegs ty k l)) ty base k i = l.getD i 0 % 2 ^ ty.memBits := by
  rw [groupElem_putGroup t ty (groupRegs_length ty k l) hk h, groupRegs_getD ty (Nat.mod_lt i hk), elem_reg ty _ hi, everyNth_getD hk,
    Nat.mod_add_div]

/-- A group of one register is the register. -/
theorem groupElem_one (t : Thread) (ty : ElemType) (r : Reg) (i : Nat) : groupElem t ty r.val 1 i = ty.elem (t.vget r) i := by
  rw [groupElem, Nat.mod_one, Nat.div_one, Nat.add_zero, vregs_getD]

/-! ### The draws of a conversion (R56) -/

theorem countP_range_succ (act : Nat → Bool) (n : Nat) :
    (List.range (n + 1)).countP act = (if act 0 then 1 else 0) + (List.range n).countP (fun i => act (i + 1)) := by
  rw [List.range_succ_eq_map, List.countP_cons, List.countP_map, Nat.add_comm]
  rfl

/-- The generator after the draws of the active elements among the first `n`. -/
def seedAfter (act : Nat → Bool) (seed : Word) (n : Nat) : Word := Nat.iterate srNext ((List.range n).countP act) seed

theorem seedAfter_zero (act : Nat → Bool) (seed : Word) : seedAfter act seed 0 = seed := rfl

theorem seedAfter_succ (act : Nat → Bool) (seed : Word) (n : Nat) :
    seedAfter act seed (n + 1) = seedAfter (fun i => act (i + 1)) (if act 0 then srNext seed else seed) n := by
  unfold seedAfter
  rw [countP_range_succ]
  by_cases h : act 0 <;> simp [h, Nat.add_comm 1, Function.iterate_succ_apply]

theorem convertAll_eq (g : Nat → Nat → Nat × Flags) (sr : Bool) (n : Nat) (act : Nat → Bool) (x : Nat → Nat) (seed : Word) :
    convertAll g sr ((List.range n).map act) ((List.range n).map x) seed =
      ((List.range n).map (fun i => if act i then g (if sr then (seedAfter act seed (i + 1)).toNat / 2 ^ 32 else 0) (x i) else (0, 0)),
        if sr then seedAfter act seed n else seed) := by
  induction n generalizing act x seed with
  | zero => cases sr <;> rfl
  | succ n ih =>
    rw [List.range_succ_eq_map]
    simp only [List.map_cons, List.map_map, convertAll, Function.comp_def, Nat.succ_eq_add_one, ih]
    cases sr with
    | false => simp
    | true => simp only [Bool.true_and, if_true, seedAfter_succ act, seedAfter_zero]

end Sys2Proof.Machine
end
section
/-!
`vcvt`: one conversion for each active element, into a register or a group (R56, R207, R208).
-/

namespace Sys2Proof.Machine

open Claims

/-! ### Types -/

theorem elemType_cb2 : ∀ et : Fin 16, elemType et = .cb2 ↔ et = 14 := by decide

theorem count_eq_pow : ∀ et : Fin 16, ∃ j : Fin 5, (elemType et).count = 64 * 2 ^ j.val := by decide

theorem least_le_greatest (ty : ElemType) : ty.least ≤ ty.greatest := by
  have hpow : ∀ w, sintMin w ≤ sintMax w := fun w => by
    have : (0 : Int) < 2 ^ (w - 1) := by positivity
    unfold sintMin sintMax
    push_cast
    omega
  cases ty with
  | int w => exact hpow w
  | float F => exact (by decide : (0 : Int) ≤ 255)
  | cb2 => exact (by decide : (0 : Int) ≤ 255)
  | u8 => exact (by decide : (0 : Int) ≤ 255)

theorem clamp_eq {lo hi : Int} (h : lo ≤ hi) (x : Int) : clamp lo hi x = max lo (min hi x) := by
  unfold clamp; split
  · omega
  · split <;> omega

theorem narrow_eq (ty : ElemType) (sat : Bool) (x : Int) : ty.narrow sat x = intElem ty sat x := by
  rw [ElemType.narrow, clamp_eq (least_le_greatest ty)]; rfl

theorem convertElem_eq (src dst : ElemType) (m : Mode) (sat : Bool) (u a : Nat) :
    convertElem src dst m sat u a = convResult src dst m sat u a := by
  unfold convertElem convResult
  simp only [narrow_eq]
  rfl

/-! ### The group of a conversion -/

/-- The ratio of a conversion that is not ILLEGAL: 1, 2 or 4 registers, which hold the source's elements. -/
theorem cvtRatio_cases (a b : Fin 16) (h : (elemType a).count ≤ 4 * (elemType b).count) :
    (cvtRatio (elemType a) (elemType b) = 1 ∧ (elemType a).count ≤ (elemType b).count)
    ∨ (¬ (elemType a).count ≤ (elemType b).count ∧ cvtRatio (elemType a) (elemType b) = (elemType a).count / (elemType b).count
      ∧ (cvtRatio (elemType a) (elemType b) = 2 ∨ cvtRatio (elemType a) (elemType b) = 4)
      ∧ (elemType a).count = cvtRatio (elemType a) (elemType b) * (elemType b).count) := by
  unfold cvtRatio
  by_cases hle : (elemType a).count ≤ (elemType b).count
  · exact .inl ⟨if_pos hle, hle⟩
  · refine .inr ⟨hle, if_neg hle, ?_⟩
    rw [if_neg hle]
    obtain ⟨i, hi⟩ := count_eq_pow a
    obtain ⟨j, hj⟩ := count_eq_pow b
    have hpos := Nat.two_pow_pos j.val
    rw [hi, hj] at h hle ⊢
    have hlt : j.val < i.val := (Nat.pow_lt_pow_iff_right (by decide : 1 < 2)).1 (by omega)
    have hge : i.val ≤ j.val + 2 := (Nat.pow_le_pow_iff_right (by decide : 1 < 2)).1 (by rw [Nat.pow_add]; omega)
    obtain hd | hd : i.val = j.val + 1 ∨ i.val = j.val + 2 := by omega
    · have hdiv : 64 * 2 ^ i.val / (64 * 2 ^ j.val) = 2 := by
        rw [hd, Nat.pow_add]; exact Nat.div_eq_of_eq_mul_left (by omega) (by ring)
      rw [hdiv, hd, Nat.pow_add]
      omega
    · have hdiv : 64 * 2 ^ i.val / (64 * 2 ^ j.val) = 4 := by
        rw [hd, Nat.pow_add]; exact Nat.div_eq_of_eq_mul_left (by omega) (by ring)
      rw [hdiv, hd, Nat.pow_add]
      omega

theorem everyNth_one (l : List Nat) : everyNth 1 0 l = l := by
  induction l with
  | nil => rfl
  | cons x t ih => rw [everyNth, ih]

theorem putGroup_one (t : Thread) (r : Reg) (ty : ElemType) (l : List Nat) : t.putGroup r.val (groupRegs ty 1 l) = t.vput r (ty.reg l) := by
  simp [Thread.putGroup, groupRegs, everyNth_one]

theorem mem_groupRegsOf {vd : Reg} {k j : Nat} (h : j < k) : Fin.ofNat 32 (vd.val - vd.val % k + j) ∈ groupRegsOf vd k :=
  List.mem_map.2 ⟨j, List.mem_range.2 h, rfl⟩

/-- A group of 1, 2 or 4 ends within the registers. -/
theorem group_fits (vd : Reg) {k : Nat} (h : k = 1 ∨ k = 2 ∨ k = 4) : vd.val - vd.val % k + k ≤ 32 := by
  have := vd.isLt
  rcases h with rfl | rfl | rfl <;> omega

/-! ### The draws -/

/-- The draw of an active element is the state after the draws up to its own. -/
theorem drawAt_eq {t : Thread} {act : Nat → Bool} {i : Nat} (h : act i = true) :
    drawAt t act i = (seedAfter act t.srseed (i + 1)).toNat / 2 ^ 32 := by
  simp [drawAt, seedAfter, List.range_succ, List.countP_append, h]

theorem orFlags_congr {n : Nat} {act : Nat → Bool} {g h : Nat → Flags} (e : ∀ i < n, act i = true → g i = h i) :
    orFlags n act g = orFlags n act h := by
  refine List.foldr_ext _ _ _ fun i hi x => ?_
  by_cases ha : act i = true
  · rw [e i (List.mem_range.1 hi) ha]
  · simp [ha]

/-- A merge asks the results of the active elements alone. -/
theorem merged_congr {n : Nat} {act : Nat → Bool} {old : Nat → Nat} {res res' : Nat → Nat × Flags}
    (e : ∀ i < n, act i = true → res i = res' i) :
    merged ((List.range n).map act) ((List.range n).map old) ((List.range n).map res) =
      ((List.range n).map (fun i => if act i then (res' i).1 else old i), orFlags n act (fun i => (res' i).2)) := by
  rw [merged_range, orFlags_congr fun i hi ha => congrArg Prod.snd (e i hi ha)]
  congr 1
  refine List.map_congr_left fun i hi => ?_
  by_cases ha : act i = true
  · rw [e i (List.mem_range.1 hi) ha]
  · simp [ha]

/-! ### Warnings -/

theorem warnIf_false (t : Thread) (w : Warn) : t.warnIf w false = t := rfl

/-- A warning leaves what a bit of WARN leaves. -/
theorem warnIf_preserves {α : Type} {P : Thread → α} (h : ∀ t w, P (t.warnBit w) = P t) (t : Thread) (w : Warn) (b : Bool) :
    P (t.warnIf w b) = P t := by
  unfold Thread.warnIf; split
  · exact h _ _
  · rfl

@[simp] theorem vregs_warnIf (t : Thread) (w : Warn) (b : Bool) : (t.warnIf w b).vregs = t.vregs :=
  warnIf_preserves (P := Thread.vregs) (fun _ _ => rfl) t w b

@[simp] theorem srseed_warnIf (t : Thread) (w : Warn) (b : Bool) : (t.warnIf w b).srseed = t.srseed :=
  warnIf_preserves (P := Thread.srseed) (fun _ _ => rfl) t w b

/-- A change of the generator leaves what such a change and DIRTY.C leave. -/
theorem seeded_preserves {α : Type} {P : Thread → α} (h : ∀ t x, P (Thread.touchC { t with srseed := x }) = P t) (t : Thread) (sr : Bool)
    (x : Word) : P (t.seeded sr x) = P t := by
  unfold Thread.seeded; split
  · exact h _ _
  · rfl

@[simp] theorem vregs_seeded (t : Thread) (sr : Bool) (x : Word) : (t.seeded sr x).vregs = t.vregs :=
  seeded_preserves (P := Thread.vregs) (fun _ _ => rfl) t sr x

@[simp] theorem fpctl_seeded (t : Thread) (sr : Bool) (x : Word) : (t.seeded sr x).fpctl = t.fpctl :=
  seeded_preserves (P := Thread.fpctl) (fun _ _ => rfl) t sr x

@[simp] theorem pc_seeded (t : Thread) (sr : Bool) (x : Word) : (t.seeded sr x).pc = t.pc :=
  seeded_preserves (P := Thread.pc) (fun _ _ => rfl) t sr x

@[simp] theorem outst_seeded (t : Thread) (sr : Bool) (x : Word) : (t.seeded sr x).outst = t.outst :=
  seeded_preserves (P := Thread.outst) (fun _ _ => rfl) t sr x

@[simp] theorem srseed_seeded (t : Thread) (sr : Bool) (x : Word) : (t.seeded sr x).srseed = if sr then x else t.srseed := by
  unfold Thread.seeded; split <;> rfl

theorem Keeps.seeded {p : Footprint} {t : Thread} {sr : Bool} {x : Word} (h : p.seed = true) : Keeps p t (t.seeded sr x) := by
  unfold Thread.seeded; split
  · exact Keeps.reseeded h
  · exact Keeps.refl _ _

/-! ### The thread after `vcvt` -/

/-- What a group of a conversion holds at element `i`. -/
def cvtElem (f : FmtVcvt) (t : Thread) (res : Nat → Nat × Flags) (i : Nat) : Nat :=
  let dst := elemType f.det
  let k := cvtRatio (elemType f.et) dst
  if active t f.msk i then (res i).1 else groupElem t dst (f.vd.val - f.vd.val % k) k i

/-- The thread after `vcvt` between different types: flags, group, generator, and the warnings of R162 and R198. -/
def cvtDone (f : FmtVcvt) (fl : Flags) (res : Nat → Nat × Flags) (t : Thread) : Thread :=
  let src := elemType f.et
  let dst := elemType f.det
  let k := cvtRatio src dst
  let base := f.vd.val - f.vd.val % k
  let sr := decide (cvtMode f t = 5)
  let seed := if sr then seedAfter (active t f.msk) t.srseed src.count else t.srseed
  (((((t.raised fl).putGroup base (groupRegs dst k ((List.range src.count).map (cvtElem f t res)))).seeded sr seed).warnIf .fmt
    (decide (f.md ≠ 0) || decide (f.rm.val = 6))).warnIf .align (decide (base ≠ f.vd.val))).warnIf .ovlp (inGroup base k f.va)

theorem effMode_cvt (f : FmtVcvt) (t : Thread) : (t.effMode f.rm.val true).1 = cvtMode f t := by
  simp [Thread.effMode, cvtMode]

section
variable {f : FmtVcvt} {s : State} {res : Nat → Nat × Flags} {fl : Flags}

theorem execVcvt_ok (hne : elemType f.et ≠ elemType f.det) (ha : f.et ≠ 14) (hb : f.det ≠ 14)
    (hcount : (elemType f.et).count ≤ 4 * (elemType f.det).count)
    (hres : ∀ i, res i = convResult (elemType f.et) (elemType f.det) (cvtMode f s.th) f.sat
      (if cvtMode f s.th = 5 then drawAt s.th (active s.th f.msk) i else 0) ((elemType f.et).elem (s.th.vget f.va) i))
    (hfl : fl = orFlags (elemType f.et).count (active s.th f.msk) (fun i => (res i).2)) (hun : Untrapped s.th fl) :
    execVcvt f s = .next ((s.setTh (cvtDone f fl res s.th)).modTh Thread.next) := by
  have hcb : ¬ (elemType f.et = .cb2 ∨ elemType f.det = .cb2) := by rw [elemType_cb2, elemType_cb2]; tauto
  have hconv : ∀ i, active s.th f.msk i = true →
      convertElem (elemType f.et) (elemType f.det) (cvtMode f s.th) f.sat
        (if decide (cvtMode f s.th = 5) = true then (seedAfter (active s.th f.msk) s.th.srseed (i + 1)).toNat / 2 ^ 32 else 0)
        ((elemType f.et).elem (s.th.vget f.va) i) = res i := fun i hi => by
    simp only [convertElem_eq, hres, drawAt_eq hi, decide_eq_true_eq]
  have hmerge : merged ((List.range (elemType f.et).count).map (active s.th f.msk)) ((List.range (elemType f.et).count).map
      (groupElem s.th (elemType f.det) (f.vd.val - f.vd.val % cvtRatio (elemType f.et) (elemType f.det)) (cvtRatio (elemType f.et) (elemType f.det))))
      ((List.range (elemType f.et).count).map (fun i => if active s.th f.msk i then
        convertElem (elemType f.et) (elemType f.det) (cvtMode f s.th) f.sat
          (if decide (cvtMode f s.th = 5) = true then (seedAfter (active s.th f.msk) s.th.srseed (i + 1)).toNat / 2 ^ 32 else 0)
          ((elemType f.et).elem (s.th.vget f.va) i) else (0, 0))) = ((List.range (elemType f.et).count).map (cvtElem f s.th res), fl) := by
    rw [merged_congr (res' := res) fun i _ hi => by rw [if_pos hi, hconv i hi], hfl]
    rfl
  refine run_ok ?_
  simp only [M.bind_apply, M.ite_apply, if_neg hcb, if_neg (Nat.not_lt.2 hcount), if_neg hne, thread_apply, governing_eq, elems_eq,
    convertAll_eq, effMode_cvt]
  rcases cvtRatio_cases f.et f.det hcount with ⟨hk, hle⟩ | ⟨hle, hk, hcases, hmul⟩
  · have hold : ((List.range (elemType f.det).count).map ((elemType f.det).elem (s.th.vget f.vd))).take (elemType f.et).count =
        (List.range (elemType f.et).count).map (groupElem s.th (elemType f.det) (f.vd.val - f.vd.val % 1) 1) := by
      rw [← List.map_take, List.take_range, Nat.min_eq_left hle]
      exact List.map_congr_left fun i _ => by rw [Nat.mod_one, Nat.sub_zero, groupElem_one]
    rw [hk] at hmerge
    rw [if_pos hle, hold, hmerge, fpWrite_ok _ hun]
    have hgroup : inGroup f.vd.val 1 f.va = false := by simp [inGroup]
    simp only [updTh_apply, State.modTh_setTh, cvtDone, hk, Nat.mod_one, Nat.sub_zero, putGroup_one, hgroup, ne_eq, not_true_eq_false,
      decide_false, warnIf_false]
  · have hpos : 0 < cvtRatio (elemType f.et) (elemType f.det) := by omega
    rw [if_neg hle, groupBase, ← hk, groupElems_eq _ _ hpos, hmerge, fpWrite_ok _ hun]
    simp only [updTh_apply, State.modTh_setTh, cvtDone]

theorem cvtDone_fpctl (t : Thread) : (cvtDone f fl res t).fpctl = (t.raised fl).fpctl := by
  simp only [cvtDone, fpctl_warnIf, fpctl_seeded]
  exact putGroup_preserves (P := Thread.fpctl) (fun _ _ _ => rfl) _ _ _

theorem cvtDone_pc (t : Thread) : (cvtDone f fl res t).pc = t.pc := by
  simp only [cvtDone, Thread.warnIf_pc, pc_seeded]
  exact (putGroup_preserves (P := Thread.pc) (fun _ _ _ => rfl) _ _ _).trans (by simp)

theorem cvtDone_srseed (t : Thread) : (cvtDone f fl res t).srseed =
    if cvtMode f t = 5 then seedAfter (active t f.msk) t.srseed (elemType f.et).count else t.srseed := by
  simp only [cvtDone, srseed_warnIf, srseed_seeded, decide_eq_true_eq]
  rw [putGroup_preserves (P := Thread.srseed) (fun _ _ _ => rfl)]
  by_cases h : cvtMode f t = 5 <;> simp [h]

theorem cvtDone_vregs (t : Thread) : (cvtDone f fl res t).vregs =
    ((t.raised fl).putGroup (f.vd.val - f.vd.val % cvtRatio (elemType f.et) (elemType f.det)) (groupRegs (elemType f.det)
      (cvtRatio (elemType f.et) (elemType f.det)) ((List.range (elemType f.et).count).map (cvtElem f t res)))).vregs := by
  simp only [cvtDone, vregs_warnIf, vregs_seeded]

theorem cvtDone_keeps {k : Nat} (hk : cvtRatio (elemType f.et) (elemType f.det) = k) (t : Thread) :
    Keeps { vregs := groupRegsOf f.vd k, warn := [.fmt, .align, .ovlp], flags := true, seed := true } t (cvtDone f fl res t) := by
  subst hk
  exact
    (Keeps.raised rfl).trans <| (Keeps.putGroup fun j hj => mem_groupRegsOf (by rwa [groupRegs_length] at hj)).trans <|
      (Keeps.seeded rfl).trans <| (Keeps.warnIf (by simp)).trans <| (Keeps.warnIf (by simp)).trans (Keeps.warnIf (by simp))

/-- Element `i` of the group: the old one where it is inactive (R196). -/
theorem cvtDone_elem {t : Thread} {i : Nat} (hcount : (elemType f.et).count ≤ 4 * (elemType f.det).count) (hi : i < (elemType f.et).count) :
    groupElem (cvtDone f fl res t) (elemType f.det) (f.vd.val - f.vd.val % cvtRatio (elemType f.et) (elemType f.det))
        (cvtRatio (elemType f.et) (elemType f.det)) i =
      if active t f.msk i then (res i).1 % 2 ^ (elemType f.det).memBits
      else groupElem t (elemType f.det) (f.vd.val - f.vd.val % cvtRatio (elemType f.et) (elemType f.det))
        (cvtRatio (elemType f.et) (elemType f.det)) i := by
  obtain ⟨hk, hslot⟩ : (cvtRatio (elemType f.et) (elemType f.det) = 1 ∨ cvtRatio (elemType f.et) (elemType f.det) = 2
      ∨ cvtRatio (elemType f.et) (elemType f.det) = 4)
      ∧ i / cvtRatio (elemType f.et) (elemType f.det) < (elemType f.det).count := by
    rcases cvtRatio_cases f.et f.det hcount with ⟨hk, hle⟩ | ⟨-, -, hk, hmul⟩
    · exact ⟨.inl hk, by rw [hk, Nat.div_one]; omega⟩
    · exact ⟨.inr hk, Nat.div_lt_of_lt_mul (hmul ▸ hi)⟩
  rw [groupElem, cvtDone_vregs, ← groupElem, groupElem_groupRegs _ _ _ (by omega) (group_fits _ hk) hslot, getD_map_range _ _ hi, cvtElem]
  split
  · rfl
  · exact elem_mod _ _ _

/-- The elements past the source's count are zero. -/
theorem cvtDone_tail {t : Thread} {i : Nat} (hcount : (elemType f.et).count ≤ 4 * (elemType f.det).count) (hge : (elemType f.et).count ≤ i)
    (hi : i < (elemType f.det).count) : (elemType f.det).elem ((cvtDone f fl res t).vget f.vd) i = 0 := by
  obtain ⟨hk, -⟩ | ⟨hlt, -⟩ := cvtRatio_cases f.et f.det hcount
  · rw [← vregs_getD, cvtDone_vregs, vregs_getD, hk, Nat.mod_one, Nat.sub_zero, putGroup_one, Thread.vget_vput, elem_reg _ _ hi,
      getD_map_range_out _ _ hge, Nat.zero_mod]
  · omega

/-- A `vcvt` to the type that it comes from: vd merges va's bits, with WARN.ETC. -/
def cvtCopied (f : FmtVcvt) (t : Thread) : Thread :=
  let ty := elemType f.et
  ((t.vput f.vd (ty.reg ((List.range ty.count).map (fun i => if active t f.msk i then ty.elem (t.vget f.va) i else ty.elem (t.vget f.vd) i)))).warnBit
    .etc).warnIf .fmt (decide (f.md ≠ 0) || decide (f.rm.val = 6))

theorem cvtCopied_keeps (t : Thread) : Keeps { vregs := [f.vd], warn := [.fmt, .etc] } t (cvtCopied f t) :=
  (Keeps.vput (by simp)).trans <| (Keeps.warnBit (by simp)).trans (Keeps.warnIf (by simp))

theorem cvtCopied_etc (t : Thread) : bit (cvtCopied f t).warn 6 = true :=
  Keeps.warn_sticky (Keeps.warnIf (p := { warn := [.fmt] }) (by simp)) (by
    show bit (setBit _ 6) 6 = true
    rw [bit_setBit]; simp)

theorem cvtCopied_elem {t : Thread} {i : Nat} (hi : i < (elemType f.et).count) : (elemType f.et).elem ((cvtCopied f t).vget f.vd) i =
    (elemType f.et).elem (if active t f.msk i then t.vget f.va else t.vget f.vd) i := by
  have hreg : (cvtCopied f t).vget f.vd = (elemType f.et).reg ((List.range (elemType f.et).count).map
      (fun i => if active t f.msk i then (elemType f.et).elem (t.vget f.va) i else (elemType f.et).elem (t.vget f.vd) i)) :=
    (Thread.warnIf_vget _ _ _ _).trans (Thread.vget_vput _ _ _)
  rw [hreg, elem_reg _ _ hi, getD_map_range _ _ hi]
  split <;> exact elem_mod _ _ _

theorem execVcvt_copy (heq : f.et = f.det) (hne : f.et ≠ 14) :
    execVcvt f s = .next ((s.setTh (cvtCopied f s.th)).modTh Thread.next) := by
  have hcb : ¬ (elemType f.et = .cb2 ∨ elemType f.det = .cb2) := by rw [← heq, elemType_cb2]; simpa using hne
  refine run_ok ?_
  simp only [M.bind_apply, M.ite_apply, if_neg hcb]
  simp only [← heq, if_neg (show ¬ 4 * (elemType f.et).count < (elemType f.et).count by omega),
    if_true, thread_apply, governing_eq, elems_eq, List.map_map, Function.comp_def, merged_range, updTh_apply]
  simp [cvtCopied, State.modTh_eq]

theorem execVcvt_illegal (h : f.et = 14 ∨ f.det = 14 ∨ 4 * (elemType f.det).count < (elemType f.et).count) :
    execVcvt f s = run (illegal (.vcvt f)) s := by
  unfold execVcvt
  by_cases hcb : elemType f.et = .cb2 ∨ elemType f.det = .cb2
  · simp only [run, M.bind_apply, if_pos hcb, illegal_apply]
  · rw [elemType_cb2, elemType_cb2] at hcb
    simp only [run, M.bind_apply, elemType_cb2, if_neg hcb, if_pos (show 4 * (elemType f.det).count < (elemType f.et).count by tauto),
      illegal_apply]

end

end Sys2Proof.Machine
end

section
namespace Sys2Proof.Machine

open Claims

/-- Settles O19: a conversion of different types ends in `cvtDone`, whose group holds the merged results in source order
(`groupElem_groupRegs`) and whose generator is the one after the draws of the active elements (`convertAll_eq`). -/
theorem vectorConverts : Obligations.VectorConverts := by
  unfold Obligations.VectorConverts
  refine ⟨?convert, ?copy, ?illegal⟩
  case convert =>
    rintro f s _ _ _ _ res fl rfl rfl hne ha hb hcount rfl rfl hres hfl hun
    refine ⟨_, execVcvt_ok hne ha hb hcount hres hfl hun, ?_, ?_, ?_, ?_, ?_⟩
    all_goals simp only [State.modTh_setTh, State.th_setTh]
    · exact Completes.setTh (cvtDone_keeps rfl _) (cvtDone_pc _)
    · intro i hi
      rw [show (cvtDone f fl res s.th).next.fpctl = (s.th.raised fl).fpctl from cvtDone_fpctl _]
      exact raised_flagged _ _ i hi
    · intro i hi
      exact cvtDone_elem hcount hi
    · intro i hge hlt
      exact cvtDone_tail hcount hge hlt
    · exact cvtDone_srseed _
  case copy =>
    intro f s heq hne
    refine ⟨_, execVcvt_copy heq hne, ?_, ?_, fun i hi => ?_⟩
    all_goals simp only [State.modTh_setTh, State.th_setTh]
    · exact Completes.setTh (cvtCopied_keeps _) (by simp [cvtCopied, Thread.vput, Thread.warnBit, Thread.touchC])
    · exact cvtCopied_etc _
    · exact cvtCopied_elem hi
  case illegal =>
    intro f s hs h
    obtain ⟨t, he, hentry⟩ := trap_entry hs (illegal_apply s (.vcvt f))
    exact ⟨t, (execVcvt_illegal h).trans he, hentry⟩

end Sys2Proof.Machine
end
section
/-!
Lists of results as functions of an index, in runs of a block each; the flags and the draws of all of them (R56, R209-R212).
-/

namespace Sys2Proof.Machine

open Claims

/-! ### Runs -/

theorem eq_map_getD {α : Type} (l : List α) (d : α) : l = (List.range l.length).map (fun i => l.getD i d) := by
  refine List.ext_getElem (by simp) fun i h _ => ?_
  simp [h]

/-- Run `j` of a list given by index. -/
theorem run_map_range {α : Type} (h : Nat → α) {n b j : Nat} (hj : j * b + b ≤ n) :
    (((List.range n).map h).drop (j * b)).take b = (List.range b).map (fun i => h (j * b + i)) := by
  refine List.ext_getElem (by simp; omega) fun i _ _ => ?_
  simp

theorem chunks_eq {α : Type} (q n : Nat) (l : List α) : chunks q n l = (List.range n).map (fun j => (l.drop (j * q)).take q) := by
  induction n generalizing l with
  | zero => rfl
  | succ n ih =>
    rw [chunks, ih, List.range_succ_eq_map, List.map_cons, List.map_map]
    congr 1
    · simp
    · refine List.map_congr_left fun j _ => ?_
      rw [List.drop_drop, Function.comp, Nat.succ_mul, Nat.add_comm]

theorem chunks_map_range {α : Type} (h : Nat → α) {q n N : Nat} (hN : n * q ≤ N) :
    chunks q n ((List.range N).map h) = (List.range n).map (fun j => (List.range q).map (fun i => h (j * q + i))) := by
  rw [chunks_eq]
  refine List.map_congr_left fun j hj => run_map_range h (le_trans ?_ hN)
  rw [← Nat.succ_mul]
  exact Nat.mul_le_mul_right q (List.mem_range.1 hj)

/-- Runs of equal length, one after the other. -/
theorem flatten_runs {α : Type} (g : Nat → List α) (d : α) {b : Nat} (n : Nat) (hb : 0 < b) (h : ∀ j < n, (g j).length = b) :
    ((List.range n).map g).flatten = (List.range (n * b)).map (fun i => (g (i / b)).getD (i % b) d) := by
  induction n with
  | zero => simp
  | succ n ih =>
    have hlast : g n = (List.range b).map (fun i => (g ((n * b + i) / b)).getD ((n * b + i) % b) d) := by
      conv_lhs => rw [eq_map_getD (g n) d, h n (Nat.lt_succ_self n)]
      refine List.map_congr_left fun i hi => ?_
      have hi := List.mem_range.1 hi
      rw [Nat.add_comm, Nat.add_mul_div_right _ _ hb, Nat.div_eq_of_lt hi, Nat.zero_add, Nat.add_mul_mod_self_right, Nat.mod_eq_of_lt hi]
    rw [List.range_succ, List.map_append, List.flatten_append, ih fun j hj => h j (by omega), Nat.succ_mul, List.range_add, List.map_append,
      List.map_map]
    congr 1
    simpa [Function.comp_def] using hlast

/-! ### Flags -/

theorem foldl_or {α : Type} (g : α → Nat) (l : List α) (a : Nat) :
    l.foldl (fun x p => x ||| g p) a = a ||| l.foldr (fun p x => g p ||| x) 0 := by
  induction l generalizing a with
  | nil => simp
  | cons p t ih => rw [List.foldl_cons, ih, List.foldr_cons, Nat.or_assoc]

theorem foldl_flags (n : Nat) (res : Nat → Nat × Flags) :
    ((List.range n).map res).foldl (fun x p => x ||| p.2) 0 = orFlags n (fun _ => true) (fun i => (res i).2) := by
  rw [foldl_or, Nat.zero_or, List.foldr_map]
  simp [orFlags]

/-! ### Draws (R56) -/

theorem draws_eq (n : Nat) (seed : Word) : draws n seed =
    ((List.range n).map (fun i => (Nat.iterate srNext (i + 1) seed).toNat / 2 ^ 32), Nat.iterate srNext n seed) := by
  induction n generalizing seed with
  | zero => rfl
  | succ n ih =>
    rw [draws, ih, List.range_succ_eq_map, List.map_cons, List.map_map]
    rfl

end Sys2Proof.Machine
end
section
/-!
`vqnt`, `vdqnt` and `vcbdec`: block scales, quantised blocks, and products rounded once (R50-R53, R64-R66, R209-R212).
-/

namespace Sys2Proof.Machine

open Claims

/-! ### A long-latency word that rounds (R22, R59) -/

/-- What such a word leaves where no enabled flag is raised: `w` writes its results. -/
theorem fpIssue_claims {p : Footprint} {lk : Fin 16} {d : List Res} {fl : Flags} {w : Thread → Thread} {s : State} {m : State → Result}
    (hm : m s = .next ((s.modTh (fun t => t.fpIssue lk d fl w)).modTh Thread.next)) (hun : Untrapped s.th fl) (hp : p.outst = true)
    (hflags : p.flags = true) (hkeep : ∀ t, Keeps p t (w t)) (hpc : ∀ t, (w t).pc = t.pc) (hout : ∀ t, (w t).outst = t.outst)
    (hfp : ∀ t, (w t).fpctl = t.fpctl) :
    ∃ t, m s = .next t ∧ Completes p s t ∧ Issued s t lk d ∧ Flagged s.th t.th fl
      ∧ (∀ r, t.th.vget r = (w (s.th.raised fl)).vget r) ∧ t.th.srseed = (w (s.th.raised fl)).srseed := by
  have houtst : ((w (s.th.raised fl)).issueOut lk d).outst = s.th.outst ++
      [{ pc := (w (s.th.raised fl)).pc, lk := lk.val, issued := 0, done := 0, dest := d, trap := none, wait := .ready }] := by
    rw [Thread.issueOut_outst, hout]; simp
  have hpcs : (w (s.th.raised fl)).pc = s.th.pc := by rw [hpc]; simp
  refine ⟨_, hm, ?_⟩
  rw [State.modTh_modTh, State.modTh_eq, fpIssue_ok _ _ _ hun]
  refine ⟨Completes.setTh ((Keeps.raised hflags).trans ((hkeep _).trans (Keeps.issueOut hp))) hpcs, ?_⟩
  unfold Issued
  simp only [State.th_setTh]
  refine ⟨⟨_, houtst, hpcs, rfl, rfl, rfl⟩, fun i hi => ?_, fun r => rfl, rfl⟩
  rw [show ((w (s.th.raised fl)).issueOut lk d).next.fpctl = (w (s.th.raised fl)).fpctl from rfl, hfp]
  exact raised_flagged _ _ i hi

/-- A long-latency word that issues with a trap of its own (R26). -/
theorem issueTrap_claims {lk : Fin 16} {d : List Res} {c : Cause} {v : Word} {s : State} {m : State → Result}
    (hm : m s = .next ((s.modTh (fun t => t.issueTrap lk d c v 0)).modTh Thread.next)) :
    ∃ t, m s = .next t ∧ Completes { outst := true } s t ∧ IssuedTrap s t lk d c v := by
  refine ⟨_, hm, ?_⟩
  rw [State.modTh_modTh, State.modTh_eq]
  exact ⟨Completes.setTh (Keeps.issueTrap rfl) rfl, _, by rw [State.th_setTh]; rfl, rfl, rfl, rfl, rfl⟩

/-! ### Codes (R209) -/

/-- What a legal quantisation code stands for. -/
structure QuantShape (f : FmtVl) (w : Fmt) (b : Nat) (mx : Bool) : Prop where
  form : quantForm f = some (w, b, mx)
  count : (ElemType.float w).count = 4096 / w.width
  pos : 0 < b
  blocks : 4096 / w.width / b * b = 4096 / w.width
  elements : 4096 / w.width ≤ 256
  scales : 4096 / w.width / b ≤ 8
  narrow : (elemType f.et).regBits ≤ 8
  fits : 4096 / w.width ≤ (elemType f.et).count
  greatest : ∃ m e, qmaxOf (elemType f.et) = .fin false m e
  float : mx = true → ∃ F, elemType f.et = .float F

theorem wide_cases {c : Nat} {w : Fmt} (h : (c, w) ∈ ([(0, f32), (1, bf16), (2, f16)] : List (Nat × Fmt))) :
    wideType c = some w ∧ (ElemType.float w).count = 4096 / w.width ∧ (4096 / w.width = 128 ∨ 4096 / w.width = 256) := by
  simp only [List.mem_cons, Prod.mk.injEq, List.not_mem_nil, or_false] at h
  rcases h with ⟨rfl, rfl⟩ | ⟨rfl, rfl⟩ | ⟨rfl, rfl⟩
  · exact ⟨rfl, rfl, .inl rfl⟩
  · exact ⟨rfl, rfl, .inr rfl⟩
  · exact ⟨rfl, rfl, .inr rfl⟩

theorem block_cases {c b : Nat} {mx : Bool}
    (h : (c, b, mx) ∈ ([(0, 32, true), (1, 32, false), (2, 64, false), (3, 128, false), (4, 256, false)] : List (Nat × Nat × Bool))) :
    blockForm c = some (b, mx) ∧ (b = 32 ∨ b = 64 ∨ b = 128 ∨ b = 256) := by
  simp only [List.mem_cons, Prod.mk.injEq, List.not_mem_nil, or_false] at h
  rcases h with ⟨rfl, rfl, rfl⟩ | ⟨rfl, rfl, rfl⟩ | ⟨rfl, rfl, rfl⟩ | ⟨rfl, rfl, rfl⟩ | ⟨rfl, rfl, rfl⟩
  · exact ⟨rfl, .inl rfl⟩
  · exact ⟨rfl, .inl rfl⟩
  · exact ⟨rfl, .inr (.inl rfl)⟩
  · exact ⟨rfl, .inr (.inr (.inl rfl))⟩
  · exact ⟨rfl, .inr (.inr (.inr rfl))⟩

/-- The narrow types, and which of them are floating. -/
theorem narrow_cases : ∀ et : Fin 16, et.val ∈ [4, 5, 6, 7, 8, 12, 13] →
    narrowOk (elemType et) = true ∧ (elemType et).regBits ≤ 8 ∧ 256 ≤ (elemType et).count
      ∧ ((elemType et).isI = decide (9 ≤ et.val)) := by decide

theorem narrow_float : ∀ et : Fin 16, et.val < 9 → ∃ F, elemType et = .float F := by
  intro et h
  fin_cases et <;> simp at h <;> exact ⟨_, rfl⟩

theorem qmaxOf_narrow : ∀ et : Fin 16, et.val ∈ [4, 5, 6, 7, 8, 12, 13] → ∃ m e, qmaxOf (elemType et) = .fin false m e := by
  intro et h
  fin_cases et <;> simp at h <;> exact ⟨_, _, rfl⟩

theorem blocks_of {n b : Nat} (hn : n = 128 ∨ n = 256) (hb : b = 32 ∨ b = 64 ∨ b = 128 ∨ b = 256) (hle : b ≤ n) :
    n / b * b = n ∧ n / b ≤ 8 := by
  rcases hn with rfl | rfl <;> rcases hb with rfl | rfl | rfl | rfl <;> omega

theorem quantShape {f : FmtVl} {w : Fmt} {b : Nat} {mx : Bool} (h : QuantCode f w b mx) : QuantShape f w b mx := by
  obtain ⟨hw, hb, het, hle, hmx⟩ := h
  obtain ⟨hwide, hcount, hn⟩ := wide_cases hw
  obtain ⟨hform, hb⟩ := block_cases hb
  obtain ⟨hok, hbits, hfits, hisI⟩ := narrow_cases f.et het
  have hint : (mx && (elemType f.et).isI) = false := by
    cases mx with
    | false => rfl
    | true => rw [hisI]; simpa using hmx rfl
  refine ⟨?_, hcount, by omega, ?_, by omega, ?_, hbits, by omega, qmaxOf_narrow f.et het, fun h => narrow_float f.et (hmx h)⟩
  · simp [quantForm, hwide, hform, hok, hcount, hle, hint]
  · exact (blocks_of hn hb hle).1
  · exact (blocks_of hn hb hle).2

/-! ### Blocks (R64, R65) -/

theorem eq_zero_of_eq {x : Num} (h : Num.eq x (.fin false 0 0) = true) : ∃ n e, x = .fin n 0 e := by
  cases x with
  | nan s => exact nomatch h
  | inf n => exact nomatch h
  | fin n m e =>
    have hm : scaled n m e (min e 0) = scaled false 0 0 (min e 0) := of_decide_eq_true h
    have hpos := Nat.two_pow_pos (e - min e 0).toNat
    have hzero : m = 0 := by
      cases n <;> simpa [scaled, hpos.ne'] using hm
    exact ⟨n, e, by rw [hzero]⟩

theorem amax_zero {xs : List Num} (h : ∀ x ∈ xs, Num.eq x (.fin false 0 0) = true) : ∃ n e, amax xs = .fin n 0 e := by
  induction xs with
  | nil => exact ⟨false, 0, rfl⟩
  | cons x t ih =>
    obtain ⟨n, e, ht⟩ := ih fun y hy => h y (List.mem_cons_of_mem _ hy)
    obtain ⟨n', e', rfl⟩ := eq_zero_of_eq (h x List.mem_cons_self)
    simp only [amax]
    split
    · exact ⟨_, _, rfl⟩
    · exact ⟨n, e, ht⟩

theorem amax_finite {xs : List Num} (h : ∀ x ∈ xs, isFinite x = true) : ∃ n m e, amax xs = .fin n m e := by
  induction xs with
  | nil => exact ⟨false, 0, 0, rfl⟩
  | cons x t ih =>
    obtain ⟨n, m, e, ht⟩ := ih fun y hy => h y (List.mem_cons_of_mem _ hy)
    obtain ⟨n', m', e', rfl⟩ : ∃ n m e, x = .fin n m e := by
      have hx := h x List.mem_cons_self
      cases x with
      | nan s => exact nomatch hx
      | inf n => exact nomatch hx
      | fin n m e => exact ⟨n, m, e, rfl⟩
    simp only [amax]
    split
    · exact ⟨_, _, _, rfl⟩
    · exact ⟨n, m, e, ht⟩

section
variable {ty : ElemType} {mx : Bool} {m : Mode} {us : List Nat} {xs : List Num}

theorem quantBlock_spoilt (h : xs.any (fun x => !isFinite x) = true) :
    quantBlock ty mx m us xs = (xs.map (fun _ => (0, flagNV)), if mx then 0xFF else 0x7FC00000) := by
  obtain ⟨x, hx, hfin⟩ := List.any_eq_true.1 h
  unfold quantBlock
  refine if_pos (List.any_eq_true.2 ⟨x, hx, ?_⟩)
  cases x <;> simp_all [isFinite]

theorem not_spoilt (h : ¬ xs.any (fun x => !isFinite x) = true) {x : Num} (hx : x ∈ xs) : isFinite x = true := by
  by_contra hn
  exact h (List.any_eq_true.2 ⟨x, hx, by simp [hn]⟩)

theorem quantBlock_zero {n : Bool} {e : Int} (h : ¬ xs.any (fun x => !isFinite x) = true) (ha : amax xs = .fin n 0 e) :
    quantBlock ty mx m us xs = (xs.map (fun _ => (0, 0)), if mx then 0x7F else 0x3F800000) := by
  unfold quantBlock
  split
  · rename_i hany
    obtain ⟨x, hx, hcase⟩ := List.any_eq_true.1 hany
    have hfin := not_spoilt h hx
    cases x <;> simp_all [isFinite]
  · rw [ha]; rfl

/-- A block has an element for each of its values. -/
theorem quantBlock_length (hmx : mx = true → ∃ F, ty = .float F) (hmax : ∃ a e, qmaxOf ty = .fin false a e) (hlen : us.length = xs.length) :
    (quantBlock ty mx m us xs).1.length = xs.length := by
  by_cases h : xs.any (fun x => !isFinite x) = true
  · rw [quantBlock_spoilt h]; simp
  · obtain ⟨n, a, e, ha⟩ := amax_finite fun x hx => not_spoilt h hx
    by_cases h0 : a = 0
    · subst h0; rw [quantBlock_zero h ha]; simp
    · obtain ⟨c, g, hc⟩ := hmax
      unfold quantBlock
      rw [ha]
      split
      · simp
      · cases mx with
        | true =>
          obtain ⟨F, rfl⟩ := hmx rfl
          simp [hlen]
        | false =>
          rw [hc]
          simp [hlen]

theorem quantBlock_eq : quantBlock ty mx m us xs = blockResult ty mx m us xs := by
  unfold blockResult
  split
  · exact quantBlock_spoilt ‹_›
  · split
    · rename_i hfin hzero
      obtain ⟨n, e, ha⟩ := amax_zero (List.all_eq_true.1 hzero)
      exact quantBlock_zero hfin ha
    · rfl

end

/-! ### `vqnt` (R210) -/

theorem quantBlocks_eq (ty : ElemType) (mx : Bool) (m : Mode) {α : Type} (l : List α) (u : α → List Nat) (x : α → List Num) :
    quantBlocks ty mx m (l.map u) (l.map x) =
      ((l.map (fun j => (quantBlock ty mx m (u j) (x j)).1)).flatten, l.map (fun j => (quantBlock ty mx m (u j) (x j)).2)) := by
  induction l with
  | nil => rfl
  | cons a t ih => simp only [List.map_cons, quantBlocks, ih, List.flatten_cons]

/-- The draws of a quantisation, and the generator after them. -/
theorem quantDraws_eq (t : Thread) (n : Nat) :
    (if decide (t.rm = 5) = true then draws n t.srseed else (List.replicate n 0, t.srseed)) =
      (quantDraws t n, if t.rm = 5 then Nat.iterate srNext n t.srseed else t.srseed) := by
  by_cases h : t.rm = 5
  · simp [h, draws_eq, quantDraws]
  · simp [h, quantDraws, List.map_const']

/-- Element `i` of a quantisation. -/
def quantResult (f : FmtVl) (w : Fmt) (b : Nat) (mx : Bool) (t : Thread) (i : Nat) : Nat × Flags :=
  (blockAt (elemType f.et) w b mx t (t.vget f.va) (i / b)).1.getD (i % b) (0, 0)

/-- A quantised register: elements from its first byte, scales from byte 480 (R209). -/
def quantImage (f : FmtVl) (w : Fmt) (b : Nat) (mx : Bool) (t : Thread) : Nat :=
  pack (elemType f.et).regBits ((List.range (4096 / w.width)).map (fun i => (quantResult f w b mx t i).1))
    + pack (if mx then 8 else 32) ((List.range (4096 / w.width / b)).map (fun j => (blockAt (elemType f.et) w b mx t (t.vget f.va) j).2)) * 2 ^ 3840

section
variable {f : FmtVl} {w : Fmt} {b : Nat} {mx : Bool} {s : State}

theorem blockAt_eq (f : FmtVl) (w : Fmt) (b : Nat) (mx : Bool) (t : Thread) (x : VReg) (j : Nat) :
    quantBlock (elemType f.et) mx t.rm (((quantDraws t (4096 / w.width)).drop (j * b)).take b)
      ((List.range b).map (fun i => w.value ((ElemType.float w).elem x (j * b + i)))) = blockAt (elemType f.et) w b mx t x j := by
  rw [quantBlock_eq]; rfl

theorem blockAt_length (h : QuantShape f w b mx) (t : Thread) (x : VReg) {j : Nat} (hj : j < 4096 / w.width / b) :
    (blockAt (elemType f.et) w b mx t x j).1.length = b := by
  have hrun : j * b + b ≤ 4096 / w.width := by
    rw [← h.blocks, ← Nat.succ_mul]; exact Nat.mul_le_mul_right b hj
  rw [← blockAt_eq, quantBlock_length h.float h.greatest]
  · simp
  · rw [quantDraws, run_map_range _ hrun]; simp

/-- `vqnt` as one long-latency word. -/
theorem execVqnt_ok (h : QuantShape f w b mx) : execVqnt f s = .next ((s.modTh (fun t => t.fpIssue f.lk [.v f.vd]
    (orFlags (4096 / w.width) (fun _ => true) (fun i => (quantResult f w b mx s.th i).2))
    (fun t => (t.vput f.vd (BitVec.ofNat 4096 (quantImage f w b mx s.th))).seeded (decide (s.th.rm = 5))
      (if s.th.rm = 5 then Nat.iterate srNext (4096 / w.width) s.th.srseed else s.th.srseed)))).modTh Thread.next) := by
  have hmode : (s.th.effMode 7 true).1 = s.th.rm := by simp [Thread.effMode]
  have hblocks : quantBlocks (elemType f.et) mx s.th.rm (chunks b (4096 / w.width / b) (quantDraws s.th (4096 / w.width)))
      (chunks b (4096 / w.width / b) (((ElemType.float w).elems (s.th.vget f.va)).map w.value)) =
      ((List.range (4096 / w.width)).map (quantResult f w b mx s.th),
        (List.range (4096 / w.width / b)).map (fun j => (blockAt (elemType f.et) w b mx s.th (s.th.vget f.va) j).2)) := by
    rw [elems_eq, List.map_map, h.count, chunks_map_range _ h.blocks.le, chunks_eq, quantBlocks_eq]
    simp only [Function.comp_apply, blockAt_eq]
    rw [flatten_runs _ (0, 0) _ h.pos fun j hj => blockAt_length h _ _ hj, h.blocks]
    rfl
  refine run_ok ?_
  rw [h.form]
  simp only [M.bind_apply, thread_apply, hmode, h.count, quantDraws_eq, hblocks, foldl_flags, List.map_map, updTh_apply]
  rfl

theorem quantImage_elem (h : QuantShape f w b mx) (t : Thread) {i : Nat} (hi : i < 4096 / w.width) :
    (elemType f.et).elem (BitVec.ofNat 4096 (quantImage f w b mx t)) i = (quantResult f w b mx t i).1 % 2 ^ (elemType f.et).memBits := by
  have hbits := h.narrow
  have hmem := memBits_le_regBits (elemType f.et)
  have hn := h.elements
  have hpos : (elemType f.et).regBits * i ≤ 8 * i := Nat.mul_le_mul_right i hbits
  have hlow : quantImage f w b mx t % 2 ^ 3840 =
      pack (elemType f.et).regBits ((List.range (4096 / w.width)).map (fun i => (quantResult f w b mx t i).1)) % 2 ^ 3840 :=
    Nat.add_mul_mod_self_right _ _ _
  rw [ElemType.elem, BitVec.toNat_ofNat, mod_div_mod _ (by omega), ← mod_div_mod (N := 3840) _ (by omega), hlow, mod_div_mod _ (by omega),
    pack_elem, getD_map_range _ _ hi]

/-- The scales lie above bit 3840, past every element. -/
theorem quantImage_high (h : QuantShape f w b mx) (t : Thread) : quantImage f w b mx t / 2 ^ 3840 =
    pack (if mx then 8 else 32) ((List.range (4096 / w.width / b)).map (fun j => (blockAt (elemType f.et) w b mx t (t.vget f.va) j).2)) := by
  have hlow : pack (elemType f.et).regBits ((List.range (4096 / w.width)).map (fun i => (quantResult f w b mx t i).1)) < 2 ^ 3840 := by
    refine (pack_lt _ _).trans_le (Nat.pow_le_pow_right (by decide) ?_)
    rw [List.length_map, List.length_range]
    exact (Nat.mul_le_mul h.narrow h.elements).trans (by decide)
  rw [quantImage, Nat.add_mul_div_right _ _ (Nat.two_pow_pos 3840), Nat.div_eq_of_lt hlow, Nat.zero_add]

theorem quantImage_scale (h : QuantShape f w b mx) (t : Thread) {j : Nat} (hj : j < 4096 / w.width / b) :
    scaleBits (BitVec.ofNat 4096 (quantImage f w b mx t)) mx j =
      (blockAt (elemType f.et) w b mx t (t.vget f.va) j).2 % 2 ^ (if mx then 8 else 32) := by
  have hscales := h.scales
  have hhigh := quantImage_high h t
  have hfield : ∀ k n, 3840 + k * n + k ≤ 4096 → quantImage f w b mx t % 2 ^ 4096 / 2 ^ (3840 + k * n) % 2 ^ k =
      quantImage f w b mx t / 2 ^ 3840 / 2 ^ (k * n) % 2 ^ k := fun k n hk => by
    rw [mod_div_mod _ hk, Nat.pow_add, Nat.div_div_eq_div_mul]
  unfold scaleBits
  rw [BitVec.toNat_ofNat]
  cases mx with
  | true =>
    simp only [if_true] at hhigh ⊢
    rw [show 8 * (480 + j) = 3840 + 8 * j by omega, hfield 8 j (by omega), hhigh, pack_field, getD_map_range _ _ hj]
  | false =>
    simp only [Bool.false_eq_true, if_false] at hhigh ⊢
    rw [show 8 * (480 + 4 * j) = 3840 + 32 * j by omega, hfield 32 j (by omega), hhigh, pack_field, getD_map_range _ _ hj]

end

/-! ### Scales (R50, R51) -/

theorem fp32Scale_of_fin {c m : Nat} {n : Bool} {e : Int} (h : f32.value c = .fin n m e) :
    fp32Scale c = if n = true ∨ m = 0 then none else some (f32.value c) := by
  unfold fp32Scale
  rw [h]
  by_cases hbad : n = true ∨ m = 0 <;> simp [hbad]

theorem fp32Scale_of_not_fin {c : Nat} (h : isFinite (f32.value c) = false) : fp32Scale c = none := by
  unfold fp32Scale
  split
  · rename_i hfin
    rw [hfin] at h
    exact nomatch h
  · rfl

/-- The value of an FP32 code by its fields. -/
theorem f32_value (c : Nat) : f32.value c =
    if c / 8388608 % 256 = 255 then (if c % 8388608 = 0 then .inf (c / 2147483648 % 2 == 1) else .nan (c % 8388608 < 4194304))
    else if c / 8388608 % 256 = 0 then .fin (c / 2147483648 % 2 == 1) (c % 8388608) f32.qmin
    else .fin (c / 2147483648 % 2 == 1) (8388608 + c % 8388608) (f32.qmin + (c / 8388608 % 256 : Nat) - 1) := rfl

/-- An FP32 scale is a positive finite number, or none. -/
theorem fp32Scale_eq {c : Nat} (h : c < 2 ^ 32) : fp32Scale c = if c = 0 ∨ 0x7F800000 ≤ c then none else some (f32.value c) := by
  have hvalue := f32_value c
  by_cases htop : c / 8388608 % 256 = 255
  · have hfin : isFinite (f32.value c) = false := by
      rw [hvalue, if_pos htop]; split <;> rfl
    rw [fp32Scale_of_not_fin hfin, if_pos (by omega)]
  · rw [if_neg htop] at hvalue
    by_cases hsub : c / 8388608 % 256 = 0
    · rw [if_pos hsub] at hvalue
      rw [fp32Scale_of_fin hvalue]
      exact if_congr (by rw [beq_iff_eq]; omega) rfl rfl
    · rw [if_neg hsub] at hvalue
      rw [fp32Scale_of_fin hvalue]
      exact if_congr (by rw [beq_iff_eq]; omega) rfl rfl

theorem scaleStep_eq (x : VReg) (mx : Bool) (j : Nat) :
    (if mx then some (e8m0 (scaleCode x mx j)) else fp32Scale (scaleCode x mx j)) = scaleValue mx (scaleBits x mx j) := by
  cases mx with
  | true => rfl
  | false => exact fp32Scale_eq (Nat.mod_lt _ (by decide))

theorem scales_ok {x : VReg} {mx : Bool} {sc : Nat → Num} (b n : Nat)
    (h : ∀ j, b ≤ j → j < b + n → scaleValue mx (scaleBits x mx j) = some (sc j)) :
    scales x mx b n = .ok ((List.range n).map (fun j => sc (b + j))) := by
  induction n generalizing b with
  | zero => rfl
  | succ n ih =>
    unfold scales
    rw [scaleStep_eq, h b (Nat.le_refl b) (by omega), ih (b + 1) fun j hj hlt => h j (by omega) (by omega), List.range_succ_eq_map]
    simp [Function.comp_def, Nat.add_comm, Nat.add_left_comm]

/-- The first scale that fails is the one that is reported. -/
theorem scales_fail {x : VReg} {mx : Bool} {k : Nat} (b n : Nat) (hb : b ≤ k) (hk : k < b + n) (hnone : scaleValue mx (scaleBits x mx k) = none)
    (h : ∀ j < k, scaleValue mx (scaleBits x mx j) ≠ none) : scales x mx b n = .error k := by
  induction n generalizing b with
  | zero => omega
  | succ n ih =>
    unfold scales
    rw [scaleStep_eq]
    by_cases hbk : b = k
    · subst hbk; rw [hnone]
    · obtain ⟨v, hv⟩ := Option.ne_none_iff_exists'.1 (h b (by omega))
      rw [hv, ih (b + 1) (by omega) (by omega)]

/-! ### `vdqnt` (R211) -/

theorem narrowValue_eq (ty : ElemType) (x : Nat) : ty.value x = narrowValue ty x := by
  cases ty <;> rfl

theorem dequant_eq (w : Fmt) (m : Mode) (x s : Num) : dequant w m x s = rounded w m (Num.mul x s) := rfl

section
variable {f : FmtVl} {w : Fmt} {b : Nat} {mx : Bool} {s : State} {sc : Nat → Num} {res : Nat → Nat × Flags}

/-- A register of wide elements and the fallback of SR, as the dequantisers write them. -/
def wideDone (f : FmtVl) (w : Fmt) (n : Nat) (res : Nat → Nat × Flags) (sr o : Bool) (t : Thread) : Thread :=
  ((t.vput f.vd ((ElemType.float w).reg ((List.range n).map (fun i => (res i).1)))).warnIf .fmt sr).warnIf .ovlp o

theorem execVdqnt_ok (h : QuantShape f w b mx)
    (hsc : ∀ j, j < 4096 / w.width / b → scaleValue mx (scaleBits (s.th.vget f.va) mx j) = some (sc j))
    (hres : ∀ i, res i = rounded w (wideMode s.th) (Num.mul (narrowValue (elemType f.et) ((elemType f.et).elem (s.th.vget f.va) i)) (sc (i / b)))) :
    execVdqnt f s = .next ((s.modTh (fun t => t.fpIssue f.lk [.v f.vd] (orFlags (4096 / w.width) (fun _ => true) (fun i => (res i).2))
      (wideDone f w (4096 / w.width) res (decide (s.th.rm = 5)) false))).modTh Thread.next) := by
  have hscales : scales (s.th.vget f.va) mx 0 (4096 / w.width / b) = .ok ((List.range (4096 / w.width / b)).map sc) := by
    rw [scales_ok 0 _ fun j _ hj => hsc j (by omega)]; simp
  have hresults : (((chunks b (4096 / w.width / b) (((elemType f.et).elems (s.th.vget f.va)).take (4096 / w.width))).zip
      ((List.range (4096 / w.width / b)).map sc)).map
        (fun p => p.1.map (fun x => dequant w (scalarMode s.th) ((elemType f.et).value x) p.2))).flatten =
      (List.range (4096 / w.width)).map res := by
    rw [elems_eq, ← List.map_take, List.take_range, Nat.min_eq_left h.fits, chunks_map_range _ h.blocks.le, List.zip_map', List.map_map]
    rw [flatten_runs _ (0, 0) _ h.pos fun j _ => by simp, h.blocks]
    refine List.map_congr_left fun i _ => ?_
    have hmod := Nat.mod_lt i h.pos
    simp only [Function.comp_apply, List.map_map]
    rw [getD_map_range _ _ hmod, hres, Function.comp_apply, dequant_eq, narrowValue_eq, Nat.mul_comm, Nat.div_add_mod]
    rfl
  refine run_ok ?_
  rw [h.form]
  simp only [M.bind_apply, thread_apply, h.count, hscales, effMode_dyn, hresults, foldl_flags, List.map_map, updTh_apply]
  rfl

theorem execVdqnt_fail (h : QuantShape f w b mx) {j : Nat} (hj : j < 4096 / w.width / b)
    (hnone : scaleValue mx (scaleBits (s.th.vget f.va) mx j) = none)
    (hfirst : ∀ i < j, scaleValue mx (scaleBits (s.th.vget f.va) mx i) ≠ none) :
    execVdqnt f s = .next ((s.modTh (fun t => t.issueTrap f.lk [.v f.vd] .scale (word j) 0)).modTh Thread.next) := by
  have hscales : scales (s.th.vget f.va) mx 0 (4096 / w.width / b) = .error j :=
    scales_fail 0 _ (Nat.zero_le j) (by omega) hnone hfirst
  refine run_ok ?_
  rw [h.form]
  simp only [M.bind_apply, thread_apply, h.count, hscales, updTh_apply]

theorem wideDone_elem {n : Nat} {sr o : Bool} {t : Thread} (hn : (ElemType.float w).count = n) {i : Nat} (hi : i < n) :
    (ElemType.float w).elem ((wideDone f w n res sr o t).vget f.vd) i = (res i).1 % 2 ^ w.width := by
  have hreg : (wideDone f w n res sr o t).vget f.vd = (ElemType.float w).reg ((List.range n).map (fun i => (res i).1)) := by
    simp [wideDone]
  rw [hreg, elem_reg _ _ (hn ▸ hi), getD_map_range _ _ hi]
  rfl

/-- What `vdqnt` and `vcbdec` leave, where no enabled flag is raised. -/
theorem wideDone_claims {n : Nat} {sr o : Bool} {m : State → Result} {fl : Flags} (hn : (ElemType.float w).count = n)
    (hm : m s = .next ((s.modTh (fun t => t.fpIssue f.lk [.v f.vd] fl (wideDone f w n res sr o))).modTh Thread.next))
    (hun : Untrapped s.th fl) :
    ∃ t, m s = .next t ∧ Completes (convFoot f) s t ∧ Issued s t f.lk [.v f.vd] ∧ Flagged s.th t.th fl
      ∧ ∀ i, i < n → (ElemType.float w).elem (t.th.vget f.vd) i = (res i).1 % 2 ^ w.width := by
  obtain ⟨t, he, hdone, hout, hfl, hreg, -⟩ := fpIssue_claims (p := convFoot f) hm hun rfl rfl
    (fun _ => (Keeps.vput (by simp [convFoot])).trans ((Keeps.warnIf (by simp [convFoot])).trans (Keeps.warnIf (by simp [convFoot]))))
    (fun _ => by simp [wideDone, Thread.vput]) (fun _ => by simp [wideDone, Thread.vput]) (fun _ => by simp [wideDone, Thread.vput])
  exact ⟨t, he, hdone, hout, hfl, fun i hi => by rw [hreg]; exact wideDone_elem hn hi⟩

end

/-! ### `vcbdec` (R212) -/

theorem cbBlock_eq : ∀ c < 4, cbBlock c = if c = 0 then none else some (32 * 2 ^ (c - 1)) := by decide

/-- The codebook that a word names (R53). -/
def codebook (f : FmtVl) (t : Thread) : Nat :=
  if f.vb.val / 4 % 2 = 1 then (t.vget 30).toNat + (t.vget 31).toNat * 2 ^ 4096 else pack 32 resetCodebook

section
variable {f : FmtVl} {w : Fmt} {s : State} {sc : Nat → Num} {res : Nat → Nat × Flags}

/-- The scales of `vcbdec`: one for each block, or 1.0 for all. -/
theorem cbScales_ok {b n : Nat} (hb : b = 32 ∨ b = 64 ∨ b = 128) (hn : n = 128 ∨ n = 256)
    (hsc : ∀ i, i < n → some (sc i) = scaleValue false (scaleBits (s.th.vget f.va) false (i / b))) :
    scales (s.th.vget f.va) false 0 (n / b) = .ok ((List.range (n / b)).map (fun j => sc (j * b)))
    ∧ ∀ i, i < n → ((List.range (n / b)).map (fun j => sc (j * b))).getD (i / b) (.fin false 1 0) = sc i := by
  have hpos : 0 < b := by omega
  have hblocks : n / b * b = n := (blocks_of hn (by omega) (by omega)).1
  have hlt : ∀ j < n / b, j * b < n := fun j hj => by
    have := Nat.mul_lt_mul_of_pos_right hj hpos
    omega
  constructor
  · rw [scales_ok (sc := fun j => sc (j * b)) 0 _ fun j _ hj => by
      rw [hsc _ (hlt j (by omega)), Nat.mul_div_cancel _ hpos]]
    simp
  · intro i hi
    have hq : i / b < n / b := Nat.div_lt_of_lt_mul (by rw [Nat.mul_comm, hblocks]; exact hi)
    rw [getD_map_range _ _ hq]
    have hsame := hsc (i / b * b) (hlt _ hq)
    rw [Nat.mul_div_cancel _ hpos, ← hsc i hi] at hsame
    exact Option.some.inj hsame

theorem execVcbdec_ok {n : Nat} (hw : (f.vb.val / 8, w) ∈ ([(0, f32), (1, bf16), (2, f16)] : List (Nat × Fmt))) (het : f.et = 14)
    (hn : n = 4096 / w.width)
    (hsc : ∀ i, i < n → some (sc i) = if f.vb.val % 4 = 0 then some (.fin false 1 0)
        else scaleValue false (scaleBits (s.th.vget f.va) false (i / (32 * 2 ^ (f.vb.val % 4 - 1)))))
    (hres : ∀ i, res i = rounded w (wideMode s.th)
      (Num.mul (codeWeight (codebook f s.th) (ElemType.cb2.elem (s.th.vget f.va) (i / 8)) (i % 8)) (sc i))) :
    execVcbdec f s = .next ((s.modTh (fun t => t.fpIssue f.lk [.v f.vd] (orFlags n (fun _ => true) (fun i => (res i).2))
      (wideDone f w n res (decide (s.th.rm = 5)) (nbit f.vb.val 2 && decide (30 ≤ f.vd.val))))).modTh Thread.next) := by
  obtain ⟨hwide, hcount, hn'⟩ := wide_cases hw
  rw [← hn] at hcount hn'
  have htable : (if nbit f.vb.val 2 = true then (s.th.vget 30).toNat + (s.th.vget 31).toNat * 2 ^ 4096 else pack 32 resetCodebook) =
      codebook f s.th := by
    unfold codebook nbit
    exact if_congr (by simp [Nat.testBit_eq_decide_div_mod_eq]) rfl rfl
  have hcb : elemType f.et = .cb2 := (elemType_cb2 _).2 het
  have hblock := cbBlock_eq (f.vb.val % 4) (Nat.mod_lt _ (by decide))
  refine run_ok ?_
  rw [hwide]
  by_cases h0 : f.vb.val % 4 = 0
  · rw [if_pos h0] at hblock
    have hresults : (List.range n).map (fun i => dequant w (scalarMode s.th)
        (codeWeight (codebook f s.th) (ElemType.cb2.elem (s.th.vget f.va) (i / 8)) (i % 8)) (.fin false 1 0)) = (List.range n).map res := by
      refine List.map_congr_left fun i hi => ?_
      have hone := hsc i (List.mem_range.1 hi)
      rw [if_pos h0] at hone
      rw [hres, dequant_eq, Option.some.inj hone]
      rfl
    simp only [M.bind_apply, hcb, ne_eq, not_true_eq_false, if_false, thread_apply, htable, hcount, hblock, effMode_dyn, updTh_apply]
    simp only [hresults, foldl_flags, List.map_map]
    rfl
  · rw [if_neg h0] at hblock
    have hsize : 32 * 2 ^ (f.vb.val % 4 - 1) = 32 ∨ 32 * 2 ^ (f.vb.val % 4 - 1) = 64 ∨ 32 * 2 ^ (f.vb.val % 4 - 1) = 128 := by
      obtain hc | hc | hc : f.vb.val % 4 = 1 ∨ f.vb.val % 4 = 2 ∨ f.vb.val % 4 = 3 := by omega
      · exact .inl (by rw [hc]; rfl)
      · exact .inr (.inl (by rw [hc]; rfl))
      · exact .inr (.inr (by rw [hc]; rfl))
    obtain ⟨hscales, hget⟩ := cbScales_ok hsize hn' (fun i hi => (hsc i hi).trans (if_neg h0))
    have hresults : (List.range n).map (fun i => dequant w (scalarMode s.th)
        (codeWeight (codebook f s.th) (ElemType.cb2.elem (s.th.vget f.va) (i / 8)) (i % 8))
        (((List.range (n / (32 * 2 ^ (f.vb.val % 4 - 1)))).map (fun j => sc (j * (32 * 2 ^ (f.vb.val % 4 - 1))))).getD
          (i / (32 * 2 ^ (f.vb.val % 4 - 1))) (.fin false 1 0))) = (List.range n).map res := by
      refine List.map_congr_left fun i hi => ?_
      rw [hget i (List.mem_range.1 hi), hres, dequant_eq]
      rfl
    simp only [M.bind_apply, hcb, ne_eq, not_true_eq_false, if_false, thread_apply, htable, hcount, hblock, hscales, effMode_dyn, updTh_apply]
    simp only [hresults, foldl_flags, List.map_map]
    rfl

end

end Sys2Proof.Machine
end

section
namespace Sys2Proof.Machine

open Claims

/-- Settles O20: the three members are long-latency words (`fpIssue_claims`) whose lists are runs of a block each
(`flatten_runs`, `quantBlocks_eq`); a failing scale is the first one that `scales` meets (`scales_fail`). -/
theorem quantisationMembers : Obligations.QuantisationMembers := by
  unfold Obligations.QuantisationMembers
  refine ⟨?quantise, ?dequantise, ?decode⟩
  case quantise =>
    rintro f s w b mx _ _ fl hcode rfl rfl rfl hun
    have h := quantShape hcode
    obtain ⟨t, he, hdone, hout, hfl, hreg, hseed⟩ := fpIssue_claims (p := { convFoot f with seed := true }) (execVqnt_ok (s := s) h) hun rfl rfl
      (fun _ => (Keeps.vput (by simp [convFoot])).trans (Keeps.seeded rfl)) (fun _ => pc_seeded _ _ _) (fun _ => outst_seeded _ _ _)
      (fun _ => fpctl_seeded _ _ _)
    have himage : t.th.vget f.vd = BitVec.ofNat 4096 (quantImage f w b mx s.th) := by
      rw [hreg, ← vregs_getD, vregs_seeded, vregs_getD, Thread.vget_vput]
    refine ⟨t, he, hdone, hout, hfl, fun i hi => ?_, fun j hj => ?_, ?_⟩
    · rw [himage]; exact quantImage_elem h _ hi
    · rw [himage]; exact quantImage_scale h _ hj
    · rw [hseed, srseed_seeded]
      by_cases hrm : s.th.rm = 5
      · simp [hrm]
      · simp [hrm, Thread.vput]
  case dequantise =>
    rintro f s w b mx _ _ hcode rfl rfl
    have h := quantShape hcode
    refine ⟨fun sc res fl hsc hres hfl hun => ?_, fun j hj hnone hfirst => ?_⟩
    · subst hfl
      exact wideDone_claims h.count (execVdqnt_ok h hsc hres) hun
    · exact issueTrap_claims (execVdqnt_fail h hj hnone hfirst)
  case decode =>
    rintro f s w n sc res fl table hw het hn htable hsc hres rfl hun
    have hcount : (ElemType.float w).count = n := (wide_cases hw).2.1.trans hn.symm
    exact wideDone_claims hcount (execVcbdec_ok hw het hn hsc fun i => by rw [hres, htable]; rfl) hun

end Sys2Proof.Machine
end
section
/-!
A matrix operation that starts: its W tile is read and the tile that it pops retires (R127-R129).
-/

namespace Sys2Proof.Machine

open Claims

section
variable {s : State} {m : MatOp} {r k q : Nat} {g : MatArgs}

/-- The queue after the only tile that it has assigned is read: it stands at the next one. -/
theorem retire_read_queue {id : Nat} (hq : q < 8) (h : ((s.core r).queue q).pops = [(id, false)]) :
    ((s.retire r q (fun l => l.map (fun p => if p.1 = id then (p.1, true) else p))).core r).queue q = ((s.core r).queue q).advanced := by
  unfold State.retire
  generalize hs1 : s.modCore r _ = s1
  have hqueue : (s1.core r).queue q = { (s.core r).queue q with pops := [(id, true)] } := by
    rw [← hs1, State.core_modCore, Core.queue_setQueue _ _ hq, h]
    simp
  have hpops : ((s1.core r).queue q).pops = [(id, true)] := by rw [hqueue]
  dsimp only
  rw [hpops, List.foldl_cons, List.foldl_nil, retireOne_read hpops]
  simp [State.core_modCore, Core.queue_setQueue _ _ hq, hqueue, OpQueue.advanced, OpQueue.trim]

theorem popRead_queue (hp : m.pop = true) (hq : m.queue < 8) (h : ((s.core r).queue m.queue).pops = [(m.id, false)]) :
    ((s.popRead r m true).core r).queue m.queue = ((s.core r).queue m.queue).advanced := by
  simp only [State.popRead, hp, if_true]
  exact retire_read_queue hq h

theorem not_gang (h : m.kind = .mac ∨ m.kind = .mul ∨ m.kind = .sparse) : m.kind.isGang = false ∧ m.kind ≠ .write := by
  rcases h with h | h | h <;> rw [h] <;> exact ⟨rfl, by decide⟩

theorem macroHead_alone (h : Lone s r k m g) : (s.core r).macroHead k = some m := by
  simp [Core.macroHead, h.alone, h.unit]

/-- An operation that stands alone meets no partner, and no level of throttling holds it back. -/
theorem not_held (h : Lone s r k m g) (hex : m.executing = false) : ((s.core r).partnerBusy m || s.macrosFull r) = false := by
  have hlevel : 0 < throttledMacros (s.dies.getD (r / 128 % 8) .reset).level := by
    unfold throttledMacros; split <;> decide
  simp [Core.partnerBusy, State.macrosFull, h.alone, hex]
  omega

theorem badScale_unscaled {d : Desc} (h : descKind d = 0) (rec n : Nat) : badScale d rec n = none := by
  simp [badScale, h]

theorem matrixOpStart_ok (h : Lone s r k m g) (hex : m.executing = false) (ha : descKind m.aDesc = 0) (hw : descKind m.wDesc = 0)
    (hread : s.unreadable (scratchLoc r (((s.core r).queue m.queue).tileOff m.seq)) 0x800 = false) :
    execMatrixOpStart r k s = .next ((s.popRead r m true).modOp r m.id
      (fun x => { x with executing := true, args := some (s.wTile r x g) })) := by
  obtain ⟨hgang, hwrite⟩ := not_gang h.kind
  obtain ⟨hargs1, hargs2⟩ := h.args
  have hbad : s.badOperand r m = none := by simp [State.badOperand, hread]
  simp only [execMatrixOpStart, macroHead_alone h, hex, hgang, h.alive.1, hargs1, hargs2, hwrite, not_held h hex, Bool.not_true, Bool.false_and,
    Bool.false_eq_true, if_false, State.startOp, hbad, badScale_unscaled ha, badScale_unscaled hw]

theorem matrixOpStart_claims (h : Lone s r k m g) (hex : m.executing = false) (ha : descKind m.aDesc = 0) (hw : descKind m.wDesc = 0)
    (hread : s.unreadable (scratchLoc r (((s.core r).queue m.queue).tileOff m.seq)) 0x800 = false)
    (hpop : m.pop = true → m.queue < 8 ∧ ((s.core r).queue m.queue).pops = [(m.id, false)]) :
    ∃ t, exec (.matrixOpStart r k) s = .next t ∧ (t.core r).mops = [{ m with executing := true, args := some (s.wTile r m g) }] ∧ Untouched s t
      ∧ (t.core r).threads = (s.core r).threads
      ∧ (m.pop = true → ((t.core r).queue m.queue).head = ((s.core r).queue m.queue).head + 1
          ∧ ((t.core r).queue m.queue).count = ((s.core r).queue m.queue).count - 1 ∧ ((t.core r).queue m.queue).pops = []) := by
  have hret := popRead_retired (s := s) (r := r) fun hp => (hpop hp).symm
  refine ⟨_, matrixOpStart_ok h hex ha hw hread, ?_, untouched_of_mem hret.mem, ?_, fun hp => ?_⟩
  all_goals rw [State.modOp, State.core_modCore]
  · show (((s.popRead r m true).core r).mops).map _ = _
    rw [hret.core Core.mops fun _ _ => rfl, h.alone]
    simp
  · exact hret.core Core.threads fun _ _ => rfl
  · show (((s.popRead r m true).core r).queue m.queue).head = _ ∧ (((s.popRead r m true).core r).queue m.queue).count = _
      ∧ (((s.popRead r m true).core r).queue m.queue).pops = _
    rw [popRead_queue hp (hpop hp).1 (hpop hp).2]
    exact ⟨rfl, rfl, rfl⟩

end

end Sys2Proof.Machine
end
section
/-!
Accumulators under a matrix operation: elements, clearing, checksums, and the product of a slice (R69, R71, R130, R135).
-/

namespace Sys2Proof.Machine

open Claims

/-! ### A write of accumulators -/

@[simp] theorem acc_aput (t : Thread) (n : Fin 8) (x : Acc) : (t.aput n x).acc n = x := by
  simp [Thread.acc, Thread.aput]

theorem acc_aput_ne (t : Thread) {n k : Fin 8} (x : Acc) (h : k ≠ n) : (t.aput n x).acc k = t.acc k := by
  have hv : n.val ≠ k.val := fun e => h (Fin.ext e.symm)
  simp [Thread.acc, Thread.aput, hv]

/-- The thread `b` is `a` but for accumulators of a list and the marks of their change. -/
structure AccOnly (l : List (Fin 8)) (a b : Thread) : Prop where
  rest : { b with accs := a.accs, dirty := a.dirty } = a
  dirty : ∀ i, bit a.dirty i = true → bit b.dirty i = true
  others : ∀ k, k ∉ l → b.acc k = a.acc k

namespace AccOnly

variable {l : List (Fin 8)} {a b c : Thread}

theorem refl (l : List (Fin 8)) (a : Thread) : AccOnly l a a := ⟨rfl, fun _ h => h, fun _ _ => rfl⟩

theorem trans (h : AccOnly l a b) (h' : AccOnly l b c) : AccOnly l a c where
  rest := (congrArg (fun t : Thread => { t with accs := a.accs, dirty := a.dirty }) h'.rest).trans h.rest
  dirty := fun i hi => h'.dirty i (h.dirty i hi)
  others := fun k hk => (h'.others k hk).trans (h.others k hk)

theorem aput {n : Fin 8} {x : Acc} (hn : n ∈ l) : AccOnly l a (a.aput n x) where
  rest := rfl
  dirty := fun i hi => by
    show bit (setBit a.dirty (8 + n.val)) i = true
    rw [bit_setBit, hi]; rfl
  others := fun k hk => acc_aput_ne _ _ fun e => hk (e ▸ hn)

theorem errinj (h : AccOnly l a b) : b.errinj = a.errinj := by
  have e := congrArg Thread.errinj h.rest
  exact e

theorem keepsAcc (h : AccOnly l a b) : KeepsAcc {} l a b := by
  refine ⟨?_, h.others⟩
  have hdirty : a.dirty &&& b.dirty = a.dirty := by
    apply BitVec.eq_of_getLsbD_eq
    intro i _
    rw [BitVec.getLsbD_and]
    cases hi : a.dirty.getLsbD i with
    | false => rfl
    | true => rw [show b.dirty.getLsbD i = true from h.dirty i hi]; rfl
  rw [hdirty, h.rest]
  exact Keeps.refl _ _

end AccOnly

theorem bit_withField_ne {w : Nat} (x : BitVec w) {lo n v i : Nat} (h : lo + n ≤ w) (hi : i < lo ∨ lo + n ≤ i) :
    bit (withField x lo n v) i = bit x i := by
  have hbit : ∀ y : BitVec w, bit y i = (field y i 1).testBit 0 := fun y => by rw [field_testBit]; simp
  rw [hbit, hbit, field_withField_ne x h (by omega)]

/-! ### The group of an accumulator (R130) -/

theorem evenOf_ne_oddOf : ∀ n : Fin 8, evenOf n ≠ oddOf n := by decide

theorem evenOf_even : ∀ n : Fin 8, n.val % 2 = 0 → evenOf n = n := by decide

/-- The accumulators that hold the elements of a class at `n`. -/
def clsGroup (n : Fin 8) (cls : Nat) : List (Fin 8) := if cls = 2 then [evenOf n, oddOf n] else [n]

section
variable {t : Thread} {n : Fin 8} {cls : Nat}

theorem accGroup_eq (h2 : cls = 2 → t.inPair n = true) (h1 : cls ≠ 2 → t.inPair n = false) : t.accGroup n = clsGroup n cls := by
  unfold Thread.accGroup clsGroup
  by_cases h : cls = 2
  · rw [h2 h, if_pos h]; rfl
  · rw [h1 h, if_neg h]; rfl

theorem mem_clsGroup (h : cls = 2 → n.val % 2 = 0) : n ∈ clsGroup n cls := by
  unfold clsGroup
  by_cases hc : cls = 2
  · rw [if_pos hc, evenOf_even n (h hc)]; exact List.mem_cons_self
  · rw [if_neg hc]; exact List.mem_cons_self

/-- The elements of an accumulator lie in its group. -/
theorem image_congr {u : Thread} (h : ∀ k ∈ clsGroup n cls, (u.acc k).elems = (t.acc k).elems) : u.image n cls = t.image n cls := by
  unfold Thread.image
  unfold clsGroup at h
  by_cases hc : cls = 2
  · simp only [if_pos hc] at h ⊢
    rw [h _ List.mem_cons_self, h _ (List.mem_cons_of_mem _ List.mem_cons_self)]
  · simp only [if_neg hc] at h ⊢
    rw [h _ List.mem_cons_self]

theorem image_zero (h : ∀ k ∈ clsGroup n cls, (t.acc k).elems.toNat = 0) : t.image n cls = 0 := by
  unfold Thread.image
  unfold clsGroup at h
  by_cases hc : cls = 2
  · simp only [if_pos hc] at h ⊢
    rw [h _ List.mem_cons_self, h _ (List.mem_cons_of_mem _ List.mem_cons_self), Nat.zero_mul]
  · simp only [if_neg hc] at h ⊢
    exact h _ List.mem_cons_self

/-! ### Elements -/

theorem accElems_eq (t : Thread) (n : Fin 8) (cls : Nat) : t.accElems n cls = (List.range 1024).map (accElem t n cls) := unpack_eq _ _ _

theorem putElems_only (l : List Nat) : AccOnly (clsGroup n cls) t (t.putElems n cls l) := by
  unfold Thread.putElems clsGroup
  by_cases hc : cls = 2
  · simp only [if_pos hc]
    exact (AccOnly.aput List.mem_cons_self).trans (AccOnly.aput (List.mem_cons_of_mem _ List.mem_cons_self))
  · simp only [if_neg hc]
    exact AccOnly.aput List.mem_cons_self

/-- A write of elements leaves bindings and checksums. -/
theorem acc_putElems (l : List Nat) (k : Fin 8) : (t.putElems n cls l).acc k = { t.acc k with elems := ((t.putElems n cls l).acc k).elems } := by
  unfold Thread.putElems
  by_cases hc : cls = 2
  · simp only [if_pos hc]
    by_cases ho : k = oddOf n
    · subst ho; rw [acc_aput]
    · rw [acc_aput_ne _ _ ho]
      by_cases he : k = evenOf n
      · subst he; rw [acc_aput]
      · rw [acc_aput_ne _ _ he]
  · simp only [if_neg hc]
    by_cases hk : k = n
    · subst hk; rw [acc_aput]
    · rw [acc_aput_ne _ _ hk]

theorem image_putElems (l : List Nat) : (t.putElems n cls l).image n cls = pack (clsBits cls) l % 2 ^ (clsBits cls * 1024) := by
  unfold Thread.putElems Thread.image clsBits
  by_cases hc : cls = 2
  · simp only [if_pos hc, acc_aput, acc_aput_ne _ _ (evenOf_ne_oddOf n), BitVec.toNat_ofNat]
    rw [show 64 * 1024 = 32768 + 32768 from rfl, Nat.pow_add, Nat.mod_mul, Nat.mul_comm]
  · simp only [if_neg hc, acc_aput, BitVec.toNat_ofNat]

theorem accElem_putElems (l : List Nat) {i : Nat} (hi : i < 1024) :
    accElem (t.putElems n cls l) n cls i = l.getD i 0 % 2 ^ clsBits cls := by
  have hfit : clsBits cls * i + clsBits cls ≤ clsBits cls * 1024 := by
    rw [← Nat.mul_succ]; exact Nat.mul_le_mul_left _ hi
  rw [accElem, image_putElems, mod_div_mod _ hfit, pack_field]

/-! ### Clearing (R130, R234) -/

/-- The thread that an operation adds its product to: `mmul` clears its group first. -/
def productBase (t : Thread) (m : MatOp) : Thread :=
  if m.kind.clears then (t.accGroup m.acc).foldl (fun t k => t.aput k (t.acc k).cleared) t else t

theorem clear_only (l : List (Fin 8)) (L : List (Fin 8)) (h : ∀ k ∈ l, k ∈ L) (t : Thread) :
    AccOnly L t (l.foldl (fun t k => t.aput k (t.acc k).cleared) t) := by
  induction l generalizing t with
  | nil => exact AccOnly.refl _ _
  | cons k l ih =>
    exact (AccOnly.aput (h k List.mem_cons_self)).trans (ih (fun x hx => h x (List.mem_cons_of_mem _ hx)) _)

theorem clear_acc {k : Fin 8} (hk : k ∈ clsGroup n cls) :
    ((clsGroup n cls).foldl (fun t k => t.aput k (t.acc k).cleared) t).acc k = (t.acc k).cleared := by
  unfold clsGroup at hk ⊢
  by_cases hc : cls = 2
  · simp only [if_pos hc, List.mem_cons, List.not_mem_nil, or_false, List.foldl_cons, List.foldl_nil] at hk ⊢
    rcases hk with rfl | rfl
    · rw [acc_aput_ne _ _ (evenOf_ne_oddOf n), acc_aput]
    · rw [acc_aput, acc_aput_ne _ _ (evenOf_ne_oddOf n).symm]
  · simp only [if_neg hc, List.mem_cons, List.not_mem_nil, or_false, List.foldl_cons, List.foldl_nil] at hk ⊢
    subst hk; rw [acc_aput]

/-- Old elements, bindings and checksums of the accumulator that a product goes to. -/
theorem productBase_claims {m : MatOp} (hkind : m.kind = .mac ∨ m.kind = .mul ∨ m.kind = .sparse) (hgroup : t.accGroup m.acc = clsGroup m.acc cls)
    (heven : cls = 2 → m.acc.val % 2 = 0) :
    AccOnly (clsGroup m.acc cls) t (productBase t m)
    ∧ (∀ i, accElem (productBase t m) m.acc cls i = if m.kind = .mul then 0 else accElem t m.acc cls i)
    ∧ bit ((productBase t m).acc m.acc).bind 22 = bit (t.acc m.acc).bind 22
    ∧ ((productBase t m).acc m.acc).cr = if m.kind = .mul then 0 else (t.acc m.acc).cr := by
  unfold productBase
  by_cases hmul : m.kind = .mul
  · have hclears : m.kind.clears = true := by rw [hmul]; rfl
    have hacc : ∀ k ∈ clsGroup m.acc cls, ((clsGroup m.acc cls).foldl (fun t k => t.aput k (t.acc k).cleared) t).acc k = (t.acc k).cleared :=
      fun k hk => clear_acc hk
    simp only [if_pos hclears, if_pos hmul, hgroup]
    refine ⟨clear_only _ _ (fun _ hk => hk) t, fun i => ?_, ?_, ?_⟩
    · rw [accElem, image_zero fun k hk => by rw [hacc k hk]; simp [Acc.cleared], Nat.zero_div, Nat.zero_mod]
    · rw [hacc _ (mem_clsGroup heven)]
      show bit (withField (clearBit _ 20) 32 16 0) 22 = _
      rw [bit_withField_ne _ (by decide) (by decide), bit_clearBit_ne _ (by decide)]
    · rw [hacc _ (mem_clsGroup heven)]; rfl
  · have hclears : ¬ m.kind.clears = true := by
      rcases hkind with h | h | h
      · rw [h]; decide
      · exact absurd h hmul
      · rw [h]; decide
    simp only [if_neg hclears, if_neg hmul]
    exact ⟨AccOnly.refl _ _, fun _ => trivial, trivial, trivial⟩

end

end Sys2Proof.Machine
end
section
/-!
The product of a matrix operation: slice sums, the accumulator, and its column checksum (R69, R71, R128, R135).
-/

namespace Sys2Proof.Machine

open Claims

/-! ### Rows, columns and sums -/

/-- Element (r, k) of the A side and (c, k) of the W side of an operation. -/
def aValue (m : MatOp) (g : MatArgs) (r k : Nat) : Num :=
  operand m.aDesc (shapeOf (descEt m.wDesc)).k g.a 0 0 g.aScale (if m.kind = .sparse then some g.aMap else none) r k

def wValue (m : MatOp) (g : MatArgs) (c k : Nat) : Num :=
  operand m.wDesc (shapeOf (descEt m.wDesc)).k g.w m.quarter g.wBook g.wScale (if m.kind = .sparse then some g.wMap else none) c k

section
variable (m : MatOp) (g : MatArgs)

theorem aRows_eq : aRows m g (decide (m.kind = .sparse)) = (List.range (shapeOf (descEt m.wDesc)).m).map (fun r =>
    (List.range (shapeOf (descEt m.wDesc)).k).map (aValue m g r)) := by
  unfold aRows aValue
  simp only [decide_eq_true_eq]

theorem wCols_eq : wCols m g (decide (m.kind = .sparse)) = (List.range (shapeOf (descEt m.wDesc)).n).map (fun c =>
    (List.range (shapeOf (descEt m.wDesc)).k).map (wValue m g c)) := by
  unfold wCols wValue
  simp only [decide_eq_true_eq]

theorem products_map (n : Nat) (x y : Nat → Num) :
    products ((List.range n).map x) ((List.range n).map y) = (List.range n).map (fun k => (Num.mul (x k) (y k)).1) := by
  rw [products, List.zip_map', List.map_map]
  rfl

theorem sliceSum_eq (r c : Nat) : sliceSum m g r c =
    exactSum ((List.range (shapeOf (descEt m.wDesc)).k).map (fun k => (Num.mul (aValue m g r k) (wValue m g c k)).1)) := by
  unfold sliceSum aValue wValue
  simp only [decide_eq_true_eq]

theorem columnSums_map (n k : Nat) (x : Nat → Nat → Num) : columnSums ((List.range n).map (fun r => (List.range k).map (x r))) k =
    (List.range k).map (fun i => exactSum ((List.range n).map (fun r => x r i))) := by
  refine List.map_congr_left fun i hi => ?_
  rw [List.map_map]
  congr 1
  exact List.map_congr_left fun r _ => getD_map_range _ _ (List.mem_range.1 hi)

end

/-! ### Elements (R69, R71) -/

theorem addSlice_eq (cls old : Nat) (x : Num) : (addSlice cls old x).1 = accumulated cls old x := by
  unfold addSlice accumulated
  by_cases hc : cls = 1
  · simp only [if_pos hc]
    exact (congrArg (intBits 32) (clamp_eq (by decide) _))
  · simp only [if_neg hc, clsValue]
    rfl

theorem mapIdx_map_range {α β : Type} (f : Nat → α) (h : Nat → α → β) (n : Nat) :
    ((List.range n).map f).mapIdx h = (List.range n).map (fun i => h i (f i)) := by
  refine List.ext_getElem (by simp) fun i _ _ => ?_
  simp

/-- Whether element `i` lies in the quadrant at `(r0, c0)` of an operation. -/
abbrev inQuadrant (m : MatOp) (r0 c0 i : Nat) : Prop :=
  r0 ≤ i / 32 ∧ i / 32 < r0 + (shapeOf (descEt m.wDesc)).m ∧ c0 ≤ i % 32 ∧ i % 32 < c0 + (shapeOf (descEt m.wDesc)).n

/-- The elements after the product, with the ones that saturated marked. -/
def productSums (t : Thread) (m : MatOp) (g : MatArgs) (cls r0 c0 : Nat) : List (Nat × Bool) :=
  (t.accElems m.acc cls).mapIdx (fun i x =>
    if inQuadrant m r0 c0 i then
      addSlice cls x (exactSum (((((aRows m g (decide (m.kind = .sparse))).map (fun r =>
        (wCols m g (decide (m.kind = .sparse))).map (fun c => products r c))).getD (i / 32 - r0) []).getD (i % 32 - c0) [])))
    else (x, false))

theorem productSums_eq (t : Thread) (m : MatOp) (g : MatArgs) (cls r0 c0 : Nat) : (productSums t m g cls r0 c0).map (·.1) =
    (List.range 1024).map (fun i => if inQuadrant m r0 c0 i
      then accumulated cls (accElem t m.acc cls i) (sliceSum m g (i / 32 - r0) (i % 32 - c0)) else accElem t m.acc cls i) := by
  rw [productSums, accElems_eq, mapIdx_map_range, List.map_map]
  refine List.map_congr_left fun i _ => ?_
  rw [Function.comp_apply]
  by_cases hq : inQuadrant m r0 c0 i
  · obtain ⟨hr0, hr, hc0, hc⟩ := id hq
    rw [if_pos hq, if_pos hq, addSlice_eq, aRows_eq, wCols_eq, List.map_map, getD_map_range _ _ (by omega), Function.comp_apply, List.map_map,
      getD_map_range _ _ (by omega), Function.comp_apply, products_map, sliceSum_eq]
  · rw [if_neg hq, if_neg hq]

/-! ### The accumulator after the product (R135) -/

/-- The accumulator with its SAT bit and, with CHK, its checksums, after its elements are written. -/
def productAcc (m : MatOp) (g : MatArgs) (cls r0 c0 : Nat) (sat : Bool) (x : Acc) : Acc :=
  let sh := shapeOf (descEt m.wDesc)
  let a := aRows m g (decide (m.kind = .sparse))
  let w := wCols m g (decide (m.kind = .sparse))
  let x := if sat then { x with bind := setBit x.bind 20 } else x
  if x.chk then
    let aSum := columnSums a sh.k
    let ws := if decide (m.kind = .sparse) then (columnSums w sh.k).map (fun v => loadWsum m.wDesc (storeWsum m.wDesc v))
      else g.wsum.map (loadWsum m.wDesc)
    let magnitude := (a.map (fun r => w.map (fun c => products r c))).map (fun r => r.map (fun p => exactSum (p.map Num.absolute)))
    { x with cr := ckUpdate cls c0 x.cr (w.map (fun c => exactSum (products aSum c))),
             cc := ckUpdate cls r0 x.cc (a.map (fun r => exactSum (products r ws))),
             sr := ckUpdate cls c0 x.sr (columnSums magnitude sh.n),
             sc := ckUpdate cls r0 x.sc (magnitude.map exactSum) }
  else x

/-- A product clears the group of `mmul`, writes the elements, and then the accumulator's own status. -/
theorem product_eq {t : Thread} {m : MatOp} {g : MatArgs} {cls r0 c0 : Nat} (hcls : cls = (t.acc m.acc).cls)
    (hr : r0 = if cls = 2 then 16 * (m.qd.toNat / 2) else 0) (hc : c0 = if cls = 2 then 16 * (m.qd.toNat % 2) else 0) :
    t.product m g = (((productBase t m).putElems m.acc cls ((productSums (productBase t m) m g cls r0 c0).map (·.1))).aput m.acc
      (productAcc m g cls r0 c0 ((productSums (productBase t m) m g cls r0 c0).any (·.2))
        (((productBase t m).putElems m.acc cls ((productSums (productBase t m) m g cls r0 c0).map (·.1))).acc m.acc))) := by
  subst hcls hr hc
  rfl

/-! ### Checksum vectors -/

theorem ckList_eq (v : BitVec 2048) : ckList v = (List.range 32).map (fun i => v.toNat / 2 ^ (64 * i) % 2 ^ 64) := unpack_eq _ _ _

theorem ckList_ckVec (l : List Nat) {j : Nat} (hj : j < 32) : (ckList (ckVec l)).getD j 0 = l.getD j 0 % 2 ^ 64 := by
  rw [ckList_eq, getD_map_range _ _ hj, ckVec, BitVec.toNat_ofNat, mod_div_mod _ (by omega), pack_field]

/-- An element of a checksum vector that gains a sum. -/
theorem ckList_ckUpdate (cls base : Nat) (v : BitVec 2048) (l : List Num) {c : Nat} (hc : c < l.length) (hlt : base + c < 32) :
    (ckList (ckUpdate cls base v l)).getD (base + c) 0 = ckAdd cls ((ckList v).getD (base + c) 0) (l.getD c (.fin false 0 0)) % 2 ^ 64 := by
  rw [ckUpdate, ckList_ckVec _ hlt, ckList_eq, mapIdx_map_range, getD_map_range _ _ hlt, if_pos (by omega), getD_map_range _ _ hlt,
    Nat.add_sub_cancel_left]

theorem ckList_zero {j : Nat} : (ckList 0).getD j 0 = 0 := by
  rw [ckList_eq]
  by_cases hj : j < 32
  · rw [getD_map_range _ _ hj]; simp
  · exact getD_map_range_out _ _ (by omega)

section
variable {m : MatOp} {g : MatArgs} {cls r0 c0 : Nat} {sat : Bool} {x : Acc}

/-- CHK is not the bit that saturation sets. -/
theorem chk_sat : (if sat = true then { x with bind := setBit x.bind 20 } else x).chk = bit x.bind 22 := by
  cases sat with
  | false => rfl
  | true => exact bit_setBit_ne _ (by decide)

theorem cr_sat : (if sat = true then { x with bind := setBit x.bind 20 } else x).cr = x.cr := by
  cases sat <;> rfl

theorem elems_sat : (if sat = true then { x with bind := setBit x.bind 20 } else x).elems = x.elems := by
  cases sat <;> rfl

theorem productAcc_elems : (productAcc m g cls r0 c0 sat x).elems = x.elems := by
  unfold productAcc
  simp only [chk_sat]
  split
  · simp only [elems_sat]
  · exact elems_sat

theorem productAcc_cr : (productAcc m g cls r0 c0 sat x).cr = if bit x.bind 22 = true then
    ckUpdate cls c0 x.cr ((wCols m g (decide (m.kind = .sparse))).map (fun c => exactSum (products
      (columnSums (aRows m g (decide (m.kind = .sparse))) (shapeOf (descEt m.wDesc)).k) c))) else x.cr := by
  unfold productAcc
  simp only [chk_sat]
  split
  · simp only [cr_sat]
  · exact cr_sat

/-- The sums that the column checksum gains. -/
theorem columnGains_getD {c : Nat} (hc : c < (shapeOf (descEt m.wDesc)).n) :
    ((wCols m g (decide (m.kind = .sparse))).map (fun w => exactSum (products
      (columnSums (aRows m g (decide (m.kind = .sparse))) (shapeOf (descEt m.wDesc)).k) w))).getD c (.fin false 0 0) =
    exactSum ((List.range (shapeOf (descEt m.wDesc)).k).map (fun k => (Num.mul
      (exactSum ((List.range (shapeOf (descEt m.wDesc)).m).map (fun r => aValue m g r k))) (wValue m g c k)).1)) := by
  rw [wCols_eq, aRows_eq, columnSums_map, List.map_map, getD_map_range _ _ hc, Function.comp_apply, products_map]

end

/-! ### The thread after the product -/

section
variable {t : Thread} {m : MatOp} {g : MatArgs} {cls r0 c0 : Nat}

theorem product_claims (hkind : m.kind = .mac ∨ m.kind = .mul ∨ m.kind = .sparse) (hcls : cls = (t.acc m.acc).cls)
    (hr : r0 = if cls = 2 then 16 * (m.qd.toNat / 2) else 0) (hc : c0 = if cls = 2 then 16 * (m.qd.toNat % 2) else 0)
    (hgroup : t.accGroup m.acc = clsGroup m.acc cls) (heven : cls = 2 → m.acc.val % 2 = 0) :
    AccOnly (clsGroup m.acc cls) t (t.product m g)
    ∧ (∀ i, i < 1024 → accElem (t.product m g) m.acc cls i =
        if inQuadrant m r0 c0 i then
          accumulated cls (if m.kind = .mul then 0 else accElem t m.acc cls i) (sliceSum m g (i / 32 - r0) (i % 32 - c0)) % 2 ^ clsBits cls
        else if m.kind = .mul then 0 else accElem t m.acc cls i)
    ∧ ((t.product m g).acc m.acc).cr = if bit (t.acc m.acc).bind 22 = true then
        ckUpdate cls c0 (if m.kind = .mul then 0 else (t.acc m.acc).cr) ((wCols m g (decide (m.kind = .sparse))).map (fun c => exactSum (products
          (columnSums (aRows m g (decide (m.kind = .sparse))) (shapeOf (descEt m.wDesc)).k) c)))
      else if m.kind = .mul then 0 else (t.acc m.acc).cr := by
  obtain ⟨hbase, helem, hchk, hcr⟩ := productBase_claims hkind hgroup heven
  rw [product_eq hcls hr hc]
  generalize hout : (productSums (productBase t m) m g cls r0 c0).map (·.1) = out
  generalize (productSums (productBase t m) m g cls r0 c0).any (·.2) = sat
  have hput := acc_putElems (t := productBase t m) (n := m.acc) (cls := cls) out m.acc
  refine ⟨(hbase.trans (putElems_only out)).trans (AccOnly.aput (mem_clsGroup heven)), fun i hi => ?_, ?_⟩
  · have himage : (((productBase t m).putElems m.acc cls out).aput m.acc
        (productAcc m g cls r0 c0 sat (((productBase t m).putElems m.acc cls out).acc m.acc))).image m.acc cls =
        ((productBase t m).putElems m.acc cls out).image m.acc cls := image_congr fun k _ => by
      by_cases hk : k = m.acc
      · rw [hk, acc_aput, productAcc_elems]
      · rw [acc_aput_ne _ _ hk]
    rw [accElem, himage, ← accElem, accElem_putElems _ hi, ← hout, productSums_eq, getD_map_range _ _ hi]
    by_cases hq : inQuadrant m r0 c0 i
    · rw [if_pos hq, if_pos hq, helem]
    · rw [if_neg hq, if_neg hq, accElem, Nat.mod_mod, ← accElem, helem]
  · rw [acc_aput, productAcc_cr, hput]
    simp only [hchk, hcr]

/-- No fault is armed. -/
theorem accFault_inert {n : Fin 8} (h : bit t.errinj 31 = false) : t.accFault n = t := by
  simp [Thread.accFault, h]

theorem modThAt_congr {s : State} {w : Turn} {f h : Thread → Thread} (e : f (s.thAt w) = h (s.thAt w)) : s.modThAt w f = s.modThAt w h :=
  congrArg (s.setThAt w) e

theorem matrixOpComplete_ok {s : State} {r k : Nat} (h : Lone s r k m g) (hex : m.executing = true)
    (hfault : bit ((s.thAt { rank := r, slot := m.slot }).product m g).errinj 31 = false) :
    execMatrixOpComplete r k s = .next ((s.modThAt { rank := r, slot := m.slot } (fun t => t.product m g)).dropOp r m.id) := by
  obtain ⟨hgang, -⟩ := not_gang h.kind
  obtain ⟨hdead, hrecord⟩ := h.alive
  have hdone : s.modThAt { rank := r, slot := m.slot } (fun t => (t.product m g).accFault m.acc) =
      s.modThAt { rank := r, slot := m.slot } (fun t => t.product m g) := modThAt_congr (accFault_inert hfault)
  simp only [execMatrixOpComplete, macroHead_alone h, hex, hgang, hdead, h.args.2, hrecord, h.alone, List.any_cons, List.any_nil, Nat.lt_irrefl,
    decide_false, Bool.not_true, Bool.false_and, Bool.or_false, Bool.false_eq_true, if_false, hdone]

theorem core_dropOp (s : State) (r id : Nat) :
    (s.dropOp r id).core r = { s.core r with mops := (s.core r).mops.filter (fun m => decide (m.id ≠ id)) } := State.core_modCore _ _ _

theorem thAt_dropOp (s : State) (r id : Nat) (w : Turn) : (s.dropOp r id).thAt w = s.thAt w := thAt_modCore rfl w

end

end Sys2Proof.Machine
end

section
namespace Sys2Proof.Machine

open Claims

/-- Settles O27: the start is `matrixOpStart_claims`; the end adds the product (`product_claims`) over the rules of
`productBase`, `putElems` and `productAcc`. -/
theorem matrixRuns : Obligations.MatrixRuns := by
  unfold Obligations.MatrixRuns
  refine ⟨fun r k s m g h hex ha hw hread hpop => matrixOpStart_claims h hex ha hw hread hpop, ?_⟩
  rintro r k s m g a b cls r0 c0 sh h hex rfl hfault hcls _ hpair hsingle rfl hr hc
  have hgroup := accGroup_eq (fun h2 => (hpair h2).1) hsingle
  obtain ⟨honly, helem, hcr⟩ := product_claims (g := g) h.kind hcls hr hc hgroup fun h2 => (hpair h2).2
  refine ⟨_, matrixOpComplete_ok h hex (honly.errinj ▸ hfault), ?mops, untouched_of_mem rfl, ?thread⟩
  case mops =>
    rw [core_dropOp]
    show ((s.modThAt _ _).core r).mops.filter _ = []
    rw [State.modThAt, State.core_setThAt]
    simp [h.alone]
  case thread =>
    intro hb
    rw [thAt_dropOp, State.thAt_modThAt] at hb
    subst hb
    refine ⟨hgroup ▸ honly.keepsAcc, fun i hi => helem i hi, fun hchk c hcn hc32 => ?_, fun hchk => ?_⟩
    · have hlen : c < ((wCols m g (decide (m.kind = .sparse))).map (fun w => exactSum (products
          (columnSums (aRows m g (decide (m.kind = .sparse))) (shapeOf (descEt m.wDesc)).k) w))).length := by
        rw [wCols_eq]; simpa using hcn
      rw [hcr, if_pos hchk, ckList_ckUpdate _ _ _ _ hlen hc32, columnGains_getD hcn]
      by_cases hmul : m.kind = .mul
      · rw [if_pos hmul, if_pos hmul, ckList_zero]; rfl
      · rw [if_neg hmul, if_neg hmul]; rfl
    · rw [hcr, if_neg (by rw [hchk]; decide)]

end Sys2Proof.Machine
end

section
namespace Sys2Proof.Machine

open Claims

/-! ### Accesses that trap (R78, R121, R182, R183) -/

section
variable {s : State} {ga : Ptr} {n align : Nat} {c : Cause} {v : Word} {k : BitVec 4} {α β : Type}

/-- What traps first traps, whatever follows it. -/
theorem M.bind_error {x : M α} {f : α → M β} {e : Stop} {t : State} (h : x s = .error e t) : (x >>= f) s = .error e t := by
  rw [M.bind_apply, h]

/-- The trap of R78 on an access of the own scratchpad by a slot of a compute core: APERTURE before MISALIGN. -/
theorem precheck_scratch (hslot : s.turn.slot ≠ 4) (hsb : ga.sb = 0xF0) : precheck ga n align k s =
    if 0x340000 < ga.v.toNat + n then raise .aperture ga.v k s
    else if ga.v.toNat % align ≠ 0 then raise .misalign ga.v k s else .ok () s := by
  have hs : s.turn.slot.val ≠ 4 := fun e => hslot (Fin.ext e)
  have hc : s.spaceCheck ga n = if 0x340000 < ga.v.toNat + n then some .aperture else none := by
    by_cases h : 0x340000 < ga.v.toNat + n
    · simp [State.spaceCheck, State.gaCheck, State.viewer, hsb, hs, h, Nat.not_le.2 h]
    · simp [State.spaceCheck, State.gaCheck, State.viewer, hsb, hs, h, Nat.not_lt.1 h]
  simp only [precheck, M.bind_apply, M.get_apply, hc]
  by_cases h : 0x340000 < ga.v.toNat + n
  · simp [h, hsb]
  · simp only [h, if_false, hsb, M.ite_apply]
    simp

theorem resolve_aperture {acc : Access} (hslot : s.turn.slot ≠ 4) (hsb : ga.sb = 0xF0) (h : 0x340000 < ga.v.toNat + n) :
    resolve ga n align acc s = raise .aperture ga.v (BitVec.ofNat 4 (accessKind acc)) s :=
  M.bind_error (by rw [precheck_scratch hslot hsb, if_pos h]; rfl)

theorem resolve_misalign {acc : Access} (hslot : s.turn.slot ≠ 4) (hsb : ga.sb = 0xF0) (h : ga.v.toNat + n ≤ 0x340000)
    (ha : ga.v.toNat % align ≠ 0) : resolve ga n align acc s = raise .misalign ga.v (BitVec.ofNat 4 (accessKind acc)) s :=
  M.bind_error (by rw [precheck_scratch hslot hsb, if_neg (Nat.not_lt.2 h), if_pos ha]; rfl)

/-- A load whose address traps in the checks. -/
theorem execLd_trap {f : FmtM} (h : MayTrap s) (hf : f.wf = true)
    (hr : resolve (memGa f s.th) (sizeBytes f.size.val) (sizeBytes f.size.val) .load s = raise c v 1 s) :
    ∃ t, exec (.ld f) s = .next t ∧ TrapEntry {} s t c v 1 := by
  have hsize : ¬ 5 ≤ f.size.val := by have := of_decide_eq_true hf; omega
  refine trap_entry (k := 1) h ?_
  have hload : loadData (memGa f s.th) (sizeBytes f.size.val) (sizeBytes f.size.val) .load s = raise c v 1 s := M.bind_error hr
  simp only [M.bind_apply, M.ite_apply, thread_apply, hsize, if_false, hload, raise_apply]

/-- A store whose address traps in the checks, or that its home refuses. -/
theorem execSt_trap {f : FmtM} (h : MayTrap s) (hf : f.wf = true)
    (hr : ∀ x, storeData (memGa f s.th) (sizeBytes f.size.val) (sizeBytes f.size.val) x .store s = raise c v 2 s) :
    ∃ t, exec (.st f) s = .next t ∧ TrapEntry {} s t c v 2 := by
  have hsize : ¬ 5 ≤ f.size.val := by have := of_decide_eq_true hf; omega
  refine trap_entry (k := 2) h ?_
  simp only [M.bind_apply, M.ite_apply, thread_apply, hsize, if_false, hr, raise_apply]

/-- R121: nothing else stands in the way of a write that its position refuses. -/
theorem admitWrite_fixed {l : Loc} (h : Quiet s l n) (hr : s.readFirst l n = false) (hf : s.fixedLoc l = true) :
    admitWrite ga l n k s = raise .statWr ga.v k s := by
  simp only [admitWrite, M.bind_apply, M.get_apply, M.ite_apply, M.pure_apply, hr, Bool.false_eq_true, if_false,
    admitPiece_quiet h ga k false, hf, if_true]

/-- An access to an aligned address of the own scratchpad. -/
theorem resolve_scratch {o : Nat} {acc : Access} (hslot : s.turn.slot ≠ 4) (hga : ga = { sb := 0xF0, v := word o }) (h : o + n ≤ 0x340000)
    (ha : o % align = 0) : resolve ga n align acc s = .ok (scratchLoc s.turn.rank o) s := by
  have ho : (word o).toNat = o := by simp only [word, BitVec.toNat_ofNat]; omega
  subst hga
  exact resolve_placed (.inl ⟨rfl, hslot, by rw [ho]; exact h, by rw [ho]⟩) (by rw [ho]; exact ha)

theorem amoBytes_eq (f : FmtAm) : (if f.width.val = 0 then 4 else 8) = amoBytes f :=
  if_congr (Fin.ext_iff (b := 0)).symm rfl rfl

/-- An atomic whose address traps in the checks, or that its home refuses. -/
theorem amo_trap {op : AmoOp} {f : FmtAm} (h : MayTrap s) (hf : f.wf = true)
    (hr : (resolve (s.th.get f.a) (amoBytes f) (amoBytes f) .atomic >>= fun l => admitWrite (s.th.get f.a) l (amoBytes f) 3) s = raise c v 3 s) :
    ∃ t, amo op f s = .next t ∧ TrapEntry {} s t c v 3 := by
  have hwidth : ¬ 2 ≤ f.width.val := by have := of_decide_eq_true hf; omega
  refine trap_entry (k := 3) h ?_
  simp only [M.bind_apply, M.ite_apply, thread_apply, hwidth, if_false, amoBytes_eq] at hr ⊢
  cases hl : resolve (s.th.get f.a) (amoBytes f) (amoBytes f) .atomic s with
  | error e t => rw [hl] at hr; exact hr
  | ok l t =>
    rw [hl] at hr
    simp only [hr, raise_apply]

theorem red_trap {op : Nat} {i : Instr} {f : FmtAm} (h : MayTrap s) (hf : f.wf = true)
    (hr : resolve (s.th.get f.a) (amoBytes f) (amoBytes f) .atomic s = raise c v 3 s) :
    ∃ t, red op i f s = .next t ∧ TrapEntry {} s t c v 3 := by
  have hwidth : ¬ 2 ≤ f.width.val := by have := of_decide_eq_true hf; omega
  refine trap_entry (k := 3) h ?_
  simp only [M.bind_apply, M.ite_apply, M.get_apply, h.slot, hwidth, if_false, amoBytes_eq, hr, raise_apply]

/-- Every member of the table is the one meaning with its operation. -/
theorem exec_amoTable : ∀ e ∈ amoTable, ∃ op, ∀ f s, exec (e.1 f) s = amo op f s := by
  simp only [amoTable, List.forall_mem_cons]
  exact ⟨⟨.swap, fun _ _ => rfl⟩, ⟨.add, fun _ _ => rfl⟩, ⟨.and, fun _ _ => rfl⟩, ⟨.or, fun _ _ => rfl⟩, ⟨.xor, fun _ _ => rfl⟩,
    ⟨.smin, fun _ _ => rfl⟩, ⟨.smax, fun _ _ => rfl⟩, ⟨.umin, fun _ _ => rfl⟩, ⟨.umax, fun _ _ => rfl⟩, ⟨.cas, fun _ _ => rfl⟩,
    ⟨.fadd, fun _ _ => rfl⟩, ⟨.fmin, fun _ _ => rfl⟩, ⟨.fmax, fun _ _ => rfl⟩, nofun⟩

theorem exec_redTable : ∀ e ∈ redTable, ∀ f s, exec (e.2 f) s = red e.1 (e.2 f) f s := by
  simp only [redTable, List.forall_mem_cons]
  exact ⟨fun _ _ => rfl, fun _ _ => rfl, fun _ _ => rfl, fun _ _ => rfl, fun _ _ => rfl, fun _ _ => rfl, nofun⟩

end

/-- Settles O9: `resolve_aperture` and `resolve_misalign` before translation, `admitWrite_fixed` at the home. -/
theorem accessesTrap : Obligations.AccessesTrap := by
  unfold Obligations.AccessesTrap
  refine ⟨⟨?scalar, ?atomic⟩, ?fixed⟩
  case scalar =>
    intro f s hf h hsb
    simp only [List.forall_mem_cons]
    refine ⟨⟨fun hw => ?_, fun hw ha => ?_⟩, ⟨fun hw => ?_, fun hw ha => ?_⟩, List.forall_mem_nil _⟩
    · exact execLd_trap h hf (resolve_aperture h.slot hsb hw)
    · exact execLd_trap h hf (resolve_misalign h.slot hsb hw ha)
    · exact execSt_trap h hf fun _ => M.bind_error (resolve_aperture h.slot hsb hw)
    · exact execSt_trap h hf fun _ => M.bind_error (resolve_misalign h.slot hsb hw ha)
  case atomic =>
    intro f s hf h hsb hw ha
    have hr := resolve_misalign (acc := .atomic) h.slot hsb hw ha
    refine ⟨fun e he => ?_, fun e he => ?_⟩
    · obtain ⟨op, hop⟩ := exec_amoTable e he
      rw [hop]
      exact amo_trap h hf (M.bind_error hr)
    · rw [exec_redTable e he]
      exact red_trap h hf hr
  case fixed =>
    rintro s ⟨g, r, o⟩ h hfix rfl rfl
    refine ⟨fun f hf hga hw ha hq hr => ?_, fun f hf hga hw ha hq hr e he => ?_⟩
    · refine execSt_trap h hf fun x => ?_
      have hv : (memGa f s.th).v = word o := congrArg Ptr.v hga
      exact (M.bind_ok _ (resolve_scratch h.slot hga hw ha)).trans (hv ▸ M.bind_error (admitWrite_fixed hq hr hfix))
    · obtain ⟨op, hop⟩ := exec_amoTable e he
      have hv : (s.th.get f.a).v = word o := congrArg Ptr.v hga
      rw [hop, ← hv]
      refine amo_trap h hf ?_
      rw [M.bind_ok _ (resolve_scratch h.slot hga hw ha)]
      exact admitWrite_fixed hq hr hfix

end Sys2Proof.Machine
end

section
/-! Tile transfers, row hints and discards (R92, R97, R252-R257, R342). -/

namespace Sys2Proof.Machine

open Claims

/-! ### Pages that are held (R343) -/

/-- What holding and freeing pages leaves: the in-flight counts of vaults are all it changes. -/
structure PagesCounted (s t : State) : Prop where
  rest : t = { s with cores := t.cores }
  core : ∀ r, ∃ i, t.core r = { s.core r with vault := { (s.core r).vault with inflight := i } }

namespace PagesCounted

variable {s t u : State}

theorem refl (s : State) : PagesCounted s s := ⟨rfl, fun r => ⟨(s.core r).vault.inflight, rfl⟩⟩

theorem trans (h : PagesCounted s t) (k : PagesCounted t u) : PagesCounted s u where
  rest := by rw [k.rest, h.rest]
  core := fun r => by
    obtain ⟨i, hi⟩ := h.core r
    obtain ⟨j, hj⟩ := k.core r
    exact ⟨j, by rw [hj, hi]⟩

theorem foldl {α : Type} {f : State → α → State} (hf : ∀ s x, PagesCounted s (f s x)) (l : List α) (s : State) :
    PagesCounted s (l.foldl f s) := by
  induction l generalizing s with
  | nil => exact refl s
  | cons x l ih => exact (hf s x).trans (ih _)

theorem modVault (s : State) (r : Nat) {f : Vault → Vault} (hf : ∃ i, f (s.core r).vault = { (s.core r).vault with inflight := i }) :
    PagesCounted s (s.modCore r fun c => { c with vault := f c.vault }) where
  rest := rfl
  core := fun q => by
    by_cases e : q = r
    · subst e
      obtain ⟨i, hi⟩ := hf
      exact ⟨i, by rw [State.core_modCore, hi]⟩
    · exact ⟨_, by rw [State.core_modCore_ne _ _ e]⟩

theorem hold (s : State) (r k : Nat) : PagesCounted s (s.hold r k) := modVault s r (f := fun v => { v with inflight := _ }) ⟨_, rfl⟩

theorem unhold (s : State) (r k : Nat) : PagesCounted s (s.unhold r k) := by
  refine modVault s r (f := fun v => v.unhold k) ?_
  unfold Vault.unhold
  split <;> exact ⟨_, rfl⟩

theorem turn (h : PagesCounted s t) : t.turn = s.turn := by rw [h.rest]

theorem mem (h : PagesCounted s t) : t.mem = s.mem := by rw [h.rest]

theorem msgs (h : PagesCounted s t) : t.msgs = s.msgs := by rw [h.rest]

theorem statuses (h : PagesCounted s t) : t.statuses = s.statuses := by rw [h.rest]

/-- Anything read of a core but those counts. -/
theorem field (h : PagesCounted s t) {α : Type} (g : Core → α)
    (hg : ∀ (c : Core) i, g { c with vault := { c.vault with inflight := i } } = g c) (r : Nat) : g (t.core r) = g (s.core r) := by
  obtain ⟨i, hi⟩ := h.core r
  rw [hi, hg]

theorem th (h : PagesCounted s t) : t.th = s.th := by
  unfold State.th State.thAt
  rw [h.turn, h.field Core.threads fun _ _ => rfl]

theorem me (h : PagesCounted s t) {α : Type} (g : Core → α)
    (hg : ∀ (c : Core) i, g { c with vault := { c.vault with inflight := i } } = g c) : g t.me = g s.me := by
  rw [State.me, h.turn, h.field g hg, State.me]

end PagesCounted

/-! ### The issue of a transfer (R254) -/

section
variable {s : State} {ga : Ptr} {n align : Nat} {acc : Access} {l : Loc} {f : FmtT} {x : TileXfer} {store : Bool}

/-- A place of the own vault (R97). -/
theorem ownVault_ok (hp : Placed s ga n acc l) (ha : ga.v.toNat % align = 0) (hv : l.region = .vault) (hh : l.home = s.turn.rank) :
    ownVault ga n align acc s = .ok l s := by
  simp only [ownVault, M.bind_apply, M.get_apply, M.ite_apply, M.pure_apply, resolve_placed hp ha, hv, hh, ne_eq, not_true_eq_false,
    or_self, if_false]

/-- A tile of a transfer lies on a boundary of tiles as its first one does. -/
theorem add_tiles_aligned {v : Word} {m k : Nat} (hm : m ∣ 2 ^ 64) (h : v.toNat % m = 0) : (v + word (k * m)).toNat % m = 0 := by
  simp only [word, BitVec.toNat_add, BitVec.toNat_ofNat]
  rw [Nat.mod_mod_of_dvd _ hm, Nat.add_mod, h, Nat.mod_mod_of_dvd _ hm, Nat.mul_mod_left, Nat.zero_mod]

theorem checkTiles_ok {offs : List Nat} (ha : ga.v.toNat % 0x800 = 0) (k : Nat) (h : ∀ i, i < offs.length →
    Placed s { ga with v := ga.v + word ((k + i) * 0x800) } 0x800 acc (vaultLoc s.turn.rank (offs.getD i 0))) :
    checkTiles ga acc offs.length k s = .ok offs s := by
  induction offs generalizing k with
  | nil => rfl
  | cons o offs ih =>
    have hfirst : ownVault (ga.add (word (k * 0x800))) 0x800 0x800 acc s = .ok (vaultLoc s.turn.rank o) s :=
      ownVault_ok (h 0 (Nat.succ_pos _)) (add_tiles_aligned (by decide) ha) rfl rfl
    have hrest := ih (k + 1) fun i hi => by
      rw [show k + 1 + i = k + (i + 1) by omega]
      exact h (i + 1) (Nat.succ_lt_succ hi)
    simp only [List.length_cons, checkTiles, M.bind_apply, M.pure_apply, hfirst, hrest]
    rfl

/-- A transfer as its instruction starts it. -/
def State.transfer (s : State) (store : Bool) (f : FmtT) (offs : List Nat) : TileXfer :=
  let q := s.me.queue f.q.val
  { id := s.me.nextId, slot := s.turn.slot, task := s.th.taskId, store := store, queue := f.q.val,
    seq := if store then q.assigned else q.tail, ga := s.th.get f.a, offs := offs, n := f.cnt.val + 1, done := 0, tok := f.t,
    held := bit s.th.evctl 0 || bit s.th.evctl 1, evctl := s.th.evctl, dom := s.th.domid }

/-- What a transfer claims of its queue: slots at the tail, or tiles at the head. -/
def State.claims (s : State) (x : TileXfer) : State :=
  if x.store then s.modMe fun c => c.setQueue x.queue { c.queue x.queue with pops := (c.queue x.queue).pops ++ List.replicate x.n (x.id, false) }
  else s.reserve s.turn.rank x.queue x.n

/-- The entry of a transfer on its core. -/
def Core.enters (c : Core) (x : TileXfer) : Core := { c with nextId := c.nextId + 1, xfers := c.xfers ++ [x] }

/-- The state of a transfer that has started: its claim, its entry, and its pages held. -/
def State.begins (s : State) (x : TileXfer) : State :=
  let s := (s.claims x).modMe fun c => c.enters x
  (framesOf x.offs).foldl (fun s k => s.hold s.turn.rank k) s

/-- The thread of a transfer that has started. -/
def Thread.starts (t : Thread) (f : FmtT) (x : TileXfer) : Thread :=
  Thread.issueWaiting { t.pending f.t with resumeTiles := 0 } f.lk [.q f.q.val] (if x.held then .tiles x.id else .ready)

theorem tileTransfer_starts {offs : List Nat} (hq : f.q.val < 8) (hres : s.th.resumeTiles = 0) (hcfg : (s.me.queue f.q.val).cfg = true)
    (hcap : f.cnt.val + 1 ≤ (s.me.queue f.q.val).cap) (ha : (s.th.get f.a).v.toNat % 0x800 = 0)
    (ht : TilesAt s (s.th.get f.a) (if store then .tileWrite else .tileRead) (f.cnt.val + 1) offs)
    (hroom : store = false → (s.me.queue f.q.val).count + (s.me.queue f.q.val).resv.length + f.cnt.val + 1 ≤ (s.me.queue f.q.val).cap) :
    tileTransfer store f s =
      .next ((s.begins (s.transfer store f offs)).modTh fun t => (t.starts f (s.transfer store f offs)).next) := by
  obtain ⟨hlen, hplaced⟩ := ht
  have hoffs : checkTiles (s.th.get f.a) (if store then .tileWrite else .tileRead) (f.cnt.val + 1) 0 s = .ok offs s := by
    rw [← hlen]
    exact checkTiles_ok ha 0 fun i hi => by rw [Nat.zero_add]; exact hplaced i (hlen ▸ hi)
  have hfree : (!store && decide ((s.me.queue f.q.val).free < f.cnt.val + 1)) = false := by
    cases store with
    | true => rfl
    | false => have := hroom rfl; simp [OpQueue.free]; omega
  have hga : (s.th.get f.a).add (word (0 * 0x800)) = s.th.get f.a := by simp [Ptr.add, word]
  refine (run_ok (t := (s.begins (s.transfer store f offs)).modTh fun t => t.starts f (s.transfer store f offs)) ?_).trans (by
    rw [State.modTh_eq _ fun t => t.starts f _, State.modTh_setTh, State.modTh_eq])
  simp only [M.bind_apply, M.ite_apply, M.get_apply, thread_apply, upd_apply, updTh_apply, Nat.not_le.2 hq, needQueue_ok hcfg,
    Nat.not_lt.2 hcap, hres, Nat.min_zero, Nat.sub_zero, hoffs, hfree, hga, if_false, Bool.false_eq_true]
  cases store <;> rfl

theorem State.begins_pages (s : State) (x : TileXfer) : PagesCounted
    ((s.claims x).modMe fun c => c.enters x) (s.begins x) :=
  .foldl (fun s k => .hold s s.turn.rank k) _ _

theorem State.turn_claims (s : State) (x : TileXfer) : (s.claims x).turn = s.turn := by unfold State.claims; split <;> rfl

theorem State.mem_claims (s : State) (x : TileXfer) : (s.claims x).mem = s.mem := by unfold State.claims; split <;> rfl

theorem State.me_claims (s : State) (x : TileXfer) : ∃ q, (s.claims x).me = s.me.setQueue x.queue q
    ∧ (x.store = false → q.resv = (s.me.queue x.queue).resv ++ List.replicate x.n false)
    ∧ (x.store = true → q.pops = (s.me.queue x.queue).pops ++ List.replicate x.n (x.id, false)) := by
  unfold State.claims
  split
  case isTrue h => exact ⟨_, State.me_modMe _ _, by simp [h], fun _ => rfl⟩
  case isFalse h => exact ⟨_, State.core_modCore _ _ _, fun _ => rfl, by simp [h]⟩

theorem State.th_claims (s : State) (x : TileXfer) : (s.claims x).th = s.th := by
  unfold State.claims
  split <;> exact th_setQueue ..

theorem State.th_begins (s : State) (x : TileXfer) : (s.begins x).th = s.th := by
  rw [(s.begins_pages x).th, State.modMe, th_modCore _ _ (Core.enters · x) (fun _ => rfl), s.th_claims]

theorem State.turn_begins (s : State) (x : TileXfer) : (s.begins x).turn = s.turn :=
  (s.begins_pages x).turn.trans (s.turn_claims x)

theorem State.mem_begins (s : State) (x : TileXfer) : (s.begins x).mem = s.mem :=
  (s.begins_pages x).mem.trans (s.mem_claims x)

/-- What a transfer that has started leaves of the own core, but for its threads and the pages that are held. -/
theorem State.me_begins {α : Type} (g : Core → α) (hg : ∀ (c : Core) i, g { c with vault := { c.vault with inflight := i } } = g c)
    (s : State) (x : TileXfer) :
    g (s.begins x).me = g ((s.claims x).me.enters x) := by
  rw [(s.begins_pages x).me g hg, State.me_modMe]

/-! ### What an instruction with a token leaves of its thread (R24) -/

theorem Thread.pending_marked (t : Thread) (r : Reg) : Marked t (t.pending r) r := by
  intro k
  by_cases hr : r = 0
  · simp [Thread.pending, hr]
  · by_cases hk : k = r
    · subst hk; simp [Thread.pending, hr, bit_setBit, k.isLt]
    · have hv : r.val ≠ k.val := fun e => hk (Fin.ext e.symm)
      simp [Thread.pending, hr, hk, hv]

theorem Thread.pending_keepsTok {t u : Thread} {p : Footprint} {r : Reg} (hp : p.outst = true)
    (hu : u = { t.pending r with outst := u.outst, pc := u.pc, resumeTiles := u.resumeTiles }) : KeepsTok p r t u := by
  constructor
  · have e : { u with pend := t.pend, tokErr := t.tokErr, tokUnc := t.tokUnc, resumeTiles := t.resumeTiles }
        = { t with outst := u.outst, pc := u.pc } := by
      rw [hu]
      unfold Thread.pending
      split <;> rfl
    rw [e]
    exact { Keeps.refl p t with outst := fun h => by simp [hp] at h, rest := rfl }
  · intro k hk
    have hv : r.val ≠ k.val := fun e => hk (Fin.ext e.symm)
    rw [hu]
    by_cases hr : r = 0
    · simp [Thread.pending, hr]
    · simp [Thread.pending, hr, hv]

theorem tileTransfer_clause {offs : List Nat} (hq : f.q.val < 8)
    (ht : tileTransfer store f s =
      .next ((s.begins (s.transfer store f offs)).modTh fun t => (t.starts f (s.transfer store f offs)).next)) :
    ∃ t x, tileTransfer store f s = .next t ∧ t.me.xfers = s.me.xfers ++ [x] ∧ x.store = store ∧ x.queue = f.q.val ∧ x.offs = offs
        ∧ x.n = f.cnt.val + 1 ∧ x.done = 0 ∧ x.tok = f.t ∧ x.slot = s.turn.slot ∧ x.held = (bit s.th.evctl 0 || bit s.th.evctl 1)
        ∧ x.seq = (if store then (s.me.queue f.q.val).head + (s.me.queue f.q.val).pops.length
            else (s.me.queue f.q.val).head + (s.me.queue f.q.val).count + (s.me.queue f.q.val).resv.length)
        ∧ (store = false → (t.me.queue f.q.val).resv = (s.me.queue f.q.val).resv ++ List.replicate (f.cnt.val + 1) false)
        ∧ (store = true → (t.me.queue f.q.val).pops = (s.me.queue f.q.val).pops ++ List.replicate (f.cnt.val + 1) (x.id, false))
        ∧ Marked s.th t.th f.t ∧ KeepsTok { outst := true } f.t s.th t.th ∧ t.th.pc = s.th.pc.add 4 ∧ Untouched s t
        ∧ ∃ o, t.th.outst = s.th.outst ++ [o] ∧ o.dest = [.q f.q.val] ∧ o.wait = (if x.held then .tiles x.id else .ready) ∧ o.trap = none := by
  generalize hx : s.transfer store f offs = x at ht
  obtain ⟨q, hme, hresv, hpops⟩ := s.me_claims x
  have hxq : x.queue = f.q.val := hx ▸ rfl
  have hxs : x.store = store := hx ▸ rfl
  have hxn : x.n = f.cnt.val + 1 := hx ▸ rfl
  have hmod : ∀ {α : Type} (g : Core → α), (∀ (c : Core) i, g { c with vault := { c.vault with inflight := i } } = g c) →
      (∀ (c : Core) h, g { c with threads := h } = g c) →
      g ((s.begins x).modTh fun t => (t.starts f x).next).me
        = g ((s.me.setQueue x.queue q).enters x) := by
    intro α g hv hth
    rw [State.modTh_eq, State.me_setTh, hth, State.me_begins g hv, hme]
  have hqueue : ((s.begins x).modTh fun t => (t.starts f x).next).me.queue f.q.val = q := by
    rw [hmod (fun c => c.queue f.q.val) (fun _ _ => rfl) fun _ _ => rfl]
    exact hxq ▸ Core.queue_setQueue _ q (hxq ▸ hq)
  have hth : ((s.begins x).modTh fun t => (t.starts f x).next).th = (s.th.starts f x).next := by rw [State.th_modTh, s.th_begins]
  refine ⟨_, x, ht, hmod Core.xfers (fun _ _ => rfl) fun _ _ => rfl, hxs, hxq, hx ▸ rfl, hxn, hx ▸ rfl, hx ▸ rfl, hx ▸ rfl, hx ▸ rfl,
    hx ▸ rfl, fun e => ?_, fun e => ?_, ?_, ?_, ?_, untouched_of_mem (s.mem_begins x), ?_⟩
  · rw [hqueue, hresv (hxs.trans e), hxq, hxn]
  · rw [hqueue, hpops (hxs.trans e), hxq, hxn]
  · rw [hth]
    exact Thread.pending_marked s.th f.t
  · rw [hth]
    exact Thread.pending_keepsTok rfl rfl
  · rw [hth]
    exact congrArg (Ptr.add · 4) (Thread.pending_frame s.th f.t).2.1
  · rw [hth]
    have hout : (s.th.pending f.t).outst = s.th.outst := by simp
    exact ⟨_, (Thread.issueWaiting_outst _ f.lk [.q f.q.val] _).trans (congrArg (· ++ _) hout), rfl, rfl, rfl⟩

end

/-! ### Transfers that trap (R97, R129, R254) -/

section
variable {s : State} {ga : Ptr} {n align : Nat} {acc : Access} {l : Loc} {f : FmtT} {store : Bool}

theorem needQueue_error {q : Nat} (h : (s.me.queue q).cfg = false) : needQueue q s = raise .aperture (word q) 0 s := by
  simp [needQueue, M.bind_apply, h]
  rfl

/-- A place elsewhere than in the own vault (R97). -/
theorem ownVault_nonLocal (hr : resolve ga n align acc s = .ok l s) (hl : l.region ≠ .vault) :
    ownVault ga n align acc s = raise .nonLocal ga.v (BitVec.ofNat 4 (accessKind acc)) s := by
  simp only [ownVault, M.bind_apply, M.get_apply, hr, if_pos (Or.inl hl : l.region ≠ .vault ∨ _), raise_apply]

theorem tileTransfer_unconfigured (h : MayTrap s) (hq : f.q.val < 8) (hcfg : (s.me.queue f.q.val).cfg = false) :
    ∃ t, tileTransfer store f s = .next t ∧ TrapEntry {} s t .aperture (word f.q.val) 0 :=
  trap_entry (k := 0) h (by
    simp only [M.bind_apply, M.ite_apply, Nat.not_le.2 hq, if_false, needQueue_error hcfg, raise_apply])

theorem tileTransfer_overlong (h : MayTrap s) (hq : f.q.val < 8) (hcfg : (s.me.queue f.q.val).cfg = true)
    (hcap : (s.me.queue f.q.val).cap < f.cnt.val + 1) :
    ∃ t, tileTransfer store f s = .next t ∧ TrapEntry {} s t .aperture (word (f.cnt.val + 1)) 4 :=
  trap_entry (k := 4) h (by
    simp only [M.bind_apply, M.ite_apply, Nat.not_le.2 hq, if_false, needQueue_ok hcfg, hcap, if_true, raise_apply])

theorem Ptr.add_zero (p : Ptr) : p.add (word 0) = p := by simp [Ptr.add, word]

theorem tileTransfer_scratch (h : MayTrap s) (hq : f.q.val < 8) (hcfg : (s.me.queue f.q.val).cfg = true)
    (hcap : f.cnt.val + 1 ≤ (s.me.queue f.q.val).cap) (hres : s.th.resumeTiles = 0) (hsb : (s.th.get f.a).sb = 0xF0)
    (ha : (s.th.get f.a).v.toNat % 0x800 = 0) (hw : (s.th.get f.a).v.toNat + 0x800 ≤ 0x340000) :
    ∃ t, tileTransfer store f s = .next t ∧ TrapEntry {} s t .nonLocal (s.th.get f.a).v 4 := by
  have hfirst : ownVault (s.th.get f.a) 0x800 0x800 (if store then .tileWrite else .tileRead) s = raise .nonLocal (s.th.get f.a).v 4 s := by
    rw [ownVault_nonLocal (resolve_placed (.inl ⟨hsb, h.slot, hw, rfl⟩) ha) nofun]
    cases store <;> rfl
  have htiles : checkTiles (s.th.get f.a) (if store then .tileWrite else .tileRead) (f.cnt.val + 1) 0 s
      = raise .nonLocal (s.th.get f.a).v 4 s :=
    M.bind_error (by rw [Nat.zero_mul, Ptr.add_zero]; exact hfirst)
  refine trap_entry (k := 4) h ?_
  simp only [M.bind_apply, M.ite_apply, thread_apply, Nat.not_le.2 hq, if_false, needQueue_ok hcfg, Nat.not_lt.2 hcap,
    hres, Nat.min_zero, Nat.sub_zero, htiles, raise_apply]

/-! ### Row hints (R256) -/

/-- A row hint changes the rows of the own vault that are open. -/
theorem rowHint_next {m : M Unit} {g : Vault → Vault}
    (hm : m s = .ok () ((s.modMe fun c => { c with vault := g c.vault }).modTh (·.issueOut f.lk []))) :
    ∃ t, run m s = .next t ∧ t.me.vault = g s.me.vault ∧ Untouched s t ∧ Keeps { outst := true } s.th t.th
      ∧ t.th.pc = s.th.pc.add 4 := by
  have hth : (s.modMe fun c => { c with vault := g c.vault }).th = s.th :=
    th_modCore s s.turn.rank (fun c => { c with vault := g c.vault }) fun _ => rfl
  have hend := issued_end (t := s.modMe fun c => { c with vault := g c.vault }) (lk := f.lk) (dest := []) (w := .ready)
    (Keeps.refl {} s.th) rfl rfl
  refine ⟨_, run_ok hm, ?_, untouched_of_mem rfl, ?_⟩
  · rw [State.modTh_eq, State.modTh_eq, State.me_setTh, State.me_setTh, State.me_modMe]
  · rw [State.modTh_eq _ (·.issueOut f.lk []), hth]
    exact hend.2

theorem ract_opens (hq : f.q.val < 8) (hp : Placed s (s.th.get f.a) 1 .tileRead l) (hv : l.region = .vault) (hh : l.home = s.turn.rank)
    (hmig : s.migrating l = false) (hmeets : s.meets false l = .nothing) :
    ∃ t, exec (.ract f) s = .next t ∧ t.me.vault = s.me.vault.activate (rowOf l.off) ∧ Untouched s t
      ∧ Keeps { outst := true } s.th t.th ∧ t.th.pc = s.th.pc.add 4 :=
  rowHint_next (f := f) (g := fun v => v.activate (rowOf l.off)) (by
    simp only [M.bind_apply, M.ite_apply, thread_apply, M.get_apply, upd_apply, updTh_apply, Nat.not_le.2 hq, if_false,
      ownVault_ok hp (Nat.mod_one _) hv hh, hmig, hmeets, ne_eq, not_true_eq_false, Bool.false_eq_true])

theorem rpre_closes (hq : f.q.val < 8) (hp : Placed s (s.th.get f.a) 1 .tileRead l) (hv : l.region = .vault) (hh : l.home = s.turn.rank) :
    ∃ t, exec (.rpre f) s = .next t
      ∧ t.me.vault = { s.me.vault with openRows := s.me.vault.openRows.filter fun r => decide (r ≠ rowOf l.off) } ∧ Untouched s t
      ∧ Keeps { outst := true } s.th t.th ∧ t.th.pc = s.th.pc.add 4 :=
  rowHint_next (f := f) (g := fun v => { v with openRows := v.openRows.filter fun r => decide (r ≠ rowOf l.off) }) (by
    simp only [M.bind_apply, M.ite_apply, thread_apply, upd_apply, updTh_apply, Nat.not_le.2 hq, if_false,
      ownVault_ok hp (Nat.mod_one _) hv hh])

theorem Vault.mem_activate (v : Vault) (row k : Nat) :
    k ∈ (v.activate row).openRows ↔ k = row ∨ (k ∈ v.openRows ∧ bankOf k ≠ bankOf row) := by
  simp [Vault.activate]

/-! ### Discards at issue (R257) -/

theorem discardPages_ok {ls : Nat → Loc} (ha : ga.v.toNat % 0x10000 = 0) (m k : Nat)
    (h : ∀ i, i < m → Placed s { ga with v := ga.v + word ((k + i) * 0x10000) } 0x10000 .discard (ls (k + i))) :
    ∃ pages, discardPages ga m k s = .ok pages s ∧ pages.map (·.1) = (List.range' k m).map ls := by
  induction m generalizing k with
  | zero => exact ⟨[], rfl, rfl⟩
  | succ m ih =>
    have hfirst : resolve (ga.add (word (k * 0x10000))) 0x10000 0x10000 .discard s = .ok (ls k) s :=
      resolve_placed (h 0 (Nat.succ_pos _)) (add_tiles_aligned (by decide) ha)
    obtain ⟨pages, hrest, hmap⟩ := ih (k + 1) fun i hi => by
      rw [show k + 1 + i = k + (i + 1) by omega]
      exact h (i + 1) (Nat.succ_lt_succ hi)
    refine ⟨_, by simp only [discardPages, M.bind_apply, M.get_apply, M.pure_apply, hfirst, hrest]; rfl, ?_⟩
    exact (congrArg (ls k :: ·) hmap).trans (by rw [List.range'_succ, List.map_cons])

/-- The state of a discard that has issued: its pages are held, and their message is on its way. -/
def State.discarded (s : State) (f : FmtT) (pages : List (Loc × Nat × Nat)) : State :=
  let u := pages.foldl (fun s p => s.holdPage p.1) s
  { u with msgs := u.msgs ++ [.discard 0 pages (statusFor u.turn s.th.taskId f.t s.th.domid 0)] }

theorem discard_issues {ls : Nat → Loc} (hq : f.q.val < 8) (hsb : (s.th.get f.a).sb.toNat < 0xF0) (ha : (s.th.get f.a).v.toNat % 0x10000 = 0)
    (hp : ∀ k, k ≤ f.cnt.val → Placed s { s.th.get f.a with v := (s.th.get f.a).v + word (k * 0x10000) } 0x10000 .discard (ls k)) :
    ∃ t pages st, exec (.discard f) s = .next t ∧ t.msgs = s.msgs ++ [.discard 0 pages st]
      ∧ pages.map (·.1) = (List.range (f.cnt.val + 1)).map ls ∧ st.reg = f.t ∧ st.rank = s.turn.rank ∧ st.slot = s.turn.slot
      ∧ Marked s.th t.th f.t ∧ KeepsTok { outst := true } f.t s.th t.th ∧ t.th.pc = s.th.pc.add 4 ∧ Untouched s t := by
  obtain ⟨pages, hpages, hmap⟩ := discardPages_ok (s := s) (ls := ls) ha (f.cnt.val + 1) 0 fun i hi => by
    rw [Nat.zero_add]
    exact hp i (Nat.le_of_lt_succ hi)
  have hheld : PagesCounted s (pages.foldl (fun s p => s.holdPage p.1) s) := .foldl (fun s p => .hold s _ _) pages s
  have hth : (s.discarded f pages).th = s.th := hheld.th
  refine ⟨_, pages, statusFor s.turn s.th.taskId f.t s.th.domid 0,
    run_ok (t := (s.discarded f pages).modTh fun t => (t.pending f.t).issueOut f.lk []) ?_, ?_, ?_, rfl, rfl, rfl, ?_, ?_, ?_,
    untouched_of_mem hheld.mem⟩
  · simp only [M.bind_apply, M.ite_apply, thread_apply, upd_apply, updTh_apply, Nat.not_le.2 hq, Nat.not_le.2 hsb, if_false, hpages]
    rfl
  · rw [← hheld.turn]
    exact congrArg (· ++ _) hheld.msgs
  · rw [hmap, List.range_eq_range']
  · rw [State.th_modTh, State.th_modTh, hth]
    exact Thread.pending_marked s.th f.t
  · rw [State.th_modTh, State.th_modTh, hth]
    exact Thread.pending_keepsTok rfl rfl
  · rw [State.th_modTh, State.th_modTh, hth]
    exact congrArg (Ptr.add · 4) (Thread.pending_frame s.th f.t).2.1

theorem discard_outside (h : MayTrap s) (hq : f.q.val < 8) (hsb : 0xF0 ≤ (s.th.get f.a).sb.toNat) :
    ∃ t, exec (.discard f) s = .next t ∧ TrapEntry {} s t .aperture (s.th.get f.a).v 4 :=
  trap_entry (k := 4) h (by
    simp only [M.bind_apply, M.ite_apply, thread_apply, Nat.not_le.2 hq, hsb, if_false, if_true, raise_apply])

end

/-! ### The last tile of a load (R87, R92, R254) -/

section
variable {s t : State}

theorem readLeaves_setThAt (home : Nat) (s : State) (w : Turn) : ReadLeaves home s (s.setThAt w (s.thAt w)) := by
  have hset : (s.core w.rank).threads.set w.slot (s.thAt w) = (s.core w.rank).threads := by simp [State.thAt]
  refine .modCore s w.rank (fun c => { c with threads := c.threads.set w.slot (s.thAt w) }) ?_ fun _ => rfl
  show CoreRead (s.core w.rank) { s.core w.rank with threads := (s.core w.rank).threads.set w.slot (s.thAt w) }
  rw [hset]
  exact .refl _

theorem ReadLeaves.livePlace {home : Nat} (h : ReadLeaves home s t) (p : Nat) (l : Loc) : t.livePlace p l = s.livePlace p l := by
  have hmoving := h.field (fun c => c.agent.moving) (fun _ _ => rfl) l.home
  unfold State.livePlace
  rw [hmoving, h.redirected]

theorem ReadLeaves.rowPlace {home : Nat} (h : ReadLeaves home s t) (r off : Nat) : t.rowPlace r off = s.rowPlace r off := by
  have hpart : t.partOf r = s.partOf r := by rw [h.rest]; rfl
  rw [State.rowPlace, State.rowPlace, h.livePlace, hpart]

theorem NoReds.wake (h : NoReds s) (l : Loc) (n : Nat) : NoReds (s.wake l n) := by
  unfold State.wake
  dsimp only
  split
  · intro p hp
    obtain ⟨q, hq, rfl⟩ := List.mem_map.1 hp
    exact h q hq
  · exact h

theorem NoReds.poke (h : NoReds s) (l : Loc) (n v : Nat) : NoReds (s.poke l n v) := h

theorem NoReds.store_scratch (h : NoReds s) (b : Behalf) (r o n v : Nat) : NoReds (s.store b (scratchLoc r o) n v) := by
  have hbad : ∀ p, NoReds (s.modCore r fun c => { c with badScratch := List.filter p c.badScratch }) := fun p =>
    noReds_modCore h r (fun c => { c with badScratch := List.filter p c.badScratch }) rfl
  exact NoReds.wake (NoReds.poke (hbad _) (scratchLoc r o) n v) _ _

/-- What the reads of waiting operations leave: of the cores, only those operations change. -/
structure OnlyOps (s t : State) : Prop where
  rest : t = { s with cores := t.cores }
  core : ∀ r, ∃ l, t.core r = { s.core r with mops := l }
  reds : NoReds t

theorem OnlyOps.refl (h : NoReds s) : OnlyOps s s := ⟨rfl, fun r => ⟨(s.core r).mops, rfl⟩, h⟩

theorem OnlyOps.trans {u : State} (h : OnlyOps s t) (k : OnlyOps t u) : OnlyOps s u where
  rest := by rw [k.rest, h.rest]
  core := fun r => by
    obtain ⟨i, hi⟩ := h.core r
    obtain ⟨j, hj⟩ := k.core r
    exact ⟨j, by rw [hj, hi]⟩
  reds := k.reds

theorem OnlyOps.captureTile (hr : NoReds s) (r : Nat) (m : MatOp) : OnlyOps s (s.captureTile r m) := by
  have hmod : ∀ g : List MatOp → List MatOp, OnlyOps s (s.modCore r fun c => { c with mops := g c.mops }) := fun g =>
    { rest := rfl
      core := fun q => by
        by_cases e : q = r
        · subst e
          exact ⟨_, State.core_modCore s q fun c => { c with mops := g c.mops }⟩
        · exact ⟨_, State.core_modCore_ne s (fun c => { c with mops := g c.mops }) e⟩
      reds := noReds_modCore hr r _ rfl }
  unfold State.captureTile
  dsimp only
  split
  · split
    · rw [recall_noReds hr]
      exact hmod _
    · exact .refl hr
  · exact .refl hr

theorem OnlyOps.captureReady (hr : NoReds s) (r : Nat) : OnlyOps s (s.captureReady r) := by
  unfold State.captureReady
  generalize (s.core r).mops = l
  induction l generalizing s with
  | nil => exact .refl hr
  | cons m l ih =>
    have hfirst := OnlyOps.captureTile hr r m
    exact hfirst.trans (ih hfirst.reds)

/-- A tile fills the one slot that its queue has reserved. -/
structure Filled (s t : State) (r q tile : Nat) (x : OpQueue) : Prop where
  mem : t.mem = Memory.writeN s.mem (scratchLoc r (x.tileOff (x.head + x.count))).key 0x800 tile
  queue : (t.core r).queue q = { x with count := x.count + 1, resv := [] }
  xfers : (t.core r).xfers = (s.core r).xfers
  vault : (t.core r).vault = (s.core r).vault

theorem fillSlot_filled {b : Behalf} {r q tile : Nat} {x : OpQueue} (hr : NoReds s) (hq : q < 8) (hx : (s.core r).queue q = x)
    (hres : x.resv = [false]) : Filled s (s.fillSlot b r q (x.head + x.count) tile) r q tile x := by
  generalize hu : s.store b (scratchLoc r (x.tileOff (x.head + x.count))) 0x800 tile = u
  have hfield : ∀ {α : Type} (g : Core → α), (∀ c bad th, g { c with badScratch := bad, threads := th } = g c) →
      g (u.core r) = g (s.core r) := fun g hg => hu ▸ store_scratch_field g hg s b r _ 0x800 tile r
  have hmem : u.mem = Memory.writeN s.mem (scratchLoc r (x.tileOff (x.head + x.count))).key 0x800 tile :=
    hu ▸ (Machine.store_scratch s b r _ 0x800 tile).1
  have hru : NoReds u := hu ▸ NoReds.store_scratch hr b r _ 0x800 tile
  have hone : OpQueue.settle { x with resv := x.resv.set (x.head + x.count - x.head - x.count) true } = { x with count := x.count + 1, resv := [] } := by
    rw [hres, show x.head + x.count - x.head - x.count = 0 by omega]
    exact x.settle_one
  have hfill : s.fillSlot b r q (x.head + x.count) tile
      = (u.modCore r fun c => c.setQueue q { x with count := x.count + 1, resv := [] }).captureReady r := by
    rw [State.fillSlot, hx, recall_noReds hr]
    rw [hu, hone]
  have hops := OnlyOps.captureReady (s := u.modCore r fun c => c.setQueue q { x with count := x.count + 1, resv := [] })
    (noReds_modCore hru r (fun c => c.setQueue q { x with count := x.count + 1, resv := [] }) rfl) r
  rw [hfill]
  generalize (u.modCore r fun c => c.setQueue q { x with count := x.count + 1, resv := [] }).captureReady r = v at hops
  obtain ⟨l, hcore⟩ := hops.core r
  rw [State.core_modCore] at hcore
  refine ⟨by rw [hops.rest]; exact hmem, ?_, ?_, ?_⟩
  · rw [hcore]
    exact Core.queue_setQueue (u.core r) _ hq
  · rw [hcore]
    exact hfield Core.xfers fun _ _ _ => rfl
  · rw [hcore]
    exact hfield Core.vault fun _ _ _ => rfl

/-- The state in which the last tile of a load is in its slot. -/
def State.lastTile (s : State) (r off : Nat) (x : TileXfer) (seq : Nat) : State :=
  ((s.modCore r fun c => { c with vault := c.vault.activate (rowOf off) }).corrected (vaultLoc r off) 0x800).fillSlot
    { rank := r, dom := if ckptDom x.dom then some x.dom else none } r x.queue seq (s.peek (vaultLoc r off) 0x800)

theorem moveRow_last {r off moved : Nat} {x : TileXfer} (hr : NoReds s) (hload : x.store = false) (hlast : x.done + 1 = x.n)
    (hplace : s.rowPlace r off = vaultLoc r off) :
    s.moveRow r off x moved = (s.lastTile r off x (x.seq + moved)).endXfer r { x with done := x.done + 1 } (moved + 1) 0 false := by
  simp only [State.moveRow, hplace, recall_noReds hr, hload, hlast, if_true, Bool.false_eq_true, if_false]
  rfl

theorem lastTile_filled {r off : Nat} {x : TileXfer} {q : OpQueue} (hr : NoReds s) (hq : x.queue < 8)
    (hx : (s.core r).queue x.queue = q) (hres : q.resv = [false]) :
    let t := s.lastTile r off x (q.head + q.count)
    t.mem = Memory.writeN s.mem (scratchLoc r (q.tileOff (q.head + q.count))).key 0x800 (s.peek (vaultLoc r off) 0x800)
      ∧ (t.core r).queue x.queue = { q with count := q.count + 1, resv := [] } ∧ (t.core r).xfers = (s.core r).xfers
      ∧ rowOf off ∈ (t.core r).vault.openRows := by
  have hopen : ReadLeaves r (s.modCore r fun c => { c with vault := c.vault.activate (rowOf off) })
      ((s.modCore r fun c => { c with vault := c.vault.activate (rowOf off) }).corrected (vaultLoc r off) 0x800) := .corrected _ _
  have hru : NoReds (s.modCore r fun c => { c with vault := c.vault.activate (rowOf off) }) :=
    noReds_modCore hr r (fun c => { c with vault := c.vault.activate (rowOf off) }) rfl
  have hfield : ∀ {α : Type} (g : Core → α), (∀ a b : Core, g (a.marked b) = g a) →
      g (((s.modCore r fun c => { c with vault := c.vault.activate (rowOf off) }).corrected (vaultLoc r off) 0x800).core r)
        = g { s.core r with vault := (s.core r).vault.activate (rowOf off) } := fun g hg => by
    rw [hopen.field g hg, State.core_modCore]
  have hfill := fillSlot_filled (b := { rank := r, dom := if ckptDom x.dom then some x.dom else none })
    (tile := s.peek (vaultLoc r off) 0x800) (hopen.noReds hru) hq ((hfield (fun c => c.queue x.queue) fun _ _ => rfl).trans hx) hres
  refine ⟨?_, hfill.queue, hfill.xfers.trans (hfield Core.xfers fun _ _ => rfl), ?_⟩
  · refine hfill.mem.trans ?_
    rw [hopen.mem]
    rfl
  · rw [State.lastTile, hfill.vault, hfield (fun c => c.vault.openRows) fun _ _ => rfl]
    exact List.mem_cons_self

/-- The one transfer of a core ends with its last tile. -/
theorem endXfer_last {r moved : Nat} {x y : TileXfer} (hxs : (s.core r).xfers = [x]) (hid : y.id = x.id) (hload : y.store = false)
    (hmoved : y.offs.length ≤ moved) :
    let t := s.endXfer r y moved 0 false
    t.mem = s.mem ∧ (t.core r).queue y.queue = (s.core r).queue y.queue ∧ (t.core r).xfers = []
      ∧ (t.core r).vault.openRows = (s.core r).vault.openRows ∧ StatusSent t r y.slot y.tok (doneStatus 0 y.done) := by
  have hpages : PagesCounted (s.modCore r fun c => { c with xfers := c.xfers.filter fun z => decide (z.id ≠ y.id) })
      (s.dropXfer r y moved) := by
    simp only [State.dropXfer, hload, Nat.not_lt.2 hmoved, if_false, Bool.false_eq_true]
    exact .foldl (fun s k => .unhold s r k) _ _
  have hfield : ∀ {α : Type} (g : Core → α), (∀ (c : Core) i, g { c with vault := { c.vault with inflight := i } } = g c) →
      g ((s.dropXfer r y moved).core r) = g { s.core r with xfers := (s.core r).xfers.filter fun z => decide (z.id ≠ y.id) } := fun g hg => by
    rw [hpages.field g hg, State.core_modCore]
  refine ⟨hpages.mem, hfield (fun c => c.queue y.queue) fun _ _ => rfl, ?_, hfield (fun c => c.vault.openRows) fun _ _ => rfl,
    ⟨_, List.mem_append_right _ (List.mem_singleton_self _), rfl, rfl, rfl, rfl⟩⟩
  refine (hfield Core.xfers fun _ _ => rfl).trans ?_
  simp [hxs, hid]

theorem rowFails_unchecked {l : Loc} (h : (s.core l.home).vault.badCheck = []) : s.rowFails l = false := by
  simp [State.rowFails, Vault.rowFails, h]

theorem tileError_none {r off seq moved : Nat} {x : TileXfer} (hload : x.store = false) (hplace : s.rowPlace r off = vaultLoc r off)
    (hread : s.unreadable (vaultLoc r off) 0x800 = false) (hcheck : (s.core r).vault.badCheck = [])
    (hinj : bit (s.thAt { rank := r, slot := x.slot }).errinj 31 = false) : s.tileError r off x seq moved = none := by
  have hpair : (if (s.thAt { rank := r, slot := x.slot }).taskId = x.task then (s.thAt { rank := r, slot := x.slot }).injects 4
      else (false, s.thAt { rank := r, slot := x.slot })) = (false, s.thAt { rank := r, slot := x.slot }) := by
    rw [injects_unarmed hinj, ite_self]
  have hset := readLeaves_setThAt r s { rank := r, slot := x.slot }
  have hfails : (s.setThAt { rank := r, slot := x.slot } (s.thAt { rank := r, slot := x.slot })).rowFails (vaultLoc r off) = false :=
    rowFails_unchecked ((hset.field (fun c => c.vault.badCheck) (fun _ _ => rfl) r).trans hcheck)
  simp only [State.tileError, hload, hpair, hset.rowPlace, hplace, hset.unreadable, hread, hfails, Bool.false_eq_true, if_false, Bool.or_self]

theorem tileMeets_goes {r off seq : Nat} {x : TileXfer} (hload : x.store = false) (hset : Settled s r (vaultLoc r off))
    (hmeets : s.meets false (vaultLoc r off) = .nothing) : s.tileMeets r off x seq = .goes := by
  obtain ⟨hmig, hlive⟩ := hset
  simp only [State.tileMeets, State.rowPlace, hlive, hload, hmig, meets_read hmeets, Bool.false_eq_true, false_and, if_false]

theorem nextRow_last {off : Nat} {x : TileXfer} (hoffs : x.offs = [off]) (hlast : x.n = x.done + 1) : x.nextRow = some (off, 0) := by
  have hmoved : x.offs.length + x.done - x.n = 0 := by rw [hoffs, hlast, List.length_singleton]; omega
  unfold TileXfer.nextRow
  rw [hmoved, hoffs]
  rfl

/-- TILE_TRANSFER_TILE of a load's last tile, from the state that its thread's armed error has not changed. -/
theorem tileTransferTile_last {r off : Nat} {x : TileXfer} (hxs : (s.core r).xfers = [x]) (hload : x.store = false)
    (hoffs : x.offs = [off]) (hlast : x.n = x.done + 1) (hset : Settled s r (vaultLoc r off))
    (hmeets : s.meets false (vaultLoc r off) = .nothing) (hread : s.unreadable (vaultLoc r off) 0x800 = false)
    (hcheck : (s.core r).vault.badCheck = []) (hinj : bit (s.thAt { rank := r, slot := x.slot }).errinj 31 = false) :
    ∃ u, ReadLeaves r s u ∧ exec (.tileTransferTile r) s = .next (u.moveRow r off x 0) := by
  have hgoes : ∀ seq, s.tileMeets r off x seq = .goes := fun _ => tileMeets_goes hload hset hmeets
  have hrow := nextRow_last hoffs hlast
  have hready : s.xferReady r x = true := by
    simp [State.xferReady, hrow, hgoes]
  have hnone : ∀ seq, s.tileError r off x seq 0 = none := fun _ => tileError_none hload hset.2 hread hcheck hinj
  refine ⟨if !x.store && decide ((s.thAt { rank := r, slot := x.slot }).taskId = x.task)
    then s.setThAt { rank := r, slot := x.slot } ((s.thAt { rank := r, slot := x.slot }).injects 4).2 else s, ?_, ?_⟩
  · rw [injects_unarmed hinj]
    split
    · exact readLeaves_setThAt r s _
    · exact .refl _ _
  · show execTileTransferTile r s = _
    unfold execTileTransferTile
    rw [hxs, List.find?_cons_of_pos hready]
    simp only [hrow, hgoes, hnone]

end

/-! ### A page discarded at its home (R257, R342) -/

section
variable {s : State} {l : Loc} {h o : Nat}

theorem Memory.read_clear_in (m : List Host.Cell) {a n b : Nat} (hlo : a ≤ b) (hhi : b < a + n) : Memory.read (Memory.clear m a n) b = 0 :=
  Memory.read_filter_drop (p := fun k => decide (k < a) || decide (a + n ≤ k)) m
    (by rw [decide_eq_false (Nat.not_lt.2 hlo), decide_eq_false (Nat.not_le.2 hhi), Bool.or_self])

theorem State.wake_rest (s : State) (l : Loc) (n : Nat) : s.wake l n = { s with cores := (s.wake l n).cores } := by
  unfold State.wake
  dsimp only
  split <;> rfl

/-- The word of a leaf whose page reads as zero: ZR set and D clear (R342). -/
def zeroedLeaf (s : State) (h o : Nat) : Word := clearBit (setBit (word (s.peek (vaultLoc h o) 8)) 59) 58

theorem zeroedLeaf_bits (s : State) (h o : Nat) : bit (zeroedLeaf s h o) 59 = true ∧ bit (zeroedLeaf s h o) 58 = false := by
  simp [zeroedLeaf, bit_clearBit, bit_setBit]

/-- A frame in the zero map of a vault (R342). -/
def Vault.zeroes (v : Vault) (frame h o : Nat) : Vault :=
  { v with zero := (frame, h, o) :: v.zero.filter (fun z => decide (z.1 ≠ frame))
           badGranules := v.badGranules.filter (fun g => decide (g * 64 / 0x10000 ≠ frame))
           weakGranules := v.weakGranules.filter (fun g => decide (g * 64 / 0x10000 ≠ frame)) }

/-- The first byte of the page of a place. -/
def pageStart (l : Loc) : Loc := { l with off := l.off / 0x10000 * 0x10000 }

/-- The state with a vault page emptied: in the zero map, and no byte of it listed. -/
def State.emptied (s : State) (l : Loc) (h o : Nat) : State :=
  ((s.modCore l.home fun c => { c with vault := c.vault.zeroes (l.off / 0x10000) h o }).zeroFill (pageStart l) 0x10000).wake (pageStart l) 0x10000

/-- The page emptied, and its leaf written. -/
def State.discardsPage (s : State) (l : Loc) (h o : Nat) : State :=
  ((s.emptied l h o).modCore h fun c => { c with vault := c.vault.noteWrite o 8 }).poke (vaultLoc h o) 8 (zeroedLeaf (s.emptied l h o) h o).toNat

theorem discardPage_eq {b : Behalf} (hr : NoReds s) (hv : l.region = .vault) (hb : b.dom = none) (ho : o < noLeaf) :
    s.discardPage b l h o = s.discardsPage l h o := by
  obtain ⟨region, home, off⟩ := l
  obtain rfl : region = .vault := hv
  simp only [State.discardPage, recall_noReds hr, hb, ho, if_true]
  rfl

theorem emptied_mem (s : State) (l : Loc) (h o : Nat) : (s.emptied l h o).mem = Memory.clear s.mem (pageStart l).key 0x10000 :=
  State.wake_mem _ _ _

theorem emptied_zero (s : State) (l : Loc) (h o : Nat) : (l.off / 0x10000, h, o) ∈ ((s.emptied l h o).core l.home).vault.zero := by
  obtain ⟨g, -, hcore⟩ := core_wake ((s.modCore l.home fun c => { c with vault := c.vault.zeroes (l.off / 0x10000) h o }).zeroFill
    (pageStart l) 0x10000) (pageStart l) 0x10000 l.home
  have hvault := congrArg (fun c : Core => c.vault.zero) hcore
  refine hvault.symm ▸ ?_
  show _ ∈ ((s.modCore l.home fun c => { c with vault := c.vault.zeroes (l.off / 0x10000) h o }).core l.home).vault.zero
  rw [State.core_modCore]
  exact List.mem_cons_self

theorem discardsPage_statuses (s : State) (l : Loc) (h o : Nat) : (s.discardsPage l h o).statuses = s.statuses := by
  show (s.emptied l h o).statuses = s.statuses
  rw [State.emptied, State.wake_rest]
  rfl

theorem discardsPage_zero (s : State) (l : Loc) (h o : Nat) : (l.off / 0x10000, h, o) ∈ ((s.discardsPage l h o).core l.home).vault.zero := by
  show _ ∈ (((s.emptied l h o).modCore h fun c => { c with vault := c.vault.noteWrite o 8 }).core l.home).vault.zero
  by_cases e : l.home = h
  · rw [← e, State.core_modCore]
    exact e ▸ emptied_zero s l h o
  · rw [State.core_modCore_ne _ _ e]
    exact emptied_zero s l h o

theorem discardsPage_leaf (hinv : Inv s) : word ((s.discardsPage l h o).peek (vaultLoc h o) 8) = zeroedLeaf (s.emptied l h o) h o := by
  have hwf : Memory.wf (s.emptied l h o).mem = true := by
    rw [emptied_mem]
    exact Memory.wf_clear hinv _ _
  have hstored : (s.discardsPage l h o).peek (vaultLoc h o) 8 = (zeroedLeaf (s.emptied l h o) h o).toNat % 256 ^ 8 :=
    Memory.readN_writeN_self hwf _ _ _
  have hlt : (zeroedLeaf (s.emptied l h o) h o).toNat < 256 ^ 8 := (zeroedLeaf (s.emptied l h o) h o).isLt
  rw [hstored, Nat.mod_eq_of_lt hlt, word, BitVec.ofNat_toNat, BitVec.setWidth_eq]

theorem discardsPage_byte {k : Nat} (hk : k < 0x10000)
    (hdis : (vaultLoc h o).key + 8 ≤ (pageStart l).key ∨ (pageStart l).key + 0x10000 ≤ (vaultLoc h o).key) :
    (s.discardsPage l h o).byteAt { l with off := l.off / 0x10000 * 0x10000 + k } = 0 := by
  have hkey : ({ l with off := l.off / 0x10000 * 0x10000 + k } : Loc).key = (pageStart l).key + k := (Nat.add_assoc _ _ _).symm
  show Memory.read (Memory.writeN (s.emptied l h o).mem (vaultLoc h o).key 8 _) _ = 0
  rw [hkey, Memory.read_writeN_out _ _ (by omega), emptied_mem]
  exact Memory.read_clear_in _ (Nat.le_add_right _ _) (Nat.add_lt_add_left hk _)

theorem discardAtHome_last {n : Nat} {st : Status} (hr : NoReds s) (hmsgs : s.msgs = [.discard n [(l, h, o)] st]) (hfree : s.pageFree l = true)
    (hset : Settled s st.rank l) (hruns : s.discardRuns l h o = true) (hv : l.region = .vault) (hdom : ckptDom st.dom = false) (ho : o < noLeaf) :
    exec .discardAtHome s = .next { (s.discardsPage l h o).unholdPage l with
      msgs := [], statuses := ((s.discardsPage l h o).unholdPage l).statuses ++ [{ st with value := doneStatus 0 (n + 1) }] } := by
  have hpage : s.discardPage { rank := st.rank, dom := if ckptDom st.dom then some st.dom else none } l h o = s.discardsPage l h o :=
    discardPage_eq hr hv (by rw [hdom]; rfl) ho
  show execDiscardAtHome s = _
  simp only [execDiscardAtHome, hmsgs, takeFirst, hset.2, hfree, hruns, Bool.and_self, if_true, hpage]
  rfl

theorem discardAtHome_clause {n : Nat} {st : Status} (hinv : Inv s) (hr : NoReds s) (hmsgs : s.msgs = [.discard n [(l, h, o)] st])
    (hfree : s.pageFree l = true) (hset : Settled s st.rank l) (hruns : s.discardRuns l h o = true) (hv : l.region = .vault)
    (hdom : ckptDom st.dom = false) (ho : o < noLeaf)
    (hdis : (vaultLoc h o).key + 8 ≤ (pageStart l).key ∨ (pageStart l).key + 0x10000 ≤ (vaultLoc h o).key) :
    ∃ t, exec .discardAtHome s = .next t ∧ t.msgs = [] ∧ t.statuses = s.statuses ++ [{ st with value := doneStatus 0 (n + 1) }]
      ∧ (∀ k, k < 0x10000 → t.byteAt { l with off := l.off / 0x10000 * 0x10000 + k } = 0)
      ∧ bit (word (t.peek (vaultLoc h o) 8)) 59 = true ∧ bit (word (t.peek (vaultLoc h o) 8)) 58 = false
      ∧ (∃ z ∈ (t.core l.home).vault.zero, z.1 = l.off / 0x10000) := by
  have hpages : PagesCounted (s.discardsPage l h o) ((s.discardsPage l h o).unholdPage l) := .unhold _ _ _
  have hzero := hpages.field (fun c => c.vault.zero) (fun _ _ => rfl) l.home
  obtain ⟨hset59, hclear58⟩ := zeroedLeaf_bits (s.emptied l h o) h o
  have hleaf := discardsPage_leaf (h := h) (o := o) (l := l) hinv
  refine ⟨_, discardAtHome_last hr hmsgs hfree hset hruns hv hdom ho, rfl, ?_, fun k hk => discardsPage_byte hk hdis, ?_, ?_,
    ⟨_, hzero ▸ discardsPage_zero s l h o, rfl⟩⟩
  · exact congrArg (· ++ _) (hpages.statuses.trans (discardsPage_statuses s l h o))
  · exact (congrArg (bit · 59) hleaf).trans hset59
  · exact (congrArg (bit · 58) hleaf).trans hclear58

/-- A load's last tile is in its queue, with its row open and its status sent. -/
theorem tileTransferTile_clause {r off : Nat} {x : TileXfer} {q : OpQueue} (hxs : (s.core r).xfers = [x]) (hload : x.store = false)
    (hoffs : x.offs = [off]) (hlast : x.n = x.done + 1) (hq : x.queue < 8) (hx : q = (s.core r).queue x.queue) (hres : q.resv = [false])
    (hseq : x.seq = q.head + q.count) (hinv : Inv s) (hset : Settled s r (vaultLoc r off))
    (hmeets : s.meets false (vaultLoc r off) = .nothing) (hread : s.unreadable (vaultLoc r off) 0x800 = false)
    (hcheck : (s.core r).vault.badCheck = []) (hinj : bit (s.thAt { rank := r, slot := x.slot }).errinj 31 = false) (hr : NoReds s) :
    ∃ t, exec (.tileTransferTile r) s = .next t ∧ (t.core r).xfers = [] ∧ ((t.core r).queue x.queue).count = q.count + 1
      ∧ Stored s t (scratchLoc r (q.base + x.seq % q.cap * 0x800)) 0x800 (s.peek (vaultLoc r off) 0x800)
      ∧ StatusSent t r x.slot x.tok (doneStatus 0 x.n) ∧ rowOf off ∈ (t.core r).vault.openRows := by
  obtain ⟨u, hu, hexec⟩ := tileTransferTile_last hxs hload hoffs hlast hset hmeets hread hcheck hinj
  rw [moveRow_last (hu.noReds hr) hload hlast.symm ((hu.rowPlace r off).trans hset.2)] at hexec
  have hxu : (u.core r).queue x.queue = q := (hu.field (fun c => c.queue x.queue) (fun _ _ => rfl) r).trans hx.symm
  obtain ⟨hmem, hqueue, hxfers, hopen⟩ := lastTile_filled (off := off) (hu.noReds hr) hq hxu hres
  rw [← hseq] at hmem hqueue hxfers hopen
  have hxu' : (u.core r).xfers = [x] := (hu.field Core.xfers (fun _ _ => rfl) r).trans hxs
  obtain ⟨hemem, hequeue, hexfers, heopen, hestatus⟩ := endXfer_last (moved := 1) (y := { x with done := x.done + 1 })
    (hxfers.trans hxu') rfl hload (by rw [hoffs]; exact Nat.le_refl 1)
  refine ⟨_, hexec, hexfers, ?_, ?_, ?_, ?_⟩
  · exact (congrArg OpQueue.count (hequeue.trans hqueue)).trans rfl
  · refine stored_writeN hinv ?_
    rw [← hu.peek, ← hu.mem]
    exact hemem.trans hmem
  · rw [hlast]
    exact hestatus
  · exact heopen.symm ▸ hopen

end

/-- Both members are the one meaning. -/
theorem exec_transfer : ∀ e ∈ ([(.tld, false), (.tst, true)] : List ((FmtT → Instr) × Bool)), ∀ f s,
    exec (e.1 f) s = tileTransfer e.2 f s := by
  simp only [List.forall_mem_cons]
  exact ⟨fun _ _ => rfl, fun _ _ => rfl, nofun⟩

/-- Settles O31: `tileTransfer_starts` for the issue, `moveRow_last` for the last tile, `discardsPage` for a page at its home. -/
theorem tileTransfers : Obligations.TileTransfers := by
  unfold Obligations.TileTransfers
  refine ⟨?issue, ?tile, ?row, ?discard, ?home⟩
  case issue =>
    rintro e he f s q offs hq hres rfl
    simp only [exec_transfer e he]
    refine ⟨fun hcfg hcap ha _ ht hroom => ?_, fun h hcfg => tileTransfer_unconfigured h hq hcfg,
      fun h hcfg hcap => tileTransfer_overlong h hq hcfg hcap, fun h hcfg hcap hsb ha hw => tileTransfer_scratch h hq hcfg hcap hres hsb ha hw⟩
    exact tileTransfer_clause hq (tileTransfer_starts hq hres hcfg hcap ha ht hroom)
  case tile =>
    intro r off s x q hxs hload hoffs hlast hq hx _ hres hseq _ _ _ hinv hset hmeets hread hcheck hinj hr
    exact tileTransferTile_clause hxs hload hoffs hlast hq hx hres hseq hinv hset hmeets hread hcheck hinj hr
  case row =>
    intro f s l hq hp hv hh
    refine ⟨fun hmig hmeets => ?_, ?_⟩
    · obtain ⟨t, hexec, hvault, hrest⟩ := ract_opens hq hp hv hh hmig hmeets
      refine ⟨t, hexec, ?_, fun k hk => ?_, hrest⟩
      · rw [hvault, Vault.mem_activate]
        exact .inl rfl
      · rw [hvault, Vault.mem_activate] at hk
        exact hk.imp_right And.left
    · obtain ⟨t, hexec, hvault, hrest⟩ := rpre_closes hq hp hv hh
      refine ⟨t, hexec, ?_, fun k hk => ?_, hrest⟩
      · simp [hvault]
      · simp [hvault, hk]
  case discard =>
    intro f s hq
    exact ⟨fun ls hsb ha hp => discard_issues hq hsb ha hp, fun h hsb => discard_outside h hq hsb⟩
  case home =>
    intro s n h o l st hinv hmsgs hfree hset hruns hv hr hdom ho _ hdis
    exact discardAtHome_clause hinv hr hmsgs hfree hset hruns hv hdom (Nat.lt_of_lt_of_le (by omega) ho) hdis

end Sys2Proof.Machine
end

section
/-! Every step keeps the canonical form of memory (R85, R94): a function of the model changes memory through `State.poke`, `State.wipe`
and the few that write cells themselves, and each lemma says that one function keeps the form if those that it calls do. The lemmas
follow the model's order and are named after its functions: `Inv.f` where `f` returns a state, `SomeInv.f` and `OkInv.f` where the
state is part of an answer, `KeepsInv.f` for a meaning, `NextInv.f` for a transition. -/

namespace Sys2Proof

open Machine

variable {α β : Type} {s t : State}

/-- Every state that an optional answer carries keeps the canonical form of memory. -/
def SomeInv (p : α → State) (o : Option α) : Prop := ∀ x, o = some x → Inv (p x)

/-- The same for an answer that can be an error. -/
def OkInv {ε : Type} (p : α → State) (r : Except ε α) : Prop := ∀ x, r = .ok x → Inv (p x)

/-- The state that a meaning leaves, wherever it stops. -/
def leaves : EStateM.Result Stop State α → State
  | .ok _ t => t
  | .error _ t => t

/-- A meaning keeps the canonical form of memory. -/
def KeepsInv (m : M α) : Prop := ∀ s, Inv s → Inv (leaves (m s))

/-- The next state, where there is one, keeps the canonical form of memory. -/
def NextInv (r : Result) : Prop := ∀ t, r = .next t → Inv t

/-! ### States -/

theorem Inv.poke {l : Loc} {n v : Nat} (h : Inv s) : Inv (s.poke l n v) := State.wf_poke h l n v

theorem Inv.wipe {l : Loc} {n : Nat} (h : Inv s) : Inv (s.wipe l n) := State.wf_wipe h l n

/-- A state whose memory is that of one in canonical form. -/
theorem Inv.of_wf (h : Memory.wf t.mem = true) : Inv t := h

theorem Inv.ite {c : Prop} [Decidable c] (hs : Inv s) (ht : Inv t) : Inv (if c then s else t) := by
  split
  · exact hs
  · exact ht

theorem Inv.foldl {f : State → β → State} {l : List β} (hs : Inv s) (hf : ∀ u x, Inv u → Inv (f u x)) : Inv (l.foldl f s) := by
  induction l generalizing s with
  | nil => exact hs
  | cons x l ih => exact ih (hf s x hs)

theorem Inv.getD {o : Option State} (ho : SomeInv id o) (hs : Inv s) : Inv (o.getD s) := by
  cases o with
  | none => exact hs
  | some t => exact ho t rfl

/-! ### Answers that carry a state -/

theorem SomeInv.none {p : α → State} : SomeInv p none := nofun

theorem SomeInv.some {p : α → State} {x : α} (h : Inv (p x)) : SomeInv p (some x) := fun _ e => Option.some.inj e ▸ h

theorem SomeInv.ite {p : α → State} {c : Prop} [Decidable c] {x y : Option α} (hx : SomeInv p x) (hy : SomeInv p y) :
    SomeInv p (if c then x else y) := by
  split
  · exact hx
  · exact hy

theorem OkInv.error {ε : Type} {p : α → State} {e : ε} : OkInv p (.error e) := nofun

theorem OkInv.ok {ε : Type} {p : α → State} {x : α} (h : Inv (p x)) : OkInv p (Except.ok (ε := ε) x) :=
  fun _ e => Except.ok.inj e ▸ h

theorem OkInv.ite {ε : Type} {p : α → State} {c : Prop} [Decidable c] {x y : Except ε α} (hx : OkInv p x) (hy : OkInv p y) :
    OkInv p (if c then x else y) := by
  split
  · exact hx
  · exact hy

/-! ### Pairs with a state -/

theorem SomeInv.fst {x : State} {b : β} (h : Inv x) : SomeInv Prod.fst (Option.some (x, b)) := .some h

theorem SomeInv.snd {a : α} {x : State} (h : Inv x) : SomeInv Prod.snd (Option.some (a, x)) := .some h

theorem OkInv.fst {ε : Type} {x : State} {b : β} (h : Inv x) : OkInv Prod.fst (Except.ok (ε := ε) (x, b)) := .ok h

theorem OkInv.snd {ε : Type} {a : α} {x : State} (h : Inv x) : OkInv Prod.snd (Except.ok (ε := ε) (a, x)) := .ok h

theorem Inv.of_some {o : Option State} (e : o = some t) (h : SomeInv id o) : Inv t := h t e

theorem Inv.of_some_snd {o : Option (α × State)} {a : α} (e : o = some (a, t)) (h : SomeInv Prod.snd o) : Inv t := h _ e

theorem Inv.of_ok_snd {ε : Type} {o : Except ε (α × State)} {a : α} (e : o = .ok (a, t)) (h : OkInv Prod.snd o) : Inv t := h _ e

theorem Inv.of_some_snd_snd_snd {β γ δ : Type} {o : Option (β × γ × δ × State)} {a : β} {b : γ} {c : δ}
    (e : o = some (a, b, c, t)) (h : SomeInv (fun x => x.2.2.2) o) : Inv t := h _ e

theorem Inv.of_ok_snd_snd {ε γ : Type} {o : Except ε (α × γ × State)} {a : α} {b : γ} (e : o = .ok (a, b, t))
    (h : OkInv (fun x => x.2.2) o) : Inv t := h _ e

theorem Inv.of_snd {x : α × State} {a : α} (e : x = (a, t)) (h : Inv x.2) : Inv t := by
  rw [e] at h
  exact h

theorem SomeInv.map {p : β → State} {f : α → β} {o : Option α} (h : SomeInv (fun x => p (f x)) o) : SomeInv p (o.map f) := by
  cases o with
  | none => exact .none
  | some a => exact .some (h a rfl)

/-! ### Meanings -/

theorem KeepsInv.pure {a : α} : KeepsInv (Pure.pure a : M α) := fun _ h => h

theorem KeepsInv.throw {e : Stop} : KeepsInv (MonadExcept.throw e : M α) := fun _ h => h

theorem KeepsInv.bind {m : M α} {k : α → M β} (hm : KeepsInv m) (hk : ∀ a, KeepsInv (k a)) : KeepsInv (m >>= k) := by
  intro s h
  have hs := hm s h
  show Inv (leaves (EStateM.bind m k s))
  unfold EStateM.bind
  split
  · rename_i a u e
    rw [e] at hs
    exact hk a u hs
  · rename_i e' u e
    rw [e] at hs
    exact hs

/-- The state read is one that the meaning has reached. -/
theorem KeepsInv.get {k : State → M α} (hk : ∀ s, Inv s → KeepsInv (k s)) : KeepsInv (MonadState.get >>= k) :=
  fun s h => hk s h s h

theorem KeepsInv.upd {f : State → State} (hf : ∀ s, Inv s → Inv (f s)) : KeepsInv (Machine.upd f) := hf

theorem KeepsInv.updTh {f : Thread → Thread} : KeepsInv (Machine.updTh f) := .upd fun _ h => h

theorem KeepsInv.set (h : Inv s) : KeepsInv (MonadStateOf.set s : M PUnit) := fun _ _ => h

theorem KeepsInv.raise {c : Cause} {v : Word} {k : BitVec 4} : KeepsInv (Machine.raise c v k : M α) := .throw

theorem KeepsInv.stall : KeepsInv (Machine.stall : M α) := .throw

theorem KeepsInv.illegal {i : Instr} : KeepsInv (Machine.illegal i : M α) := .throw

theorem KeepsInv.finish : KeepsInv (Machine.finish : M α) := .throw

/-- Nothing follows a stop. -/
theorem KeepsInv.stop {e : Stop} {k : α → M β} : KeepsInv (MonadExcept.throw e >>= k) :=
  fun _ h => h

theorem KeepsInv.ite {c : Prop} [Decidable c] {x y : M α} (hx : KeepsInv x) (hy : KeepsInv y) : KeepsInv (if c then x else y) := by
  split
  · exact hx
  · exact hy

/-- A meaning that runs on one of two branches, before what both go on to. -/
theorem KeepsInv.when {c : Prop} [Decidable c] {m : M Unit} {k : Unit → M α} (hm : KeepsInv m) (hk : KeepsInv (k ())) :
    KeepsInv (if c then m >>= k else k ()) := .ite (.bind hm fun _ => hk) hk

theorem KeepsInv.tryCatch {m : M α} {k : Stop → M α} (hm : KeepsInv m) (hk : ∀ e, KeepsInv (k e)) :
    KeepsInv (MonadExcept.tryCatch m k) := by
  intro s h
  have hs := hm s h
  show Inv (leaves (EStateM.tryCatch m k s))
  unfold EStateM.tryCatch
  split
  · rename_i e u eq
    rw [eq] at hs
    exact hk e u hs
  · exact hs

/-- A step of a meaning that ends without a stop leaves such a state. -/
theorem Inv.of_run {m : M α} {a : α} (e : m s = .ok a t) (hm : KeepsInv m) (h : Inv s) : Inv t := by
  have hs := hm s h
  rw [e] at hs
  exact hs

theorem Inv.of_stop {m : M α} {x : Stop} (e : m s = .error x t) (hm : KeepsInv m) (h : Inv s) : Inv t := by
  have hs := hm s h
  rw [e] at hs
  exact hs

theorem KeepsInv.thread : KeepsInv Machine.thread := .get fun _ _ => .pure

theorem KeepsInv.myCore : KeepsInv Machine.myCore := .get fun _ _ => .pure

/-! ### Results -/

theorem NextInv.next (h : Inv s) : NextInv (.next s) := fun _ e => Host.Outcome.next.inj e ▸ h

theorem NextInv.fault {f : Fault} : NextInv (.fault f) := nofun

theorem NextInv.refused {r : Refusal} : NextInv (.refused r) := nofun

theorem NextInv.ite {c : Prop} [Decidable c] {x y : Result} (hx : NextInv x) (hy : NextInv y) : NextInv (if c then x else y) := by
  split
  · exact hx
  · exact hy

/-! ### Operations on the state -/

theorem Inv.modCore {r : Nat} {f : Core → Core} (h : Inv s) : Inv (s.modCore r f) := h

theorem Inv.setThAt {t : Turn} {th : Thread} (h : Inv s) : Inv (s.setThAt t th) := h

theorem Inv.modThAt {t : Turn} {f : Thread → Thread} (h : Inv s) : Inv (s.modThAt t f) := h

theorem Inv.modTh {f : Thread → Thread} (h : Inv s) : Inv (s.modTh f) := h

theorem Inv.modMe {f : Core → Core} (h : Inv s) : Inv (s.modMe f) := h

theorem Inv.setBand {b : Nat} {x : Band} (h : Inv s) : Inv (s.setBand b x) := h

theorem Inv.modBand {b : Nat} {f : Band → Band} (h : Inv s) : Inv (s.modBand b f) := h

theorem Inv.setQueue {q : Nat} {x : WorkQueue} (h : Inv s) : Inv (s.setQueue q x) := h

theorem Inv.setEngine {e : Nat} {x : Engine} (h : Inv s) : Inv (s.setEngine e x) := h

theorem Inv.wakeBand {b : Nat} (h : Inv s) : Inv (s.wakeBand b) := .ite h h

theorem Inv.raiseIrq {p bitNo : Nat} (h : Inv s) : Inv (s.raiseIrq p bitNo) := by
  unfold State.raiseIrq
  split
  · exact .modThAt (.wakeBand h)
  · exact h

theorem Inv.raiseIrqAt {rank bitNo : Nat} (h : Inv s) : Inv (s.raiseIrqAt rank bitNo) := by
  unfold State.raiseIrqAt
  split
  · exact .raiseIrq h
  · exact h

theorem Inv.logError {rank kind fl : Nat} {addr : Word} {detail : Nat} (h : Inv s) : Inv (s.logError rank kind fl addr detail) :=
  .raiseIrqAt h

theorem Inv.sent {rank : Nat} {dom : Word} (h : Inv s) : Inv (s.sent rank dom) := h

theorem Inv.received {rank : Nat} {dom : Word} (h : Inv s) : Inv (s.received rank dom) := h

theorem Inv.hold {home frame : Nat} (h : Inv s) : Inv (s.hold home frame) := h

theorem Inv.unhold {home frame : Nat} (h : Inv s) : Inv (s.unhold home frame) := h

theorem Inv.endCommand {c : Cmd} {w : Word} (h : Inv s) : Inv (s.endCommand c w) := by
  unfold State.endCommand
  refine .of_wf ?_
  dsimp only
  exact Inv.foldl h fun _ _ hs => .unhold hs

theorem Inv.retireActive {e : Nat} {w : Word} (h : Inv s) : Inv (s.retireActive e w) := by
  unfold State.retireActive
  dsimp only
  split
  · exact .setEngine (.endCommand h)
  · exact h

theorem Inv.replyStatus {rq : Rpc} {w : Word} {recov : Bool} (h : Inv s) : Inv (s.replyStatus rq w recov) := by
  unfold State.replyStatus
  split
  · exact .retireActive h
  · exact h

theorem Inv.enterAt {w : Turn} {c : Cause} {tval : Word} {kind : BitVec 4} {out : Bool} {epc : Ptr} {lkdone : BitVec 15} (h : Inv s) :
    Inv (s.enterAt w c tval kind out epc lkdone) := .ite h (.ite h h)

theorem Inv.wakeAgent {rank : Nat} (h : Inv s) : Inv (s.wakeAgent rank) := h

theorem Inv.endHandler {rank : Nat} (h : Inv s) : Inv (s.endHandler rank) := h

theorem Inv.agentTrap {rank : Nat} {c : Cause} (h : Inv s) : Inv (s.agentTrap rank c) := by
  unfold State.agentTrap
  dsimp only
  split
  · exact .endHandler (.ite (.logError h) (.replyStatus (.logError h)))
  · exact h

theorem Inv.takeTrap {t : Trap} (h : Inv s) : Inv (s.takeTrap t) := by
  refine .ite (.agentTrap h) ?_
  split <;> exact .enterAt h

theorem NextInv.simple {f : Thread → Thread} (h : Inv s) : NextInv (simple f s) := .next h

theorem KeepsInv.fpWrite {fl : Flags} {write : Thread → Thread} : KeepsInv (fpWrite fl write) :=
  .bind .thread fun _ => .ite .throw .updTh

theorem Inv.completeOut {w : Turn} (h : Inv s) : Inv (s.completeOut w) := by
  unfold State.completeOut
  dsimp only
  split
  · exact h
  · refine .ite ?_ h
    split
    · exact h
    · split
      · exact .ite (.agentTrap h) (.enterAt h)
      · exact h

/-! ### Integer instructions -/

theorem NextInv.aluOp {g : Word → Word → Word} {f : FmtA} (h : Inv s) : NextInv (aluOp g f s) := .simple h

theorem NextInv.divideOp {g : Word → Word → Word} {f : FmtA} (h : Inv s) : NextInv (divideOp g f s) := .simple h

theorem NextInv.immOp {g : Word → Word → Word} {f : FmtI} (h : Inv s) : NextInv (immOp g f s) := .simple h

theorem NextInv.shiftOp {g : Word → Word → Word} {f : FmtSh} (h : Inv s) : NextInv (shiftOp g f s) := .simple h

theorem NextInv.execClz {f : FmtA} (h : Inv s) : NextInv (execClz f s) := .aluOp h

theorem NextInv.execCtz {f : FmtA} (h : Inv s) : NextInv (execCtz f s) := .aluOp h

theorem NextInv.execPopc {f : FmtA} (h : Inv s) : NextInv (execPopc f s) := .aluOp h

theorem NextInv.execLui {f : FmtU} (h : Inv s) : NextInv (execLui f s) := .simple h

theorem NextInv.execLsi {f : FmtU} (h : Inv s) : NextInv (execLsi f s) := .simple h

/-! ### Vaults, and accesses at the home -/

theorem Inv.journal {b : Behalf} {home row : Nat} (h : Inv s) : Inv (s.journal b home row) := by
  unfold State.journal
  split
  · exact h
  · exact .ite h (.ite h h)

theorem Inv.unzero {home frame : Nat} (h : Inv s) : Inv (s.unzero home frame) := by
  unfold State.unzero
  split
  · exact h
  · exact .modCore (.ite (.poke h) h)

theorem Inv.noteResolve {home off n v : Nat} (h : Inv s) : Inv (s.noteResolve home off n v) := by
  unfold State.noteResolve
  split
  · exact h
  · split <;> exact h

theorem Inv.sealTier {key n : Nat} (h : Inv s) : Inv (s.sealTier key n) := h

theorem Inv.zeroFill {l : Loc} {n : Nat} (h : Inv s) : Inv (s.zeroFill l n) := .of_wf (Inv.wipe h)

theorem Inv.logUnreadable {rank : Nat} {l : Loc} {n inj : Nat} (h : Inv s) : Inv (s.logUnreadable rank l n inj) := by
  unfold State.logUnreadable
  split <;> exact .logError h

theorem Inv.corrected {l : Loc} {n : Nat} (h : Inv s) : Inv (s.corrected l n) := by
  unfold State.corrected
  split
  · exact .ite h h
  · exact .ite h h
  · exact h

theorem Inv.wake {l : Loc} {n : Nat} (h : Inv s) : Inv (s.wake l n) := .ite h h

theorem Inv.store {b : Behalf} {l : Loc} {n v : Nat} (h : Inv s) : Inv (s.store b l n v) := by
  unfold State.store
  split
  · exact .wake (.noteResolve (.poke (.modCore (.unzero (.journal h)))))
  · exact .wake (.poke h)
  · exact .wake (.sealTier (.poke h))
  · exact .wake (.poke h)

theorem Inv.doorbell {rank : Nat} {n : Fin 5} {v : Word} (h : Inv s) : Inv (s.doorbell rank n v) := .ite (.modThAt (.wakeBand h)) h

theorem Inv.controlWrite {rank o : Nat} {v : Word} (h : Inv s) : Inv (s.controlWrite rank o v) :=
  .wake (.ite h (.ite (.doorbell h) h))

theorem Inv.write {b : Behalf} {l : Loc} {n v : Nat} (h : Inv s) : Inv (s.write b l n v) := .ite (.controlWrite h) (.ite h (.store h))

theorem Inv.raiseNv {w : Turn} {nv : Bool} (h : Inv s) : Inv (s.raiseNv w nv) := .ite h h

theorem Inv.applyRed {rank : Nat} {e : RedEntry} (h : Inv s) : Inv (s.applyRed rank e) :=
  .ite (.raiseNv (.foldl h fun _ _ hs => .raiseNv hs)) (.raiseNv (.write (.foldl h fun _ _ hs => .raiseNv hs)))

theorem Inv.flushRed {rank : Nat} {p : RedEntry → Bool} (h : Inv s) : Inv (s.flushRed rank p) := .foldl h fun _ _ hs => .applyRed hs

theorem Inv.recall {l : Loc} {n : Nat} (h : Inv s) : Inv (s.recall l n) := .foldl h fun _ _ hs => .flushRed hs

theorem Inv.noteWaiting {l : Loc} (h : Inv s) : Inv (s.noteWaiting l) := by
  unfold State.noteWaiting
  dsimp only
  split
  · exact .ite (.modCore (.ite h h)) (.ite h h)
  · exact .ite h h

theorem Inv.replyWith {rq : Rpc} {w : Word} {n data : Nat} {recov : Bool} (h : Inv s) : Inv (s.replyWith rq w n data recov) :=
  .replyStatus (.ite h (.store (.recall h)))

theorem Inv.reply {rq : Rpc} {cause hcode rbytes hval data : Nat} {recov : Bool} (h : Inv s) :
    Inv (s.reply rq cause hcode rbytes hval data recov) := .replyWith h

theorem Inv.fenceFlush {rank scope : Nat} (h : Inv s) : Inv (s.fenceFlush rank scope) := .flushRed h

theorem Inv.noteHeld {w : Turn} {pc : Ptr} {l : Loc} (h : Inv s) : Inv (s.noteHeld w pc l) := .ite h (.ite h h)

theorem Inv.unheld {w : Turn} (h : Inv s) : Inv (s.unheld w) := h

/-! ### Context frames -/

theorem Inv.askPreempt {rank prio : Nat} (h : Inv s) : Inv (s.askPreempt rank prio) := by
  refine .ite h ?_
  dsimp only
  split
  · exact h
  · refine .ite ?_ h
    split <;> exact h

theorem Inv.storeAll {rank base : Nat} {l : List (Nat × Nat × Nat)} (h : Inv s) : Inv (s.storeAll rank base l) :=
  .foldl h fun _ _ hs => .store hs

theorem Inv.storeRecords {rank base : Nat} {l : List Machine.Task} (h : Inv s) : Inv (s.storeRecords rank base l) := by
  induction l generalizing s base with
  | nil => exact h
  | cons k l ih =>
    unfold State.storeRecords
    have hrecord := Inv.storeAll (rank := rank) (base := base) (l := k.recordWrites) h
    exact ih hrecord

theorem Inv.spill {rank : Nat} (h : Inv s) : Inv (s.spill rank) := .storeRecords h

theorem Inv.setReady {rank : Nat} {l : List Machine.Task} (h : Inv s) : Inv (s.setReady rank l) := Inv.spill (Inv.modCore h)

theorem Inv.makeReady {rank : Nat} {k : Machine.Task} (h : Inv s) : Inv (s.makeReady rank k) := .askPreempt (.setReady h)

theorem Inv.copyRows {rank src dst : Nat} {rows : List Nat} (h : Inv s) : Inv (s.copyRows rank src dst rows) :=
  .foldl h fun _ _ hs => .store (.recall hs)

theorem SomeInv.bindFrame {rank : Nat} {id : Word} (h : Inv s) : SomeInv Prod.snd (s.bindFrame rank id) := by
  unfold State.bindFrame
  dsimp only
  split
  · exact .snd h
  · split
    · exact .none
    · exact .snd (.storeAll h)

theorem Inv.unbindFrame {rank : Nat} {id : Word} (h : Inv s) : Inv (s.unbindFrame rank id) := by
  unfold State.unbindFrame
  split
  · exact .storeAll h
  · exact h

theorem Inv.freeMitten {rank : Nat} {id : Word} (h : Inv s) : Inv (s.freeMitten rank id) := .foldl h fun _ _ hs => .wipe hs

theorem SomeInv.leaveFull {w : Turn} (h : Inv s) : SomeInv Prod.snd (s.leaveFull w) := by
  unfold State.leaveFull
  dsimp only
  split
  · exact .none
  · split
    · exact .none
    · rename_i e
      exact .snd (.setThAt (.storeAll (.ite (.copyRows (.storeAll (.of_some_snd e (.bindFrame h)))) (.storeAll (.of_some_snd e
        (.bindFrame h))))))

theorem SomeInv.leavePark {w : Turn} {tok : Reg} {live : BitVec 32} {mig : Bool} (h : Inv s) :
    SomeInv Prod.snd (s.leavePark w tok live mig) := by
  unfold State.leavePark
  dsimp only
  split
  · exact .none
  · refine .ite ?_ (.snd h)
    split
    · exact .none
    · rename_i e
      exact .snd (.setThAt (.storeAll (.storeAll (.of_some_snd e (.bindFrame h)))))

theorem Inv.restoreFrame {w : Turn} {base : Nat} (h : Inv s) : Inv (s.restoreFrame w base) := .copyRows h

theorem Inv.placeTask {w : Turn} {k : Machine.Task} (h : Inv s) : Inv (s.placeTask w k) := by
  refine .ite ?_ h
  split
  · exact .modThAt (.restoreFrame h)
  · exact h

theorem SomeInv.appendFault {p kind reason : Nat} {ga : Ptr} {c : Cause} {x : FaultFrom} (h : Inv s) :
    SomeInv Prod.snd (s.appendFault p ga c kind reason x) := by
  unfold State.appendFault
  split
  · exact .none
  · dsimp only
    split
    · exact .none
    · refine .snd (.raiseIrq (.of_wf ?_))
      dsimp only
      exact Inv.storeAll h

theorem Inv.parkFault {ga : Ptr} {c : Cause} {kind reason : Nat} (h : Inv s) : Inv (s.parkFault ga c kind reason) := by
  unfold State.parkFault
  dsimp only
  split
  · exact .modTh h
  · split
    · split
      · rename_i e
        exact .endHandler (.modMe (.of_some_snd e (.appendFault h)))
      · exact .modTh h
    · split
      · exact .modTh h
      · rename_i e
        have ht := Inv.of_some_snd e (.appendFault h)
        split
        · rename_i e
          exact .modCore (.of_some_snd e (.leaveFull ht))
        · exact .modThAt ht

theorem NextInv.stopResult {e : Stop} (hs : Inv s) (ht : Inv t) : NextInv (Machine.stopResult s t e) := by
  cases e with
  | trap x => exact .ite (.next (.takeTrap ht)) (.next (.modTh hs))
  | stall => exact .next (.modTh ht)
  | done => exact .next ht
  | page ga c kind reason => exact .ite (.next (.parkFault ht)) (.next (.modTh hs))
  | fault f => exact .fault

theorem NextInv.run {m : M Unit} (hm : KeepsInv m) (h : Inv s) : NextInv (Machine.run m s) := by
  have hs := hm s h
  unfold Machine.run
  split
  · rename_i e
    rw [e] at hs
    exact .next hs
  · rename_i e
    rw [e] at hs
    exact .stopResult h hs

theorem Inv.orLeaf {home off b : Nat} (h : Inv s) : Inv (s.orLeaf home off b) := .poke h

theorem Inv.mapTlb {rank : Nat} {agent : Bool} {f : List TlbEntry → List TlbEntry} (h : Inv s) : Inv (s.mapTlb rank agent f) := h

theorem Inv.install {rank : Nat} {agent : Bool} {t : TlbEntry} (h : Inv s) : Inv (s.install rank agent t) := h

theorem Inv.promote {rank : Nat} {agent : Bool} {t : TlbEntry} (h : Inv s) : Inv (s.promote rank agent t) := .ite h h

theorem Inv.fill {rank : Nat} {agent : Bool} {vpn asid : Nat} {x : Leaf} (h : Inv s) : Inv (s.fill rank agent vpn asid x) :=
  .modCore (.install (.ite h (.orLeaf h)))

theorem Inv.setDirty {rank : Nat} {agent : Bool} {t : TlbEntry} (h : Inv s) : Inv (s.setDirty rank agent t) := .mapTlb (.orLeaf h)

theorem KeepsInv.translate {ga : Ptr} {acc : Access} : KeepsInv (Machine.translate ga acc) := by
  refine .get fun _ _ => .ite .stop ?_
  split
  · exact .stop
  · exact .bind (.upd fun _ hu => .noteWaiting hu) fun _ => .stop
  · refine .ite .stop ?_
    dsimp only
    split
    · refine .bind (.upd fun _ hu => .fill hu) fun _ => .bind .pure fun _ => .ite (.ite (.bind
        (.upd fun _ hu => .noteWaiting hu) fun _ => .stop) (.bind (.upd fun _ hu => .setDirty hu) fun _ => .get fun _ _ => ?_))
        (.get fun _ _ => ?_)
      all_goals
        split
        · exact .pure
        · exact .bind (.upd fun _ hv => hv) fun _ => .pure
    · refine .bind (.upd fun _ hu => .promote hu) fun _ => .bind .pure fun _ => .ite (.ite (.bind
        (.upd fun _ hu => .noteWaiting hu) fun _ => .stop) (.bind (.upd fun _ hu => .setDirty hu) fun _ => .get fun _ _ => ?_))
        (.get fun _ _ => ?_)
      all_goals
        split
        · exact .pure
        · exact .bind (.upd fun _ hv => hv) fun _ => .pure

theorem KeepsInv.precheck {ga : Ptr} {n align : Nat} {kind : BitVec 4} : KeepsInv (precheck ga n align kind) := by
  refine .get fun _ _ => ?_
  split
  · exact .raise
  · exact .ite .raise (.ite .raise .pure)

theorem KeepsInv.resolve {ga : Ptr} {n align : Nat} {acc : Access} : KeepsInv (resolve ga n align acc) :=
  .bind .precheck fun _ => .ite .translate (.get fun _ _ => .pure)

theorem KeepsInv.admitPiece {ga : Ptr} {l : Loc} {kind : BitVec 4} {read : Bool} : KeepsInv (admitPiece ga l kind read) := by
  refine .get fun _ _ => .ite .stop (.ite (.bind (.upd fun _ hu => .noteHeld hu) fun _ => .stop) (.ite .stop (.ite .stop (.ite
    (.bind (.upd fun _ hu => hu) fun _ => .stop) ?_))))
  split
  · exact .pure
  · exact .bind (.upd fun _ hu => .noteWaiting hu) fun _ => .stall
  · exact .ite .raise .stall
  · exact .ite .raise .stall

theorem Inv.arrived {l : Loc} {n : Nat} (h : Inv s) : Inv (s.arrived l n) := .recall (.ite (.ite h h) (.unheld (.ite h h)))

theorem KeepsInv.arrive {ga : Ptr} {l : Loc} {n : Nat} {kind : BitVec 4} {read : Bool} : KeepsInv (arrive ga l n kind read) :=
  .bind .admitPiece fun _ => .upd fun _ hs => .arrived hs

/-! ### Accesses by a thread -/

theorem KeepsInv.uncorrectable {tval : Word} {kind : BitVec 4} {recov : Bool} : KeepsInv (uncorrectable tval kind recov : M α) :=
  .get fun _ _ => .ite (.bind (.upd fun _ hu => hu) fun _ => .stall) (.when (.upd fun _ hu => .logError hu) .raise)

theorem KeepsInv.injected {tgt : Nat} : KeepsInv (injected tgt) := .bind .thread fun _ => .bind .updTh fun _ => .pure

theorem KeepsInv.readNow {ga : Ptr} {l : Loc} {n : Nat} {kind : BitVec 4} : KeepsInv (readNow ga l n kind) :=
  .bind (.upd fun _ hs => .arrived hs) fun _ => .get fun _ _ => .ite (.bind .injected fun _ => .ite (.bind .injected fun _ =>
      .get fun _ _ => .ite (.get fun _ _ => .bind (.upd fun _ hw => .logUnreadable hw) fun _ => .bind .uncorrectable fun _ =>
      .when (.upd fun _ hw => hw) (.bind (.upd fun _ hw => .corrected hw) fun _ => .get fun _ _ => .pure)) (.when
      (.upd fun _ hv => hv) (.bind (.upd fun _ hv => .corrected hv) fun _ => .get fun _ _ => .pure))) (.bind .pure fun _ =>
      .get fun _ _ => .ite (.get fun _ _ => .bind (.upd fun _ hw => .logUnreadable hw) fun _ => .bind .uncorrectable fun _ =>
      .when (.upd fun _ hw => hw) (.bind (.upd fun _ hw => .corrected hw) fun _ => .get fun _ _ => .pure)) (.when
      (.upd fun _ hv => hv) (.bind (.upd fun _ hv => .corrected hv) fun _ => .get fun _ _ => .pure)))) (.bind .pure fun _ => .ite
      (.bind .injected fun _ => .get fun _ _ => .ite (.get fun _ _ => .bind (.upd fun _ hw => .logUnreadable hw) fun _ =>
      .bind .uncorrectable fun _ => .when (.upd fun _ hw => hw) (.bind (.upd fun _ hw => .corrected hw) fun _ => .get fun _ _ =>
      .pure)) (.when (.upd fun _ hv => hv) (.bind (.upd fun _ hv => .corrected hv) fun _ => .get fun _ _ => .pure)))
      (.bind .pure fun _ => .get fun _ _ => .ite (.get fun _ _ => .bind (.upd fun _ hw => .logUnreadable hw) fun _ =>
      .bind .uncorrectable fun _ => .when (.upd fun _ hw => hw) (.bind (.upd fun _ hw => .corrected hw) fun _ => .get fun _ _ =>
      .pure)) (.when (.upd fun _ hv => hv) (.bind (.upd fun _ hv => .corrected hv) fun _ => .get fun _ _ => .pure))))

theorem KeepsInv.readAt {ga : Ptr} {l : Loc} {n : Nat} {kind : BitVec 4} : KeepsInv (readAt ga l n kind) :=
  .bind .admitPiece fun _ => .readNow

theorem KeepsInv.admitWrite {ga : Ptr} {l : Loc} {n : Nat} {kind : BitVec 4} : KeepsInv (admitWrite ga l n kind) :=
  .get fun _ _ => .ite .stop (.bind .admitPiece fun _ => .get fun _ _ => .ite .raise .pure)

theorem KeepsInv.writeNow {ga : Ptr} {l : Loc} {n v : Nat} : KeepsInv (writeNow ga l n v) :=
  .bind (.upd fun _ hs => .arrived hs) fun _ => .bind (.upd fun _ hs => .write hs) fun _ => .updTh

theorem KeepsInv.writeAt {ga : Ptr} {l : Loc} {n v : Nat} {kind : BitVec 4} : KeepsInv (writeAt ga l n v kind) :=
  .bind .admitWrite fun _ => .writeNow

theorem KeepsInv.loadData {ga : Ptr} {n align : Nat} {acc : Access} : KeepsInv (loadData ga n align acc) := by
  refine .bind .resolve fun _ => ?_
  split
  · exact .bind .arrive fun _ => .get fun _ _ => .pure
  · exact .readAt

theorem KeepsInv.storeData {ga : Ptr} {n align v : Nat} {acc : Access} : KeepsInv (storeData ga n align v acc) :=
  .bind .resolve fun _ => .writeAt

theorem NextInv.branch {cond : Word → Word → Bool} {f : FmtB} (h : Inv s) : NextInv (branch cond f s) := .ite (.next h) (.next h)

theorem NextInv.execBge {f : FmtB} (h : Inv s) : NextInv (execBge f s) := .branch h

theorem NextInv.execBgeu {f : FmtB} (h : Inv s) : NextInv (execBgeu f s) := .branch h

theorem NextInv.ptrOp {g : Ptr → Ptr → Ptr} {f : FmtA} (h : Inv s) : NextInv (ptrOp g f s) := .simple h

theorem NextInv.execPmk {f : FmtA} (h : Inv s) : NextInv (execPmk f s) := .ptrOp h

theorem NextInv.execPadd {f : FmtA} (h : Inv s) : NextInv (execPadd f s) := .ptrOp h

theorem NextInv.execPtag {f : FmtA} (h : Inv s) : NextInv (execPtag f s) := .ptrOp h

theorem NextInv.execPclr {f : FmtA} (h : Inv s) : NextInv (execPclr f s) := .ptrOp h

theorem NextInv.execPrank {f : FmtA} (h : Inv s) : NextInv (execPrank f s) := .ptrOp h

theorem NextInv.execPchk {f : FmtA} (h : Inv s) : NextInv (execPchk f s) := .ptrOp h

theorem NextInv.execPaddi {f : FmtI} (h : Inv s) : NextInv (execPaddi f s) := .simple h

/-! ### Loads, stores and atomics -/

theorem NextInv.execLd {f : FmtM} (h : Inv s) : NextInv (execLd f s) :=
  .run (.ite .stop (.bind .thread fun _ => .bind .loadData fun _ => .updTh)) h

theorem NextInv.execSt {f : FmtM} (h : Inv s) : NextInv (execSt f s) :=
  .run (.ite .stop (.bind .thread fun _ => .bind .storeData fun _ => .updTh)) h

theorem NextInv.amo {op : AmoOp} {f : FmtAm} (h : Inv s) : NextInv (amo op f s) := by
  refine .run (.ite .stop (.bind .thread fun _ => .bind .resolve fun _ => .bind .admitWrite fun _ => .when
    (.upd fun _ hs => .fenceFlush hs) (.ite (.bind (.upd fun _ hs => .arrived hs) fun _ => .get fun _ _ =>
    .bind .pure fun _ => ?_) (.bind .readNow fun _ => ?_)))) h
  · dsimp only
    split
    · exact .bind (.upd fun _ hu => .write hu) fun _ => .bind .updTh fun _ => .updTh
    · exact .updTh
  · dsimp only
    split
    · exact .bind (.upd fun _ hs => .write hs) fun _ => .bind .updTh fun _ => .updTh
    · exact .updTh

theorem NextInv.execAmoSwap {f : FmtAm} (h : Inv s) : NextInv (execAmoSwap f s) := .amo h

theorem NextInv.execAmoAdd {f : FmtAm} (h : Inv s) : NextInv (execAmoAdd f s) := .amo h

theorem NextInv.execAmoAnd {f : FmtAm} (h : Inv s) : NextInv (execAmoAnd f s) := .amo h

theorem NextInv.execAmoOr {f : FmtAm} (h : Inv s) : NextInv (execAmoOr f s) := .amo h

theorem NextInv.execAmoXor {f : FmtAm} (h : Inv s) : NextInv (execAmoXor f s) := .amo h

theorem NextInv.execAmoSmin {f : FmtAm} (h : Inv s) : NextInv (execAmoSmin f s) := .amo h

theorem NextInv.execAmoSmax {f : FmtAm} (h : Inv s) : NextInv (execAmoSmax f s) := .amo h

theorem NextInv.execAmoUmin {f : FmtAm} (h : Inv s) : NextInv (execAmoUmin f s) := .amo h

theorem NextInv.execAmoUmax {f : FmtAm} (h : Inv s) : NextInv (execAmoUmax f s) := .amo h

theorem NextInv.execAmoFadd {f : FmtAm} (h : Inv s) : NextInv (execAmoFadd f s) := .amo h

theorem NextInv.execAmoFmin {f : FmtAm} (h : Inv s) : NextInv (execAmoFmin f s) := .amo h

theorem NextInv.execAmoFmax {f : FmtAm} (h : Inv s) : NextInv (execAmoFmax f s) := .amo h

theorem Inv.allocRed {rank : Nat} {e : RedEntry} (h : Inv s) : Inv (s.allocRed rank e) := by
  refine .modCore (.ite h ?_)
  split
  · exact h
  · exact .flushRed h

theorem Inv.bufferRed {rank : Nat} {e : RedEntry} (h : Inv s) : Inv (s.bufferRed rank e) :=
  .ite (.modCore (.flushRed h)) (.allocRed (.flushRed h))

theorem NextInv.red {op : Nat} {i : Instr} {f : FmtAm} (h : Inv s) : NextInv (red op i f s) :=
  .run (.ite .stop (.get fun _ _ => .ite .stop (.bind .resolve fun _ => .ite (.bind (.upd fun _ hu => .applyRed hu) fun _ =>
      .updTh) (.bind (.upd fun _ hu => .bufferRed hu) fun _ => .updTh)))) h

/-! ### Scalar floating point -/

theorem NextInv.fpArith {f : FmtF} {g : Fmt → Mode → Nat → Nat → Nat → Nat × Flags} (h : Inv s) : NextInv (fpArith f g s) :=
  .run (.bind .thread fun _ => .bind .fpWrite fun _ => .updTh) h

theorem NextInv.fpPlain {f : FmtF} {g : Fmt → Nat → Nat → Nat × Flags} (h : Inv s) : NextInv (fpPlain f g s) :=
  .run (.bind .thread fun _ => .bind .fpWrite fun _ => .updTh) h

theorem NextInv.execFadd {f : FmtF} (h : Inv s) : NextInv (execFadd f s) := .fpArith h

theorem NextInv.execFsub {f : FmtF} (h : Inv s) : NextInv (execFsub f s) := .fpArith h

theorem NextInv.execFmul {f : FmtF} (h : Inv s) : NextInv (execFmul f s) := .fpArith h

theorem NextInv.execFmadd {f : FmtF} (h : Inv s) : NextInv (execFmadd f s) := .fpArith h

theorem NextInv.execFmsub {f : FmtF} (h : Inv s) : NextInv (execFmsub f s) := .fpArith h

theorem NextInv.fpDivide {f : FmtF} {g : Fmt → Mode → Machine.Num → Machine.Num → Nat × Flags} (h : Inv s) :
    NextInv (fpDivide f g s) := .simple h

theorem NextInv.execFsqrt {f : FmtF} (h : Inv s) : NextInv (execFsqrt f s) := .fpDivide h

theorem NextInv.execFmin {f : FmtF} (h : Inv s) : NextInv (execFmin f s) := .fpPlain h

theorem NextInv.execFmax {f : FmtF} (h : Inv s) : NextInv (execFmax f s) := .fpPlain h

theorem NextInv.execFclass {f : FmtF} (h : Inv s) : NextInv (execFclass f s) := .fpPlain h

theorem NextInv.execFsgnj {f : FmtF} (h : Inv s) : NextInv (execFsgnj f s) := .fpPlain h

theorem NextInv.execFsgnjn {f : FmtF} (h : Inv s) : NextInv (execFsgnjn f s) := .fpPlain h

theorem KeepsInv.fpConvert {f : FmtF} {g : Mode → Nat → Nat × Flags} : KeepsInv (fpConvert f g) :=
  .bind .thread fun _ => .bind .fpWrite fun _ => .updTh

theorem NextInv.execFcvtf {f : FmtF} (h : Inv s) : NextInv (execFcvtf f s) := .run (.ite .stop (.bind .thread fun _ => .fpConvert)) h

theorem NextInv.execFcvtfi {f : FmtF} (h : Inv s) : NextInv (execFcvtfi f s) :=
  .run (.ite .stop (.bind .thread fun _ => .bind .fpWrite fun _ => .updTh)) h

theorem NextInv.execFcvtif {f : FmtF} (h : Inv s) : NextInv (execFcvtif f s) :=
  .run (.ite .stop (.bind .thread fun _ => .fpConvert)) h

/-! ### Operands in memory -/

theorem KeepsInv.elementwise {f : FmtV} {c : MdClass} {g : VOp} : KeepsInv (elementwise f c g) :=
  .bind .thread fun _ => .bind .fpWrite fun _ => .updTh

theorem NextInv.vop {i : Instr} {f : FmtV} {ok : ElemType → Bool} {c : MdClass} {g : VOp} (h : Inv s) : NextInv (vop i f ok c g s) :=
  .run (.ite .stop .elementwise) h

theorem KeepsInv.checkPiece {w : Nat} {acc : Access} {p : Piece} : KeepsInv (checkPiece w acc p) := .resolve

theorem KeepsInv.checkPieces {w : Nat} {acc : Access} {l : List Piece} : KeepsInv (Machine.checkPieces w acc l) := by
  induction l with
  | nil => exact .pure
  | cons p l ih => exact .bind .checkPiece fun _ => .bind ih fun _ => .pure

theorem KeepsInv.admitReads {l : List (Piece × Loc)} : KeepsInv (Machine.admitReads l) := by
  induction l with
  | nil => exact .pure
  | cons p l ih => exact .bind .admitPiece fun _ => ih

theorem KeepsInv.readNows {l : List (Piece × Loc)} : KeepsInv (Machine.readNows l) := by
  induction l with
  | nil => exact .pure
  | cons p l ih =>
    exact .ite (.bind (.upd fun _ hs => .arrived hs) fun _ => .get fun _ _ => .bind .pure fun _ => .bind ih fun _ => .pure)
      (.bind .readNow fun _ => .bind ih fun _ => .pure)

theorem KeepsInv.readPieces {l : List (Piece × Loc)} : KeepsInv (readPieces l) := .bind .admitReads fun _ => .readNows

theorem KeepsInv.admitWrites {l : List (Piece × Loc)} : KeepsInv (Machine.admitWrites l) := by
  induction l with
  | nil => exact .pure
  | cons p l ih => exact .bind .admitWrite fun _ => ih

theorem KeepsInv.writeNows {img : Nat} {l : List (Piece × Loc)} : KeepsInv (Machine.writeNows img l) := by
  induction l with
  | nil => exact .pure
  | cons p l ih => exact .bind .writeNow fun _ => ih

theorem KeepsInv.writePieces {img : Nat} {l : List (Piece × Loc)} : KeepsInv (writePieces img l) :=
  .bind .admitWrites fun _ => .writeNows

/-! ### The tensor table and the queues of tiles -/

theorem KeepsInv.needAcc {i : Instr} {r : Reg} : KeepsInv (needAcc i r) := by
  unfold Machine.needAcc
  split
  · exact .pure
  · exact .illegal

theorem KeepsInv.scratchGa {ga : Ptr} {align n : Nat} {kind : BitVec 4} : KeepsInv (scratchGa ga align n kind) :=
  .ite .stop (.ite .stop (.ite .stop .pure))

theorem KeepsInv.checkTid {tid : Nat} : KeepsInv (checkTid tid) := .bind .thread fun _ => .ite .raise .pure

theorem KeepsInv.snapshot {tid : Nat} : KeepsInv (snapshot tid) :=
  .bind .checkTid fun _ => .bind .thread fun _ => .bind .loadData fun _ => .pure

theorem KeepsInv.validSnapshot {tid : Nat} : KeepsInv (validSnapshot tid) := .bind .snapshot fun _ => .ite .stop .pure

theorem KeepsInv.checkNoRange {tid : Nat} : KeepsInv (checkNoRange tid) := .bind .myCore fun _ => .ite .raise .pure

theorem NextInv.execTdef {f : FmtX} (h : Inv s) : NextInv (execTdef f s) :=
  .run (.bind .thread fun _ => .bind .snapshot fun _ => .bind .checkNoRange fun _ => .bind .loadData fun _ => .ite .stop
      (.bind .storeData fun _ => .updTh)) h

theorem NextInv.execTinv {f : FmtX} (h : Inv s) : NextInv (execTinv f s) :=
  .run (.bind .thread fun _ => .bind .snapshot fun _ => .bind .checkNoRange fun _ => .bind .storeData fun _ => .updTh) h

theorem NextInv.execTqry {f : FmtX} (h : Inv s) : NextInv (execTqry f s) :=
  .run (.ite .stop (.bind .thread fun _ => .bind .snapshot fun _ => .bind .myCore fun _ => .updTh)) h

theorem Inv.recallAll {l : List (Loc × Nat)} (h : Inv s) : Inv (s.recallAll l) := .foldl h fun _ _ hs => .ite hs (.recall hs)

theorem NextInv.execMstat {f : FmtX} (h : Inv s) : NextInv (execMstat f s) := by
  refine .run (.bind .thread fun _ => .bind .validSnapshot fun _ => .ite .stop (.ite .stop (.ite .stop (.ite .stop
    (.get fun _ _ => ?_))))) h
  dsimp only
  split
  · exact .stop
  · refine .ite .stop (.bind (.upd fun _ hu => .recallAll hu) fun _ => .get fun _ _ => ?_)
    split
    · exact .stop
    · exact .bind (.upd fun _ hv => hv) fun _ => .updTh

theorem NextInv.execMunst {f : FmtX} (h : Inv s) : NextInv (execMunst f s) := by
  refine .run (.bind .thread fun _ => .bind .snapshot fun _ => .bind .myCore fun _ => ?_) h
  split
  · exact .raise
  · exact .ite .stop (.bind (.upd fun _ hs => hs) fun _ => .updTh)

theorem Inv.retireOne {rank q : Nat} (h : Inv s) : Inv (s.retireOne rank q) := by
  unfold State.retireOne
  dsimp only
  split
  · exact .modCore (.foldl h fun _ _ hs => .poke hs)
  · exact h

theorem Inv.retire {rank q : Nat} {f : List (Nat × Bool) → List (Nat × Bool)} (h : Inv s) : Inv (s.retire rank q f) :=
  .modCore (.foldl h fun _ _ hs => .retireOne hs)

theorem KeepsInv.needQueue {q : Nat} : KeepsInv (needQueue q) := .bind .myCore fun _ => .ite .stop .pure

theorem Inv.captureTile {rank : Nat} {m : MatOp} (h : Inv s) : Inv (s.captureTile rank m) := by
  unfold State.captureTile
  dsimp only
  split
  · exact .ite (.modCore (.recall h)) h
  · exact h

theorem Inv.captureReady {rank : Nat} (h : Inv s) : Inv (s.captureReady rank) := .foldl h fun _ _ hs => .captureTile hs

theorem Inv.fillSlot {b : Behalf} {rank q seq tile : Nat} (h : Inv s) : Inv (s.fillSlot b rank q seq tile) :=
  .captureReady (.modCore (.store (.recall h)))

theorem Inv.reserve {rank q n : Nat} (h : Inv s) : Inv (s.reserve rank q n) := h

theorem Inv.appendTiles {b : Behalf} {rank q : Nat} {l : List Nat} (h : Inv s) : Inv (s.appendTiles b rank q l) := by
  induction l generalizing s with
  | nil => exact h
  | cons t l ih => exact ih (.fillSlot (.reserve h))

theorem NextInv.execQcfg {f : FmtX} (h : Inv s) : NextInv (execQcfg f s) :=
  .run (.ite .stop (.bind .thread fun _ => .ite .stop (.ite .stop (.ite .stop (.get fun _ _ => .ite .stop (.ite .stop (.bind
      (.upd fun _ hu => hu) fun _ => .updTh))))))) h

theorem NextInv.queuePtr {f : FmtX} {g : OpQueue → Nat} (h : Inv s) : NextInv (queuePtr f g s) :=
  .run (.ite .stop (.bind .needQueue fun _ => .bind .myCore fun _ => .ite .stop .updTh)) h

theorem NextInv.execQpop {f : FmtX} (h : Inv s) : NextInv (execQpop f s) :=
  .run (.ite .stop (.bind .needQueue fun _ => .bind .thread fun _ => .ite .stop (.bind .myCore fun _ => .ite .stop (.bind
      (.upd fun _ hs => hs) fun _ => .updTh)))) h

theorem NextInv.execQpush {f : FmtX} (h : Inv s) : NextInv (execQpush f s) :=
  .run (.ite .stop (.bind .needQueue fun _ => .bind .thread fun _ => .bind .scratchGa fun _ => .ite .stop (.get fun _ _ =>
      .bind .readAt fun _ => .bind (.upd fun _ hu => .appendTiles hu) fun _ => .updTh))) h

theorem KeepsInv.namedTile {tid : Nat} {d : Desc} {sp : Word} : KeepsInv (namedTile tid d sp) := by
  refine .bind .myCore fun _ => ?_
  split
  · exact .pure
  · exact .raise

theorem Inv.enqueueOp {m : MatOp} (h : Inv s) : Inv (s.enqueueOp m) := .captureReady h

theorem NextInv.execMwr {f : FmtX} (h : Inv s) : NextInv (execMwr f s) :=
  .run (.bind .thread fun _ => .ite .stop (.ite (.bind .needQueue fun _ => .bind .validSnapshot fun _ => .ite .stop
      (.bind .namedTile fun _ => .get fun _ _ => .ite .stop (.ite (.bind .scratchGa fun _ => .bind .readAt fun _ => .bind
      (.upd fun _ hu => .enqueueOp hu) fun _ => .updTh) (.bind .pure fun _ => .bind (.upd fun _ hu => .enqueueOp hu) fun _ =>
      .updTh)))) (.bind .validSnapshot fun _ => .ite .stop (.bind .namedTile fun _ => .get fun _ _ => .ite .stop (.ite
      (.bind .scratchGa fun _ => .bind .readAt fun _ => .bind (.upd fun _ hu => .enqueueOp hu) fun _ => .updTh)
      (.bind .pure fun _ => .bind (.upd fun _ hu => .enqueueOp hu) fun _ => .updTh)))))) h

theorem NextInv.execMrd {f : FmtX} (h : Inv s) : NextInv (execMrd f s) :=
  .run (.bind .thread fun _ => .ite .stop (.ite (.bind .needQueue fun _ => .bind .validSnapshot fun _ => .bind .namedTile fun _ =>
      .bind .myCore fun _ => .ite .stop (.get fun _ _ => .ite (.bind .scratchGa fun _ => .bind .writeAt fun _ => .updTh)
      (.ite .stop (.bind (.upd fun _ hu => .appendTiles hu) fun _ => .updTh)))) (.bind .validSnapshot fun _ =>
      .bind .namedTile fun _ => .bind .myCore fun _ => .ite .stop (.get fun _ _ => .ite (.bind .scratchGa fun _ =>
      .bind .writeAt fun _ => .updTh) (.ite .stop (.bind (.upd fun _ hu => .appendTiles hu) fun _ => .updTh)))))) h

theorem Inv.syncBand {b : Nat} (h : Inv s) : Inv (s.syncBand b) := .ite h h

theorem NextInv.widening {i : Instr} {f : FmtV} {k : Nat} {dst : ElemType → Option ElemType} {plain : VOp}
    {g : ElemType → ElemType → Mode → Bool → Nat → Nat → Nat → Nat × Flags} (h : Inv s) :
    NextInv (widening i f k dst plain g s) := by
  refine .run (.ite (.bind .elementwise fun _ => .updTh) ?_) h
  split
  · exact .illegal
  · exact .bind .thread fun _ => .bind .fpWrite fun _ => .updTh

theorem NextInv.dot {i : Instr} {f : FmtV} {q : Nat} {dst : ElemType → Option ElemType} (h : Inv s) : NextInv (dot i f q dst s) := by
  refine .run ?_ h
  dsimp only
  split
  · exact .illegal
  · exact .bind .thread fun _ => .bind .fpWrite fun _ => .updTh

/-! ### Vector instructions -/

theorem NextInv.execVcvt {f : FmtVcvt} (h : Inv s) : NextInv (execVcvt f s) :=
  .run (.ite .stop (.ite .stop (.bind .thread fun _ => .ite .updTh (.ite (.bind .fpWrite fun _ => .updTh) (.bind .fpWrite fun _ =>
      .updTh))))) h

theorem NextInv.execVqnt {f : FmtVl} (h : Inv s) : NextInv (execVqnt f s) := by
  refine .run ?_ h
  split
  · exact .illegal
  · exact .bind .thread fun _ => .updTh

theorem NextInv.execVdqnt {f : FmtVl} (h : Inv s) : NextInv (execVdqnt f s) := by
  refine .run ?_ h
  split
  · exact .illegal
  · refine .bind .thread fun _ => ?_
    dsimp only
    split <;> exact .updTh

theorem NextInv.execVcbdec {f : FmtVl} (h : Inv s) : NextInv (execVcbdec f s) := by
  refine .run ?_ h
  split
  · exact .illegal
  · refine .ite .stop (.bind .thread fun _ => ?_)
    dsimp only
    split <;> exact .updTh

theorem NextInv.special {i : Instr} {f : FmtVl} {double : Bool}
    {g : Fmt → Mode → Machine.Num → Machine.Num → Nat × Flags} (h : Inv s) : NextInv (special i f double g s) := by
  refine .run ?_ h
  split
  · exact .ite .stop (.bind .thread fun _ => .updTh)
  · exact .illegal

theorem NextInv.execVexp2 {f : FmtVl} (h : Inv s) : NextInv (execVexp2 f s) := .special h

theorem NextInv.execVlog2 {f : FmtVl} (h : Inv s) : NextInv (execVlog2 f s) := .special h

theorem NextInv.execVrcp {f : FmtVl} (h : Inv s) : NextInv (execVrcp f s) := .special h

theorem NextInv.execVrsqrt {f : FmtVl} (h : Inv s) : NextInv (execVrsqrt f s) := .special h

theorem NextInv.execVsqrt {f : FmtVl} (h : Inv s) : NextInv (execVsqrt f s) := .special h

theorem NextInv.execVsinpi {f : FmtVl} (h : Inv s) : NextInv (execVsinpi f s) := .special h

theorem NextInv.execVtanh {f : FmtVl} (h : Inv s) : NextInv (execVtanh f s) := .special h

/-! ### Vector memory -/

theorem NextInv.vred {i : Instr} {f : FmtVl} {g : ElemType → Mode → List Bool → List Nat → List Nat × Flags} (h : Inv s) :
    NextInv (vred i f g s) := .run (.ite .stop (.bind .thread fun _ => .updTh)) h

theorem NextInv.execVrsum {f : FmtVl} (h : Inv s) : NextInv (execVrsum f s) := .vred h

theorem NextInv.vload {i : Instr} {f : FmtVl} {ok : ElemType → Bool} {pieces : FmtVl → Thread → List Piece} (h : Inv s) :
    NextInv (vload i f ok pieces s) :=
  .run (.ite .stop (.bind .thread fun _ => .bind .checkPieces fun _ => .bind .readPieces fun _ => .updTh)) h

theorem NextInv.vstore {i : Instr} {f : FmtVl} {ok : ElemType → Bool} {pieces : FmtVl → Thread → List Piece} (h : Inv s) :
    NextInv (vstore i f ok pieces s) := by
  refine .run (.ite .stop (.bind .thread fun _ => .bind .checkPieces fun _ => .get fun _ _ => ?_)) h
  dsimp only
  split
  · exact .stop
  · exact .bind .writePieces fun _ => .updTh

theorem NextInv.execVld {f : FmtVl} (h : Inv s) : NextInv (execVld f s) := .vload h

theorem NextInv.execVst {f : FmtVl} (h : Inv s) : NextInv (execVst f s) := .vstore h

/-! ### Matrix operations -/

theorem KeepsInv.matrixIssue {i : Instr} {n : Fin 8} {kind : MatKind} {pop : Bool} {sp : Word} {record : Option Nat} :
    KeepsInv (matrixIssue i n kind pop sp record) := by
  refine .get fun _ _ => .ite .stop (.ite .stop (.ite .stop (.ite (.bind .needQueue fun _ => .bind .validSnapshot fun _ =>
    .bind .validSnapshot fun _ => .ite .stop (.ite .stop (.ite .stop ?_))) (.bind .validSnapshot fun _ =>
    .bind .validSnapshot fun _ => .ite .stop (.ite .stop (.ite .stop ?_))))))
  all_goals
    dsimp only
    split
    · exact .bind .updTh fun _ => .bind (.upd fun _ hu => .recallAll hu) fun _ => .get fun _ _ => .pure
    · exact .bind .namedTile fun _ => .bind .updTh fun _ => .bind (.upd fun _ hu => .recallAll hu) fun _ => .get fun _ _ => .pure

theorem NextInv.product {i : Instr} {kind : MatKind} {f : FmtX} (h : Inv s) : NextInv (product i kind f s) :=
  .run (.bind .needAcc fun _ => .bind .thread fun _ => .bind .matrixIssue fun _ => .bind .myCore fun _ => .ite .stop (.bind
      (.upd fun _ hs => .enqueueOp hs) fun _ => .updTh)) h

theorem Inv.gangRecord {w : Turn} {off cause : Nat} {added : Bool} {mac : Nat} {a : Machine.Acc} (h : Inv s) :
    Inv (s.gangRecord w off cause added mac a) := .store h

theorem KeepsInv.gangIssue {i : Instr} {f : FmtX} : KeepsInv (gangIssue i f) :=
  .get fun _ _ => .bind .needAcc fun _ => .bind .scratchGa fun _ => .ite .stop .matrixIssue

theorem NextInv.execMgang {f : FmtX} (h : Inv s) : NextInv (Machine.execMgang f s) := by
  have htry : KeepsInv (tryCatch (do let m ← gangIssue (.mgang f) f; return Except.ok m) fun e => match e with
      | .trap x => return Except.error x
      | e => throw e) := by
    refine .tryCatch (.bind .gangIssue fun _ => .pure) fun e => ?_
    cases e with
    | trap x => exact .pure
    | _ => exact .throw
  refine .run (.get fun _ _ => ?_) h
  dsimp only
  split
  case h_2 => exact .stop
  refine .ite .stop ?_
  refine .bind htry fun r => ?_
  cases r with
  | ok m =>
    refine .ite .stop (.ite (.ite .stop ?_) ?_)
    · exact .bind (.upd fun _ hs => .reserve hs) fun _ => .bind (.upd fun _ hs => .enqueueOp hs) fun _ => .updTh
    · exact .bind (.upd fun _ hs => .enqueueOp hs) fun _ => .updTh
  | error x =>
    refine .bind (.upd fun _ hs => .modMe ?_) fun _ => .updTh
    split
    · exact .gangRecord hs
    · exact hs

theorem Inv.modOp {rank id : Nat} {f : MatOp → MatOp} (h : Inv s) : Inv (s.modOp rank id f) := h

theorem Inv.dropOp {rank id : Nat} (h : Inv s) : Inv (s.dropOp rank id) := h

theorem Inv.popRead {rank : Nat} {m : MatOp} {retires : Bool} (h : Inv s) : Inv (s.popRead rank m retires) := .ite (.retire h) h

theorem Inv.opTrap {rank : Nat} {m : MatOp} {c : Cause} {tval : Word} (h : Inv s) : Inv (s.opTrap rank m c tval) := by
  unfold State.opTrap
  dsimp only
  split
  · exact .modOp (.gangRecord (.modThAt (.popRead h)))
  · exact .dropOp (.modThAt (.popRead h))

theorem Inv.gangStage {rank : Nat} {m : MatOp} (h : Inv s) : Inv (s.gangStage rank m) := by
  refine .ite h (.ite (.modOp (.modCore ?_)) ?_)
  all_goals
    split
    · exact .modOp (.modBand (.syncBand h))
    · exact h

theorem Inv.startOp {rank : Nat} {m : MatOp} {g : MatArgs} (h : Inv s) : Inv (s.startOp rank m g) := by
  unfold State.startOp
  dsimp only
  split
  · exact .opTrap (.logError h)
  · split
    · exact .opTrap h
    · exact .opTrap h
    · exact .modOp (.popRead h)

theorem Inv.replaceTile {rank : Nat} {m : MatOp} {g : MatArgs} (h : Inv s) : Inv (s.replaceTile rank m g) := by
  unfold State.replaceTile
  dsimp only
  split
  · exact .opTrap (.logError (.recallAll h))
  · exact .opTrap (.recallAll h)
  · exact .dropOp (.modCore (.store (.popRead (.recallAll h))))

theorem NextInv.execMatrixOpStart {r m : Nat} (h : Inv s) : NextInv (execMatrixOpStart r m s) := by
  unfold Machine.execMatrixOpStart
  split
  · exact .next h
  · refine .ite (.next h) (.ite (.next (.gangStage h)) (.ite (.next h) ?_))
    split
    · exact .next h
    · exact .ite (.next h) (.ite (.next (.replaceTile h)) (.ite (.next h) (.next (.startOp h))))
    · exact .next h

theorem NextInv.execMatrixOpComplete {r m : Nat} (h : Inv s) : NextInv (execMatrixOpComplete r m s) := by
  unfold Machine.execMatrixOpComplete
  split
  · exact .next h
  · refine .ite (.next h) (.ite (.next h) (.ite (.next h) (.next (.dropOp (.ite (.modCore ?_) ?_)))))
    all_goals
      split
      · dsimp only
        split
        · exact .gangRecord h
        · exact h
      · exact h

theorem NextInv.execMbind {f : FmtX} (h : Inv s) : NextInv (execMbind f s) :=
  .run (.ite .stop (.bind .needAcc fun _ => .get fun _ _ => .ite .stop (.ite .stop (.bind .snapshot fun _ => .ite .stop (.ite
      (.bind .snapshot fun _ => .bind .pure fun _ => .ite .stop (.ite .stop .updTh)) (.bind .pure fun _ => .ite .stop
      (.ite .stop .updTh))))))) h

theorem NextInv.execMzero {f : FmtX} (h : Inv s) : NextInv (execMzero f s) :=
  .run (.bind .needAcc fun _ => .get fun _ _ => .ite .stop .updTh) h

theorem Inv.logCheck {c : CheckResult} (h : Inv s) : Inv (s.logCheck c) := .ite h (.ite (.logError h) h)

theorem KeepsInv.checkFails {lk : Fin 16} {dest : List Res} {n : Fin 8} : KeepsInv (checkFails lk dest n) :=
  .get fun _ _ => .ite (.bind (.upd fun _ hu => hu) fun _ => .stall) .updTh

theorem NextInv.execMchk {f : FmtX} (h : Inv s) : NextInv (execMchk f s) :=
  .run (.bind .needAcc fun _ => .get fun _ _ => .ite .stop (.ite (.bind (.upd fun _ hu => .logCheck hu) fun _ =>
      .ite .checkFails .updTh) .updTh)) h

theorem KeepsInv.drainWrite {f : FmtX} {img bytes : Nat} {where_ : List (Piece × Loc)} :
    KeepsInv (drainWrite f img bytes where_) := by
  unfold Machine.drainWrite
  split
  · exact .upd fun _ hs => .appendTiles hs
  · exact .writePieces
  · exact .updTh

theorem KeepsInv.drainDest {i : Instr} {f : FmtX} {bytes : Nat} : KeepsInv (drainDest i f bytes) := by
  unfold Machine.drainDest
  split
  · exact .bind .needQueue fun _ => .ite .stop .pure
  · refine .bind .thread fun _ => .bind .precheck fun _ => .bind .checkPieces fun _ => .get fun _ _ => ?_
    split
    · exact .raise
    · exact .pure
  · exact .ite .stop .pure

theorem NextInv.execMdrain {f : FmtX} (h : Inv s) : NextInv (Machine.execMdrain f s) := by
  refine .run (.bind .needAcc fun _ => .ite .stop (.ite .stop (.ite (.bind .needQueue fun _ => ?_) ?_))) h
  all_goals
    refine .get fun _ _ => ?_
    dsimp only
    split
    · exact .raise
    refine .ite .stop (.ite .stop (.ite (.bind .snapshot fun _ => .bind .pure fun _ => ?_) (.bind .pure fun _ => ?_)))
    all_goals
      refine .ite (.bind (.upd fun _ hs => .logCheck hs) fun _ => .checkFails) (.ite (.bind
        (.upd fun _ hs => .logCheck hs) fun _ => .updTh) ?_)
      split
      · refine .ite (.bind (.upd fun _ hs => .recall hs) fun _ => ?_) ?_
        all_goals
          refine .get fun _ _ => ?_
          split
          · exact .updTh
          · exact .bind .drainDest fun _ => .ite .updTh (.bind .drainWrite fun _ => .bind (.upd fun _ hs => .logCheck hs) fun _ =>
              .updTh)
      · refine .get fun _ _ => ?_
        split
        · exact .updTh
        · exact .bind .drainDest fun _ => .ite .updTh (.bind .drainWrite fun _ => .bind (.upd fun _ hs => .logCheck hs) fun _ =>
            .updTh)

theorem NextInv.execMfix {f : FmtX} (h : Inv s) : NextInv (execMfix f s) :=
  .run (.bind .needAcc fun _ => .get fun _ _ => .ite .stop (.ite .stop (.ite (.bind .precheck fun _ => .bind .checkPieces fun _ =>
      .bind .readPieces fun _ => .bind .updTh fun _ => .updTh) .updTh))) h

/-! ### System instructions -/

theorem NextInv.execTret {f : FmtA} (h : Inv s) : NextInv (execTret f s) :=
  .run (.get fun _ _ => .ite .stop (.bind .updTh fun _ => .bind .thread fun _ => .ite (.bind (.upd fun _ hu => hu) fun _ =>
      .finish) (.bind .updTh fun _ => .finish))) h

theorem NextInv.execFence {f : FmtA} (h : Inv s) : NextInv (execFence f s) := .next (.modTh (.fenceFlush h))

theorem NextInv.execIfence {f : FmtA} (h : Inv s) : NextInv (execIfence f s) := .simple h

theorem Inv.countWeightless {rank : Nat} {k : Machine.Task} {up : Bool} (h : Inv s) : Inv (s.countWeightless rank k up) := h

theorem NextInv.execSpawn {f : FmtA} (h : Inv s) : NextInv (execSpawn f s) :=
  .run (.get fun _ _ => .ite .stop (.ite .stop (.ite (.ite (.bind .updTh fun _ => .bind (.upd fun _ hu => hu) fun _ =>
      .stop) .stop) (.bind .updTh fun _ => .upd fun _ hu => .makeReady (.ite hu hu))))) h

theorem NextInv.park {mig : Bool} {f : FmtPark} (h : Inv s) : NextInv (park mig f s) := by
  refine .run (.bind .thread fun _ => .ite ?_ .updTh) h
  split
  · exact .stall
  · refine .get fun _ hs => ?_
    dsimp only
    split
    · exact .stall
    · rename_i e
      exact .bind (.set (.modCore (.of_some_snd e (.leavePark hs)))) fun _ => .finish

theorem Inv.endTask {w : Turn} (h : Inv s) : Inv (s.endTask w) := by
  unfold State.endTask
  split
  · exact h
  · exact .modThAt (.freeMitten (.unbindFrame (.ite h h)))

theorem NextInv.execTend {f : FmtA} (h : Inv s) : NextInv (execTend f s) :=
  .run (.bind .thread fun _ => .ite (.bind .updTh fun _ => .stop) (.ite .stop (.bind .updTh fun _ => .bind
      (.upd fun _ hs => .endTask (.fenceFlush hs)) fun _ => .finish))) h

theorem NextInv.execTyield {f : FmtA} (h : Inv s) : NextInv (execTyield f s) := by
  refine .run (.get fun _ _ => .bind .updTh fun _ => ?_) h
  split
  · refine .ite (.get fun _ hu => ?_) .pure
    dsimp only
    split
    · exact .pure
    · rename_i e
      exact .bind (.set (.makeReady (.of_some_snd e (.leaveFull hu)))) fun _ => .finish
  · exact .pure

theorem NextInv.execWfi {f : FmtA} (h : Inv s) : NextInv (execWfi f s) := .run (.get fun _ _ => .ite .stop .updTh) h

/-! ### Bands -/

theorem Inv.missOverflow {b : Nat} {x : Tile} (h : Inv s) : Inv (s.missOverflow b x) := by
  unfold State.missOverflow
  split
  · exact h
  · split
    · exact h
    · exact .raiseIrq h

theorem Inv.reachQueue {b : Nat} {e : Ejection} (h : Inv s) : Inv (s.reachQueue b e) := .ite h (.missOverflow h)

theorem Inv.tileLeaves {b p : Nat} {x : Tile} (h : Inv s) : Inv (s.tileLeaves b p x) := h

theorem Inv.ejectFault {b p : Nat} {x : Tile} (h : Inv s) : Inv (s.ejectFault b p x) := .ite (.reachQueue h) h

theorem Inv.logPayload {rank : Nat} (h : Inv s) : Inv (s.logPayload rank) := .logError h

theorem Inv.headerFault {b p : Nat} {x : Tile} (h : Inv s) : Inv (s.headerFault b p x) := by
  unfold State.headerFault
  dsimp only
  split
  · exact .ejectFault (.logError h)
  · exact .modBand (.tileLeaves (.logError h))

theorem Inv.correctHeader {b p : Nat} {x : Tile} (h : Inv s) : Inv (s.correctHeader b p x) := .ite h h

theorem Inv.endDwell {b p : Nat} {x : Tile} (h : Inv s) : Inv (s.endDwell b p x).1 := by
  unfold State.endDwell
  split
  · split
    · exact .reachQueue (.tileLeaves (.ite h (.logPayload h)))
    · exact .ite h (.missOverflow h)
  · exact h

theorem Inv.copyBroadcast {rank : Nat} {x : Tile} (h : Inv s) : Inv (s.copyBroadcast rank x) := by
  unfold State.copyBroadcast
  split
  · exact .ite (.fillSlot h) h
  · exact h

theorem Inv.arriveTile {b q : Nat} {x : Tile} (h : Inv s) : Inv (s.arriveTile b q x).1 := by
  unfold State.arriveTile
  dsimp only
  split
  · exact .headerFault h
  split
  · split
    · exact .tileLeaves (.correctHeader h)
    · exact .copyBroadcast (.correctHeader h)
  split
  · exact .modBand (.sent (.tileLeaves (.correctHeader h)))
  · exact .correctHeader h

theorem Inv.acceptPair {b p set k : Nat} {g : PairSet} {x y : Tile} (h : Inv s) : Inv (s.acceptPair b p set k g x y) :=
  .makeReady (.countWeightless (.modBand (.modCore (.store (.store h)))))

theorem Inv.failPair {b p : Nat} {fam : Family} {x : Tile} (h : Inv s) : Inv (s.failPair b p fam x) :=
  .ite h (.ejectFault (.modBand (.logPayload h)))

theorem Inv.window {b p : Nat} (h : Inv s) : Inv (s.window b p) := by
  unfold State.window
  dsimp only
  split
  · refine .ite h ?_
    split
    · exact h
    · refine .ite h (.ite (.failPair (.failPair h)) ?_)
      split
      · exact .ite h (.acceptPair h)
      · exact h
  · exact h

theorem Inv.moveTile {b : Nat} {fam : Family} {old : Vector (Option Tile) 16} {p : Nat} (h : Inv s) :
    Inv (s.moveTile b fam old p) := by
  unfold State.moveTile
  split
  · exact h
  · dsimp only
    split
    · exact .endDwell h
    · exact .modBand (.arriveTile (.endDwell h))

theorem NextInv.execBandStep {b : Nat} (h : Inv s) : NextInv (execBandStep b s) :=
  .next (.foldl (.modBand (.foldl h fun _ _ hs => .moveTile hs)) fun _ _ hs => .window hs)

theorem NextInv.execBandInjection {r : Nat} {fam : Family} (h : Inv s) : NextInv (execBandInjection r fam s) := by
  refine .ite (.next h) ?_
  split
  · exact .next h
  · exact .next (.window (.ite h h))

theorem NextInv.execInjectionClaim {r : Nat} {fam : Family} (h : Inv s) : NextInv (execInjectionClaim r fam s) := by
  unfold Machine.execInjectionClaim
  dsimp only
  split <;> exact .next h

theorem NextInv.execRetireNotice (h : Inv s) : NextInv (execRetireNotice s) := by
  unfold Machine.execRetireNotice
  split
  · exact .next h
  · split <;> exact .next h

theorem NextInv.execEjectionMessage (h : Inv s) : NextInv (execEjectionMessage s) := by
  unfold Machine.execEjectionMessage
  split
  · exact .next h
  · split
    · exact .next h
    · exact .next (.reachQueue (.ite h h))

theorem NextInv.execEjectionWriteComplete (h : Inv s) : NextInv (execEjectionWriteComplete s) := by
  unfold Machine.execEjectionWriteComplete
  split
  · exact .next h
  · split
    · exact .next h
    · split
      · exact .next h
      · exact .next (.modCore (.store (.store (.recall h))))

theorem Inv.runSetProbe {b n : Nat} (h : Inv s) : Inv (s.runSetProbe b n).2 := by
  unfold State.runSetProbe
  split
  · exact h
  · dsimp only
    exact .foldl h fun _ _ hs => .ite (.modCore hs) hs

theorem NextInv.execBinj {f : FmtX} (h : Inv s) : NextInv (execBinj f s) := by
  refine .run (.get fun _ _ => .ite .stop (.bind .scratchGa fun _ => .bind .scratchGa fun _ => .bind .readAt fun _ =>
    .bind .readAt fun _ => ?_)) h
  dsimp only
  split
  · exact .raise
  · exact .ite .stop (.ite .stop (.bind .injected fun _ => .upd fun _ hu => .modTh (.modBand (.modMe (.syncBand hu)))))

theorem Inv.markWritten {p : RegionPage} (h : Inv s) : Inv (s.markWritten p) := by
  refine .ite ?_ (.setDirty ?_)
  all_goals
    split
    · exact .fill h
    · exact .promote h

theorem Inv.wipeMittens {b : Nat} (h : Inv s) : Inv (s.wipeMittens b) := .foldl h fun _ _ hs => .wipe hs

theorem Inv.installSet {n d : Nat} {l : List RegionPage} (h : Inv s) : Inv (s.installSet n d l) :=
  .modBand (.foldl (.ite (.wipeMittens h) h) fun _ _ hs => .hold (.markWritten hs))

theorem NextInv.execBset {f : FmtX} (h : Inv s) : NextInv (execBset f s) := by
  refine .run (.bind .thread fun _ => .bind .scratchGa fun _ => .get fun _ _ => .bind .readAt fun _ => .get fun _ _ => .ite ?_ ?_) h
  · split
    · exact .bind (.upd fun _ hv => .noteWaiting hv) fun _ => .stop
    · split
      · exact .updTh
      · exact .bind (.upd fun _ hv => .installSet hv) fun _ => .updTh
  · split
    · exact .updTh
    · exact .bind (.upd fun _ hv => .installSet hv) fun _ => .updTh

theorem Inv.uninstall {b n : Nat} {g : PairSet} (h : Inv s) : Inv (s.uninstall b n g) :=
  .ite (.wipeMittens (.modBand (.foldl (.foldl h fun _ _ hs => hs) fun _ _ hs => hs))) (.modBand (.foldl
      (.foldl h fun _ _ hs => hs) fun _ _ hs => hs))

theorem NextInv.execBclr {f : FmtX} (h : Inv s) : NextInv (execBclr f s) := by
  refine .next (.modTh ?_)
  split
  · exact h
  · split
    · rename_i e
      exact .uninstall (.of_snd e (.runSetProbe h))
    · rename_i e
      exact .of_snd e (.runSetProbe h)

theorem Inv.setState {b n : Nat} (h : Inv s) : Inv (s.setState b n).2 := by
  unfold State.setState
  split
  · exact h
  · exact .runSetProbe h

theorem NextInv.execBstat {f : FmtX} (h : Inv s) : NextInv (execBstat f s) := by
  refine .run (.get fun _ _ => ?_) h
  dsimp only
  split
  · exact .bind (.upd fun _ hu => .setState hu) fun _ => .updTh
  · exact .updTh
  · exact .updTh
  · exact .updTh
  · exact .updTh
  · refine .ite .stop (.bind .scratchGa fun _ => ?_)
    split
    · exact .updTh
    · exact .ite .updTh (.bind .writeAt fun _ => .updTh)

theorem NextInv.execPget {f : FmtX} (h : Inv s) : NextInv (execPget f s) := by
  refine .run (.get fun _ _ => ?_) h
  dsimp only
  split
  · exact .updTh
  · refine .bind .precheck fun _ => .bind .checkPieces fun _ => .get fun _ _ => ?_
    split
    · exact .stop
    · exact .bind .readAt fun _ => .bind .readAt fun _ => .ite (.bind (.upd fun _ hv => .logError hv) fun _ =>
        .bind .uncorrectable fun _ => .bind .writePieces fun _ => .bind (.upd fun _ hv => hv) fun _ => .updTh)
        (.bind .writePieces fun _ => .bind (.upd fun _ hv => hv) fun _ => .updTh)

theorem NextInv.execPrel {f : FmtX} (h : Inv s) : NextInv (execPrel f s) := by
  refine .run (.get fun _ _ => ?_) h
  dsimp only
  split
  · exact .ite .stop (.bind (.upd fun _ hu => .freeMitten hu) fun _ => .bind .updTh fun _ => .updTh)
  · exact .updTh

/-! ### Tile transfers and discards -/

theorem KeepsInv.ownVault {ga : Ptr} {n align : Nat} {acc : Access} : KeepsInv (ownVault ga n align acc) :=
  .bind .resolve fun _ => .get fun _ _ => .ite .stop .pure

theorem KeepsInv.checkTiles {ga : Ptr} {acc : Access} {m k : Nat} : KeepsInv (Machine.checkTiles ga acc m k) := by
  induction m generalizing k with
  | zero => exact .pure
  | succ m ih => exact .bind .ownVault fun _ => .bind ih fun _ => .pure

theorem Inv.holdPage {l : Loc} (h : Inv s) : Inv (s.holdPage l) := h

theorem NextInv.tileTransfer {store : Bool} {f : FmtT} (h : Inv s) : NextInv (tileTransfer store f s) :=
  .run (.ite .stop (.bind .needQueue fun _ => .ite .stop (.bind .thread fun _ => .bind .checkTiles fun _ => .ite .stop
      (.get fun _ _ => .bind (.upd fun _ hu => .foldl (.modMe (.ite hu hu)) fun _ _ hv => hv) fun _ => .updTh)))) h

theorem Inv.moveTilesDown {rank : Nat} {q : OpQueue} {m from_ n : Nat} (h : Inv s) : Inv (s.moveTilesDown rank q m from_ n) :=
  .foldl h fun _ _ hs => .poke hs

theorem Inv.releaseSlots {rank q seq m : Nat} (h : Inv s) : Inv (s.releaseSlots rank q seq m) :=
  .captureReady (.modCore (.moveTilesDown h))

theorem Inv.dropXfer {rank : Nat} {x : TileXfer} {moved : Nat} (h : Inv s) : Inv (s.dropXfer rank x moved) :=
  .ite (.retire (.foldl h fun _ _ hs => hs)) (.ite (.releaseSlots (.foldl h fun _ _ hs => hs)) (.foldl h fun _ _ hs => hs))

theorem Inv.endXfer {rank : Nat} {x : TileXfer} {moved cause : Nat} {recov : Bool} (h : Inv s) :
    Inv (s.endXfer rank x moved cause recov) := .of_wf (Inv.dropXfer h)

theorem Inv.trapXfer {rank : Nat} {x : TileXfer} {moved : Nat} {c : Cause} (h : Inv s) : Inv (s.trapXfer rank x moved c) :=
  .modThAt (.dropXfer h)

theorem SomeInv.tileError {rank off : Nat} {x : TileXfer} {seq moved : Nat} (h : Inv s) :
    SomeInv id (s.tileError rank off x seq moved) :=
  .ite (.ite (.some (.logUnreadable h)) .none) (.ite (.some (.logUnreadable h)) (.ite (.some (.logError h)) .none))

theorem Inv.moveRow {rank off : Nat} {x : TileXfer} {moved : Nat} (h : Inv s) : Inv (s.moveRow rank off x moved) :=
  .ite (.endXfer (.ite (.retire (.store (.recall (.ite (.modCore (.recall h)) (.recall h))))) (.fillSlot (.corrected (.ite
      (.modCore (.recall h)) (.recall h)))))) (.modCore (.ite (.retire (.store (.recall (.ite (.modCore (.recall h))
      (.recall h))))) (.fillSlot (.corrected (.ite (.modCore (.recall h)) (.recall h))))))

theorem Inv.noteXfers {rank : Nat} (h : Inv s) : Inv (s.noteXfers rank) := by
  refine .foldl h fun _ _ hs => ?_
  split
  · exact .noteWaiting hs
  · exact hs

theorem NextInv.execTileTransferTile {r : Nat} (h : Inv s) : NextInv (execTileTransferTile r s) := by
  unfold Machine.execTileTransferTile
  split
  · exact .next (.noteXfers h)
  · split
    · exact .next (.endXfer h)
    · split
      · exact .next h
      · exact .next (.endXfer h)
      · exact .next (.trapXfer h)
      · dsimp only
        split
        · rename_i e
          exact .next (.endXfer (.of_some e (.tileError h)))
        · exact .next (.moveRow (.ite h h))

theorem NextInv.execRact {f : FmtT} (h : Inv s) : NextInv (execRact f s) :=
  .run (.ite .stop (.bind .thread fun _ => .bind .ownVault fun _ => .get fun _ _ => .ite .stop (.get fun _ _ => .ite (.bind
      (.upd fun _ hv => .noteWaiting hv) fun _ => .stop) (.bind (.upd fun _ hv => hv) fun _ => .updTh)))) h

theorem NextInv.execRpre {f : FmtT} (h : Inv s) : NextInv (execRpre f s) :=
  .run (.ite .stop (.bind .thread fun _ => .bind .ownVault fun _ => .bind (.upd fun _ hs => hs) fun _ => .updTh)) h

theorem KeepsInv.discardPages {ga : Ptr} {m k : Nat} : KeepsInv (Machine.discardPages ga m k) := by
  induction m generalizing k with
  | zero => exact .pure
  | succ m ih => exact .bind .resolve fun _ => .get fun _ _ => .bind ih fun _ => .pure

theorem NextInv.execDiscard {f : FmtT} (h : Inv s) : NextInv (execDiscard f s) :=
  .run (.ite .stop (.bind .thread fun _ => .ite .stop (.bind .discardPages fun _ => .bind
      (.upd fun _ hs => .of_wf (Inv.foldl hs fun _ _ hu => hu)) fun _ => .updTh))) h

theorem Inv.discardPage {b : Behalf} {l : Loc} {leafHome leafOff : Nat} (h : Inv s) : Inv (s.discardPage b l leafHome leafOff) := by
  refine .ite (.poke (.modCore (.wake (.zeroFill (.ite (.modCore ?_) (.recall h)))))) (.wake (.zeroFill (.ite (.modCore ?_)
    (.recall h))))
  all_goals
    split
    · exact .recall h
    · exact .foldl (.recall h) fun _ _ hs => .journal hs

theorem NextInv.execDiscardAtHome (h : Inv s) : NextInv (execDiscardAtHome s) := by
  unfold Machine.execDiscardAtHome
  dsimp only
  split
  · split <;> exact .next (.of_wf (Inv.discardPage h))
  · exact .next h
  · exact .next h

/-! ### Remote procedure calls -/

theorem Inv.deliver {rq : Rpc} (h : Inv s) : Inv (s.deliver rq) := by
  refine .ite h ?_
  split <;> exact h

theorem NextInv.execHeldRequestResend {r : Nat} (h : Inv s) : NextInv (execHeldRequestResend r s) := by
  unfold Machine.execHeldRequestResend
  split
  · exact .next h
  · exact .ite (.next h) (.next (.deliver h))

theorem KeepsInv.callBlock {ga : Ptr} : KeepsInv (callBlock ga) :=
  .ite .stop (.ite .stop (.ite .stop (.get fun _ _ => .bind .readAt fun _ => .pure)))

theorem KeepsInv.callRequest {f : FmtRpc} : KeepsInv (callRequest f) :=
  .bind .thread fun _ => .bind .callBlock fun _ => .ite .stop (.get fun _ _ => .ite .stop (.ite (.bind .pure fun _ => .ite
      (.bind .readAt fun _ => .bind .resolve fun _ => .get fun _ _ => .pure) (.bind .pure fun _ => .bind .resolve fun _ =>
      .get fun _ _ => .pure)) (.bind .readAt fun _ => .ite (.bind .readAt fun _ => .bind .resolve fun _ => .get fun _ _ => .pure)
      (.bind .pure fun _ => .bind .resolve fun _ => .get fun _ _ => .pure))))

theorem KeepsInv.sendCall {rq : Rpc} : KeepsInv (sendCall rq) := by
  unfold Machine.sendCall
  refine .ite (.bind (.upd fun _ hs => .fenceFlush hs) fun _ => ?_) ?_
  all_goals
    refine .bind .thread fun _ => .ite (.bind .injected fun _ => ?_) (.bind .pure fun _ => ?_)
    all_goals exact .bind .updTh fun _ => .upd fun _ hs => .deliver (.sent (.modMe hs))

theorem NextInv.execRcall {f : FmtRpc} (h : Inv s) : NextInv (execRcall f s) :=
  .run (.bind .callRequest fun _ => .get fun _ _ => .ite .stop (.bind .sendCall fun _ => .updTh)) h

theorem NextInv.execRcallp {f : FmtRpc} (h : Inv s) : NextInv (execRcallp f s) := by
  refine .run (.bind .callRequest fun _ => .get fun _ _ => .ite .stop (.ite (.bind .sendCall fun _ => .updTh) (.ite
    (.bind .sendCall fun _ => .updTh) (.ite .stop (.ite .stop (.bind .sendCall fun _ => .get fun _ hu => ?_)))))) h
  dsimp only
  split
  · exact .stall
  · rename_i e
    exact .bind (.set (.modCore (.of_some_snd e (.leavePark hu)))) fun _ => .finish

theorem Inv.takeRequest {r : Nat} {rq : Rpc} (h : Inv s) : Inv (s.takeRequest r rq) := .ite h h

theorem SomeInv.parkRequest {r reason : Nat} {rq : Rpc} {ga : Ptr} {c : Cause} (h : Inv s) :
    SomeInv id (s.parkRequest r rq ga c reason) := by
  unfold State.parkRequest
  split
  · exact .none
  · exact .map fun x e => .modCore (SomeInv.appendFault h x e)

/-- The state that a translation for an agent leaves. -/
def PlaceInv : AgentPlace → Prop
  | .place _ t => Inv t
  | _ => True

theorem PlaceInv.agentPlace {r : Nat} {supervisor : Bool} {acc : Access} {p : Ptr} (h : Inv s) :
    PlaceInv (s.agentPlace r supervisor acc p) := by
  unfold State.agentPlace
  dsimp only
  split
  · trivial
  split
  · trivial
  · trivial
  split
  · trivial
  split
  · trivial
  · refine Inv.ite (.setDirty ?_) ?_
    all_goals
      split
      · exact .fill h
      · exact h

theorem Inv.of_place {r : Nat} {supervisor : Bool} {acc : Access} {p : Ptr} {l : Loc} (e : s.agentPlace r supervisor acc p = .place l t)
    (h : Inv s) : Inv t := by
  have ht := PlaceInv.agentPlace (r := r) (supervisor := supervisor) (acc := acc) (p := p) h
  rw [e] at ht
  exact ht

theorem Inv.refresh {r : Nat} {rq : Rpc} (h : Inv s) : Inv (s.refresh r rq) := by
  unfold State.refresh
  split
  · rename_i e
    exact .deliver (.modCore (.of_place e h))
  · exact .noteWaiting h
  · exact .getD (.parkRequest h) h

theorem Inv.forward {r : Nat} {rq : Rpc} (h : Inv s) : Inv (s.forward r rq) := by
  refine .deliver ?_
  split <;> exact h

theorem Inv.refuse {rq : Rpc} {c : Cause} (h : Inv s) : Inv (s.refuse rq c) := .reply h

theorem Inv.refuseByte {rq : Rpc} {c : BitVec 8} (h : Inv s) : Inv (s.refuseByte rq c) := .reply h

theorem NextInv.serve {n r : Nat} {f : State → Rpc → State} (hf : ∀ s rq, Inv s → Inv (f s rq)) (h : Inv s) :
    NextInv (serve n r f s) := by
  unfold Machine.serve
  dsimp only
  split
  · exact .next h
  refine .ite (.next h) (.ite (.next (.refresh h)) (.ite (.next (.forward h)) (.ite (.next (.refuse (.takeRequest h))) ?_)))
  split
  · exact .next (hf _ _ (.takeRequest h))
  · exact .next (.reply (.takeRequest h))
  · exact .next (.noteWaiting h)

theorem Inv.homeRead {r n : Nat} {rq : Rpc} {k : State → Nat → State} (hk : ∀ s v, Inv s → Inv (k s v)) (h : Inv s) :
    Inv (s.homeRead r rq n k) := .ite (.reply (.logUnreadable (.recall h))) (hk _ _ (.corrected (.recall h)))

theorem NextInv.execHandlerRead {r : Nat} (h : Inv s) : NextInv (execHandlerRead r s) := by
  refine .serve (fun _ _ hs => ?_) h
  split
  · exact .refuse hs
  · exact .homeRead (fun _ _ hu => .reply hu) hs

theorem NextInv.execHandlerWrite {r : Nat} (h : Inv s) : NextInv (execHandlerWrite r s) := by
  refine .serve (fun _ _ hs => ?_) h
  split
  · exact .refuse hs
  · exact .ite (.refuse hs) (.reply (.store (.recall hs)))

theorem NextInv.execHandlerElementAtomic {r : Nat} (h : Inv s) : NextInv (execHandlerElementAtomic r s) := by
  refine .serve (fun _ _ hs => ?_) h
  dsimp only
  split
  · exact .refuse hs
  · split
    · exact .refuse hs
    · refine .ite (.refuse hs) (.homeRead (fun _ _ hu => .reply ?_) hs)
      split
      · exact .store hu
      · exact hu

theorem NextInv.execHandlerTileRead {r : Nat} (h : Inv s) : NextInv (execHandlerTileRead r s) := by
  refine .serve (fun _ _ hs => ?_) h
  split
  · exact .refuse hs
  · exact .ite (.reply (.logError hs)) (.homeRead (fun _ _ hu => .reply hu) hs)

theorem NextInv.execHandlerTileWrite {r : Nat} (h : Inv s) : NextInv (execHandlerTileWrite r s) := by
  refine .serve (fun _ _ hs => ?_) h
  split
  · exact .refuse hs
  · exact .ite (.refuse hs) (.reply (.store (.recall hs)))

theorem NextInv.execHandlerTileAdd {r : Nat} (h : Inv s) : NextInv (execHandlerTileAdd r s) := by
  refine .serve (fun _ _ hs => ?_) h
  split
  · exact .refuse hs
  · exact .ite (.refuse hs) (.homeRead (fun _ _ hu => .reply (.store hu)) hs)

theorem NextInv.execHandlerVectorAdd {r : Nat} (h : Inv s) : NextInv (execHandlerVectorAdd r s) := by
  refine .serve (fun _ _ hs => ?_) h
  dsimp only
  split
  · exact .refuse hs
  · exact .ite (.refuse hs) (.homeRead (fun _ _ hu => .reply (.store hu)) hs)

theorem Inv.frameWrites {l : Loc} {w : List (Nat × Nat × Nat)} (h : Inv s) : Inv (s.frameWrites l w) :=
  .foldl h fun _ _ hs => .store hs

theorem NextInv.execHandlerHandOffPush {r : Nat} (h : Inv s) : NextInv (execHandlerHandOffPush r s) := by
  refine .serve (fun _ _ hs => ?_) h
  split
  · exact .reply hs
  · exact .ite (.refuse hs) (.ite (.reply hs) (.ite (.reply hs) (.reply (.frameWrites hs))))

theorem NextInv.execHandlerHandOffPop {r : Nat} (h : Inv s) : NextInv (execHandlerHandOffPop r s) := by
  refine .serve (fun _ _ hs => ?_) h
  split
  · exact .reply hs
  · exact .ite (.reply hs) (.ite (.reply hs) (.ite (.refuse hs) (.reply (.frameWrites hs))))

theorem Inv.addWatch {home granule : Nat} {w : Turn} (h : Inv s) : Inv (s.addWatch home granule w) := .foldl h fun _ _ hs => hs

theorem NextInv.execHandlerRemoteMonitorArm {r : Nat} (h : Inv s) : NextInv (execHandlerRemoteMonitorArm r s) :=
  .serve (fun _ _ hs => .reply (.addWatch hs)) h

theorem NextInv.execHandlerReductionRecall {r : Nat} (h : Inv s) : NextInv (execHandlerReductionRecall r s) :=
  .serve (fun _ _ hs => .reply (.recall hs)) h

/-! ### Agents -/

theorem Inv.modAgent {r : Nat} {f : Agent → Agent} (h : Inv s) : Inv (s.modAgent r f) := h

theorem Inv.returnRequest {r : Nat} {rq : Rpc} (h : Inv s) : Inv (s.returnRequest r rq) := .ite h h

/-- The state that the acceptance of a block leaves. -/
def MacInv : MacStart → Prop
  | .ok _ t => Inv t
  | _ => True

theorem MacInv.macReport {r : Nat} {used : Bool} {ga : Ptr} {k : State → Option (Ptr × Loc) → MacStart}
    (hk : ∀ s x, Inv s → MacInv (k s x)) (h : Inv s) : MacInv (s.macReport r used ga k) := by
  unfold State.macReport State.reportPlace
  split
  · split
    · rename_i e
      split at e
      · cases e
        exact hk _ _ h
      · exact hk _ _ (.of_place e h)
    · trivial
    · trivial
  · exact hk _ _ h

theorem MacInv.macStart {r x : Nat} {ga : Ptr} {rq : Option Rpc} (h : Inv s) : MacInv (s.macStart r x ga rq) := by
  unfold State.macStart
  split
  · trivial
  · exact .macReport (fun _ _ hs => .macReport (fun _ _ ht => ht) hs) h

theorem MacInv.mgo {r : Nat} (h : Inv s) : MacInv (s.mgo r) := by
  unfold State.mgo
  dsimp only
  split
  · trivial
  · exact .macStart h

theorem Inv.of_mac {x : MacStart} {p : MacProgram} (e : x = .ok p t) (h : MacInv x) : Inv t := by
  rw [e] at h
  exact h

theorem NextInv.execHandlerBankMacLaunch {r : Nat} (h : Inv s) : NextInv (execHandlerBankMacLaunch r s) := by
  refine .ite (.next h) (.serve (fun s rq hs => .ite (.refuse hs) (.ite (.reply hs) (.ite (.reply (.logUnreadable (.recall
    (.recall hs)))) ?_))) h)
  split
  · exact .reply (.recall (.recall hs))
  · rename_i e
    exact .modAgent (.of_mac e (.macStart (.recall (.recall hs))))
  · exact .noteWaiting (.returnRequest (.recall (.recall hs)))
  · exact .getD (.parkRequest (.returnRequest (.recall (.recall hs)))) (.returnRequest (.recall (.recall hs)))

theorem Inv.macRow {r : Nat} {p : MacProgram} {o : MacOp} {k : Nat} {all : Bool} (h : Inv s) : Inv (s.macRow r p o k all).1 :=
  .store (.foldl h fun _ _ hs => .recall hs)

theorem Inv.macStep {r : Nat} {p : MacProgram} (h : Inv s) : Inv (s.macStep r p).1 := by
  unfold State.macStep
  split
  · exact h
  · exact .macRow h

theorem NextInv.execBankMacProgramRun {r : Nat} (h : Inv s) : NextInv (execBankMacProgramRun r s) := by
  unfold Machine.execBankMacProgramRun
  split
  · exact .next h
  · exact .ite (.next h) (.ite (.next h) (.next (.modAgent (.macStep h))))

theorem Inv.writeReport {p : Option (Ptr × Loc)} {n v : Nat} (h : Inv s) : Inv (s.writeReport p n v) := by
  unfold State.writeReport
  split
  · exact .store (.recall h)
  · exact h

theorem NextInv.execBankMacComplete {r : Nat} (h : Inv s) : NextInv (execBankMacComplete r s) := by
  unfold Machine.execBankMacComplete
  split
  · exact .next h
  · refine .ite (.next h) ?_
    dsimp only
    split
    · exact .next (.modAgent (.reply (.modAgent (.ite (.modCore (.writeReport (.writeReport h))) (.logError (.modCore
        (.writeReport (.writeReport h))))))))
    · exact .next (.wakeAgent (.modAgent (.ite (.modCore (.writeReport (.writeReport h))) (.logError (.modCore (.writeReport
        (.writeReport h)))))))

theorem NextInv.execMgo {r : Nat} (h : Inv s) : NextInv (execMgo r s) := by
  refine .ite (.next h) ?_
  split
  · rename_i e
    exact .next (.modAgent (.of_mac e (.mgo h)))
  · exact .next (.modAgent h)
  · exact .next h
  · exact .next h

theorem SomeInv.moveOneRow {r : Nat} (h : Inv s) : SomeInv id (s.moveOneRow r) := by
  unfold State.moveOneRow
  dsimp only
  split
  · exact .ite (.some (.modAgent (.logUnreadable (.recall (.recall h))))) (.some (.modAgent (.store (.recall (.recall h)))))
  · exact .some h
  · exact .some h
  · exact .none

theorem SomeInv.scanRow {r : Nat} (h : Inv s) : SomeInv id (s.scanRow r) := by
  have hdone : ∀ (u : State) f, Inv u → SomeInv id (Option.some (u.modAgent r f)) := fun _ _ hu => .some (.modAgent hu)
  unfold State.scanRow
  lift_lets
  intro a l done
  split
  · refine .ite (hdone _ _ (.logUnreadable (.recall h))) ?_
    split
    · exact hdone _ _ (.recall h)
    · exact hdone _ _ (.recall h)
  · exact hdone _ _ h
  · exact .none

theorem SomeInv.unitStep {r : Nat} {u : AgentUnit} (h : Inv s) : SomeInv id (s.unitStep r u) := by
  unfold State.unitStep
  dsimp only
  split
  · exact .none
  · exact .ite (.some h) .none
  · exact .ite (.moveOneRow h) .none
  · exact .ite (.scanRow h) .none

theorem NextInv.execAgentUnitComplete {r : Nat} {u : AgentUnit} (h : Inv s) : NextInv (execAgentUnitComplete r u s) := by
  unfold Machine.execAgentUnitComplete
  split
  · rename_i e
    exact .next (.ite (.of_some e (.unitStep h)) (.wakeAgent (.of_some e (.unitStep h))))
  · exact .next h

theorem NextInv.execBankLockExpiry {r : Nat} (h : Inv s) : NextInv (execBankLockExpiry r s) := .ite (.next h) (.next (.ite h h))

theorem NextInv.execVDataRead {r : Nat} {d : Reg} (h : Inv s) : NextInv (execVDataRead r d s) :=
  .ite (.next h) (.next (.modThAt (.modAgent (.recall h))))

theorem NextInv.execVDataWrite {r : Nat} {v : Word} (h : Inv s) : NextInv (execVDataWrite r v s) :=
  .ite (.next h) (.next (.modAgent (.store (.recall h))))

theorem KeepsInv.needAgent {i : Instr} : KeepsInv (needAgent i) := .get fun _ _ => .ite .illegal .pure

theorem KeepsInv.myAgent : KeepsInv myAgent := .get fun _ _ => .pure

theorem KeepsInv.updAgent {f : Agent → Agent} : KeepsInv (updAgent f) := .upd fun _ hs => hs

theorem KeepsInv.portTrap : KeepsInv portTrap := by
  refine .bind .myAgent fun _ => ?_
  split
  · exact .raise
  · exact .pure

theorem KeepsInv.waitIdle {busy : Bool} : KeepsInv (waitIdle busy) := .ite .stall .pure

theorem KeepsInv.startMac : KeepsInv startMac := by
  refine .get fun _ hs => .bind .waitIdle fun _ => ?_
  split
  · rename_i e
    exact .set (.modAgent (.of_mac e (.mgo hs)))
  · exact .updAgent
  · exact .bind (.upd fun _ ht => .noteWaiting ht) fun _ => .stall
  · exact .throw

theorem KeepsInv.writePort {i : Instr} {port : Nat} {v : Word} : KeepsInv (writePort i port v) := by
  refine .bind .myAgent fun _ => ?_
  split
  case h_2 => exact .startMac
  case h_5 => exact .bind .waitIdle fun _ => .updAgent
  case h_8 => exact .bind .waitIdle fun _ => .updAgent
  case h_10 => exact .bind .portTrap fun _ => .get fun _ _ => .bind .writeAt fun _ => .updAgent
  case h_11 =>
    refine .ite ?_ .illegal
    dsimp only
    split
    · exact .updAgent
    · exact .updAgent
    · exact .bind .waitIdle fun _ => .updAgent
    · exact .illegal
  all_goals exact .updAgent

theorem KeepsInv.readPort {i : Instr} {port : Nat} : KeepsInv (readPort i port) := by
  refine .bind .myAgent fun _ => ?_
  split
  · exact .pure
  · exact .bind .waitIdle fun _ => .pure
  · exact .bind .portTrap fun _ => .get fun _ _ => .bind .readAt fun _ => .bind .updAgent fun _ => .pure
  · exact .ite (.bind .waitIdle fun _ => .bind .updAgent fun _ => .pure) .illegal

theorem NextInv.execMvp {f : FmtP} (h : Inv s) : NextInv (execMvp f s) :=
  .run (.bind .needAgent fun _ => .bind .thread fun _ => .writePort) h

theorem NextInv.execMvr {f : FmtP} (h : Inv s) : NextInv (execMvr f s) :=
  .run (.bind .needAgent fun _ => .bind .readPort fun _ => .updTh) h

theorem NextInv.execMvi {f : FmtP} (h : Inv s) : NextInv (execMvi f s) := .run (.bind .needAgent fun _ => .writePort) h

theorem NextInv.execTrig {f : FmtP} (h : Inv s) : NextInv (execTrig f s) := by
  refine .run (.bind .needAgent fun _ => .bind .myAgent fun _ => ?_) h
  split
  · exact .illegal
  · exact .bind .waitIdle fun _ => .updTh

theorem NextInv.execAbank {f : FmtP} (h : Inv s) : NextInv (execAbank f s) :=
  .run (.bind .needAgent fun _ => .get fun _ _ => .ite .updAgent (.ite .stop .updAgent)) h

theorem Inv.agentReply {r : Nat} {st : Word} (h : Inv s) : Inv (s.agentReply r st) := by
  unfold State.agentReply
  split
  · exact h
  · exact .modAgent (.replyWith h)

theorem NextInv.execAreply {f : FmtP} (h : Inv s) : NextInv (execAreply f s) :=
  .run (.bind .needAgent fun _ => .bind .myAgent fun _ => .ite .stop (.upd fun _ hs => .agentReply hs)) h

theorem NextInv.execAnext {f : FmtP} (h : Inv s) : NextInv (execAnext f s) := by
  refine .run (.bind .needAgent fun _ => .get fun _ _ => ?_) h
  dsimp only
  split
  · exact .ite (.bind (.upd fun _ hu => hu) fun _ => .finish) (.bind (.upd fun _ hu => .reply hu) fun _ => .bind
      (.upd fun _ hu => hu) fun _ => .finish)
  · exact .bind (.upd fun _ hu => hu) fun _ => .finish

theorem Inv.startHandler {r : Nat} {rq : Rpc} {entry : Nat} (h : Inv s) : Inv (s.startHandler r rq entry) :=
  .modThAt (.modAgent (.poke (.poke h)))

theorem NextInv.execLoadedHandler {r : Nat} (h : Inv s) : NextInv (execLoadedHandler r s) := by
  unfold Machine.execLoadedHandler
  split
  · exact .next h
  · exact .ite (.next h) (.ite (.next (.refresh h)) (.ite (.next (.forward h)) (.ite (.next (.refuse (.takeRequest h))) (.ite
      (.next (.refuse (.takeRequest h))) (.ite (.next (.refuse (.takeRequest h))) (.next (.startHandler (.takeRequest h))))))))

/-! ### Memory maintenance -/

theorem Inv.modVault {r : Nat} {f : Vault → Vault} (h : Inv s) : Inv (s.modVault r f) := h

theorem Inv.markRepair {r row : Nat} (h : Inv s) : Inv (s.markRepair r row) := .ite h (.ite h (.logError h))

theorem NextInv.execTesterBurstEnd {r : Nat} (h : Inv s) : NextInv (execTesterBurstEnd r s) := by
  unfold Machine.execTesterBurstEnd
  split
  · exact .next h
  · exact .ite (.next (.markRepair h)) (.next h)

theorem Inv.finishRepair {r row : Nat} (h : Inv s) : Inv (s.finishRepair r row) := .logError h

theorem NextInv.execRowRepair {r row : Nat} (h : Inv s) : NextInv (execRowRepair r row s) :=
  .ite (.next h) (.ite (.next (.finishRepair h)) (.next (.markRepair h)))

theorem Inv.modDie {d : Nat} {f : Die → Die} (h : Inv s) : Inv (s.modDie d f) := h

theorem NextInv.execReductionFlush {r : Nat} (h : Inv s) : NextInv (execReductionFlush r s) := by
  unfold Machine.execReductionFlush
  split
  · exact .next h
  · exact .next (.applyRed h)

theorem NextInv.execReductionRecall {r granule : Nat} (h : Inv s) : NextInv (execReductionRecall r granule s) := .next (.recall h)

/-! ### Control registers -/

theorem Inv.setSpkey {rank : Nat} {k : Word} (h : Inv s) : Inv (s.setSpkey rank k) := by
  unfold State.setSpkey
  dsimp only
  split
  · exact .modCore h
  · exact Memory.wf_rekey h _ _ _ _

theorem Inv.setHqg {q : Nat} {v : Word} (h : Inv s) : Inv (s.setHqg q v) := .ite (.wipe h) h

theorem Inv.crWrite {w : Turn} {r : Cr} {v : Word} (h : Inv s) : Inv (s.crWrite w r v) := by
  unfold State.crWrite
  dsimp only
  split
  case h_23 => exact .setSpkey h
  case h_33 => exact .setHqg h
  all_goals exact h

theorem KeepsInv.crFind {i : Instr} {f : FmtC} {writes : Bool} : KeepsInv (crFind i f writes) := by
  refine .get fun _ _ => .ite .stop ?_
  split
  · exact .pure
  · exact .illegal

theorem NextInv.execCrrd {f : FmtC} (h : Inv s) : NextInv (execCrrd f s) :=
  .run (.bind .crFind fun _ => .get fun _ _ => .get fun _ _ => .updTh) h

theorem NextInv.execCrwr {f : FmtC} (h : Inv s) : NextInv (execCrwr f s) :=
  .run (.bind .crFind fun _ => .get fun _ _ => .get fun _ _ => .ite .stop (.upd fun _ hv => .crWrite hv)) h

theorem NextInv.execCrxch {f : FmtC} (h : Inv s) : NextInv (execCrxch f s) :=
  .run (.bind .crFind fun _ => .get fun _ _ => .get fun _ _ => .ite .stop (.get fun _ _ => .get fun _ _ => .bind
      (.upd fun _ hx => .crWrite hx) fun _ => .updTh)) h

theorem NextInv.registerEvent {rank n num : Nat} {v : Word} (h : Inv s) : NextInv (registerEvent rank n num v s) := by
  unfold Machine.registerEvent
  dsimp only
  split
  · exact .ite (.next h) (.next (.crWrite h))
  · exact .next h

theorem NextInv.execSrseedWrite {r n : Nat} {v : Word} (h : Inv s) : NextInv (execSrseedWrite r n v s) := .registerEvent h

theorem NextInv.execFpctlWrite {r n : Nat} {v : Word} (h : Inv s) : NextInv (execFpctlWrite r n v s) := .registerEvent h

theorem NextInv.execPtbaseWrite {r : Nat} {v : Word} (h : Inv s) : NextInv (execPtbaseWrite r v s) := .registerEvent h

theorem NextInv.execErrinjWrite {r n : Nat} {v : Word} (h : Inv s) : NextInv (execErrinjWrite r n v s) := by
  unfold Machine.execErrinjWrite
  split
  · exact .ite (.registerEvent h) (.next h)
  · exact .next h

theorem NextInv.execSpkeyWrite {r : Nat} {v : Word} (h : Inv s) : NextInv (execSpkeyWrite r v s) := .registerEvent h

theorem NextInv.execHqgWrite {q : Nat} {v : Word} (h : Inv s) : NextInv (execHqgWrite q v s) := .next (.setHqg h)

theorem NextInv.execSlotDoorbell {r n : Nat} {v : Word} (h : Inv s) : NextInv (execSlotDoorbell r n v s) := .next (.doorbell h)

/-! ### Networks of trees -/

theorem NextInv.net {i : Instr} {bcast : Bool} {f : FmtNet} (h : Inv s) : NextInv (net i bcast f s) :=
  .run (.ite .stop (.get fun _ _ => .ite .stop (.ite .stop (.bind (.upd fun _ hu => hu) fun _ => .updTh)))) h

theorem Inv.endNet {c : Contribution} (h : Inv s) : Inv (s.endNet c) := h

theorem Inv.netTimeout {c : Contribution} (h : Inv s) : Inv (s.netTimeout c) := .ite h h

theorem Inv.deliverNet {crown : Nat} {v : VReg × Bool} {c : Contribution} (h : Inv s) : Inv (s.deliverNet crown v c) :=
  .ite (.netTimeout h) (.endNet (.ite (.raiseNv (.ite h h)) (.ite h h)))

theorem NextInv.execNetredRoundComplete {tree : Nat} (h : Inv s) : NextInv (execNetredRoundComplete tree s) := by
  unfold Machine.execNetredRoundComplete
  split
  · exact .next h
  · refine .ite (.next (.netTimeout h)) ?_
    dsimp only
    split
    · exact .next h
    · split
      · exact .next h
      · exact .next (.foldl h fun _ _ hs => .deliverNet hs)

/-! ### Engines -/

theorem KeepsInv.engineOf {n : Fin 128} : KeepsInv (engineOf n) := by
  refine .get fun _ _ => .ite ?_ (.ite .throw (.ite .pure .raise))
  split
  · exact .pure
  · exact .raise

theorem Inv.readIndex {c : Cmd} (h : Inv s) : Inv (s.readIndex c) := .ite (.corrected (.recall h)) h

theorem Inv.holdBuffers {c : Cmd} (h : Inv s) : Inv (s.holdBuffers c).1 := by
  unfold State.holdBuffers
  split
  · exact .foldl h fun _ _ hs => hs
  · exact h

theorem Inv.acceptCmd {e : Nat} {c : Cmd} (h : Inv s) : Inv (s.acceptCmd e c) := .setEngine (.holdBuffers (.readIndex h))

theorem NextInv.execEcmd {f : FmtE} (h : Inv s) : NextInv (execEcmd f s) :=
  .run (.bind .engineOf fun _ => .get fun _ _ => .ite .stop (.ite .stop (.ite .stop (.bind .readAt fun _ => .ite .stop
      (.ite .stop (.ite .stop (.when (.upd fun _ hu => .fenceFlush hu) (.bind .updTh fun _ => .bind
      (.upd fun _ hu => .acceptCmd hu) fun _ => .updTh)))))))) h

theorem NextInv.execEngineCommandActivate {e : Nat} (h : Inv s) : NextInv (execEngineCommandActivate e s) := .next h

theorem NextInv.execEqry {f : FmtE} (h : Inv s) : NextInv (execEqry f s) := .run (.bind .engineOf fun _ => .get fun _ _ => .updTh) h

theorem Inv.cancelAll {e : Nat} {l : List Cmd} (h : Inv s) : Inv (s.cancelAll e l) := .foldl h fun _ _ hs => .endCommand hs

theorem Inv.leaveTree {e : Nat} (h : Inv s) : Inv (s.leaveTree e) := .of_wf (Inv.foldl h fun _ _ hs => .foldl hs fun _ _ hu => hu)

theorem Inv.endActive {e can cause : Nat} (h : Inv s) : Inv (s.endActive e can cause) := by
  unfold State.endActive
  split
  · exact .retireActive (.leaveTree h)
  · exact h

theorem Inv.cancelOn {e : Nat} {p : Cmd → Bool} (h : Inv s) : Inv (s.cancelOn e p) := by
  unfold State.cancelOn
  dsimp only
  split
  · exact .ite (.endActive (.cancelAll h)) (.cancelAll h)
  · exact .cancelAll h

theorem NextInv.execEcan {f : FmtE} (h : Inv s) : NextInv (execEcan f s) :=
  .run (.get fun _ _ => .ite (.bind .engineOf fun _ => .bind .pure fun _ => .ite (.bind
      (.upd fun _ hu => .foldl hu fun _ _ hv => .cancelOn hv) fun _ => .stop) (.ite .stop .updTh)) (.bind .engineOf fun _ =>
      .bind .pure fun _ => .ite (.bind (.upd fun _ hu => .foldl hu fun _ _ hv => .cancelOn hv) fun _ => .stop) (.ite .stop .updTh))) h

theorem Inv.markLeaf {x : Leaf} {dirty : Bool} (h : Inv s) : Inv (s.markLeaf x dirty) :=
  .ite (.orLeaf (.ite h (.orLeaf h))) (.ite h (.orLeaf h))

theorem OkInv.enginePlace {c : Cmd} {ga : Ptr} {n align : Nat} {acc : Access} (h : Inv s) :
    OkInv Prod.snd (s.enginePlace c ga n align acc) := by
  unfold State.enginePlace
  split
  · exact .error
  · refine .ite .error (.ite .error (.ite (.snd h) ?_))
    split
    · exact .error
    · exact .error
    · exact .ite .error (.ite .error (.ite .error (.snd (.markLeaf h))))

theorem OkInv.engineReach {c : Cmd} {ga : Ptr} {n align : Nat} {acc : Access} (h : Inv s) :
    OkInv Prod.snd (s.engineReach c ga n align acc) := by
  unfold State.engineReach
  split
  · exact .error
  · rename_i e
    refine .ite .error ?_
    split
    · exact .ite .error (.snd (.of_ok_snd e (.enginePlace h)))
    · exact .error
    · exact .error

theorem OkInv.placePieces {c : Cmd} {l : List Run} (h : Inv s) : OkInv Prod.snd (s.placePieces c l) := by
  induction l generalizing s with
  | nil => exact .ok h
  | cons x l ih =>
    have hfrom : OkInv Prod.snd (if c.code = 5 then Except.ok (none, s)
        else match s.engineReach c (c.src.add (word x.src)) x.len 8 .engineRead with
          | .ok (l, s) => .ok (some l, s)
          | .error e => .error e) := by
      refine .ite (.ok h) ?_
      split
      · rename_i e
        exact .snd (.of_ok_snd e (.engineReach h))
      · exact .error
    unfold State.placePieces
    dsimp only
    split
    · exact .error
    · rename_i e
      split
      · exact .error
      · rename_i e1
        split
        · exact .error
        · rename_i e2
          exact .snd (.of_ok_snd e2 (ih (.of_ok_snd e1 (.engineReach (.of_ok_snd e hfrom)))))

theorem Inv.markStackAt {c : Cmd} {l : Loc} (h : Inv s) : Inv (s.markStackAt c l) := .ite h h

theorem Inv.movePiece {c : Cmd} {m : Moved} (h : Inv s) : Inv (s.movePiece c m) := by
  refine .markStackAt (.store (.recall ?_))
  split
  · exact .corrected (.recall h)
  · exact h

theorem SomeInv.parkCmd {e : Nat} {c : Cmd} {ga : Ptr} {cause : Cause} {reason : Nat} (h : Inv s) :
    SomeInv id (s.parkCmd e c ga cause reason) := by
  unfold State.parkCmd
  split
  · exact .none
  · refine .ite .none ?_
    split
    · exact .none
    · rename_i e2
      exact .some (.setEngine (.of_some_snd e2 (.appendFault h)))

theorem SomeInv.engineWaits {l : Loc} (h : Inv s) : SomeInv id (s.engineWaits l) := .ite (.some (.noteWaiting h)) .none

theorem SomeInv.engineStop {e : Nat} {c : Cmd} {f : EngineStop} (h : Inv s) : SomeInv id (s.engineStop e c f) := by
  unfold State.engineStop
  split
  · exact .some (.endActive h)
  · exact .parkCmd h
  · exact .engineWaits h

theorem SomeInv.enginePage {e : Nat} (h : Inv s) : SomeInv id (s.enginePage e) := by
  unfold State.enginePage
  split
  · exact .none
  · refine .ite .none (.ite (.some (.endActive h)) ?_)
    split
    · exact .some (.endActive h)
    · split
      · exact .some (.endActive h)
      · refine .ite (.some (.endActive h)) ?_
        split
        · exact .engineStop h
        · rename_i e6
          split
          · exact .some (.endActive (.logUnreadable (.of_ok_snd e6 (.placePieces h))))
          · exact .ite (.some (.endActive (.setEngine (.foldl (.of_ok_snd e6 (.placePieces h)) fun _ _ hs => .movePiece hs))))
              (.some (.setEngine (.foldl (.of_ok_snd e6 (.placePieces h)) fun _ _ hs => .movePiece hs)))

theorem NextInv.execEnginePage {e : Nat} (h : Inv s) : NextInv (execEnginePage e s) := .next (.getD (.enginePage h) h)

theorem Inv.enginePages {e n : Nat} (h : Inv s) : Inv (s.enginePages e n) := by
  induction n generalizing s with
  | zero => exact h
  | succ n ih =>
    unfold State.enginePages
    split
    · rename_i e0
      have ht := Inv.of_some e0 (.enginePage h)
      exact .ite (ih ht) ht
    · exact h

theorem NextInv.pagedEvent {code e : Nat} (h : Inv s) : NextInv (pagedEvent code e s) := by
  unfold Machine.pagedEvent
  split
  · exact .next (.enginePages h)
  · exact .next h

theorem OkInv.placeBuffer {c : Cmd} {acc : Access} {l : List (Ptr × Nat)} (h : Inv s) : OkInv Prod.snd (s.placeBuffer c acc l) := by
  induction l generalizing s with
  | nil => exact .ok h
  | cons p l ih =>
    unfold State.placeBuffer
    split
    · exact .error
    · rename_i e
      split
      · exact .error
      · rename_i e1
        exact .snd (.of_ok_snd e1 (ih (.of_ok_snd e (.engineReach h))))

theorem OkInv.memberPlaces {c : Cmd} {crown : Bool} (h : Inv s) : OkInv (fun x => x.2.2) (s.memberPlaces c crown) := by
  unfold State.memberPlaces
  split
  · exact .error
  · rename_i e0
    split
    · exact .error
    · rename_i e2
      exact .ok (.of_ok_snd e2 (.placeBuffer (.of_ok_snd e0 (.placeBuffer h))))

theorem SomeInv.joinColl {e : Nat} {c : Cmd} (h : Inv s) : SomeInv id (s.joinColl e c) := by
  unfold State.joinColl
  dsimp only
  split
  all_goals
    refine .ite (.some (.endActive h)) ?_
    split
    · exact .engineStop h
    · rename_i e
      have ht := Inv.of_ok_snd_snd e (.memberPlaces h)
      exact .some (.of_wf (Inv.foldl (.foldl ht fun _ _ hs => .holdPage hs) fun _ _ hs => .unhold hs))

theorem Inv.writeBuffer {c : Cmd} {v : Nat} {l : List (Loc × Nat)} (h : Inv s) : Inv (s.writeBuffer c v l) := by
  induction l generalizing s v with
  | nil => exact h
  | cons p l ih => exact ih (.markStackAt (.store (.recall h)))

theorem OkInv.roundPlaces {crown : Nat} {l : List (Nat × Nat × Cmd)} (h : Inv s) : OkInv Prod.snd (s.roundPlaces crown l) := by
  induction l generalizing s with
  | nil => exact .ok h
  | cons p l ih =>
    unfold State.roundPlaces
    split
    · exact .error
    · rename_i e
      split
      · exact .error
      · rename_i e1
        exact .snd (.of_ok_snd e1 (ih (.of_ok_snd_snd e (.memberPlaces h))))

theorem SomeInv.finishColl {crown : Nat} {cfg : Machine.Tree} {c : Cmd} {l : List (Nat × Nat × Cmd)} (h : Inv s) :
    SomeInv id (s.finishColl crown cfg c l) := by
  unfold State.finishColl
  split
  · exact .engineStop h
  · rename_i e
    split
    · exact .some (.endActive (.logUnreadable (.of_ok_snd e (.roundPlaces h))))
    · exact .some (.foldl (.foldl (.foldl (.of_ok_snd e (.roundPlaces h)) fun _ _ hs => .foldl hs fun _ _ hu => .corrected
        (.recall hu)) fun _ _ hs => .writeBuffer hs) fun _ _ hs => .endActive hs)

theorem SomeInv.collStep {e : Nat} (h : Inv s) : SomeInv id (s.collStep e) := by
  unfold State.collStep
  split
  · exact .none
  · refine .ite (.some (.endActive h)) (.ite (.some (.endActive h)) (.ite (.some (.endActive h)) ?_))
    split
    · exact .joinColl h
    · refine .ite (.some (.endActive h)) ?_
      split
      · exact .finishColl h
      · exact .none

theorem NextInv.execCmdCopy {e : Nat} (h : Inv s) : NextInv (execCmdCopy e s) := by
  unfold Machine.execCmdCopy
  split
  · exact .next (.getD (.collStep h) h)
  · exact .pagedEvent h

theorem NextInv.execCmdCollectiveReduce {e : Nat} (h : Inv s) : NextInv (execCmdCollectiveReduce e s) := by
  unfold Machine.execCmdCollectiveReduce
  split
  · exact .next (.getD (.collStep h) h)
  · exact .next h

theorem Inv.markShot {e : Nat} {c : Cmd} (h : Inv s) : Inv (s.markShot e c) := h

theorem SomeInv.launchStep {e : Nat} (h : Inv s) : SomeInv id (s.launchStep e) := by
  unfold State.launchStep
  split
  · exact .none
  · refine .ite (.some (.endActive h)) ?_
    split
    · exact .engineStop h
    · rename_i e2
      exact .some (.deliver (.markShot (.of_ok_snd e2 (.enginePlace h))))

theorem NextInv.execCmdBankMacLaunch {e : Nat} (h : Inv s) : NextInv (execCmdBankMacLaunch e s) := .next (.getD (.launchStep h) h)

theorem SomeInv.moveStep {e : Nat} (h : Inv s) : SomeInv id (s.moveStep e) := by
  unfold State.moveStep
  split
  · exact .none
  · refine .ite (.some (.endActive h)) (.ite (.some (.retireActive h)) ?_)
    split
    · exact .engineWaits h
    · exact .some (.retireActive h)
    · exact .ite (.some (.retireActive h)) (.some (.deliver h))

theorem NextInv.execCmdPageMigrateMove {e : Nat} (h : Inv s) : NextInv (execCmdPageMigrateMove e s) := .next (.getD (.moveStep h) h)

/-! ### Launches and gangs -/

theorem Inv.toJoin {x : BitVec 16} {fail : Option (BitVec 8)} {sig : Bool} (h : Inv s) : Inv (s.toJoin x fail sig) := by
  unfold State.toJoin
  split <;> exact h

theorem Inv.settleJoin {j : Nat} (h : Inv s) : Inv (s.settleJoin j) := .ite h h

theorem Inv.failJoin {x : BitVec 16} {c : BitVec 8} {sig : Bool} (h : Inv s) : Inv (s.failJoin x c sig) := by
  unfold State.failJoin
  split
  · exact h
  · exact .of_wf (Inv.settleJoin h)

theorem NextInv.execJoinSignal {j : Nat} (h : Inv s) : NextInv (execJoinSignal j s) := by
  unfold Machine.execJoinSignal
  split <;> exact .next h

theorem NextInv.execJoinFailure {j : Nat} {c : Cause} (h : Inv s) : NextInv (execJoinFailure j c s) := by
  unfold Machine.execJoinFailure
  split
  · exact .ite (.next h) (.next h)
  · exact .next h

theorem Inv.freezeQueue {q : Nat} {c : BitVec 8} (h : Inv s) : Inv (s.freezeQueue q c) := by
  refine .ite h ?_
  split
  · exact .raiseIrq h
  · exact h

theorem Inv.putTerm {launch : Nat} {t : Term} (h : Inv s) : Inv (s.putTerm launch t) := by
  unfold State.putTerm
  dsimp only
  split
  · exact .store h
  · exact h

theorem Inv.reportFailure {launch : Nat} {cause : BitVec 8} (h : Inv s) : Inv (s.reportFailure launch cause) := by
  unfold State.reportFailure
  split
  · exact h
  · dsimp only
    split
    · split
      · exact .of_wf (Inv.putTerm h)
      · exact .putTerm h
    · exact .freezeQueue (.putTerm (.failJoin h))

theorem Inv.countEnded {q : Nat} (h : Inv s) : Inv (s.countEnded q) := h

theorem Inv.terminate {launch : Nat} {t : Term} (h : Inv s) : Inv (s.terminate launch t) := by
  unfold State.terminate
  split
  · dsimp only
    split <;> exact h
  · exact .countEnded (.of_wf (Inv.toJoin h))

theorem NextInv.execWeightReturn (h : Inv s) : NextInv (execWeightReturn s) := by
  unfold Machine.execWeightReturn
  dsimp only
  split
  · split
    · exact .next h
    · exact .ite (.next (.terminate h)) (.next (.putTerm h))
  · exact .next h

theorem NextInv.execTopupMessage (h : Inv s) : NextInv (execTopupMessage s) := by
  unfold Machine.execTopupMessage
  dsimp only
  split
  · split
    · exact .next h
    · exact .next (.putTerm h)
  · exact .next h

theorem NextInv.execSpawnTopupAck {r n : Nat} (h : Inv s) : NextInv (execSpawnTopupAck r n s) := by
  unfold Machine.execSpawnTopupAck
  dsimp only
  split <;> exact .next h

theorem Inv.enqueue {rank : Nat} {k : Machine.Task} (h : Inv s) : Inv (s.enqueue rank k) :=
  .ite (.modCore (.wakeBand h)) (.makeReady (.wakeBand h))

theorem Inv.newTask {rank : Nat} {k : Machine.Task} (h : Inv s) : Inv (s.newTask rank k) := .enqueue h

theorem Inv.newTerm {p q : Nat} {sig : BitVec 16} {copy : Option (Nat × Nat)} (h : Inv s) : Inv (s.newTerm p q sig copy).2 :=
  .putTerm h

theorem Inv.startSingle {p q : Nat} {x : Machine.Partition} {rec : BitVec 512} (h : Inv s) : Inv (s.startSingle p q x rec) := by
  unfold State.startSingle
  split
  · exact h
  · exact .newTask (.newTerm h)

theorem Inv.startGang {p q : Nat} {x : Machine.Partition} {rec : BitVec 512} (h : Inv s) : Inv (s.startGang p q x rec) :=
  .foldl (.of_wf (Inv.newTerm h)) fun _ _ hs => hs

theorem Inv.startCopy {l k r : Nat} {d : Redundant} (h : Inv s) : Inv (s.startCopy l k r d) := .of_wf (Inv.newTask (.newTerm h))

theorem SomeInv.startRedundant {p q : Nat} {x : Machine.Partition} {rec : BitVec 512} (h : Inv s) :
    SomeInv id (s.startRedundant p q x rec) := by
  unfold State.startRedundant
  dsimp only
  split
  · exact .none
  · refine .ite .none ?_
    split
    · exact .none
    · split
      · exact .some (.startCopy (.startCopy h))
      · exact .some (.startCopy h)

theorem Inv.failRecord {q : Nat} {x : Machine.Partition} {rec : BitVec 512} (h : Inv s) : Inv (s.failRecord q x rec) :=
  .freezeQueue (.ite h (.failJoin h))

theorem Inv.cancel {rec : BitVec 512} {c : BitVec 8} (h : Inv s) : Inv (s.cancel rec c) := .toJoin h

theorem Inv.dispatchRecord {p q : Nat} {x : Machine.Partition} {rec : BitVec 512} (h : Inv s) : Inv (s.dispatchRecord p q x rec) := by
  refine .ite (.failRecord h) ?_
  split
  · exact .cancel h
  · exact .ite (.getD (.startRedundant h) (.failRecord h)) (.ite (.startGang h) (.startSingle h))

theorem Inv.putRecs {q : Nat} {y : WorkQueue} (h : Inv s) : Inv (s.putRecs q y) := by
  unfold State.putRecs
  dsimp only
  split
  · exact h
  · split
    · exact h
    · split
      · exact h
      · exact .foldl h fun _ _ hs => .store hs

theorem Inv.noteAll (h : Inv s) : Inv s.noteAll := .foldl h fun _ _ hs => hs

theorem SomeInv.choose {x : Machine.Partition} {e : List (Nat × BitVec 512)} (h : Inv s) :
    SomeInv (fun x => x.2.2.2) (s.choose x e) := by
  unfold State.choose
  split
  · exact .none
  · dsimp only
    split
    · exact .some (.ite (.foldl h fun _ _ hs => hs) h)
    · exact .some (.ite (.foldl h fun _ _ hs => hs) h)
    · exact .none

theorem NextInv.execDispatch {p : Nat} (h : Inv s) : NextInv (execDispatch p s) := by
  unfold Machine.execDispatch
  split
  · exact .next h
  · refine .ite (.next h) ?_
    dsimp only
    split
    · exact .next h
    · rename_i e
      exact .next (.dispatchRecord (.of_wf (Inv.putRecs (.of_some_snd_snd_snd e (.choose h)))))

theorem Inv.commitImage {x : Machine.Partition} {d : Redundant} {k : Nat} (h : Inv s) : Inv (s.commitImage x d k) := by
  refine .foldl h fun _ _ hs => ?_
  split
  · exact .store (.recall hs)
  · exact hs

theorem Inv.endRedundant {l : Nat} {d : Redundant} {result : Nat} (h : Inv s) : Inv (s.endRedundant l d result) :=
  .countEnded (.toJoin (.ite (.freezeQueue (.failJoin (.of_wf (Inv.store h)))) (.of_wf (Inv.store h))))

theorem Inv.logBlock {x : Machine.Partition} {d : Redundant} {kind detail : Nat} (h : Inv s) : Inv (s.logBlock x d kind detail) :=
  .logError h

theorem NextInv.execRedundantCompare {l : Nat} (h : Inv s) : NextInv (execRedundantCompare l s) := by
  unfold Machine.execRedundantCompare
  split
  · exact .next h
  · refine .ite (.next h) ?_
    split
    · exact .next h
    · refine .ite (.ite (.next (.endRedundant (.commitImage h))) (.ite (.next h) ?_)) (.ite (.next (.endRedundant
        (.commitImage h))) (.ite (.next (.endRedundant (.commitImage h))) (.next (.endRedundant (.logBlock h)))))
      dsimp only
      split <;> exact .next (.startCopy (.logBlock h))

theorem NextInv.execLrec {port q off size : Nat} {rec : BitVec 512} (h : Inv s) : NextInv (execLrec port q off size rec s) :=
  .ite (.next h) (.next (.putRecs h))

theorem NextInv.execQctlFlush {port q : Nat} (h : Inv s) : NextInv (execQctlFlush port q s) :=
  .ite (.next (.setQueue (.foldl h fun _ _ hs => .failJoin hs))) (.next h)

/-! ### Host ports -/

theorem Inv.logParts {p : Machine.Partition → Bool} {kind : Nat} {addr : Word} {detail : Nat} (h : Inv s) :
    Inv (s.logParts p kind addr detail) := .foldl h fun _ _ hs => .logError hs

theorem NextInv.execHostDoorbell {port p : Nat} {v : Word} (h : Inv s) : NextInv (execHostDoorbell port p v s) := by
  unfold Machine.execHostDoorbell
  split
  · exact .next h
  · exact .ite (.next (.raiseIrq (.store (.recall (.wakeBand h))))) (.next h)

theorem Inv.modPort {port : Nat} {f : Port → Port} (h : Inv s) : Inv (s.modPort port f) := h

theorem NextInv.execVaultWindowRead {port r off : Nat} (h : Inv s) : NextInv (execVaultWindowRead port r off s) :=
  .ite (.next h) (.ite (.next (.noteWaiting h)) (.ite (.next (.modPort (.logUnreadable (.recall h)))) (.next (.modPort
      (.corrected (.recall h))))))

theorem NextInv.execVaultWindowWrite {port r off : Nat} {v : Word} (h : Inv s) : NextInv (execVaultWindowWrite port r off v s) :=
  .ite (.next h) (.ite (.next (.noteWaiting h)) (.next (.modPort (.store (.recall h)))))

theorem NextInv.execLtolWrite {port p : Nat} {v : Word} (h : Inv s) : NextInv (execLtolWrite port p v s) := by
  refine .ite ?_ (.next h)
  dsimp only
  split
  · exact .next (.foldl h fun _ _ hs => .ite (.wakeBand hs) hs)
  · exact .next h

theorem NextInv.execHostPortTraining {port ver : Nat} (h : Inv s) : NextInv (execHostPortTraining port ver s) :=
  .ite (.next h) (.ite (.next h) (.next (.logParts h)))

theorem NextInv.execSecondTierPortDown {port : Nat} (h : Inv s) : NextInv (execSecondTierPortDown port s) :=
  .ite (.next (.logParts h)) (.next h)

theorem NextInv.execSecondTierPortUp {port ver : Nat} (h : Inv s) : NextInv (execSecondTierPortUp port ver s) :=
  .ite (.next h) (.ite (.next h) (.next (.logParts h)))

theorem NextInv.execLinkRateLower {l : Nat} (h : Inv s) : NextInv (execLinkRateLower l s) := by
  unfold Machine.execLinkRateLower
  dsimp only
  split
  · exact .ite (.next (.logParts h)) (.next h)
  · exact .next h

theorem Inv.cutFabric (h : Inv s) : Inv s.cutFabric := by
  refine .foldl (.foldl h fun _ _ hs => .ite (.refuse (.takeRequest hs)) hs) fun _ _ hs => ?_
  split
  · exact .ite hs hs
  · exact hs

theorem NextInv.execLinkDown {l : Nat} (h : Inv s) : NextInv (execLinkDown l s) :=
  .ite (.next (.ite (.logParts h) (.cutFabric (.logParts h)))) (.next h)

/-! ### Power -/

theorem Inv.restBand {b lvl : Nat} (h : Inv s) : Inv (s.restBand b lvl) := .ite (.foldl h fun _ _ hs => hs) h

theorem NextInv.execPowerStateEntry {b lvl : Nat} (h : Inv s) : NextInv (execPowerStateEntry b lvl s) :=
  .ite (.next (.of_wf (Inv.foldl h fun _ _ hs => .restBand hs))) (.next h)

theorem NextInv.execWakeEvent {b : Nat} (h : Inv s) : NextInv (execWakeEvent b s) := .ite (.next (.wakeBand h)) (.next h)

theorem NextInv.execWakeComplete {b : Nat} (h : Inv s) : NextInv (execWakeComplete b s) :=
  .ite (.next (.of_wf (Inv.foldl h fun _ _ hs => .ite hs (.modBand hs)))) (.next h)

theorem NextInv.execThermalHoldRelease {die : Nat} (h : Inv s) : NextInv (execThermalHoldRelease die s) := by
  have hheld : ∀ (l : List Nat) n, Inv (l.foldl (fun s b =>
      if (lookup s.bands b).isSome then s.modBand b (fun z => { z with hold := z.hold + n }) else s) s) :=
    fun _ _ => .foldl h fun _ _ hs => .ite (.modBand hs) hs
  unfold Machine.execThermalHoldRelease
  split
  · exact .next h
  · refine .next (.modDie ?_)
    unfold Inv
    dsimp only
    exact hheld (s.dieBands die) _

/-! ### Checkpoints and errors -/

theorem Inv.putCells {l : Loc} {n : Nat} {cells : List Host.Cell} (h : Inv s) : Inv (s.putCells l n cells) :=
  Memory.wf_foldl_write _ _ _ (Memory.wf_clear h _ _)

theorem Inv.failTask {r : Nat} {k : Machine.Task} {c : BitVec 8} (h : Inv s) : Inv (s.failTask r k c) :=
  .reportFailure (.modCore (.setReady h))

theorem Inv.failTasks {r : Nat} {p : Machine.Task → Bool} {c : BitVec 8} (h : Inv s) : Inv (s.failTasks r p c) := by
  refine .foldl (.foldl h fun _ _ hs => .failTask hs) fun _ _ hs => ?_
  dsimp only
  split
  · exact .ite hs hs
  · exact hs

theorem Inv.undoJournal {r : Nat} {dom : Word} (h : Inv s) : Inv (s.undoJournal r dom) :=
  .modCore (.foldl h fun _ _ hs => .ite (.store hs) (.modCore (.store hs)))

theorem Inv.settleWeights {before : List (Nat × Nat)} {after : List (Nat × Nat)} (h : Inv s) : Inv (s.settleWeights before after) :=
  .foldl h fun _ _ hs => .putTerm hs

theorem Inv.clearDomain {r : Nat} {dom : Word} (h : Inv s) : Inv (s.clearDomain r dom) :=
  .modCore (.setReady (.foldl (.foldl (.foldl h fun _ _ hs => .foldl hs fun _ _ hu => hu) fun _ _ hs => .freeMitten
      (.unbindFrame hs)) fun _ _ hs => hs))

theorem Inv.seatImage {r : Nat} {i : CkptImage} {n m : Fin 5} (h : Inv s) : Inv (s.seatImage r i n m) := .putCells h

theorem Inv.restoreThread {r : Nat} {i : CkptImage} {n : Fin 5} (h : Inv s) : Inv (s.restoreThread r i n) := by
  refine .ite h ?_
  split
  · exact .seatImage h
  · dsimp only
    split
    · rename_i e
      exact .makeReady (.putCells (.setThAt (.of_some_snd e (.leaveFull (.seatImage h)))))
    · exact .failTask h
    · exact h

theorem Inv.restoreFrameOf {r : Nat} {x : Word × List Host.Cell} (h : Inv s) : Inv (s.restoreFrameOf r x) := by
  unfold State.restoreFrameOf
  split
  · exact h
  · exact .putCells h

theorem Inv.restoreImage {r : Nat} {i : CkptImage} (h : Inv s) : Inv (s.restoreImage r i) :=
  .foldl (.foldl (.modCore (.foldl (.setReady
      (.putCells h)) fun _ _ hs => hs)) fun _ _ hs => .restoreFrameOf hs) fun _ _ hs => .restoreThread hs

theorem Inv.restoreParticipants {r : Nat} {i : CkptImage} (h : Inv s) : Inv (s.restoreParticipants r i) := h

theorem Inv.unresolved {dom : Word} {l : List Nat} (h : Inv s) : Inv (s.unresolved dom l) := by
  refine .of_wf (Inv.foldl ?_ fun _ _ hs => .failTasks hs)
  split
  · exact .logError h
  · exact h

theorem NextInv.execRollback {dom : Word} (h : Inv s) : NextInv (execRollback dom s) := by
  refine .ite (.next h) (.ite (.next (.unresolved h)) (.next (.of_wf (Inv.settleWeights (.foldl (.foldl
    (.foldl ?_ fun _ _ hs => .undoJournal hs) fun _ _ hs => .clearDomain hs) fun _ _ hs => ?_)))))
  · split
    · exact .logError h
    · exact h
  · split
    · exact .restoreParticipants (.restoreImage hs)
    · exact hs

/-! ### Barriers, monitors and supersteps -/

theorem Inv.crossBarrier {r tag : Nat} (h : Inv s) : Inv (s.crossBarrier r tag) := .modCore (.foldl h fun _ _ hs => .ite hs hs)

theorem Inv.completePhase {r tag : Nat} (h : Inv s) : Inv (s.completePhase r tag) := .foldl h fun _ _ hs => .crossBarrier hs

theorem NextInv.execBarrierPhaseComplete {r tag : Nat} (h : Inv s) : NextInv (execBarrierPhaseComplete r tag s) :=
  .ite (.next (.completePhase h)) (.next h)

theorem Inv.circuit {r tag : Nat} {dom : Word} (h : Inv s) : Inv (s.circuit r tag dom).2.2 := .foldl h fun _ _ hs => hs

theorem NextInv.execProbeCircuit {r tag : Nat} (h : Inv s) : NextInv (execProbeCircuit r tag s) := by
  unfold Machine.execProbeCircuit
  split
  · exact .ite (.next (.modCore (.circuit h))) (.next h)
  · split
    · exact .next h
    · exact .ite (.next h) (.ite (.next (.foldl (.circuit h) fun _ _ hs => hs)) (.next (.circuit h)))

theorem KeepsInv.needMember {i : Instr} {f : FmtS} : KeepsInv (needMember i f) := .get fun _ _ => .ite .illegal .pure

theorem KeepsInv.waitTag {tag : Nat} : KeepsInv (waitTag tag) := .get fun _ _ => .bind .updTh fun _ => .stall

theorem KeepsInv.endWait {f : FmtS} : KeepsInv (endWait f) := .updTh

theorem NextInv.execBarr {f : FmtS} (h : Inv s) : NextInv (execBarr f s) :=
  .run (.bind .needMember fun _ => .get fun _ _ => .when .waitTag (.when (.upd fun _ hu => .fenceFlush hu) (.bind
      (.upd fun _ hu => hu) fun _ => .endWait))) h

theorem NextInv.execBwait {f : FmtS} (h : Inv s) : NextInv (execBwait f s) :=
  .run (.bind .needMember fun _ => .get fun _ _ => .when .waitTag (.when (.upd fun _ hu => .fenceFlush hu) (.get fun _ _ =>
      .bind .endWait fun _ => .updTh))) h

theorem NextInv.execBmask {f : FmtS} (h : Inv s) : NextInv (execBmask f s) :=
  .run (.bind .needMember fun _ => .get fun _ _ => .updTh) h

theorem NextInv.execPrst {f : FmtS} (h : Inv s) : NextInv (execPrst f s) :=
  .run (.bind .needMember fun _ => .bind (.upd fun _ hs => hs) fun _ => .updTh) h

theorem NextInv.execPwait {f : FmtS} (h : Inv s) : NextInv (execPwait f s) :=
  .run (.bind .needMember fun _ => .get fun _ _ => .ite .stop .updTh) h

theorem NextInv.execSstep {f : FmtS} (h : Inv s) : NextInv (execSstep f s) := by
  refine .run (.bind .needMember fun _ => .get fun _ _ => ?_) h
  dsimp only
  split
  · exact .bind (.upd fun _ hu => .flushRed hu) fun _ => .bind (.upd fun _ hu => hu) fun _ => .waitTag
  · exact .ite .stop (.when .waitTag (.bind (.upd fun _ hu => hu) fun _ => .bind .endWait fun _ => .updTh))

theorem Inv.asTurn {w : Turn} {f : State → State} (hf : ∀ s, Inv s → Inv (f s)) (h : Inv s) : Inv (s.asTurn w f) :=
  hf { s with turn := w } h

theorem Inv.trapAt {w : Turn} {c : Cause} {tval : Word} {kind : BitVec 4} (h : Inv s) : Inv (s.trapAt w c tval kind) :=
  .asTurn (fun _ hs => .takeTrap hs) h

theorem NextInv.execBarrierWatchdogExpiry {r n : Nat} (h : Inv s) : NextInv (execBarrierWatchdogExpiry r n s) := by
  unfold Machine.execBarrierWatchdogExpiry
  dsimp only
  split
  · exact .ite (.next (.completePhase h)) (.next (.trapAt h))
  · split
    · exact .next (.netTimeout h)
    · exact .next h

theorem KeepsInv.armMonitor {ga : Ptr} {l : Loc} : KeepsInv (armMonitor ga l) :=
  .get fun _ _ => .when (.upd fun _ hu => .addWatch hu) .updTh

theorem NextInv.execMonArm {f : FmtS} (h : Inv s) : NextInv (execMonArm f s) :=
  .run (.bind .thread fun _ => .bind .resolve fun _ => .bind .arrive fun _ => .armMonitor) h

theorem NextInv.execMonWait {f : FmtS} (h : Inv s) : NextInv (execMonWait f s) :=
  .run (.get fun _ _ => .ite .updTh (.ite .updTh (.ite .updTh (.bind .updTh fun _ => .finish)))) h

theorem NextInv.execMonWaitne {f : FmtS} (h : Inv s) : NextInv (execMonWaitne f s) :=
  .run (.bind .thread fun _ => .bind .loadData fun _ => .bind .resolve fun _ => .bind .armMonitor fun _ => .ite .updTh
      (.ite .updTh (.get fun _ _ => .bind .updTh fun _ => .finish))) h

theorem NextInv.execMonitorWake {r n : Nat} (h : Inv s) : NextInv (execMonitorWake r n s) := by
  unfold Machine.execMonitorWake
  dsimp only
  split
  · exact .ite (.ite (.next h) (.next h)) (.ite (.next h) (.next h))
  · exact .next h

theorem NextInv.execMonitorTimeout {r n : Nat} (h : Inv s) : NextInv (execMonitorTimeout r n s) := by
  unfold Machine.execMonitorTimeout
  dsimp only
  split
  · exact .ite (.next h) (.next h)
  · exact .next h

/-! ### Scheduling -/

theorem Inv.putFrameStatus {r : Nat} {k : Machine.Task} {x : Status} (h : Inv s) : Inv (s.putFrameStatus r k x) := by
  unfold State.putFrameStatus
  split
  · exact h
  · exact .storeAll (.ite (.storeAll h) h)

theorem Inv.putParked {r : Nat} {k : Machine.Task} {x : Status} (h : Inv s) : Inv (s.putParked r k x) :=
  .ite (.enqueue (.modCore (.putFrameStatus h))) (.modCore (.putFrameStatus h))

theorem Inv.deliverStatus {x : Status} (h : Inv s) : Inv (s.deliverStatus x) := by
  unfold State.deliverStatus
  dsimp only
  split
  · exact .modThAt (.ite (.received (.modCore (.wakeBand h))) (.wakeBand h))
  · exact .setReady (.putFrameStatus (.ite (.received (.modCore (.wakeBand h))) (.wakeBand h)))
  · exact .putParked (.ite (.received (.modCore (.wakeBand h))) (.wakeBand h))
  · exact .ite (.received (.modCore (.wakeBand h))) (.wakeBand h)

theorem NextInv.execTokenStatusWrite (h : Inv s) : NextInv (execTokenStatusWrite s) := by
  unfold Machine.execTokenStatusWrite
  split
  · exact .next h
  · split
    · exact .ite (.next h) (.next (.deliverStatus h))
    · exact .next (.deliverStatus h)

theorem NextInv.execStatusUndeliverable (h : Inv s) : NextInv (execStatusUndeliverable s) := by
  unfold Machine.execStatusUndeliverable
  split
  · exact .next h
  · exact .next (.logError (.deliverStatus h))

theorem Inv.releaseHeld {r : Nat} (h : Inv s) : Inv (s.releaseHeld r) := by
  refine .ite h ?_
  split
  · exact .makeReady h
  · exact h

theorem NextInv.execSlotPlacement {r n : Nat} (h : Inv s) : NextInv (execSlotPlacement r n s) := by
  refine .ite ?_ (.next (.releaseHeld h))
  split
  · exact .next (.releaseHeld (.placeTask (.setReady (.releaseHeld h))))
  · exact .next (.releaseHeld h)

theorem NextInv.execPriorityAging {r : Nat} {id : Word} (h : Inv s) : NextInv (execPriorityAging r id s) := by
  unfold Machine.execPriorityAging
  split
  · exact .ite (.next (.setReady h)) (.next h)
  · exact .next h

theorem Inv.stopTransfer {w : Turn} {x : TileXfer} (h : Inv s) : Inv (s.stopTransfer w x) := .modThAt (.dropXfer h)

theorem Inv.parkMember {r g : Nat} {k : Machine.Task} (h : Inv s) : Inv (s.parkMember r g k) := by
  unfold State.parkMember
  dsimp only
  split
  · exact .ite h h
  · exact h

theorem Inv.preemptNow {w : Turn} (h : Inv s) : Inv (s.preemptNow w) := by
  unfold State.preemptNow
  split
  · exact h
  · rename_i e
    split
    · exact .parkMember (.of_some_snd e (.leaveFull h))
    · exact .setReady (.of_some_snd e (.leaveFull h))

theorem SomeInv.preemptStep {w : Turn} (h : Inv s) : SomeInv id (s.preemptStep w) := by
  refine .ite .none ?_
  dsimp only
  split
  · exact .some (.preemptNow h)
  · split
    · exact .ite (.some (.preemptNow h)) .none
    · exact .some (.stopTransfer h)
    · exact .ite .none (.some h)

theorem NextInv.execPreEmption {r n : Nat} (h : Inv s) : NextInv (execPreEmption r n s) := .next (.getD (.preemptStep h) h)

theorem NextInv.execGangReservation {g b : Nat} (h : Inv s) : NextInv (execGangReservation g b s) := by
  unfold Machine.execGangReservation
  split
  · exact .next h
  · exact .ite (.next (.of_wf (Inv.wakeBand h))) (.next h)

theorem Inv.removeGang {g : Nat} (h : Inv s) : Inv (s.removeGang g) := h

theorem SomeInv.reserveStep {r : Nat} (h : Inv s) : SomeInv id (s.reserveStep r) := by
  unfold State.reserveStep
  split
  · exact .none
  dsimp only
  split
  · exact .some (.modThAt h)
  split
  · split
    · exact .map fun _ _ => .removeGang h
    · exact .none
  · exact .none

theorem NextInv.execGangReservationTimeout {r : Nat} (h : Inv s) : NextInv (execGangReservationTimeout r s) :=
  .next (.getD (.reserveStep h) h)

theorem Inv.placeMember {r : Nat} {k : Machine.Task} (h : Inv s) : Inv (s.placeMember r k) := by
  unfold State.placeMember
  split
  · exact .placeTask h
  · exact h

theorem Inv.releaseGang {g : Nat} {x : Gang} (h : Inv s) : Inv (s.releaseGang g x) :=
  .of_wf (Inv.foldl (.foldl (.foldl h fun _ _ hs => hs) fun _ _ hs => .placeMember hs) fun _ _ hs => hs)

theorem SomeInv.gangStep {g : Nat} (h : Inv s) : SomeInv id (s.gangStep g) := by
  unfold State.gangStep
  split
  · exact .none
  · exact .ite .none (.ite (.ite .none (.some h)) (.some (.releaseGang h)))

theorem NextInv.execGangRelease {g : Nat} (h : Inv s) : NextInv (execGangRelease g s) := .next (.getD (.gangStep h) h)

theorem NextInv.execGangBmaskLoadTimeout {r g : Nat} (h : Inv s) : NextInv (execGangBmaskLoadTimeout r g s) := by
  unfold Machine.execGangBmaskLoadTimeout
  split
  · exact .next h
  · exact .ite (.next h) (.ite (.next (.completePhase h)) (.next (.foldl h fun _ _ hs => .trapAt hs)))

theorem NextInv.execTrapEntry {r n : Nat} {c : Cause} {v : Word} (h : Inv s) : NextInv (execTrapEntry r n c v s) := by
  refine .ite (.next h) ?_
  split
  · exact .next h
  · exact .next h
  · exact .next h
  · exact .next (.trapAt h)

theorem NextInv.execInterruptEntry {r n : Nat} (h : Inv s) : NextInv (execInterruptEntry r n s) := by
  refine .ite (.next h) ?_
  split <;> exact .next h

theorem NextInv.execWfiWake {r n : Nat} (h : Inv s) : NextInv (execWfiWake r n s) := .ite (.next h) (.next h)

theorem NextInv.execOutstandingInstructionComplete {r n : Nat} (h : Inv s) : NextInv (execOutstandingInstructionComplete r n s) :=
  .ite (.next h) (.next (.completeOut h))

theorem NextInv.execTaskWatchdogExpiry {r n : Nat} (h : Inv s) : NextInv (execTaskWatchdogExpiry r n s) := .ite (.next h) (.next h)

theorem Inv.settleTask {r : Nat} {k : Machine.Task} (h : Inv s) : Inv (s.settleTask r k) := .freeMitten (.unbindFrame (.ite h h))

theorem Inv.stopAll {w : Turn} (h : Inv s) : Inv (s.stopAll w) := .modThAt (.foldl h fun _ _ hs => .stopTransfer hs)

theorem SomeInv.removeStep {w : Turn} (h : Inv s) : SomeInv id (s.removeStep w) := by
  unfold State.removeStep
  dsimp only
  split
  · exact .none
  · split
    · exact .ite (.some h) .none
    · exact .ite (.some (.stopAll (.reportFailure h))) (.ite (.some (.endTask (.fenceFlush h))) .none)

theorem NextInv.execTaskFailureRemoval {r n : Nat} (h : Inv s) : NextInv (execTaskFailureRemoval r n s) := by
  refine .ite (.next (.getD (.removeStep h) h)) ?_
  split
  · exact .next (.settleTask (.fenceFlush h))
  · exact .next h

theorem Inv.resolveTask {r : Nat} {k : Machine.Task} {ok : Bool} {c : BitVec 8} (h : Inv s) : Inv (s.resolveTask r k ok c) :=
  .ite (.enqueue h) (.failTask h)

theorem Inv.resolveCmd {e : Nat} {c : Cmd} {ok : Bool} {cause : BitVec 8} (h : Inv s) : Inv (s.resolveCmd e c ok cause) :=
  .ite h (.endCommand h)

theorem Inv.resolveRequest {r k : Nat} {rq : Rpc} {ok : Bool} {c : BitVec 8} (h : Inv s) : Inv (s.resolveRequest r k rq ok c) :=
  .ite h (.refuseByte h)

theorem NextInv.execFaultResolve {p k : Nat} (h : Inv s) : NextInv (execFaultResolve p k s) := by
  unfold Machine.execFaultResolve
  split
  · exact .next h
  · exact .ite (.next h) (.next (.storeAll (.foldl (.foldl (.foldl
      (.foldl h fun _ _ hs => .resolveTask hs) fun _ _ hs => hs) fun _ _ hs => .resolveCmd hs) fun _ _ hs => .resolveRequest hs)))

/-! ### Bring-up and reset -/

theorem NextInv.execPackageReset (h : Inv s) : NextInv (execPackageReset s) := .next (.of_wf h)

theorem NextInv.execVaultTest {repairs : List (Nat × Nat × Nat)} (h : Inv s) : NextInv (execVaultTest repairs s) := by
  have hclear : Inv { s with mem := Memory.clear s.mem 0 0x800000000000 } := Memory.wf_clear h _ _
  exact .ite (.next h) (.next (.of_wf (Inv.foldl hclear fun _ _ hu => .ite hu (.ite (.logError (.modVault hu)) (.modVault hu)))))

theorem Inv.clearHandlers {r : Nat} (h : Inv s) : Inv (s.clearHandlers r) := .poke h

theorem Inv.startBand {x : PartSpec} {b : Nat} (h : Inv s) : Inv (s.startBand x b) := .foldl h fun _ _ hs => .clearHandlers hs

theorem Inv.startSystem {x : PartSpec} (h : Inv s) : Inv (s.startSystem x) := h

theorem NextInv.execPartitionCreation {x : PartSpec} (h : Inv s) : NextInv (execPartitionCreation x s) :=
  .ite (.next h) (.next (.startSystem (.of_wf (Inv.foldl (.foldl
      (.foldl h fun _ _ hs => .startBand hs) fun _ _ hs => hs) fun _ _ hs => hs))))

theorem Inv.endTasks {r : Nat} (h : Inv s) : Inv (s.endTasks r) :=
  .foldl h fun _ _ hs => .ite (.ite hs (.reportFailure hs)) (.of_wf (Inv.ite hs (.reportFailure hs)))

theorem Inv.loseCommand {c : Cmd} (h : Inv s) : Inv (s.loseCommand c) := .of_wf (Inv.foldl h fun _ _ hs => hs)

theorem Inv.loseReply {rq : Rpc} (h : Inv s) : Inv (s.loseReply rq) := by
  unfold State.loseReply
  split
  · exact h
  · dsimp only
    split
    · exact .setEngine (.loseCommand h)
    · exact h

theorem Inv.loseAll {r : Nat} (h : Inv s) : Inv (s.loseAll r) := .foldl h fun _ _ hs => .loseReply hs

theorem Inv.dropCore {r : Nat} (h : Inv s) : Inv (s.dropCore r) := by
  have hlost : Inv (((s.endTasks r).flushRed r fun _ => true).loseAll r) := .loseAll (.flushRed (.endTasks h))
  unfold State.dropCore
  refine .of_wf ?_
  dsimp only
  exact Inv.modCore hlost

theorem Inv.withdrawEngine {e : Nat} (h : Inv s) : Inv (s.withdrawEngine e) :=
  .setEngine (.foldl (.leaveTree h) fun _ _ hs => .loseCommand hs)

theorem Inv.failGangs {bands : List Nat} (h : Inv s) : Inv (s.failGangs bands) := .foldl h fun _ _ hs => .failTasks hs

theorem Inv.disableQueues {bands : List Nat} (h : Inv s) : Inv (s.disableQueues bands) := h

theorem Inv.freezeAll {p : Nat} (h : Inv s) : Inv (s.freezeAll p) := .foldl h fun _ _ hs => .freezeQueue hs

theorem Inv.destroy {p : Nat} {x : Machine.Partition} (h : Inv s) : Inv (s.destroy p x) :=
  .of_wf (Inv.foldl h fun _ _ hs => .withdrawEngine hs)

theorem NextInv.execPartitionRemoval {p : Nat} {bands : List Nat} (h : Inv s) : NextInv (execPartitionRemoval p bands s) := by
  unfold Machine.execPartitionRemoval
  split
  · exact .next h
  · have hdropped : ∀ (l : List Nat) (u : State), Inv u → Inv (l.foldl (fun s b => (bandRanks b).foldl (fun s r =>
      s.dropCore r) s) u) :=
      fun _ _ hu => .foldl hu fun _ _ hs => .foldl hs fun _ _ ht => .dropCore ht
    have hgone : ∀ (l : List Nat) k (u : State), Inv u → Inv (((l.foldl (fun s b => (bandRanks b).foldl (fun s r =>
        s.dropCore r) s) u).failGangs k).disableQueues k) :=
      fun l k u hu => .disableQueues (.failGangs (hdropped l u hu))
    dsimp only
    refine .next (.foldl ?_ fun _ _ hs => .setBand hs)
    split
    · exact .destroy (hgone _ _ _ (.freezeAll h))
    · exact .of_wf (hgone _ _ _ h)

/-! ### Masks -/

theorem NextInv.vcompare {i : Instr} {f : FmtV} {ok : ElemType → Bool} {g : ElemType → Nat → Nat → Bool × Flags} (h : Inv s) :
    NextInv (vcompare i f ok g s) := .run (.ite .stop (.bind .thread fun _ => .bind .fpWrite fun _ => .updTh)) h

theorem NextInv.execVclass {f : FmtV} (h : Inv s) : NextInv (execVclass f s) := by
  unfold Machine.execVclass
  exact .vcompare h

theorem NextInv.plainV {f : FmtV} {g : Thread → Thread} (h : Inv s) : NextInv (plainV f g s) := .simple h

theorem NextInv.execVsel {f : FmtV} (h : Inv s) : NextInv (execVsel f s) := .plainV h

theorem NextInv.maskOp {g : MReg → MReg → MReg} {f : FmtV} (h : Inv s) : NextInv (maskOp g f s) := .plainV h

theorem NextInv.execMnot {f : FmtV} (h : Inv s) : NextInv (execMnot f s) := .maskOp h

theorem NextInv.execMpopc {f : FmtV} (h : Inv s) : NextInv (execMpopc f s) := .plainV h

theorem NextInv.execMfirst {f : FmtV} (h : Inv s) : NextInv (execMfirst f s) := .plainV h

theorem NextInv.permute {f : FmtV} {g : ElemType → VReg → VReg → Nat → Nat} (h : Inv s) : NextInv (permute f g s) := .plainV h

theorem NextInv.execVperm {f : FmtV} (h : Inv s) : NextInv (execVperm f s) := .permute h

theorem NextInv.execVslup {f : FmtV} (h : Inv s) : NextInv (execVslup f s) := .permute h

theorem NextInv.execVsldn {f : FmtV} (h : Inv s) : NextInv (execVsldn f s) := .permute h

theorem NextInv.execVbcast {f : FmtV} (h : Inv s) : NextInv (execVbcast f s) := .permute h

theorem NextInv.execVzip {f : FmtV} (h : Inv s) : NextInv (execVzip f s) := .permute h

theorem NextInv.execVunzip {f : FmtV} (h : Inv s) : NextInv (execVunzip f s) := .permute h

theorem NextInv.execVcmprs {f : FmtV} (h : Inv s) : NextInv (execVcmprs f s) := .plainV h

theorem NextInv.execVexpnd {f : FmtV} (h : Inv s) : NextInv (execVexpnd f s) := .plainV h

theorem NextInv.execVsplat {f : FmtV} (h : Inv s) : NextInv (execVsplat f s) := .plainV h

theorem NextInv.execVgetel {f : FmtV} (h : Inv s) : NextInv (execVgetel f s) := .plainV h

theorem NextInv.execVsetel {f : FmtV} (h : Inv s) : NextInv (execVsetel f s) := .plainV h

theorem NextInv.execVid {f : FmtV} (h : Inv s) : NextInv (execVid f s) := .run (.ite .stop .updTh) h

theorem NextInv.execM2v {f : FmtV} (h : Inv s) : NextInv (execM2v f s) := .plainV h

theorem NextInv.execV2m {f : FmtV} (h : Inv s) : NextInv (execV2m f s) := .plainV h

/-! ### Issue -/

theorem Inv.arbitrateCore {r : Nat} (h : Inv s) : Inv (s.arbitrateCore r) := by
  unfold State.arbitrateCore
  split <;> exact h

theorem NextInv.execIssueArbitration {r : Nat} (h : Inv s) : NextInv (execIssueArbitration r s) := .next (.arbitrateCore h)

theorem Inv.arbitrateAgent {r : Nat} (h : Inv s) : Inv (s.arbitrateAgent r) := .ite (.ite h h) h

theorem Inv.firstGrant {l : List (Nat × Bool)} (h : Inv s) : Inv (s.firstGrant l) := by
  induction l generalizing s with
  | nil => exact h
  | cons p l ih =>
    have ht : Inv (if p.2 then s.arbitrateAgent p.1 else s.arbitrateCore p.1) := .ite (.arbitrateAgent h) (.arbitrateCore h)
    exact .ite ht (ih ht)

theorem Inv.arbitrate (h : Inv s) : Inv s.arbitrate := .firstGrant h

theorem KeepsInv.tokenGate {r : Reg} : KeepsInv (tokenGate r) :=
  .get fun _ _ => .ite (.bind (.upd fun _ hu => hu) fun _ => .stall) (.when (.upd fun _ hu => .logError hu) .updTh)

theorem KeepsInv.gate {i : Instr} : KeepsInv (gate i) := by
  refine .get fun _ _ => .ite .stop (.ite .stop (.ite (.bind .updTh fun _ => .stop) (.ite .stop (.ite .stop ?_))))
  dsimp only
  split
  · exact .bind .updTh fun _ => .stop
  · split
    · refine .bind .tokenGate fun _ => ?_
      split
      · exact .uncorrectable
      · exact .pure
    · split
      · exact .uncorrectable
      · exact .pure

theorem KeepsInv.fetch : KeepsInv fetch :=
  .get fun _ _ => .ite (.ite .raise (.ite .raise .pure)) (.ite .stop (.bind .resolve fun _ => .bind .arrive fun _ =>
      .get fun _ _ => .ite (.bind (.upd fun _ hv => .logUnreadable hv) fun _ => .bind .uncorrectable fun _ => .bind
      (.upd fun _ hv => .corrected hv) fun _ => .get fun _ _ => .pure) (.bind (.upd fun _ hv => .corrected hv) fun _ =>
      .get fun _ _ => .pure)))

theorem NextInv.execIllegalInstruction {w : BitVec 32} (h : Inv s) : NextInv (execIllegalInstruction w s) := .run .raise h

theorem Inv.endIssue {g : Nat × Vector Nat 4} {idle : List (Fin 5)} (h : Inv s) : Inv (s.endIssue g idle) := .ite h (.ite h h)

theorem Inv.takeBoundary (h : Inv s) : Inv s.takeBoundary := by
  refine .ite h ?_
  split
  · exact .takeTrap h
  · split <;> exact h

/-! ### Pages -/

theorem Inv.modLeaf {home off sz : Nat} {f : Word → Word} (h : Inv s) : Inv (s.modLeaf home off sz f) :=
  .foldl h fun _ _ hs => .poke hs

theorem Inv.startMove {r : Nat} {rq : Rpc} (h : Inv s) : Inv (s.startMove r rq) := by
  refine .ite (.refuse h) ?_
  dsimp only
  split
  · exact .reply h
  · exact .modAgent (.modLeaf h)

theorem Inv.abandonMove {r : Nat} {m : Moving} (h : Inv s) : Inv (s.abandonMove r m) := .modAgent (.modLeaf h)

theorem Inv.moveZero {r : Nat} {m : Moving} {leafHome leafOff : Nat} (h : Inv s) : Inv (s.moveZero r m leafHome leafOff) :=
  .modAgent (.ite (.modCore (.zeroFill (.recall h))) (.zeroFill (.recall h)))

theorem SomeInv.moveRowStep {r : Nat} (h : Inv s) : SomeInv id (s.moveRowStep r) := by
  unfold State.moveRowStep
  split
  · exact .none
  · refine .ite .none ?_
    dsimp only
    split
    · exact .some (.moveZero h)
    · split
      · exact .ite (.some (.reply (.abandonMove (.logUnreadable h)))) (.some (.modAgent (.store (.corrected (.recall (.recall h))))))
      · exact .engineWaits h
      · exact .engineWaits h

theorem Inv.finishMove {r : Nat} {m : Moving} (h : Inv s) : Inv (s.finishMove r m) := by
  unfold State.finishMove
  refine .reply (.foldl (.of_wf ?_) fun _ _ hs => .deliver hs)
  dsimp only
  exact Inv.modAgent (.modAgent (.modLeaf h))

theorem NextInv.execMigrateOut {r : Nat} (h : Inv s) : NextInv (execMigrateOut r s) := by
  unfold Machine.execMigrateOut
  split
  · exact .ite (.next (.finishMove h)) (.next h)
  · exact .serve (fun _ _ hs => .startMove hs) h

theorem NextInv.execMigrateIn {r : Nat} (h : Inv s) : NextInv (execMigrateIn r s) := by
  unfold Machine.execMigrateIn
  split
  · exact .next (.getD (.moveRowStep h) h)
  · exact .serve (fun _ _ hs => .refuse hs) h

theorem NextInv.execRedirectNotice {r : Nat} (h : Inv s) : NextInv (execRedirectNotice r s) := by
  unfold Machine.execRedirectNotice
  dsimp only
  split <;> exact .next h

theorem SomeInv.shootStep {e : Nat} (h : Inv s) : SomeInv id (s.shootStep e) := by
  unfold State.shootStep
  split
  · exact .none
  · exact .ite (.some (.endActive h)) (.ite (.some (.endActive h)) (.ite (.some (.endActive h)) (.ite (.some (.retireActive h))
      (.some h))))

theorem NextInv.execCmdPageMigrateShoot {e : Nat} (h : Inv s) : NextInv (execCmdPageMigrateShoot e s) :=
  .next (.getD (.shootStep h) h)

theorem SomeInv.receiptOf {r e : Nat} (h : Inv s) : SomeInv id (s.receiptOf r e) := by
  unfold State.receiptOf
  split
  · exact .none
  · exact .ite (.some (.setEngine (.modCore (.flushRed h)))) (.ite (.some h) .none)

theorem SomeInv.receiptStep {r : Nat} (h : Inv s) : SomeInv id (s.receiptStep r) := by
  intro t e
  obtain ⟨x, -, hx⟩ := List.exists_of_findSome?_eq_some e
  exact .of_some hx (.receiptOf h)

theorem NextInv.execShootdownReceipt {r : Nat} (h : Inv s) : NextInv (execShootdownReceipt r s) := .next (.getD (.receiptStep h) h)

theorem SomeInv.ackStep {e : Nat} (h : Inv s) : SomeInv id (s.ackStep e) := by
  unfold State.ackStep
  split
  · exact .none
  · exact .some (.retireActive (.foldl h fun _ _ hs => hs))

theorem NextInv.execShootdownAck {e : Nat} (h : Inv s) : NextInv (execShootdownAck e s) := .next (.getD (.ackStep h) h)

theorem NextInv.execPageWalk {r n : Nat} {ga : Ptr} {acc : Access} (h : Inv s) : NextInv (execPageWalk r n ga acc s) := by
  refine .ite (.next h) (.next (.asTurn (fun _ hs => ?_) h))
  dsimp only
  split
  · exact .parkFault hs
  · exact .noteWaiting hs
  · exact hs
  · exact .ite (.fill hs) (.parkFault hs)

theorem NextInv.execSetDirty {r off : Nat} (h : Inv s) : NextInv (execSetDirty r off s) := .ite (.next (.orLeaf h)) (.next h)

theorem Inv.advance (h : Inv s) : Inv s.advance := .of_wf (Inv.noteAll h)

/-! ### Every instruction and event -/

theorem NextInv.exec (h : Inv s) : ∀ {i : Instr}, NextInv (Machine.exec i s)
  | .add _ | .sub _ | .and _ | .or _ | .xor _ | .sll _ | .srl _ | .sra _ | .slt _ | .sltu _ | .min _ | .max _ | .minu _ | .maxu _
    | .mul _ | .mulh _ | .mulhu _ => .aluOp h
  | .div _ | .divu _ | .rem _ | .remu _ => .divideOp h
  | .clz _ => .execClz h
  | .ctz _ => .execCtz h
  | .popc _ => .execPopc h
  | .addi _ | .andi _ | .ori _ | .xori _ | .slti _ | .sltiu _ => .immOp h
  | .lui _ => .execLui h
  | .lsi _ => .execLsi h
  | .slli _ | .srli _ | .srai _ => .shiftOp h
  | .pmk _ => .execPmk h
  | .padd _ => .execPadd h
  | .ptag _ => .execPtag h
  | .pclr _ => .execPclr h
  | .prank _ => .execPrank h
  | .pchk _ => .execPchk h
  | .paddi _ => .execPaddi h
  | .fadd _ => .execFadd h
  | .fsub _ => .execFsub h
  | .fmul _ => .execFmul h
  | .fdiv _ => .fpDivide h
  | .fsqrt _ => .execFsqrt h
  | .fmin _ => .execFmin h
  | .fmax _ => .execFmax h
  | .fmadd _ => .execFmadd h
  | .fmsub _ => .execFmsub h
  | .feq _ | .flt _ | .fle _ => .fpPlain h
  | .fclass _ => .execFclass h
  | .fcvtf _ => .execFcvtf h
  | .fcvtfi _ => .execFcvtfi h
  | .fcvtif _ => .execFcvtif h
  | .fsgnj _ => .execFsgnj h
  | .fsgnjn _ => .execFsgnjn h
  | .ld _ => .execLd h
  | .st _ => .execSt h
  | .amoSwap _ => .execAmoSwap h
  | .amoAdd _ => .execAmoAdd h
  | .amoAnd _ => .execAmoAnd h
  | .amoOr _ => .execAmoOr h
  | .amoXor _ => .execAmoXor h
  | .amoSmin _ => .execAmoSmin h
  | .amoSmax _ => .execAmoSmax h
  | .amoUmin _ => .execAmoUmin h
  | .amoUmax _ => .execAmoUmax h
  | .amoCas _ => .amo h
  | .amoFadd _ => .execAmoFadd h
  | .amoFmin _ => .execAmoFmin h
  | .amoFmax _ => .execAmoFmax h
  | .redAdd _ | .redFadd _ | .redSmin _ | .redSmax _ | .redFmin _ | .redFmax _ => .red h
  | .beq _ | .bne _ | .blt _ | .bltu _ => .branch h
  | .bge _ => .execBge h
  | .bgeu _ => .execBgeu h
  | .jal _ | .jalr _ | .rdcyc _ | .rank _ | .bmiss _ | .bankRefreshEnd _ _ | .coreThrottleRaise _ | .coreThrottleLower _
    | .thermalHold _ | .hostPortReset _ => .next h
  | .crrd _ => .execCrrd h
  | .crwr _ => .execCrwr h
  | .crxch _ => .execCrxch h
  | .trap _ | .trapBrk _ => .run .raise h
  | .tret _ => .execTret h
  | .fence _ => .execFence h
  | .ifence _ => .execIfence h
  | .spawn _ => .execSpawn h
  | .park _ | .parkMig _ => .park h
  | .tend _ => .execTend h
  | .tyield _ => .execTyield h
  | .wfi _ => .execWfi h
  | .vadd _ | .vsub _ | .vmul _ | .vmin _ | .vmax _ | .vabs _ | .vneg _ | .vsgnj _ | .vfma _ | .vfms _ | .vfnma _ | .vand _
    | .vor _ | .vxor _ | .vsll _ | .vsrl _ | .vsra _ | .vadds _ | .vsubs _ => .vop h
  | .vwmul _ | .vwfma _ | .vqfma _ => .widening h
  | .vdot2 _ | .vdot4 _ => .dot h
  | .veq _ | .vne _ | .vlt _ | .vle _ | .vunord _ => .vcompare h
  | .vclass _ => .execVclass h
  | .vsel _ => .execVsel h
  | .mand _ | .mor _ | .mxor _ => .maskOp h
  | .mnot _ => .execMnot h
  | .mpopc _ => .execMpopc h
  | .mfirst _ => .execMfirst h
  | .vcvt _ => .execVcvt h
  | .vqnt _ => .execVqnt h
  | .vdqnt _ => .execVdqnt h
  | .vcbdec _ => .execVcbdec h
  | .vexp2 _ => .execVexp2 h
  | .vlog2 _ => .execVlog2 h
  | .vrcp _ => .execVrcp h
  | .vrsqrt _ => .execVrsqrt h
  | .vsqrt _ => .execVsqrt h
  | .vdiv _ => .special h
  | .vsinpi _ => .execVsinpi h
  | .vtanh _ => .execVtanh h
  | .vperm _ => .execVperm h
  | .vslup _ => .execVslup h
  | .vsldn _ => .execVsldn h
  | .vbcast _ => .execVbcast h
  | .vcmprs _ => .execVcmprs h
  | .vexpnd _ => .execVexpnd h
  | .vzip _ => .execVzip h
  | .vunzip _ => .execVunzip h
  | .vrsum _ => .execVrsum h
  | .vrmin _ | .vrmax _ | .vscan _ => .vred h
  | .netred _ | .netbc _ => .net h
  | .vld _ => .execVld h
  | .vlds _ | .vldx _ => .vload h
  | .vst _ => .execVst h
  | .vsts _ | .vstx _ => .vstore h
  | .vsplat _ => .execVsplat h
  | .vgetel _ => .execVgetel h
  | .vsetel _ => .execVsetel h
  | .vid _ => .execVid h
  | .m2v _ => .execM2v h
  | .v2m _ => .execV2m h
  | .tdef _ => .execTdef h
  | .tinv _ => .execTinv h
  | .tqry _ => .execTqry h
  | .mstat _ => .execMstat h
  | .munst _ => .execMunst h
  | .mwr _ => .execMwr h
  | .mrd _ => .execMrd h
  | .mmac _ | .mmul _ | .mmacSp _ => .product h
  | .mgang _ => .execMgang h
  | .mbind _ => .execMbind h
  | .mzero _ => .execMzero h
  | .mdrain _ => .execMdrain h
  | .mchk _ => .execMchk h
  | .mfix _ => .execMfix h
  | .qcfg _ => .execQcfg h
  | .qhead _ | .qtail _ => .queuePtr h
  | .qpop _ => .execQpop h
  | .qpush _ => .execQpush h
  | .binj _ => .execBinj h
  | .bset _ => .execBset h
  | .bclr _ => .execBclr h
  | .bstat _ => .execBstat h
  | .pget _ => .execPget h
  | .prel _ => .execPrel h
  | .tld _ | .tst _ => .tileTransfer h
  | .ract _ => .execRact h
  | .rpre _ => .execRpre h
  | .discard _ => .execDiscard h
  | .rcall _ => .execRcall h
  | .rcallp _ => .execRcallp h
  | .ecmd _ => .execEcmd h
  | .eqry _ => .execEqry h
  | .ecan _ => .execEcan h
  | .barr _ => .execBarr h
  | .bwait _ => .execBwait h
  | .bmask _ => .execBmask h
  | .prst _ => .execPrst h
  | .pwait _ => .execPwait h
  | .sstep _ => .execSstep h
  | .monArm _ => .execMonArm h
  | .monWait _ => .execMonWait h
  | .monWaitne _ => .execMonWaitne h
  | .mvp _ => .execMvp h
  | .mvr _ => .execMvr h
  | .mvi _ => .execMvi h
  | .trig _ => .execTrig h
  | .abank _ => .execAbank h
  | .areply _ => .execAreply h
  | .anext _ => .execAnext h
  | .cmdCopy _ => .execCmdCopy h
  | .cmdCopy2d _ | .cmdGather _ | .cmdScatter _ | .cmdFill _ => .pagedEvent h
  | .cmdCollectiveReduce _ => .execCmdCollectiveReduce h
  | .cmdPageMigrateMove _ => .execCmdPageMigrateMove h
  | .cmdPageMigrateShoot _ => .execCmdPageMigrateShoot h
  | .cmdBankMacLaunch _ => .execCmdBankMacLaunch h
  | .engineCommandActivate _ => .execEngineCommandActivate h
  | .enginePage _ => .execEnginePage h
  | .handlerRead _ => .execHandlerRead h
  | .handlerWrite _ => .execHandlerWrite h
  | .handlerElementAtomic _ => .execHandlerElementAtomic h
  | .handlerTileRead _ => .execHandlerTileRead h
  | .handlerTileWrite _ => .execHandlerTileWrite h
  | .handlerTileAdd _ => .execHandlerTileAdd h
  | .handlerVectorAdd _ => .execHandlerVectorAdd h
  | .handlerHandOffPush _ => .execHandlerHandOffPush h
  | .handlerHandOffPop _ => .execHandlerHandOffPop h
  | .migrateOut _ => .execMigrateOut h
  | .migrateIn _ => .execMigrateIn h
  | .handlerRemoteMonitorArm _ => .execHandlerRemoteMonitorArm h
  | .handlerReductionRecall _ => .execHandlerReductionRecall h
  | .handlerBankMacLaunch _ => .execHandlerBankMacLaunch h
  | .loadedHandler _ => .execLoadedHandler h
  | .mgo _ => .execMgo h
  | .agCount _ _ _ | .mvGo _ _ | .cmGo _ | .qctlResume _ _ | .qctlClearDrops _ _ | .joinCounterWrite _ _ _ | .bankRefresh _ _
    | .testerBurst _ _ _ _ | .testerBurstAbort _ | .vaultThrottleChange _ _ | .monitorBoot | .ucieTraining _
    | .cufflinkNegotiation _ _ | .hostEnumeration | .linkRetrain _ _ => .ite (.next h) (.next h)
  | .vDataRead _ _ => .execVDataRead h
  | .vDataWrite _ _ => .execVDataWrite h
  | .bankMacProgramRun _ => .execBankMacProgramRun h
  | .bankMacComplete _ => .execBankMacComplete h
  | .bankLockExpiry _ => .execBankLockExpiry h
  | .issueArbitration _ => .execIssueArbitration h
  | .priorityAging _ _ => .execPriorityAging h
  | .slotPlacement _ _ => .execSlotPlacement h
  | .preEmption _ _ => .execPreEmption h
  | .gangReservation _ _ => .execGangReservation h
  | .gangReservationTimeout _ => .execGangReservationTimeout h
  | .gangRelease _ => .execGangRelease h
  | .gangBmaskLoadTimeout _ _ => .execGangBmaskLoadTimeout h
  | .trapEntry _ _ _ _ => .execTrapEntry h
  | .interruptEntry _ _ => .execInterruptEntry h
  | .wfiWake _ _ => .execWfiWake h
  | .taskWatchdogExpiry _ _ => .execTaskWatchdogExpiry h
  | .taskFailureRemoval _ _ => .execTaskFailureRemoval h
  | .tokenStatusWrite => .execTokenStatusWrite h
  | .statusUndeliverable => .execStatusUndeliverable h
  | .spawnTopupAck _ _ => .execSpawnTopupAck h
  | .topupMessage => .execTopupMessage h
  | .weightReturn => .execWeightReturn h
  | .joinSignal _ => .execJoinSignal h
  | .joinFailure _ _ => .execJoinFailure h
  | .dispatch _ => .execDispatch h
  | .lrec _ _ _ _ _ => .execLrec h
  | .qctlFlush _ _ => .execQctlFlush h
  | .hostDoorbell _ _ _ => .execHostDoorbell h
  | .vaultWindowRead _ _ _ => .execVaultWindowRead h
  | .vaultWindowWrite _ _ _ _ => .execVaultWindowWrite h
  | .ltolWrite _ _ _ => .execLtolWrite h
  | .redundantCompare _ => .execRedundantCompare h
  | .matrixOpStart _ _ => .execMatrixOpStart h
  | .matrixOpComplete _ _ => .execMatrixOpComplete h
  | .tileTransferTile _ => .execTileTransferTile h
  | .rowRepair _ _ => .execRowRepair h
  | .bandStep _ => .execBandStep h
  | .bandInjection _ _ => .execBandInjection h
  | .injectionClaim _ _ => .execInjectionClaim h
  | .retireNotice => .execRetireNotice h
  | .ejectionMessage => .execEjectionMessage h
  | .ejectionWriteComplete => .execEjectionWriteComplete h
  | .probeCircuit _ _ => .execProbeCircuit h
  | .barrierPhaseComplete _ _ => .execBarrierPhaseComplete h
  | .barrierWatchdogExpiry _ _ => .execBarrierWatchdogExpiry h
  | .rollback _ => .execRollback h
  | .monitorWake _ _ => .execMonitorWake h
  | .monitorTimeout _ _ => .execMonitorTimeout h
  | .netredRoundComplete _ => .execNetredRoundComplete h
  | .reductionFlush _ => .execReductionFlush h
  | .reductionRecall _ _ => .execReductionRecall h
  | .pageWalk _ _ _ _ => .execPageWalk h
  | .setDirty _ _ => .execSetDirty h
  | .faultResolve _ _ => .execFaultResolve h
  | .shootdownReceipt _ => .execShootdownReceipt h
  | .shootdownAck _ => .execShootdownAck h
  | .redirectNotice _ => .execRedirectNotice h
  | .discardAtHome => .execDiscardAtHome h
  | .srseedWrite _ _ _ => .execSrseedWrite h
  | .fpctlWrite _ _ _ => .execFpctlWrite h
  | .bmaskWrite _ _ _ | .registerWrite _ _ _ _ => .registerEvent h
  | .ptbaseWrite _ _ => .execPtbaseWrite h
  | .errinjWrite _ _ _ => .execErrinjWrite h
  | .spkeyWrite _ _ => .execSpkeyWrite h
  | .hqgWrite _ _ => .execHqgWrite h
  | .slotDoorbell _ _ _ => .execSlotDoorbell h
  | .powerStateEntry _ _ => .execPowerStateEntry h
  | .wakeEvent _ => .execWakeEvent h
  | .wakeComplete _ => .execWakeComplete h
  | .thermalHoldRelease _ => .execThermalHoldRelease h
  | .linkRateLower _ => .execLinkRateLower h
  | .linkDown _ => .execLinkDown h
  | .packageReset => .execPackageReset h
  | .vaultTest _ => .execVaultTest h
  | .partitionCreation _ => .execPartitionCreation h
  | .partitionRemoval _ _ => .execPartitionRemoval h
  | .outstandingInstructionComplete _ _ => .execOutstandingInstructionComplete h
  | .illegalInstruction _ => .execIllegalInstruction h
  | .heldRequestResend _ => .execHeldRequestResend h
  | .testerBurstEnd _ => .execTesterBurstEnd h
  | .agentUnitComplete _ _ => .execAgentUnitComplete h
  | .hostPortTraining _ _ => .execHostPortTraining h
  | .secondTierPortDown _ => .execSecondTierPortDown h
  | .secondTierPortUp _ _ => .execSecondTierPortUp h

/-! ### Turns -/

theorem NextInv.issueInstr {ex : Instr → State → Result} {i : Instr} (hex : ∀ i s, Inv s → NextInv (ex i s)) (h : Inv s) :
    NextInv (issueInstr ex i s) := by
  unfold Machine.issueInstr
  split
  · rename_i e
    exact .stopResult h (.of_stop e .gate h)
  · rename_i t e
    have ht := hex i t (.of_run e .gate h)
    split
    · rename_i u eu
      exact .next (.modThAt (ht u eu))
    · exact .fault
    · exact .refused

theorem NextInv.runTurn {ex : Instr → State → Result} (hex : ∀ i s, Inv s → NextInv (ex i s)) (h : Inv s) :
    NextInv (runTurn ex s) := by
  refine .ite (.next h) (.ite (.next (.takeBoundary h)) (.ite (.next (.modTh h)) ?_))
  split
  · rename_i e
    exact .stopResult h (.of_stop e .fetch h)
  · rename_i e
    split
    · exact .issueInstr hex (.of_run e .fetch h)
    · exact .execIllegalInstruction (.of_run e .fetch h)

theorem NextInv.issueTurn {ex : Instr → State → Result} (hex : ∀ i s, Inv s → NextInv (ex i s)) (h : Inv s) :
    NextInv (issueTurn ex s) := by
  have hgrant : Inv (if s.granted.isSome then s else s.arbitrate) := .ite h (.arbitrate h)
  unfold Machine.issueTurn
  dsimp only
  generalize (if s.granted.isSome then s else s.arbitrate) = u at hgrant
  split
  · exact .next hgrant
  · have hrun := NextInv.runTurn hex hgrant
    split
    · rename_i t e
      exact .next (.endIssue (hrun t e))
    · exact .fault
    · exact .refused

/-! ### Unit events -/

/-- Every event of a list keeps the canonical form of memory. -/
def EventsInv (l : List UnitEvent) : Prop := ∀ e ∈ l, ∀ s, Inv s → NextInv (e s)

theorem EventsInv.nil : EventsInv [] := nofun

theorem EventsInv.cons {e : UnitEvent} {l : List UnitEvent} (he : ∀ s, Inv s → NextInv (e s)) (hl : EventsInv l) : EventsInv (e :: l) :=
  List.forall_mem_cons.2 ⟨he, hl⟩

theorem EventsInv.one {e : UnitEvent} (he : ∀ s, Inv s → NextInv (e s)) : EventsInv [e] := .cons he .nil

theorem EventsInv.append {l k : List UnitEvent} (hl : EventsInv l) (hk : EventsInv k) : EventsInv (l ++ k) :=
  List.forall_mem_append.2 ⟨hl, hk⟩

theorem EventsInv.map {α : Type} {l : List α} {f : α → UnitEvent} (hf : ∀ x s, Inv s → NextInv (f x s)) : EventsInv (l.map f) :=
  List.forall_mem_map.2 fun x _ => hf x

theorem EventsInv.flatMap {α : Type} {l : List α} {f : α → List UnitEvent} (hf : ∀ x, EventsInv (f x)) :
    EventsInv (l.flatMap f) := by
  intro e he
  obtain ⟨x, -, hx⟩ := List.mem_flatMap.1 he
  exact hf x e hx

theorem EventsInv.ite {c : Prop} [Decidable c] {l k : List UnitEvent} (hl : EventsInv l) (hk : EventsInv k) :
    EventsInv (if c then l else k) := by
  split
  · exact hl
  · exact hk

theorem NextInv.event {m : Msg} (h : Inv s) : NextInv (m.event s) := by
  cases m with
  | weight => exact .execWeightReturn h
  | topup => exact .execTopupMessage h
  | topupAck => exact .execSpawnTopupAck h
  | signal => exact .execJoinSignal h
  | failure => exact .execJoinFailure h
  | discard => exact .execDiscardAtHome h
  | redirect => exact .execRedirectNotice h

theorem messageEvents_inv (s : State) : EventsInv s.messageEvents := by
  refine .append (.append (.append ?_ (.map fun _ _ => .event)) (.map fun _ _ => .execRollback)) (.map fun _ _ =>
    .execNetredRoundComplete)
  exact .cons (fun _ => .execTokenStatusWrite) (.cons (fun _ => .execStatusUndeliverable) (.cons (fun _ => .execRetireNotice)
    (.cons (fun _ => .execEjectionMessage) (.one fun _ => .execEjectionWriteComplete))))

theorem partitionEvents_inv (s : State) : EventsInv s.partitionEvents :=
  .flatMap fun _ => .cons (fun _ => .execDispatch) (.map fun _ _ => .execFaultResolve)

theorem gangEvents_inv (s : State) : EventsInv s.gangEvents := by
  refine .append (.flatMap fun g => .append (.append ?_ (.ite (.map fun _ _ => .execGangBmaskLoadTimeout) .nil))
    (.map fun _ _ => .execGangReservationTimeout)) (.map fun _ _ => .execRedundantCompare)
  split
  · exact .one fun _ => .execGangReservation
  · exact .one fun _ => .execGangRelease

theorem agentEvents_inv (s : State) (r : Nat) : EventsInv (s.agentEvents r) := by
  refine .append (.append (.append (.append (.append ?_ (.ite (.one fun _ => .execMigrateOut) .nil)) (.ite (.one fun _ =>
    .execMigrateIn) .nil))
    (.ite (.cons (fun _ => .execBankMacProgramRun) (.one fun _ => .execBankMacComplete)) .nil)) (.map fun _ _ =>
        .execAgentUnitComplete))
    (.cons (fun _ => .execBankLockExpiry) (.one fun _ => .execHeldRequestResend))
  split
  · split
    · exact .one fun _ => .execHandlerRead
    · exact .one fun _ => .execHandlerWrite
    · exact .one fun _ => .execHandlerElementAtomic
    · exact .one fun _ => .execHandlerTileRead
    · exact .one fun _ => .execHandlerTileWrite
    · exact .one fun _ => .execHandlerTileAdd
    · exact .one fun _ => .execHandlerVectorAdd
    · exact .one fun _ => .execHandlerHandOffPush
    · exact .one fun _ => .execHandlerHandOffPop
    · exact .one fun _ => .execMigrateOut
    · exact .one fun _ => .execMigrateIn
    · exact .one fun _ => .execHandlerRemoteMonitorArm
    · exact .one fun _ => .execHandlerReductionRecall
    · exact .one fun _ => .execHandlerBankMacLaunch
    · exact .one fun _ => .execLoadedHandler
  · exact .nil

theorem slotEvents_inv (s : State) (r n : Nat) : EventsInv (s.slotEvents r n) :=
  .ite (.one fun _ => .execSlotPlacement) (.append (.ite (.one fun _ => .execOutstandingInstructionComplete) .nil)
    (.cons (fun _ => .execTaskFailureRemoval) (.cons (fun _ => .execPreEmption) (.cons (fun _ => .execTaskWatchdogExpiry)
      (.cons (fun _ => .execWfiWake) (.cons (fun _ => .execMonitorWake) (.cons (fun _ => .execMonitorTimeout)
        (.one fun _ => .execBarrierWatchdogExpiry))))))))

theorem coreEvents_inv (s : State) (r : Nat) : EventsInv (s.coreEvents r) := by
  refine .append (.append (.append (.append
    (.flatMap fun _ => .cons (fun _ => .execMatrixOpStart) (.one fun _ => .execMatrixOpComplete))
    (.cons (fun _ => .execTileTransferTile) (.cons (fun _ => .execTaskFailureRemoval) (.one fun _ => .execShootdownReceipt))))
    (.map fun _ _ => .execPriorityAging))
    (.flatMap fun _ => .cons (fun _ => .execBarrierPhaseComplete) (.one fun _ => .execProbeCircuit))) ?_
  split
  · exact .one fun _ => .execRowRepair
  · exact .nil

theorem bandMotion_inv {b : Nat} {e : UnitEvent} (he : s.bandMotion b = some e) {u : State} (hu : Inv u) : NextInv (e u) := by
  unfold State.bandMotion at he
  dsimp only at he
  split at he
  · cases he
  split at he
  · cases he
    exact .execInjectionClaim hu
  · cases he
    exact .execBandInjection hu
  · split at he
    · cases he
      exact .execBandStep hu
    · cases he

theorem bandEvents_inv (s : State) (b : Nat) : EventsInv (s.bandEvents b) :=
  .append (.append (.ite (.map fun _ _ => .execReductionFlush) .nil) (.ite (.one fun _ => .execPowerStateEntry) .nil))
    (.one fun _ => .execWakeComplete)

theorem engineEvents_inv (s : State) (e : Nat) : EventsInv (s.engineEvents e) := by
  refine .append (.ite (.one fun _ => .execEngineCommandActivate) .nil) ?_
  split
  · exact .nil
  refine .ite (.one fun s hs => ?_) ?_
  · split
    · exact .execCmdCollectiveReduce hs
    · exact .execCmdCopy hs
  split
  · exact .cons (fun _ => .execCmdPageMigrateMove) (.cons (fun _ => .execCmdPageMigrateShoot) (.one fun _ => .execShootdownAck))
  · exact .one fun _ => .execCmdBankMacLaunch
  · exact .one fun _ => .execEnginePage

/-- The lists of a core, of a band and of an engine follow those of the machine. -/
theorem unitEvents_inv (s : State) : ∀ l ∈ s.unitEvents, EventsInv l := by
  unfold State.unitEvents
  simp only [List.forall_mem_append, List.forall_mem_map, List.mem_flatMap, List.forall_mem_cons]
  refine ⟨⟨⟨⟨messageEvents_inv s, partitionEvents_inv s, gangEvents_inv s, nofun⟩, ?core⟩, ?band⟩, ?engine⟩
  case core =>
    rintro l ⟨c, -, hl⟩
    split at hl
    · simp only [List.mem_cons, List.not_mem_nil, or_false] at hl
      rcases hl with rfl | rfl | rfl
      · exact .flatMap fun n => slotEvents_inv s c.1 n
      · exact coreEvents_inv s c.1
      · exact agentEvents_inv s c.1
    · simp only [List.mem_cons, List.not_mem_nil, or_false, or_self] at hl
      exact hl ▸ .nil
  case band =>
    intro b _
    exact .ite (bandEvents_inv s b.1) (.ite (.one fun _ => .execWakeComplete) (.ite (.one fun _ => .execPowerStateEntry) .nil))
  case engine =>
    intro e _
    exact .ite .nil (engineEvents_inv s e.1)

theorem SomeInv.progress {e : UnitEvent} (he : ∀ s, Inv s → NextInv (e s)) (h : Inv s) : SomeInv id (progress s e) := by
  unfold Machine.progress
  split
  · rename_i t eq
    exact .ite .none (.some (he s h t eq))
  · exact .none
  · exact .none

theorem SomeInv.firstProgress {k : Nat} {l : List (List UnitEvent)} (hl : ∀ u ∈ l, EventsInv u) (h : Inv s) :
    SomeInv Prod.snd (firstProgress s k l) := by
  induction l generalizing k with
  | nil => exact .none
  | cons u l ih =>
    rw [List.forall_mem_cons] at hl
    unfold Machine.firstProgress
    split
    · rename_i t e
      obtain ⟨x, hx, hp⟩ := List.exists_of_findSome?_eq_some e
      exact .snd (.of_some hp (.progress (hl.1 x hx) h))
    · exact ih hl.2

theorem SomeInv.internalEvent (h : Inv s) : SomeInv id (internalEvent s) := by
  have hunits : ∀ k, ∀ u ∈ s.unitEvents.drop k ++ s.unitEvents.take k, EventsInv u := fun k u hu =>
    unitEvents_inv s u ((List.mem_append.1 hu).elim List.mem_of_mem_drop List.mem_of_mem_take)
  exact .map fun x e => SomeInv.firstProgress (hunits _) h x e

/-! ### Steps -/

theorem Inv.bandMoves {b n : Nat} (h : Inv s) : Inv (State.bandMoves b n s) := by
  induction n generalizing s with
  | zero => exact h
  | succ n ih =>
    unfold State.bandMoves
    split
    · exact h
    · rename_i e he
      split
      · rename_i t ht
        exact ih (bandMotion_inv he h t ht)
      · exact h
      · exact h

theorem Inv.elapsed (h : Inv s) : Inv s.elapsed :=
  .foldl (Inv.advance h) fun _ _ hs => .ite (.bandMoves hs) hs

theorem NextInv.machineTurn (h : Inv s) : NextInv (machineTurn s) := by
  have hissue : NextInv (Machine.issueTurn Machine.exec s) := .issueTurn (fun _ _ hs => .exec hs) h
  refine .ite ?_ hissue
  split
  · rename_i t e
    have ht : Inv t := .of_some e (.internalEvent h)
    exact .next ht
  · exact hissue

theorem NextInv.step (h : Inv s) : NextInv (step s) := by
  have he := Inv.elapsed h
  unfold Machine.step
  dsimp only
  generalize s.elapsed = u at he
  split
  · exact .machineTurn he
  · rename_i rest _
    have hrest : Inv { u with agenda := rest } := he
    exact .ite (.next hrest) (.ite (.machineTurn he) (.exec hrest))

/-- Settles O58: by `Inv.poke` and `Inv.wipe`, the two ways in which a meaning changes memory, through every step. -/
theorem invariantKept : Obligations.InvariantKept := fun _ t h e => NextInv.step h t e

end Sys2Proof
end

section
/-! Deferred reductions at their homes, and the fences that perform them (R107, R111, R184). -/

namespace Sys2Proof.Machine

open Claims

/-! ### Stores on anyone's behalf -/

/-- What a store leaves, wherever it lies and on whose behalf it is made: of the cores it changes what the vaults keep beside
their bytes, the errors of the scratchpads that it overwrites, and monitors that it meets. -/
structure StoreLeaves (s t : State) : Prop where
  core : ∀ q, t.core q = { s.core q with vault := (t.core q).vault, badScratch := (t.core q).badScratch, threads := (t.core q).threads }
  woken : ∀ w, Woken (s.thAt w) (t.thAt w)

namespace StoreLeaves

variable {s t u : State}

theorem refl (s : State) : StoreLeaves s s := ⟨fun _ => rfl, fun _ => .refl _⟩

theorem trans (h : StoreLeaves s t) (k : StoreLeaves t u) : StoreLeaves s u :=
  ⟨fun q => by rw [k.core, h.core], fun w => (h.woken w).trans (k.woken w)⟩

theorem ofVaultStores (h : VaultStores s t) : StoreLeaves s t := ⟨fun q => by rw [h.core], h.woken⟩

theorem poke (s : State) (l : Loc) (n v : Nat) : StoreLeaves s (s.poke l n v) := ⟨fun _ => rfl, fun _ => .refl _⟩

theorem modScratch (s : State) (r : Nat) (f : List Nat → List Nat) :
    StoreLeaves s (s.modCore r (fun c => { c with badScratch := f c.badScratch })) where
  core := fun q => by
    by_cases e : q = r
    · subst e; rw [State.core_modCore]
    · rw [State.core_modCore_ne _ _ e]
  woken := fun w => by rw [thAt_modCore rfl]; exact .refl _

theorem journal (s : State) (b : Behalf) (r row : Nat) : StoreLeaves s (s.journal b r row) := by
  unfold State.journal
  split
  · exact refl s
  · dsimp only
    split
    · exact refl s
    · split <;> exact ofVaultStores (.modVault _ _ rfl)

theorem store (s : State) (b : Behalf) (l : Loc) (n v : Nat) : StoreLeaves s (s.store b l n v) := by
  unfold State.store
  split
  · exact ((journal s _ _ _).trans (ofVaultStores ((VaultStores.unzero _ _ _).trans (.modVault _ _ rfl)))).trans ((poke _ _ _ _).trans
      (ofVaultStores ((VaultStores.noteResolve _ _ _ _ _).trans (.wake _ _ _))))
  · exact ((modScratch _ _ _).trans (poke _ _ _ _)).trans (ofVaultStores (.wake _ _ _))
  · exact StoreLeaves.trans (t := (s.poke l n v).sealTier l.key n) ⟨fun _ => rfl, fun _ => .refl _⟩ (ofVaultStores (.wake _ _ _))
  · exact (poke _ _ _ _).trans (ofVaultStores (.wake _ _ _))

end StoreLeaves

/-- Outside the vaults it is the same on whose behalf a store is made. -/
theorem store_behalf (s : State) (b : Behalf) {l : Loc} (h : l.region ≠ .vault) (n v : Nat) :
    s.store b l n v = s.store noBehalf l n v := by
  unfold State.store
  cases hr : l.region with
  | vault => exact absurd hr h
  | _ => rfl

/-- A write at a home where neither the journal nor the zero map is concerned stores its bytes and no others. -/
theorem write_mem {s : State} {b : Behalf} {l : Loc} (hc : l.region ≠ .control) (ht : l.builtIn = false)
    (hv : l.region = .vault → b.dom = none ∧ (s.core l.home).vault.zero.find? (fun z => decide (z.1 = l.off / 0x10000)) = none) (n v : Nat) :
    s.write b l n v = s.store b l n v ∧ (s.write b l n v).mem = Memory.writeN s.mem l.key n v := by
  have hw : s.write b l n v = s.store b l n v := by simp only [State.write, hc, ht, if_false, Bool.false_eq_true]
  refine ⟨hw, ?_⟩
  rw [hw]
  by_cases hr : l.region = .vault
  · exact (store_plain s b l n v (hv hr).1 fun e => (hv e).2).1
  · rw [store_behalf s b hr]
    exact (store_plain s noBehalf l n v rfl fun e => absurd e hr).1

/-! ### NV for the threads whose values a reduction combined (R74, R184) -/

/-- Of a state, flags of threads alone have changed. -/
structure FlagsRaised (s t : State) : Prop where
  rest : t = { s with cores := t.cores }
  core : ∀ q, t.core q = { s.core q with threads := (t.core q).threads }
  thread : ∀ w, ∃ f d, t.thAt w = { s.thAt w with fpctl := f, dirty := d }

namespace FlagsRaised

variable {s t u : State}

theorem refl (s : State) : FlagsRaised s s := ⟨rfl, fun _ => rfl, fun _ => ⟨_, _, rfl⟩⟩

theorem trans (h : FlagsRaised s t) (k : FlagsRaised t u) : FlagsRaised s u where
  rest := by rw [k.rest, h.rest]
  core := fun q => by rw [k.core, h.core]
  thread := fun w => by
    obtain ⟨_, _, hf⟩ := h.thread w
    obtain ⟨f, d, kf⟩ := k.thread w
    exact ⟨f, d, by rw [kf, hf]⟩

theorem raiseNv (s : State) (w : Turn) (b : Bool) : FlagsRaised s (s.raiseNv w b) := by
  unfold State.raiseNv
  split
  · refine ⟨rfl, fun q => core_setThAt_threads _ _ _ _, fun x => ?_⟩
    by_cases e : x = w
    · subst e; exact ⟨_, _, State.thAt_modThAt _ _ _⟩
    · exact ⟨_, _, othersKept_modThAt _ _ _ x e⟩
  · exact refl s

theorem foldl {α : Type} {f : State → α → State} (hf : ∀ s x, FlagsRaised s (f s x)) (l : List α) (s : State) :
    FlagsRaised s (l.foldl f s) := by
  induction l generalizing s with
  | nil => exact refl s
  | cons x l ih => exact (hf s x).trans (ih _)

theorem fixedLoc (h : FlagsRaised s t) (l : Loc) : t.fixedLoc l = s.fixedLoc l := by
  have hp : t.pairing = s.pairing := by rw [h.rest]; rfl
  have hr : (t.core l.home).ranges = (s.core l.home).ranges := by rw [h.core]
  simp only [State.fixedLoc, State.fixedAt, Core.fixedOffset, hp, hr]

theorem look (h : FlagsRaised s t) (l : Loc) (n : Nat) : t.look l n = s.look l n :=
  look_congr (by rw [h.rest]; rfl) (by rw [h.core]) (by rw [h.rest])

theorem mem (h : FlagsRaised s t) : t.mem = s.mem := by rw [h.rest]

end FlagsRaised

/-- NV is the one flag that a reduction raises. -/
theorem raiseNv_fpctl (s : State) (w : Turn) (b : Bool) (i : Nat) (hi : i < 13) :
    bit ((s.raiseNv w b).thAt w).fpctl i = (bit (s.thAt w).fpctl i || (decide (i = 12) && b)) := by
  cases b with
  | false => simp [State.raiseNv]
  | true =>
    have hnv : (word (16 % 32 * 256)).getLsbD i = decide (i = 12) := by revert i; decide
    simp only [State.raiseNv, if_true, State.thAt_modThAt]
    show ((s.thAt w).fpctl ||| word (16 % 32 * 256)).getLsbD i = _
    rw [BitVec.getLsbD_or, hnv, Bool.and_true]
    rfl

/-! ### An entry at its home -/

/-- A reduction may be performed at its home: no page move has taken the place away, it is no stationary or mitten position,
nor a register or fixed entry, it reads as it is stored, and neither the journal nor the zero map is concerned. -/
structure Performable (s : State) (r : Nat) (e : RedEntry) : Prop where
  place : s.livePlace ((s.partOf r).getD 0) e.loc = e.loc
  data : e.loc.region ≠ .control
  writable : e.loc.builtIn = false
  free : s.fixedLoc e.loc = false
  matched : s.look e.loc e.width = s.peek e.loc e.width
  vault : e.loc.region = .vault → ckptDom (s.thAt { rank := r, slot := e.last }).domid = false
    ∧ (s.core e.loc.home).vault.zero.find? (fun z => decide (z.1 = e.loc.off / 0x10000)) = none

/-- What an entry that is applied leaves: its home holds the result, the buffers, registers and pcs are as they were, and
of the flags of the last issuer, without others to tell, NV alone has changed. -/
structure Performed (s t : State) (r : Nat) (e : RedEntry) : Prop where
  mem : t.mem = Memory.writeN s.mem e.loc.key e.width (redValue e.op e.width (s.peek e.loc e.width) e.val).1
  redbuf : ∀ q, (t.core q).redbuf = (s.core q).redbuf
  turn : t.turn = s.turn
  thread : ∀ w, (t.thAt w).regs = (s.thAt w).regs ∧ (t.thAt w).pc = (s.thAt w).pc
  flags : e.nv = [] → ∀ i, i < 13 → bit (t.thAt { rank := r, slot := e.last }).fpctl i
    = (bit (s.thAt { rank := r, slot := e.last }).fpctl i || (decide (i = 12) && (redValue e.op e.width (s.peek e.loc e.width) e.val).2))

theorem applyRed_performed {s : State} {r : Nat} {e : RedEntry} (h : Performable s r e) : Performed s (s.applyRed r e) r e := by
  have hu := FlagsRaised.foldl (f := fun s n => s.raiseNv { rank := r, slot := n } true) (fun _ _ => .raiseNv _ _ _) e.nv s
  have hnil : e.nv = [] → e.nv.foldl (fun s n => s.raiseNv { rank := r, slot := n } true) s = s := fun hn => by rw [hn]; rfl
  unfold State.applyRed
  dsimp only
  rw [h.place]
  generalize e.nv.foldl (fun s n => s.raiseNv { rank := r, slot := n } true) s = u at hu hnil
  generalize hb : ({ rank := r, dom := if ckptDom (u.thAt ⟨r, e.last⟩).domid then some (u.thAt ⟨r, e.last⟩).domid else none } : Behalf) = b
  have hfix : u.fixedLoc e.loc = false := (hu.fixedLoc _).trans h.free
  have hpeek : u.peek e.loc e.width = s.peek e.loc e.width := by rw [State.peek, hu.mem]; rfl
  have hread : u.readPlace e.loc e.width = s.peek e.loc e.width := by
    rw [State.readPlace, if_neg h.data, hu.look, h.matched]
  have hv : e.loc.region = .vault → b.dom = none
      ∧ (u.core e.loc.home).vault.zero.find? (fun z => decide (z.1 = e.loc.off / 0x10000)) = none := fun hr => by
    obtain ⟨hplain, hmapped⟩ := h.vault hr
    obtain ⟨f, d, hth⟩ := hu.thread ⟨r, e.last⟩
    refine ⟨?_, by rw [hu.core]; exact hmapped⟩
    rw [← hb, hth]
    simp [hplain]
  simp only [hfix, hread, Bool.false_eq_true, if_false]
  generalize hx : redValue e.op e.width (s.peek e.loc e.width) e.val = x
  obtain ⟨hstore, hmem⟩ := write_mem (s := u) (b := b) h.data h.writable hv e.width x.1
  have hleaves := StoreLeaves.store u b e.loc e.width x.1
  have hturn := (HomeWrites.write u b e.loc e.width x.1).turn
  rw [← hstore] at hleaves
  generalize u.write b e.loc e.width x.1 = v at hmem hleaves hturn
  have hnv := FlagsRaised.raiseNv v ⟨r, e.last⟩ x.2
  refine ⟨by rw [hnv.mem, hmem, hu.mem, hx], fun q => by rw [hnv.core, hleaves.core, hu.core], ?_, fun y => ?_, fun hn i hi => ?_⟩
  · rw [hnv.rest]
    exact hturn.trans (by rw [hu.rest])
  · obtain ⟨f, d, hf⟩ := hnv.thread y
    obtain ⟨_, _, hf'⟩ := hu.thread y
    obtain ⟨_, _, hm, -⟩ := hleaves.woken y
    rw [hf, hm, hf']
    exact ⟨rfl, rfl⟩
  · obtain ⟨m, a, hm, -⟩ := hleaves.woken ⟨r, e.last⟩
    rw [raiseNv_fpctl v ⟨r, e.last⟩ x.2 i hi, hm, hnil hn, hx]

/-! ### The members of the sys group that wait for nothing (R110, R194, R303) -/

theorem execIfence_completes (f : FmtA) (s : State) :
    ∃ t, exec (.ifence f) s = .next t ∧ Completes { warn := if f.lk = 0 then [] else [.lkig] } s t :=
  ⟨_, rfl, Completes.setTh (lkIgnored_keeps f.lk _ fun h => by simp [h]) (by simp)⟩

/-- A member that writes one integer to its destination. -/
theorem putInt_completes (f : FmtA) (s : State) (v : Word) :
    Completes (aluFoot f) s (s.modTh fun t => ((t.putInt f.d v).lkIgnored f.lk).next)
      ∧ (s.modTh fun t => ((t.putInt f.d v).lkIgnored f.lk).next).th.get f.d = held f.d (.int v) := by
  have hput : Keeps (aluFoot f) s.th (s.th.putInt f.d v) := Keeps.putInt (by simp [aluFoot])
  refine ⟨Completes.setTh (hput.trans (lkIgnored_keeps f.lk _ fun h => by simp [aluFoot, h])) (by simp), ?_⟩
  simp [Thread.get_putInt]

/-- `wfi` outside user mode: issue stops where nothing is there to go on for. -/
theorem execWfi_waits {f : FmtA} {s : State} (h : s.supervisor = true) : ∃ t, exec (.wfi f) s = .next t ∧ Alone s t
    ∧ t.th.pc = s.th.pc.add 4
    ∧ (s.turn.slot ≠ 4 → (t.th.wfi = true ↔ s.th.ipend &&& s.th.ien = 0))
    ∧ (s.turn.slot = 4 → (t.th.wfi = true ↔ s.me.agent.requests = []))
    ∧ Keeps { warn := if f.lk = 0 then [] else [.lkig] } s.th { t.th with wfi := s.th.wfi } := by
  generalize hb : (if s.turn.slot = 4 then decide (s.me.agent.requests = []) else decide (s.th.ipend &&& s.th.ien = 0)) = b
  have hrun : exec (.wfi f) s = .next (s.setTh (({ s.th.lkIgnored f.lk with wfi := b } : Thread).next)) := by
    refine run_ok (m := _) (t := s.modTh fun t => { t.lkIgnored f.lk with
      wfi := if s.turn.slot = 4 then decide (s.me.agent.requests = []) else decide (t.ipend &&& t.ien = 0) }) ?_ |>.trans ?_
    · simp only [M.bind_apply, M.get_apply, M.ite_apply, h, Bool.not_true, Bool.false_eq_true, if_false, updTh_apply]
    · rw [State.modTh_modTh, State.modTh_eq, hb]
  refine ⟨_, hrun, Alone.setTh _ _, ?_, fun hslot => ?_, fun hslot => ?_, ?_⟩
  · rw [State.th_setTh]
    show (s.th.lkIgnored f.lk).pc.add 4 = _
    simp
  · rw [State.th_setTh, ← hb, if_neg hslot]
    exact decide_eq_true_iff
  · rw [State.th_setTh, ← hb, if_pos hslot]
    exact decide_eq_true_iff
  · rw [State.th_setTh]
    have hwfi : s.th.wfi = (s.th.lkIgnored f.lk).wfi := by simp
    rw [hwfi]
    exact (lkIgnored_keeps f.lk _ fun hlk => by simp [hlk]).trans Keeps.next

/-! ### Fences (R107, R111, R191) -/

/-- The issuing thread after a fence. -/
def fenced (f : FmtA) (t : Thread) : Thread :=
  ((t.warnIf .fmt (decide (f.b.val / 8 = 3) || decide (f.b.val % 8 = 7))).lkIgnored f.lk).next

theorem execFence_eq (f : FmtA) (s : State) :
    exec (.fence f) s = .next ((s.fenceFlush s.turn.rank (fenceScope f)).modTh (fenced f)) := rfl

theorem fenced_keeps (f : FmtA) (t : Thread) : Keeps { warn := [.lkig, .fmt] } t (fenced f t) :=
  ((Keeps.warnIf (by simp)).trans (Keeps.lkIgnored (by simp))).trans Keeps.next

theorem fenced_pc (f : FmtA) (t : Thread) : (fenced f t).pc = t.pc.add 4 := by
  simp [fenced, Thread.next]

theorem fenced_regs (f : FmtA) (t : Thread) : (fenced f t).regs = t.regs := by
  simp [fenced, regs_warnIf]

/-- A kind or a scope that is not assigned sets WARN.FMT. -/
theorem fenced_fmt {f : FmtA} (t : Thread) (h : f.b.val / 8 = 3 ∨ f.b.val % 8 = 7) : bit (fenced f t).warn 2 = true := by
  have hwarn : (decide (f.b.val / 8 = 3) || decide (f.b.val % 8 = 7)) = true := by simpa using h
  have hlk : Keeps { warn := [.lkig] } (t.warnIf .fmt true) (((t.warnIf .fmt true).lkIgnored f.lk).next) :=
    (Keeps.lkIgnored (by simp)).trans Keeps.next
  rw [fenced, hwarn]
  exact Keeps.warn_sticky hlk (warnIf_bit t .fmt (by decide))

/-- With an empty buffer a fence changes its thread alone. -/
theorem execFence_empty {f : FmtA} {s : State} (h : s.me.redbuf = []) : ∃ t, exec (.fence f) s = .next t ∧ Untouched s t
    ∧ Keeps { warn := [.lkig, .fmt] } s.th t.th ∧ t.th.pc = s.th.pc.add 4
    ∧ (f.b.val / 8 = 3 ∨ f.b.val % 8 = 7 → bit t.th.warn 2 = true) := by
  have hth : (s.modCore s.turn.rank fun c => { c with redbuf := [] }).th = s.th := th_modCore _ _ _ fun _ => rfl
  refine ⟨_, execFence_eq f s, ?_⟩
  rw [fenceFlush_nil h, State.th_modTh, hth]
  exact ⟨untouched_of_mem rfl, fenced_keeps f _, fenced_pc f _, fenced_fmt _⟩

/-- A place at home of no page that moves or has moved. -/
theorem livePlace_still {s : State} {l : Loc} (hm : (s.core l.home).agent.moving = none) (hr : (s.core l.home).agent.redirects = []) (p : Nat) :
    s.livePlace p l = l := by
  simp [State.livePlace, State.redirected, State.redirectedFrom, hm, hr]

/-- The home scope of the own scratchpad is the core. -/
theorem homeScope_own {r : Nat} {ga : Ptr} {l : Loc} (hga : ga.sb = 0xF0) (hl : l = scratchLoc r l.off) : homeScope r ga l = 1 := by
  rw [homeScope, hl, hga]
  simp [scratchLoc, scopeOf]

theorem one_le_fenceScope {f : FmtA} (h : 1 ≤ f.b.val % 8) : 1 ≤ fenceScope f := le_min (by omega) h

/-- A core with another buffer. -/
def State.withRedbuf (s : State) (r : Nat) (l : List RedEntry) : State := s.modCore r fun c => { c with redbuf := l }

theorem core_withRedbuf (s : State) (r : Nat) (l : List RedEntry) (q : Nat) :
    ∃ b, (s.withRedbuf r l).core q = { s.core q with redbuf := b } := by
  by_cases e : q = r
  · subst e; exact ⟨l, State.core_modCore _ _ _⟩
  · exact ⟨_, State.core_modCore_ne _ _ e⟩

theorem redbuf_withRedbuf (s : State) (r : Nat) (l : List RedEntry) : ((s.withRedbuf r l).core r).redbuf = l := by
  rw [State.withRedbuf, State.core_modCore]

theorem thAt_withRedbuf (s : State) (r : Nat) (l : List RedEntry) : (s.withRedbuf r l).thAt = s.thAt :=
  funext fun w => thAt_modCore rfl w

/-- A flush of the one entry of a buffer empties the buffer and performs the entry. -/
theorem flushRed_one {s : State} {r : Nat} {x : RedEntry} {p : RedEntry → Bool} (h : (s.core r).redbuf = [x]) (hp : p x = true) :
    s.flushRed r p = (s.withRedbuf r []).applyRed r x := by
  have hclear : (s.modCore r fun c => { c with redbuf := c.redbuf.filter fun e => !p e }) = s.withRedbuf r [] := by
    simp [State.withRedbuf, State.modCore, h, hp]
  simp [State.flushRed, h, hp, hclear]

/-- Where a page lies now is a matter of the agents. -/
theorem livePlace_congr {s t : State} (h : ∀ q, (t.core q).agent = (s.core q).agent) (p : Nat) (l : Loc) : t.livePlace p l = s.livePlace p l := by
  have key : ∀ n l, t.redirectedFrom p n l = s.redirectedFrom p n l := by
    intro n
    induction n with
    | zero => exact fun _ => rfl
    | succ n ih => exact fun l => by simp only [State.redirectedFrom, h, ih]
  simp only [State.livePlace, State.redirected, h, key]

/-- What may be performed may be performed with another buffer. -/
theorem Performable.withRedbuf {s : State} {r q : Nat} {e : RedEntry} (h : Performable s r e) (l : List RedEntry) :
    Performable (s.withRedbuf q l) r e := by
  have hfield : ∀ {α : Type} (g : Core → α), (∀ c b, g { c with redbuf := b } = g c) → ∀ k,
      g ((s.withRedbuf q l).core k) = g (s.core k) := fun g hg k => by
    obtain ⟨b, hb⟩ := core_withRedbuf s q l k
    rw [hb, hg]
  have hfixed : (s.withRedbuf q l).fixedLoc e.loc = s.fixedLoc e.loc := by
    simp only [State.fixedLoc, State.fixedAt, Core.fixedOffset, hfield Core.ranges fun _ _ => rfl]
    rfl
  have hlook : (s.withRedbuf q l).look e.loc e.width = s.look e.loc e.width :=
    look_congr rfl (hfield Core.mitten (fun _ _ => rfl) _) rfl
  exact
    { place := (livePlace_congr (hfield Core.agent fun _ _ => rfl) _ _).trans h.place
      data := h.data
      writable := h.writable
      free := hfixed.trans h.free
      matched := hlook.trans h.matched
      vault := by
        rw [thAt_withRedbuf, hfield (fun c => c.vault.zero) fun _ _ => rfl]
        exact h.vault }

/-- A deferred addition of 8 bytes stores the sum. -/
theorem redValue_add (old new : Nat) : (redValue 0 8 old new).1 = (old + new) % 256 ^ 8 := rfl

theorem stored_mod {s t : State} {l : Loc} {n v : Nat} (h : Stored s t l n (v % 256 ^ n)) : Stored s t l n v :=
  ⟨h.1.trans (Nat.mod_mod _ _), h.2⟩

/-- A fence whose scope takes in the own scratchpad performs an addition that is deferred there. -/
theorem execFence_performs {f : FmtA} {s : State} {x : RedEntry} (hinv : Inv s) (hbuf : s.me.redbuf = [x])
    (hloc : x.loc = scratchLoc s.turn.rank x.loc.off) (hga : x.ga.sb = 0xF0) (hop : x.op = 0) (hwidth : x.width = 8) (hscope : 1 ≤ f.b.val % 8)
    (hfix : s.fixedLoc x.loc = false) (hlook : s.look x.loc 8 = s.peek x.loc 8) (hm : s.me.agent.moving = none)
    (hr : s.me.agent.redirects = []) :
    ∃ t, exec (.fence f) s = .next t ∧ t.me.redbuf = [] ∧ Stored s t x.loc 8 (s.peek x.loc 8 + x.val)
      ∧ t.th.regs = s.th.regs ∧ t.th.pc = s.th.pc.add 4 := by
  have hregion : x.loc.region = .scratch := by rw [hloc]; rfl
  have hhome : x.loc.home = s.turn.rank := by rw [hloc]; rfl
  have hperf : Performable s s.turn.rank x :=
    { place := livePlace_still (by rw [hhome]; exact hm) (by rw [hhome]; exact hr) _
      data := by rw [hregion]; exact nofun
      writable := by simp [Loc.builtIn, hregion]
      free := hfix
      matched := by rw [hwidth]; exact hlook
      vault := fun e => by rw [hregion] at e; exact nomatch e }
  have hin : decide (homeScope s.turn.rank x.ga x.loc ≤ fenceScope f) = true := by
    rw [homeScope_own hga hloc]
    exact decide_eq_true (one_le_fenceScope hscope)
  have hdone := applyRed_performed (hperf.withRedbuf (q := s.turn.rank) [])
  refine ⟨_, execFence_eq f s, ?_⟩
  rw [State.fenceFlush, flushRed_one hbuf hin]
  generalize (s.withRedbuf s.turn.rank []).applyRed s.turn.rank x = u at hdone
  obtain ⟨hregs, hpc⟩ := hdone.thread s.turn
  rw [thAt_withRedbuf] at hregs hpc
  have hturn : u.turn = s.turn := hdone.turn
  have hth : u.th = u.thAt s.turn := by rw [State.th, hturn]
  refine ⟨?_, stored_mod (stored_writeN hinv ?_), ?_, ?_⟩
  · rw [State.modTh_eq, State.me_setTh]
    show u.me.redbuf = []
    rw [State.me, hturn, hdone.redbuf, redbuf_withRedbuf]
  · have hmem := hdone.mem
    rw [hop, hwidth, redValue_add] at hmem
    exact hmem
  · rw [State.th_modTh, fenced_regs, hth, hregs]
    rfl
  · rw [State.th_modTh, fenced_pc, hth, hpc]
    rfl

end Sys2Proof.Machine
end

section
namespace Sys2Proof.Machine

/-- Settles O14: a fence is the flush of the buffer and then a change of its thread alone (`execFence_eq`); an empty buffer
leaves it that change, and the one entry of a buffer is performed at its home (`applyRed_performed`). -/
theorem sysMembersAndFences : Obligations.SysMembersAndFences := by
  unfold Obligations.SysMembersAndFences
  refine ⟨fun f s => ⟨execIfence_completes f s, ?rdcyc, ?rank, execWfi_waits⟩, fun f s h => execFence_empty h, ?performs⟩
  case rdcyc => exact ⟨_, rfl, putInt_completes f s _⟩
  case rank => exact ⟨_, rfl, putInt_completes f s _⟩
  case performs =>
    intro f s x hinv hbuf hloc _ hga hop hwidth hscope hfix hlook hm hr
    exact execFence_performs hinv hbuf hloc hga hop hwidth hscope hfix hlook hm hr

end Sys2Proof.Machine
end

section
/-! What flushes and recalls of deferred reductions leave (R111, R184). -/

namespace Sys2Proof.Machine

open Claims

/-! ### The operations of `red` as those of `amo` (R183, R184) -/

theorem two_pow_bytes (w : Nat) : 2 ^ (w * 8) = 256 ^ w := by
  rw [Nat.mul_comm, pow_mul]
  rfl

/-- A deferred minimum or maximum orders its operands as `amo` does. -/
theorem sintOf_eq_signed {w : Nat} (h : w ∈ [4, 8]) (x : Nat) : sintOf (w * 8) x = signed w x := by
  simp only [List.mem_cons, List.not_mem_nil, or_false] at h
  rcases h with rfl | rfl <;> rfl

theorem nbit_nv (fl : Flags) : decide (fl &&& flagNV ≠ 0) = nbit fl 4 := by
  rw [nbit, show flagNV = 2 ^ 4 by rfl, Nat.and_two_pow]
  cases fl.testBit 4 <;> rfl

theorem homeFadd_eq_rounded (F : Fmt) (a b : Nat) : homeFadd F a b =
    ((rounded F 0 (Machine.Num.add false (F.value a) (F.value b))).1, nbit (rounded F 0 (Machine.Num.add false (F.value a) (F.value b))).2 4) := by
  rw [← nbit_nv]
  rfl

/-- The rows of the table of `amo` stand for different members. -/
theorem amoTable_inj {a b : (FmtAm → Instr) × (Nat → Nat → Nat → Nat → Option Nat × Bool)} (ha : a ∈ amoTable) (hb : b ∈ amoTable)
    (h : a.1 (.ofNat 0) = b.1 (.ofNat 0)) : a = b :=
  List.inj_on_of_nodup_map (f := fun a => encodeNat (a.1 (.ofNat 0))) (by decide) ha hb (by rw [h])

/-- A deferred operation gives at the home what the member of `amo` of its name gives. -/
theorem redValue_of_amo {k : Nat × (FmtAm → Instr)}
    (hk : k ∈ [(0, Instr.amoAdd), (1, .amoFadd), (2, .amoSmin), (3, .amoSmax), (4, .amoFmin), (5, .amoFmax)])
    {a : (FmtAm → Instr) × (Nat → Nat → Nat → Nat → Option Nat × Bool)} (ha : a ∈ amoTable) (h : ∀ f, a.1 f = k.2 f)
    {w old x v : Nat} {nv : Bool} (hw : w ∈ [4, 8]) (hx : x < 256 ^ w) (hres : a.2 w old (x % 256 ^ w) 0 = (some v, nv)) :
    redValue k.1 w old x = (v, nv) := by
  rw [Nat.mod_eq_of_lt hx] at hres
  simp only [List.mem_cons, List.not_mem_nil, or_false] at hk
  rcases hk with rfl | rfl | rfl | rfl | rfl | rfl
  · obtain rfl := amoTable_inj ha (b := amoTable[1]) (List.getElem_mem _) (h _)
    cases hres
    simp only [redValue, two_pow_bytes]
  · obtain rfl := amoTable_inj ha (b := amoTable[10]) (List.getElem_mem _) (h _)
    cases hres
    exact homeFadd_eq_rounded _ _ _
  · obtain rfl := amoTable_inj ha (b := amoTable[5]) (List.getElem_mem _) (h _)
    cases hres
    simp only [redValue, sintOf_eq_signed hw]
  · obtain rfl := amoTable_inj ha (b := amoTable[6]) (List.getElem_mem _) (h _)
    cases hres
    simp only [redValue, sintOf_eq_signed hw]
  · obtain rfl := amoTable_inj ha (b := amoTable[11]) (List.getElem_mem _) (h _)
    cases hres
    rfl
  · obtain rfl := amoTable_inj ha (b := amoTable[12]) (List.getElem_mem _) (h _)
    cases hres
    rfl

/-! ### A flush and a recall (R111) -/

section
variable {s : State} {r : Nat} {e : RedEntry} {l : List RedEntry} {v : Nat} {nv : Bool}

/-- What the oldest entry leaves when it is applied: the rest of the buffer, the result at its home, and NV. -/
theorem applyRed_oldest {t : State} (ht : (s.withRedbuf r l).applyRed r e = t) (hinv : Inv s) (h : Performable s r e) (hn : e.nv = [])
    (hv : redValue e.op e.width (s.peek e.loc e.width) e.val = (v, nv)) : (t.core r).redbuf = l ∧ Stored s t e.loc e.width v
      ∧ (∀ i, i < 13 → i ≠ 12 → bit (t.thAt { rank := r, slot := e.last }).fpctl i = bit (s.thAt { rank := r, slot := e.last }).fpctl i)
      ∧ bit (t.thAt { rank := r, slot := e.last }).fpctl 12 = (bit (s.thAt { rank := r, slot := e.last }).fpctl 12 || nv) := by
  have hdone := applyRed_performed (h.withRedbuf (q := r) l)
  rw [ht] at hdone
  have hpeek : (s.withRedbuf r l).peek e.loc e.width = s.peek e.loc e.width := rfl
  have hmem := hdone.mem
  have hflags := hdone.flags hn
  simp only [hpeek, hv, thAt_withRedbuf] at hmem hflags
  refine ⟨(hdone.redbuf r).trans (redbuf_withRedbuf _ _ _), stored_writeN hinv hmem, fun i hi h12 => ?_, ?_⟩
  · simp [hflags i hi, h12]
  · simp [hflags 12 (by decide)]

theorem execReductionFlush_applies (h : (s.core r).redbuf = e :: l) :
    exec (.reductionFlush r) s = .next ((s.withRedbuf r l).applyRed r e) := by
  show execReductionFlush r s = _
  rw [execReductionFlush, h]
  rfl

/-- A recall of the granule of the one entry that a package holds applies it. -/
theorem execReductionRecall_applies {g : Nat} {c : Core} (h : (s.core r).redbuf = [e]) (hc : s.cores = [(r, c)])
    (hl : e.loc = vaultLoc r (g % 2 ^ 24 * 64 + e.loc.off % 64)) :
    exec (.reductionRecall r g) s = .next ((s.withRedbuf r []).applyRed r e) := by
  have hcore : s.core r = c := by simp [State.core, hc, lookup]
  have hkey : e.loc.key = (vaultLoc r (g % 2 ^ 24 * 64)).key + e.loc.off % 64 := by
    conv_lhs => rw [hl]
    simp only [vaultLoc, Loc.key, Nat.add_assoc]
  have hlt : e.loc.off % 64 < 64 := Nat.mod_lt _ (by decide)
  have hbase : (vaultLoc r (g % 2 ^ 24 * 64)).key % 64 = 0 := by
    simp only [vaultLoc, Loc.key, Region.base]
    omega
  have hhit : (decide ((vaultLoc r (g % 2 ^ 24 * 64)).key / 64 ≤ e.loc.granule)
      && decide (e.loc.granule ≤ ((vaultLoc r (g % 2 ^ 24 * 64)).key + 64 - 1) / 64)) = true := by
    rw [Bool.and_eq_true, decide_eq_true_iff, decide_eq_true_iff, Loc.granule, hkey]
    omega
  show Host.Outcome.next (s.recall (vaultLoc r (g % 2 ^ 24 * 64)) 64) = _
  rw [State.recall]
  simp only [hc, List.filter_cons, List.filter_nil, ← hcore, h, List.any_cons, List.any_nil, hhit, Bool.or_false, if_true, List.foldl_cons,
    List.foldl_nil]
  rw [flushRed_one h hhit]

end

end Sys2Proof.Machine
end

section
/-! A domain that cannot be restored: its tasks fail (R325, R358). -/

namespace Sys2Proof.Machine

open Claims

/-! ### An error that is logged (R351) -/

/-- What an error that is logged leaves: its entry stands first in the log of its core, and beside the logs only pending
interrupts have changed of the cores. -/
structure ErrorLogged (s t : State) (r kind fl detail : Nat) : Prop where
  mem : t.mem = s.mem
  terms : t.terms = s.terms
  core : ∀ q, t.core q = { s.core q with log := (t.core q).log, threads := (t.core q).threads }
  thread : ∀ w, ∃ i, t.thAt w = { s.thAt w with ipend := i }
  head : ∃ e, (t.core r).log.entries.head? = some e ∧ e.kind = BitVec.ofNat 8 kind ∧ e.fl = BitVec.ofNat 8 fl ∧ e.detail = BitVec.ofNat 32 detail

theorem terms_raiseIrqAt (s : State) (r b : Nat) : (s.raiseIrqAt r b).terms = s.terms := by
  have hband : ∀ k, (s.wakeBand k).terms = s.terms := fun k => by unfold State.wakeBand; split <;> rfl
  unfold State.raiseIrqAt
  split
  · unfold State.raiseIrq
    split
    · exact hband _
    · rfl
  · rfl

theorem logError_logged (s : State) (r kind fl : Nat) (addr : Word) (d : Nat) : ErrorLogged s (s.logError r kind fl addr d) r kind fl d := by
  have hth : ∀ w, (s.modCore r fun c => c.logged s.cycle r kind fl addr d).thAt w = s.thAt w := thAt_modCore rfl
  have hself : (s.modCore r fun c => c.logged s.cycle r kind fl addr d).core r = (s.core r).logged s.cycle r kind fl addr d :=
    State.core_modCore _ _ _
  have hother : ∀ q, q ≠ r → (s.modCore r fun c => c.logged s.cycle r kind fl addr d).core q = s.core q := fun q hq =>
    State.core_modCore_ne _ _ hq
  have hterms : (s.modCore r fun c => c.logged s.cycle r kind fl addr d).terms = s.terms := rfl
  have hmem : (s.modCore r fun c => c.logged s.cycle r kind fl addr d).mem = s.mem := rfl
  rw [logError_eq]
  generalize (s.modCore r fun c => c.logged s.cycle r kind fl addr d) = u at *
  obtain ⟨kmem, kth, kcore⟩ := raiseIrqAt_keeps u r 3
  have kterms := terms_raiseIrqAt u r 3
  generalize u.raiseIrqAt r 3 = t at *
  refine ⟨kmem.trans hmem, kterms.trans hterms, fun q => ?_, fun w => ?_, ?_⟩
  · rw [kcore]
    by_cases e : q = r
    · rw [e, hself]; rfl
    · rw [hother q e]
  · obtain ⟨i, hi⟩ := kth w
    exact ⟨i, by rw [hi, hth]⟩
  · rw [kcore, hself]
    exact ⟨_, rfl, rfl, rfl, rfl⟩

/-! ### What the failure of a task outside the slots leaves (R325) -/

/-- The logs are as they were, and every slot has its task, and its failure or none. -/
structure SlotsKept (s t : State) : Prop where
  log : ∀ q, (t.core q).log = (s.core q).log
  task : ∀ w, (t.thAt w).task = (s.thAt w).task
  failing : ∀ w, (t.thAt w).failing = (s.thAt w).failing

namespace SlotsKept

variable {s t u : State}

theorem refl (s : State) : SlotsKept s s := ⟨fun _ => rfl, fun _ => rfl, fun _ => rfl⟩

theorem trans (h : SlotsKept s t) (k : SlotsKept t u) : SlotsKept s u :=
  ⟨fun q => (k.log q).trans (h.log q), fun w => (k.task w).trans (h.task w), fun w => (k.failing w).trans (h.failing w)⟩

theorem foldl {α : Type} {f : State → α → State} (hf : ∀ s x, SlotsKept s (f s x)) (l : List α) (s : State) :
    SlotsKept s (l.foldl f s) := by
  induction l generalizing s with
  | nil => exact refl s
  | cons x l ih => exact (hf s x).trans (ih _)

theorem ofCores (h : t.cores = s.cores) : SlotsKept s t := by
  have hcore : ∀ q, t.core q = s.core q := fun q => by rw [State.core, h]; rfl
  exact ⟨fun q => by rw [hcore], fun w => by rw [State.thAt, hcore]; rfl, fun w => by rw [State.thAt, hcore]; rfl⟩

theorem ofVaultStores (h : VaultStores s t) : SlotsKept s t := by
  refine ⟨fun q => by rw [h.core], fun w => ?_, fun w => ?_⟩ <;> obtain ⟨_, _, hw, -⟩ := h.woken w <;> rw [hw]

theorem modCore (s : State) (r : Nat) {f : Core → Core} (hl : (f (s.core r)).log = (s.core r).log)
    (ht : (f (s.core r)).threads = (s.core r).threads) : SlotsKept s (s.modCore r f) where
  log := fun q => by
    by_cases e : q = r
    · subst e; rw [State.core_modCore, hl]
    · rw [State.core_modCore_ne _ _ e]
  task := fun w => by rw [thAt_modCore ht]
  failing := fun w => by rw [thAt_modCore ht]

theorem wakeBand (s : State) (b : Nat) : SlotsKept s (s.wakeBand b) := by
  unfold State.wakeBand
  split <;> exact ofCores rfl

theorem raiseIrq (s : State) (p b : Nat) : SlotsKept s (s.raiseIrq p b) := by
  unfold State.raiseIrq
  split
  next x _ =>
    refine (wakeBand s (x.spec.sys / 16)).trans ?_
    generalize s.wakeBand (x.spec.sys / 16) = u
    have hslot : ∀ {α : Type} (g : Thread → α), (∀ a i, g { a with ipend := i } = g a) → ∀ w,
        g ((u.modThAt { rank := x.spec.sys, slot := 0 } fun a => { a with ipend := setBit a.ipend b }).thAt w) = g (u.thAt w) := fun g hg w => by
      by_cases e : w = { rank := x.spec.sys, slot := 0 }
      · rw [e, State.thAt_modThAt, hg]
      · rw [othersKept_modThAt _ _ _ _ e]
    exact ⟨fun q => by rw [State.modThAt, core_setThAt_threads], hslot Thread.task fun _ _ => rfl, hslot Thread.failing fun _ _ => rfl⟩
  next => exact refl s

theorem failJoin (s : State) (x : BitVec 16) (c : BitVec 8) (b : Bool) : SlotsKept s (s.failJoin x c b) := by
  have hsettle : ∀ j, (s.settleJoin j).cores = s.cores := fun j => by
    unfold State.settleJoin; dsimp only; split <;> rfl
  unfold State.failJoin
  split
  · exact refl s
  · exact ofCores (hsettle _)

theorem putTerm (s : State) (n : Nat) (m : Term) : SlotsKept s (s.putTerm n m) :=
  trans (t := { s with terms := insert s.terms n m }) (ofCores rfl) (ofVaultStores (putTerm_stores s n m))

theorem freezeQueue (s : State) (q : Nat) (c : BitVec 8) : SlotsKept s (s.freezeQueue q c) := by
  unfold State.freezeQueue
  dsimp only
  split
  · exact refl s
  · split
    · exact trans (t := s.setQueue q { s.queue q with frozen := true, fcause := c }) (ofCores rfl) (raiseIrq _ _ _)
    · exact ofCores rfl

theorem reportFailure (s : State) (n : Nat) (c : BitVec 8) : SlotsKept s (s.reportFailure n c) := by
  unfold State.reportFailure
  split
  next => exact refl s
  next m _ =>
    dsimp only
    generalize (if m.failed then m else { m with failed := true, cause := c }) = m'
    split
    · refine (putTerm s n m').trans ?_
      split <;> exact ofCores rfl
    · exact ((failJoin _ _ _ _).trans (putTerm _ _ _)).trans (freezeQueue _ _ _)

theorem setReady (s : State) (r : Nat) (l : List Task) : SlotsKept s (s.setReady r l) :=
  (modCore s r (f := fun c => { c with ready := l }) rfl rfl).trans (ofVaultStores (setReady_stores l))

theorem failTask (s : State) (r : Nat) (k : Task) (c : BitVec 8) : SlotsKept s (s.failTask r k c) := by
  unfold State.failTask
  exact ((setReady _ _ _).trans (modCore _ _ rfl rfl)).trans (reportFailure _ _ _)

end SlotsKept

/-- With no termination record there is nobody to hear of a failure, and a queue that fits in hardware spills nothing. -/
structure Unheard (s : State) (r : Nat) : Prop where
  terms : s.terms = []
  ready : (s.core r).ready.length ≤ 64

theorem failTask_unheard {s : State} {r : Nat} (h : Unheard s r) (k : Task) (c : BitVec 8) :
    (s.failTask r k c).mem = s.mem ∧ Unheard (s.failTask r k c) r := by
  have hlen : ((s.core r).ready.filter fun y => decide (y.id ≠ k.id)).length ≤ 64 := (List.length_filter_le _ _).trans h.ready
  unfold State.failTask
  rw [setReady_short hlen]
  generalize hu : ((s.modCore r fun c => { c with ready := (s.core r).ready.filter fun y => decide (y.id ≠ k.id) }).modCore r
    fun x => { x with parked := x.parked.filter (fun y => decide (y.id ≠ k.id)) ++ [{ k with wait := .failed }] }) = u
  have hterms : u.terms = [] := by rw [← hu]; exact h.terms
  have hready : (u.core r).ready.length ≤ 64 := by rw [← hu, State.core_modCore, State.core_modCore]; exact hlen
  have hsame : u.reportFailure k.launch c = u := by
    unfold State.reportFailure
    rw [hterms]
    rfl
  rw [hsame]
  exact ⟨by rw [← hu]; rfl, hterms, hready⟩

theorem foldl_failTask_unheard {r : Nat} (c : BitVec 8) (l : List Task) : ∀ {s : State}, Unheard s r →
    (l.foldl (fun s k => s.failTask r k c) s).mem = s.mem := by
  induction l with
  | nil => exact fun _ => rfl
  | cons k l ih =>
    intro s h
    obtain ⟨hmem, hnext⟩ := failTask_unheard h k c
    exact (ih hnext).trans hmem

/-! ### Tasks that fail in their slots (R325) -/

/-- The task of a slot, where a test accepts it, fails. -/
def State.failSlot (s : State) (r : Nat) (p : Task → Bool) (c : BitVec 8) (n : Fin 5) : State :=
  match (s.thAt { rank := r, slot := n }).task with
  | some k => if p k && (s.thAt { rank := r, slot := n }).failing.isNone then s.modThAt { rank := r, slot := n } (·.failWith c) else s
  | none => s

theorem failTasks_eq (s : State) (r : Nat) (p : Task → Bool) (c : BitVec 8) : s.failTasks r p c =
    fourSlots.foldl (fun s n => s.failSlot r p c n)
      ((((s.core r).ready ++ (s.core r).parked).filter fun k => p k && decide (k.wait ≠ .failed)).foldl (fun s k => s.failTask r k c) s) := rfl

theorem failSlot_cases (s : State) (r : Nat) (p : Task → Bool) (c : BitVec 8) (n : Fin 5) : s.failSlot r p c n = s
    ∨ s.failSlot r p c n = s.modThAt { rank := r, slot := n } (·.failWith c) := by
  unfold State.failSlot
  split
  · split
    · exact .inr rfl
    · exact .inl rfl
  · exact .inl rfl

/-- Failures in slots change no byte and no log. -/
theorem foldl_failSlot_keeps (r : Nat) (p : Task → Bool) (c : BitVec 8) (l : List (Fin 5)) (s : State) :
    (l.foldl (fun s n => s.failSlot r p c n) s).mem = s.mem
      ∧ ∀ q, ((l.foldl (fun s n => s.failSlot r p c n) s).core q).log = (s.core q).log := by
  induction l generalizing s with
  | nil => exact ⟨rfl, fun _ => rfl⟩
  | cons n l ih =>
    obtain ⟨hmem, hlog⟩ := ih (s.failSlot r p c n)
    rw [List.foldl_cons]
    rcases failSlot_cases s r p c n with h | h <;> rw [h] at hmem hlog ⊢
    · exact ⟨hmem, hlog⟩
    · exact ⟨hmem, fun q => by rw [hlog, State.modThAt, core_setThAt_threads]⟩

/-- A slot of the list whose task the test accepts, and which has not failed for another cause, has failed. -/
theorem foldl_failSlot_fails {r : Nat} {p : Task → Bool} (c : BitVec 8) {w : Turn} {k : Task} (hw : w.rank = r) (hp : p k = true)
    (l : List (Fin 5)) : ∀ {s : State}, (s.thAt w).task = some k →
    ((s.thAt w).failing = some c ∨ (w.slot ∈ l ∧ (s.thAt w).failing = none)) →
    ((l.foldl (fun s n => s.failSlot r p c n) s).thAt w).failing = some c := by
  induction l with
  | nil => exact fun _ h => h.resolve_right fun h => absurd h.1 List.not_mem_nil
  | cons n l ih =>
    intro s ht h
    rw [List.foldl_cons]
    by_cases e : w = { rank := r, slot := n }
    · subst e
      have hfails : ((s.failSlot r p c n).thAt { rank := r, slot := n }).task = some k
          ∧ ((s.failSlot r p c n).thAt { rank := r, slot := n }).failing = some c := by
        rcases h with h | ⟨-, h⟩
        · simp [State.failSlot, ht, h]
        · simp [State.failSlot, ht, h, hp, Thread.failWith]
      exact ih hfails.1 (.inl hfails.2)
    · have hsame : (s.failSlot r p c n).thAt w = s.thAt w := by
        rcases failSlot_cases s r p c n with h | h <;> rw [h]
        exact othersKept_modThAt _ _ _ _ e
      have hslot : w.slot ≠ n := fun hn => e (by rw [← hw, ← hn])
      rw [← hsame] at ht h
      exact ih ht (h.imp_right fun h => ⟨(List.mem_cons.1 h.1).resolve_left hslot, h.2⟩)

/-- What the failure of the tasks that a test accepts leaves. -/
structure TasksFailed (s t : State) (r : Nat) (p : Task → Bool) (c : BitVec 8) : Prop where
  log : ∀ q, (t.core q).log = (s.core q).log
  mem : Unheard s r → t.mem = s.mem
  slot : ∀ n, n < 4 → ∀ k, (s.thAt (slotAt r n)).task = some k → p k = true → (s.thAt (slotAt r n)).failing = none →
    (t.thAt (slotAt r n)).failing = some c

theorem mem_fourSlots {n : Nat} (h : n < 4) : Fin.ofNat 5 n ∈ fourSlots := by
  revert n; decide

theorem failTasks_failed (s : State) (r : Nat) (p : Task → Bool) (c : BitVec 8) : TasksFailed s (s.failTasks r p c) r p c := by
  rw [failTasks_eq]
  generalize ((s.core r).ready ++ (s.core r).parked).filter (fun k => p k && decide (k.wait ≠ .failed)) = l
  have hkept := SlotsKept.foldl (f := fun s k => s.failTask r k c) (fun _ _ => .failTask _ _ _ _) l s
  have hmem := foldl_failTask_unheard (s := s) (r := r) c l
  generalize l.foldl (fun s k => s.failTask r k c) s = u at hkept hmem
  obtain ⟨kmem, klog⟩ := foldl_failSlot_keeps r p c fourSlots u
  refine { log := fun q => ?_, mem := fun h => ?_, slot := fun n hn k ht hp hf => ?_ }
  · rw [klog, hkept.log]
  · rw [kmem, hmem h]
  · have htask : (u.thAt (slotAt r n)).task = some k := (hkept.task _).trans ht
    have hnone : (u.thAt (slotAt r n)).failing = none := (hkept.failing _).trans hf
    have hslot : (slotAt r n).slot ∈ fourSlots := mem_fourSlots hn
    have hrank : (slotAt r n).rank = r := rfl
    exact foldl_failSlot_fails c hrank hp fourSlots htask (.inr ⟨hslot, hnone⟩)

/-! ### A rollback that fails (R358) -/

/-- A domain of one member without an image, or with one that has been rolled back to twice, cannot be restored. -/
theorem not_restorable {s : State} {dom : Word} {r : Nat} {i : CkptImage}
    (h : (s.core r).ckpt = [] ∨ ((s.core r).ckpt = [i] ∧ i.dom = dom ∧ 2 ≤ i.count)) : s.restorable dom [r] = false := by
  rcases h with h | ⟨h, hdom, hcount⟩
  · simp [State.restorable, h]
  · simp [State.restorable, h, hdom, Nat.lt_of_succ_le hcount]

theorem execRollback_unresolved {s : State} {dom : Word} {l : List Nat} (hdue : dom ∈ s.rollbackDue) (hready : s.rollbackReady dom = true)
    (hl : s.domainMembers dom = l) (h : s.restorable dom l = false) : exec (.rollback dom) s = .next (s.unresolved dom l) := by
  have hcontains : s.rollbackDue.contains dom = true := by simpa using hdue
  show execRollback dom s = _
  simp only [execRollback, hcontains, hready, hl, h, Bool.not_true, Bool.not_false, Bool.or_false, Bool.false_eq_true, if_false, if_true]

theorem unresolved_one (s : State) (dom : Word) (r : Nat) : ∃ d, s.unresolved dom [r] =
    { (s.logError (s.sysCore r) 12 1 0 (field dom 0 16)).failTasks r (·.inDomain dom) (Cause.byte .uncorr) with rollbackDue := d } := by
  unfold State.unresolved
  simp only [List.foldl_cons, List.foldl_nil]
  exact ⟨_, rfl⟩

theorem not_mem_unresolved (s : State) (dom : Word) (l : List Nat) : dom ∉ (s.unresolved dom l).rollbackDue := by
  unfold State.unresolved
  simp

/-- A rollback without an image, or to one that is used up, fails the tasks of the domain. -/
theorem execRollback_fails {s : State} {dom : Word} {r : Nat} {i : CkptImage} (hdue : dom ∈ s.rollbackDue)
    (hready : s.rollbackReady dom = true) (hl : s.domainMembers dom = [r])
    (himage : (s.core r).ckpt = [] ∨ ((s.core r).ckpt = [i] ∧ i.dom = dom ∧ 2 ≤ i.count)) :
    ∃ t, exec (.rollback dom) s = .next t ∧ dom ∉ t.rollbackDue ∧ LogHead t (s.sysCore r) 12
      ∧ (s.terms = [] → (s.core r).ready.length ≤ 64 → Untouched s t)
      ∧ ∀ n, n < 4 → ∀ k, (s.thAt (slotAt r n)).task = some k → k.inDomain dom = true → (s.thAt (slotAt r n)).failing = none →
          (t.thAt (slotAt r n)).failing = some (Cause.byte .uncorr) := by
  refine ⟨_, execRollback_unresolved hdue hready hl (not_restorable himage), not_mem_unresolved _ _ _, ?_⟩
  have hlogged := logError_logged s (s.sysCore r) 12 1 0 (field dom 0 16)
  have hfailed := failTasks_failed (s.logError (s.sysCore r) 12 1 0 (field dom 0 16)) r (·.inDomain dom) (Cause.byte .uncorr)
  obtain ⟨d, hstate⟩ := unresolved_one s dom r
  generalize s.unresolved dom [r] = t at hstate
  generalize s.logError (s.sysCore r) 12 1 0 (field dom 0 16) = u at hlogged hfailed hstate
  generalize u.failTasks r (·.inDomain dom) (Cause.byte .uncorr) = v at hfailed hstate
  have hcore : ∀ q, t.core q = v.core q := fun q => by rw [hstate]; rfl
  have hth : ∀ w, t.thAt w = v.thAt w := fun w => by rw [State.thAt, hcore]; rfl
  refine ⟨?_, fun hterms hlen => untouched_of_mem ?_, fun n hn k ht hk hf => ?_⟩
  · obtain ⟨e, hhead, hkind, -⟩ := hlogged.head
    refine ⟨e, by rw [hcore, hfailed.log]; exact hhead, ?_⟩
    rw [hkind]
    rfl
  · have hunheard : Unheard u r := ⟨hlogged.terms.trans hterms, by rw [hlogged.core]; exact hlen⟩
    have hmem : t.mem = v.mem := by rw [hstate]
    rw [hmem, hfailed.mem hunheard, hlogged.mem]
  · obtain ⟨b, hb⟩ := hlogged.thread (slotAt r n)
    rw [hth]
    exact hfailed.slot n hn k (by rw [hb]; exact ht) hk (by rw [hb]; exact hf)

end Sys2Proof.Machine
end

section
/-! The rollback of a domain on the one core that holds it (R357, R358). -/

namespace Sys2Proof.Machine

open Claims

/-! ### Memory below the stacks of a core -/

/-- A range of memory that gets other cells keeps every byte below it. -/
theorem read_putCells_below (s : State) (l : Loc) (n : Nat) (cells : List Host.Cell) {a : Nat} (h : a < l.key) :
    Memory.read (s.putCells l n cells).mem a = Memory.read s.mem a := by
  unfold State.putCells
  rw [Memory.read_foldl_write_ne _ _ _ _ fun c => by omega]
  exact Memory.read_filter_keep (p := fun a => decide (a < l.key) || decide (l.key + n ≤ a)) s.mem (by simp [h])

theorem read_wipe_below (s : State) (l : Loc) (n : Nat) {a : Nat} (h : a < l.key) :
    Memory.read (s.wipe l n).mem a = Memory.read s.mem a :=
  Memory.read_filter_keep (p := fun a => decide (a < l.key) || decide (l.key + n ≤ a)) s.mem (by simp [h])

/-- The key at which the stacks of a core begin. -/
def stackKey (r : Nat) : Nat := (vaultLoc r (stackBase 0)).key

theorem stackKey_le_stack (r n : Nat) : stackKey r ≤ (vaultLoc r (stackBase n)).key := by
  simp only [stackKey, vaultLoc, Loc.key, Region.base, stackBase]
  omega

theorem stackKey_le_scratch {r : Nat} (h : r < 65536) (q o : Nat) : stackKey r ≤ (scratchLoc q o).key := by
  simp only [stackKey, vaultLoc, scratchLoc, Loc.key, Region.base, stackBase]
  omega

/-! ### What a sweep of a core leaves -/

/-- A core without what the clearing of a domain changes of it. -/
def Core.unswept (c : Core) : Core :=
  { c with threads := Core.reset.threads, xfers := [], mops := [], redbuf := [], parked := [], msgD := [], mitten := .replicate 4 none,
           vault := { Vault.reset with journal := c.vault.journal } }

/-- Of a core, its slots and what a checkpoint and its rollback go by are as they were, and so is memory below its stacks. -/
structure Swept (s t : State) (r : Nat) : Prop where
  terms : t.terms = s.terms
  below : ∀ a, a < stackKey r → Memory.read t.mem a = Memory.read s.mem a
  core : (t.core r).unswept = (s.core r).unswept
  thread : t.thAt = s.thAt

namespace Swept

variable {s t u : State} {r : Nat}

theorem refl (s : State) (r : Nat) : Swept s s r := ⟨rfl, fun _ _ => rfl, rfl, rfl⟩

theorem trans (h : Swept s t r) (k : Swept t u r) : Swept s u r :=
  ⟨k.terms.trans h.terms, fun a ha => (k.below a ha).trans (h.below a ha), k.core.trans h.core, k.thread.trans h.thread⟩

/-- Anything read of the core but what a sweep changes. -/
theorem field (h : Swept s t r) {α : Type} (g : Core → α) (hg : ∀ c, g (Core.unswept c) = g c) : g (t.core r) = g (s.core r) := by
  rw [← hg, h.core, hg]

/-- On a core that binds no frame, steps that sweep make up a sweep. -/
theorem foldl {α : Type} {f : State → α → State} (hf : ∀ s x, (s.core r).frames = [] → Swept s (f s x) r) (l : List α) :
    ∀ {s : State}, (s.core r).frames = [] → Swept s (l.foldl f s) r := by
  induction l with
  | nil => exact fun _ => refl _ _
  | cons x l ih => exact fun h => (hf _ x h).trans (ih (((hf _ x h).field Core.frames fun _ => rfl).trans h))

theorem modCore (s : State) (r : Nat) {f : Core → Core} (hf : (f (s.core r)).unswept = (s.core r).unswept)
    (ht : (f (s.core r)).threads = (s.core r).threads) : Swept s (s.modCore r f) r :=
  ⟨rfl, fun _ _ => rfl, by rw [State.core_modCore, hf], funext fun w => thAt_modCore ht w⟩

theorem modBand (s : State) (r b : Nat) (f : Band → Band) : Swept s (s.modBand b f) r := ⟨rfl, fun _ _ => rfl, rfl, rfl⟩

theorem unhold (s : State) (r k : Nat) : Swept s (s.unhold r k) r := by
  refine modCore s r (f := fun c => { c with vault := c.vault.unhold k }) ?_ rfl
  have hjournal : ((s.core r).vault.unhold k).journal = (s.core r).vault.journal := by
    unfold Vault.unhold
    split <;> rfl
  simp only [Core.unswept, hjournal]

theorem freeMitten (hr : r < 65536) (s : State) (id : Word) : Swept s (s.freeMitten r id) r := by
  have hwipes : ∀ (l : List Nat) (u : State), Swept u (l.foldl (fun s k => s.wipe (scratchLoc r (0x2FE000 + k * 0x800)) 0x800) u) r := by
    intro l
    induction l with
    | nil => exact fun u => refl u r
    | cons k l ih =>
      refine fun u => Swept.trans (t := u.wipe (scratchLoc r (0x2FE000 + k * 0x800)) 0x800) ⟨rfl, fun a ha => ?_, rfl, rfl⟩ (ih _)
      exact read_wipe_below u _ _ (ha.trans_le (stackKey_le_scratch hr _ _))
  unfold State.freeMitten
  refine Swept.trans (modCore s r ?_ ?_) (hwipes _ _)
  · rfl
  · rfl

theorem countWeightless (s : State) (r : Nat) (k : Task) (up : Bool) : Swept s (s.countWeightless r k up) r :=
  (modBand s r _ _).trans (modCore _ r rfl rfl)

theorem putScratch (hr : r < 65536) (s : State) (cells : List Host.Cell) : Swept s (s.putCells (scratchLoc r 0) 0x340000 cells) r :=
  ⟨rfl, fun _ ha => read_putCells_below s _ _ _ (ha.trans_le (stackKey_le_scratch hr _ _)), rfl, rfl⟩

/-- A ready queue that stays empty. -/
theorem setReady_nil (h : (s.core r).ready = []) : Swept s (s.setReady r []) r := by
  rw [setReady_short (by simp)]
  refine modCore s r ?_ rfl
  simp only [Core.unswept, h]

end Swept

/-! ### The domain leaves (R358) -/

/-- What is left of a core whose slots a domain's tasks alone held. -/
structure Cleared (s t : State) (r : Nat) : Prop where
  terms : t.terms = s.terms
  below : ∀ a, a < stackKey r → Memory.read t.mem a = Memory.read s.mem a
  core : (t.core r).unswept = (s.core r).unswept
  slots : ∀ n, n < 4 → (t.thAt (slotAt r n)).occ = .empty

theorem Cleared.field {s t : State} {r : Nat} (h : Cleared s t r) {α : Type} (g : Core → α) (hg : ∀ c, g (Core.unswept c) = g c) :
    g (t.core r) = g (s.core r) := by
  rw [← hg, h.core, hg]

/-- A thread when the tasks of a domain leave. -/
def Thread.cleared (dom : Word) (t : Thread) : Thread := if t.inDomain dom then t.emptied else t

theorem cleared_occ {dom : Word} {t : Thread} (h : t.occ = .empty ∨ t.inDomain dom = true) : (t.cleared dom).occ = .empty := by
  unfold Thread.cleared
  split
  · rfl
  next hd => exact h.resolve_right hd

/-- The tasks of a domain give back what they hold in sweeps of their core, and then leave it. -/
theorem clearDomain_sweeps {s : State} {r : Nat} (dom : Word) (hr : r < 65536) (hf : (s.core r).frames = []) (hready : (s.core r).ready = []) :
    ∃ u f, Swept s u r ∧ s.clearDomain r dom = u.modCore r f ∧ (∀ c, (f c).unswept = c.unswept)
      ∧ ∀ c, (f c).threads = c.threads.map (Thread.cleared dom) := by
  have hxfers : ∀ xs : List TileXfer, Swept s (xs.foldl (fun s x => (framesOf x.offs).foldl (fun s k => s.unhold r k)
      (s.modCore r fun c => { c with xfers := c.xfers.filter fun y => decide (y.id ≠ x.id) })) s) r := fun xs => by
    refine Swept.foldl (fun u x hu => ?_) xs hf
    exact (Swept.modCore u r rfl rfl).trans (Swept.foldl (fun v k _ => .unhold v r k) _ (by rw [State.core_modCore]; exact hu))
  have htasks : ∀ (ks : List Task) (u : State), (u.core r).frames = [] →
      Swept u (ks.foldl (fun s k => (s.unbindFrame r k.id).freeMitten r k.id) u) r := fun ks u =>
    Swept.foldl (fun v k hv => by rw [unbindFrame_nil hv]; exact .freeMitten hr v k.id) ks
  have hweights : ∀ (ks : List Task) (u : State), (u.core r).frames = [] →
      Swept u (ks.foldl (fun s k => s.countWeightless r k false) u) r := fun ks u =>
    Swept.foldl (fun v k _ => .countWeightless v r k false) ks
  unfold State.clearDomain
  dsimp only
  rw [hready, List.filter_nil]
  have h1 := hxfers ((s.core r).xfers.filter fun x => decide (x.dom = dom))
  generalize List.foldl _ s _ = u at h1 ⊢
  have h2 := htasks ((s.core r).domainTasks dom) u ((h1.field Core.frames fun _ => rfl).trans hf)
  have k2 := h1.trans h2
  generalize List.foldl _ u _ = v at k2 ⊢
  have h3 := hweights (((s.core r).domainTasks dom).filter fun k => decide (k.weight = 0)) v ((k2.field Core.frames fun _ => rfl).trans hf)
  have k3 := k2.trans h3
  generalize List.foldl _ v _ = w at k3 ⊢
  have k4 := k3.trans (Swept.setReady_nil ((k3.field Core.ready fun _ => rfl).trans hready))
  exact ⟨_, _, k4, rfl, fun _ => rfl, fun _ => rfl⟩

theorem clearDomain_cleared {s : State} {r : Nat} {dom : Word} (hr : r < 65536) (hf : (s.core r).frames = []) (hready : (s.core r).ready = [])
    (hslots : ∀ n, n < 4 → (s.thAt (slotAt r n)).occ = .empty ∨ (s.thAt (slotAt r n)).inDomain dom = true) :
    Cleared s (s.clearDomain r dom) r := by
  obtain ⟨u, f, hu, heq, hf, hthreads⟩ := clearDomain_sweeps dom hr hf hready
  rw [heq]
  refine ⟨hu.terms, hu.below, by rw [State.core_modCore, hf, hu.core], fun n hn => ?_⟩
  have hth : (u.modCore r f).thAt (slotAt r n) = (s.thAt (slotAt r n)).cleared dom := by
    have hslot : u.thAt (slotAt r n) = s.thAt (slotAt r n) := by rw [hu.thread]
    rw [← hslot, State.thAt, State.thAt]
    show ((u.modCore r f).core r).threads[(slotAt r n).slot] = ((u.core r).threads[(slotAt r n).slot]).cleared dom
    rw [State.core_modCore]
    simp only [hthreads, Fin.getElem_fin, Vector.getElem_map]
  rw [hth]
  exact cleared_occ (hslots n hn)

/-! ### The image comes back (R357, R358) -/

/-- A core with what an image holds of its units, barriers and tasks outside the slots, and the rollback counted. -/
def CkptImage.given (i : CkptImage) (c : Core) : Core :=
  { i.units c with
    parked := c.parked ++ i.parked
    badScratch := []
    sstepn := setSstepn c.sstepn (domKey i.dom) i.sstepn
    sstep := c.sstep.map fun p => if p.dom = i.dom then { p with terminated := true, done := true } else p
    ckpt := c.ckpt.map fun j => if j.dom = i.dom then { j with count := j.count + 1 } else j }

/-- Before the slots are seated, a core takes its image by a sweep and `CkptImage.given`. -/
theorem restoreImage_eq {s : State} {r : Nat} {i : CkptImage} (hr : r < 65536) (hf : (s.core r).frames = []) (hready : (s.core r).ready = [])
    (hi : i.ready = []) (hif : i.frames = []) :
    ∃ u, Swept s u r ∧ s.restoreImage r i = fourSlots.foldl (fun s n => s.restoreThread r i n) (u.modCore r i.given) := by
  have h1 := Swept.putScratch hr s i.cells
  have hweights : ∀ (ks : List Task) (u : State), (u.core r).frames = [] →
      Swept u (ks.foldl (fun s k => s.countWeightless r k true) u) r := fun ks u =>
    Swept.foldl (fun v k _ => .countWeightless v r k true) ks
  unfold State.restoreImage
  dsimp only
  rw [hi, hif, List.foldl_nil, List.foldl_nil]
  generalize s.putCells (scratchLoc r 0) 0x340000 i.cells = u at h1 ⊢
  have hu : (u.core r).ready = [] := (h1.field Core.ready fun _ => rfl).trans hready
  rw [hu]
  have k2 := h1.trans (Swept.setReady_nil hu)
  generalize u.setReady r [] = v at k2 ⊢
  exact ⟨_, k2.trans (hweights _ v ((k2.field Core.frames fun _ => rfl).trans hf)), rfl⟩

/-- A slot as its image has it. -/
def AsImage (t : State) (r : Nat) (i : CkptImage) (n : Fin 5) : Prop :=
  (t.thAt { rank := r, slot := n }).pc = i.threads[n].pc ∧ (t.thAt { rank := r, slot := n }).regs = i.threads[n].regs
    ∧ (t.thAt { rank := r, slot := n }).occ = i.threads[n].occ

/-- What the seating of an image's threads in empty slots leaves: of its core, threads alone have changed, and no byte below
the stacks. -/
structure Seated (s t : State) (r : Nat) (i : CkptImage) (l : List (Fin 5)) : Prop where
  terms : t.terms = s.terms
  below : ∀ a, a < stackKey r → Memory.read t.mem a = Memory.read s.mem a
  core : t.core r = { s.core r with threads := (t.core r).threads }
  seated : ∀ n ∈ l, i.threads[n].inDomain i.dom = true → AsImage t r i n
  others : ∀ n, n ∉ l → t.thAt { rank := r, slot := n } = s.thAt { rank := r, slot := n }

/-- An empty slot takes the thread of its own number. -/
theorem restoreThread_seated {s : State} {r : Nat} {i : CkptImage} {n : Fin 5} (h : (s.thAt { rank := r, slot := n }).occ = .empty) :
    Seated s (s.restoreThread r i n) r i [n] := by
  unfold State.restoreThread
  by_cases hd : i.threads[n].inDomain i.dom = true
  · have hslot : s.restoreSlot r n = some n := by simp [State.restoreSlot, h]
    simp only [hd, Bool.not_true, Bool.false_eq_true, if_false, hslot]
    unfold State.seatImage
    dsimp only
    generalize hx : ({ i.threads[n] with
      ien := (s.thAt { rank := r, slot := n }).ien, ipend := (s.thAt { rank := r, slot := n }).ipend
      missTval := (s.thAt { rank := r, slot := n }).missTval, thermals := (s.thAt { rank := r, slot := n }).thermals
      tscratch := (s.thAt { rank := r, slot := n }).tscratch, stalled := false, pend := 0, outst := [], badRegs := [] } : Thread) = x
    have hback : x.pc = i.threads[n].pc ∧ x.regs = i.threads[n].regs ∧ x.occ = i.threads[n].occ := by rw [← hx]; exact ⟨rfl, rfl, rfl⟩
    refine ⟨rfl, fun a ha => ?_, core_setThAt_threads _ _ _ _, fun m hm _ => ?_, fun m hm => ?_⟩
    · exact read_putCells_below (s.setThAt { rank := r, slot := n } x) _ _ _ (ha.trans_le (stackKey_le_stack r _))
    · obtain rfl := List.mem_singleton.1 hm
      have hth : (s.setThAt { rank := r, slot := m } x).thAt { rank := r, slot := m } = x := State.thAt_setThAt _ _ _
      rw [← hth] at hback
      exact hback
    · exact State.thAt_setThAt_ne _ _ fun e => hm (List.mem_singleton.2 (congrArg Turn.slot e))
  · rw [Bool.not_eq_true] at hd
    rw [hd]
    refine ⟨rfl, fun _ _ => rfl, rfl, fun m hm hm' => ?_, fun _ _ => rfl⟩
    obtain rfl := List.mem_singleton.1 hm
    rw [hd] at hm'
    exact nomatch hm'

theorem foldl_restoreThread_seated {r : Nat} {i : CkptImage} (l : List (Fin 5)) : ∀ {s : State}, l.Nodup →
    (∀ n ∈ l, (s.thAt { rank := r, slot := n }).occ = .empty) → Seated s (l.foldl (fun s n => s.restoreThread r i n) s) r i l := by
  induction l with
  | nil => exact fun _ _ => ⟨rfl, fun _ _ => rfl, rfl, nofun, fun _ _ => rfl⟩
  | cons n l ih =>
    intro s hl h
    obtain ⟨hn, hl⟩ := List.nodup_cons.1 hl
    have hone := restoreThread_seated (i := i) (h n List.mem_cons_self)
    have hrest := ih (s := s.restoreThread r i n) hl fun m hm => by
      rw [hone.others m fun e => hn (List.mem_singleton.1 e ▸ hm)]
      exact h m (List.mem_cons_of_mem _ hm)
    rw [List.foldl_cons]
    refine ⟨hrest.terms.trans hone.terms, fun a ha => (hrest.below a ha).trans (hone.below a ha), by rw [hrest.core, hone.core],
      fun m hm hd => ?_, fun m hm => ?_⟩
    · rcases List.mem_cons.1 hm with rfl | hm
      · have hkept := hrest.others m hn
        unfold AsImage
        rw [hkept]
        exact hone.seated m (List.mem_singleton_self m) hd
      · exact hrest.seated m hm hd
    · rw [hrest.others m fun e => hm (List.mem_cons_of_mem _ e), hone.others m fun e => hm (List.mem_singleton.1 e ▸ List.mem_cons_self)]

/-! ### The journalled row is written back (R356, R358) -/

theorem journal_modCore (s : State) (r : Nat) {f : Core → Core} (hf : ∀ c, (f c).vault.journal = c.vault.journal) (q : Nat) :
    ((s.modCore r f).core q).vault.journal = (s.core q).vault.journal := by
  by_cases e : q = r
  · subst e; rw [State.core_modCore, hf]
  · rw [State.core_modCore_ne _ _ e]

theorem journal_unzero (s : State) (r f q : Nat) : ((s.unzero r f).core q).vault.journal = (s.core q).vault.journal := by
  unfold State.unzero
  split
  · rfl
  · refine (journal_modCore _ r (fun _ => ?_) q).trans ?_
    · rfl
    · split <;> rfl

theorem journal_noteResolve (s : State) (r o n v q : Nat) : ((s.noteResolve r o n v).core q).vault.journal = (s.core q).vault.journal := by
  unfold State.noteResolve
  split
  · rfl
  · split <;> rfl

/-- A store of the hardware adds nothing to a journal. -/
theorem journal_store (s : State) (r o n v q : Nat) :
    ((s.store noBehalf (vaultLoc r o) n v).core q).vault.journal = (s.core q).vault.journal := by
  have hnone : s.journal noBehalf r (rowOf o) = s := rfl
  unfold State.store
  simp only [vaultLoc, hnone]
  obtain ⟨g, -, hwake⟩ := core_wake ((((s.unzero r (o / 0x10000)).modCore r fun c => { c with vault := c.vault.noteWrite o n }).poke
    { region := .vault, home := r, off := o } n v).noteResolve r o n v) { region := .vault, home := r, off := o } n q
  rw [hwake, journal_noteResolve]
  exact (journal_modCore (s.unzero r (o / 0x10000)) r (f := fun c => { c with vault := c.vault.noteWrite o n }) (fun _ => rfl) q).trans
    (journal_unzero s r _ q)

/-- What the one row of a domain's journal leaves when it is written back. -/
structure Undone (s t : State) (r : Nat) (j : JournalRow) : Prop where
  terms : t.terms = s.terms
  row : t.peek (vaultLoc r (j.row * 0x800)) 0x800 = j.old % 256 ^ 0x800
  core : t.core r = { s.core r with vault := (t.core r).vault, threads := (t.core r).threads }
  journal : (t.core r).vault.journal = []
  woken : ∀ w, Woken (s.thAt w) (t.thAt w)

theorem undoJournal_undone {s : State} {r : Nat} {dom : Word} {j : JournalRow} (hinv : Inv s) (hz : (s.core r).vault.zero = [])
    (hl : (s.core r).vault.journal = [j]) (hj : j.dom = dom) : Undone s (s.undoJournal r dom) r j := by
  have hstores := VaultStores.store s r (j.row * 0x800) 0x800 j.old
  have hjournal := journal_store s r (j.row * 0x800) 0x800 j.old r
  obtain ⟨hmem, -, -⟩ := store_plain s noBehalf (vaultLoc r (j.row * 0x800)) 0x800 j.old rfl fun _ => by
    show (s.core r).vault.zero.find? _ = none
    rw [hz]
    rfl
  obtain ⟨hrow, -⟩ := stored_writeN hinv hmem
  unfold State.undoJournal
  simp only [hl, List.filter_cons, List.filter_nil, hj, decide_true, if_true, List.foldl_cons, List.foldl_nil]
  generalize s.store noBehalf (vaultLoc r (j.row * 0x800)) 0x800 j.old = u at hstores hjournal hrow
  have hcv : ∀ x, (if j.cv then u else u.modCore r fun c => { c with vault := { c.vault with noCv := addOnce c.vault.noCv j.row } }) = x →
      VaultStores u x ∧ x.mem = u.mem ∧ (x.core r).vault.journal = (u.core r).vault.journal := fun x hx => by
    subst hx
    split
    · exact ⟨.refl u, rfl, rfl⟩
    · exact ⟨.modVault u r rfl, rfl, by rw [journal_modCore]; exact fun _ => rfl⟩
  generalize hx : (if j.cv then u else u.modCore r fun c => { c with vault := { c.vault with noCv := addOnce c.vault.noCv j.row } }) = x
  obtain ⟨hxs, hxmem, hxjournal⟩ := hcv x hx
  have hlist : (x.core r).vault.journal = [j] := by rw [hxjournal, hjournal, hl]
  have hall := (hstores.trans hxs).trans
    (.modVault x r (f := fun c => { c with vault := { c.vault with journal := c.vault.journal.filter fun j => decide (j.dom ≠ dom) } }) rfl)
  refine ⟨by rw [hall.rest], ?_, hall.core r, ?_, hall.woken⟩
  · rw [← hrow]
    show Memory.readN x.mem _ _ = Memory.readN u.mem _ _
    rw [hxmem]
  · rw [State.core_modCore]
    simp [hlist, hj]

/-! ### A rollback that restores (R358) -/

/-- A domain on one core after its journalled rows have been written back and its image has come back. -/
def State.rolledBack (s : State) (dom : Word) (r : Nat) (i : CkptImage) : State :=
  ((((s.logError r 13 4 0 (field dom 0 16)).undoJournal r dom).clearDomain r dom).restoreImage r i).restoreParticipants r i

theorem restoreParticipants_sstep (s : State) (r : Nat) (i : CkptImage) :
    ∃ p, s.restoreParticipants r i = s.modCore r fun c => { c with sstep := p } := by
  unfold State.restoreParticipants
  dsimp only [State.modCore]
  split
  · exact ⟨(s.core r).sstep, rfl⟩
  · split
    · exact ⟨_, rfl⟩
    · exact ⟨(s.core r).sstep, rfl⟩

/-- No launch is outstanding, so none has weights to settle. -/
theorem settleWeights_nil {s : State} (h : s.terms = []) (before after : List (Nat × Nat)) : s.settleWeights before after = s := by
  rw [State.settleWeights, h, List.foldl_nil]

/-- With an image that is not used up the rollback of a domain on one core restores it. -/
theorem execRollback_restores {s : State} {dom : Word} {r : Nat} {i : CkptImage} (hdue : dom ∈ s.rollbackDue)
    (hready : s.rollbackReady dom = true) (hl : s.domainMembers dom = [r]) (hi : (s.core r).ckpt = [i]) (hdom : i.dom = dom) (hcount : i.count < 2)
    (hkept : ((((s.logError r 13 4 0 (field dom 0 16)).undoJournal r dom).clearDomain r dom).core r).ckpt = [i])
    (hterms : (s.rolledBack dom r i).terms = []) :
    exec (.rollback dom) s = .next { s.rolledBack dom r i with
      rollbackDue := (s.rolledBack dom r i).rollbackDue.filter fun d => decide (d ≠ dom) } := by
  have hcontains : s.rollbackDue.contains dom = true := by simpa using hdue
  have hrest : s.restorable dom [r] = true := by simpa [State.restorable, hi, hdom] using Nat.le_of_lt_succ hcount
  show execRollback dom s = _
  simp only [execRollback, hcontains, hready, hl, hrest, Bool.not_true, Bool.or_false, Bool.false_eq_true, if_false, List.foldl_cons, List.foldl_nil,
    hkept, List.find?_cons, hdom, decide_true]
  rw [← State.rolledBack, settleWeights_nil hterms]

/-- A core as the rollback of a domain finds it for its image: the error is logged, the journal written back, and the units
still those before it. -/
structure Core.Emptied (a c : Core) (dom : Word) : Prop where
  queues : c.queues = a.queues
  ranges : c.ranges = a.ranges
  ckpt : c.ckpt = a.ckpt
  journal : c.vault.journal = []
  log : c.log.entries.head?.map (fun e => (e.kind.toNat, e.fl.toNat, e.detail.toNat)) = some (13, 4, dom.toNat % 2 ^ 16)

theorem Core.Emptied.of_unswept {a b c : Core} {dom : Word} (h : Core.Emptied a b dom) (hc : c.unswept = b.unswept) : Core.Emptied a c dom := by
  have hfield : ∀ {α : Type} (g : Core → α), (∀ c, g (Core.unswept c) = g c) → g c = g b := fun g hg => by rw [← hg, hc, hg]
  exact ⟨(hfield Core.queues fun _ => rfl).trans h.queues, (hfield Core.ranges fun _ => rfl).trans h.ranges,
    (hfield Core.ckpt fun _ => rfl).trans h.ckpt, (hfield (fun c => c.vault.journal) fun _ => rfl).trans h.journal,
    by rw [hfield Core.log fun _ => rfl]; exact h.log⟩

/-- What a rollback leaves of the core of its domain. -/
structure Restored (s t : State) (dom : Word) (r : Nat) (i : CkptImage) (j : JournalRow) : Prop where
  terms : t.terms = s.terms
  row : t.peek (vaultLoc r (j.row * 0x800)) 0x800 = j.old % 256 ^ 0x800
  core : ∃ c th p, Core.Emptied (s.core r) c dom ∧ t.core r = { i.given c with threads := th, sstep := p }
  seated : ∀ n ∈ fourSlots, i.threads[n].inDomain i.dom = true → AsImage t r i n

/-- The journal is written back before the domain leaves. -/
theorem undone_emptied {s t u : State} {dom : Word} {r : Nat} {j : JournalRow} (h : ErrorLogged s t r 13 4 (field dom 0 16))
    (k : Undone t u r j) : Core.Emptied (s.core r) (u.core r) dom := by
  have hc := k.core
  rw [h.core] at hc
  refine ⟨by rw [hc], by rw [hc], by rw [hc], k.journal, ?_⟩
  obtain ⟨e, hhead, hkind, hfl, hdetail⟩ := h.head
  have hlog : (u.core r).log = (t.core r).log := by rw [k.core]
  have hlt : field dom 0 16 < 2 ^ 32 := (Nat.mod_lt _ (by decide)).trans (by decide)
  rw [hlog, hhead, Option.map_some, hkind, hfl, hdetail, BitVec.toNat_ofNat, BitVec.toNat_ofNat, BitVec.toNat_ofNat, Nat.mod_eq_of_lt hlt, field, pow_zero,
    Nat.div_one]

/-- The rows that a journal may hold lie below the stacks. -/
theorem peek_row_congr {s t : State} {r row : Nat} (hrow : row < 0x7C000) (h : ∀ a, a < stackKey r → Memory.read t.mem a = Memory.read s.mem a) :
    t.peek (vaultLoc r (row * 0x800)) 0x800 = s.peek (vaultLoc r (row * 0x800)) 0x800 := by
  refine Memory.readN_congr _ _ fun k hk => h _ ?_
  simp only [stackKey, vaultLoc, Loc.key, Region.base, stackBase]
  omega

/-- The steps of R358 in their order: the error is logged, the journalled row comes back, the domain leaves, and the image's units
and threads come back; the row lies below all that the later steps change. -/
theorem rolledBack_restored {s : State} {dom : Word} {r : Nat} {i : CkptImage} {j : JournalRow} (hinv : Inv s) (h : Restorable s dom r i j) :
    Restored s (s.rolledBack dom r i) dom r i j
      ∧ ((((s.logError r 13 4 0 (field dom 0 16)).undoJournal r dom).clearDomain r dom).core r).ckpt = [i] := by
  obtain ⟨-, ⟨hckpt, hidom, -, hiframes⟩, -, ⟨hjournal, hjdom, hjrow⟩, ⟨hzero, hframes, hr⟩, ⟨-, hready, hiready⟩, hslots⟩ := h
  unfold State.rolledBack
  have h0 := logError_logged s r 13 4 0 (field dom 0 16)
  generalize s.logError r 13 4 0 (field dom 0 16) = s0 at h0 ⊢
  have h1 := undoJournal_undone (s := s0) (dom := dom) (by rw [Inv, h0.mem]; exact hinv) (by rw [h0.core]; exact hzero)
    (by rw [h0.core]; exact hjournal) hjdom
  generalize s0.undoJournal r dom = s1 at h1 ⊢
  have hslots1 : ∀ n, n < 4 → (s1.thAt (slotAt r n)).occ = .empty ∨ (s1.thAt (slotAt r n)).inDomain dom = true := fun n hn => by
    obtain ⟨b, hb⟩ := h0.thread (slotAt r n)
    obtain ⟨m, w, hw, -⟩ := h1.woken (slotAt r n)
    rw [hw, hb]
    exact hslots n hn
  have h2 := clearDomain_cleared (dom := dom) hr (by rw [h1.core, h0.core]; exact hframes) (by rw [h1.core, h0.core]; exact hready) hslots1
  generalize s1.clearDomain r dom = s2 at h2 ⊢
  have hframes2 : (s2.core r).frames = [] := (h2.field Core.frames fun _ => rfl).trans (by rw [h1.core, h0.core]; exact hframes)
  have hready2 : (s2.core r).ready = [] := (h2.field Core.ready fun _ => rfl).trans (by rw [h1.core, h0.core]; exact hready)
  have hempt2 := (undone_emptied h0 h1).of_unswept h2.core
  obtain ⟨u, hu, heq⟩ := restoreImage_eq (s := s2) (i := i) hr hframes2 hready2 hiready hiframes
  have hempty : ∀ n ∈ fourSlots, ((u.modCore r i.given).thAt { rank := r, slot := n }).occ = .empty := fun n hn => by
    rw [thAt_modCore rfl, hu.thread]
    have hlt : n.val < 4 := by revert n; decide
    have hslot := h2.slots n.val hlt
    rwa [show slotAt r n.val = { rank := r, slot := n } by simp [slotAt]] at hslot
  have h3 := foldl_restoreThread_seated (i := i) fourSlots (s := u.modCore r i.given) (by decide) hempty
  rw [heq]
  generalize fourSlots.foldl (fun s n => s.restoreThread r i n) (u.modCore r i.given) = v at h3 ⊢
  obtain ⟨p, hp⟩ := restoreParticipants_sstep v r i
  have hth : (v.restoreParticipants r i).thAt = v.thAt := by rw [hp]; exact funext fun w => thAt_modCore rfl w
  have hmem : (v.restoreParticipants r i).mem = v.mem := by rw [hp]; rfl
  have hterms : (v.restoreParticipants r i).terms = v.terms := by rw [hp]; rfl
  have hcore : (v.restoreParticipants r i).core r = { i.given (u.core r) with threads := (v.core r).threads, sstep := p } := by
    rw [hp, State.core_modCore, h3.core, State.core_modCore]
  generalize v.restoreParticipants r i = t at *
  have hbelow : ∀ a, a < stackKey r → Memory.read t.mem a = Memory.read s1.mem a := fun a ha => by
    rw [hmem, h3.below a ha]
    exact (hu.below a ha).trans (h2.below a ha)
  refine ⟨⟨?_, (peek_row_congr hjrow hbelow).trans h1.row, ⟨_, _, _, hempt2.of_unswept hu.core, hcore⟩, fun n hn hd => ?_⟩,
    hempt2.ckpt.trans hckpt⟩
  · rw [hterms, h3.terms]
    exact hu.terms.trans (h2.terms.trans (h1.terms.trans h0.terms))
  · unfold AsImage
    rw [hth]
    exact h3.seated n hn hd

/-! ### What an image gives back (R358) -/

theorem given_ckpt {i : CkptImage} {c : Core} (h : c.ckpt = [i]) : (i.given c).ckpt = [{ i with count := i.count + 1 }] := by
  show c.ckpt.map _ = _
  simp [h]

theorem given_sstepCount (i : CkptImage) (c : Core) : (i.given c).sstepCount i.dom = i.sstepn := by
  simp only [Core.sstepCount, CkptImage.given, setSstepn, List.find?_cons, decide_true]

theorem given_queues (i : CkptImage) (c : Core) (n : Fin 8) :
    (i.given c).queues[n] = if i.queues[n].dom = i.dom ∨ c.queues[n].dom = i.dom then i.queues[n] else c.queues[n] := by
  simp only [CkptImage.given, CkptImage.units, Fin.getElem_fin, Vector.getElem_ofFn]

theorem mem_given_ranges (i : CkptImage) (c : Core) (x : StatRange) :
    x ∈ (i.given c).ranges ↔ (x ∈ i.ranges ∧ x.dom = i.dom) ∨ (x ∈ c.ranges ∧ x.dom ≠ i.dom) := by
  simp only [CkptImage.given, CkptImage.units, List.mem_append, List.mem_filter, decide_eq_true_iff]
  exact or_comm

/-- A mitten slot of a task of the image comes back. -/
theorem given_mitten {i : CkptImage} {n : Fin 4} {m : Mitten} (h : i.mitten[n] = some m) (hk : ∃ k ∈ i.tasks, k.id = m.task) (c : Core) :
    (i.given c).mitten[n] = some m := by
  have hany : (i.tasks.any fun k => decide (k.id = m.task)) = true := by simpa using hk
  rw [Fin.getElem_fin] at h
  simp only [CkptImage.given, CkptImage.units, Fin.getElem_fin, Vector.getElem_ofFn, h, hany, if_true]

theorem Restored.slot {s t : State} {dom : Word} {r : Nat} {i : CkptImage} {j : JournalRow} (h : Restored s t dom r i j) {n : Nat} (hn : n < 4)
    {k : Fin 5} (hk : k.val = n) (hd : i.threads[k].inDomain i.dom = true) : (t.thAt (slotAt r n)).pc = i.threads[k].pc
      ∧ (t.thAt (slotAt r n)).regs = i.threads[k].regs ∧ (t.thAt (slotAt r n)).occ = i.threads[k].occ := by
  obtain rfl : k = Fin.ofNat 5 n := Fin.ext (by simp [Fin.ofNat, hk]; omega)
  exact h.seated _ (mem_fourSlots hn) hd

/-! ### The rollbacks of clause 2 of O49 -/

/-- A rollback to an image that is not used up restores the domain on its core. -/
theorem execRollback_restored {dom : Word} {s : State} {r : Nat} {i : CkptImage} {j : JournalRow} (hinv : Inv s) (h : Restorable s dom r i j) :
    ∃ t, exec (.rollback dom) s = .next t ∧ dom ∉ t.rollbackDue ∧ t.peek (vaultLoc r (j.row * 0x800)) 0x800 = j.old % 256 ^ 0x800
      ∧ (t.core r).vault.journal = [] ∧ (t.core r).ckpt = [{ i with count := i.count + 1 }] ∧ (t.core r).sstepCount dom = i.sstepn
      ∧ (∀ n : Fin 8, (t.core r).queues[n] =
          (if i.queues[n].dom = dom ∨ (s.core r).queues[n].dom = dom then i.queues[n] else (s.core r).queues[n]))
      ∧ (∀ x, x ∈ (t.core r).ranges ↔ (x ∈ i.ranges ∧ x.dom = dom) ∨ (x ∈ (s.core r).ranges ∧ x.dom ≠ dom))
      ∧ (∀ (n : Fin 4) m, i.mitten[n] = some m → (∃ k ∈ i.tasks, k.id = m.task) → (t.core r).mitten[n] = some m)
      ∧ ((t.core r).log.entries.head?.map (fun e => (e.kind.toNat, e.fl.toNat, e.detail.toNat)) = some (13, 4, dom.toNat % 2 ^ 16))
      ∧ ∀ n, n < 4 → ∀ k : Fin 5, k.val = n → i.threads[k].inDomain dom = true →
          (t.thAt (slotAt r n)).pc = i.threads[k].pc ∧ (t.thAt (slotAt r n)).regs = i.threads[k].regs ∧ (t.thAt (slotAt r n)).occ = i.threads[k].occ := by
  obtain ⟨hres, hkept⟩ := rolledBack_restored hinv h
  obtain ⟨⟨hdue, hready, hl⟩, ⟨hckpt, hidom, hcount, -⟩, -, -, -, ⟨hterms, -⟩, -⟩ := h
  refine ⟨_, execRollback_restores hdue hready hl hckpt hidom hcount hkept (hres.terms.trans hterms), by simp, ?_⟩
  generalize s.rolledBack dom r i = u at hres
  obtain ⟨c, th, p, hc, hcore⟩ := hres.core
  subst hidom
  have hgiven : ∀ {α : Type} (g : Core → α), (∀ c, g { c with threads := th, sstep := p } = g c) → g (u.core r) = g (i.given c) :=
    fun g hg => by rw [hcore, hg]
  have hsstep : ∀ c : Core, Core.sstepCount { c with threads := th, sstep := p } i.dom = c.sstepCount i.dom := fun _ => rfl
  refine ⟨hres.row, (hgiven (·.vault.journal) fun _ => rfl).trans hc.journal, (hgiven Core.ckpt fun _ => rfl).trans (given_ckpt (hc.ckpt.trans hckpt)),
    (hgiven (·.sstepCount i.dom) hsstep).trans (given_sstepCount i c), fun n => ?_, fun x => ?_, fun n m hm hk => ?_, ?_,
    fun n hn k hk hd => hres.slot hn hk hd⟩
  · rw [← hc.queues, ← given_queues]
    exact hgiven (·.queues[n]) fun _ => rfl
  · rw [← hc.ranges, ← mem_given_ranges]
    exact Eq.to_iff (hgiven (x ∈ ·.ranges) fun _ => rfl)
  · exact (hgiven (·.mitten[n]) fun _ => rfl).trans (given_mitten hm hk c)
  · exact (hgiven (fun c => c.log.entries.head?.map fun e => (e.kind.toNat, e.fl.toNat, e.detail.toNat)) fun _ => rfl).trans hc.log

end Sys2Proof.Machine
end

section
/-! ## O49: flushes and recalls of deferred reductions, and the rollback of a domain -/

namespace Sys2Proof.Machine

open Claims

/-- Settles O49: the oldest entry of a buffer and the one entry that a recall names are `Performable`, and what `red` leaves at the
home is what `amo` gives; a rollback that may restore gives its core the image after the journalled row has been written back, and
any other fails the domain's tasks. -/
theorem recoveryEvents : Obligations.RecoveryEvents := by
  unfold Obligations.RecoveryEvents
  refine ⟨?_, fun dom s r i j hinv h => execRollback_restored hinv h, fun dom s r i hdue hready hl himage => execRollback_fails hdue hready hl himage⟩
  intro r s e l hinv hl hset hn hc hb hf hlook hz hdom hw k hk hop a ha hname v nv hres hx
  have hperf : Performable s r e :=
    { place := hset.2, data := hc, writable := hb, free := hf, matched := hlook, vault := fun hv => ⟨hdom, hz hv⟩ }
  have hv := redValue_of_amo hk ha hname hw hx hres
  rw [← hop] at hv
  obtain ⟨hbuf, hstored, hflags, hnv⟩ := applyRed_oldest (l := l) rfl hinv hperf hn hv
  refine ⟨⟨_, execReductionFlush_applies hl, hbuf, hstored, hflags, hnv⟩, fun g c hnil hcores hloc _ => ?_⟩
  subst hnil
  exact ⟨_, execReductionRecall_applies hl hcores hloc, hbuf, hstored⟩

end Sys2Proof.Machine
end

section
/-!
Operand queues under their own instructions, and the tiles that are appended to one (R129, R241-R244).
-/

namespace Sys2Proof.Machine

open Claims

/-! ### Queues of a core, and an instruction that changes its thread and one queue -/

theorem Core.queue_setQueue_ne (c : Core) {q k : Nat} (x : OpQueue) (h : k ≠ q) : (c.setQueue q x).queue k = c.queue k := by
  simp [Core.queue, Core.setQueue, Vector.getD, Ne.symm h]

section
variable {p : Footprint} {s : State} {x : Thread} {lk : Fin 16} {dest : List Res}

/-- A long-latency instruction that changes its thread alone, which is `x` when it is issued. -/
theorem issued_completes {w : OutWait} (hk : Keeps p s.th x) (hout : p.outst = false) (hpc : x.pc = s.th.pc) :
    Completes { p with outst := true } s ((s.setTh (x.issueWaiting lk dest w)).modTh Thread.next)
      ∧ Issued s ((s.setTh (x.issueWaiting lk dest w)).modTh Thread.next) lk dest := by
  obtain ⟨hi, hke, hp⟩ := issued_end (t := s) (lk := lk) (dest := dest) (w := w) hk hout hpc
  rw [State.modTh_setTh] at hi hke hp ⊢
  exact ⟨⟨Alone.setTh s _, hke, hp⟩, hi⟩

theorem th_modQueue (s : State) (q : Nat) (y : OpQueue) : (s.modMe fun c => c.setQueue q y).th = s.th := th_setQueue _ _ _ _

/-- The same for one that writes a queue, too. -/
theorem setQueue_issued {q : Nat} {y : OpQueue} (hq : q < 8) (hk : Keeps p s.th x) (hout : p.outst = false) (hpc : x.pc = s.th.pc) :
    let t := ((s.modMe fun c => c.setQueue q y).setTh (x.issueWaiting lk dest .ready)).modTh Thread.next
    t.me.queue q = y ∧ OtherQueues s t q ∧ Untouched s t ∧ Issued s t lk dest ∧ Keeps { p with outst := true } s.th t.th
      ∧ t.th.pc = s.th.pc.add 4 := by
  obtain ⟨hi, hke, hp⟩ := issued_end (t := s.modMe fun c => c.setQueue q y) (lk := lk) (dest := dest) (w := .ready) hk hout hpc
  have hqueue : ∀ z k, ((s.modMe fun c => c.setQueue q y).setTh z).me.queue k = (s.me.setQueue q y).queue k := fun z k => by
    rw [State.me_setTh, State.me_modMe]; rfl
  rw [State.modTh_setTh] at hi hke hp ⊢
  refine ⟨?_, fun k hne => ?_, fun _ => rfl, hi, hke, hp⟩
  · rw [hqueue, Core.queue_setQueue _ _ hq]
  · rw [hqueue, Core.queue_setQueue_ne _ _ hne]

end

/-! ### Layout, ends and retirement (R241-R243) -/

section
variable {s : State} {f : FmtX}

/-- The queue that `qcfg` lays out. -/
def laidOut (s : State) (f : FmtX) : OpQueue :=
  { cfg := true, base := (s.th.get f.y).v.toNat, cap := (s.th.val f.z).toNat % 128, tid := (s.th.val f.z).toNat / 256 % 256,
    head := 0, count := 0, resv := [], pops := [], dom := s.th.domid }

theorem field_zero {w : Nat} (x : BitVec w) (n : Nat) : field x 0 n = x.toNat % 2 ^ n := by simp [field]

theorem execQcfg_ok (hq : f.x.val < 8) (hsb : (s.th.get f.y).sb = 0xF0) (ha : (s.th.get f.y).v.toNat % 0x800 = 0)
    (hpos : 0 < (s.th.val f.z).toNat % 128) (hcap : (s.th.val f.z).toNat % 128 ≤ 64) (hbase : 0x300000 ≤ (s.th.get f.y).v.toNat)
    (hend : (s.th.get f.y).v.toNat + (s.th.val f.z).toNat % 128 * 0x800 ≤ (if s.pairing s.turn.rank then 0x33E000 else 0x340000))
    (hidle : s.me.queueBusy f.x.val = false) :
    exec (.qcfg f) s = .next (((s.modMe fun c => c.setQueue f.x.val (laidOut s f)).setTh (s.th.issueWaiting f.lk [.q f.x.val] .ready)).modTh
      Thread.next) := by
  have hin : ¬ ((s.th.val f.z).toNat % 128 = 0 ∨ 64 < (s.th.val f.z).toNat % 128 ∨ (s.th.get f.y).v.toNat < 0x300000
      ∨ 0x340000 < (s.th.get f.y).v.toNat + (s.th.val f.z).toNat % 128 * 0x800) := by
    split at hend <;> omega
  have hpair : (s.pairing s.turn.rank && decide (0x33E000 < (s.th.get f.y).v.toNat + (s.th.val f.z).toNat % 128 * 0x800)) = false := by
    cases hp : s.pairing s.turn.rank with
    | false => rfl
    | true =>
      simp only [hp, if_true] at hend
      simpa using hend
  refine run_ok (m := _) ?_
  simp only [M.bind_apply, M.ite_apply, M.get_apply, thread_apply, upd_apply, updTh_apply, Nat.not_le.2 hq, if_false, hsb, ha, ne_eq,
    not_true_eq_false, field_zero, show (2 : Nat) ^ 7 = 128 from rfl, hin, hpair, hidle, Bool.false_eq_true, State.modTh_eq]
  rw [th_modQueue]
  rfl

theorem queuePtr_ok {g : OpQueue → Nat} (hq : f.y.val < 8) (hcfg : (s.me.queue f.y.val).cfg = true) (hidle : s.me.queueBusy f.y.val = false) :
    ∃ t, queuePtr f g s = .next t ∧ Completes { regs := [f.x], outst := true } s t ∧ Issued s t f.lk [.s f.x]
      ∧ t.th.get f.x = held f.x (slotPtr (s.me.queue f.y.val) (g (s.me.queue f.y.val))) := by
  obtain ⟨hc, hi⟩ := issued_completes (p := { regs := [f.x] }) (lk := f.lk) (dest := [.s f.x]) (w := .ready)
    (Keeps.put (t := s.th) (x := slotPtr (s.me.queue f.y.val) (g (s.me.queue f.y.val))) (List.mem_singleton_self f.x)) rfl (by simp)
  refine ⟨_, run_ok (m := _) ?_, hc, hi, ?_⟩
  · simp only [M.bind_apply, M.ite_apply, myCore_apply, updTh_apply, Nat.not_le.2 hq, if_false, needQueue_ok hcfg, hidle, Bool.false_eq_true]
    rfl
  · rw [State.modTh_setTh, State.th_setTh]
    exact Thread.get_put _ _ _

theorem execQpop_retires (hq : f.y.val < 8) (hcfg : (s.me.queue f.y.val).cfg = true) (hidle : s.me.queueBusy f.y.val = false)
    (hcap : (s.th.val f.z).toNat % 128 ≤ (s.me.queue f.y.val).cap) (hcount : (s.th.val f.z).toNat % 128 ≤ (s.me.queue f.y.val).count) :
    ∃ t, exec (.qpop f) s = .next t
      ∧ (t.me.queue f.y.val).count = (s.me.queue f.y.val).count - (s.th.val f.z).toNat % 128
      ∧ (t.me.queue f.y.val).head = (s.me.queue f.y.val).head + (s.th.val f.z).toNat % 128
      ∧ OtherQueues s t f.y.val ∧ Untouched s t ∧ Issued s t f.lk [.s f.x, .q f.y.val]
      ∧ t.th.get f.x = held f.x (.int (word ((s.me.queue f.y.val).count - (s.th.val f.z).toNat % 128)))
      ∧ Keeps { regs := [f.x], outst := true } s.th t.th ∧ t.th.pc = s.th.pc.add 4 := by
  generalize hk : (s.th.val f.z).toNat % 128 = k at hcap hcount ⊢
  generalize hx : s.me.queue f.y.val = x at hcap hcount hcfg ⊢
  obtain ⟨hself, hothers, hbytes, hi, hke, hpc⟩ := setQueue_issued (y := { x with head := x.head + k, count := x.count - k })
    (lk := f.lk) (dest := [.s f.x, .q f.y.val]) hq
    (Keeps.putInt (p := { regs := [f.x] }) (t := s.th) (x := word (x.count - k)) (List.mem_singleton_self f.x)) rfl (by simp)
  have hneed : needQueue f.y.val s = .ok x s := hx ▸ needQueue_ok (hx ▸ hcfg)
  refine ⟨_, run_ok (m := _) ?_, by rw [hself], by rw [hself], hothers, hbytes, hi, ?_, hke, hpc⟩
  · simp only [M.bind_apply, M.ite_apply, myCore_apply, thread_apply, upd_apply, updTh_apply, Nat.not_le.2 hq, if_false, hneed, field_zero,
      show (2 : Nat) ^ 7 = 128 from rfl, hk, Nat.not_lt.2 hcap, Nat.not_lt.2 hcount, hidle, decide_false, Bool.or_false, Bool.false_eq_true,
      State.modTh_eq, th_modQueue]
    rfl
  · rw [State.modTh_setTh, State.th_setTh]
    exact Thread.get_putInt _ _ _

/-- A queue that is not configured (R129). -/
theorem unconfigured_traps (h : MayTrap s) (hq : f.y.val < 8) (hcfg : (s.me.queue f.y.val).cfg = false) :
    ∀ c ∈ ([.qhead, .qtail, .qpop] : List (FmtX → Instr)), ∃ t, exec (c f) s = .next t ∧ TrapEntry {} s t .aperture (word f.y.val) 0 := by
  intro c hc
  simp only [List.mem_cons, List.not_mem_nil, or_false] at hc
  rcases hc with rfl | rfl | rfl
  all_goals
    refine trap_entry (m := _) (k := 0) h ?_
    simp only [M.bind_apply, M.ite_apply, Nat.not_le.2 hq, if_false, needQueue_error hcfg, raise_apply]

theorem execQpush_unconfigured (h : MayTrap s) (hq : f.x.val < 8) (hcfg : (s.me.queue f.x.val).cfg = false) :
    ∃ t, exec (.qpush f) s = .next t ∧ TrapEntry {} s t .aperture (word f.x.val) 0 := by
  refine trap_entry (m := _) (k := 0) h ?_
  simp only [M.bind_apply, M.ite_apply, Nat.not_le.2 hq, if_false, needQueue_error hcfg, raise_apply]

end

/-! ### Tiles that are appended to a queue (R129) -/

theorem OnlyOps.th {s t : State} (h : OnlyOps s t) : t.th = s.th := by
  obtain ⟨l, hcore⟩ := h.core s.turn.rank
  have hturn : t.turn = s.turn := by rw [h.rest]
  rw [State.th, State.thAt, hturn, hcore]
  rfl

theorem OnlyOps.queue {s t : State} (h : OnlyOps s t) (r k : Nat) : (t.core r).queue k = (s.core r).queue k := by
  obtain ⟨l, hcore⟩ := h.core r
  rw [hcore]
  rfl

/-- What tiles that a queue of core `r` gains leave of the rest: the other queues of the core, and threads but for their
monitors. -/
structure TilesAdded (s t : State) (r q : Nat) : Prop where
  turn : t.turn = s.turn
  woken : Woken s.th t.th
  reds : NoReds t
  others : ∀ k, k ≠ q → (t.core r).queue k = (s.core r).queue k

theorem TilesAdded.refl {s : State} {r q : Nat} (h : NoReds s) : TilesAdded s s r q := ⟨rfl, .refl _, h, fun _ _ => rfl⟩

theorem TilesAdded.trans {s t u : State} {r q : Nat} (h : TilesAdded s t r q) (k : TilesAdded t u r q) : TilesAdded s u r q :=
  ⟨k.turn.trans h.turn, h.woken.trans k.woken, k.reds, fun i hi => (k.others i hi).trans (h.others i hi)⟩

section
variable {s : State} {b : Behalf} {r q : Nat}

theorem TilesAdded.setQueue (h : NoReds s) (y : OpQueue) : TilesAdded s (s.modCore r fun c => c.setQueue q y) r q where
  turn := rfl
  woken := by rw [th_setQueue]; exact .refl _
  reds := noReds_modCore h r _ rfl
  others := fun k hk => by rw [State.core_modCore, Core.queue_setQueue_ne _ _ hk]

theorem TilesAdded.store (h : NoReds s) (o n v : Nat) : TilesAdded s (s.store b (scratchLoc r o) n v) r q := by
  obtain ⟨-, hturn, hwoken⟩ := store_scratch s b r o n v
  exact ⟨hturn, hwoken, NoReds.store_scratch h b r o n v, fun k _ => store_scratch_field (fun c => c.queue k) (fun _ _ _ => rfl) s b r o n v r⟩

theorem TilesAdded.captureReady (h : NoReds s) : TilesAdded s (s.captureReady r) r q := by
  have hops := OnlyOps.captureReady h r
  exact ⟨by rw [hops.rest], by rw [hops.th]; exact .refl _, hops.reds, fun k _ => hops.queue r k⟩

theorem TilesAdded.fillSlot (h : NoReds s) (seq tile : Nat) : TilesAdded s (s.fillSlot b r q seq tile) r q := by
  simp only [State.fillSlot, recall_noReds h]
  have hstore := TilesAdded.store (q := q) (b := b) (r := r) h (((s.core r).queue q).tileOff seq) 0x800 tile
  exact (hstore.trans (.setQueue hstore.reds _)).trans (.captureReady (TilesAdded.setQueue hstore.reds _).reds)

/-- A queue without reservations gains a tile at its tail. -/
theorem appendTile {x : OpQueue} (h : NoReds s) (hq : q < 8) (hx : (s.core r).queue q = x) (hres : x.resv = []) (tile : Nat) :
    TilesAdded s (s.appendTiles b r q [tile]) r q
      ∧ (s.appendTiles b r q [tile]).mem = Memory.writeN s.mem (scratchLoc r (x.tileOff (x.head + x.count))).key 0x800 tile
      ∧ ((s.appendTiles b r q [tile]).core r).queue q = { x with count := x.count + 1, resv := [] } := by
  have hreserve : TilesAdded s (s.reserve r q 1) r q := .setQueue h _
  have hslot : ((s.reserve r q 1).core r).queue q = { x with resv := [false] } := by
    rw [State.reserve, State.core_modCore, Core.queue_setQueue _ _ hq, hx, hres]; rfl
  have htail : x.tail = x.head + x.count := by simp [OpQueue.tail, hres]
  have hfill := fillSlot_filled (b := b) (tile := tile) hreserve.reds hq hslot rfl
  have happend : s.appendTiles b r q [tile] = (s.reserve r q 1).fillSlot b r q (x.head + x.count) tile := by
    rw [State.appendTiles, State.appendTiles, hx, htail]
  rw [happend]
  exact ⟨hreserve.trans (.fillSlot hreserve.reds _ _), hfill.mem, hfill.queue⟩

end

theorem execQpush_pushes {s : State} {f : FmtX} {l : Loc} (hinv : Inv s) (hr : NoReds s) (hq : f.x.val < 8) (hroom : HasRoom (s.me.queue f.x.val))
    (hga : TileGa s (s.th.get f.y) l) :
    ∃ t, exec (.qpush f) s = .next t ∧ Pushed s t f.x.val (s.peek l 0x800) ∧ OtherQueues s t f.x.val ∧ Issued s t f.lk [.q f.x.val]
      ∧ Keeps { outst := true, mon := true } s.th t.th ∧ t.th.pc = s.th.pc.add 4 := by
  have hoff := scratchGa_ok (k := 1) hga
  obtain ⟨-, rfl, hquiet⟩ := hga
  obtain ⟨t1, hread, hl1, -⟩ := readAt_leaves hquiet (s.th.get f.y) 1
  obtain ⟨hcfg, hres, hcap, -, -⟩ := hroom
  have hfree : (s.me.queue f.x.val).free ≠ 0 := by simp only [OpQueue.free, hres, List.length_nil]; omega
  have hqueues : ∀ k, (t1.core t1.turn.rank).queue k = s.me.queue k := fun k => hl1.fieldMe (fun c => c.queue k) fun _ _ => rfl
  generalize hv : s.peek (scratchLoc s.turn.rank (s.th.get f.y).v.toNat) 0x800 = v at hread ⊢
  obtain ⟨hadd, hmem, hqueue⟩ := appendTile (b := t1.behalf) (hl1.noReds hr) hq (hqueues f.x.val) hres v
  generalize ht2 : t1.appendTiles t1.behalf t1.turn.rank f.x.val [v] = t2 at hadd hmem hqueue
  rw [hl1.mem, hl1.turn] at hmem
  have hwoken : Woken s.th t2.th := hl1.th ▸ hadd.woken
  have hkeep : Keeps { mon := true } s.th t2.th := Keeps.woken rfl hwoken
  have hpc : t2.th.pc = s.th.pc := by obtain ⟨a, w, hth, -⟩ := hwoken; rw [hth]
  obtain ⟨hi, hke, hpce⟩ := issued_end (t := t2) (lk := f.lk) (dest := [.q f.x.val]) (w := .ready) hkeep rfl hpc
  have hme : ∀ y k, (t2.setTh y).me.queue k = (t2.core t1.turn.rank).queue k := fun y k => by
    rw [State.me_setTh, State.me, ← hadd.turn]; rfl
  refine ⟨(t2.setTh (t2.th.issueWaiting f.lk [.q f.x.val] .ready)).modTh Thread.next, run_ok (m := _) ?_,
    ⟨?_, ?_, stored_writeN hinv hmem⟩, fun k hk => ?_, hi, hke, hpce⟩
  · simp only [M.bind_apply, M.ite_apply, M.get_apply, thread_apply, upd_apply, updTh_apply, Nat.not_le.2 hq, if_false, needQueue_ok hcfg,
      hoff, hfree, hread, ht2, State.modTh_eq]
    rfl
  · rw [State.modTh_setTh, hme, hqueue]
  · rw [State.modTh_setTh, hme, hqueue]
  · rw [State.modTh_setTh, hme, hadd.others k hk, hqueues]

/-- Settles O25: the members that touch their thread and one queue are runs of it (`setQueue_issued`, `issued_completes`), and
`qpush` is the read of its tile followed by `appendTile`. -/
theorem operandQueues : Obligations.OperandQueues := by
  unfold Obligations.OperandQueues
  refine ⟨?qcfg, ?ends, ?qpush, ?traps⟩
  case qcfg =>
    intro f s hq hsb ha hpos hcap hbase hend hidle
    exact ⟨_, execQcfg_ok hq hsb ha hpos hcap hbase hend hidle, setQueue_issued hq (Keeps.refl {} _) rfl rfl⟩
  case ends =>
    intro f s hq hcfg hidle
    exact ⟨queuePtr_ok hq hcfg hidle, queuePtr_ok hq hcfg hidle, fun hcap hcount => execQpop_retires hq hcfg hidle hcap hcount⟩
  case qpush =>
    exact fun f s l hinv hr _ hq hroom hga => execQpush_pushes hinv hr hq hroom hga
  case traps =>
    exact fun f s h => ⟨unconfigured_traps h, execQpush_unconfigured h⟩

end Sys2Proof.Machine
end

section
/-!
Matrix operations as they are issued: the checks, the operands that are read, and the queue of a matrix unit (R128, R129, R234, R235).
-/

namespace Sys2Proof.Machine

open Claims

/-! ### What several reads leave -/

/-- What reads at any homes leave: the cores keep all but their marks. -/
structure Loaded (s t : State) : Prop where
  turn : t.turn = s.turn
  mem : t.mem = s.mem
  core : ∀ r, CoreRead (s.core r) (t.core r)
  pairing : t.pairing = s.pairing
  reds : NoReds t

namespace Loaded

variable {s t u : State}

theorem of_leaves {home : Nat} (h : ReadLeaves home s t) (hr : NoReds s) : Loaded s t :=
  ⟨h.turn, h.mem, h.core, h.pairing, h.noReds hr⟩

theorem trans (h : Loaded s t) (k : Loaded t u) : Loaded s u :=
  ⟨k.turn.trans h.turn, k.mem.trans h.mem, fun r => (h.core r).trans (k.core r), k.pairing.trans h.pairing, k.reds⟩

section
variable (h : Loaded s t)
include h

/-- Anything read of the issuing core but its marks. -/
theorem fieldMe {α : Type} (g : Core → α) (hg : ∀ a b : Core, g (a.marked b) = g a) : g t.me = g s.me := by
  rw [State.me, h.turn, (h.core _).same, hg]; rfl

theorem th : t.th = s.th := by
  have hthreads := h.fieldMe Core.threads fun _ _ => rfl
  unfold State.th State.thAt
  rw [show (t.core t.turn.rank).threads = (s.core s.turn.rank).threads from hthreads, h.turn]

theorem queue (k : Nat) : t.me.queue k = s.me.queue k := h.fieldMe (fun c => c.queue k) fun _ _ => rfl

theorem tileNamed {d : BitVec 512} {tid p q : Nat} {sp : Word} (hn : TileNamed s.me d tid sp p q) : TileNamed t.me d tid sp p q := by
  obtain ⟨g, x, hg, hrest⟩ := hn
  exact ⟨g, x, (h.fieldMe (fun c => c.rangeOf tid) fun _ _ => rfl).trans hg, hrest⟩

end

end Loaded

/-- A read at any home leaves an entry that can be read. -/
theorem ReadLeaves.entry {home : Nat} {s t : State} (h : ReadLeaves home s t) {tid : Nat} {l : Loc} {d : BitVec 512} (he : Entry s tid l d) :
    Entry t tid l d where
  named := by rw [h.th]; exact he.named
  placed := by rw [h.th]; exact h.placed he.placed
  quiet := h.quiet he.quiet fun _ => he.calm
  steady := (h.core _).granules he.steady
  calm := by
    rw [h.field (fun c => c.agent.requests) fun _ _ => rfl]
    exact ⟨he.calm.1, (h.core _).callers he.calm.2⟩
  bytes := by rw [h.peek]; exact he.bytes

theorem noReds_setTh {s : State} (h : NoReds s) (x : Thread) : NoReds (s.setTh x) := noReds_modCore h s.turn.rank _ rfl

theorem M.tryCatch_ok {α : Type} {x : M α} {k : Stop → M α} {a : α} {s t : State} (h : x s = .ok a t) : (tryCatch x k) s = .ok a t := by
  show EStateM.tryCatch x k s = _
  unfold EStateM.tryCatch
  rw [h]

/-! ### The checks at issue (R234) -/

theorem accField_names {r : Reg} {n : Fin 8} (h : names r n) : accField r = some n := by
  have hn : Fin.ofNat 8 r.val = n := by rw [show r.val = n.val from h]; exact Fin.ofNat_val_eq_self n
  rw [accField, if_pos (show r.val < 8 from h ▸ n.isLt), hn]

theorem needAcc_ok {i : Instr} {r : Reg} {n : Fin 8} (s : State) (h : names r n) : needAcc i r s = .ok n s := by
  simp only [needAcc, accField_names h, M.pure_apply]

/-- A field above 7 names no accumulator. -/
theorem needAcc_error {i : Instr} {r : Reg} (s : State) (h : 8 ≤ r.val) :
    needAcc i r s = .error (.trap { cause := .illegal, tval := wordVal i, kind := 0, out := false }) s := by
  simp only [needAcc, accField, if_neg (Nat.not_lt.2 h), illegal, raise_apply]

section
variable {s : State} {n : Fin 8} {kind : MatKind} {pop : Bool} {sp : Word} {record : Option Nat}

/-- The operation that an issue leaves, on a tile of the W tensor, with what it has read. -/
def issuedOp (s : State) (n : Fin 8) (kind : MatKind) (pop : Bool) (sp : Word) (record : Option Nat) (w a : BitVec 512) (x p q : Nat)
    (g : MatArgs) : MatOp :=
  { id := s.me.nextId, slot := s.turn.slot, acc := n, kind := kind, aDesc := a, wDesc := w, wTid := (s.th.acc n).tid, mit := none,
    pos := p, quarter := q, index := x, queue := (s.th.acc n).q,
    seq := if kind.isGang && decide (s.turn.rank % 16 ≠ 0) then (s.me.queue (s.th.acc n).q).tail else (s.me.queue (s.th.acc n).q).assigned,
    pop := pop, qd := BitVec.ofNat 2 (Machine.field sp 32 2), record := record, sent := false, bar := none, dead := none,
    executing := false, read := false, args := some g }

/-- A legal operation passes its checks, and two entries of the tensor table have then been read. -/
theorem matrixIssue_ok {i : Instr} {lw la : Loc} {w a : BitVec 512} {p q : Nat} (hr : NoReds s) (h : MatrixReady s n kind sp lw la w a p q) :
    ∃ u x g, Loaded s u ∧ matrixIssue i n kind pop sp record s
      = .ok (issuedOp s n kind pop sp record w a x p q g) (u.setTh (s.th.warnIf .fmt (sposWarn sp))) := by
  obtain ⟨⟨hv, hmit⟩, heven, hq, ⟨hw, hwv⟩, ⟨ha, hav⟩, htypes, ⟨hkind, hint⟩, hmaps, htile, -⟩ := h
  obtain ⟨t1, hs1, hl1⟩ := validSnapshot_ok (tid := (s.th.acc n).tid) hw hwv
  obtain ⟨t2, hs2, hl2⟩ := validSnapshot_ok (tid := (s.me.queue (s.th.acc n).q).tid) (hl1.entry ha) hav
  have hload : Loaded s t2 := (Loaded.of_leaves hl1 hr).trans (.of_leaves hl2 (hl1.noReds hr))
  obtain ⟨x, hx⟩ := namedTile_ok (tid := (s.th.acc n).tid) (hload.tileNamed htile)
  have hrun : ∃ g, matrixIssue i n kind pop sp record s
      = .ok (issuedOp s n kind pop sp record w a x p q g) (t2.setTh (s.th.warnIf .fmt (sposWarn sp))) := by
    have hodd : (s.th.inPair n && decide (n ≠ evenOf n)) = false := by
      cases hp : s.th.inPair n with
      | false => rfl
      | true => rw [evenOf_even n (heven hp)]; simp
    have hreads : (decide (descKind a = 3) || (decide (kind = .sparse) && (noBitmap a || noBitmap w))) = false := by
      by_cases e : kind = .sparse
      · simp [noBitmap, descBmaddr, descKind, hkind, (hmaps e).1, (hmaps e).2]
      · simp [descKind, hkind, e]
    have hclass : ¬ ((s.th.acc n).cls = 1 ∧ (descKind a ≠ 0 ∨ descKind w ≠ 0)) := fun ⟨e, hne⟩ =>
      hne.elim (fun k => k (hint e).1) fun k => k (hint e).2
    have hvalid : (!(s.th.acc n).valid || (s.th.inPair n && decide (n ≠ evenOf n))) = false := by rw [hodd, Acc.valid, hv]; rfl
    unfold matrixIssue
    rw [M.bind_apply, M.get_apply]
    dsimp only
    rw [hvalid, show (s.th.acc n).isMit = false from hmit]
    simp only [M.ite_apply, Bool.and_false, Bool.and_true, Bool.false_and, Bool.false_eq_true, if_false, Bool.not_false, if_true]
    rw [M.bind_ok _ (needQueue_ok (s := s) (q := (s.th.acc n).q) hq), M.bind_ok _ hs1, M.bind_ok _ hs2]
    simp only [show pairOk (descEt a) (descEt w) = true from htypes, hreads, hclass, Bool.not_true, Bool.false_eq_true, if_false]
    cases s.heldMitten
    all_goals
      simp only [M.bind_apply, M.get_apply, hx, updTh_apply, upd_apply, State.modTh_eq, hload.th, recallAll_noReds (noReds_setTh hload.reds _)]
      exact ⟨_, rfl⟩
  obtain ⟨g, hg⟩ := hrun
  exact ⟨t2, x, g, hload, hg⟩

end

/-! ### The queue of a matrix unit (R128) -/

/-- An operation that has read no more than its operands. -/
def Captured (x y : MatOp) : Prop := y = { x with args := y.args, read := y.read }

theorem Captured.trans {x y z : MatOp} (h : Captured x y) (k : Captured y z) : Captured x z := by
  rw [Captured] at h k ⊢
  rw [k, h]

/-- Every operation of core `r` has read no more than its operands. -/
def OpsRead (s t : State) (r : Nat) : Prop :=
  ∃ g : MatOp → MatOp, (∀ x, Captured x (g x)) ∧ (t.core r).mops = (s.core r).mops.map g

theorem OpsRead.refl (s : State) (r : Nat) : OpsRead s s r := ⟨id, fun _ => rfl, (List.map_id _).symm⟩

theorem OpsRead.trans {s t u : State} {r : Nat} (h : OpsRead s t r) (k : OpsRead t u r) : OpsRead s u r := by
  obtain ⟨g, hg, hst⟩ := h
  obtain ⟨g', hg', htu⟩ := k
  exact ⟨g' ∘ g, fun x => (hg x).trans (hg' _), by rw [htu, hst, List.map_map]⟩

theorem OpsRead.captureTile {s : State} (hr : NoReds s) (r : Nat) (m : MatOp) : OpsRead s (s.captureTile r m) r := by
  unfold State.captureTile
  dsimp only
  split
  · split
    · rw [recall_noReds hr]
      refine ⟨_, fun x => ?_, congrArg Core.mops (State.core_modCore _ _ _)⟩
      split <;> rfl
    · exact .refl s r
  · exact .refl s r

theorem OpsRead.captureReady {s : State} (hr : NoReds s) (r : Nat) : OpsRead s (s.captureReady r) r := by
  unfold State.captureReady
  generalize (s.core r).mops = l
  induction l generalizing s with
  | nil => exact .refl s r
  | cons m l ih => exact (OpsRead.captureTile hr r m).trans (ih (OnlyOps.captureTile hr r m).reds)

section
variable {s t u : State} {m : MatOp}

/-- What an operation that joins its unit's queue leaves, behind every other. -/
structure Joined (s u : State) (m : MatOp) : Prop where
  turn : u.turn = s.turn
  th : u.th = s.th
  mem : u.mem = s.mem
  mops : ∃ g : MatOp → MatOp, (∀ x, Captured x (g x)) ∧ u.me.mops = (s.me.mops ++ [m]).map g
  queue : m.queue < 8 → u.me.queue m.queue
    = { s.me.queue m.queue with pops := (s.me.queue m.queue).pops ++ (if m.pop then [(m.id, false)] else []) }

theorem queued_mops_append : (s.queued m).me.mops = s.me.mops ++ [m] := by
  rw [State.queued, State.me_modMe]
  dsimp only
  split <;> rfl

theorem queued_pops (hq : m.queue < 8) : (s.queued m).me.queue m.queue
    = { s.me.queue m.queue with pops := (s.me.queue m.queue).pops ++ (if m.pop then [(m.id, false)] else []) } := by
  rw [State.queued, State.me_modMe]
  dsimp only
  split
  · exact Core.queue_setQueue _ _ hq
  · rw [List.append_nil]; rfl

theorem enqueueOp_joined (hr : NoReds s) : Joined s (s.enqueueOp m) m := by
  rw [enqueueOp_queued]
  have hq : NoReds (s.queued m) := queued_noReds hr
  have hops := OnlyOps.captureReady hq s.turn.rank
  obtain ⟨g, hg, hmops⟩ := OpsRead.captureReady hq s.turn.rank
  have hturn : ((s.queued m).captureReady s.turn.rank).turn = s.turn := by rw [hops.rest]; rfl
  have hmem : ((s.queued m).captureReady s.turn.rank).mem = s.mem := by rw [hops.rest]; rfl
  refine ⟨hturn, hops.th.trans queued_th, hmem, ⟨g, hg, ?_⟩, fun h => ?_⟩
  · rw [← queued_mops_append, State.me, show ((s.queued m).captureReady (s.queued m).turn.rank).turn = s.turn from hturn]
    exact hmops
  · rw [← queued_pops h, State.me, show ((s.queued m).captureReady (s.queued m).turn.rank).turn = s.turn from hturn]
    exact hops.queue _ _

/-- What an issue leaves before its operation joins the queue: nothing that the queue shows, and one warning. -/
structure AtQueue (s t : State) (b : Bool) : Prop where
  turn : t.turn = s.turn
  mem : t.mem = s.mem
  mops : t.me.mops = s.me.mops
  th : t.th = s.th.warnIf .fmt b
  reds : NoReds t

theorem AtQueue.of_loaded (h : Loaded s t) (b : Bool) : AtQueue s (t.setTh (s.th.warnIf .fmt b)) b where
  turn := h.turn
  mem := h.mem
  mops := by rw [State.me_setTh]; exact h.fieldMe Core.mops fun _ _ => rfl
  th := State.th_setTh _ _
  reds := noReds_setTh h.reds _

theorem AtQueue.setQueue {b : Bool} (h : AtQueue s t b) (q : Nat) (x : Core → OpQueue) : AtQueue s (t.modMe fun c => c.setQueue q (x c)) b where
  turn := h.turn
  mem := h.mem
  mops := by rw [State.me_modMe, ← h.mops]; rfl
  th := by rw [← h.th]; exact th_modCore _ _ _ fun _ => rfl
  reds := noReds_modCore h.reds _ _ rfl

theorem accGroup_warnIf (t : Thread) (w : Warn) (b : Bool) (n : Fin 8) : (t.warnIf w b).accGroup n = t.accGroup n :=
  warnIf_preserves (P := fun t => t.accGroup n) (fun _ _ => rfl) t w b

/-- The state in which an operation has joined its unit's queue and its instruction is outstanding. -/
def State.joined (t : State) (lk : Fin 16) (n : Fin 8) (m : MatOp) : State :=
  ((t.enqueueOp m).setTh (t.th.issueWaiting lk ((t.th.accGroup n).map .acc) (.op m.id))).modTh Thread.next

/-- An operation that is as it issued but for what it has read, in the queue of its unit and outstanding. -/
theorem joined_queued {b : Bool} {lk : Fin 16} (h : AtQueue s t b) (hid : m.id = s.me.nextId) (hslot : m.slot = s.turn.slot)
    (hex : m.executing = false) :
    ∃ m', Captured m m' ∧ Queued s (t.joined lk m.acc m) lk m' ∧ (m.queue < 8 → (t.joined lk m.acc m).me.queue m.queue
        = { t.me.queue m.queue with pops := (t.me.queue m.queue).pops ++ (if m.pop then [(m.id, false)] else []) })
      ∧ Keeps { warn := [.fmt], outst := true } s.th (t.joined lk m.acc m).th := by
  have hj := enqueueOp_joined (m := m) h.reds
  obtain ⟨g, hg, hops⟩ := hj.mops
  rw [h.mops] at hops
  have hcap : Captured m (g m) := hg m
  have hkeep : Keeps { warn := [.fmt] } s.th t.th := by rw [h.th]; exact .warnIf (List.mem_singleton_self _)
  have hpc : t.th.pc = s.th.pc := by rw [h.th]; simp
  obtain ⟨-, hke, hpce⟩ := issued_end (t := t.enqueueOp m) (lk := lk) (dest := (t.th.accGroup m.acc).map .acc) (w := .op m.id) hkeep rfl hpc
  have hme : ∀ x, ((t.enqueueOp m).setTh x).me.mops = (s.me.mops ++ [m]).map g := fun x => by rw [State.me_setTh, ← hops]
  unfold State.joined
  refine ⟨g m, hcap, ⟨?_, ?_, fun y hy => ?_, ?_, ?_, ?_, ?_, hpce, ?_⟩, fun hq => ?_, hke⟩
  · rw [State.modTh_setTh, hme]
    exact List.mem_map_of_mem (by simp)
  · rw [State.modTh_setTh, hme]; simp
  · rw [State.modTh_setTh, hme]
    exact ⟨g y, List.mem_map_of_mem (by simp [hy]), hg y⟩
  · rw [hcap]; exact hid
  · rw [hcap]; exact hslot
  · rw [hcap]; exact hex
  · rw [hcap, State.modTh_setTh, State.th_setTh, h.th, ← accGroup_warnIf s.th .fmt b, ← Thread.warnIf_outst s.th .fmt b]
    exact ⟨_, rfl, rfl, rfl, rfl, rfl⟩
  · exact untouched_of_mem (hj.mem.trans h.mem)
  · rw [State.modTh_setTh, State.me_setTh, ← hj.queue hq]; rfl

end

/-! ### The instructions -/

section
variable {s : State} {f : FmtX} {n : Fin 8} {lw la : Loc} {w a : BitVec 512} {p q : Nat}

/-- `mmac`, `mmul` and `mmac.sp`. -/
theorem product_queues {i : Instr} {kind : MatKind} (hgang : kind.isGang = false) (hr : NoReds s) (hn : names f.x n)
    (h : MatrixReady s n kind (s.th.val f.y) lw la w a p q) :
    ∃ t m, product i kind f s = .next t ∧ Queued s t f.lk m ∧ m.acc = n ∧ m.kind = kind ∧ m.pos = p ∧ m.quarter = q ∧ m.mit = none
      ∧ m.aDesc = a ∧ m.wDesc = w ∧ m.queue = field (s.th.acc n).bind 16 3 ∧ m.pop = nbit f.fl.val 0 ∧ m.record = none
      ∧ m.seq = (s.me.queue m.queue).head + (s.me.queue m.queue).pops.length ∧ m.qd.toNat = field (s.th.val f.y) 32 2
      ∧ (t.me.queue m.queue).pops = (s.me.queue m.queue).pops ++ (if m.pop then [(m.id, false)] else [])
      ∧ Keeps { warn := [.fmt], outst := true } s.th t.th := by
  obtain ⟨u, x, g, hl, hissue⟩ := matrixIssue_ok (i := i) (pop := nbit f.fl.val 0) (record := none) hr h
  generalize hm : issuedOp s n kind (nbit f.fl.val 0) (s.th.val f.y) none w a x p q g = m at hissue
  have hat := AtQueue.of_loaded hl (sposWarn (s.th.val f.y))
  have hfull : (u.setTh (s.th.warnIf .fmt (sposWarn (s.th.val f.y)))).me.macroFull (m.pos / 48) = false := by
    rw [← hm, Core.macroFull, hat.mops]; exact h.room
  obtain ⟨m', hcap, hqueued, hpops, hkeeps⟩ := joined_queued (lk := f.lk) (m := m) hat (by rw [← hm]; rfl) (by rw [← hm]; rfl) (by rw [← hm]; rfl)
  have hq : m.queue < 8 := by rw [← hm]; exact Nat.mod_lt _ (by decide)
  refine ⟨_, m', run_ok (m := _) ?_, hqueued, ?_⟩
  · simp only [M.bind_apply, M.ite_apply, needAcc_ok s hn, thread_apply, hissue, myCore_apply, hfull, Bool.false_eq_true, if_false, upd_apply, updTh_apply,
      State.modTh_eq, (enqueueOp_joined hat.reds).th]
    rw [← hm]
    rfl
  · subst hm
    rw [hcap]
    refine ⟨rfl, rfl, rfl, rfl, rfl, rfl, rfl, rfl, rfl, rfl, ?_, ?_, ?_, hkeeps⟩
    · simp only [issuedOp, hgang, Bool.false_and, Bool.false_eq_true, if_false]
      rfl
    · simp [issuedOp, Machine.field]
    · refine (congrArg OpQueue.pops (hpops hq)).trans ?_
      rw [State.me_setTh, ← hl.queue]
      rfl

/-- `mgang` in a gang task: off position 0 it takes the queue's next slot, too. -/
theorem execMgang_queues {k : Task} (hr : NoReds s) (hn : names f.x n) (htask : s.th.task = some k) (hgang : k.gang = true)
    (hsb : (s.th.get f.z).sb = 0xF0) (hal : (s.th.get f.z).v.toNat % 16 = 0) (hend : (s.th.get f.z).v.toNat + 16 ≤ 0x340000)
    (hfix : s.fixedAt s.turn.rank (s.th.get f.z).v.toNat = false)
    (h : MatrixReady s n (if nbit f.fl.val 1 then .gangMul else .gangMac) (s.th.val f.y) lw la w a p q)
    (hroom : s.turn.rank % 16 ≠ 0 → HasRoom (s.me.queue (field (s.th.acc n).bind 16 3))) :
    ∃ t m, exec (.mgang f) s = .next t ∧ Queued s t f.lk m ∧ m.acc = n ∧ m.kind = (if nbit f.fl.val 1 then .gangMul else .gangMac)
      ∧ m.pos = p ∧ m.quarter = q ∧ m.record = some (s.th.get f.z).v.toNat ∧ m.dead = none ∧ m.queue = field (s.th.acc n).bind 16 3
      ∧ (t.me.queue m.queue).resv = (s.me.queue m.queue).resv ++ (if s.turn.rank % 16 ≠ 0 then [false] else [])
      ∧ Keeps { warn := [.fmt], outst := true } s.th t.th := by
  obtain ⟨u, x, g, hl, hissue⟩ := matrixIssue_ok (i := .mgang f) (pop := nbit f.fl.val 0) (record := some (s.th.get f.z).v.toNat) hr h
  generalize hm : issuedOp s n (if nbit f.fl.val 1 then .gangMul else .gangMac) (nbit f.fl.val 0) (s.th.val f.y)
    (some (s.th.get f.z).v.toNat) w a x p q g = m at hissue
  have hga : scratchGa (s.th.get f.z) 16 16 2 s = .ok (s.th.get f.z).v.toNat s := by
    simp only [scratchGa, hsb, hal, Nat.not_lt.2 hend, ne_eq, not_true_eq_false, if_false, M.pure_apply]
  have hgissue : gangIssue (.mgang f) f s = .ok m (u.setTh (s.th.warnIf .fmt (sposWarn (s.th.val f.y)))) := by
    simp only [gangIssue, M.bind_apply, M.ite_apply, M.get_apply, needAcc_ok s hn, hga, hfix, Bool.false_eq_true, if_false, hissue]
  generalize hv : u.setTh (s.th.warnIf .fmt (sposWarn (s.th.val f.y))) = v at hgissue
  have hat : AtQueue s v (sposWarn (s.th.val f.y)) := hv ▸ AtQueue.of_loaded hl _
  have hfull : s.me.macroFull (m.pos / 48) = false := by rw [← hm]; exact h.room
  have hq : m.queue < 8 := by rw [← hm]; exact Nat.mod_lt _ (by decide)
  have hqueue : v.me.queue m.queue = s.me.queue m.queue := by
    rw [← hv, State.me_setTh, ← hl.queue]; rfl
  have hacc : (accField f.x).getD 0 = m.acc := by rw [accField_names hn, ← hm]; rfl
  have htry : ∀ k, tryCatch (do let m ← gangIssue (.mgang f) f; return Except.ok m : M (Except Trap MatOp)) k s = .ok (.ok m) v := fun k =>
    M.tryCatch_ok (M.bind_ok _ hgissue)
  obtain ⟨t, hrun, hready, hresv⟩ : ∃ t, exec (.mgang f) s = .next (t.joined f.lk m.acc m) ∧ AtQueue s t (sposWarn (s.th.val f.y))
      ∧ (t.me.queue m.queue).resv = (s.me.queue m.queue).resv ++ (if s.turn.rank % 16 ≠ 0 then [false] else []) := by
    by_cases hpos : s.turn.rank % 16 = 0
    · refine ⟨v, run_ok (m := _) ?_, hat, by rw [hqueue]; simp [hpos]⟩
      simp only [M.bind_apply, M.ite_apply, M.get_apply, htask, hgang, htry, Bool.not_true, Bool.false_eq_true, if_false,
        hfull, hpos, ne_eq, not_true_eq_false, upd_apply, updTh_apply, hacc, State.modTh_eq, (enqueueOp_joined hat.reds).th]
    · obtain ⟨-, hres, hcap, -⟩ := hroom hpos
      have hfree : (s.me.queue m.queue).free ≠ 0 := by
        rw [← hm]
        simp only [OpQueue.free, issuedOp, Acc.q, hres, List.length_nil]; omega
      have hres' := hat.setQueue m.queue fun c => { c.queue m.queue with resv := (c.queue m.queue).resv ++ List.replicate 1 false }
      have hrv : v.reserve s.turn.rank m.queue 1
          = v.modMe fun c => c.setQueue m.queue { c.queue m.queue with resv := (c.queue m.queue).resv ++ List.replicate 1 false } := by
        rw [← hat.turn]; rfl
      refine ⟨v.reserve s.turn.rank m.queue 1, run_ok (m := _) ?_, hrv ▸ hres', ?_⟩
      · simp only [M.bind_apply, M.ite_apply, M.get_apply, htask, hgang, htry, Bool.not_true, Bool.false_eq_true, if_false,
          hfull, hpos, ne_eq, not_false_eq_true, if_true, hfree, hat.turn, upd_apply, updTh_apply, hacc, State.modTh_eq,
          (enqueueOp_joined (hrv ▸ hres').reds).th]
      · rw [hrv, State.me_modMe, Core.queue_setQueue _ _ hq, hqueue, if_pos hpos]; rfl
  obtain ⟨m', hcap, hqueued, hpops, hkeeps⟩ := joined_queued (lk := f.lk) (m := m) hready (by rw [← hm]; rfl) (by rw [← hm]; rfl) (by rw [← hm]; rfl)
  refine ⟨_, m', hrun, hqueued, ?_⟩
  subst hm
  rw [hcap]
  exact ⟨rfl, rfl, rfl, rfl, rfl, rfl, rfl, (congrArg OpQueue.resv (hpops hq)).trans hresv, hkeeps⟩

theorem matrixIssue_unbound {i : Instr} {kind : MatKind} {pop : Bool} {sp : Word} {record : Option Nat} (h : bit (s.th.acc n).bind 23 = false) :
    matrixIssue i n kind pop sp record s = .error (.trap { cause := .illegal, tval := wordVal i, kind := 0, out := false }) s := by
  have hvalid : (!(s.th.acc n).valid || (s.th.inPair n && decide (n ≠ evenOf n))) = true := by rw [Acc.valid, h]; rfl
  unfold matrixIssue
  rw [M.bind_apply, M.get_apply]
  dsimp only
  rw [hvalid, M.ite_apply, if_pos rfl, M.bind_apply, illegal, raise_apply]

/-- An accumulator field above 7, or an accumulator without a binding, raises ILLEGAL. -/
theorem product_traps {i : Instr} {kind : MatKind} (ht : MayTrap s) (h : 8 ≤ f.x.val ∨ ∃ n, names f.x n ∧ bit (s.th.acc n).bind 23 = false) :
    ∃ t, product i kind f s = .next t ∧ TrapEntry {} s t .illegal (word (encodeNat i)) 0 := by
  refine trap_entry (m := _) (k := 0) ht ?_
  rcases h with h | ⟨n, hn, hb⟩
  · rw [M.bind_apply, needAcc_error s h]
    rfl
  · rw [M.bind_ok _ (needAcc_ok s hn), M.bind_ok _ (thread_apply s), M.bind_apply, matrixIssue_unbound hb]
    rfl

end

namespace MatrixOps

/-- Settles O26: the issue (`matrixIssue_ok`) and the queue of the unit (`joined_queued`), for each of the instructions. -/
theorem matrixIssue : Obligations.MatrixIssue := by
  unfold Obligations.MatrixIssue
  refine ⟨?products, ?gang, ?traps⟩
  case products =>
    intro e he f s n lw la w a p q _ hr hn h
    simp only [productTable, List.mem_cons, List.not_mem_nil, or_false] at he
    rcases he with rfl | rfl | rfl
    all_goals exact product_queues rfl hr hn h
  case gang =>
    intro f s n k lw la w a p q _ hr hn htask hgang hsb hal hend hfix h hroom
    exact execMgang_queues hr hn htask hgang hsb hal hend hfix h hroom
  case traps =>
    intro e he f s ht h
    simp only [productTable, List.mem_cons, List.not_mem_nil, or_false] at he
    rcases he with rfl | rfl | rfl
    all_goals exact product_traps ht h

end MatrixOps

end Sys2Proof.Machine
end

section
/-!
Accumulators under their own instructions: bindings, clearing, the check and the seal (R130, R135, R136, R233, R236, R239, R240).
-/

namespace Sys2Proof.Machine

open Claims

/-! ### Threads whose accumulators and footprint change -/

theorem Keeps.accs {p : Footprint} {a b : Thread} (h : Keeps p a b) : b.accs = a.accs := by
  rw [h.rest]

/-- A change of accumulators, then of a footprint. -/
theorem AccOnly.keepsAcc_trans {p : Footprint} {l : List (Fin 8)} {a b c : Thread} (h : AccOnly l a b) (k : Keeps p b c) : KeepsAcc p l a c := by
  have hdirty : a.dirty &&& c.dirty = a.dirty := by
    apply BitVec.eq_of_getLsbD_eq
    intro i _
    rw [BitVec.getLsbD_and]
    cases hi : a.dirty.getLsbD i with
    | false => rfl
    | true =>
      have hb : bit b.dirty i = true := h.dirty i hi
      have hc : c.dirty.getLsbD i = true := (k.dirty i).elim (fun e => e.trans hb) And.right
      rw [hc]; rfl
  refine ⟨?_, fun n hn => ?_⟩
  · rw [hdirty]
    have hrest := congrArg (fun t : Thread => { t with accs := a.accs, dirty := a.dirty }) k.rest
    have key : Keeps p { b with accs := a.accs, dirty := a.dirty } { c with accs := a.accs, dirty := a.dirty } :=
      { regs := k.regs, tokens := k.tokens, vregs := k.vregs, masks := k.masks, warn := k.warn, fpctl := k.fpctl, seed := k.seed,
        dirty := fun _ => .inl rfl, outst := k.outst, stack := k.stack, mon := k.mon, waits := k.waits, rest := hrest }
    rwa [h.rest] at key
  · rw [← h.others n hn, Thread.acc, Keeps.accs k]; rfl

/-- How an instruction that changes accumulators and a footprint ends. -/
theorem issuedAcc_end {p : Footprint} {s t : State} {x y : Thread} {l : List (Fin 8)} {lk : Fin 16} {dest : List Res} {w : OutWait}
    (ha : AccOnly l s.th y) (hk : Keeps p y x) (hout : p.outst = false) (hpc : x.pc = y.pc) :
    let e := (t.setTh (x.issueWaiting lk dest w)).modTh Thread.next
    Issued s e lk dest ∧ KeepsAcc { p with outst := true } l s.th e.th ∧ e.th.pc = s.th.pc.add 4 ∧ ∀ k, e.th.acc k = y.acc k := by
  have hpcs : y.pc = s.th.pc := by have e := congrArg Thread.pc ha.rest; exact e
  have houts : y.outst = s.th.outst := by have e := congrArg Thread.outst ha.rest; exact e
  dsimp only
  rw [Issued, State.modTh_setTh, State.th_setTh, ← hpcs, ← houts, ← hk.outst hout, ← hpc]
  refine ⟨⟨_, rfl, rfl, rfl, rfl, rfl⟩, ha.keepsAcc_trans ((hk.withOutst.trans (Keeps.issueWaiting rfl)).trans Keeps.next), rfl, fun k => ?_⟩
  rw [Thread.acc, Thread.acc, ← Keeps.accs hk]; rfl

theorem alone_next (s : State) (x : Thread) : Alone s ((s.setTh x).modTh Thread.next) := by
  rw [State.modTh_setTh]; exact Alone.setTh s _

/-! ### Bits of a binding -/

/-- A flag that is written. -/
theorem bit_withField_ofBool {w : Nat} (x : BitVec w) {i : Nat} (h : i + 1 ≤ w) (b : Bool) : bit (withField x i 1 (ofBool b)) i = b := by
  have hbit : ∀ y : BitVec w, bit y i = (Machine.field y i 1).testBit 0 := fun y => by rw [field_testBit]; simp
  rw [hbit, field_withField x h]
  cases b <;> rfl

theorem bit_withField_one {w : Nat} (x : BitVec w) {i : Nat} (h : i + 1 ≤ w) : bit (withField x i 1 1) i = true := bit_withField_ofBool x h true

theorem field_clearBit_ne {w : Nat} (x : BitVec w) {i lo n : Nat} (h : i < lo ∨ lo + n ≤ i) : Machine.field (clearBit x i) lo n = Machine.field x lo n :=
  field_eq_of_bits fun j hj => bit_clearBit_ne _ (by omega)

/-- The fields of a binding word (R130, R233). -/
structure BoundAs (w old : Word) (q tid cls : Nat) (chk ctrap : Bool) : Prop where
  valid : bit w 23 = true
  chk : bit w 22 = chk
  ctrap : bit w 21 = ctrap
  sat : bit w 20 = bit old 20
  mit : bit w 19 = false
  queue : Machine.field w 16 3 = q
  tid : Machine.field w 8 8 = tid
  cls : Machine.field w 0 2 = cls
  corr : Machine.field w 32 16 = Machine.field old 32 16

theorem bindWord_fields (old : Word) {q tid cls : Nat} (hq : q < 8) (ht : tid < 256) (hc : cls < 4) (chk ctrap : Bool) :
    BoundAs (bindWord old q tid cls chk ctrap false) old q tid cls chk ctrap := by
  have hbits : ∀ i lo n v (x : Word), lo + n ≤ 64 → i < lo ∨ lo + n ≤ i → bit (withField x lo n v) i = bit x i :=
    fun i lo n v x h hi => bit_withField_ne x h hi
  have hfields : ∀ a k lo n v (x : Word), lo + n ≤ 64 → a + k ≤ lo ∨ lo + n ≤ a → Machine.field (withField x lo n v) a k = Machine.field x a k :=
    fun a k lo n v x h ha => field_withField_ne x h ha
  unfold bindWord
  constructor
  · rw [hbits, hbits, hbits, bit_withField_one] <;> decide
  · rw [hbits, hbits, bit_withField_ofBool] <;> decide
  · rw [hbits, bit_withField_ofBool] <;> decide
  · rw [hbits, hbits, hbits, hbits, hbits, hbits, hbits] <;> decide
  · rw [bit_withField_ofBool]; decide
  · rw [hfields, hfields, hfields, hfields, hfields, hfields, field_withField, Nat.mod_eq_of_lt (by omega)] <;> decide
  · rw [hfields, hfields, hfields, hfields, hfields, field_withField, Nat.mod_eq_of_lt (by omega)] <;> decide
  · rw [hfields, hfields, hfields, hfields, field_withField, Nat.mod_eq_of_lt (by omega)] <;> decide
  · rw [hfields, hfields, hfields, hfields, hfields, hfields, hfields] <;> decide

/-! ### mbind (R233) -/

section
variable {s : State} {f : FmtX} {n : Fin 8}

theorem bindClass_eq (w : BitVec 512) (k : Nat) : bindClass w k = boundClass w k := by
  unfold bindClass boundClass descEt descKind
  generalize Machine.field w 8 4 = e
  split
  · rfl
  · by_cases h : Machine.field w 16 3 = 2 <;> by_cases h' : k = 2 <;> simp [h, h']
  · by_cases h : Machine.field w 16 3 = 2 <;> by_cases h' : k = 2 <;> simp [h, h']
  · simp_all

theorem boundClass_lt (w : BitVec 512) (k : Nat) : boundClass w k < 4 := by
  unfold boundClass; split
  · decide
  · split <;> decide

/-- What a binding reads of the A entry: its kind, where INT8 or INT4 weights meet a configured queue, else nothing. -/
def AKindRead (s t u : State) (f : FmtX) (w : BitVec 512) (aKind : Nat) : Prop :=
  (((decide (descEt w = 0xC) || decide (descEt w = 0xD)) && (s.me.queue f.y.val).cfg) = true
      ∧ ∃ a, snapshot (s.me.queue f.y.val).tid t = .ok a u ∧ descKind a = aKind)
    ∨ (((decide (descEt w = 0xC) || decide (descEt w = 0xD)) && (s.me.queue f.y.val).cfg) = false ∧ u = t ∧ aKind = 0)

theorem aKind_read {t : State} {home : Nat} {w : BitVec 512} {aKind : Nat} (hl : ReadLeaves home s t)
    (hints : (Machine.field w 8 4 = 12 ∨ Machine.field w 8 4 = 13) ∧ (s.me.queue f.y.val).cfg = true →
      ∃ la a, Entry s (s.me.queue f.y.val).tid la a ∧ aKind = Machine.field a 16 3)
    (hnone : ¬ ((Machine.field w 8 4 = 12 ∨ Machine.field w 8 4 = 13) ∧ (s.me.queue f.y.val).cfg = true) → aKind = 0) :
    ∃ u, AKindRead s t u f w aKind ∧ u.th = s.th ∧ u.mem = s.mem := by
  by_cases h : (descEt w = 12 ∨ descEt w = 13) ∧ (s.me.queue f.y.val).cfg = true
  · obtain ⟨la, a, he, rfl⟩ := hints h
    obtain ⟨u, hs, hl', -⟩ := snapshot_ok (hl.entry he)
    exact ⟨u, .inl ⟨by simpa using h, a, hs, rfl⟩, hl'.th.trans hl.th, hl'.mem.trans hl.mem⟩
  · exact ⟨t, .inr ⟨by simpa using h, rfl, hnone h⟩, hl.th, hl.mem⟩

theorem bindAcc_only (t : Thread) (n : Fin 8) (q tid cls : Nat) (chk ctrap mit : Bool) :
    let k := if cls = 2 then evenOf n else n
    let y := t.aput k { t.acc k with bind := bindWord (t.acc k).bind q tid cls chk ctrap mit }
    AccOnly [k] t y ∧ t.bindAcc n q tid cls chk ctrap mit = y.warnIf .align (decide (k ≠ n)) :=
  ⟨AccOnly.aput List.mem_cons_self, rfl⟩

/-- The state in which a binding has been written. -/
def State.bindIssued (u : State) (f : FmtX) (n : Fin 8) (cls : Nat) : State :=
  (u.setTh ((u.th.bindAcc n f.y.val (tidIn u.th f.z) cls (nbit f.fl.val 0) (nbit f.fl.val 1) false).issueOut f.lk
    (if cls = 2 then [.acc (evenOf n), .acc (oddOf n)] else [.acc n]))).modTh Thread.next

theorem execMbind_binds {l : Loc} {w : BitVec 512} {aKind cls : Nat} (hn : names f.x n) (hy : f.y.val < 8) (hmit : nbit f.fl.val 2 = false)
    (hbusy : s.accBusy n = false) (heven : s.accBusy (evenOf n) = false) (hodd : s.accBusy (oddOf n) = false)
    (he : Entry s (tidIn s.th f.z) l w) (hv : bit w 0 = true) (het : Machine.field w 8 4 ∉ [9, 10, 11, 15])
    (hints : (Machine.field w 8 4 = 12 ∨ Machine.field w 8 4 = 13) ∧ (s.me.queue f.y.val).cfg = true →
      ∃ la a, Entry s (s.me.queue f.y.val).tid la a ∧ aKind = Machine.field a 16 3)
    (hnone : ¬ ((Machine.field w 8 4 = 12 ∨ Machine.field w 8 4 = 13) ∧ (s.me.queue f.y.val).cfg = true) → aKind = 0)
    (hcls : cls = boundClass w aKind) (hkind : Machine.field w 16 3 = 3 → cls ≠ 1) :
    ∃ u : State, exec (.mbind f) s = .next (u.bindIssued f n cls) ∧ u.th = s.th ∧ u.mem = s.mem := by
  obtain ⟨t, hs, hl, -⟩ := snapshot_ok he
  obtain ⟨u, hk, hth, hmem⟩ := aKind_read hl hints hnone
  have hbad : (badWeight (descEt w) || !descV w) = false := by
    simp only [List.mem_cons, List.not_mem_nil, or_false, not_or] at het
    obtain ⟨h9, ha, hb, hf⟩ := het
    simp [badWeight, descEt, descV, hv, h9, ha, hb, hf]
  have hscale : ¬ (descKind w = 3 ∧ cls = 1) := fun ⟨h3, h1⟩ => hkind h3 h1
  have hfree : ¬ (cls = 2 ∧ (s.accBusy (evenOf n) = true ∨ s.accBusy (oddOf n) = true)) := by simp [heven, hodd]
  refine ⟨u, run_ok (m := _) ?_, hth, hmem⟩
  rcases hk with ⟨hc, a, ha, hak⟩ | ⟨hc, rfl, rfl⟩
  · simp only [M.bind_apply, M.ite_apply, M.get_apply, M.pure_apply, Nat.not_le.2 hy, needAcc_ok s hn, hmit, hbusy, hs, ha, hak, hbad, hc,
      bindClass_eq, ← hcls, hscale, hfree, updTh_apply, State.modTh_eq, hth, tidOf_val,
      Bool.false_and, Bool.false_or, Bool.false_eq_true, if_false, if_true]
  · simp only [M.bind_apply, M.ite_apply, M.get_apply, M.pure_apply, Nat.not_le.2 hy, needAcc_ok s hn, hmit, hbusy, hs, hbad, hc,
      bindClass_eq, ← hcls, hscale, hfree, updTh_apply, State.modTh_eq, hth, tidOf_val,
      Bool.false_and, Bool.false_or, Bool.false_eq_true, if_false]

end

/-- What a binding leaves. -/
theorem bindIssued_bound {s u : State} {f : FmtX} {n k : Fin 8} {cls : Nat} (hy : f.y.val < 8) (hlt : cls < 4) (hk : k = if cls = 2 then evenOf n else n)
    (hth : u.th = s.th) (hmem : u.mem = s.mem) :
    let t := u.bindIssued f n cls
    Untouched s t ∧ Issued s t f.lk (if cls = 2 then [.acc (evenOf n), .acc (oddOf n)] else [.acc n]) ∧ t.th.pc = s.th.pc.add 4
      ∧ KeepsAcc { warn := [.align], outst := true } [k] s.th t.th ∧ (t.th.acc k).elems = (s.th.acc k).elems
      ∧ bit (t.th.acc k).bind 23 = true ∧ bit (t.th.acc k).bind 22 = nbit f.fl.val 0 ∧ bit (t.th.acc k).bind 21 = nbit f.fl.val 1
      ∧ bit (t.th.acc k).bind 20 = bit (s.th.acc k).bind 20 ∧ bit (t.th.acc k).bind 19 = false
      ∧ Machine.field (t.th.acc k).bind 16 3 = f.y.val ∧ Machine.field (t.th.acc k).bind 8 8 = tidIn s.th f.z
      ∧ Machine.field (t.th.acc k).bind 0 2 = cls
      ∧ Machine.field (t.th.acc k).bind 32 16 = Machine.field (s.th.acc k).bind 32 16 ∧ (k ≠ n → bit t.th.warn 3 = true) := by
  obtain ⟨honly, hbind⟩ := bindAcc_only s.th n f.y.val (tidIn s.th f.z) cls (nbit f.fl.val 0) (nbit f.fl.val 1) false
  have hword := bindWord_fields (s.th.acc k).bind hy (Nat.mod_lt _ (by decide) : tidIn s.th f.z < 256) hlt (nbit f.fl.val 0) (nbit f.fl.val 1)
  rw [← hk] at honly hbind
  generalize hyth : s.th.aput k { s.th.acc k with bind := bindWord (s.th.acc k).bind f.y.val (tidIn s.th f.z) cls (nbit f.fl.val 0) (nbit f.fl.val 1) false } = y
    at honly hbind
  have hacc : y.acc k = { s.th.acc k with bind := bindWord (s.th.acc k).bind f.y.val (tidIn s.th f.z) cls (nbit f.fl.val 0) (nbit f.fl.val 1) false } := by
    rw [← hyth, acc_aput]
  obtain ⟨hi, hke, hpc, haccs⟩ := issuedAcc_end (t := u) (lk := f.lk) (dest := if cls = 2 then [.acc (evenOf n), .acc (oddOf n)] else [.acc n]) (w := .ready)
    honly (Keeps.warnIf (p := { warn := [.align] }) (w := .align) (b := decide (k ≠ n)) (List.mem_singleton_self _)) rfl (by simp)
  have hstate : u.bindIssued f n cls = (u.setTh ((y.warnIf .align (decide (k ≠ n))).issueWaiting f.lk
      (if cls = 2 then [.acc (evenOf n), .acc (oddOf n)] else [.acc n]) .ready)).modTh Thread.next := by
    rw [State.bindIssued, hth, hbind]; rfl
  dsimp only
  rw [hstate]
  refine ⟨untouched_of_mem hmem, hi, hpc, hke, ?_⟩
  rw [haccs, hacc]
  refine ⟨rfl, hword.valid, hword.chk, hword.ctrap, hword.sat, hword.mit, hword.queue, hword.tid, hword.cls, hword.corr, fun h => ?_⟩
  rw [State.modTh_setTh, State.th_setTh, decide_eq_true h]
  exact warnIf_bit y .align (by decide)

/-! ### mzero and mfix (R236, R240) -/

section
variable {s : State} {f : FmtX} {n : Fin 8}

theorem accGroup_clsGroup (t : Thread) (n : Fin 8) : t.accGroup n = clsGroup n (if t.inPair n then 2 else 0) := by
  unfold Thread.accGroup clsGroup
  cases t.inPair n <;> rfl

theorem cleared_fields (a : Acc) :
    a.cleared.elems = 0 ∧ a.cleared.cr = 0 ∧ a.cleared.cc = 0 ∧ a.cleared.sr = 0 ∧ a.cleared.sc = 0 ∧ bit a.cleared.bind 20 = false
      ∧ Machine.field a.cleared.bind 32 16 = 0 ∧ Machine.field a.cleared.bind 0 20 = Machine.field a.bind 0 20
      ∧ Machine.field a.cleared.bind 21 3 = Machine.field a.bind 21 3 := by
  refine ⟨rfl, rfl, rfl, rfl, rfl, ?_, ?_, ?_, ?_⟩ <;> unfold Acc.cleared <;> dsimp only
  · rw [bit_withField_ne _ (by decide) (by decide), bit_clearBit, decide_eq_true rfl, Bool.not_true, Bool.and_false]
  · rw [field_withField _ (by decide), Nat.zero_mod]
  · rw [field_withField_ne _ (by decide) (by decide), field_clearBit_ne _ (by decide)]
  · rw [field_withField_ne _ (by decide) (by decide), field_clearBit_ne _ (by decide)]

theorem execMzero_clears (hn : names f.x n) (hbusy : s.accBusy n = false) :
    ∃ t, exec (.mzero f) s = .next t ∧ Alone s t ∧ t.th.pc = s.th.pc.add 4 ∧ Issued s t f.lk ((s.th.accGroup n).map .acc)
      ∧ KeepsAcc { outst := true } (s.th.accGroup n) s.th t.th
      ∧ ∀ k ∈ s.th.accGroup n, t.th.acc k = (s.th.acc k).cleared := by
  obtain ⟨hi, hke, hpc, hacc⟩ := issuedAcc_end (t := s) (lk := f.lk) (dest := (s.th.accGroup n).map .acc) (w := .ready)
    (clear_only (s.th.accGroup n) (s.th.accGroup n) (fun _ h => h) s.th) (Keeps.refl {} _) rfl rfl
  refine ⟨(s.setTh _).modTh Thread.next, run_ok (m := _) ?_, alone_next s _, hpc, hi, hke, fun k hk => ?_⟩
  · simp only [M.bind_apply, M.ite_apply, M.get_apply, needAcc_ok s hn, hbusy, Bool.false_eq_true, if_false, updTh_apply, State.modTh_eq]
    rfl
  · rw [hacc]
    rw [accGroup_clsGroup] at hk ⊢
    exact clear_acc hk

/-- A seal writes the checksums of the elements, and clears SAT and CORR. -/
theorem seal_acc (t : Thread) (n : Fin 8) (cls : Nat) (hcls : cls = Machine.field (t.acc n).bind 0 2) :
    AccOnly [n] t (t.seal n) ∧ ((t.seal n).acc n).elems = (t.acc n).elems ∧ bit ((t.seal n).acc n).bind 20 = false
      ∧ Machine.field ((t.seal n).acc n).bind 32 16 = 0
      ∧ (∀ m, m < 32 → (ckList ((t.seal n).acc n).cc).getD m 0 = ckAdd cls 0 (exactSum (rowTerms cls (t.accElems n cls) m)) % 2 ^ 64)
      ∧ (∀ m, m < 32 → (ckList ((t.seal n).acc n).cr).getD m 0 = ckAdd cls 0 (exactSum (colTerms cls (t.accElems n cls) m)) % 2 ^ 64) := by
  subst hcls
  unfold Thread.seal
  refine ⟨AccOnly.aput List.mem_cons_self, ?_, ?_, ?_, fun m hm => ?_, fun m hm => ?_⟩ <;> dsimp only <;> rw [acc_aput]
  · rw [bit_withField_ne _ (by decide) (by decide), bit_clearBit, decide_eq_true rfl, Bool.not_true, Bool.and_false]
  · rw [field_withField _ (by decide), Nat.zero_mod]
  · rw [ckList_ckVec _ hm, List.map_map, getD_map_range _ _ hm]; rfl
  · rw [ckList_ckVec _ hm, List.map_map, getD_map_range _ _ hm]; rfl

theorem execMfix_seals (hn : names f.x n) (hv : bit (s.th.acc n).bind 23 = true) (hbusy : s.accBusy n = false) (hload : nbit f.fl.val 0 = false) :
    ∃ t, exec (.mfix f) s = .next t ∧ Alone s t ∧ t.th.pc = s.th.pc.add 4 ∧ KeepsAcc { outst := true } [n] s.th t.th
      ∧ t.th.acc n = (s.th.seal n).acc n := by
  obtain ⟨-, hke, hpc, hacc⟩ := issuedAcc_end (t := s) (lk := f.lk) (dest := (s.th.accGroup n).map .acc) (w := .ready)
    (seal_acc s.th n _ rfl).1 (Keeps.refl {} _) rfl rfl
  refine ⟨(s.setTh _).modTh Thread.next, run_ok (m := _) ?_, alone_next s _, hpc, hke, hacc n⟩
  simp only [M.bind_apply, M.ite_apply, M.get_apply, needAcc_ok s hn, Acc.valid, hv, hbusy, hload, Bool.not_true, Bool.false_eq_true, if_false,
    updTh_apply, State.modTh_eq]
  rfl

end

end Sys2Proof.Machine
end

section
/-!
The check of an accumulator with checksums, by `mchk` (R136, R239).
-/

namespace Sys2Proof.Machine

open Claims

/-! ### The outcomes of a check -/

section
variable {a : Acc} {cls : Nat} {l : List Nat}

theorem checkAcc_passes (hr : failing (rowOutcomes a cls l) = []) (hc : failing (colOutcomes a cls l) = []) :
    ∃ u, checkAcc a cls l = { elems := l, corr := a.corr, rows := 0, cols := 0, unchk := u, fixed := false, failed := false } := by
  simp only [checkAcc, hr, hc, List.length_nil]
  exact ⟨_, rfl⟩

theorem checkAcc_fails (h : ((failing (rowOutcomes a cls l)).length, (failing (colOutcomes a cls l)).length) ∉ [(0, 0), (1, 1)]) :
    ∃ u, checkAcc a cls l =
      { elems := l, corr := a.corr, rows := (failing (rowOutcomes a cls l)).length, cols := (failing (colOutcomes a cls l)).length,
        unchk := u, fixed := false, failed := true } := by
  unfold checkAcc
  dsimp only
  split
  next hr hc => exact absurd h (by simp [hr, hc])
  next hr hc => exact absurd h (by simp [hr, hc])
  next => exact ⟨_, rfl⟩

/-- A line fails where its outcome says so. -/
theorem mem_failing {L : List (Option Bool)} {i : Nat} : i ∈ failing L ↔ i < L.length ∧ L.getD i none = some true := by
  simp [failing]

theorem mem_failing_rows {r : Nat} : r ∈ failing (rowOutcomes a cls l) ↔ r < 32 ∧ ¬ (cls = 1 ∧ a.sat = true)
    ∧ lineFails cls (rowTerms cls l r) ((ckList a.cc).getD r 0) ((ckList a.sc).getD r 0) = some true := by
  rw [mem_failing, rowOutcomes, List.length_map, List.length_range]
  refine and_congr_right fun hr => ?_
  rw [getD_map_range _ _ hr]
  split <;> simp_all

theorem mem_failing_cols {c : Nat} : c ∈ failing (colOutcomes a cls l) ↔ c < 32 ∧ ¬ (cls = 1 ∧ a.sat = true)
    ∧ lineFails cls (colTerms cls l c) ((ckList a.cr).getD c 0) ((ckList a.sr).getD c 0) = some true := by
  rw [mem_failing, colOutcomes, List.length_map, List.length_range]
  refine and_congr_right fun hr => ?_
  rw [getD_map_range _ _ hr]
  split <;> simp_all

/-- One failing row and one failing column, of which none fails any more with the corrected element. -/
theorem checkAcc_corrects {r c : Nat} (hr : failing (rowOutcomes a cls l) = [r]) (hc : failing (colOutcomes a cls l) = [c])
    (hr' : failing (rowOutcomes a cls (l.set (32 * r + c) (corrected a cls l r c))) = [])
    (hc' : failing (colOutcomes a cls (l.set (32 * r + c) (corrected a cls l r c))) = []) :
    r < 32 ∧ c < 32 ∧ ∃ u, checkAcc a cls l =
      { elems := l.set (32 * r + c) (corrected a cls l r c), corr := min (a.corr + 1) 0xFFFF, rows := 1, cols := 1,
        unchk := u, fixed := true, failed := false } := by
  obtain ⟨hrlt, hsat, -⟩ := mem_failing_rows.1 (hr ▸ List.mem_singleton_self r)
  obtain ⟨hclt, -, -⟩ := mem_failing_cols.1 (hc ▸ List.mem_singleton_self c)
  generalize hl : l.set (32 * r + c) (corrected a cls l r c) = l' at hr' hc' ⊢
  have hrow : ¬ lineFails cls (rowTerms cls l' r) ((ckList a.cc).getD r 0) ((ckList a.sc).getD r 0) = some true := fun h => by
    have hmem := mem_failing_rows.2 ⟨hrlt, hsat, h⟩
    rw [hr'] at hmem
    exact List.not_mem_nil hmem
  have hcol : ¬ lineFails cls (colTerms cls l' c) ((ckList a.cr).getD c 0) ((ckList a.sr).getD c 0) = some true := fun h => by
    have hmem := mem_failing_cols.2 ⟨hclt, hsat, h⟩
    rw [hc'] at hmem
    exact List.not_mem_nil hmem
  refine ⟨hrlt, hclt, ?_⟩
  simp only [checkAcc, hr, hc, hl, hrow, hcol, ne_eq, not_false_eq_true, decide_true, Bool.and_self, if_true, List.length_singleton]
  exact ⟨_, rfl⟩

end

/-! ### The status word (R237) -/

theorem field_word {x lo n : Nat} (h : lo + n ≤ 64) : Machine.field (word x) lo n = x / 2 ^ lo % 2 ^ n := by
  rw [Machine.field, word, BitVec.toNat_ofNat, mod_div_mod _ h]

theorem ofBool_le (b : Bool) : ofBool b ≤ 1 := by cases b <;> decide

/-- A status with a cause, a correction, SAT, failing rows and columns, and CORR. -/
structure StatusFields (v : Word) (k : Nat) (f t : Bool) (p q z : Nat) : Prop where
  cause : Machine.field v 0 8 = k
  fixed : bit v 8 = f
  sat : bit v 9 = t
  rows : Machine.field v 16 5 = p
  cols : Machine.field v 21 5 = q
  low : Machine.field v 0 9 = k + 256 * ofBool f
  lines : Machine.field v 16 10 = p + 32 * q
  corr : Machine.field v 32 16 = z

theorem bit_eq_field {w : Nat} (x : BitVec w) (i : Nat) {b : Bool} (h : Machine.field x i 1 = ofBool b) : bit x i = b := by
  have hbit : bit x i = (Machine.field x i 1).testBit 0 := by rw [field_testBit]; simp
  rw [hbit, h]
  cases b <;> rfl

theorem drainStatus_fields (a : Acc) (c : CheckResult) (hcorr : c.corr < 2 ^ 16) :
    StatusFields (drainStatus a c) (if c.failed then 0x0E else 0) c.fixed a.sat (min c.rows 31) (min c.cols 31) c.corr := by
  have hcause : (if c.failed then Cause.chkFail.code else 0) = if c.failed then 0x0E else 0 := rfl
  have hlt : (if c.failed then 0x0E else 0) < 256 := by split <;> decide
  have hf := ofBool_le c.fixed
  have hs := ofBool_le a.sat
  have hu := ofBool_le c.unchk
  have hr : min c.rows 31 < 32 := by omega
  have hc : min c.cols 31 < 32 := by omega
  unfold drainStatus
  rw [hcause]
  generalize (if c.failed then 0x0E else 0) = k at *
  generalize min c.rows 31 = p at *
  generalize min c.cols 31 = q at *
  generalize ofBool c.unchk = u at *
  generalize c.corr = z at *
  have hflag : ∀ (y : Bool) (i x : Nat), i + 1 ≤ 64 → x / 2 ^ i % 2 ^ 1 = ofBool y → bit (word x) i = y := fun y i x h e =>
    bit_eq_field _ _ ((field_word h).trans e)
  constructor
  case fixed => exact hflag _ 8 _ (by decide) (by omega)
  case sat => exact hflag _ 9 _ (by decide) (by omega)
  all_goals rw [field_word (by decide)]; omega

theorem corr_lt (a : Acc) : a.corr < 2 ^ 16 := Nat.mod_lt _ (by decide)

/-! ### mchk (R239) -/

section
variable {s : State} {f : FmtX} {n : Fin 8}

theorem execMchk_unchecked (hn : names f.y n) (hbusy : s.accBusy n = false) (hchk : bit (s.th.acc n).bind 22 = false) :
    ∃ t, exec (.mchk f) s = .next t ∧ Completes { regs := [f.x], outst := true } s t ∧ t.th.get f.x = held f.x .zero := by
  obtain ⟨hc, -⟩ := issued_completes (p := { regs := [f.x] }) (lk := f.lk) (dest := [.s f.x]) (w := .ready)
    (Keeps.putInt (t := s.th) (x := 0) (List.mem_singleton_self f.x)) rfl (by simp)
  refine ⟨_, run_ok (m := _) ?_, hc, ?_⟩
  · simp only [M.bind_apply, M.ite_apply, M.get_apply, needAcc_ok s hn, hbusy, Acc.chk, hchk, Bool.false_eq_true, if_false, updTh_apply, State.modTh_eq]
    rfl
  · rw [State.modTh_setTh, State.th_setTh]
    exact Thread.get_putInt _ _ _

theorem check_eq (hchk : bit (s.th.acc n).bind 22 = true) : s.th.check n = checkAcc (s.th.acc n) (s.th.acc n).cls (s.th.accElems n (s.th.acc n).cls) := by
  simp only [Thread.check, Acc.chk, hchk, if_true]

/-- A check that does not fail reports, and its correction is written. -/
theorem execMchk_reports (hn : names f.y n) (hbusy : s.accBusy n = false) (hchk : bit (s.th.acc n).bind 22 = true) {c : CheckResult}
    (hc : s.th.check n = c) (hok : (c.failed && bit (s.th.acc n).bind 21) = false) :
    exec (.mchk f) s = .next (((s.logCheck c).setTh ((((s.logCheck c).th.applyCheck n c).putInt f.x (drainStatus (s.th.acc n) c)).issueWaiting f.lk
      [.s f.x, .acc n] .ready)).modTh Thread.next) := by
  refine run_ok (m := _) ?_
  simp only [M.bind_apply, M.ite_apply, M.get_apply, needAcc_ok s hn, hbusy, Acc.chk, Acc.ctrap, hchk, hc, hok, Bool.false_eq_true, if_false, if_true,
    upd_apply, updTh_apply, State.modTh_eq]
  rfl

theorem logCheck_none {c : CheckResult} (hf : c.fixed = false) (hx : c.failed = false) : s.logCheck c = s := by
  simp only [State.logCheck, hf, hx, Bool.false_and, Bool.false_eq_true, if_false]

theorem applyCheck_none {c : CheckResult} (t : Thread) (hf : c.fixed = false) : t.applyCheck n c = t := by
  simp only [Thread.applyCheck, hf, Bool.false_eq_true, if_false]

theorem th_logCheck_fixed {c : CheckResult} (hf : c.fixed = true) : (s.logCheck c).th = s.th := by
  rw [State.logCheck, if_pos hf]
  exact th_modCore _ _ _ fun _ => rfl

theorem turn_logError (s : State) (r kind fl : Nat) (addr : Word) (d : Nat) : (s.logError r kind fl addr d).turn = s.turn := by
  have hband : ∀ (u : State) k, (u.wakeBand k).turn = u.turn := fun u k => by unfold State.wakeBand; split <;> rfl
  rw [logError_eq]
  unfold State.raiseIrqAt
  split
  · unfold State.raiseIrq
    split
    · exact hband _ _
    · rfl
  · rfl

/-- A check that fails is logged: memory stays, and of the thread all but its pending interrupts. -/
theorem logCheck_failed {c : CheckResult} (hf : c.fixed = false) (hx : c.failed = true) (hroll : s.rollbackDue = []) :
    (s.logCheck c).mem = s.mem ∧ ∃ i, (s.logCheck c).th = { s.th with ipend := i } := by
  have hlog : s.logCheck c = s.logError s.turn.rank 4 1 0 (min c.rows 31 * 2 ^ 5 + min c.cols 31) := by
    simp only [State.logCheck, hf, hx, hroll, List.contains_nil, Bool.not_false, Bool.and_self, Bool.false_eq_true, if_false, if_true]
  have hl := logError_logged s s.turn.rank 4 1 0 (min c.rows 31 * 2 ^ 5 + min c.cols 31)
  rw [hlog]
  refine ⟨hl.mem, ?_⟩
  rw [State.th, turn_logError]
  exact hl.thread _

/-- A write of a register does not ask for the pending interrupts. -/
theorem putInt_ipend (t : Thread) (r : Reg) (v i : Word) : { t with ipend := i }.putInt r v = { t.putInt r v with ipend := i } := by
  unfold Thread.putInt Thread.put
  split <;> rfl

theorem execMchk_passes (hn : names f.y n) (hbusy : s.accBusy n = false) (hchk : bit (s.th.acc n).bind 22 = true)
    (hr : failing (rowOutcomes (s.th.acc n) (s.th.acc n).cls (s.th.accElems n (s.th.acc n).cls)) = [])
    (hc : failing (colOutcomes (s.th.acc n) (s.th.acc n).cls (s.th.accElems n (s.th.acc n).cls)) = []) :
    ∃ t v, exec (.mchk f) s = .next t ∧ Completes { regs := [f.x], outst := true } s t
      ∧ t.th.get f.x = held f.x (.int v) ∧ StatusFields v 0 false (s.th.acc n).sat 0 0 (s.th.acc n).corr := by
  obtain ⟨u, hu⟩ := checkAcc_passes hr hc
  have hc := (check_eq hchk).trans hu
  have hrun := execMchk_reports (f := f) hn hbusy hchk hc rfl
  have hst := drainStatus_fields (s.th.acc n) (s.th.check n) (by rw [hc]; exact corr_lt _)
  rw [hc] at hst
  rw [logCheck_none rfl rfl, applyCheck_none _ rfl] at hrun
  obtain ⟨hcomp, -⟩ := issued_completes (p := { regs := [f.x] }) (lk := f.lk) (dest := [.s f.x, .acc n]) (w := .ready)
    (Keeps.putInt (t := s.th) (x := drainStatus _ _) (List.mem_singleton_self f.x)) rfl (by simp)
  refine ⟨_, _, hrun, hcomp, ?_, hst⟩
  rw [State.modTh_setTh, State.th_setTh]
  exact Thread.get_putInt _ _ _

theorem execMchk_failing (hn : names f.y n) (hbusy : s.accBusy n = false) (hchk : bit (s.th.acc n).bind 22 = true)
    (hctrap : bit (s.th.acc n).bind 21 = false) (hroll : s.rollbackDue = []) {p q : Nat}
    (hp : (failing (rowOutcomes (s.th.acc n) (s.th.acc n).cls (s.th.accElems n (s.th.acc n).cls))).length = p)
    (hq : (failing (colOutcomes (s.th.acc n) (s.th.acc n).cls (s.th.accElems n (s.th.acc n).cls))).length = q)
    (h : (p, q) ∉ [(0, 0), (1, 1)]) :
    ∃ t v, exec (.mchk f) s = .next t ∧ Untouched s t ∧ Keeps { regs := [f.x], outst := true } s.th { t.th with ipend := s.th.ipend }
      ∧ t.th.pc = s.th.pc.add 4 ∧ t.th.get f.x = held f.x (.int v)
      ∧ StatusFields v 0x0E false (s.th.acc n).sat (min p 31) (min q 31) (s.th.acc n).corr := by
  subst hp hq
  obtain ⟨u, hu⟩ := checkAcc_fails h
  have hc := (check_eq hchk).trans hu
  have hrun := execMchk_reports (f := f) hn hbusy hchk hc (by rw [hctrap]; rfl)
  have hst := drainStatus_fields (s.th.acc n) (s.th.check n) (by rw [hc]; exact corr_lt _)
  obtain ⟨hmem, i, hth⟩ := logCheck_failed (c := s.th.check n) (by rw [hc]) (by rw [hc]) hroll
  rw [hc] at hst hmem hth
  rw [applyCheck_none _ rfl, hth, putInt_ipend] at hrun
  have hput := Keeps.putInt (p := { regs := [f.x] }) (t := s.th) (x := drainStatus (s.th.acc n) (s.th.check n)) (List.mem_singleton_self f.x)
  rw [hc] at hput
  refine ⟨_, _, hrun, untouched_of_mem hmem, ?_, ?_, ?_, hst⟩ <;> rw [State.modTh_setTh, State.th_setTh]
  · have hkeep := (hput.withOutst.trans (Keeps.issueWaiting (lk := f.lk) (d := [.s f.x, .acc n]) (w := .ready) rfl)).trans Keeps.next
    have hipend : (s.th.putInt f.x (drainStatus (s.th.acc n) (s.th.check n))).ipend = s.th.ipend := by
      unfold Thread.putInt Thread.put; split <;> rfl
    rw [hc] at hipend
    rw [← hipend]
    exact hkeep
  · show (s.th.putInt f.x _).pc.add 4 = _
    simp
  · exact Thread.get_putInt s.th _ _

/-- CHKFAIL where the binding asks for the trap. -/
theorem execMchk_traps (hn : names f.y n) (hbusy : s.accBusy n = false) (hchk : bit (s.th.acc n).bind 22 = true)
    (hctrap : bit (s.th.acc n).bind 21 = true) (hroll : s.rollbackDue = []) (hdom : ckptDom s.th.domid = false)
    (h : ((failing (rowOutcomes (s.th.acc n) (s.th.acc n).cls (s.th.accElems n (s.th.acc n).cls))).length,
      (failing (colOutcomes (s.th.acc n) (s.th.acc n).cls (s.th.accElems n (s.th.acc n).cls))).length) ∉ [(0, 0), (1, 1)]) :
    ∃ t, exec (.mchk f) s = .next t ∧ Untouched s t ∧ Keeps { outst := true } s.th { t.th with ipend := s.th.ipend }
      ∧ IssuedTrap s t f.lk [.s f.x, .acc n] .chkFail (word n.val) := by
  obtain ⟨u, hu⟩ := checkAcc_fails h
  generalize hc : s.th.check n = c
  have hcc := hc.symm.trans ((check_eq hchk).trans hu)
  obtain ⟨hmem, i, hth⟩ := logCheck_failed (c := c) (by rw [hcc]) (by rw [hcc]) hroll
  have hfail : (c.failed && bit (s.th.acc n).bind 21) = true := by rw [hctrap, hcc]; rfl
  have hcons : (s.logCheck c).consumed true = false := by rw [State.consumed, hth, hdom]; rfl
  refine ⟨((s.logCheck c).setTh ((s.logCheck c).th.issueTrap f.lk [.s f.x, .acc n] .chkFail (word n.val) 0)).modTh Thread.next,
    run_ok (m := _) ?_, untouched_of_mem hmem, ?_, ?_⟩
  · simp only [checkFails, M.bind_apply, M.ite_apply, M.get_apply, needAcc_ok s hn, hbusy, Acc.chk, Acc.ctrap, hchk, hc, hfail, hcons,
      Bool.false_eq_true, if_false, if_true, upd_apply, updTh_apply, State.modTh_eq]
  · rw [State.modTh_setTh, State.th_setTh, hth]
    exact (Keeps.issueTrap (p := { outst := true }) (t := s.th) rfl).trans Keeps.next
  · rw [IssuedTrap, State.modTh_setTh, State.th_setTh, hth]
    exact ⟨_, rfl, rfl, rfl, rfl, rfl⟩

theorem applyCheck_only {c : CheckResult} (t : Thread) (hcls : (t.acc n).cls ≠ 2) (hf : c.fixed = true) :
    AccOnly [n] t (t.applyCheck n c) := by
  have hput := putElems_only (t := t) (n := n) (cls := (t.acc n).cls) c.elems
  rw [clsGroup, if_neg hcls] at hput
  rw [Thread.applyCheck, if_pos hf]
  exact hput.trans (AccOnly.aput List.mem_cons_self)

/-- The elements after a correction, and CORR. -/
theorem applyCheck_acc {c : CheckResult} (t : Thread) (hcls : (t.acc n).cls ≠ 2) (hf : c.fixed = true) :
    Machine.field ((t.applyCheck n c).acc n).bind 32 16 = c.corr % 2 ^ 16
      ∧ ∀ i, i < 1024 → accElem (t.applyCheck n c) n (t.acc n).cls i = c.elems.getD i 0 % 2 ^ 32 := by
  have hbits : clsBits (t.acc n).cls = 32 := by rw [clsBits, if_neg hcls]
  rw [Thread.applyCheck, if_pos hf]
  dsimp only
  generalize hu : t.putElems n (t.acc n).cls c.elems = u
  refine ⟨by rw [acc_aput, field_withField _ (by decide)], fun i hi => ?_⟩
  have himg : (u.aput n { u.acc n with bind := withField (u.acc n).bind 32 16 c.corr }).image n (t.acc n).cls = u.image n (t.acc n).cls := by
    refine image_congr fun k hk => ?_
    rw [clsGroup, if_neg hcls, List.mem_singleton] at hk
    rw [hk, acc_aput]
  have hel := accElem_putElems (t := t) (n := n) (cls := (t.acc n).cls) c.elems hi
  rw [hu, accElem, hbits] at hel
  rw [accElem, himg, hbits, hel]

theorem accElem_congr {t u : Thread} {cls : Nat} (h : ∀ k, u.acc k = t.acc k) (i : Nat) : accElem u n cls i = accElem t n cls i := by
  rw [accElem, accElem, image_congr (t := t) (u := u) fun k _ => by rw [h k]]

/-- The elements with one of them replaced. -/
theorem accElems_set (t : Thread) (cls x j : Nat) {i : Nat} (hi : i < 1024) :
    ((t.accElems n cls).set j x).getD i 0 = if i = j then x else accElem t n cls i := by
  have hlen : i < (t.accElems n cls).length := by rw [accElems_eq]; simpa using hi
  rw [List.getD_eq_getElem?_getD, List.getElem?_set]
  by_cases h : i = j
  · subst h; simp [hlen]
  · rw [if_neg (Ne.symm h), if_neg h, ← List.getD_eq_getElem?_getD, accElems_eq, getD_map_range _ _ hi]

theorem execMchk_corrects (hn : names f.y n) (hbusy : s.accBusy n = false) (hchk : bit (s.th.acc n).bind 22 = true)
    {cls : Nat} (hcls : (s.th.acc n).cls = cls) (h2 : cls ≠ 2) {l : List Nat} (hl : s.th.accElems n cls = l) {r c : Nat}
    (hr : failing (rowOutcomes (s.th.acc n) cls l) = [r]) (hc : failing (colOutcomes (s.th.acc n) cls l) = [c])
    (hr' : failing (rowOutcomes (s.th.acc n) cls (l.set (32 * r + c) (corrected (s.th.acc n) cls l r c))) = [])
    (hc' : failing (colOutcomes (s.th.acc n) cls (l.set (32 * r + c) (corrected (s.th.acc n) cls l r c))) = []) :
    ∃ t v, exec (.mchk f) s = .next t ∧ KeepsAcc { regs := [f.x], outst := true } [n] s.th t.th ∧ t.th.get f.x = held f.x (.int v)
      ∧ StatusFields v 0 true (s.th.acc n).sat 1 1 (min ((s.th.acc n).corr + 1) 0xFFFF)
      ∧ Machine.field (t.th.acc n).bind 32 16 = min ((s.th.acc n).corr + 1) 0xFFFF
      ∧ ∀ i, i < 1024 → accElem t.th n cls i =
          if i = 32 * r + c then corrected (s.th.acc n) cls l r c % 2 ^ 32 else accElem s.th n cls i := by
  subst hcls hl
  obtain ⟨hrlt, hclt, u, hu⟩ := checkAcc_corrects hr hc hr' hc'
  generalize hv : s.th.check n = v
  have hvc := hv.symm.trans ((check_eq hchk).trans hu)
  have hfix : v.fixed = true := by rw [hvc]
  have hfail : v.failed = false := by rw [hvc]
  have hcorrs : v.corr = min ((s.th.acc n).corr + 1) 0xFFFF := by rw [hvc]
  have hrun := execMchk_reports (f := f) hn hbusy hchk hv (by rw [hfail]; rfl)
  have hst := drainStatus_fields (s.th.acc n) v (by rw [hcorrs]; omega)
  rw [hfix, hfail, hcorrs, show v.rows = 1 by rw [hvc], show v.cols = 1 by rw [hvc]] at hst
  rw [th_logCheck_fixed hfix] at hrun
  obtain ⟨-, hke, -, hacc⟩ := issuedAcc_end (s := s) (t := s.logCheck v) (lk := f.lk) (dest := [.s f.x, .acc n]) (w := .ready) (applyCheck_only s.th h2 hfix)
    (Keeps.putInt (p := { regs := [f.x] }) (x := drainStatus (s.th.acc n) v) (List.mem_singleton_self f.x)) rfl (by simp)
  obtain ⟨hcorr, helems⟩ := applyCheck_acc s.th h2 hfix
  refine ⟨_, _, hrun, hke, ?_, hst, ?_, fun i hi => ?_⟩
  · rw [State.modTh_setTh, State.th_setTh]
    exact Thread.get_putInt _ _ _
  · rw [hacc, hcorr, hcorrs, Nat.mod_eq_of_lt (by omega)]
  · have hbits : clsBits (s.th.acc n).cls = 32 := by rw [clsBits, if_neg h2]
    rw [accElem_congr hacc, helems i hi, show v.elems = _ by rw [hvc], accElems_set _ _ _ _ hi]
    split
    · rfl
    · rw [accElem, hbits, Nat.mod_mod]

end

end Sys2Proof.Machine
end

section
/-!
The drain of an accumulator without checksums: its scales, draws, results and flags, before anything is written (R70, R132, R237, R238).
-/

namespace Sys2Proof.Machine

open Claims

/-! ### Types, modes and elements -/

theorem drainType_eq {c : Nat} {ty : ElemType} (h : (c, ty) ∈ drainTypes) : drainType c = some ty := by
  have key : ∀ e ∈ drainTypes, drainType e.1 = some e.2 := by decide
  exact key _ h

/-- The elements of a destination type take 1, 2, 4 or 8 bytes. -/
theorem drainTypes_bits {c : Nat} {ty : ElemType} (h : (c, ty) ∈ drainTypes) : ty.memBits ∈ [8, 16, 32, 64] := by
  have key : ∀ e ∈ drainTypes, e.2.memBits ∈ [8, 16, 32, 64] := by decide
  exact key _ h

theorem effMode_drain (t : Thread) (ctl : Word) : (t.effMode (Machine.field ctl 4 3) true).1 = drainMode ctl t := by
  unfold Thread.effMode drainMode
  simp

theorem drainElem_eq {cls : Nat} (ty : ElemType) (m : Mode) (sat : Bool) (scale : Num) (u x : Nat) :
    drainElem cls ty m sat scale u x = drainResult cls ty m sat scale u x := by
  unfold drainElem drainResult
  by_cases h : cls = 1
  · rw [if_pos h, if_pos h, convertElem_eq]
  · rw [if_neg h, if_neg h, clsValue, if_neg h]
    cases ty <;> rfl

/-! ### Scales (R51, R226) -/

/-- The scales of a drain's 32 columns, from a descriptor or without one. -/
def State.drainScales (s : State) (w : Option Desc) (ctl : Word) : Except Nat (List Num) :=
  match w with
  | some d => if descKind d = 3 then s.columnScales d (Machine.field ctl 16 16) else .ok (List.replicate 32 (.fin false 1 0))
  | none => .ok (List.replicate 32 (.fin false 1 0))

theorem pairBytes_lt (s : State) (r o n : Nat) : s.pairBytes r o n < 256 ^ n := by
  induction n generalizing o with
  | zero => exact Nat.one_pos
  | succ n ih =>
    have hbyte : (if s.freePairEntry r o then 0 else (s.byteAt (scratchLoc r o)).toNat) < 256 := by
      split
      · decide
      · exact (s.byteAt (scratchLoc r o)).isLt
    have hrest := ih (o + 1)
    rw [State.pairBytes, Nat.pow_succ]
    omega

theorem look_lt (s : State) (l : Loc) (n : Nat) : s.look l n < 256 ^ n := by
  unfold State.look
  split
  · exact pairBytes_lt _ _ _ _
  · exact Memory.readN_lt _ _ _

theorem columnScales_ok {s : State} {d : Desc} {nb : Nat} {scale : Nat → Num}
    (h : ∀ c, c < 32 → scaleValue false (s.look (scratchLoc s.turn.rank (descScaddr d + nb * 128 + 4 * c)) 4) = some (scale c)) :
    s.columnScales d nb = .ok ((List.range 32).map scale) := by
  have hscale : ∀ c, c < 32 → fp32Scale (s.look (scratchLoc s.turn.rank (descScaddr d + nb * 128 + 4 * c)) 4) = some (scale c) := fun c hc => by
    rw [fp32Scale_eq (look_lt _ _ _), ← h c hc]; rfl
  have hl : (List.range 32).map (fun n => fp32Scale (s.look (scratchLoc s.turn.rank (descScaddr d + nb * 128 + 4 * n)) 4))
      = (List.range 32).map fun c => some (scale c) := List.map_congr_left fun c hc => hscale c (List.mem_range.1 hc)
  have hnone : (List.range 32).find? (fun n => decide (((List.range 32).map fun c => some (scale c)).getD n none = none)) = none := by
    rw [List.find?_eq_none]
    intro c hc
    rw [getD_map_range _ _ (List.mem_range.1 hc)]
    simp
  unfold State.columnScales
  simp only [hl, hnone, List.map_map]
  rfl

/-! ### Results and flags -/

section
variable {n : Fin 8} {ty : ElemType} {scale : Nat → Num}

/-- The draws of a drain: one for each element under SR, and none of them otherwise. -/
def drainDraws (N : Nat) (sr : Bool) (seed : Word) : List Nat × Word := if sr then draws N seed else (List.replicate N 0, seed)

theorem drainDraws_eq (N : Nat) (sr : Bool) (seed : Word) :
    (drainDraws N sr seed).1 = (List.range N).map fun k => if sr then (Nat.iterate srNext (k + 1) seed).toNat / 2 ^ 32 else 0 := by
  cases sr with
  | false =>
    refine List.ext_getElem (by simp [drainDraws]) fun i hi _ => ?_
    simp [drainDraws]
  | true => rw [drainDraws, if_pos rfl, draws_eq]; rfl

theorem drain_results {t : Thread} {cls : Nat} {ss : List Num} {m : Mode} {sat : Bool} (hss : ∀ c, c < 32 → ss.getD c (.fin false 1 0) = scale c) :
    (((drainDraws 1024 (decide (m = 5)) t.srseed).1.zip (t.accElems n cls)).mapIdx fun k p =>
        drainElem cls ty m sat (ss.getD (k % 32) (.fin false 1 0)) p.1 p.2)
      = (List.range 1024).map fun k => drainResult cls ty m sat (scale (k % 32))
          (if m = 5 then (Nat.iterate srNext (k + 1) t.srseed).toNat / 2 ^ 32 else 0) (accElem t n cls k) := by
  rw [drainDraws_eq, accElems_eq, List.zip_map', mapIdx_map_range]
  refine List.map_congr_left fun k _ => ?_
  rw [drainElem_eq, hss _ (Nat.mod_lt _ (by decide))]
  by_cases h : m = 5 <;> simp [h]

theorem drain_flags (res : Nat → Nat × Flags) (a : Flags) :
    ((List.range 1024).map res).foldl (fun x p => x ||| p.2) a = orFlags 1024 (fun _ => true) (fun k => (res k).2) ||| a := by
  rw [foldl_or, Nat.or_comm, List.foldr_map]
  simp [orFlags]

end

/-! ### The run of a drain up to its write (R238) -/

/-- What the read of a drain's entry leaves: what follows finds as it was. -/
structure DrainRead (s v : State) : Prop where
  loaded : Loaded s v
  look : v.look = s.look
  quiet : ∀ l n, Quiet s l n → Quiet v l n
  plain : ∀ l n, PlainWrite s l n → PlainWrite v l n

theorem DrainRead.refl {s : State} (hr : NoReds s) : DrainRead s s :=
  ⟨⟨rfl, rfl, fun _ => .refl _, rfl, hr⟩, rfl, fun _ _ h => h, fun _ _ h => h⟩

/-- An entry that has been read, where no request waits at its home. -/
theorem DrainRead.of_entry {s v : State} {tid : Nat} {l : Loc} {d : BitVec 512} (he : Entry s tid l d) (h : ReadLeaves l.home s v) (hr : NoReds s) :
    DrainRead s v where
  loaded := .of_leaves h hr
  look := h.look
  quiet := fun _ _ hq => h.quiet hq fun e => by rw [e]; exact he.calm
  plain := fun _ _ hw => h.plainWrite hw

/-- The descriptor that a drain reads: that of the binding's tid, unless the tid is 0 or the class is INT32. -/
def DrainEntry (s v : State) (a : Acc) (w : Option Desc) : Prop :=
  (¬ (a.tid ≠ 0 ∧ a.cls ≠ 1) ∧ w = none ∧ v = s) ∨ ((a.tid ≠ 0 ∧ a.cls ≠ 1) ∧ ∃ d, w = some d ∧ snapshot a.tid s = .ok d v)

section
variable {s : State} {f : FmtX} {n : Fin 8} {ty : ElemType} {res : Nat → Nat × Flags} {fl : Flags}

/-- The scales of a drain, and its results by them. -/
theorem drains_scales (h : Drains s f n ty res fl) : ∃ v w ss, ∃ scale : Nat → Num, DrainRead s v ∧ DrainEntry s v (s.th.acc n) w
    ∧ v.drainScales w (s.th.val f.x) = .ok ss ∧ (∀ c, c < 32 → ss.getD c (.fin false 1 0) = scale c)
    ∧ ∀ k, res k = drainResult (s.th.acc n).cls ty (drainMode (s.th.val f.x) s.th) (bit (s.th.val f.x) 7) (scale (k % 32))
        (if drainMode (s.th.val f.x) s.th = 5 then (Nat.iterate srNext (k + 1) s.th.srseed).toNat / 2 ^ 32 else 0)
        (accElem s.th n (s.th.acc n).cls k) := by
  obtain ⟨scale, hscale, hres⟩ := h.results
  have hone : ∀ c, c < 32 → (List.replicate 32 (Num.fin false 1 0)).getD c (.fin false 1 0) = .fin false 1 0 := fun c hc =>
    List.getD_replicate _ hc
  rcases hscale with ⟨hnone, hall⟩ | ⟨l, w, he, hcls, hw⟩
  · refine ⟨s, none, _, scale, .refl h.reds, .inl ⟨?_, rfl, rfl⟩, rfl, fun c hc => by rw [hall c]; exact hone c hc, hres⟩
    exact fun ⟨h0, h1⟩ => hnone.elim h0 h1
  · obtain ⟨v, hs, hl, -⟩ := snapshot_ok he
    have hread := DrainRead.of_entry he hl h.reds
    have hentry : DrainEntry s v (s.th.acc n) (some w) := .inr ⟨⟨Nat.pos_iff_ne_zero.1 he.named.1, hcls⟩, w, rfl, hs⟩
    rcases hw with ⟨hk, hall⟩ | ⟨hk, hall⟩
    · refine ⟨v, some w, List.replicate 32 (.fin false 1 0), scale, hread, hentry, ?_, fun c hc => by rw [hall c]; exact hone c hc, hres⟩
      exact if_neg hk
    · refine ⟨v, some w, (List.range 32).map scale, scale, hread, hentry, ?_, fun c hc => getD_map_range _ _ hc, hres⟩
      refine (if_pos hk).trans (columnScales_ok fun c hc => ?_)
      rw [hread.look, hread.loaded.turn]
      exact hall c hc

/-- An accumulator without checksums passes. -/
theorem check_unchecked (h : bit (s.th.acc n).bind 22 = false) : s.th.check n =
    { elems := s.th.accElems n (s.th.acc n).cls, corr := (s.th.acc n).corr, rows := 0, cols := 0, unchk := false, fixed := false, failed := false } := by
  simp only [Thread.check, Acc.chk, h, Bool.false_eq_true, if_false]

theorem drainStatus_unchecked (h : bit (s.th.acc n).bind 22 = false) : drainStatus (s.th.acc n) (s.th.check n) = drainWord (s.th.acc n) := by
  rw [check_unchecked h]
  unfold drainStatus drainWord Acc.sat Acc.corr
  simp only [ofBool, Bool.false_eq_true, if_false, Nat.zero_mul, Nat.zero_add, Nat.add_zero, Nat.zero_min]

/-- The thread after a drain, but for the instruction's end. -/
def Thread.drainEnd (t : Thread) (f : FmtX) (sr : Bool) (seed : Word) (fl : Flags) (b : Bool) (v : Word) : Thread :=
  (((t.seeded sr seed).raised fl).warnIf .fmt b).putInt f.x v

/-- The image that a drain writes. -/
def drainImage (ty : ElemType) (res : Nat → Nat × Flags) : Nat := pack ty.memBits ((List.range 1024).map fun k => (res k).1)

/-- What stands before the destination of a drain: its kind, and the registers or the queue that it names. -/
structure DrainTarget (s : State) (f : FmtX) (ty : ElemType) : Prop where
  kind : f.fl.val % 4 ≠ 3
  queue : f.fl.val % 4 = 0 → f.z.val < 8 ∧ (s.me.queue f.z.val).cfg = true
  regs : f.fl.val % 4 = 2 → f.z.val + ty.memBits / 4 ≤ 32

theorem drainDraws_def (b : Bool) (x : Word) : (if b = true then draws 1024 x else (List.replicate 1024 0, x)) = drainDraws 1024 b x := rfl

theorem execMdrain_run (hd : Drains s f n ty res fl) (hun : Untrapped s.th fl) (ht : DrainTarget s f ty) :
    ∃ v sr seed b, DrainRead s v ∧ ∀ dest u, drainDest (.mdrain f) f (128 * ty.memBits) v = .ok dest v →
      drainWrite f (drainImage ty res) (128 * ty.memBits) dest v = .ok () u →
      exec (.mdrain f) s = .next ((u.setTh ((u.th.drainEnd f sr seed fl b (drainWord (s.th.acc n))).issueWaiting f.lk
        (drainRes f (128 * ty.memBits) ++ piecesRes dest) .ready)).modTh Thread.next) := by
  obtain ⟨v, w, ss, scale, hread, hentry, hss, hscale, hres⟩ := drains_scales hd
  obtain ⟨hbusy, hchk⟩ := hd.ready
  have hth : v.th = s.th := hread.loaded.th
  have hreds := hread.loaded.reds
  have hstatus := drainStatus_unchecked hchk
  have hcheck := check_unchecked hchk
  generalize hc : s.th.check n = c at hcheck hstatus
  have hfixed : c.fixed = false := by rw [hcheck]
  have hfailed : c.failed = false := by rw [hcheck]
  have helems : c.elems = s.th.accElems n (s.th.acc n).cls := by rw [hcheck]
  have hlist := drain_results (n := n) (ty := ty) (t := s.th) (cls := (s.th.acc n).cls) (m := drainMode (s.th.val f.x) s.th)
    (sat := bit (s.th.val f.x) 7) hscale
  rw [← List.map_congr_left (fun k _ => hres k), ← helems] at hlist
  have hflags : ((List.range 1024).map res).foldl (fun x p => x ||| p.2) (if (s.th.acc n).sat then flagNX else 0) = fl := by
    rw [drain_flags, hd.flags]; rfl
  have hregs : ¬ (f.fl.val % 4 = 2 ∧ 32 < f.z.val + 128 * ty.memBits / 512) := fun ⟨h2, h⟩ => by
    have := ht.regs h2; omega
  have hqueue : ¬ (f.fl.val % 4 = 0 ∧ 8 ≤ f.z.val) := fun ⟨h0, h⟩ => by have := (ht.queue h0).1; omega
  refine ⟨v, decide (drainMode (s.th.val f.x) s.th = 5), (drainDraws 1024 (decide (drainMode (s.th.val f.x) s.th = 5)) s.th.srseed).2,
    (s.th.effMode (Machine.field (s.th.val f.x) 4 3) true).2, hread, fun dest u hdest hwrite => run_ok (m := _) ?_⟩
  rw [drainImage] at hwrite
  simp only [M.bind_apply, M.ite_apply, M.get_apply, needAcc_ok s hd.named, ht.kind, hqueue, if_false]
  rw [ite_eq_right_iff.2 fun hk => by rw [needQueue_ok (ht.queue hk).2]]
  simp only [drainType_eq hd.type, M.bind_apply, M.ite_apply, hbusy, hregs, Bool.false_eq_true, if_false]
  have hpass : (s.th.raised fl).fpTraps fl = false := not_traps_of_untrapped hun
  have himage : List.map (fun x => x.1) ((List.range 1024).map res) = (List.range 1024).map fun k => (res k).1 := List.map_map
  rcases hentry with ⟨hno, rfl, hw⟩ | ⟨hyes, d, rfl, hw⟩
  · rw [if_neg hno]
    rw [hw] at hdest hwrite
    have hss' : List.replicate 32 (Num.fin false 1 0) = ss := Except.ok.inj hss
    simp only [M.bind_apply, M.pure_apply, M.get_apply, upd_apply, updTh_apply, hc, hfailed, Bool.false_and, Bool.false_eq_true, if_false, hss', hdest,
      effMode_drain, drainDraws_def, hlist, hflags, hpass, himage, hwrite, logCheck_none hfixed hfailed, applyCheck_none _ hfixed, hstatus,
      State.modTh_eq, -List.reduceReplicate]
    rfl
  · rw [if_pos hyes]
    have hss' : (if descKind d = 3 then v.columnScales d (Machine.field (s.th.val f.x) 16 16)
      else Except.ok (List.replicate 32 (Num.fin false 1 0))) = .ok ss := hss
    simp only [M.bind_apply, M.ite_apply, M.pure_apply, M.get_apply, upd_apply, updTh_apply, hw, recall_noReds hreds, ite_self, hth, hc, hfailed,
      Bool.false_and, Bool.false_eq_true, if_false, hss', hdest, effMode_drain, drainDraws_def, hlist, hflags, hpass, himage, hwrite,
      logCheck_none hfixed hfailed, applyCheck_none _ hfixed, hstatus, State.modTh_eq, -List.reduceReplicate]
    rfl

end

/-! ### The end of a drain -/

section
variable {s t u : State} {f : FmtX}

/-- What a drain leaves of its thread, whose write has changed no more than a footprint, and no flag. -/
theorem drainEnd_claims {p : Footprint} {sr b : Bool} {seed v : Word} {fl : Flags} {d : List Res}
    (hp : f.x ∈ p.regs ∧ Warn.fmt ∈ p.warn ∧ p.flags = true ∧ p.seed = true ∧ p.outst = true) (hk : Keeps p s.th u.th)
    (hfp : u.th.fpctl = s.th.fpctl) (hpc : u.th.pc = s.th.pc)
    (ht : t = (u.setTh ((u.th.drainEnd f sr seed fl b v).issueWaiting f.lk d .ready)).modTh Thread.next) :
    Keeps p s.th t.th ∧ Flagged s.th t.th fl ∧ t.th.pc = s.th.pc.add 4 ∧ t.th.get f.x = held f.x (.int v) := by
  obtain ⟨hx, hfmt, hflags, hseed, hout⟩ := hp
  have hth : t.th = ((u.th.drainEnd f sr seed fl b v).issueWaiting f.lk d .ready).next := by rw [ht, State.modTh_setTh, State.th_setTh]
  have hkeep : Keeps p u.th (u.th.drainEnd f sr seed fl b v) :=
    (((Keeps.seeded hseed).trans (Keeps.raised hflags)).trans (Keeps.warnIf hfmt)).trans (Keeps.putInt hx)
  refine ⟨?_, fun i hi => ?_, ?_, ?_⟩ <;> rw [hth]
  · exact ((hk.trans hkeep).trans (Keeps.issueWaiting hout)).trans Keeps.next
  · have hfl : (u.th.drainEnd f sr seed fl b v).fpctl = ((u.th.seeded sr seed).raised fl).fpctl := by
      simp [Thread.drainEnd]
    show bit (u.th.drainEnd f sr seed fl b v).fpctl (8 + i) = _
    rw [hfl, raised_flagged _ _ i hi, fpctl_seeded, hfp]
  · show (u.th.drainEnd f sr seed fl b v).pc.add 4 = _
    rw [← hpc]
    simp [Thread.drainEnd]
  · exact Thread.get_putInt _ _ _

end

end Sys2Proof.Machine
end

section
/-!
A drain into an operand queue and into vector registers (R129, R238).
-/

namespace Sys2Proof.Machine

open Claims

/-! ### Tiles appended one after another -/

/-- The key of the slot that tile `i` of an append goes to. -/
def slotKey (r : Nat) (x : OpQueue) (i : Nat) : Nat := (scratchLoc r (x.tileOff (x.head + x.count + i))).key

theorem slotKey_eq (r : Nat) (x : OpQueue) (i : Nat) : slotKey r x i = slotKey r { x with cap := 1 } 0 + (x.head + x.count + i) % x.cap * 0x800 := by
  simp only [slotKey, scratchLoc, Loc.key, OpQueue.tileOff, Nat.mod_one]
  omega

theorem slotKey_count (r : Nat) (x : OpQueue) (i : Nat) : slotKey r { x with count := x.count + 1, resv := [] } i = slotKey r x (i + 1) := by
  simp only [slotKey, OpQueue.tileOff]
  rw [show x.head + (x.count + 1) + i = x.head + x.count + (i + 1) by omega]

/-- Slots of different tiles do not overlap. -/
theorem slotKey_apart {r : Nat} {x : OpQueue} {i j : Nat} (h : i < j) (hj : j < x.cap) :
    slotKey r x i + 0x800 ≤ slotKey r x j ∨ slotKey r x j + 0x800 ≤ slotKey r x i := by
  have hne : (x.head + x.count + i) % x.cap ≠ (x.head + x.count + j) % x.cap := fun e => by
    have hzero := Nat.sub_mod_eq_zero_of_mod_eq e.symm
    rw [show x.head + x.count + j - (x.head + x.count + i) = j - i by omega, Nat.mod_eq_of_lt (by omega)] at hzero
    omega
  rw [slotKey_eq, slotKey_eq r x j]
  omega

section
variable {s : State} {b : Behalf} {r q : Nat}

/-- A queue with room for them gains tiles at its tail; every other aligned read finds what it found. -/
structure Appended (s t : State) (r q : Nat) (x : OpQueue) (l : List Nat) : Prop where
  added : TilesAdded s t r q
  queue : (t.core r).queue q = { x with count := x.count + l.length, resv := [] }
  tiles : ∀ i, i < l.length → Memory.readN t.mem (slotKey r x i) 0x800 = l.getD i 0 % 256 ^ 0x800
  others : ∀ a, (∀ i, i < l.length → a + 0x800 ≤ slotKey r x i ∨ slotKey r x i + 0x800 ≤ a) →
    Memory.readN t.mem a 0x800 = Memory.readN s.mem a 0x800

theorem appendTiles_appended (l : List Nat) {x : OpQueue} (hwf : Memory.wf s.mem = true) (h : NoReds s) (hq : q < 8)
    (hx : (s.core r).queue q = x) (hres : x.resv = []) (hroom : x.count + l.length ≤ x.cap) : Appended s (s.appendTiles b r q l) r q x l := by
  induction l generalizing s x with
  | nil =>
    refine ⟨.refl h, ?_, fun i hi => absurd hi (Nat.not_lt_zero i), fun _ _ => rfl⟩
    rw [State.appendTiles, hx, ← hres]
    rfl
  | cons v l ih =>
    rw [List.length_cons] at hroom
    obtain ⟨hadd, hmem, hqueue⟩ := appendTile (b := b) h hq hx hres v
    have hstep : s.appendTiles b r q (v :: l) = (s.appendTiles b r q [v]).appendTiles b r q l := rfl
    rw [hstep]
    generalize s.appendTiles b r q [v] = t at *
    have hmem' : t.mem = Memory.writeN s.mem (slotKey r x 0) 0x800 v := hmem
    have hrest := ih (s := t) (x := { x with count := x.count + 1, resv := [] }) (by rw [hmem]; exact Memory.wf_writeN hwf _ _ _) hadd.reds hqueue rfl
      (by show x.count + 1 + l.length ≤ x.cap; omega)
    have hkey := slotKey_count r x
    refine ⟨hadd.trans hrest.added, ?_, fun i hi => ?_, fun a ha => ?_⟩
    · rw [hrest.queue, List.length_cons]
      simp only [OpQueue.mk.injEq, and_true, true_and]
      omega
    · cases i with
      | zero =>
        rw [hrest.others _ fun j hj => by rw [hkey]; exact slotKey_apart (Nat.succ_pos j) (by omega), hmem', Memory.readN_writeN_self hwf]
        rfl
      | succ i =>
        have htile := hrest.tiles i (by simpa using hi)
        rw [hkey] at htile
        rw [htile]
        rfl
    · rw [hrest.others a fun j hj => by rw [hkey]; exact ha (j + 1) (by simpa using hj), hmem',
        Memory.readN_writeN_out _ _ (ha 0 (by simp))]

end

/-! ### Elements of a drain's image -/

section
variable {c : Nat} {ty : ElemType} {res : Nat → Nat × Flags}

theorem drainImage_field {k : Nat} (hk : k < 1024) : drainImage ty res / 2 ^ (ty.memBits * k) % 2 ^ ty.memBits = (res k).1 % 2 ^ ty.memBits := by
  rw [drainImage, pack_field, getD_map_range _ _ hk]

theorem pow_256 (n : Nat) : 256 ^ n = 2 ^ (8 * n) := by rw [Nat.pow_mul]

/-- An element that does not straddle the `N`-bit parts of a number, in its part. -/
theorem part_field {N w x k : Nat} (h : w * k % N + w ≤ N) : x / 2 ^ (N * (w * k / N)) % 2 ^ N / 2 ^ (w * k % N) % 2 ^ w = x / 2 ^ (w * k) % 2 ^ w := by
  rw [mod_div_mod _ h, Nat.div_div_eq_div_mul, ← Nat.pow_add, Nat.div_add_mod]

/-- The tiles of a drain's image. -/
def drainTiles (ty : ElemType) (res : Nat → Nat × Flags) : List Nat := unpack 16384 ((128 * ty.memBits + 2047) / 2048) (drainImage ty res)

theorem drainTiles_length (h : (c, ty) ∈ drainTypes) : (drainTiles ty res).length = (ty.memBits + 15) / 16 := by
  have hbits := drainTypes_bits h
  simp only [List.mem_cons, List.not_mem_nil, or_false] at hbits
  rw [drainTiles, unpack_eq, List.length_map, List.length_range]
  omega

theorem drainTiles_field (h : (c, ty) ∈ drainTypes) {k : Nat} (hk : k < 1024) : ty.memBits * k / 16384 < (drainTiles ty res).length
    ∧ (drainTiles ty res).getD (ty.memBits * k / 16384) 0 % 256 ^ 0x800 / 2 ^ (ty.memBits * k % 16384) % 2 ^ ty.memBits = (res k).1 % 2 ^ ty.memBits := by
  have hbits := drainTypes_bits h
  have hlt : ty.memBits * k / 16384 < (drainTiles ty res).length := by
    rw [drainTiles_length h]
    simp only [List.mem_cons, List.not_mem_nil, or_false] at hbits
    rcases hbits with e | e | e | e <;> rw [e] <;> omega
  have hfit : ty.memBits * k % 16384 + ty.memBits ≤ 16384 := by
    simp only [List.mem_cons, List.not_mem_nil, or_false] at hbits
    rcases hbits with e | e | e | e <;> rw [e] <;> omega
  refine ⟨hlt, ?_⟩
  rw [drainTiles, unpack_eq, List.length_map, List.length_range] at hlt
  rw [drainTiles, unpack_eq, getD_map_range _ _ hlt, pow_256, Nat.mod_mod, part_field hfit, drainImage_field hk]

end

/-! ### A drain into a queue -/

section
variable {s : State} {f : FmtX} {n : Fin 8} {ty : ElemType} {res : Nat → Nat × Flags} {fl : Flags}

/-- What a drain may change beside its destination. -/
def drainFoot (f : FmtX) : Footprint := { regs := [f.x], warn := [.fmt], flags := true, seed := true, outst := true, mon := true }

theorem drainFoot_claims (f : FmtX) : f.x ∈ (drainFoot f).regs ∧ Warn.fmt ∈ (drainFoot f).warn ∧ (drainFoot f).flags = true
    ∧ (drainFoot f).seed = true ∧ (drainFoot f).outst = true :=
  ⟨List.mem_singleton_self _, List.mem_singleton_self _, rfl, rfl, rfl⟩

theorem Woken.pc {a b : Thread} (h : Woken a b) : b.pc = a.pc := by
  obtain ⟨_, _, rfl, -⟩ := h; rfl

theorem Woken.fpctl {a b : Thread} (h : Woken a b) : b.fpctl = a.fpctl := by
  obtain ⟨_, _, rfl, -⟩ := h; rfl

theorem execMdrain_queue (hinv : Inv s) (hd : Drains s f n ty res fl) (hun : Untrapped s.th fl) (h0 : f.fl.val % 4 = 0) (hz : f.z.val < 8)
    (hcfg : (s.me.queue f.z.val).cfg = true) (hresv : (s.me.queue f.z.val).resv = [])
    (hroom : (s.me.queue f.z.val).count + (ty.memBits + 15) / 16 ≤ (s.me.queue f.z.val).cap) :
    ∃ t, exec (.mdrain f) s = .next t ∧ Keeps (drainFoot f) s.th t.th ∧ Flagged s.th t.th fl ∧ t.th.pc = s.th.pc.add 4
      ∧ t.th.get f.x = held f.x (.int (drainWord (s.th.acc n)))
      ∧ (t.me.queue f.z.val).count = (s.me.queue f.z.val).count + (ty.memBits + 15) / 16 ∧ OtherQueues s t f.z.val
      ∧ ∀ k, k < 1024 → t.peek (scratchLoc s.turn.rank ((s.me.queue f.z.val).base
            + ((s.me.queue f.z.val).head + (s.me.queue f.z.val).count + ty.memBits * k / 16384) % (s.me.queue f.z.val).cap * 0x800)) 0x800
          / 2 ^ (ty.memBits * k % 16384) % 2 ^ ty.memBits = (res k).1 % 2 ^ ty.memBits := by
  obtain ⟨v, sr, seed, b, hread, hrun⟩ := execMdrain_run hd hun
    { kind := by omega, queue := fun _ => ⟨hz, hcfg⟩, regs := fun h => by omega }
  have hload := hread.loaded
  have hqueue := hload.queue f.z.val
  have hlen := drainTiles_length (res := res) hd.type
  generalize hx : s.me.queue f.z.val = x at hcfg hresv hroom hqueue ⊢
  have hqueue' : (v.core v.turn.rank).queue f.z.val = x := hqueue
  have hfree : ¬ x.free < (128 * ty.memBits + 2047) / 2048 := by
    rw [drainTiles, unpack_eq, List.length_map, List.length_range] at hlen
    simp only [OpQueue.free, hresv, List.length_nil]
    omega
  have happ := appendTiles_appended (b := v.behalf) (drainTiles ty res) (by rw [hload.mem]; exact hinv) hload.reds hz hqueue' hresv (by omega)
  have hdest : drainDest (.mdrain f) f (128 * ty.memBits) v = .ok [] v := by
    have hneed : needQueue f.z.val v = .ok x v := hqueue ▸ needQueue_ok (hqueue.symm ▸ hcfg)
    simp only [drainDest, h0, M.bind_apply, M.ite_apply, hneed, hfree, if_false, M.pure_apply]
  have hwrite : drainWrite f (drainImage ty res) (128 * ty.memBits) [] v
      = .ok () (v.appendTiles v.behalf v.turn.rank f.z.val (drainTiles ty res)) := by
    simp only [drainWrite, h0, upd_apply]
    rfl
  have hexec := hrun _ _ hdest hwrite
  generalize v.appendTiles v.behalf v.turn.rank f.z.val (drainTiles ty res) = u at happ hexec
  have hwoken : Woken s.th u.th := hload.th ▸ happ.added.woken
  obtain ⟨hke, hfl, hpc, hget⟩ := drainEnd_claims (drainFoot_claims f) (Keeps.woken rfl hwoken) hwoken.fpctl hwoken.pc rfl
  have hme : ∀ y k, (u.setTh y).me.queue k = (u.core v.turn.rank).queue k := fun y k => by
    rw [State.me_setTh, State.me, ← happ.added.turn]; rfl
  refine ⟨_, hexec, hke, hfl, hpc, hget, ?_, fun k hk => ?_, fun k hk => ?_⟩
  · rw [State.modTh_setTh, hme, happ.queue, hlen]
  · rw [State.modTh_setTh, hme, happ.added.others k hk]
    exact hload.queue k
  · obtain ⟨hlt, hfield⟩ := drainTiles_field (res := res) hd.type hk
    rw [← hfield, ← happ.tiles _ hlt, hload.turn]
    rfl

/-! ### A drain into vector registers -/

/-- A register of the group that a drain writes. -/
theorem vget_drainGroup (t : Thread) {z m : Nat} (img : Nat) (hz : z + m ≤ 32) {j : Nat} (hj : j < m) :
    (t.putGroup z ((unpack 4096 m img).map (BitVec.ofNat 4096))).vregs.getD (z + j) 0 = BitVec.ofNat 4096 (img / 2 ^ (4096 * j) % 2 ^ 4096) := by
  have hv := vget_writes z ((unpack 4096 m img).map (BitVec.ofNat 4096)) 0 t ⟨z + j, by omega⟩ (by rw [unpack_eq]; simpa using hz)
  rw [unpack_eq, List.map_map, List.length_map, List.length_range, if_pos ⟨Nat.le_add_right z j, Nat.add_lt_add_left hj z⟩,
    show z + j - (z + 0) = j by omega, getD_map_range _ _ hj] at hv
  rw [vregs_getD _ ⟨z + j, by omega⟩, unpack_eq, List.map_map]
  exact hv

/-- Where an element of a register group lies. -/
theorem drainTypes_registers {c : Nat} (h : (c, ty) ∈ drainTypes) {k : Nat} (hk : k < 1024) : k / ty.count < ty.memBits / 4
    ∧ k % ty.count < ty.count ∧ k / ty.count = ty.memBits * k / 4096 ∧ ty.regBits * (k % ty.count) = ty.memBits * k % 4096
    ∧ ty.memBits * k % 4096 + ty.memBits ≤ 4096 := by
  have hbits := drainTypes_bits h
  have hreg : ty.regBits = ty.memBits := by
    rw [ElemType.regBits, if_neg fun e => by rw [e] at hbits; exact absurd hbits (by decide)]
  simp only [List.mem_cons, List.not_mem_nil, or_false] at hbits
  rw [ElemType.count, hreg]
  rcases hbits with e | e | e | e <;> rw [e] <;> omega

theorem execMdrain_registers (hd : Drains s f n ty res fl) (hun : Untrapped s.th fl) (h2 : f.fl.val % 4 = 2)
    (hz : f.z.val + ty.memBits / 4 ≤ 32) :
    ∃ t, exec (.mdrain f) s = .next t ∧ Untouched s t ∧ Flagged s.th t.th fl ∧ t.th.pc = s.th.pc.add 4
      ∧ t.th.get f.x = held f.x (.int (drainWord (s.th.acc n)))
      ∧ Keeps { drainFoot f with vregs := (List.range (ty.memBits / 4)).map (fun r => Fin.ofNat 32 (f.z.val + r)) } s.th t.th
      ∧ ∀ k, k < 1024 → ty.elem (t.th.vregs.getD (f.z.val + k / ty.count) 0) (k % ty.count) = (res k).1 % 2 ^ ty.memBits := by
  obtain ⟨v, sr, seed, b, hread, hrun⟩ := execMdrain_run hd hun
    { kind := by omega, queue := fun h => by omega, regs := fun _ => hz }
  have hth : v.th = s.th := hread.loaded.th
  have hbytes : 128 * ty.memBits / 512 = ty.memBits / 4 := by omega
  have hdest : drainDest (.mdrain f) f (128 * ty.memBits) v = .ok [] v := by
    have hfits : ¬ 32 < f.z.val + ty.memBits / 4 := by omega
    simp only [drainDest, h2, hbytes, hfits, if_false, M.pure_apply]
  generalize hl : (unpack 4096 (ty.memBits / 4) (drainImage ty res)).map (BitVec.ofNat 4096) = l
  have hlen : l.length = ty.memBits / 4 := by rw [← hl, unpack_eq]; simp
  have hwrite : drainWrite f (drainImage ty res) (128 * ty.memBits) [] v = .ok () (v.setTh (v.th.putGroup f.z.val l)) := by
    simp only [drainWrite, h2, hbytes, hl, updTh_apply, State.modTh_eq]
  have hexec := hrun _ _ hdest hwrite
  generalize hfoot : ({ drainFoot f with vregs := (List.range (ty.memBits / 4)).map (fun r => Fin.ofNat 32 (f.z.val + r)) } : Footprint) = p
  have hp : f.x ∈ p.regs ∧ Warn.fmt ∈ p.warn ∧ p.flags = true ∧ p.seed = true ∧ p.outst = true := by rw [← hfoot]; exact drainFoot_claims f
  have hgroup : Keeps p s.th (s.th.putGroup f.z.val l) := Keeps.putGroup fun j hj => by
    rw [← hfoot]
    exact List.mem_map_of_mem (List.mem_range.2 (hlen ▸ hj))
  have hmem : (v.setTh (v.th.putGroup f.z.val l)).mem = s.mem := hread.loaded.mem
  have hu : (v.setTh (v.th.putGroup f.z.val l)).th = s.th.putGroup f.z.val l := by rw [State.th_setTh, hth]
  generalize v.setTh (v.th.putGroup f.z.val l) = u at hexec hmem hu
  have hfp : u.th.fpctl = s.th.fpctl := by rw [hu]; exact putGroup_preserves (P := Thread.fpctl) (fun _ _ _ => rfl) _ _ _
  have hpcs : u.th.pc = s.th.pc := by rw [hu]; exact putGroup_preserves (P := Thread.pc) (fun _ _ _ => rfl) _ _ _
  obtain ⟨hke, hfl, hpc, hget⟩ := drainEnd_claims hp (by rw [hu]; exact hgroup) hfp hpcs rfl
  refine ⟨_, hexec, untouched_of_mem hmem, hfl, hpc, hget, hke, fun k hk => ?_⟩
  obtain ⟨hreg, helem, hindex, hbit, hfit⟩ := drainTypes_registers hd.type hk
  have hvregs : ∀ d, ((u.setTh ((u.th.drainEnd f sr seed fl b (drainWord (s.th.acc n))).issueWaiting f.lk d .ready)).modTh Thread.next).th.vregs
      = (s.th.putGroup f.z.val l).vregs := fun d => by
    rw [State.modTh_setTh, State.th_setTh, ← hu]
    show (Thread.drainEnd _ f sr seed fl b _).vregs = _
    simp [Thread.drainEnd]
  rw [hvregs, ← hl, vget_drainGroup _ _ hz hreg, elem_ofNat ty _ helem, hbit, hindex, part_field hfit, drainImage_field hk]

end

end Sys2Proof.Machine
end

section
/-!
Contiguous stores of a thread to its own scratchpad, granule by granule (R102, R218), and a drain into them (R238).
-/

namespace Sys2Proof.Machine

open Claims

/-! ### Bytes that several stores leave -/

/-- Two memories read the same. -/
def SameBytes (m m' : List Host.Cell) : Prop := ∀ b, Memory.read m b = Memory.read m' b

/-- A store cut in two. -/
theorem writeN_append {m : List Host.Cell} (hm : Memory.wf m = true) (a j k v : Nat) :
    SameBytes (Memory.writeN (Memory.writeN m a j v) (a + j) k (v / 256 ^ j)) (Memory.writeN m a (j + k) v) := fun b => by
  have hwf := Memory.wf_writeN hm a j v
  by_cases hlo : b < a
  · rw [Memory.read_writeN_out _ _ (.inl (by omega)), Memory.read_writeN_out _ _ (.inl hlo), Memory.read_writeN_out _ _ (.inl hlo)]
  · obtain ⟨i, rfl⟩ := Nat.exists_eq_add_of_le (Nat.not_lt.1 hlo)
    by_cases hj : i < j
    · rw [Memory.read_writeN_out _ _ (.inl (by omega)), Memory.read_writeN_in hm _ hj, Memory.read_writeN_in hm _ (by omega)]
    · obtain ⟨i, rfl⟩ := Nat.exists_eq_add_of_le (Nat.not_lt.1 hj)
      by_cases hk : i < k
      · rw [← Nat.add_assoc, Memory.read_writeN_in hwf _ hk, Nat.add_assoc, Memory.read_writeN_in hm _ (by omega), Nat.div_div_eq_div_mul, Nat.pow_add]
      · rw [Memory.read_writeN_out _ _ (.inr (by omega)), Memory.read_writeN_out _ _ (.inr (by omega)), Memory.read_writeN_out _ _ (.inr (by omega))]

theorem SameBytes.writeN {m m' : List Host.Cell} (h : SameBytes m m') (a n v : Nat) (hm : Memory.wf m = true) (hm' : Memory.wf m' = true) :
    SameBytes (Memory.writeN m a n v) (Memory.writeN m' a n v) := fun b => by
  by_cases hin : a ≤ b ∧ b < a + n
  · obtain ⟨i, rfl⟩ := Nat.exists_eq_add_of_le hin.1
    rw [Memory.read_writeN_in hm _ (by omega), Memory.read_writeN_in hm' _ (by omega)]
  · rw [Memory.read_writeN_out _ _ (by omega), Memory.read_writeN_out _ _ (by omega), h]

/-- Only the low bytes of a value are stored. -/
theorem writeN_mod {m : List Host.Cell} (hm : Memory.wf m = true) (a n v : Nat) :
    SameBytes (Memory.writeN m a n (v % 256 ^ n)) (Memory.writeN m a n v) := fun b => by
  by_cases hin : a ≤ b ∧ b < a + n
  · obtain ⟨i, rfl⟩ := Nat.exists_eq_add_of_le hin.1
    have hi : i < n := by omega
    rw [Memory.read_writeN_in hm _ hi, Memory.read_writeN_in hm _ hi]
    apply BitVec.eq_of_toNat_eq
    rw [BitVec.toNat_ofNat, BitVec.toNat_ofNat, pow_256, pow_256, mod_div_mod _ (by omega)]
  · rw [Memory.read_writeN_out _ _ (by omega), Memory.read_writeN_out _ _ (by omega)]

/-! ### The pieces of a contiguous store to the own scratchpad -/

section
variable {ga : Ptr} {w : Nat}

/-- The first piece of an access in the own scratchpad, and the others. -/
theorem contiguous_cons (hsb : ga.sb = 0xF0) (fuel : Nat) {off len : Nat} (h : off < len) (hfit : ga.v.toNat + len ≤ 0x340000) :
    contiguous ga w (fuel + 1) off len =
      { ga := { sb := 0xF0, v := word (ga.v.toNat + off) }, n := min (64 - (ga.v.toNat + off) % 64) (len - off), bit := 8 * off }
        :: contiguous ga w fuel (off + min (64 - (ga.v.toNat + off) % 64) (len - off)) len := by
  have hadd : ga.add (word off) = { sb := 0xF0, v := word (ga.v.toNat + off) } := by
    rw [Ptr.add, hsb]
    congr 1
    apply BitVec.eq_of_toNat_eq
    simp only [word, BitVec.toNat_add, BitVec.toNat_ofNat]
    omega
  have hval : (ga.add (word off)).v.toNat = ga.v.toNat + off := by
    rw [hadd]
    simp only [word, BitVec.toNat_ofNat]
    omega
  have hroom : ga.sb ≠ 0xF4 := by rw [hsb]; decide
  rw [contiguous, if_neg (Nat.not_le.2 h)]
  simp only [if_neg hroom, hval]
  rw [hadd]

theorem contiguous_nil (fuel : Nat) {off len : Nat} (h : len ≤ off) : contiguous ga w fuel off len = [] := by
  cases fuel with
  | zero => rfl
  | succ fuel => rw [contiguous, if_pos h]

/-- Every piece lies in the access. -/
theorem contiguous_mem (hsb : ga.sb = 0xF0) (fuel : Nat) {off len : Nat} (hfit : ga.v.toNat + len ≤ 0x340000) :
    ∀ p ∈ contiguous ga w fuel off len, ∃ o, p.ga = { sb := 0xF0, v := word (ga.v.toNat + o) } ∧ 0 < p.n ∧ o + p.n ≤ len := by
  induction fuel generalizing off with
  | zero => exact fun p hp => absurd hp List.not_mem_nil
  | succ fuel ih =>
    intro p hp
    by_cases h : off < len
    · rw [contiguous_cons hsb fuel h hfit, List.mem_cons] at hp
      rcases hp with rfl | hp
      · exact ⟨off, rfl, by show 0 < min _ _; omega, by show off + min _ _ ≤ len; omega⟩
      · exact ih p hp
    · rw [contiguous_nil _ (Nat.not_lt.1 h)] at hp
      exact absurd hp List.not_mem_nil

end

/-- The places of pieces in the scratchpad of core `r`. -/
def scratchPieces (r : Nat) (l : List Piece) : List (Piece × Loc) := l.map fun p => (p, scratchLoc r p.ga.v.toNat)

theorem word_toNat {o : Nat} (h : o < 2 ^ 64) : (word o).toNat = o := by
  simp only [word, BitVec.toNat_ofNat, Nat.mod_eq_of_lt h]

theorem checkPieces_scratch {s : State} (hslot : s.turn.slot ≠ 4) (l : List Piece)
    (h : ∀ p ∈ l, ∃ o, p.ga = { sb := 0xF0, v := word o } ∧ o + 1 ≤ 0x340000) : checkPieces 1 .store l s = .ok (scratchPieces s.turn.rank l) s := by
  induction l with
  | nil => rfl
  | cons p l ih =>
    obtain ⟨o, hga, ho⟩ := h p List.mem_cons_self
    have hval : p.ga.v.toNat = o := by rw [hga]; exact word_toNat (by omega)
    have hsb : p.ga.sb ≠ 0xF4 := by rw [hga]; show (0xF0 : BitVec 8) ≠ 0xF4; decide
    have hcheck : checkPiece 1 .store p s = .ok (scratchLoc s.turn.rank o) s := by
      rw [checkPiece, if_neg hsb]
      exact resolve_scratch hslot hga ho (Nat.mod_one o)
    rw [checkPieces, M.bind_ok _ hcheck, M.bind_ok _ (ih fun p hp => h p (List.mem_cons_of_mem _ hp)), scratchPieces, scratchPieces, List.map_cons, hval]
    rfl

theorem admitWrites_ok {s : State} (l : List (Piece × Loc)) (h : ∀ x ∈ l, Quiet s x.2 x.1.n ∧ PlainWrite s x.2 x.1.n) :
    admitWrites l s = .ok () s := by
  induction l with
  | nil => rfl
  | cons x l ih =>
    obtain ⟨hq, hw⟩ := h x List.mem_cons_self
    rw [admitWrites, M.bind_ok _ (admitWrite_quiet hq hw _ _)]
    exact ih fun y hy => h y (List.mem_cons_of_mem _ hy)

/-! ### The bytes of a contiguous store -/

/-- What stores to scratchpads leave of the rest: threads but for their monitors. -/
structure ScratchWritten (s t : State) : Prop where
  turn : t.turn = s.turn
  woken : Woken s.th t.th
  reds : NoReds t
  held : t.heldOrder = s.heldOrder

theorem ScratchWritten.refl {s : State} (h : NoReds s) : ScratchWritten s s := ⟨rfl, .refl _, h, rfl⟩

theorem ScratchWritten.trans {s t u : State} (h : ScratchWritten s t) (k : ScratchWritten t u) : ScratchWritten s u :=
  ⟨k.turn.trans h.turn, h.woken.trans k.woken, k.reds, k.held.trans h.held⟩

theorem store_scratch_held (s : State) (b : Behalf) (r o n v : Nat) : (s.store b (scratchLoc r o) n v).heldOrder = s.heldOrder := by
  show (State.wake _ _ _).heldOrder = _
  unfold State.wake
  dsimp only
  split <;> rfl

/-- A store that is performed at the own scratchpad. -/
theorem writeNow_scratch {s : State} (hr : NoReds s) (hh : s.heldOrder = []) (v : Word) (o n x : Nat) :
    ∃ t, writeNow { sb := 0xF0, v := v } (scratchLoc s.turn.rank o) n x s = .ok () t ∧ ScratchWritten s t
      ∧ t.mem = Memory.writeN s.mem (scratchLoc s.turn.rank o).key n x := by
  have harr : s.arrived (scratchLoc s.turn.rank o) n = s := by
    have hhome : (scratchLoc s.turn.rank o).home = s.turn.rank := rfl
    simp only [State.arrived, hhome, ne_eq, not_true_eq_false, if_false, hh, if_true, recall_noReds hr]
  obtain ⟨hmem, hturn, hwoken⟩ := store_scratch s s.behalf s.turn.rank o n x
  have hreds := NoReds.store_scratch hr s.behalf s.turn.rank o n x
  have hheld := store_scratch_held s s.behalf s.turn.rank o n x
  have hrun : writeNow { sb := 0xF0, v := v } (scratchLoc s.turn.rank o) n x s
      = .ok () ((s.store s.behalf (scratchLoc s.turn.rank o) n x).modTh (·.markStack { sb := 0xF0, v := v })) := by
    simp only [writeNow, M.bind_apply, upd_apply, updTh_apply, harr, write_scratch]
  generalize s.store s.behalf (scratchLoc s.turn.rank o) n x = t at *
  have hmark : t.th.markStack { sb := 0xF0, v := v } = t.th := rfl
  rw [State.modTh_eq, hmark] at hrun
  exact ⟨_, hrun, ⟨hturn, by rw [State.th_setTh]; exact hwoken, noReds_setTh hreds _, hheld⟩, hmem⟩

theorem writeNows_contiguous {ga : Ptr} {w len : Nat} (hsb : ga.sb = 0xF0) (hal : ga.v.toNat % 64 = 0) (hfit : ga.v.toNat + len ≤ 0x340000) (img : Nat)
    (fuel : Nat) {s : State} {off : Nat} (hr : NoReds s) (hh : s.heldOrder = []) (hwf : Memory.wf s.mem = true) (hoff : off % 64 = 0 ∨ len ≤ off)
    (hlen : len ≤ off + 64 * fuel) :
    ∃ t, writeNows img (scratchPieces s.turn.rank (contiguous ga w fuel off len)) s = .ok () t ∧ ScratchWritten s t
      ∧ SameBytes t.mem (Memory.writeN s.mem ((scratchLoc s.turn.rank ga.v.toNat).key + off) (len - off) (img / 256 ^ off)) := by
  induction fuel generalizing s off with
  | zero => exact ⟨s, rfl, .refl hr, fun b => by rw [show len - off = 0 by omega]; rfl⟩
  | succ fuel ih =>
    by_cases h : off < len
    · rw [contiguous_cons hsb fuel h hfit]
      generalize hn : min (64 - (ga.v.toNat + off) % 64) (len - off) = n
      have hkey : (scratchLoc s.turn.rank (word (ga.v.toNat + off)).toNat).key = (scratchLoc s.turn.rank ga.v.toNat).key + off := by
        rw [word_toNat (by omega)]
        simp only [Loc.key, scratchLoc]
        omega
      obtain ⟨t, hw, hst, hmem⟩ := writeNow_scratch hr hh (word (ga.v.toNat + off)) (word (ga.v.toNat + off)).toNat n (img / 2 ^ (8 * off) % 2 ^ (8 * n))
      rw [hkey, ← pow_256, ← pow_256] at hmem
      have hwft : Memory.wf t.mem = true := by rw [hmem]; exact Memory.wf_writeN hwf _ _ _
      obtain ⟨u, hws, htu, hbytes⟩ := ih (s := t) (off := off + n) hst.reds (hst.held.trans hh) hwft (by omega) (by omega)
      refine ⟨u, ?_, hst.trans htu, fun b => ?_⟩
      · rw [hst.turn] at hws
        rw [scratchPieces, List.map_cons, writeNows, M.bind_ok _ hw]
        exact hws
      · rw [hbytes b, hst.turn, ← Nat.add_assoc, Nat.pow_add, ← Nat.div_div_eq_div_mul,
          SameBytes.writeN (hmem ▸ writeN_mod hwf _ _ _) _ _ _ hwft (Memory.wf_writeN hwf _ _ _) b, writeN_append hwf,
          show n + (len - (off + n)) = len - off by omega]
    · rw [contiguous_nil _ (Nat.not_lt.1 h)]
      exact ⟨s, rfl, .refl hr, fun b => by rw [show len - off = 0 by omega]; rfl⟩

/-! ### A drain into the own scratchpad -/

section
variable {s : State} {f : FmtX} {n : Fin 8} {ty : ElemType} {res : Nat → Nat × Flags} {fl : Flags}

theorem execMdrain_scratch {l : Loc} (hinv : Inv s) (hd : Drains s f n ty res fl) (hun : Untrapped s.th fl) (h1 : f.fl.val % 4 = 1)
    (hsb : (s.th.get f.z).sb = 0xF0) (hslot : s.turn.slot ≠ 4) (hal : (s.th.get f.z).v.toNat % 64 = 0)
    (hfit : (s.th.get f.z).v.toNat + 128 * ty.memBits ≤ 0x340000) (hl : l = scratchLoc s.turn.rank (s.th.get f.z).v.toNat)
    (hquiet : QuietRange s l (128 * ty.memBits)) (hplain : PlainRange s l (128 * ty.memBits)) :
    ∃ t, exec (.mdrain f) s = .next t ∧ Keeps (drainFoot f) s.th t.th ∧ Flagged s.th t.th fl ∧ t.th.pc = s.th.pc.add 4
      ∧ t.th.get f.x = held f.x (.int (drainWord (s.th.acc n)))
      ∧ (∀ k, k < 1024 → t.peek l (128 * ty.memBits) / 2 ^ (ty.memBits * k) % 2 ^ ty.memBits = (res k).1 % 2 ^ ty.memBits)
      ∧ ∀ k : Loc, k.key < l.key ∨ l.key + 128 * ty.memBits ≤ k.key → t.byteAt k = s.byteAt k := by
  obtain ⟨v, sr, seed, b, hread, hrun⟩ := execMdrain_run hd hun
    { kind := by omega, queue := fun h => by omega, regs := fun h => by omega }
  have hload := hread.loaded
  have hth : v.th = s.th := hload.th
  have hbits := drainTypes_bits hd.type
  have hpos : 0 < 128 * ty.memBits ∧ 128 * ty.memBits ≤ 64 * 256 := by
    simp only [List.mem_cons, List.not_mem_nil, or_false] at hbits; omega
  have hthat : v.th.get f.z = s.th.get f.z := by rw [hth]
  have hslotv : v.turn.slot ≠ 4 := by rw [hload.turn]; exact hslot
  have hheld : v.heldOrder = [] := (hread.quiet _ _ (hquiet 0 1 Nat.one_pos (by omega))).held
  generalize s.th.get f.z = ga at hsb hal hfit hl hthat
  subst hl
  generalize hps : contiguous ga 64 256 0 (128 * ty.memBits) = ps
  have hmem : ∀ p ∈ ps, ∃ o, p.ga = { sb := 0xF0, v := word (ga.v.toNat + o) } ∧ 0 < p.n ∧ o + p.n ≤ 128 * ty.memBits := hps ▸ contiguous_mem hsb 256 hfit
  have hplaces : ∀ x ∈ scratchPieces s.turn.rank ps, Quiet v x.2 x.1.n ∧ PlainWrite v x.2 x.1.n := by
    intro x hx
    obtain ⟨p, hp, rfl⟩ := List.mem_map.1 hx
    obtain ⟨o, hga, hn, hle⟩ := hmem p hp
    have hplace : scratchLoc s.turn.rank p.ga.v.toNat = scratchLoc s.turn.rank (ga.v.toNat + o) := by rw [hga, word_toNat (by omega)]
    dsimp only
    rw [hplace]
    exact ⟨hread.quiet _ _ (hquiet o p.n hn hle), hread.plain _ _ (hplain o p.n hn hle)⟩
  have hfree : (scratchPieces s.turn.rank ps).find? (fun p => v.fixedLoc p.2) = none := by
    rw [List.find?_eq_none]
    exact fun x hx => by rw [(hplaces x hx).2.free]; exact Bool.false_ne_true
  have hcheck : checkPieces 1 .store ps v = .ok (scratchPieces s.turn.rank ps) v := by
    rw [← hload.turn]
    refine checkPieces_scratch hslotv ps fun p hp => ?_
    obtain ⟨o, hga, hn, hle⟩ := hmem p hp
    exact ⟨_, hga, by omega⟩
  have hpre : precheck ga 1 64 2 v = .ok () v := by
    rw [precheck_scratch hslotv hsb, if_neg (by omega), if_neg (by omega)]
  have hdest : drainDest (.mdrain f) f (128 * ty.memBits) v = .ok (scratchPieces s.turn.rank ps) v := by
    simp only [drainDest, h1, M.bind_apply, M.get_apply, thread_apply, hthat, hpre, hps, hcheck, hfree, M.pure_apply]
  obtain ⟨u, hws, hst, hbytes⟩ := writeNows_contiguous (w := 64) (len := 128 * ty.memBits) hsb hal hfit (drainImage ty res) 256 (s := v) (off := 0)
    hload.reds hheld (by rw [hload.mem]; exact hinv) (.inl rfl) (by omega)
  rw [hps, hload.turn] at hws
  rw [hload.mem, hload.turn, Nat.sub_zero, Nat.pow_zero, Nat.div_one, Nat.add_zero] at hbytes
  have hwrite : drainWrite f (drainImage ty res) (128 * ty.memBits) (scratchPieces s.turn.rank ps) v = .ok () u := by
    simp only [drainWrite, h1, writePieces, M.bind_apply, admitWrites_ok _ hplaces, hws]
  have hexec := hrun _ _ hdest hwrite
  have hwoken : Woken s.th u.th := hth ▸ hst.woken
  obtain ⟨hke, hfl, hpc, hget⟩ := drainEnd_claims (drainFoot_claims f) (Keeps.woken rfl hwoken) (Woken.fpctl hwoken) (Woken.pc hwoken) rfl
  refine ⟨_, hexec, hke, hfl, hpc, hget, fun k hk => ?_, fun k hk => ?_⟩
  · have hpeek : Memory.readN u.mem (scratchLoc s.turn.rank ga.v.toNat).key (128 * ty.memBits) = drainImage ty res % 256 ^ (128 * ty.memBits) := by
      rw [Memory.readN_congr _ _ fun i _ => hbytes _, Memory.readN_writeN_self hinv]
    show Memory.readN u.mem _ _ / _ % _ = _
    rw [hpeek, pow_256, mod_div_mod _ ?_, drainImage_field hk]
    simp only [List.mem_cons, List.not_mem_nil, or_false] at hbits
    rcases hbits with e | e | e | e <;> rw [e] <;> omega
  · show Memory.read u.mem k.key = Memory.read s.mem k.key
    rw [hbytes, Memory.read_writeN_out _ _ hk]

end

end Sys2Proof.Machine
end

section
/-!
The statement about accumulators and their drain, from its parts (R70, R130, R132, R135, R136, R233, R236-R240).
-/

namespace Sys2Proof.Machine

open Claims

/-- Settles O28. Each member is the run of its word: a binding (`bindWord_fields`), a clearing (`cleared_fields`), the check
(`checkAcc_passes`, `checkAcc_fails`, `checkAcc_corrects`), the seal (`seal_acc`); a drain runs to its write (`execMdrain_run`), which appends tiles (`appendTiles_appended`),
stores granules (`writeNows_contiguous`) or writes registers (`vget_drainGroup`). It rests on three choices of the model's log: a
drain scales by the entry of the tid that the binding names, valid or not (entry 37), `mbind` takes the KIND of the A entry
without asking for its V (entry 82), and a line of a check that cannot be compared does not fail (entry 73). -/
theorem accumulatorsDrain : Obligations.AccumulatorsDrain := by
  unfold Obligations.AccumulatorsDrain
  refine ⟨⟨?mbind, ?mzero, ?mchk, ?mfix⟩, ?mdrain⟩
  case mbind =>
    intro f s n l w aKind cls k _ hn hy hmit hbusy heven hodd he hv het hints hnone hcls hkind hk
    obtain ⟨u, hexec, hth, hmem⟩ := execMbind_binds hn hy hmit hbusy heven hodd he hv het hints hnone hcls hkind
    exact ⟨_, hexec, bindIssued_bound hy (hcls ▸ boundClass_lt w aKind) hk hth hmem⟩
  case mzero =>
    intro f s n hn hbusy
    obtain ⟨t, hexec, halone, hpc, hi, hkeep, hacc⟩ := execMzero_clears hn hbusy
    refine ⟨t, hexec, halone, hpc, hi, hkeep, fun k hk => ?_⟩
    rw [hacc k hk]
    exact cleared_fields _
  case mchk =>
    intro f s n a l fr fc hn hbusy ha hl hfr hfc
    subst ha hl hfr hfc
    refine ⟨execMchk_unchecked hn hbusy, fun hchk hr hc => ?_, fun hchk hctrap h hroll => ?_, fun hchk hctrap h hdom hroll => ?_,
      fun r c hchk hcls hr hc hr' hc' => ?_⟩
    · obtain ⟨t, v, hexec, hcomp, hget, hst⟩ := execMchk_passes (f := f) hn hbusy hchk hr hc
      exact ⟨t, v, hexec, hcomp, hget, hst.low, hst.sat, hst.lines, hst.corr⟩
    · obtain ⟨t, v, hexec, hbytes, hkeep, hpc, hget, hst⟩ := execMchk_failing (f := f) hn hbusy hchk hctrap hroll rfl rfl h
      exact ⟨t, v, hexec, hbytes, hkeep, hpc, hget, hst.cause, hst.rows, hst.cols⟩
    · exact execMchk_traps hn hbusy hchk hctrap hroll hdom h
    · obtain ⟨t, v, hexec, hkeep, hget, hst, hcorr, helems⟩ := execMchk_corrects (f := f) hn hbusy hchk rfl hcls rfl hr hc hr' hc'
      exact ⟨t, v, hexec, hkeep, hget, hst.cause, hst.fixed, hcorr, helems⟩
  case mfix =>
    intro f s n cls hn hv hbusy hload hcls
    obtain ⟨t, hexec, halone, hpc, hkeep, hacc⟩ := execMfix_seals hn hv hbusy hload
    refine ⟨t, hexec, halone, hpc, hkeep, ?_⟩
    rw [hacc]
    exact (seal_acc s.th n cls hcls).2
  case mdrain =>
    intro f s n ty res fl foot hinv hd hun hfoot
    subst hfoot
    refine ⟨fun h0 hz hcfg hresv hroom _ _ => ?_, fun l h1 hsb hslot hal hfit hl hq hp => ?_, fun h2 hz => ?_⟩
    · exact execMdrain_queue hinv hd hun h0 hz hcfg hresv hroom
    · exact execMdrain_scratch hinv hd hun h1 hsb hslot hal hfit hl hq hp
    · exact execMdrain_registers hd hun h2 hz

end Sys2Proof.Machine
end
